-- ==== Sys2Proof/Word.lean ====
section
/-! DEFINITION. The machine's word types: a byte, a 64-bit register and a 512-bit vector register
(spec/00 R3, spec/02 R20 R24). -/

namespace Sys2Proof

/-- One byte of memory. -/
abbrev Byte := BitVec 8
/-- A 64-bit register, queue word or pointer (R20, R42). -/
abbrev Word := BitVec 64
/-- A 512-bit vector register or queue entry (R24, R101). -/
abbrev Vec := BitVec 512

end Sys2Proof
end

