-- ==== Sys2Proof/Config.lean ====
section
/-! DEFINITION. What is fixed for the machine: the counts of spec/00 R2 and spec/01 R8, and the values that the spec
leaves open, each an opaque constant that nothing can evaluate. -/

namespace Sys2Proof.Config

/-- Compute cores (R2). -/
def nCompute : Nat := 655360
/-- The first index past the channel cores (R107). -/
def nChannelEnd : Nat := 656384
/-- The first index past the gateway cores (R107). -/
def nHarts : Nat := 656896
/-- Scratchpad bytes of a compute core (R45). -/
def scratchBytes : Nat := 196608
/-- Scratchpad bytes of a context of a channel or gateway core (R131). -/
def ctxBytes : Nat := 65536
/-- Clusters (R2). -/
def nClusters : Nat := 81920

/-- A word that the spec does not state, fresh for each number (log 4). -/
opaque freeWord : Nat → Word
/-- A DETAIL that the spec does not state (log 4). -/
opaque freeDetail : Nat → BitVec 12
/-- A choice that the spec leaves open (log 4, log 7). -/
opaque freeChoice : Nat → Nat
/-- Which of several equal winners vx.amax takes, by the format code, the mask and the source (R281; log 18). -/
opaque amaxPick : Nat → Word → Vec → Nat
/-- ML-DSA-65 verification: public key, message, signature (R148; log 5). -/
opaque mlDsaVerify : List Byte → List Byte → List Byte → Bool
/-- The 32-byte shared secret of an ML-KEM-768 ciphertext under the module's key (R148; log 5). -/
opaque mlKemSecret : List Byte → List Byte
/-- SHAKE256 of the module's ML-KEM-768 public key (R148; log 6). -/
opaque deviceId : BitVec 256
/-- What the module flash holds (R1), by the bytes that boot has measured: the operator root's ML-DSA-65 public key (R148), and
the spare rows that the repair map uses on a chiplet (R10, R183). Where they stand in flash is not given (log 61). -/
opaque operatorRootOf : List (Nat × Byte) → List Byte
opaque spareRowsOf : List (Nat × Byte) → Nat → Nat
/-- Does the link set-up in flash bring a port into use (R1; log 61)? -/
opaque linkSetUp : List (Nat × Byte) → Nat → Bool
/-- The module's identifier on its links, by the link set-up in flash (R1, R139; log 61). -/
opaque moduleIdOf : List (Nat × Byte) → Nat
/-- Where a contribution to a collective block is put in its gateway core's scratchpad (R134; log 9). -/
opaque flitPlace : List Word → Nat
/-- The device's residue key (R153; log 6). -/
opaque residueKey : List Byte
/-- IEEE 1588 time in nanoseconds at a cycle (R182, R183; log 6). -/
opaque time1588 : Nat → Word
/-- Is a gateway core assigned to a plat (R345; log 9)? -/
opaque gatewayOf : Nat → Nat → Bool
/-- What a link flit's body gives a collective block, and the context it reaches: block number, contributor rank, contributor
count, timeout and context (R134, R135; log 9). -/
opaque flitBlock : List Word → Nat
opaque flitRank : List Word → Nat
opaque flitCount : List Word → Nat
opaque flitTimeout : List Word → Nat
opaque flitContext : List Word → Nat
/-- The exchange tick's length and delay as the survey firmware sets them (R140; log 9). -/
opaque tickLength : Nat
opaque tickDelay : Nat
/-- Temperatures of stacks and chiplets in 0.1 degrees at a cycle (R183; log 6). -/
opaque temperature : Nat → Nat → Word
/-- The firmware version of the gazetteer, and the operator root's digest prefix by its key (R183; log 6). -/
opaque firmwareVersion : BitVec 32
opaque rootPrefix : List Byte → BitVec 32

end Sys2Proof.Config
end

