-- ==== Sys2Proof/Syntax.lean ====
section
/-! DEFINITION. The instruction syntax: the operand classes of spec/12 R211 and R344, and one constructor for
every row of the opcode table. Words of the C-side, words of the X-side, lone bundles, and the events, which
have no encoding (spec/95). -/

namespace Sys2Proof

/-- A field of A class read as a source (R211): a register, a pop of sq0, sq1 or cq, a stream register, or z. -/
inductive ASrc where
  | a (n : Fin 16) | sq (n : Fin 2) | cq | sm (n : Fin 4) | z
deriving DecidableEq, Repr

/-- A field of A class written as a destination (R211): a register, a push to lq0 to lq3, a stream register, or z. -/
inductive ADst where
  | a (n : Fin 16) | lq (n : Fin 4) | sm (n : Fin 4) | z
deriving DecidableEq, Repr

/-- A field of E scalar class read as a source (R211). -/
inductive ESrc where
  | e (n : Fin 16) | lq (n : Fin 4) | z
deriving DecidableEq, Repr

/-- A field of E scalar class written as a destination (R211). -/
inductive EDst where
  | e (n : Fin 16) | sq (n : Fin 2) | cq | z
deriving DecidableEq, Repr

/-- A field of E vector class read as a source (R211). -/
inductive VSrc where
  | v (n : Fin 8) | lq (n : Fin 4) | z
deriving DecidableEq, Repr

/-- A field of E vector class written as a destination (R211). -/
inductive VDst where
  | v (n : Fin 8) | sq (n : Fin 2) | cq | z
deriving DecidableEq, Repr

/-- A register-only field of R344. -/
inductive ARegZ where
  | a (n : Fin 16) | z
deriving DecidableEq, Repr

/-- Access sizes of R208. -/
inductive Size where
  | b1 | b2 | b4 | b8 | b64
deriving DecidableEq, Repr

/-- ORD codes of R83. -/
inductive Ord where
  | plain | acq | rel | sc
deriving DecidableEq, Repr

/-- SC codes of R83, the scopes of R84. -/
inductive Scope where
  | core | cluster | plat | module | system
deriving DecidableEq, Repr

/-- Repair-line classes of R64. -/
inductive OrcClass where
  | fp32 | fp16 | bf16 | swap | sbs | cas | fma
deriving DecidableEq, Repr

/-- Floating-point formats of the f field of R216. -/
inductive FpFmt where
  | fp32 | fp16 | bf16 | e8m10
deriving DecidableEq, Repr

/-- Lane widths of the w field of R216. -/
inductive LaneW where
  | w8 | w16 | w32 | w64
deriving DecidableEq, Repr

/-- The two sides of a slot (R106). -/
inductive Side where
  | aSide | eSide
deriving DecidableEq, Repr

/-- The two engines of a cluster (R28 KIND 3 INFO[8]). -/
inductive Engine where
  | mxe | cpe
deriving DecidableEq, Repr

/-- Where a memory error stands (R59): a scratchpad word, an L1 line of a hart, an L2 line of a cluster, a
last-level cache line, or a granule of HBM. -/
inductive ErrPlace where
  | scratch (hart offset : Nat)
  | l1 (hart line : Nat)
  | l2 (cluster line : Nat)
  | llc (addr : Nat)
  | hbm (addr : Nat)
deriving DecidableEq, Repr

/-- The steps of the machine: one constructor for each row of the opcode table. The compiler builds no value of a
constructor with fields past the 244th, so nine words and the events stand last. -/
inductive Instr where
  /-- R234: Waits until a word of the own scratchpad differs from T, then reads it as an acquire into D. -/
  | ctlWait (d : ADst) (s t : ASrc)
  /-- R228: Pushes the return address and transfers to the bundle index held in S. -/
  | ctlCallr (s : ASrc)
  /-- R228: Transfers to the bundle index held in S. -/
  | ctlJr (s : ASrc)
  /-- R226: Always branches to its own bundle plus OFF. -/
  | brAl (off : BitVec 17)
  /-- R226: Branches when S is zero. -/
  | brZ (s : ASrc) (off : BitVec 17)
  /-- R226: Branches when S is nonzero. -/
  | brNz (s : ASrc) (off : BitVec 17)
  /-- R226: Branches when S, taken as signed, is below zero. -/
  | brLz (s : ASrc) (off : BitVec 17)
  /-- R226: Branches when S, taken as signed, is at least zero. -/
  | brGez (s : ASrc) (off : BitVec 17)
  /-- R226: Branches when S, taken as signed, is above zero. -/
  | brGz (s : ASrc) (off : BitVec 17)
  /-- R226: Branches when S, taken as signed, is at most zero. -/
  | brLez (s : ASrc) (off : BitVec 17)
  /-- R227: Pushes p+1 and transfers to p+OFF as one step. -/
  | ctlCall (off : BitVec 17)
  /-- R227: Decrements the counter in S and branches to p+OFF when the result is nonzero. -/
  | ctlLoop (s : Fin 16) (off : BitVec 17)
  /-- R236: D := S + T modulo 2^64. -/
  | aluAdd (d : ADst) (s t : ASrc)
  /-- R236: D := S - T modulo 2^64. -/
  | aluSub (d : ADst) (s t : ASrc)
  /-- R236: D := S AND T. -/
  | aluAnd (d : ADst) (s t : ASrc)
  /-- R236: D := S OR T. -/
  | aluOr (d : ADst) (s t : ASrc)
  /-- R236: D := S XOR T. -/
  | aluXor (d : ADst) (s t : ASrc)
  /-- R236: Shifts S left by T[5:0]. -/
  | aluSll (d : ADst) (s t : ASrc)
  /-- R236: Shifts S right logically by T[5:0]. -/
  | aluSrl (d : ADst) (s t : ASrc)
  /-- R236: Shifts S right arithmetically by T[5:0]. -/
  | aluSra (d : ADst) (s t : ASrc)
  /-- R236: D := 1 if S < T signed, else 0. -/
  | aluSlt (d : ADst) (s t : ASrc)
  /-- R236: D := 1 if S < T unsigned, else 0. -/
  | aluSltu (d : ADst) (s t : ASrc)
  /-- R236: D := 1 if S = T, else 0. -/
  | aluSeq (d : ADst) (s t : ASrc)
  /-- R236: D := 1 if S differs from T, else 0. -/
  | aluSne (d : ADst) (s t : ASrc)
  /-- R236: D := the signed minimum of S and T. -/
  | aluMin (d : ADst) (s t : ASrc)
  /-- R236: D := the signed maximum of S and T. -/
  | aluMax (d : ADst) (s t : ASrc)
  /-- R236: D := the unsigned minimum of S and T. -/
  | aluMinu (d : ADst) (s t : ASrc)
  /-- R236: D := the unsigned maximum of S and T. -/
  | aluMaxu (d : ADst) (s t : ASrc)
  /-- R236: D := the low 64 bits of S x T. -/
  | aluMul (d : ADst) (s t : ASrc)
  /-- R236: D := the high 64 bits of the signed product S x T. -/
  | aluMulh (d : ADst) (s t : ASrc)
  /-- R236: D := the high 64 bits of the unsigned product S x T. -/
  | aluMulhu (d : ADst) (s t : ASrc)
  /-- R237: Signed division truncated towards zero; never faults. -/
  | aluDiv (d : ADst) (s t : ASrc)
  /-- R237: Unsigned division; never faults. -/
  | aluDivu (d : ADst) (s t : ASrc)
  /-- R237: Signed remainder, taking the sign of S. -/
  | aluRem (d : ADst) (s t : ASrc)
  /-- R237: Unsigned remainder. -/
  | aluRemu (d : ADst) (s t : ASrc)
  /-- R238: Composes a mesh or order-repair pointer from a core index and an offset. -/
  | aluMkm (d : ADst) (s t : ASrc) (sp : BitVec 4)
  /-- R238: Composes an extent-space or H=1 repair pointer. -/
  | aluMkx (d : ADst) (s t : ASrc) (sp : BitVec 4)
  /-- R238: Composes an engine-register or message-port pointer. -/
  | aluMks (d : ADst) (s t : ASrc) (sp : BitVec 4)
  /-- R239: D := S plus the sign-extended immediate. -/
  | aluiAddi (d : ADst) (s : ASrc) (imm : BitVec 15)
  /-- R239: D := S AND the zero-extended immediate. -/
  | aluiAndi (d : ADst) (s : ASrc) (imm : BitVec 15)
  /-- R239: D := S OR the zero-extended immediate. -/
  | aluiOri (d : ADst) (s : ASrc) (imm : BitVec 15)
  /-- R239: D := S XOR the zero-extended immediate. -/
  | aluiXori (d : ADst) (s : ASrc) (imm : BitVec 15)
  /-- R239: Shifts S left by IMM[5:0]. -/
  | aluiSlli (d : ADst) (s : ASrc) (sh : BitVec 6)
  /-- R239: Shifts S right logically by IMM[5:0]. -/
  | aluiSrli (d : ADst) (s : ASrc) (sh : BitVec 6)
  /-- R239: Shifts S right arithmetically by IMM[5:0]. -/
  | aluiSrai (d : ADst) (s : ASrc) (sh : BitVec 6)
  /-- R239: D := 1 if S is below the sign-extended immediate, else 0. -/
  | aluiSlti (d : ADst) (s : ASrc) (imm : BitVec 15)
  /-- R242: Loads 1 to 64 bytes, sign-extending, into a register or an lq queue. -/
  | memLd (d : ADst) (base : ASrc) (sz : Size) (ord : Ord) (sc : Scope) (off : BitVec 7)
  /-- R242: Loads 1 to 64 bytes, zero-extending, into a register or an lq queue. -/
  | memLdu (d : ADst) (base : ASrc) (sz : Size) (ord : Ord) (sc : Scope) (off : BitVec 7)
  /-- R242: Stores 1 to 64 bytes from a register or a queue. -/
  | memSt (d base : ASrc) (sz : Size) (ord : Ord) (sc : Scope) (off : BitVec 7)
  /-- R246: Returns the next page of an extent that lies on the channel core's own pseudo-channel and advances the cursor. -/
  | memExtpage (d : ADst) (base : ASrc)
  /-- R247: Atomic 8-byte add at the home or in a U copy. -/
  | amoAdd (d : ADst) (s t : ASrc) (ord : Ord) (sc : Scope)
  /-- R247: Atomic 8-byte AND. -/
  | amoAnd (d : ADst) (s t : ASrc) (ord : Ord) (sc : Scope)
  /-- R247: Atomic 8-byte OR. -/
  | amoOr (d : ADst) (s t : ASrc) (ord : Ord) (sc : Scope)
  /-- R247: Atomic 8-byte XOR. -/
  | amoXor (d : ADst) (s t : ASrc) (ord : Ord) (sc : Scope)
  /-- R247: Atomic 8-byte signed maximum. -/
  | amoMax (d : ADst) (s t : ASrc) (ord : Ord) (sc : Scope)
  /-- R247: Atomic 8-byte signed minimum. -/
  | amoMin (d : ADst) (s t : ASrc) (ord : Ord) (sc : Scope)
  /-- R247: Atomic 8-byte unsigned maximum. -/
  | amoMaxu (d : ADst) (s t : ASrc) (ord : Ord) (sc : Scope)
  /-- R247: Atomic 8-byte unsigned minimum. -/
  | amoMinu (d : ADst) (s t : ASrc) (ord : Ord) (sc : Scope)
  /-- R248: Folds an FP32 absolute value into the OPEN or CLOSED partial of an amax line, according to the issuer's ply. -/
  | amoAmax (s t : ASrc) (ord : Ord) (sc : Scope)
  /-- R248: Folds a BF16 absolute value into an amax line. -/
  | amoAmaxb (s t : ASrc) (ord : Ord) (sc : Scope)
  /-- R78: Reads and resets the FP32 CLOSED partials at the stamp cut End(c-1). -/
  | amoMaxrd (d : ADst) (s : ASrc) (ord : Ord) (sc : Scope)
  /-- R249: Declares a 64-byte granule as an order-repair line of the given class. -/
  | orcDecl (s : ASrc) (cls : OrcClass)
  /-- R250: Sends one stamped operation to be appended to a repair line, optionally asking for the prior value. -/
  | orcApp (d : ADst) (s t : ASrc)
  /-- R251: Tentative load of a repair-line element, together with its settled flag. -/
  | orcLdt (d : ADst) (s : ASrc) (t : ADst)
  /-- R252: Settled load of a repair-line element at the bound ply. -/
  | orcLds (d : ADst) (s t : ASrc)
  /-- R253: Blocking read of a future; if the future is empty, a waiter is linked and the slot waits as KIND 4. -/
  | futRd (d : ADst) (s : ASrc)
  /-- R253: Continuation read of a future; the value is delivered as an active message on the named channel. -/
  | futRdc (d : Fin 16) (s t : ASrc)
  /-- R253: Writes an empty future, which serves its waiters under R118. -/
  | futWr (s t : ASrc)
  /-- R253: Empties a full future that has no waiter. -/
  | futClr (s : ASrc)
  /-- R254: Sends a stamped active message from a block of payload registers. -/
  | msgSend (d : BitVec 5) (s t : ASrc) (pri : BitVec 2)
  /-- R254: Sends a stamped data message from a block of payload registers. -/
  | msgSendd (d : BitVec 5) (s t : ASrc) (pri : BitVec 2)
  /-- R255: Sends a reply message that settles a KIND 4 scoreboard entry at the destination. -/
  | msgReply (d s t : ASrc)
  /-- R258: Waits until every earlier operation of the slot is performed at the named scope. -/
  | fenceAll (sc : Scope)
  /-- R292: Checks and queues a dense matrix step into an accumulator slot and returns its job identifier. -/
  | mxqStep (d : ADst) (s : BitVec 5) (t : ARegZ) (acc : Fin 8)
  /-- R295: Checks and queues a sparse matrix step that walks a skip list. -/
  | mxqSteps (d : ADst) (s : BitVec 5) (t : ARegZ) (acc : Fin 8)
  /-- R296: Checks and queues a drain of an accumulator slot to scratchpad. -/
  | mxqDrain (d : ADst) (s : BitVec 5) (t : ARegZ) (acc : Fin 8)
  /-- R297: Reads the state code of a matrix job; reading state 2 acquires. -/
  | mxqPoll (d : ADst) (s : ARegZ)
  /-- R297: Sleeps as KIND 3 until a matrix job completes. -/
  | mxqSleep (s : ARegZ)
  /-- R297: Queues a reclaim of an orphaned accumulator slot. -/
  | mxqReclaim (acc : Fin 8)
  /-- R298: Sends a remote command to a matrix engine port. -/
  | mxqRcmd (s : BitVec 5) (t : ARegZ)
  /-- R299: Submits a copy command. -/
  | cpqCopy (d : ADst) (s : BitVec 5) (q : Fin 4)
  /-- R300: Submits a reducing FP32-add copy command. -/
  | cpqAddf (d : ADst) (s : BitVec 5) (q : Fin 4)
  /-- R300: Submits a reducing BF16-add copy command. -/
  | cpqAddb (d : ADst) (s : BitVec 5) (q : Fin 4)
  /-- R300: Submits a reducing INT32-add copy command. -/
  | cpqAddi (d : ADst) (s : BitVec 5) (q : Fin 4)
  /-- R95: Submits a copy barrier that orders the engine's queues. -/
  | cpqBar (d : ADst) (q : Fin 4)
  /-- R299: Submits a fill command. -/
  | cpqFill (d : ADst) (s : BitVec 5) (q : Fin 4)
  /-- R297: Reads the state code of a copy job. -/
  | cpqPoll (d : ADst) (s : ARegZ)
  /-- R297: Sleeps until a copy job completes. -/
  | cpqSleep (s : ARegZ)
  /-- R298: Sends a remote command to a copy engine port. -/
  | cpqRcmd (s : BitVec 5) (t : ARegZ)
  /-- R307: ACT 0: redoes every valid scoreboard entry, restores the saved path and returns to tpc. -/
  | sysResumeReturn (s t : ASrc)
  /-- R311: Fences, reads and checks an onward capsule image, and makes it the pending chain. -/
  | sysChain (s t : ASrc)
  /-- R311: Fences, reads and checks a capsule image, and places it in the wait list as an independent launch. -/
  | sysLaunch (s t : ASrc)
  /-- R312: Sets or clears MASK of a handler entry on this core. -/
  | sysChmask (s t : ASrc)
  /-- R312: Cancels every launch counted by one of the capsule's own counters. -/
  | sysCancel (s : ASrc)
  /-- R312: Posts a 256-bit step digest for replica comparison. -/
  | sysDigest (s t : ASrc)
  /-- R310: Ends the launch with a program fault code of the capsule's choosing. -/
  | sysFail (s : ASrc)
  /-- R306: Reads a status, trap, core or unit register by its number. -/
  | sysRdsr (d : ADst) (num : BitVec 12)
  /-- R306: Writes the RW fields of a status or trap register by its number. -/
  | sysWrsr (s : ASrc) (num : BitVec 12)
  /-- R290: A-side prefix that supplies formats and scales to the next governable C-word. -/
  | fmtSetA (fd fa fb : BitVec 4) (scl : BitVec 2)
  /-- R230: Loads a sign-extended 32-bit immediate; takes a lone bundle. -/
  | liSx (d : ADst) (imm : BitVec 32)
  /-- R230: Loads a zero-extended 32-bit immediate; takes a lone bundle. -/
  | liZx (d : ADst) (imm : BitVec 32)
  /-- R230: Places the immediate in the high half and S[31:0] in the low half. -/
  | liHi (d : ADst) (s : ASrc) (imm : BitVec 32)
  /-- R229: Transfers to S plus a 32-bit immediate. -/
  | jmplGo (s : ASrc) (imm : BitVec 32)
  /-- R229: Pushes the return address and transfers to S plus a 32-bit immediate. -/
  | jmplCall (s : ASrc) (imm : BitVec 32)
  /-- R256: Lone-bundle send of an active message whose header comes from the immediate. -/
  | sendlAct (d : BitVec 5) (s : ASrc) (imm : BitVec 32)
  /-- R256: Lone-bundle send of a data message whose header comes from the immediate. -/
  | sendlData (d : BitVec 5) (s : ASrc) (imm : BitVec 32)
  /-- R262: E-side 64-bit add. -/
  | iaAdd (d : EDst) (s t : ESrc)
  /-- R262: E-side 64-bit subtract. -/
  | iaSub (d : EDst) (s t : ESrc)
  /-- R262: E-side AND. -/
  | iaAnd (d : EDst) (s t : ESrc)
  /-- R262: E-side OR. -/
  | iaOr (d : EDst) (s t : ESrc)
  /-- R262: E-side XOR. -/
  | iaXor (d : EDst) (s t : ESrc)
  /-- R262: E-side shift left. -/
  | iaSll (d : EDst) (s t : ESrc)
  /-- R262: E-side logical shift right. -/
  | iaSrl (d : EDst) (s t : ESrc)
  /-- R262: E-side arithmetic shift right. -/
  | iaSra (d : EDst) (s t : ESrc)
  /-- R262: E-side low 64 bits of the product. -/
  | iaMul (d : EDst) (s t : ESrc)
  /-- R262: E-side high 64 bits of the signed product. -/
  | iaMulh (d : EDst) (s t : ESrc)
  /-- R262: E-side high 64 bits of the unsigned product. -/
  | iaMulhu (d : EDst) (s t : ESrc)
  /-- R262: E-side signed division. -/
  | iaDiv (d : EDst) (s t : ESrc)
  /-- R262: E-side unsigned division. -/
  | iaDivu (d : EDst) (s t : ESrc)
  /-- R262: E-side signed remainder. -/
  | iaRem (d : EDst) (s t : ESrc)
  /-- R262: E-side unsigned remainder. -/
  | iaRemu (d : EDst) (s t : ESrc)
  /-- R262: E-side signed minimum. -/
  | iaMin (d : EDst) (s t : ESrc)
  /-- R262: E-side signed maximum. -/
  | iaMax (d : EDst) (s t : ESrc)
  /-- R262: E-side unsigned minimum. -/
  | iaMinu (d : EDst) (s t : ESrc)
  /-- R262: E-side unsigned maximum. -/
  | iaMaxu (d : EDst) (s t : ESrc)
  /-- R262: Counts the leading zero bits of S. -/
  | iaClz (d : EDst) (s : ESrc)
  /-- R262: Counts the trailing zero bits of S. -/
  | iaCtz (d : EDst) (s : ESrc)
  /-- R262: Counts the one bits of S. -/
  | iaPopc (d : EDst) (s : ESrc)
  /-- R262: Selects S or T by bit 0 of a predicate. -/
  | iaSel (d : EDst) (s t : ESrc) (pred : Fin 8)
  /-- R262: E-side signed set-if-less. -/
  | iaSlt (d : EDst) (s t : ESrc)
  /-- R262: E-side unsigned set-if-less. -/
  | iaSltu (d : EDst) (s t : ESrc)
  /-- R262: Saturating signed add that sets SAT when it clamps. -/
  | iaAdds (d : EDst) (s t : ESrc)
  /-- R262: Saturating signed subtract that sets SAT when it clamps. -/
  | iaSubs (d : EDst) (s t : ESrc)
  /-- R263: E-side add of a signed 16-bit immediate. -/
  | iaiAddi (d : EDst) (s : ESrc) (imm : BitVec 16)
  /-- R263: E-side AND with an unsigned immediate. -/
  | iaiAndi (d : EDst) (s : ESrc) (imm : BitVec 16)
  /-- R263: E-side OR with an unsigned immediate. -/
  | iaiOri (d : EDst) (s : ESrc) (imm : BitVec 16)
  /-- R263: E-side XOR with an unsigned immediate. -/
  | iaiXori (d : EDst) (s : ESrc) (imm : BitVec 16)
  /-- R263: E-side shift left by an immediate. -/
  | iaiSlli (d : EDst) (s : ESrc) (sh : BitVec 6)
  /-- R263: E-side logical shift right by an immediate. -/
  | iaiSrli (d : EDst) (s : ESrc) (sh : BitVec 6)
  /-- R263: E-side arithmetic shift right by an immediate. -/
  | iaiSrai (d : EDst) (s : ESrc) (sh : BitVec 6)
  /-- R263: Loads the sign-extended immediate shifted left by 16. -/
  | iaiLui (d : EDst) (imm : BitVec 16)
  /-- R264: Floating-point add, rounded once under RM. -/
  | faAdd (d : EDst) (s t : ESrc) (f : FpFmt)
  /-- R264: Floating-point subtract. -/
  | faSub (d : EDst) (s t : ESrc) (f : FpFmt)
  /-- R264: Floating-point multiply. -/
  | faMul (d : EDst) (s t : ESrc) (f : FpFmt)
  /-- R264: Fused S x T + D. -/
  | faFma (d : Fin 16) (s t : ESrc) (f : FpFmt)
  /-- R264: Fused S x T - D. -/
  | faFms (d : Fin 16) (s t : ESrc) (f : FpFmt)
  /-- R264: Fused D - S x T. -/
  | faFnma (d : Fin 16) (s t : ESrc) (f : FpFmt)
  /-- R265: Floating-point minimum. -/
  | faMin (d : EDst) (s t : ESrc) (f : FpFmt)
  /-- R265: Floating-point maximum. -/
  | faMax (d : EDst) (s t : ESrc) (f : FpFmt)
  /-- R264: Clears the sign bit of S. -/
  | faAbs (d : EDst) (s : ESrc) (f : FpFmt)
  /-- R264: Inverts the sign bit of S. -/
  | faNeg (d : EDst) (s : ESrc) (f : FpFmt)
  /-- R266: Reciprocal estimate. -/
  | faRcpe (d : EDst) (s : ESrc) (f : FpFmt)
  /-- R264: Fused reciprocal step 2 - S x T. -/
  | faRcps (d : EDst) (s t : ESrc) (f : FpFmt)
  /-- R266: Reciprocal square-root estimate. -/
  | faRsqe (d : EDst) (s : ESrc) (f : FpFmt)
  /-- R264: Correctly rounded square root. -/
  | faSqrt (d : EDst) (s : ESrc) (f : FpFmt)
  /-- R265: Class mask of S. -/
  | faClass (d : EDst) (s : ESrc) (f : FpFmt)
  /-- R264: Floating-point equal compare. -/
  | faCeq (d : EDst) (s t : ESrc) (f : FpFmt)
  /-- R264: Floating-point less-than compare. -/
  | faClt (d : EDst) (s t : ESrc) (f : FpFmt)
  /-- R264: Floating-point less-or-equal compare. -/
  | faCle (d : EDst) (s t : ESrc) (f : FpFmt)
  /-- R267: Scalar encode, by default from FP32 into TBL8. -/
  | cvtEncS (d : EDst) (s : ESrc)
  /-- R267: Scalar decode, by default from TBL8 into FP32. -/
  | cvtDecS (d : EDst) (s : ESrc)
  /-- R267: Scalar float-to-float conversion. -/
  | cvtCnvS (d : EDst) (s : ESrc)
  /-- R267: Scalar float-to-integer conversion with saturation. -/
  | cvtFtiS (d : EDst) (s : ESrc)
  /-- R267: Scalar integer-to-float conversion. -/
  | cvtItfS (d : EDst) (s : ESrc)
  /-- R313: Writes one decode-table entry and its mirror, then recomputes TORD. -/
  | cvtTblw (s t : ESrc)
  /-- R283: Vector encode of whole registers. -/
  | cvtEncV (d : VDst) (s : VSrc)
  /-- R283: Vector decode of whole registers. -/
  | cvtDecV (d : VDst) (s : VSrc)
  /-- R283: Vector float-to-float conversion. -/
  | cvtCnvV (d : VDst) (s : VSrc)
  /-- R283: Vector float-to-integer conversion. -/
  | cvtFtiV (d : VDst) (s : VSrc)
  /-- R283: Vector integer-to-float conversion. -/
  | cvtItfV (d : VDst) (s : VSrc)
  /-- R283: Narrows one wide vector into part q of a narrow register. -/
  | cvtPack (d : Fin 8) (s : VSrc) (t : ESrc)
  /-- R283: Widens part q of a narrow register into one vector. -/
  | cvtUnpk (d : VDst) (s : VSrc) (t : ESrc)
  /-- R268: Predicate AND. -/
  | prAnd (d s t : Fin 8)
  /-- R268: Predicate OR. -/
  | prOr (d s t : Fin 8)
  /-- R268: Predicate XOR. -/
  | prXor (d s t : Fin 8)
  /-- R268: Predicate S AND NOT T. -/
  | prAndn (d s t : Fin 8)
  /-- R268: Predicate NOT. -/
  | prNot (d s : Fin 8)
  /-- R268: Writes a predicate from a scalar register. -/
  | prSet (d : Fin 8) (s : ESrc)
  /-- R268: Reads a predicate into a scalar register. -/
  | prGet (d : EDst) (s : Fin 8)
  /-- R268: Writes an all-ones or zero mask from S = T. -/
  | prCeq (d : Fin 8) (s t : ESrc)
  /-- R268: Writes a mask from S differing from T. -/
  | prCne (d : Fin 8) (s t : ESrc)
  /-- R268: Writes a mask from signed S < T. -/
  | prClt (d : Fin 8) (s t : ESrc)
  /-- R268: Writes a mask from signed S <= T. -/
  | prCle (d : Fin 8) (s t : ESrc)
  /-- R268: Writes a mask from unsigned S < T. -/
  | prCltu (d : Fin 8) (s t : ESrc)
  /-- R268: Writes a mask from unsigned S <= T. -/
  | prCleu (d : Fin 8) (s t : ESrc)
  /-- R268: D := 1 if S AND T is nonzero. -/
  | prAny (d : EDst) (s t : Fin 8)
  /-- R268: D := 1 if S covers every bit of T. -/
  | prAll (d : EDst) (s t : Fin 8)
  /-- R268: Counts the one bits of S AND T. -/
  | prPopc (d : EDst) (s t : Fin 8)
  /-- R273: Lane-wise integer add. -/
  | vaAdd (d : VDst) (s t : VSrc) (pred : Fin 8) (w : LaneW)
  /-- R273: Lane-wise integer subtract. -/
  | vaSub (d : VDst) (s t : VSrc) (pred : Fin 8) (w : LaneW)
  /-- R273: Lane-wise signed saturating add. -/
  | vaAdds (d : VDst) (s t : VSrc) (pred : Fin 8) (w : LaneW)
  /-- R273: Lane-wise signed saturating subtract. -/
  | vaSubs (d : VDst) (s t : VSrc) (pred : Fin 8) (w : LaneW)
  /-- R273: Lane-wise unsigned saturating add. -/
  | vaAddus (d : VDst) (s t : VSrc) (pred : Fin 8) (w : LaneW)
  /-- R273: Lane-wise unsigned saturating subtract. -/
  | vaSubus (d : VDst) (s t : VSrc) (pred : Fin 8) (w : LaneW)
  /-- R273: Lane-wise low product. -/
  | vaMul (d : VDst) (s t : VSrc) (pred : Fin 8) (w : LaneW)
  /-- R273: Lane-wise signed high product. -/
  | vaMulh (d : VDst) (s t : VSrc) (pred : Fin 8) (w : LaneW)
  /-- R273: Lane-wise AND. -/
  | vaAnd (d : VDst) (s t : VSrc) (pred : Fin 8) (w : LaneW)
  /-- R273: Lane-wise OR. -/
  | vaOr (d : VDst) (s t : VSrc) (pred : Fin 8) (w : LaneW)
  /-- R273: Lane-wise XOR. -/
  | vaXor (d : VDst) (s t : VSrc) (pred : Fin 8) (w : LaneW)
  /-- R273: Lane-wise shift left. -/
  | vaSll (d : VDst) (s t : VSrc) (pred : Fin 8) (w : LaneW)
  /-- R273: Lane-wise logical shift right. -/
  | vaSrl (d : VDst) (s t : VSrc) (pred : Fin 8) (w : LaneW)
  /-- R273: Lane-wise arithmetic shift right. -/
  | vaSra (d : VDst) (s t : VSrc) (pred : Fin 8) (w : LaneW)
  /-- R273: Lane-wise signed minimum. -/
  | vaMin (d : VDst) (s t : VSrc) (pred : Fin 8) (w : LaneW)
  /-- R273: Lane-wise signed maximum. -/
  | vaMax (d : VDst) (s t : VSrc) (pred : Fin 8) (w : LaneW)
  /-- R273: Lane-wise unsigned minimum. -/
  | vaMinu (d : VDst) (s t : VSrc) (pred : Fin 8) (w : LaneW)
  /-- R273: Lane-wise unsigned maximum. -/
  | vaMaxu (d : VDst) (s t : VSrc) (pred : Fin 8) (w : LaneW)
  /-- R273: Lane-wise absolute value with saturation. -/
  | vaAbs (d : VDst) (s : VSrc) (pred : Fin 8) (w : LaneW)
  /-- R274: Lane-wise equal compare into a predicate. -/
  | vaCeq (d : Fin 8) (s t : VSrc) (pred : Fin 8) (w : LaneW)
  /-- R274: Lane-wise signed less-than into a predicate. -/
  | vaClt (d : Fin 8) (s t : VSrc) (pred : Fin 8) (w : LaneW)
  /-- R274: Lane-wise unsigned less-than into a predicate. -/
  | vaCltu (d : Fin 8) (s t : VSrc) (pred : Fin 8) (w : LaneW)
  /-- R273: Lane-wise select by predicate. -/
  | vaSel (d : VDst) (s t : VSrc) (pred : Fin 8) (w : LaneW)
  /-- R275: Integer dot products accumulated into INT32 lanes. -/
  | vaDot (d : Fin 8) (s t : VSrc) (pred : Fin 8)
  /-- R276: Integer sum of the active lanes by tree. -/
  | vaRsum (d : VDst) (s : VSrc) (pred : Fin 8) (w : LaneW)
  /-- R276: Integer minimum of the active lanes. -/
  | vaRmin (d : VDst) (s : VSrc) (pred : Fin 8) (w : LaneW)
  /-- R276: Integer maximum of the active lanes. -/
  | vaRmax (d : VDst) (s : VSrc) (pred : Fin 8) (w : LaneW)
  /-- R277: Lane-wise floating-point add. -/
  | vfAdd (d : VDst) (s t : VSrc) (pred : Fin 8) (f : FpFmt)
  /-- R277: Lane-wise floating-point subtract. -/
  | vfSub (d : VDst) (s t : VSrc) (pred : Fin 8) (f : FpFmt)
  /-- R277: Lane-wise floating-point multiply. -/
  | vfMul (d : VDst) (s t : VSrc) (pred : Fin 8) (f : FpFmt)
  /-- R277: Lane-wise fused multiply-add into D. -/
  | vfFma (d : Fin 8) (s t : VSrc) (pred : Fin 8) (f : FpFmt)
  /-- R277: Lane-wise floating-point minimum. -/
  | vfMin (d : VDst) (s t : VSrc) (pred : Fin 8) (f : FpFmt)
  /-- R277: Lane-wise floating-point maximum. -/
  | vfMax (d : VDst) (s t : VSrc) (pred : Fin 8) (f : FpFmt)
  /-- R277: Lane-wise sign clear. -/
  | vfAbs (d : VDst) (s : VSrc) (pred : Fin 8) (f : FpFmt)
  /-- R277: Lane-wise sign invert. -/
  | vfNeg (d : VDst) (s : VSrc) (pred : Fin 8) (f : FpFmt)
  /-- R277: Lane-wise float equal compare into a predicate. -/
  | vfCeq (d : Fin 8) (s t : VSrc) (pred : Fin 8) (f : FpFmt)
  /-- R277: Lane-wise float less-than into a predicate. -/
  | vfClt (d : Fin 8) (s t : VSrc) (pred : Fin 8) (f : FpFmt)
  /-- R277: Lane-wise float less-or-equal into a predicate. -/
  | vfCle (d : Fin 8) (s t : VSrc) (pred : Fin 8) (f : FpFmt)
  /-- R278: Dot products into FP32 lanes, rounded once. -/
  | vfDot (d : Fin 8) (s t : VSrc) (pred : Fin 8) (f : FpFmt)
  /-- R276: Floating-point tree sum of the active lanes. -/
  | vfRsum (d : VDst) (s : VSrc) (pred : Fin 8) (f : FpFmt)
  /-- R276: Floating-point minimum of the active lanes. -/
  | vfRmin (d : VDst) (s : VSrc) (pred : Fin 8) (f : FpFmt)
  /-- R276: Floating-point maximum of the active lanes. -/
  | vfRmax (d : VDst) (s : VSrc) (pred : Fin 8) (f : FpFmt)
  /-- R277: Lane-wise reciprocal estimate. -/
  | vfRcpe (d : VDst) (s : VSrc) (pred : Fin 8) (f : FpFmt)
  /-- R280: Moves the active lanes. -/
  | vxMov (d : VDst) (s : VSrc) (pred : Fin 8) (w : LaneW)
  /-- R280: Broadcasts a scalar to the active lanes. -/
  | vxBcast (d : VDst) (s : ESrc) (pred : Fin 8) (w : LaneW)
  /-- R280: Permutes lanes by index lanes of T. -/
  | vxPerm (d : VDst) (s t : VSrc) (pred : Fin 8) (w : LaneW)
  /-- R280: Rotates lanes by a scalar amount. -/
  | vxRot (d : VDst) (s : VSrc) (t : ESrc) (pred : Fin 8) (w : LaneW)
  /-- R280: Interleaves the lanes of S and T. -/
  | vxZip (d : VDst) (s t : VSrc) (pred : Fin 8) (w : LaneW)
  /-- R280: Takes the even lanes of T:S. -/
  | vxUnzip (d : VDst) (s t : VSrc) (pred : Fin 8) (w : LaneW)
  /-- R280: Extracts one lane into a scalar register. -/
  | vxExt (d : EDst) (s : VSrc) (t : ESrc) (w : LaneW)
  /-- R280: Inserts a scalar into one lane. -/
  | vxIns (d : Fin 8) (s t : ESrc) (w : LaneW)
  /-- R281: Measures the largest magnitude among the active elements and writes it as FP32. -/
  | vxAmax (d : VDst) (s : VSrc) (pred : Fin 8)
  /-- R282: Computes the smallest block scale that maps an amax into the target format. -/
  | vxScale (d : VDst) (s : VSrc)
  /-- R284: Adds one quantised block into another and requantises the sum. -/
  | vxBarq (d : Fin 8) (s : VSrc)
  /-- R280: Writes S plus the lane index into each active lane. -/
  | vxIdx (d : VDst) (s : ESrc) (pred : Fin 8) (w : LaneW)
  /-- R290: E-side prefix that supplies formats and scales to the next governable X-word. -/
  | fmtSetX (fd fa fb : BitVec 4) (scl : BitVec 2)
  /-- R247: Atomic 4-byte add. -/
  | amoAddw (d : ADst) (s t : ASrc) (ord : Ord) (sc : Scope)
  /-- R247: Atomic 4-byte AND. -/
  | amoAndw (d : ADst) (s t : ASrc) (ord : Ord) (sc : Scope)
  /-- R247: Atomic 4-byte OR. -/
  | amoOrw (d : ADst) (s t : ASrc) (ord : Ord) (sc : Scope)
  /-- R247: Atomic 4-byte XOR. -/
  | amoXorw (d : ADst) (s t : ASrc) (ord : Ord) (sc : Scope)
  /-- R247: Atomic 4-byte signed maximum. -/
  | amoMaxw (d : ADst) (s t : ASrc) (ord : Ord) (sc : Scope)
  /-- R247: Atomic 4-byte signed minimum. -/
  | amoMinw (d : ADst) (s t : ASrc) (ord : Ord) (sc : Scope)
  /-- R247: Atomic 4-byte unsigned maximum. -/
  | amoMaxuw (d : ADst) (s t : ASrc) (ord : Ord) (sc : Scope)
  /-- R247: Atomic 4-byte unsigned minimum. -/
  | amoMinuw (d : ADst) (s t : ASrc) (ord : Ord) (sc : Scope)
  /-- R78: Reads and resets the BF16 CLOSED partials at the stamp cut. -/
  | amoMaxrdb (d : ADst) (s : ASrc) (ord : Ord) (sc : Scope)
  /-- R308: ACT 1: redoes one scoreboard entry. -/
  | sysResumeRedo (s t : ASrc)
  /-- R308: ACT 2: discards one scoreboard entry. -/
  | sysResumeDiscard (s t : ASrc)
  /-- R308: ACT 3: completes one scoreboard entry with the value of T. -/
  | sysResumeComplete (s t : ASrc)
  /-- R231: Does nothing except advance pc; the all-zero C-word. -/
  | ctlNopc
  /-- R232: Ends the activation after the E-side and scoreboard have drained and the queues are found empty; inside a trap handler it abandons the activation (R233). -/
  | ctlDone
  /-- R228: Pops a return address from the return stack, or refills one from the stack window, and transfers to it. -/
  | ctlRet
  /-- R235: Waits until every member of the realign group is listed, or until a timeout. -/
  | ctlRealign
  /-- R257: Offers the core's arrival at the barrier that closes the current ply. -/
  | msgPlyend
  /-- R312: Forces an agreement point under paired execution. -/
  | sysFpt
  /-- R205: E-side no operation. -/
  | nopX
  /-- R241: A refusal from a remote home, checker or destination is delivered at the slot's next bundle boundary as a trap. -/
  | lateFaultDelivery (hart slot : Nat)
  /-- R224: A path that falls through from bundle CODELEN-1 raises CODE_END once that bundle has retired on both sides. -/
  | codeEndFallthrough (hart slot : Nat)
  /-- R103: A side blocked on an empty or full slot queue resumes once its entry or its room appears. -/
  | sideBlockRelease (hart slot : Nat) (side : Side)
  /-- R232: A ctl.done whose waits have ended checks the queues, frees the slot and makes a selection. -/
  | slotRelease (hart slot : Nat)
  /-- R258: A waiting fence completes once every earlier operation is performed at its scope. -/
  | fenceComplete (hart slot : Nat)
  /-- R234: A write to the awaited word makes ctl.wait re-read it, and finish when the value differs. -/
  | ctlWaitWake (hart slot : Nat)
  /-- R235: Once every other member of the group is listed, the waiting members resume together. -/
  | realignRelease (hart slot : Nat)
  /-- R235: A ctl.realign that has waited 4,096 cycles is released. -/
  | realignTimeout (hart slot : Nat)
  /-- R311: When the image checks of sys.chain or sys.launch finish, the chain becomes pending or the capsule enters the wait list. -/
  | sysChainCommit (hart slot : Nat)
  /-- R23: Every 1,024 cycles the watchdog decrements BUDLEFT of each running activation. -/
  | budgetTick (hart slot : Nat)
  /-- R192: BUDLEFT reaching zero while the activation still runs raises BUDGET and kills the plat. -/
  | budgetExhausted (hart slot : Nat)
  /-- R176: After 8,192 consecutive cycles of an idle network with waiting or stuck entries, HANG kills the plat. -/
  | hangDetected (plat : Nat)
  /-- R109: An arriving active message takes a free slot, or is spilled, parked, held or nacked. -/
  | activeMessageArrival (k : Nat)
  /-- R108: An arriving data message writes its words at OFF and, when WAKE is set, makes an activation wait. -/
  | dataMessageArrival (k : Nat)
  /-- R108: An arriving reply settles its scoreboard entry, or is discarded when the slot has been freed. -/
  | replyMessageArrival (k : Nat)
  /-- R111: A nack reaches the sender's message engine, which schedules a resend or turns a REASON 15 refusal into a late fault. -/
  | nackMessageArrival (k : Nat)
  /-- R111: The back-off timer after a nack expires, and the message engine resends the copy with its original header. -/
  | messageResend (k : Nat)
  /-- R44: An access or send retried for 65,536 cycles against an unassigned cluster becomes BOUNDS 0x0b2. -/
  | ownershipRetryTimeout (k : Nat)
  /-- R244: A remote load or miss is served at the home, recalling U copies first, and the data is returned. -/
  | meshLoadArrival (k : Nat)
  /-- R53: Stored bytes reach the home, S copies are invalidated and the home is written, or the store is refused. -/
  | meshStoreArrival (k : Nat)
  /-- R247: An amo or a recalled U copy is performed at the home. -/
  | amoArrival (k : Nat)
  /-- R54: 64 cycles after the first coalesced store, the dirty bytes of an L1 line are sent to their home. -/
  | coalesceFlushTimer (hart line : Nat)
  /-- R117: A future read at the home returns the value or links a waiter node, and is retried when no node is free. -/
  | futureReadArrival (k : Nat)
  /-- R118: A write to an empty future fills it and walks the deferred-read list, sending each waiter its value. -/
  | futureWriteArrival (k : Nat)
  /-- R253: A fut.clr at the home empties a full future or is refused. -/
  | futureClearArrival (k : Nat)
  /-- R63: The repair unit declares the line, reading BASE from memory and fixing the class. -/
  | orcDeclArrival (k : Nat)
  /-- R67: The home inserts a stamped append into the line's history, or nacks, retries or acknowledges it as a duplicate. -/
  | orcAppendArrival (k : Nat)
  /-- R69: The home returns the value over the accepted history, together with the settled flag. -/
  | orcTentativeLoadArrival (k : Nat)
  /-- R70: A settled load waits at the unit until the watermark equals End(b), then returns BASE. -/
  | orcSettledLoadArrival (k : Nat)
  /-- R75: A retry response for an append whose resend count has reached RBUDGET raises ORC_HISTORY_OVERFLOW. -/
  | orcRetryBudgetExhausted (k : Nat)
  /-- R74: Under REGIME 1, a unit advances to End(n) once its accepted appends of ply n equal the total T(n). -/
  | sequenceWatermarkAdvance (unit : Nat)
  /-- R257: When every core has arrived and the ply's conditions hold, the units settle, parked entries are released, amax copies merge and ply advances. -/
  | plyBarrierComplete (plat : Nat)
  /-- R33: A store-release to mxkick or cpkick submits a job; any other store to it raises QUEUE_MISUSE. -/
  | kickRegisterStore (k : Nat)
  /-- R122: In each cycle the engine accepts one waiting request round-robin by core position and gives it the next JOBID. -/
  | engineJobAccept (cluster : Nat) (eng : Engine)
  /-- R127: An engine port checks a remote command's capability and fields, then queues it or nacks it. -/
  | remoteCommandArrival (k : Nat)
  /-- R293: A step job starts, checks ownership and mode, gathers its rows, and commits its cells with carry capture, or stalls or faults. -/
  | mxeStepJob (cluster : Nat)
  /-- R293: A stalled step re-checks its carries once the overtaking drain has freed entries, then commits. -/
  | carryStallResume (cluster : Nat)
  /-- R296: A drain job writes the slot's cells and status word, folds carries, and frees the slot. -/
  | mxeDrainJob (cluster : Nat)
  /-- R297: A reclaim taken in queue order frees an orphaned slot and its carry entries. -/
  | mxeReclaimJob (cluster : Nat)
  /-- R126: At job completion, a store-release to the kicker's mailbox removes the entry, wakes a sleeper, sends NOTIFY, or delivers the fault. -/
  | engineCompletionReport (cluster : Nat) (eng : Engine) (k : Nat)
  /-- R299: The copy engine moves LEN bytes from SRC to DST in queue order. -/
  | cpeCopyJob (cluster : Nat) (q : Fin 4)
  /-- R300: The copy engine combines source elements into destination elements by a reducing add. -/
  | cpeReduceJob (cluster : Nat) (q : Fin 4)
  /-- R299: The copy engine writes the fill value to every word of DST. -/
  | cpeFillJob (cluster : Nat) (q : Fin 4)
  /-- R95: A copy barrier is performed after every earlier command of every queue. -/
  | cpeBarrierJob (cluster : Nat) (q : Fin 4)
  /-- R96: The destination channel core applies, holds or discards a sequenced reducing command by its number. -/
  | sequencedReduceArrival (k : Nat)
  /-- R133: A storer write applied at the last-level cache slice is acknowledged. -/
  | storerWriteAck (k : Nat)
  /-- R136: A host write to uqwi n makes the packet processor take packets up to the new write index. -/
  | uqwiNotify (q : Nat) (wi : BitVec 32)
  /-- R138: A TYPE 0 packet is presented and writes a status record with code 0. -/
  | packetNop (q : Nat)
  /-- R137: A TYPE 1 packet presents a capsule image for admission from stage 2. -/
  | packetLaunch (q : Nat)
  /-- R137: A TYPE 2 packet holds its queue until the named counter reaches the target. -/
  | packetCounterWait (q : Nat)
  /-- R189: A counter reaching the target releases the waiting queue and writes the packet's status. -/
  | counterWaitRelease (q : Nat)
  /-- R190: A TYPE 3 packet cancels every launch counted on the named counter. -/
  | packetCancel (q : Nat)
  /-- R7: The placement engine takes a free plat of the capsule's shape and zeroes it, then loads the code and handler tables. -/
  | placement (w plat : Nat)
  /-- R147: Extent entries are checked and loaded into the checkers, the code is hashed, and the handler, window and start checks run. -/
  | extentLoading (plat : Nat)
  /-- R15: A quiescent plat makes its storer writes visible, increments the counters, writes the status record, and begins zeroing. -/
  | launchComplete (plat : Nat)
  /-- R178: Zeroing of a plat finishes, and the plat becomes FREE or passes to an onward capsule. -/
  | platZeroingComplete (plat : Nat)
  /-- R194: The survey firmware requests pre-emption, and the plat enters QUIESCING. -/
  | preemptionRequest (plat : Nat)
  /-- R153: A quiesced plat is written to the spill extent, and the sealed residue image is handed over. -/
  | preemptionSpill (plat : Nat)
  /-- R154: After the spill header has been checked, the rings, regions, unit records and repair lines are restored before any activation. -/
  | residueRestore (plat : Nat)
  /-- R59: An uncorrectable error consumed in a live plat fences it; PLAT_FENCED is reported. -/
  | uncorrectableErrorConsumed (place : ErrPlace)
  /-- R59: A correctable memory error is corrected in place and counted. -/
  | correctableError (place : ErrPlace)
  /-- R178: The targeted self-test of a fenced plat finishes; the plat goes to ZEROING or to OFFLINE. -/
  | fenceSelftestComplete (plat : Nat) (pass : Bool)
  /-- R60: The channel core migrates a 4 KiB page to a spare through copy passes and one remap switch. -/
  | pageRetirement (page spare : Nat)
  /-- R58: The owner's memory service has extent pages zeroed through the survey firmware. -/
  | extentZeroingRequest (base len : Nat)
  /-- R199: Paired cores compare fpr, then release the commit buffer and checkpoint, or roll back on a mismatch. -/
  | agreementPoint (hart : Nat)
  /-- R201: The pair's self-test finishes; the pair re-executes or its clusters are retired. -/
  | pairSelftestComplete (hart : Nat) (leaderOk followerOk : Bool)
  /-- R203: At the exchange tick, replica digests are compared, and a disagreement halts the launch for self-test. -/
  | digestCompare (plat : Nat) (stepNo : BitVec 32) (digest : BitVec 256) (third : Option (BitVec 256))
  /-- R139: A received flit is CRC-checked, then held for its tick or delivered; a bad flit triggers a retransmit request. -/
  | linkFlitArrival (port : Nat) (flit : List (BitVec 64))
  /-- R140: At each exchange tick boundary XTICK advances and the held flits of that tick are released in order. -/
  | exchangeTick (port : Nat)
  /-- R141: After 16 failed retransmissions the port is taken down and its pending sends are refused with LINK_TIMEOUT. -/
  | linkDown (port : Nat)
  /-- R135: A block's timeout expires before all contributions; the partial is discarded and COLLECTIVE_INCOMPLETE is recorded. -/
  | collectiveTimeout (k : Nat)
  /-- R140: The survey firmware restores exchange-tick alignment at a ply boundary. -/
  | alignmentRestore (port : Nat)
  /-- R74: The survey firmware switches a plat's repair regime at a ply boundary. -/
  | regimeChange (plat : Nat)
  /-- R180: Command 0x01 sets module drain and refuses the unplaced capsules that drain makes unplaceable. -/
  | setModuleDrain
  /-- R180: Command 0x02 clears module drain. -/
  | clearModuleDrain
  /-- R180: Command 0x03 sets drain on one plat. -/
  | setPlatDrain
  /-- R180: Command 0x04 clears drain on one plat. -/
  | clearPlatDrain
  /-- R182: Command 0x05 publishes a gazetteer snapshot. -/
  | publishSnapshotNow
  /-- R148: Command 0x10 registers an owner's grant. -/
  | registerGrant
  /-- R136: Command 0x11 configures a user queue and resets its indexes. -/
  | configureUserQueue
  /-- R148: Command 0x12 raises an owner's minimum serial and evicts its cached grants. -/
  | raiseMinimumSerial
  /-- R181: A command record with an unknown OP or reserved bits is not performed and gets status RESERVED_FIELD. -/
  | invalidSurveyCommand
  /-- R40: A BAR0 write to a register that has no row of its own, such as gzbase, or to an unoccupied offset. -/
  | hostRegisterWrite (off : Nat) (val : BitVec 64)
  /-- R182: A snapshot is written to the host buffer in the stated order and gzed advances, after a change or at the periodic timer. -/
  | gazetteerPublish
  /-- R177: The survey firmware defines or redefines a FREE or OFFLINE plat. -/
  | platDefine (plat x4 y2 w h rbudget : Nat)
  /-- R178: A cluster is retired, and its plat goes OFFLINE once the running capsule ends. -/
  | clusterRetire (cluster : Nat)
  /-- R186: DEVICE_FATAL or THERMAL_TRIP puts the module out of service, fences every plat and refuses every waiting capsule. -/
  | grade4Entry (code : BitVec 16)
  /-- R18: Module boot resets the module registers, counters, channel, gateway and unit state, and loses the grant cache. -/
  | moduleBoot
  /-- R178: A plat in QUIESCING after a cancel becomes quiescent; it goes to ZEROING without a spill, and the launch ends with PREEMPTED, DETAIL 0x001. -/
  | cancelledLaunchEnd (plat : Nat)
  /-- R203: The full self-test that a replica digest disagreement started finishes; a failing module ends with SELFTEST_FAIL and enters grade 4, otherwise the launch ends with PREEMPTED, DETAIL 0x002. -/
  | fullSelftestComplete (plat : Nat) (pass : Bool)
  /-- R244: A load through a channel core's checker is served at its last-level cache slice, HBM or host page, and its data, or a poison fault, settles the KIND 2 entry. -/
  | extentLoadDataReturn (k : Nat)
  /-- R111: The acceptance of a send, append or declaration reaches the sender's message engine, which clears the KIND 6 entry and drops its resend copy. -/
  | sendAcceptance (k : Nat)
deriving DecidableEq, Repr

end Sys2Proof
end

