-- ==== Sys2Proof/Machine/State.lean ====
section
/-! DEFINITION. The state of the module: every register, queue, table and memory that spec/01 to spec/11 give it,
as plain data, and the state right after reset. Harts, clusters, plats, launches, counters and queues are sparse
maps from their index; a member that is absent is at its reset value. -/

namespace Sys2Proof.Machine

/-- A sparse map from indexes, in rising order of index. -/
abbrev SMap (α : Type) := List (Nat × α)

/-- Bytes of a memory in canonical form: addresses strictly rising and no zero byte listed (log 3). -/
abbrev Memory := List Host.Cell

/-! ## Faults that stop the machine -/

/-- Why a step stops. Every fault the spec describes is a trap or the end of a launch, which are next states; the
reasons here are about states that no step produces. -/
inductive Fault where
  /-- Raised by a word when the current hart index is 656,896 or above, where the module has no core (R107). Safe. -/
  | noSuchHart
  /-- Raised by a word when the current slot runs no activation, so that no word can be issued. Safe. -/
  | slotNotRunning
deriving DecidableEq, Repr

/-- Why an instruction is refused. -/
inductive Refusal where
  /-- Raised by exec's arm of an instruction that has no meaning in this model yet. Safe. -/
  | notModelled (mnemonic : String)
deriving DecidableEq, Repr

/-! ## Faults of the instruction set -/

/-- A fault code with its DETAIL and the address for taddr (R27, R184). -/
structure FaultInfo where
  code : BitVec 16
  detail : BitVec 12
  addr : Word
deriving DecidableEq, Repr

/-! ## Operations in flight -/

/-- The kinds of R83. -/
inductive OpKind where
  | ld | st | ldA | stR | amo | oApp | oLdT | oLdS | send | kick | fence | plyEnd
deriving DecidableEq, Repr

/-- The element operations of R247, which are also the classes of U copies (R53), and the amax class of R78. -/
inductive AmoOp where
  | add | and | or | xor | max | min | maxu | minu
  | addw | andw | orw | xorw | maxw | minw | maxuw | minuw
  | amax | amaxb
deriving DecidableEq, Repr

/-- Who issued an operation: the hart, its context's launch, the slot and the number of its activation. An engine
or the placement engine issues under the hart index its messages carry (R107). -/
structure Issuer where
  hart : Nat
  launch : Nat
  slot : Nat
  act : Nat
deriving DecidableEq, Repr

/-- A plain store whose bytes its core's L1 has coalesced: its number, its pointer and its bytes (R54). -/
structure PendStore where
  id : Nat
  ptr : Word
  bytes : List Byte
deriving DecidableEq, Repr

/-- What an operation in flight does at its home or destination. -/
inductive NetOp where
  /-- A load of n bytes through a mesh pointer; signed for mem.ld (R242, R244). -/
  | load (ptr : Word) (n : Nat) (signed : Bool) (uncached : Bool)
  /-- A store of bytes, lowest address first (R242, R244). -/
  | store (ptr : Word) (bytes : List Byte)
  /-- The coalesced stores of one line, oldest first (R54). -/
  | flush (home line : Nat) (stores : List PendStore)
  /-- An amo performed at the home (R247). -/
  | amo (ptr : Word) (op : AmoOp) (operand : Word) (ply : BitVec 16)
  /-- amo.maxrd and amo.maxrdb (R78). -/
  | maxrd (ptr : Word) (n : Nat) (ply : BitVec 16)
  /-- fut.rd with its tag word: slot and scoreboard entry (R253). -/
  | futRd (ptr tag : Word)
  | futRdc (ptr : Word) (chan : Nat) (tag : Word)
  | futWr (ptr value : Word)
  | futClr (ptr : Word)
  | orcDecl (ptr : Word) (cls : OrcClass)
  /-- A stamped append (R67): OPND, and for a reply request the scoreboard entry that waits for it. -/
  | orcApp (ptr : Word) (stamp : BitVec 48) (x y : Word) (rq : Option Nat)
  | orcLdt (ptr : Word)
  | orcLds (ptr : Word) (bound : BitVec 16)
  /-- A message with its header and payload, for a destination index (R107). -/
  | msg (dest : Nat) (header : Word) (payload : List Word)
  /-- A store-release to a kick register (R33). -/
  | kickStore (eng : Engine) (value : Word)
  /-- An access of a channel core through its checker (R244). -/
  | extLoad (ptr : Word) (n : Nat) (signed : Bool)
  | extStore (ptr : Word) (bytes : List Byte)
  /-- A sequenced reducing copy command on its way to a destination channel core, with its granules there (R96). -/
  | seqReduce (cluster job op : Nat) (seq : BitVec 16) (chan : Nat) (pieces : List (Word × List Byte))
  /-- The acceptance of a send, append or declaration on its way to the sender (R111). -/
  | accept (copy : Nat)
  /-- A nack on its way to the sender's message engine (R108, R110): the number of the refused operation, REASON, and
  for REASON 15 the fault. -/
  | nack (copy reason : Nat) (fault : FaultInfo)
deriving DecidableEq, Repr

/-- An operation in flight: its number (the order of issue), its issuer, the numbers of the earlier operations of its
slot that the matrices keep before it for every observer (R87 to R91) and that must be performed first, and the cycle of
issue (R44). -/
structure NetItem where
  id : Nat
  src : Issuer
  op : NetOp
  prior : List Nat
  since : Nat
  /-- The earlier operations that are kept before it for the observers of a narrower scope alone, with that scope (R85). -/
  soft : List (Scope × Nat) := []
  /-- The 8-byte words of a 64-byte access that have been performed (R82), and what they read. -/
  part : BitVec 8 := 0
  data : Vec := 0
  /-- The cycle in which it first reached its destination, where that cycle had to pass before the answer (R142, R187). -/
  met : Option Nat := none
deriving DecidableEq, Repr

/-- A location of R85: the home hart, and the bytes' range; for a Send its destination and channel. -/
structure Loc where
  home : Nat
  lo : Nat
  len : Nat
deriving DecidableEq, Repr

/-- A location that an operation has been performed at before an earlier one of its slot which only the observers of a
scope see first (R85): their accesses to it wait until the earlier operations are performed. after is the number from which
operations wait: those issued earlier do not. -/
structure Guard where
  src : Issuer
  scope : Scope
  loc : Loc
  ids : List Nat
  after : Nat
deriving DecidableEq, Repr

/-- An operation of a slot that has been issued and is not yet performed, as later operations are ordered by it; scope is
the one that it is performed at (R97). Its home accepts it, and can refuse it no more, once sure is set (R98). -/
structure OutOp where
  id : Nat
  slot : Nat
  act : Nat
  kinds : List OpKind
  scope : Scope
  sc : Bool
  loc : Loc
  space2 : Bool
  sure : Bool := false
deriving DecidableEq, Repr

/-- A message engine's copy of an unaccepted send, append, declaration or future operation (R111, R75): the count
of nacks, the cycle at which it is resent (none while a copy is in flight), the resends counted against RBUDGET
and the cycle of the first REASON 2 refusal. -/
structure SendCopy where
  item : NetItem
  nacks : Nat
  due : Option Nat
  retries : Nat
  firstOwn : Option Nat
deriving DecidableEq, Repr

/-! ## Slots -/

/-- An entry of lq0-lq3 or sq0-sq1: 64 bytes and a TAG (R101, R102). -/
structure QEntry where
  data : Vec
  tag : BitVec 4
deriving DecidableEq, Repr

/-- An entry of an lq queue: filled, or reserved by the pending load with the given scoreboard number (R103). -/
inductive LqEntry where
  | filled (e : QEntry)
  | reserved (sb : Nat)
deriving DecidableEq, Repr

/-- The destination of an X-word that holds a popped entry (R104, R308). -/
inductive HeldDst where
  | v (n : Fin 8) | e (n : Fin 16) | p (n : Fin 8) | sq (q : Fin 2) | cq | z
deriving DecidableEq, Repr

/-- A queue entry that the scoreboard holds for a vector pop (R104): its queue, the bytes of it that have been delivered, whether it goes to
the word that runs before any later pop of its queue (the word that popped it, or redo after a trap), and the
destination of that word. -/
structure HeldPop where
  queue : Fin 4
  entry : QEntry
  delivered : Nat
  armed : Bool
  dest : HeldDst
deriving DecidableEq, Repr

/-- A live scoreboard entry (R28). dst and dst2 are the destinations still pending (dst2 is T of orc.ldt). -/
structure SbEntry where
  id : Nat
  /-- The entry's number, where a message names the entry by it: a future read, and an append that requests a reply. -/
  num : Option Nat
  kind : Nat
  destCode : Nat
  side : Side
  info : BitVec 50
  dst : Option ADst
  dst2 : Option ADst
  item : Option NetItem
  /-- The operation as the matrices read it, for redo. -/
  outOp : Option OutOp
  refused : Bool
  held : Option HeldPop
deriving DecidableEq, Repr

/-- What a waiting word has popped, and the values of the streams that it has read, which a precise fault puts back
(R223). -/
structure Undo where
  sq0 : List QEntry
  sq1 : List QEntry
  cq : List Word
  sm : List (Fin 4 × Word)
deriving DecidableEq, Repr

/-- Why a side is not issuing (R175 and the waits of the entries). A wait that an event ends carries the operands of
the waiting word. -/
inductive Wait where
  | popLq (q : Fin 4) | popSq (q : Fin 2) | popCq
  | pushLq (q : Fin 4) | pushSq (q : Fin 2) | pushCq
  | branchFull | slipFull
  /-- A register that a live scoreboard entry of the given kind still writes (R244, R253), or a seventeenth entry
  (kind 0) (R28). -/
  | pending (kind : Nat)
  /-- Earlier operations that the matrices keep before an access that is performed at issue. -/
  | order
  /-- A stream register that a matrix-engine step still walks (R21). -/
  | stream
  /-- The E-side has to retire its words up to and with this bundle's (R307). -/
  | eSide
  /-- The E-side has to retire the words of earlier bundles (R26). -/
  | eEarlier
  /-- A full job queue (R122, R128), request queue (R132) or wait list (R179). -/
  | room
  /-- The 4,097th stamped operation of a ply (R30). -/
  | sseq
  /-- A sleep on an engine job (R125). -/
  | engine
  | ply
  | realign (since : Nat)
  /-- ctl.wait on the word at an offset until it differs from a value, with what the word took from queues and streams (R234). -/
  | waitWord (d : ADst) (off : Nat) (t : Word) (undo : Undo)
  | fence (sc : Scope)
  | done
  /-- With the cycle in which the checks of a sys.chain passed, where that cycle has to pass first (R314). -/
  | chain (isLaunch : Bool) (s t : ASrc) (passed : Option Nat)
  /-- The answer of the home to an append that requests a reply, with what the word took from queues and streams (R250). -/
  | answer (id : Nat) (undo : Undo)
  /-- A stall of a pair before its next agreement point, or in its self-test (R199, R201). -/
  | commit
  /-- An operation of a pair that waits for its next agreement point (R200). -/
  | agree
  /-- No bundle to run: the A-side has not retired one (R106). -/
  | path
deriving DecidableEq, Repr

/-- A bundle that the A-side has retired and the E-side has not: its index, whether it is lone, and whether the
A-side left it by a taken transfer (R106). -/
structure PathEntry where
  bundle : Nat
  lone : Bool
  taken : Bool
deriving DecidableEq, Repr

/-- The call record of R305. -/
structure CallRecord where
  rs : List (BitVec 13)
  swp : BitVec 18
deriving DecidableEq, Repr

/-- The slip record of R305: the E-side's path when the A-side's restart bundle is in tpc, with the branch queue. -/
structure SlipRecord where
  /-- Did the E-side fault? -/
  eFault : Bool
  aPc : Nat
  path : List PathEntry
  bq : List (BitVec 13)
  eDone : Bool
deriving DecidableEq, Repr

/-- One slot (R18 to R28, R101, R106, R305). -/
structure Slot where
  running : Bool
  /-- The number of the activation, which tells a later activation's replies from an earlier one's. -/
  act : Nat
  /-- The context of the activation on a channel or gateway core (R345); 0 on a compute core. -/
  ctx : Nat
  a : Vector Word 16
  sm : Vector Word 4
  pc : Nat
  rs : List (BitVec 13)
  swp : BitVec 18
  e : Vector Word 16
  v : Vector Vec 8
  p : Vector Word 8
  /-- ast.FMTSAVE and ast.PP (R23). -/
  aFmtsave : BitVec 32
  aPP : Bool
  inTrap : Bool
  pri : BitVec 2
  chan : BitVec 6
  det : Bool
  paired : Bool
  budleft : BitVec 12
  /-- est.FMTSAVE and est.PP (R25). -/
  eFmtsave : BitVec 32
  ePP : Bool
  sat : Bool
  rm : BitVec 2
  /-- est[4:0]: NV DZ OF UF NX. -/
  flags : BitVec 5
  tcause : BitVec 32
  taddr : Word
  tpc : BitVec 13
  tsb : Vector Word 16
  /-- The live numbers that tsb0 upward stand for. -/
  tsbIds : List Nat
  sb : List SbEntry
  call : Option CallRecord
  slip : Option SlipRecord
  lq : Vector (List LqEntry) 4
  sq : Vector (List QEntry) 2
  cq : List Word
  bq : List (BitVec 13)
  path : List PathEntry
  /-- The pending prefix of each side, as its word (R219). -/
  aPrefix : Option (BitVec 32)
  ePrefix : Option (BitVec 32)
  /-- The decode table as it stood when the X-word that has popped and waits was issued (R172, R285). -/
  eTable : Option (SMap (BitVec 32))
  /-- Whether the E-side has retired the X-word of the bundle at pc, which a ctl.done or a sys.resume waits in. -/
  eDone : Bool
  aWait : Option Wait
  eWait : Option Wait
  late : List (Option Nat × FaultInfo)
  startCycle : Nat
  ticks : Nat
  /-- The stream registers an mxq.steps job still walks (R21, R295). -/
  smBusy : List (Fin 4)
  /-- An agreement point of the pair has been taken since the word at pc began to wait for one (R200). -/
  agreed : Bool
  /-- The late faults that have reached the slot in its trap handler, with their cycles: they kill the plat, but for a return of
  the same cycle (R241, R314). -/
  inHandler : List (Nat × Option Nat × FaultInfo)
deriving DecidableEq, Repr

/-! ## Order-repair units -/

/-- A history entry (R66). -/
structure HistEntry where
  stamp : BitVec 48
  x : Word
  y : Word
  elem : Nat
  rq : Bool
  rslot : Nat
  rsb : Nat
deriving DecidableEq, Repr

/-- A declared line (R66): its granule offset, its space 0x5 pointer, class, BASE, and history in STAMP order. -/
structure OrLine where
  gran : Nat
  ptr : Word
  cls : OrcClass
  base : Vec
  hist : List HistEntry
deriving DecidableEq, Repr

/-- The counts of one ply that a unit keeps under REGIME 1 (R74, R346). -/
structure PlyCount where
  ply : BitVec 16
  total : Option Nat
  accepted : Nat
deriving DecidableEq, Repr

/-- An order-repair unit's state for one capsule (R39). -/
structure OrUnit where
  swm : BitVec 48
  regime : Bool
  lines : List OrLine
  counts : List PlyCount
  waiting : List NetItem
deriving DecidableEq, Repr

/-! ## Contexts and cores -/

/-- How a ring entry stands (R109, R113, R116). -/
inductive RingState where
  | ready | parked | held
deriving DecidableEq, Repr

/-- An overflow ring entry (R49), with the words it holds. The list order is the age order. -/
structure RingEntry where
  header : Word
  payload : List Word
  state : RingState
  /-- The entry was released at a ply close, so that its activation's ast.DET is 1 (R23). -/
  released : Bool
  /-- Its place in the order of acceptance or release (R112). -/
  age : Nat
  /-- The index of its 64 bytes in the ring region (R49). -/
  pos : Nat
deriving DecidableEq, Repr

/-- A checker entry (R38). -/
structure Checker where
  valid : Bool
  rights : BitVec 4
  cursor : Nat
deriving DecidableEq, Repr

/-- What the replay filter holds for one stamp: the cached reply (R67, R111). -/
structure FilterEntry where
  stamp : BitVec 48
  fault : Option FaultInfo
deriving DecidableEq, Repr

/-- What a core holds for one capsule: on a compute core its one capsule, on a channel or gateway core a context
of R345. -/
structure Ctx where
  launch : Nat
  scratch : Memory
  /-- The words whose FE is 0, by offset (R46). -/
  empties : List Nat
  masks : Word
  ring : List RingEntry
  /-- The ring's tail index: where the next entry is written (R49). -/
  ringTail : Nat
  /-- Decode table entries 0x00-0x7f that differ from the placement contents (R164; log 60). -/
  table : SMap (BitVec 32)
  ply : BitVec 16
  /-- The next sender sequence value, 4,096 once the ply's values are used up (R30). -/
  sseq : Nat
  expected : SMap (BitVec 32)
  futFree : List Nat
  unit : OrUnit
  checkers : SMap Checker
  appends : SMap Nat
  arrived : Bool
  filter : SMap (List FilterEntry)
  seqNext : SMap (BitVec 16)
  seqHeld : List NetItem
  /-- The OPEN amax partials of the home (R78), by twice the element's offset, plus 1 for a BF16 element. The home's
  CLOSED partial is the element itself (log 13). -/
  amaxOpen : SMap Word
  /-- amax updates held for a later ply (R248). -/
  amaxHeld : List NetItem
  /-- The contributions to collective blocks whose fold has been started here, by source module, flow and FSEQ: the last 64 of
  each flow (R111, R135). -/
  folded : List Nat
deriving DecidableEq, Repr

/-- An L1 line's copy (R53, R54, R78): an S copy, the coalesced stores, oldest first, with the cycle of the first, and
a U copy of one class, whose amax CLOSED partial stands beside OPEN. -/
structure L1Line where
  shared : Option Vec
  stores : List PendStore
  since : Nat
  ucls : Option AmoOp
  udata : Vec
  /-- The bytes of the U copy that an update has reached. -/
  umask : BitVec 64
  uclosed : Vec
  umaskClosed : BitVec 64
deriving DecidableEq, Repr

/-- An L2 line of 256 bytes: its four sectors' S copies (R52). -/
structure L2Line where
  sectors : Vector (Option Vec) 4
deriving DecidableEq, Repr

/-- What the slots of a pair held at the last agreement point (R199, R201). -/
structure Checkpoint where
  slots : Vector Slot 8
deriving DecidableEq, Repr

/-- A core: a compute core, a channel core or a gateway core, by its sender index (R107). -/
structure Hart where
  slots : Vector Slot 8
  ctxs : List Ctx
  l1 : SMap L1Line
  copies : List SendCopy
  fpr : Word
  /-- Paired execution: the commit buffer, the checkpoint, the bundles since the last agreement point, the self-test,
  and a mismatch since the last agreement (R199 to R201). -/
  commit : List NetItem
  checkpoint : Option Checkpoint
  sinceAgree : Nat
  selftest : Bool
  /-- The cycle at which the self-test began (R192). -/
  testSince : Nat
  mismatched : Bool
  fptForced : Bool
  /-- The messages whose activations started since that checkpoint, as ring entries with their ages (R201). -/
  started : List RingEntry
  /-- gwst of a gateway core (R38). -/
  aligned : Bool
  fallback : Bool
  xtick : BitVec 32
  /-- The operations of its slots that are issued and not yet performed, oldest first. -/
  out : List OutOp
  /-- Selections that passed over a waiting priority-0 candidate (R112). -/
  passOver : Nat
  /-- Activations started on this core, which numbers the next. -/
  acts : Nat
  /-- Entry numbers whose replies are still to come and will be dropped: launch, slot, number and kind (R308). -/
  gone : List (Nat × Nat × Nat × Nat)
  /-- What slots have written to masks and to the decode table in the cycle of the last such write: slot, launch, and the channel or
  64 + the table index (R314). -/
  wroteAt : Nat
  wrote : List (Nat × Nat × Nat)
deriving DecidableEq, Repr

/-! ## Engines -/

/-- An accumulator slot (R35): STATE, owner, the port-owned bit, cells (24-bit values or FP32 patterns) that are not
zero, and the sticky flags NV OF UF NX of R294. -/
structure Acc where
  state : Nat
  ocore : Nat
  oslot : Nat
  oact : Nat
  port : Bool
  /-- STATE reads 4: a drain of the slot has started; its mode stays in state (R296). -/
  draining : Bool
  cells : SMap (BitVec 32)
  flags : BitVec 4
deriving DecidableEq, Repr

/-- A carry buffer entry (R36). -/
structure Carry where
  slot : Nat
  cell : Nat
  count : Int
deriving DecidableEq, Repr

/-- Who a job reports to: a slot of a core, or the sender of a remote command with its reply channel (R126, R127). -/
inductive Reporter where
  | slot (src : Issuer)
  | remote (sender : Nat) (launch : Nat) (notify : Option Nat)
deriving DecidableEq, Repr

/-- A job or command of an engine: its descriptor (R36, R129), operand words, block-scale and skip-list fields, and,
once it has finished, the fault it ended in. -/
structure Job where
  desc : Word
  words : List Word
  /-- FD and the options that the descriptor has no field for: the output format of a drain, SM of a sparse step. -/
  fd : Nat
  sm : Nat
  rep : Reporter
  /-- The hart whose scratchpad and decode table the job uses (R289, R291). -/
  own : Nat
  started : Bool
  done : Option (Option FaultInfo)
  /-- The exact sums of the 1,024 cells of an integer step that has gathered its rows and is stalled (R293). -/
  sums : List Int
  /-- The first refusal of a part of a sequenced command (R96), and the cycle from which a command's memory has been found not
  assigned (R44). -/
  fault : Option FaultInfo
  tried : Option Nat
  /-- Its number among the jobs that the cluster's engines have accepted, since identifiers are used again (R124). -/
  num : Nat := 0
deriving DecidableEq, Repr

/-- A request standing at an engine's queue (R122). -/
structure Request where
  pos : Nat
  since : Nat
  job : Job
  /-- Where the waiting word writes the job identifier, and for a store to a kick register where its value came from, which is
  taken at the acceptance. -/
  dst : ADst
  data : ASrc
deriving DecidableEq, Repr

/-- A cluster's engines and L2 (R33 to R37, R52). -/
structure Cluster where
  jobs : List Job
  nextId : BitVec 8
  cstall : Bool
  carries : List Carry
  accs : Vector Acc 8
  lastPos : Nat
  mxReqs : List Request
  own : BitVec 48
  cpq : Vector (List Job) 4
  cpNextId : BitVec 8
  cpReqs : List Request
  cpLastPos : Nat
  /-- The cycles of the last acceptance by the job queue and by the copy queues: one job per cycle (R122). -/
  accepted : Option Nat
  cpAccepted : Option Nat
  /-- The count of jobs that the engines have accepted. -/
  accepts : Nat := 0
  /-- Lines by home and 256-byte granule (R52, R53). -/
  l2 : SMap L2Line
deriving DecidableEq, Repr

/-! ## Capsules, plats and launches -/

/-- An extent entry's four words (R146). -/
structure Extent where
  base : Nat
  len : Nat
  inh : Bool
  carry : Bool
  spill : Bool
  keep : Bool
  host : Bool
  rights : BitVec 4
  owner : BitVec 32
  from' : Nat
  onward : Nat
  /-- The entry's four words as they stand in the image. -/
  raw : List Word
deriving DecidableEq, Repr

/-- Where a capsule came from (R155, R179, R193). -/
inductive Origin where
  | queue (q : Nat) (status : Word) (tag : BitVec 32) (number : Nat)
  | launchBy (rank : Nat)
  | chainOf (rank : Nat) (status : Word) (tag : BitVec 32) (number : Nat) (begun : Nat)
deriving DecidableEq, Repr

/-- What stands for a residue image that has been handed over, by its serial: the origin in clusters of the plat that it
was spilled from (R154; log 14), and the status records of the chains that it goes on with (R155). -/
structure Residue where
  x4 : Nat
  y2 : Nat
  chain : List Origin
deriving DecidableEq, Repr

/-- A capsule image as admission has read it (R143, R144), with the grant it passed under (R148). -/
structure Capsule where
  hdr : Vector Word 32
  codeId : BitVec 256
  grantDig : BitVec 256
  chain : Vector Word 8
  extents : List Extent
  args : List Byte
  origin : Origin
  /-- The ranges of its grant: base, length, rights, HOST. -/
  ranges : List (Nat × Nat × BitVec 4 × Bool)
  grantOwner : BitVec 32
  /-- The plat that a chain keeps for it (R152), or the plat of a chain. -/
  bound : Option Nat
  /-- Has the capsule been counted in LIVE (R189)? -/
  counted : Bool
  /-- Predecessor extents of a chain, by slot, with their checkers' cursors by channel core (R151). -/
  inherited : List (Nat × Extent × SMap Checker)
  /-- The status records of the chained capsules that a resumed residue replaces (R155). -/
  replaces : List Origin
  /-- The plat whose pre-empting capsule this onward capsule waits behind (R158). -/
  behind : Option Nat
  /-- Has drain made it unplaceable while its chain was pending (R16)? -/
  drained : Bool
deriving DecidableEq, Repr

/-- A handler record (R173). -/
structure Handler where
  v : Bool
  det : Bool
  rwin : Nat
  bcls : Nat
  pri : BitVec 2
  entry : Nat
  stklen : Nat
  stkbase : Nat
deriving DecidableEq, Repr

/-- A launch table entry (R179) with what placement has loaded for its capsule: the handler tables, the code in the
instruction stores (bundles that are not zero), and the extents in force. -/
structure Launch where
  cap : Capsule
  plat : Nat
  placedAt : Nat
  loaded : Bool
  handlers : SMap Handler
  code : SMap Word
  extents : List Extent
  pending : Option Capsule
  cancelled : Bool
  preempting : Bool
  /-- The plat's repair-unit list: hart indexes of the units, in order of first declaration (R63). -/
  units : List Nat
  /-- The plat's repair regime, and the one that it takes at its next ply boundary (R74). -/
  regime : Bool
  regimeNext : Option Bool
  lastDigest : Option (BitVec 32)
  /-- The step digests posted and not yet compared, each with the cycle of its post (R202). -/
  digests : List (BitVec 32 × BitVec 256 × Nat)
  halted : Bool
  idleSince : Option Nat
deriving DecidableEq, Repr

/-- The states of R178. -/
inductive PlatState where
  | free | placing | running | quiescing | spilling | fenced | zeroing | offline
deriving DecidableEq, Repr

/-- A plat table entry (R177). -/
structure PlatEntry where
  state : PlatState
  drain : Bool
  defd : Bool
  launch : Option Nat
  h : Nat
  w : Nat
  y2 : Nat
  x4 : Nat
  rbudget : BitVec 16
  tag : BitVec 16
  /-- A cluster of the plat has been retired: it goes OFFLINE when its capsule has ended (R178). -/
  retiring : Bool
  /-- The onward capsule that keeps this plat (R152). -/
  onward : Option Capsule
  /-- The waiting capsule that a pre-emption frees this plat for (R193, R194), which an onward capsule waits behind (R158). -/
  claim : Option Capsule
  /-- The pre-emption's reason: 0 none, 1 pre-emption, 2 cancel. -/
  quiesce : Nat
deriving DecidableEq, Repr

/-- A completion counter (R188). -/
structure Counter where
  ended : BitVec 32
  done : BitVec 32
  live : Nat
  cxl : Bool
  last : BitVec 16
deriving DecidableEq, Repr

/-- A user queue (R136), with the counter wait that holds it (R137) and the numbers of its packets that have not
completed (R138). -/
structure UserQueue where
  ring : Word
  log2 : Nat
  rdAddr : Word
  rd : BitVec 32
  wr : BitVec 32
  error : Bool
  wait : Option (Nat × BitVec 32 × Word × BitVec 32)
  open' : List Nat
deriving DecidableEq, Repr

/-- A registered grant (R148): its digest and its bytes. -/
structure Grant where
  digest : BitVec 256
  bytes : List Byte
deriving DecidableEq, Repr

/-- An entry of the verified-grant cache (R148). -/
structure CachedGrant where
  digest : BitVec 256
  owner : BitVec 32
  serial : Word
  ranges : List (Nat × Nat × BitVec 4 × Bool)
  sealKey : BitVec 256
deriving DecidableEq, Repr

/-- A fault log record (R183). -/
structure FaultRec where
  code : BitVec 16
  detail : BitVec 12
  time : Word
  plat : Nat
  tag : BitVec 16
  core : Nat
  addr : Word
  /-- The cycle of the record, which orders records of one cycle (R187), and the stamp that STALE_STAMP records (R67, R76). -/
  at' : Nat
  stamp : Option (BitVec 48)
deriving DecidableEq, Repr

/-- A page migration's map entry (R60). -/
structure Migration where
  source : Nat
  target : Nat
  dirty : BitVec 16
  /-- The next sub-block of step 2, 16 once it has ended, and the passes of step 3. -/
  next : Nat
  passes : Nat
deriving DecidableEq, Repr

/-- A received flit: 32 words (R139). -/
abbrev Flit := List Word

/-- A link port (R134, R139 to R141). -/
structure Port where
  down : Bool
  dropped : Nat
  retrans : Nat
  /-- Failed transmissions in a row of each flit, by FSEQ and FLOW (R141). -/
  failures : SMap Nat
  /-- The FSEQ of each flow up to which every flit has been delivered, and the numbers of the flits delivered beyond it (R139,
  R140). -/
  expect : SMap (BitVec 32)
  beyond : List Nat
  /-- Flits held for their tick or, in fallback ordering, for their sequence (R140). -/
  held : List Flit
  /-- Block data held on the link while the block-assignment queue is full (R134). -/
  stalled : List Flit
  /-- The cycle of the last exchange tick boundary. -/
  tickAt : Nat
  /-- The next FSEQ of each flow that the port sends (R191), the last 128 flits sent, newest first, and every flit that has
  left on the link, oldest first (R139). -/
  fseq : SMap (BitVec 32)
  replay : List Flit
  wire : List Flit
  /-- How often each flit in the replay buffer has been requested again, by DMOD, FLOW and FSEQ (R141). -/
  resent : SMap Nat
deriving DecidableEq, Repr

/-- A collective block that a gateway core gathers (R135): its launch and number, the contributor count, the contributions
by rank, and the exchange tick at which it times out. -/
structure Collective where
  hart : Nat
  launch : Nat
  block : Nat
  count : Nat
  parts : SMap (List Word)
  deadline : BitVec 32
deriving DecidableEq, Repr

/-! ## The survey complex -/

/-- A management core of the survey complex (R1): its integer, floating-point and vector registers, its control and status
registers, and its pc. What its firmware computes is not given (log 61). -/
structure SurveyCore where
  x : Vector Word 32
  f : Vector Word 32
  v : Vector (List Byte) 32
  csr : SMap Word
  pc : Word
deriving DecidableEq, Repr

/-- What the survey firmware does beside the events of the opcode table (R1, R38, R62; log 61): a core's own registers, bytes
of the module flash, bytes of the reserved HBM range, the ordering of a plat's gateway core, the binding of the module as a
replica (R202), or DEF of a plat cleared (R177). -/
inductive Firmware where
  | core (k : Fin 16) (c : SurveyCore)
  | flash (addr : Nat) (bytes : List Byte)
  | reserved (addr : Nat) (bytes : List Byte)
  | ordering (plat hart : Nat) (fallback : Bool)
  | replica (bound : Bool)
  | undefine (plat : Nat)
deriving DecidableEq, Repr

/-! ## The module -/

/-- Which agent moves next: a word of a side of a slot, an event, the survey firmware, or cycles passing. The
agenda is the order in which the module's agents act, which the spec leaves open (log 2). -/
inductive Turn where
  | word (hart slot : Nat) (side : Side)
  | event (i : Instr)
  | firmware (f : Firmware)
  /-- A gateway core's hardware sends a flit through a port: its flow, FTYPE, CELLS and BLEN, its DMOD and its body (R139). -/
  | transmit (port flow ftype cells blen dmod : Nat) (body : List Word)
  | pass (cycles : Nat)
deriving DecidableEq, Repr

/-- The whole module. -/
structure State where
  harts : SMap Hart
  clusters : SMap Cluster
  plats : SMap PlatEntry
  launches : SMap Launch
  waitList : List Capsule
  counters : SMap Counter
  queues : SMap UserQueue
  grants : List Grant
  cache : List CachedGrant
  minSerial : SMap Word
  tagCtr : BitVec 16
  ownCtr : BitVec 48
  residueSerial : Word
  residues : SMap Residue
  hbm : Memory
  /-- Poisoned 64-byte granules, by granule number (R59). -/
  poison : List Nat
  remap : SMap Nat
  migrations : List Migration
  retiredPages : List Nat
  /-- The lines (256 bytes) that the last-level cache holds, a dirty one with the placement tag of its writer's plat (R56,
  R59). -/
  llc : SMap (Option (BitVec 16))
  hostMem : Memory
  retiredClusters : List Nat
  eccCorrectable : Nat
  eccUncorrectable : Nat
  faultLog : List FaultRec
  ready : Bool
  drain : Bool
  outOfService : Bool
  grade4 : BitVec 16
  gzbase : Word
  gzed : Word
  gzChanged : Bool
  gzLast : Nat
  doorbells : List Word
  ports : SMap Port
  collectives : List Collective
  net : List NetItem
  guards : List Guard
  /-- The survey cores, the module flash by byte, and its contents as boot has measured them (R1). -/
  survey : Vector SurveyCore 16
  /-- The module's identifier on its links (R139), and whether it is bound as a replica (R202). -/
  moduleId : BitVec 16
  replicated : Bool
  flash : Memory
  measured : Memory
  /-- The next operation number, and the next packet number. -/
  nextId : Nat
  nextPacket : Nat
  cycle : Nat
  cur : Nat × Nat × Side
  agenda : List Turn
  fresh : Nat
deriving DecidableEq, Repr

/-! ## Reset -/

/-- A slot that runs nothing, every register at its reset value (R20 to R28; log 1). -/
def Slot.reset : Slot :=
  { running := false, act := 0, ctx := 0, a := Vector.replicate 16 0, sm := Vector.replicate 4 0, pc := 0, rs := [],
    swp := 0, e := Vector.replicate 16 0, v := Vector.replicate 8 0, p := Vector.replicate 8 0, aFmtsave := 0,
    aPP := false, inTrap := false, pri := 0, chan := 0, det := false, paired := false, budleft := 0, eFmtsave := 0,
    ePP := false, sat := false, rm := 0, flags := 0, tcause := 0, taddr := 0, tpc := 0, tsb := Vector.replicate 16 0,
    tsbIds := [], sb := [], call := none, slip := none, lq := Vector.replicate 4 [], sq := Vector.replicate 2 [],
    cq := [], bq := [], path := [], aPrefix := none, ePrefix := none, eTable := none, eDone := false, aWait := none, eWait := none,
    late := [], startCycle := 0, ticks := 0, smBusy := [], agreed := false, inHandler := [] }

/-- A unit state as placement or extent loading makes it (R39). -/
def OrUnit.reset : OrUnit :=
  { swm := 0xffffffffffff, regime := false, lines := [], counts := [], waiting := [] }

/-- A context as placement or extent loading makes it, before the capsule's records are loaded. -/
def Ctx.reset (launch : Nat) : Ctx :=
  { launch := launch, scratch := [], empties := [], masks := 0, ring := [], ringTail := 0, table := [], ply := 0, sseq := 0,
    expected := [], futFree := [], unit := OrUnit.reset, checkers := [], appends := [], arrived := false, filter := [],
    seqNext := [], seqHeld := [], amaxOpen := [], amaxHeld := [], folded := [] }

/-- A core without a capsule. Of a gateway core's gwst at boot ALIGNED, FALLBACK and XTICK are 0: DESIGN CHOICE, no rule gives
their reset values (R38; log 1). -/
def Hart.reset : Hart :=
  { slots := Vector.replicate 8 Slot.reset, ctxs := [], l1 := [], copies := [], fpr := 0, commit := [],
    checkpoint := none, sinceAgree := 0, selftest := false, testSince := 0, mismatched := false, fptForced := false, started := [],
    aligned := false, fallback := false, xtick := 0, out := [], passOver := 0, acts := 0, gone := [],
    wroteAt := 0, wrote := [] }

/-- A free accumulator slot (R35). -/
def Acc.reset : Acc := { state := 0, ocore := 0, oslot := 0, oact := 0, port := false, draining := false, cells := [], flags := 0 }

/-- A cluster's engines at placement (R34 to R37); the first request taken is that of position 0 (R334). -/
def Cluster.reset : Cluster :=
  { jobs := [], nextId := 0, cstall := false, carries := [], accs := Vector.replicate 8 Acc.reset, lastPos := 7,
    mxReqs := [], own := 0, cpq := Vector.replicate 4 [], cpNextId := 0, cpReqs := [], cpLastPos := 7, accepted := none,
    cpAccepted := none, l2 := [] }

/-- A plat table entry that defines nothing (R177). -/
def PlatEntry.reset : PlatEntry :=
  { state := .free, drain := false, defd := false, launch := none, h := 0, w := 0, y2 := 0, x4 := 0, rbudget := 256,
    tag := 0, retiring := false, onward := none, claim := none, quiesce := 0 }

/-- A completion counter at boot (R188). -/
def Counter.reset : Counter := { ended := 0, done := 0, live := 0, cxl := false, last := 0 }

/-- A link port at set-up (R139, R141). -/
def Port.reset : Port :=
  { down := false, dropped := 0, retrans := 0, failures := [], expect := [], beyond := [], held := [], stalled := [], tickAt := 0,
    fseq := [], replay := [], wire := [], resent := [] }

/-- A survey core at reset (log 1). -/
def SurveyCore.reset : SurveyCore :=
  { x := Vector.replicate 32 0, f := Vector.replicate 32 0, v := Vector.replicate 32 [], csr := [], pc := 0 }

/-- The module right after reset (R18, R40, R177, R188): nothing is placed, no queue is configured, every register
holds its reset value. Until the first boot has measured the flash, the module's link identifier is 0 and all 32 ports are up: DESIGN
CHOICE, the spec gives neither a reset value (R1; log 1, log 61). -/
def State.reset : State :=
  { harts := [], clusters := [], plats := [], launches := [], waitList := [], counters := [], queues := [], grants := [],
    cache := [], minSerial := [], tagCtr := 0, ownCtr := 0, residueSerial := 0, residues := [], hbm := [], poison := [], remap := [],
    migrations := [], retiredPages := [], llc := [], hostMem := [], retiredClusters := [], eccCorrectable := 0,
    eccUncorrectable := 0, faultLog := [], ready := false, drain := false, outOfService := false, grade4 := 0, gzbase := 0,
    gzed := 0, gzChanged := false, gzLast := 0, doorbells := [], ports := [], collectives := [], net := [], guards := [],
    survey := Vector.replicate 16 SurveyCore.reset, moduleId := 0, replicated := false, flash := [],
    measured := [], nextId := 0, nextPacket := 0, cycle := 0, cur := (0, 0, .aSide), agenda := [], fresh := 0 }

end Sys2Proof.Machine
end

