-- ==== Sys2Proof/Machine/Codes.lean ====
section
/-! DEFINITION. The fault codes of spec/10 R184 and their grades (spec/00 R5). -/

namespace Sys2Proof.Machine

def codePreempted : BitVec 16 := 0x0001
def codeOrcOverflow : BitVec 16 := 0x2001
def codeLinkTimeout : BitVec 16 := 0x2002
def codeCollective : BitVec 16 := 0x2003
def codeTransientEcc : BitVec 16 := 0x2004
def codeUncorrectable : BitVec 16 := 0x4001
def codePairMismatch : BitVec 16 := 0x4002
def codeSelftest : BitVec 16 := 0x4003
def codePlatFenced : BitVec 16 := 0x4004
def codeDrain : BitVec 16 := 0x4005
def codeStale : BitVec 16 := 0x4006
def codeIllegal : BitVec 16 := 0x6001
def codeReserved : BitVec 16 := 0x6002
def codePrefix : BitVec 16 := 0x6003
def codeCodeEnd : BitVec 16 := 0x6004
def codeBounds : BitVec 16 := 0x6005
def codeSpace : BitVec 16 := 0x6006
def codeAlign : BitVec 16 := 0x6007
def codeStack : BitVec 16 := 0x6008
def codeBudget : BitVec 16 := 0x6009
def codeHang : BitVec 16 := 0x600a
def codeSeal : BitVec 16 := 0x600b
def codeGrant : BitVec 16 := 0x600c
def codeOverlap : BitVec 16 := 0x600d
def codeCapability : BitVec 16 := 0x600e
def codeCarryFull : BitVec 16 := 0x600f
def codeChain : BitVec 16 := 0x6010
def codeQueueMisuse : BitVec 16 := 0x6011
def codeDeviceFatal : BitVec 16 := 0x8001
def codeThermal : BitVec 16 := 0x8002

/-- A code's grade is its bits [15:13] (R5). -/
def grade (code : BitVec 16) : Nat := code.toNat / 8192

end Sys2Proof.Machine
end

