-- ==== Sys2Proof/Machine/Store.lean ====
section
/-! DEFINITION. Sparse maps and byte memories: looking up, writing, and erasing, with memories kept in their canonical
form (log 3). -/

namespace Sys2Proof.Machine

/-! ## Sparse maps -/

/-- The value at key k, if the map lists one. -/
def SMap.find {α : Type} (k : Nat) : SMap α → Option α
  | [] => none
  | (j, a) :: m => if j = k then some a else SMap.find k m

/-- The map with key k at a; the keys stay in rising order. -/
def SMap.set {α : Type} (k : Nat) (a : α) : SMap α → SMap α
  | [] => [(k, a)]
  | (j, b) :: m => if k < j then (k, a) :: (j, b) :: m else if j = k then (k, a) :: m else (j, b) :: SMap.set k a m

/-- The map without key k. -/
def SMap.erase {α : Type} (k : Nat) : SMap α → SMap α
  | [] => []
  | (j, b) :: m => if j = k then m else (j, b) :: SMap.erase k m

/-- The value at key k, or the default. -/
def SMap.getD {α : Type} (m : SMap α) (k : Nat) (d : α) : α := (SMap.find k m).getD d

/-- The value at key k changed by f, starting from the default where the map lists none. -/
def SMap.modify {α : Type} (m : SMap α) (k : Nat) (d : α) (f : α → α) : SMap α := SMap.set k (f (SMap.getD m k d)) m

/-! ## Byte memories -/

/-- The byte at address a; a byte that nothing has written reads as zero (R46, R58; log 3). -/
def Memory.read (m : Memory) (a : Nat) : Byte := (SMap.find a m).getD 0

/-- The memory with byte b at address a, in canonical form. -/
def Memory.write (m : Memory) (a : Nat) (b : Byte) : Memory :=
  if b = 0 then SMap.erase a m else SMap.set a b m

/-- Are the addresses strictly rising from lo, and no listed byte zero? -/
def Memory.wfFrom : Nat → Memory → Bool
  | _, [] => true
  | lo, (a, b) :: m => decide (lo ≤ a) && decide (b ≠ 0) && Memory.wfFrom (a + 1) m

/-- The canonical form of a memory. -/
def Memory.wf (m : Memory) : Bool := Memory.wfFrom 0 m

/-- The n bytes from address a, lowest address first. -/
def Memory.bytes (m : Memory) (a : Nat) : Nat → List Byte
  | 0 => []
  | n + 1 => Memory.read m a :: Memory.bytes m (a + 1) n

/-- The memory with the bytes written from address a upward. -/
def Memory.writeBytes (m : Memory) (a : Nat) : List Byte → Memory
  | [] => m
  | b :: bs => Memory.writeBytes (Memory.write m a b) (a + 1) bs

/-- The little-endian value of bytes (R3). -/
def leValue : List Byte → Nat
  | [] => 0
  | b :: bs => b.toNat + 256 * leValue bs

/-- The n low bytes of a value, lowest first (R3). -/
def leBytes (v : Nat) : Nat → List Byte
  | 0 => []
  | n + 1 => BitVec.ofNat 8 v :: leBytes (v / 256) n

/-- The n-byte little-endian value at address a (R3). -/
def Memory.readN (m : Memory) (a n : Nat) : Nat := leValue (Memory.bytes m a n)

/-- The memory with the n-byte little-endian value v at address a (R3). -/
def Memory.writeN (m : Memory) (a n v : Nat) : Memory := Memory.writeBytes m a (leBytes v n)

/-- A 64-bit word of memory. -/
def Memory.word (m : Memory) (a : Nat) : Word := BitVec.ofNat 64 (Memory.readN m a 8)

/-- The memory with n bytes from address a zeroed. -/
def Memory.zero (m : Memory) (a n : Nat) : Memory := m.filter fun c => !(decide (a ≤ c.1) && decide (c.1 < a + n))

/-! ## Lists -/

/-- The list with its k-th element changed. -/
def modifyAt {α : Type} (f : α → α) : Nat → List α → List α
  | _, [] => []
  | 0, x :: xs => f x :: xs
  | k + 1, x :: xs => x :: modifyAt f k xs

/-- The list without its k-th element. -/
def removeAt {α : Type} : Nat → List α → List α
  | _, [] => []
  | 0, _ :: xs => xs
  | k + 1, x :: xs => x :: removeAt k xs

/-- The numbers lo, lo + 1, ... of a count. -/
def upFrom (lo : Nat) : Nat → List Nat
  | 0 => []
  | n + 1 => lo :: upFrom (lo + 1) n

end Sys2Proof.Machine
end

