-- ==== Sys2Proof/Machine/Access.lean ====
section
/-! DEFINITION. Reaching the parts of the state: harts, slots, contexts, clusters, plats, launches, counters and the
geometry of the mesh (spec/01 R10, spec/02 R30, spec/07 R130 R134 R345, spec/10 R177). -/

namespace Sys2Proof.Machine

/-! ## Harts, slots and contexts -/

/-- The sender index of the placement engine (R107). -/
def placer : Nat := 0xfffff

/-- The core of sender index h. -/
def hartOf (s : State) (h : Nat) : Hart := SMap.getD s.harts h Hart.reset
/-- The state with core h at H. -/
def putHart (s : State) (h : Nat) (H : Hart) : State := { s with harts := SMap.set h H s.harts }
/-- The core with slot n at σ. -/
def Hart.putSlot (H : Hart) (n : Nat) (σ : Slot) : Hart := { H with slots := H.slots.set (n % 8) σ (Nat.mod_lt n (by decide)) }
/-- Slot n of the core. -/
def Hart.slot (H : Hart) (n : Nat) : Slot := H.slots[n % 8]'(Nat.mod_lt n (by decide))
/-- Eight slots with slot n changed. -/
def modifySlot (f : Slot → Slot) (n : Nat) (σs : Vector Slot 8) : Vector Slot 8 :=
  σs.set (n % 8) (f (σs[n % 8]'(Nat.mod_lt n (by decide)))) (Nat.mod_lt n (by decide))
/-- Slot n of core h. -/
def slotOf (s : State) (h n : Nat) : Slot := (hartOf s h).slot n
/-- The state with slot n of core h at σ. -/
def putSlot (s : State) (h n : Nat) (σ : Slot) : State := putHart s h ((hartOf s h).putSlot n σ)

/-- The current hart index, slot number and slot: whose word exec runs. -/
def curHart (s : State) : Nat := s.cur.1
def curNum (s : State) : Nat := s.cur.2.1
def curSlot (s : State) : Slot := slotOf s (curHart s) (curNum s)
/-- The state with the current slot at σ. -/
def putCur (s : State) (σ : Slot) : State := putSlot s (curHart s) (curNum s) σ

/-- Is h a compute core, a channel core, a gateway core (R107)? -/
def isCompute (h : Nat) : Bool := decide (h < Config.nCompute)
def isChannel (h : Nat) : Bool := decide (Config.nCompute ≤ h) && decide (h < Config.nChannelEnd)
def isGateway (h : Nat) : Bool := decide (Config.nChannelEnd ≤ h) && decide (h < Config.nHarts)

/-- Bytes of the hart's own scratchpad (R21, R45, R131). -/
def ownBytes (h : Nat) : Nat := if isCompute h then Config.scratchBytes else Config.ctxBytes

/-- The context of launch L on a core; a context at reset where the core holds none. -/
def Hart.ctx (H : Hart) (L : Nat) : Ctx := (H.ctxs.find? (fun c => c.launch == L)).getD (Ctx.reset L)
/-- Does the core hold a context of launch L? -/
def Hart.hasCtx (H : Hart) (L : Nat) : Bool := H.ctxs.any (fun c => c.launch == L)

/-- The list of contexts with that of launch L at c. -/
def putCtxIn (c : Ctx) : List Ctx → List Ctx
  | [] => [c]
  | d :: ds => if d.launch = c.launch then c :: ds else d :: putCtxIn c ds

/-- The core with its context of launch c.launch at c. -/
def Hart.putCtx (H : Hart) (c : Ctx) : Hart := { H with ctxs := putCtxIn c H.ctxs }
/-- The context of launch L on core h. -/
def ctxOf (s : State) (h L : Nat) : Ctx := (hartOf s h).ctx L
/-- The state with the context of launch c.launch on core h at c. -/
def putCtx (s : State) (h : Nat) (c : Ctx) : State := putHart s h ((hartOf s h).putCtx c)

/-- The launch of the current activation (R345), and its context. -/
def curLaunch (s : State) : Nat := (curSlot s).ctx
def curCtx (s : State) : Ctx := ctxOf s (curHart s) (curLaunch s)

/-- Has a higher slot of the core written the mask or table entry k of the launch in this cycle? It stands, and what the current slot
writes in the cycle comes before it (R314). -/
def laterWrote (k : Nat) (s : State) : Bool :=
  let H := hartOf s (curHart s)
  H.wroteAt == s.cycle && H.wrote.any fun x => decide (curNum s < x.1) && x.2.1 == curLaunch s && x.2.2 == k

/-- The write of the current slot to the mask or table entry k noted. -/
def noteWrite (k : Nat) (s : State) : State :=
  let H := hartOf s (curHart s)
  let old := if H.wroteAt == s.cycle then H.wrote else []
  putHart s (curHart s) { H with wroteAt := s.cycle, wrote := (curNum s, curLaunch s, k) :: old }
/-- The state with the current activation's context at c. -/
def putCurCtx (s : State) (c : Ctx) : State := putCtx s (curHart s) c

/-! ## The mesh (R10) -/

def coreX (h : Nat) : Nat := h % 1024
def coreY (h : Nat) : Nat := h / 1024
/-- The cluster of a compute core. -/
def clusterOfCore (h : Nat) : Nat := coreY h / 2 * 256 + coreX h / 4
/-- The position of a compute core in its cluster (R30). -/
def posInCluster (h : Nat) : Nat := coreX h % 4 + 4 * (coreY h % 2)
/-- The core at a position of a cluster. -/
def coreOfCluster (c pos : Nat) : Nat := (c / 256 * 2 + pos / 4) * 1024 + (c % 256 * 4 + pos % 4)
/-- The cores of a cluster in position order. -/
def coresOfCluster (c : Nat) : List Nat := (upFrom 0 8).map (coreOfCluster c)

def clusterOf (s : State) (c : Nat) : Cluster := SMap.getD s.clusters c Cluster.reset
def putCluster (s : State) (c : Nat) (C : Cluster) : State := { s with clusters := SMap.set c C s.clusters }

/-! ## Plats and launches -/

def platOf (s : State) (p : Nat) : PlatEntry := SMap.getD s.plats p PlatEntry.reset
def putPlat (s : State) (p : Nat) (P : PlatEntry) : State := { s with plats := SMap.set p P s.plats }

/-- Does the rectangle of a plat hold the core (R10, R177)? -/
def PlatEntry.holds (P : PlatEntry) (h : Nat) : Bool :=
  decide (h < Config.nCompute) && decide (P.x4 ≤ coreX h / 4) && decide (coreX h / 4 < P.x4 + P.w) &&
  decide (P.y2 ≤ coreY h / 2) && decide (coreY h / 2 < P.y2 + P.h)

/-- The plat that holds a core. -/
def platOfCore (s : State) (h : Nat) : Option (Nat × PlatEntry) := s.plats.find? (fun p => p.2.defd && p.2.holds h)

/-- The cores of a plat in core-index order. -/
def PlatEntry.cores (P : PlatEntry) : List Nat :=
  (upFrom (P.y2 * 2) (P.h * 2)).flatMap fun y => (upFrom (P.x4 * 4) (P.w * 4)).map fun x => y * 1024 + x

/-- The clusters of a plat in index order. -/
def PlatEntry.clusters (P : PlatEntry) : List Nat :=
  (upFrom P.y2 P.h).flatMap fun y => (upFrom P.x4 P.w).map fun x => y * 256 + x

def launchOf (s : State) (L : Nat) : Option Launch := SMap.find L s.launches
def putLaunch (s : State) (L : Nat) (l : Launch) : State := { s with launches := SMap.set L l s.launches }
/-- The state with launch L changed, if it stands in the launch table. -/
def modLaunch (s : State) (L : Nat) (f : Launch → Launch) : State :=
  match launchOf s L with
  | some l => putLaunch s L (f l)
  | none => s

/-- The plat of launch L. -/
def platOfLaunch (s : State) (L : Nat) : PlatEntry :=
  match launchOf s L with
  | some l => platOf s l.plat
  | none => PlatEntry.reset

/-- Does core h lie in the plat of launch L (R44)? -/
def inPlat (s : State) (L h : Nat) : Bool := (platOfLaunch s L).holds h

/-! ## Header fields (R144) -/

/-- Header word n of a capsule. -/
def Capsule.word (c : Capsule) (n : Nat) : Nat := (c.hdr[n % 32]'(Nat.mod_lt n (by decide))).toNat
/-- Bits [lo + len - 1 : lo] of header word n. -/
def Capsule.bits (c : Capsule) (n lo len : Nat) : Nat := c.word n / 2 ^ lo % 2 ^ len
def Capsule.next (c : Capsule) : Nat := c.bits 0 8 8
def Capsule.storech (c : Capsule) : Nat := c.bits 1 54 6
def Capsule.loadch (c : Capsule) : Nat := c.bits 1 48 6
def Capsule.spillx (c : Capsule) : Nat := c.bits 1 42 6
def Capsule.codex (c : Capsule) : Nat := c.bits 1 36 6
def Capsule.pqd (c : Capsule) : Nat := c.bits 1 28 4 + 1
def Capsule.h (c : Capsule) : Nat := c.bits 1 18 10
def Capsule.w (c : Capsule) : Nat := c.bits 1 8 10
def Capsule.residue (c : Capsule) : Bool := c.bits 1 4 1 == 1
def Capsule.pipe (c : Capsule) : Bool := c.bits 1 3 1 == 1
def Capsule.preempt (c : Capsule) : Bool := c.bits 1 2 1 == 1
def Capsule.cpmode (c : Capsule) : Bool := c.bits 1 1 1 == 1
def Capsule.paired (c : Capsule) : Bool := c.bits 1 0 1 == 1
def Capsule.jobc (c : Capsule) : Nat := c.bits 3 24 12
def Capsule.phasec (c : Capsule) : Nat := c.bits 3 12 12
def Capsule.graphc (c : Capsule) : Nat := c.bits 3 0 12
/-- Budget class b (R144). -/
def Capsule.budget (c : Capsule) (b : Nat) : Nat := c.bits (4 + b / 4 % 2) (12 * (b % 4)) 12
def Capsule.argoff (c : Capsule) : Nat := c.bits 6 32 18
def Capsule.codelen (c : Capsule) : Nat := c.bits 6 16 15
def Capsule.arglen (c : Capsule) : Nat := c.bits 6 0 13
def Capsule.startall (c : Capsule) : Bool := c.bits 7 6 1 == 1
def Capsule.startch (c : Capsule) : Nat := c.bits 7 0 6
/-- Region r of the region table (R47): KIND, LEN and BASE. -/
def Capsule.regionKind (c : Capsule) (r : Nat) : Nat := c.bits (8 + r % 16) 36 4
def Capsule.regionLen (c : Capsule) (r : Nat) : Nat := c.bits (8 + r % 16) 18 18
def Capsule.regionBase (c : Capsule) (r : Nat) : Nat := c.bits (8 + r % 16) 0 18
/-- The counters a header names, each once; index 0 names none (R188, R189). -/
def Capsule.counters (c : Capsule) : List Nat := [c.graphc, c.phasec, c.jobc].eraseDups.filter (· != 0)

/-- The declared regions of a kind, as base and length (R47). -/
def Capsule.regions (c : Capsule) (kind : Nat) : List (Nat × Nat) :=
  ((upFrom 0 16).filter (fun r => c.regionKind r == kind)).map fun r => (c.regionBase r, c.regionLen r)

/-- The overflow ring of a compute core: the declared ring, or 8 KiB at 0x2e000 (R49). -/
def Capsule.ring (c : Capsule) : Nat × Nat :=
  match c.regions 3 with
  | r :: _ => r
  | [] => (0x2e000, 0x2000)

/-- Do two ranges share a byte (log 59)? -/
def overlaps (a la b lb : Nat) : Bool := decide (0 < la) && decide (0 < lb) && decide (a < b + lb) && decide (b < a + la)

/-- Does a range of a hart's own scratchpad touch a ring region (R49, R131)? -/
def touchesRing (c : Capsule) (h off n : Nat) : Bool :=
  if isCompute h then overlaps off n c.ring.1 c.ring.2 else overlaps off n 0xe000 0x2000
/-- Does it touch a region of a kind that compute cores declare? -/
def touchesKind (c : Capsule) (h kind off n : Nat) : Bool :=
  isCompute h && (c.regions kind).any fun r => overlaps off n r.1 r.2
/-- Does it touch a stack region (R47, R131)? -/
def touchesStack (c : Capsule) (h off n : Nat) : Bool :=
  if isCompute h then touchesKind c h 4 off n else overlaps off n 0xc000 0x2000

/-- Entries of the hart's overflow ring (R49, R131). -/
def ringEntries (c : Capsule) (h : Nat) : Nat := if isCompute h then c.ring.2 / 64 else 128

/-- The handler record of entry k of a launch (R173). -/
def Launch.handler (l : Launch) (k : Nat) : Option Handler :=
  match SMap.find k l.handlers with
  | some r => if r.v then some r else none
  | none => none

/-- The base of slot n's stack window for a handler on hart h (R50, R131). -/
def windowBase (c : Capsule) (h : Nat) (r : Handler) (n : Nat) : Nat :=
  if isCompute h then r.stkbase + n * r.stklen
  else
    let b := match c.regions 4 with
      | x :: _ => x.1
      | [] => r.stkbase
    0xc000 + (r.stkbase - b) + n * r.stklen

/-- A word as a stream register holds it: the reserved bits [45:36] read as zero (R4, R21). -/
def smWord (w : Word) : Word := w &&& 0xffffc00fffffffff

/-! ## Counters and the fault log -/

def counterOf (s : State) (c : Nat) : Counter := if c = 0 then Counter.reset else SMap.getD s.counters c Counter.reset
/-- The state with counter c changed; counter 0 never moves (R188). -/
def modCounter (s : State) (c : Nat) (f : Counter → Counter) : State :=
  if c = 0 then s else { s with counters := SMap.modify s.counters c Counter.reset f }

/-- A record entered in a log that is newest first; of the records of one cycle the lower code is entered first (R187). -/
def enterRecord (r : FaultRec) : List FaultRec → List FaultRec
  | [] => [r]
  | x :: xs => if x.at' = r.at' ∧ r.code.toNat < x.code.toNat then x :: enterRecord r xs else r :: x :: xs

/-- The state with a record entered in the fault log, which keeps the 64 newest (R183), and with the stamp that the gazetteer
records for STALE_STAMP (R67, R76). -/
def logStamped (s : State) (stamp : Option (BitVec 48)) (code : BitVec 16) (detail : BitVec 12) (plat : Nat)
    (tag : BitVec 16) (core : Nat) (addr : Word) : State :=
  let r : FaultRec := ⟨code, detail, Config.time1588 s.cycle, plat, tag, core, addr, s.cycle, stamp⟩
  { s with faultLog := (enterRecord r s.faultLog).take 64, gzChanged := true }

/-- The state with a record entered in the fault log. -/
def logFault (s : State) (code : BitVec 16) (detail : BitVec 12) (plat : Nat) (tag : BitVec 16) (core : Nat)
    (addr : Word) : State := logStamped s none code detail plat tag core addr

/-- An operation number, and the state that has given it. -/
def newId (s : State) : Nat × State := (s.nextId, { s with nextId := s.nextId + 1 })

/-! ## Serial order -/

/-- Ply p comes before ply q (R65). -/
def plyBefore (p q : BitVec 16) : Bool :=
  let d := (q - p).toNat
  (decide (1 ≤ d) && decide (d ≤ 32767)) || (d == 32768 && decide (p.toNat < q.toNat))
/-- The fields of a stamp (R107). -/
def stampPly (t : BitVec 48) : BitVec 16 := t.extractLsb' 32 16
def stampSender (t : BitVec 48) : Nat := (t.extractLsb' 12 20).toNat
def stampSeq (t : BitVec 48) : Nat := (t.extractLsb' 0 12).toNat
/-- Stamp s comes before stamp t (R65). -/
def stampBefore (s t : BitVec 48) : Bool :=
  plyBefore (stampPly s) (stampPly t) ||
  (stampPly s == stampPly t && decide ((s.extractLsb' 0 32).toNat < (t.extractLsb' 0 32).toNat))
/-- StampLE (R65). -/
def stampLE (s t : BitVec 48) : Bool := s == t || stampBefore s t
/-- End(n) (R65). -/
def endOf (n : BitVec 16) : BitVec 48 := n ++ (0xffffffff : BitVec 32)
/-- A stamp from its fields (R107). -/
def mkStamp (ply : BitVec 16) (sender seq : Nat) : BitVec 48 := ply ++ BitVec.ofNat 20 sender ++ BitVec.ofNat 12 seq

/-! ## Pseudo-channels (R56) -/

/-- The global pseudo-channel of an address. -/
def pseudoChannel (addr : Nat) : Nat :=
  let p := addr / 4096
  Nat.xor (Nat.xor (p % 1024) (p / 1024 % 1024)) (p / 1048576 % 512)

end Sys2Proof.Machine
end

