-- ==== Sys2Proof/WellFormed.lean ====
section
/-! DEFINITION. Which instructions are well formed: the combinations of fields that an entry of spec/12 to spec/18
forbids (check 5 of R221) and the reserved values that a field of the syntax can still hold. -/

namespace Sys2Proof

/-- A load's fields may stand together (R83, R242); the size may be a reserved code, which check 6 reports. -/
def loadLegal (d : ADst) (sz : Option Size) (ord : Ord) : Bool :=
  (match d with
    | .lq _ | .z => true
    | .sm _ => sz == some .b8
    | .a _ => sz != some .b64) && ord != .rel

/-- A store's fields may stand together (R83, R242). -/
def storeLegal (d : ASrc) (sz : Option Size) (ord : Ord) : Bool :=
  (match d with
    | .sq _ | .z => true
    | _ => sz != some .b64) && ord != .acq

/-- The space codes alu.mkm may carry (R238). -/
def mkmLegal (sp : BitVec 4) : Bool := sp == 1 || sp == 2 || sp == 5
/-- The space codes alu.mkx may carry (R238). -/
def mkxLegal (sp : BitVec 4) : Bool := sp == 4 || sp == 5
/-- The space codes alu.mks may carry (R238). -/
def mksLegal (sp : BitVec 4) : Bool := sp == 6 || sp == 7

/-- A well-formed instruction: one that its encoding admits. -/
def WellFormed : Instr → Bool
  | .aluMkm _ _ _ sp => mkmLegal sp
  | .aluMkx _ _ _ sp => mkxLegal sp
  | .aluMks _ _ _ sp => mksLegal sp
  | .memLd d _ sz ord _ _ => loadLegal d (some sz) ord
  | .memLdu d _ sz ord _ _ => loadLegal d (some sz) ord
  | .memSt d _ sz ord _ _ => storeLegal d (some sz) ord
  | .mxqStep _ s _ _ => decide (s.toNat ≤ 12)
  | .mxqSteps _ s _ _ => decide (s.toNat ≤ 12)
  | .mxqDrain _ s _ _ => decide (s.toNat ≤ 15)
  | .mxqRcmd s _ => decide (s.toNat ≤ 9)
  | .cpqCopy _ s _ => decide (s.toNat ≤ 13)
  | .cpqAddf _ s _ => decide (s.toNat ≤ 13)
  | .cpqAddb _ s _ => decide (s.toNat ≤ 13)
  | .cpqAddi _ s _ => decide (s.toNat ≤ 13)
  | .cpqFill _ s _ => decide (s.toNat ≤ 13)
  | .cpqRcmd s _ => decide (s.toNat ≤ 9)
  | _ => true

end Sys2Proof
end

