-- ==== Sys2Proof/Decode.lean ====
section
/-! DEFINITION. Decoding a bundle's words into instructions, with the six checks of spec/12 R221 in their order,
and encoding them, both from the tables of spec/12 R205 to R216, R344 and the entries of spec/13 to spec/18. -/

namespace Sys2Proof

/-- Bits [lo + len - 1 : lo] of an encoded word (R3). -/
def field (w lo len : Nat) : Nat := w / 2 ^ lo % 2 ^ len

/-- What a word that names no instruction raises (R221): ILLEGAL_ENCODING or RESERVED_FIELD, with its DETAIL. -/
inductive DecodeFault where
  | illegal (detail : Nat)
  | reserved (detail : Nat)
deriving DecidableEq, Repr

/-- What decoding a word answers. -/
abbrev Dec (α : Type) := Except DecodeFault α

/-! Operand codes (R211, R344). -/

/-- An A-class source code (R211). -/
def decASrc (c : Nat) : Option ASrc :=
  if h : c < 16 then some (.a ⟨c, h⟩)
  else if c = 20 then some (.sq 0) else if c = 21 then some (.sq 1)
  else if c = 22 then some .cq
  else if c = 23 then some (.sm 0) else if c = 24 then some (.sm 1)
  else if c = 25 then some (.sm 2) else if c = 26 then some (.sm 3)
  else if c = 31 then some .z else none

/-- The code of an A-class source (R211). -/
def encASrc : ASrc → Nat
  | .a n => n.val | .sq n => 20 + n.val | .cq => 22 | .sm n => 23 + n.val | .z => 31

/-- An A-class destination code (R211). -/
def decADst (c : Nat) : Option ADst :=
  if h : c < 16 then some (.a ⟨c, h⟩)
  else if c = 16 then some (.lq 0) else if c = 17 then some (.lq 1)
  else if c = 18 then some (.lq 2) else if c = 19 then some (.lq 3)
  else if c = 23 then some (.sm 0) else if c = 24 then some (.sm 1)
  else if c = 25 then some (.sm 2) else if c = 26 then some (.sm 3)
  else if c = 31 then some .z else none

/-- The code of an A-class destination (R211). -/
def encADst : ADst → Nat
  | .a n => n.val | .lq n => 16 + n.val | .sm n => 23 + n.val | .z => 31

/-- An E scalar source code (R211). -/
def decESrc (c : Nat) : Option ESrc :=
  if h : c < 16 then some (.e ⟨c, h⟩)
  else if c = 16 then some (.lq 0) else if c = 17 then some (.lq 1)
  else if c = 18 then some (.lq 2) else if c = 19 then some (.lq 3)
  else if c = 31 then some .z else none

/-- The code of an E scalar source (R211). -/
def encESrc : ESrc → Nat
  | .e n => n.val | .lq n => 16 + n.val | .z => 31

/-- An E scalar destination code (R211). -/
def decEDst (c : Nat) : Option EDst :=
  if h : c < 16 then some (.e ⟨c, h⟩)
  else if c = 20 then some (.sq 0) else if c = 21 then some (.sq 1)
  else if c = 22 then some .cq
  else if c = 31 then some .z else none

/-- The code of an E scalar destination (R211). -/
def encEDst : EDst → Nat
  | .e n => n.val | .sq n => 20 + n.val | .cq => 22 | .z => 31

/-- An E vector source code (R211). -/
def decVSrc (c : Nat) : Option VSrc :=
  if h : c < 8 then some (.v ⟨c, h⟩)
  else if c = 16 then some (.lq 0) else if c = 17 then some (.lq 1)
  else if c = 18 then some (.lq 2) else if c = 19 then some (.lq 3)
  else if c = 31 then some .z else none

/-- The code of an E vector source (R211). -/
def encVSrc : VSrc → Nat
  | .v n => n.val | .lq n => 16 + n.val | .z => 31

/-- An E vector destination code (R211). -/
def decVDst (c : Nat) : Option VDst :=
  if h : c < 8 then some (.v ⟨c, h⟩)
  else if c = 20 then some (.sq 0) else if c = 21 then some (.sq 1)
  else if c = 22 then some .cq
  else if c = 31 then some .z else none

/-- The code of an E vector destination (R211). -/
def encVDst : VDst → Nat
  | .v n => n.val | .sq n => 20 + n.val | .cq => 22 | .z => 31

/-- A predicate code (R211). -/
def decPred (c : Nat) : Option (Fin 8) := if h : c < 8 then some ⟨c, h⟩ else none

/-- A field that names a0 to a15 alone (R227, R253). -/
def decAReg (c : Nat) : Option (Fin 16) := if h : c < 16 then some ⟨c, h⟩ else none

/-- A register-only field (R344). -/
def decARegZ (c : Nat) : Option ARegZ :=
  if h : c < 16 then some (.a ⟨c, h⟩) else if c = 31 then some .z else none

/-- The code of a register-only field (R344). -/
def encARegZ : ARegZ → Nat
  | .a n => n.val | .z => 31

/-! Coded fields (R83, R208, R216). -/

/-- SZ codes (R208). -/
def decSize (c : Nat) : Option Size :=
  if c = 0 then some .b1 else if c = 1 then some .b2 else if c = 2 then some .b4
  else if c = 3 then some .b8 else if c = 4 then some .b64 else none
/-- The SZ code of a size (R208). -/
def encSize : Size → Nat
  | .b1 => 0 | .b2 => 1 | .b4 => 2 | .b8 => 3 | .b64 => 4
/-- ORD codes (R83); the field has two bits. -/
def decOrd (c : Nat) : Ord :=
  if c = 0 then .plain else if c = 1 then .acq else if c = 2 then .rel else .sc
/-- The ORD code of an order (R83). -/
def encOrd : Ord → Nat
  | .plain => 0 | .acq => 1 | .rel => 2 | .sc => 3
/-- SC codes (R83). -/
def decScope (c : Nat) : Option Scope :=
  if c = 0 then some .core else if c = 1 then some .cluster else if c = 2 then some .plat
  else if c = 3 then some .module else if c = 4 then some .system else none
/-- The SC code of a scope (R83). -/
def encScope : Scope → Nat
  | .core => 0 | .cluster => 1 | .plat => 2 | .module => 3 | .system => 4
/-- Class codes of orc.decl (R216). -/
def decClass (c : Nat) : Option OrcClass :=
  if c = 0 then some .fp32 else if c = 1 then some .fp16 else if c = 2 then some .bf16
  else if c = 3 then some .swap else if c = 4 then some .sbs else if c = 5 then some .cas
  else if c = 6 then some .fma else none
/-- The code of a repair class (R64, R216). -/
def encClass : OrcClass → Nat
  | .fp32 => 0 | .fp16 => 1 | .bf16 => 2 | .swap => 3 | .sbs => 4 | .cas => 5 | .fma => 6
/-- f codes (R216); the field has two bits. -/
def decFp (c : Nat) : FpFmt :=
  if c = 0 then .fp32 else if c = 1 then .fp16 else if c = 2 then .bf16 else .e8m10
/-- The f code of a format (R216). -/
def encFp : FpFmt → Nat
  | .fp32 => 0 | .fp16 => 1 | .bf16 => 2 | .e8m10 => 3
/-- w codes (R216); the field has two bits. -/
def decLane (c : Nat) : LaneW :=
  if c = 0 then .w8 else if c = 1 then .w16 else if c = 2 then .w32 else .w64
/-- The w code of a lane width (R216). -/
def encLane : LaneW → Nat
  | .w8 => 0 | .w16 => 1 | .w32 => 2 | .w64 => 3

/-! The checks of R221 as decoder steps. -/

/-- Check 4: an operand code, refused with the DETAIL of its field. -/
def opnd {α : Type} (detail : Nat) (o : Option α) : Dec α :=
  match o with
  | some a => .ok a
  | none => .error (.illegal detail)

/-- Checks 3 and 5: a condition whose failure is ILLEGAL_ENCODING. -/
def legal (detail : Nat) (b : Bool) : Dec Unit := if b then .ok () else .error (.illegal detail)

/-- Check 6: a field that must hold zero, reported by its lowest bit. -/
def mbz (lo v : Nat) : Dec Unit := if v = 0 then .ok () else .error (.reserved (0x400 + lo))

/-- Check 6: a coded field with reserved values. -/
def coded {α : Type} (lo : Nat) (o : Option α) : Dec α :=
  match o with
  | some a => .ok a
  | none => .error (.reserved (0x400 + lo))

/-- An operand that the entry restricts to a vector register (check 5, R271). -/
def vecOnly (d : VDst) : Dec (Fin 8) :=
  match d with
  | .v n => .ok n
  | _ => .error (.illegal 0x006)

/-- An operand that the entry restricts to an e register (check 5, R264). -/
def eOnly (d : EDst) : Dec (Fin 16) :=
  match d with
  | .e n => .ok n
  | _ => .error (.illegal 0x006)

/-! Fields of the C layouts (R208). -/

def cD (w : Nat) : Nat := field w 20 5
def cS (w : Nat) : Nat := field w 15 5
def cT (w : Nat) : Nat := field w 10 5
def cMod (w : Nat) : Nat := field w 5 5
def cMin (w : Nat) : Nat := field w 0 5

/-- A C.R word without operands. -/
def decC0 (i : Instr) (w : Nat) : Dec Instr := do
  mbz 5 (cMod w); mbz 10 (cT w); mbz 15 (cS w); mbz 20 (cD w); pure i

/-- A C.R word with S alone. -/
def decCS (mk : ASrc → Instr) (w : Nat) : Dec Instr := do
  let s ← opnd 4 (decASrc (cS w))
  mbz 5 (cMod w); mbz 10 (cT w); mbz 20 (cD w); pure (mk s)

/-- A C.R word with S and T. -/
def decCST (mk : ASrc → ASrc → Instr) (w : Nat) : Dec Instr := do
  let s ← opnd 4 (decASrc (cS w)); let t ← opnd 5 (decASrc (cT w))
  mbz 5 (cMod w); mbz 20 (cD w); pure (mk s t)

/-- A C.R word with D and S. -/
def decCDS (mk : ADst → ASrc → Instr) (w : Nat) : Dec Instr := do
  let d ← opnd 3 (decADst (cD w)); let s ← opnd 4 (decASrc (cS w))
  mbz 5 (cMod w); mbz 10 (cT w); pure (mk d s)

/-- A C.R word with D, S and T. -/
def decC3 (mk : ADst → ASrc → ASrc → Instr) (w : Nat) : Dec Instr := do
  let d ← opnd 3 (decADst (cD w)); let s ← opnd 4 (decASrc (cS w)); let t ← opnd 5 (decASrc (cT w))
  mbz 5 (cMod w); pure (mk d s t)

/-- The pointer-composing forms of alu (R238), whose sp must be one the minor lists. -/
def decMk (mk : ADst → ASrc → ASrc → BitVec 4 → Instr) (ok : BitVec 4 → Bool) (w : Nat) : Dec Instr := do
  let d ← opnd 3 (decADst (cD w)); let s ← opnd 4 (decASrc (cS w)); let t ← opnd 5 (decASrc (cT w))
  let sp := BitVec.ofNat 4 (field w 5 4)
  coded 5 (if ok sp then some () else none); mbz 9 (field w 9 1); pure (mk d s t sp)

/-- A C.I word of alui (R239). -/
def decAlui (mk : ADst → ASrc → BitVec 15 → Instr) (w : Nat) : Dec Instr := do
  let d ← opnd 3 (decADst (cD w)); let s ← opnd 4 (decASrc (cS w))
  pure (mk d s (BitVec.ofNat 15 (field w 0 15)))

/-- A shift of alui (R210, R239): IMM[14:6] is reserved. -/
def decAluiSh (mk : ADst → ASrc → BitVec 6 → Instr) (w : Nat) : Dec Instr := do
  let d ← opnd 3 (decADst (cD w)); let s ← opnd 4 (decASrc (cS w))
  mbz 6 (field w 6 9); pure (mk d s (BitVec.ofNat 6 (field w 0 6)))

/-- A conditional branch (R226). -/
def decBr (mk : ASrc → BitVec 17 → Instr) (w : Nat) : Dec Instr := do
  let s ← opnd 4 (decASrc (cD w)); pure (mk s (BitVec.ofNat 17 (field w 0 17)))

/-- A C.B word whose S is unused (R226, R227). -/
def decBr0 (mk : BitVec 17 → Instr) (w : Nat) : Dec Instr := do
  mbz 20 (cD w); pure (mk (BitVec.ofNat 17 (field w 0 17)))

/-- A load (R242). -/
def decLoad (mk : ADst → ASrc → Size → Ord → Scope → BitVec 7 → Instr) (w : Nat) : Dec Instr := do
  let d ← opnd 3 (decADst (cD w)); let b ← opnd 4 (decASrc (cS w))
  let ord := decOrd (field w 10 2)
  legal 6 (loadLegal d (decSize (field w 12 3)) ord)
  let sc ← coded 7 (decScope (field w 7 3)); let sz ← coded 12 (decSize (field w 12 3))
  pure (mk d b sz ord sc (BitVec.ofNat 7 (field w 0 7)))

/-- A store (R242): D is its data source. -/
def decStore (w : Nat) : Dec Instr := do
  let d ← opnd 3 (decASrc (cD w)); let b ← opnd 4 (decASrc (cS w))
  let ord := decOrd (field w 10 2)
  legal 6 (storeLegal d (decSize (field w 12 3)) ord)
  let sc ← coded 7 (decScope (field w 7 3)); let sz ← coded 12 (decSize (field w 12 3))
  pure (.memSt d b sz ord sc (BitVec.ofNat 7 (field w 0 7)))

/-- mem.extpage (R246). -/
def decExtpage (w : Nat) : Dec Instr := do
  let d ← opnd 3 (decADst (cD w)); let b ← opnd 4 (decASrc (cS w))
  mbz 0 (field w 0 7); mbz 7 (field w 7 3); mbz 10 (field w 10 2)
  coded 12 (if field w 12 3 = 3 then some () else none); pure (.memExtpage d b)

/-- An amo with D, S and T (R247). -/
def decAmo (mk : ADst → ASrc → ASrc → Ord → Scope → Instr) (w : Nat) : Dec Instr := do
  let d ← opnd 3 (decADst (cD w)); let s ← opnd 4 (decASrc (cS w)); let t ← opnd 5 (decASrc (cT w))
  let sc ← coded 5 (decScope (field w 5 3)); pure (mk d s t (decOrd (field w 8 2)) sc)

/-- amo.amax and amo.amaxb (R247): D must be z. -/
def decAmax (mk : ASrc → ASrc → Ord → Scope → Instr) (w : Nat) : Dec Instr := do
  let d ← opnd 3 (decADst (cD w)); let s ← opnd 4 (decASrc (cS w)); let t ← opnd 5 (decASrc (cT w))
  legal 6 (d = .z)
  let sc ← coded 5 (decScope (field w 5 3)); pure (mk s t (decOrd (field w 8 2)) sc)

/-- amo.maxrd and amo.maxrdb (R247): T must be zero. -/
def decMaxrd (mk : ADst → ASrc → Ord → Scope → Instr) (w : Nat) : Dec Instr := do
  let d ← opnd 3 (decADst (cD w)); let s ← opnd 4 (decASrc (cS w))
  let sc ← coded 5 (decScope (field w 5 3)); mbz 10 (cT w); pure (mk d s (decOrd (field w 8 2)) sc)

/-- orc.decl (R249). -/
def decOrcDecl (w : Nat) : Dec Instr := do
  let s ← opnd 4 (decASrc (cS w))
  let c ← coded 5 (decClass (field w 5 3)); mbz 8 (field w 8 2); mbz 10 (cT w); mbz 20 (cD w)
  pure (.orcDecl s c)

/-- orc.ldt (R251): T is written. -/
def decLdt (w : Nat) : Dec Instr := do
  let d ← opnd 3 (decADst (cD w)); let s ← opnd 4 (decASrc (cS w)); let t ← opnd 5 (decADst (cT w))
  mbz 5 (cMod w); pure (.orcLdt d s t)

/-- fut.rdc (R253): D names a0 to a15 and is read. -/
def decRdc (w : Nat) : Dec Instr := do
  let d ← opnd 3 (decAReg (cD w)); let s ← opnd 4 (decASrc (cS w)); let t ← opnd 5 (decASrc (cT w))
  mbz 5 (cMod w); pure (.futRdc d s t)

/-- msg.send and msg.sendd (R254): D is a block base (R344). -/
def decSend (mk : BitVec 5 → ASrc → ASrc → BitVec 2 → Instr) (w : Nat) : Dec Instr := do
  let s ← opnd 4 (decASrc (cS w)); let t ← opnd 5 (decASrc (cT w))
  mbz 5 (field w 5 3); pure (mk (BitVec.ofNat 5 (cD w)) s t (BitVec.ofNat 2 (field w 8 2)))

/-- msg.reply (R255): D is read. -/
def decReply (w : Nat) : Dec Instr := do
  let d ← opnd 3 (decASrc (cD w)); let s ← opnd 4 (decASrc (cS w)); let t ← opnd 5 (decASrc (cT w))
  mbz 5 (cMod w); pure (.msgReply d s t)

/-- fence.all (R258). -/
def decFence (w : Nat) : Dec Instr := do
  let sc ← coded 5 (decScope (field w 5 3))
  mbz 8 (field w 8 2); mbz 10 (cT w); mbz 15 (cS w); mbz 20 (cD w); pure (.fenceAll sc)

/-- mxq.step, mxq.steps and mxq.drain (R286, R292, R296), S a block base of at most max. -/
def decMxq (mk : ADst → BitVec 5 → ARegZ → Fin 8 → Instr) (max : Nat) (w : Nat) : Dec Instr := do
  let d ← opnd 3 (decADst (cD w)); let t ← opnd 5 (decARegZ (cT w))
  legal 6 (cS w ≤ max)
  mbz 8 (field w 8 2)
  pure (mk d (BitVec.ofNat 5 (cS w)) t (Fin.ofNat 8 (field w 5 3)))

/-- The poll forms (R297). -/
def decPoll (mk : ADst → ARegZ → Instr) (w : Nat) : Dec Instr := do
  let d ← opnd 3 (decADst (cD w)); let s ← opnd 4 (decARegZ (cS w))
  mbz 5 (cMod w); mbz 10 (cT w); pure (mk d s)

/-- The sleep forms (R297). -/
def decSleep (mk : ARegZ → Instr) (w : Nat) : Dec Instr := do
  let s ← opnd 4 (decARegZ (cS w))
  mbz 5 (cMod w); mbz 10 (cT w); mbz 20 (cD w); pure (mk s)

/-- mxq.reclaim (R297). -/
def decReclaim (w : Nat) : Dec Instr := do
  mbz 8 (field w 8 2); mbz 10 (cT w); mbz 15 (cS w); mbz 20 (cD w)
  pure (.mxqReclaim (Fin.ofNat 8 (field w 5 3)))

/-- The remote-command forms (R286, R298). -/
def decRcmd (mk : BitVec 5 → ARegZ → Instr) (w : Nat) : Dec Instr := do
  let t ← opnd 5 (decARegZ (cT w))
  legal 6 (cS w ≤ 9)
  mbz 5 (cMod w); mbz 20 (cD w); pure (mk (BitVec.ofNat 5 (cS w)) t)

/-- cpq.copy to cpq.fill (R286, R299). -/
def decCpq (mk : ADst → BitVec 5 → Fin 4 → Instr) (w : Nat) : Dec Instr := do
  let d ← opnd 3 (decADst (cD w))
  legal 6 (cS w ≤ 13)
  mbz 7 (field w 7 3); mbz 10 (cT w)
  pure (mk d (BitVec.ofNat 5 (cS w)) (Fin.ofNat 4 (field w 5 2)))

/-- cpq.bar (R299). -/
def decCpqBar (w : Nat) : Dec Instr := do
  let d ← opnd 3 (decADst (cD w))
  mbz 7 (field w 7 3); mbz 10 (cT w); mbz 15 (cS w)
  pure (.cpqBar d (Fin.ofNat 4 (field w 5 2)))

/-- sys.rdsr (R306). -/
def decRdsr (w : Nat) : Dec Instr := do
  let d ← opnd 3 (decADst (cD w))
  mbz 12 (field w 12 3); mbz 15 (cS w); pure (.sysRdsr d (BitVec.ofNat 12 (field w 0 12)))

/-- sys.wrsr (R306). -/
def decWrsr (w : Nat) : Dec Instr := do
  let s ← opnd 4 (decASrc (cS w))
  mbz 12 (field w 12 3); mbz 20 (cD w); pure (.sysWrsr s (BitVec.ofNat 12 (field w 0 12)))

/-- The A-side prefix (R218, R290). -/
def decFmtA (w : Nat) : Dec Instr := do
  mbz 7 (field w 7 3); mbz 14 (field w 14 1); mbz 19 (field w 19 1); mbz 24 (field w 24 1)
  pure (.fmtSetA (BitVec.ofNat 4 (field w 20 4)) (BitVec.ofNat 4 (field w 15 4)) (BitVec.ofNat 4 (field w 10 4))
    (BitVec.ofNat 2 (field w 5 2)))

/-- li.sx and li.zx (R230). -/
def decLi (mk : ADst → BitVec 32 → Instr) (w imm : Nat) : Dec Instr := do
  let d ← opnd 3 (decADst (cD w))
  mbz 5 (cMod w); mbz 10 (cT w); mbz 15 (cS w); pure (mk d (BitVec.ofNat 32 imm))

/-- li.hi (R230). -/
def decLiHi (w imm : Nat) : Dec Instr := do
  let d ← opnd 3 (decADst (cD w)); let s ← opnd 4 (decASrc (cS w))
  mbz 5 (cMod w); mbz 10 (cT w); pure (.liHi d s (BitVec.ofNat 32 imm))

/-- jmpl (R229). -/
def decJmpl (mk : ASrc → BitVec 32 → Instr) (w imm : Nat) : Dec Instr := do
  let s ← opnd 4 (decASrc (cS w))
  mbz 5 (cMod w); mbz 10 (cT w); mbz 20 (cD w); pure (mk s (BitVec.ofNat 32 imm))

/-- sendl (R256): D is a block base (R344). -/
def decSendl (mk : BitVec 5 → ASrc → BitVec 32 → Instr) (w imm : Nat) : Dec Instr := do
  let s ← opnd 4 (decASrc (cS w))
  mbz 5 (cMod w); mbz 10 (cT w); pure (mk (BitVec.ofNat 5 (cD w)) s (BitVec.ofNat 32 imm))

/-- ctl, OP 0x00 (R213). -/
def decodeCtl (w : Nat) : Dec Instr :=
  match cMin w with
  | 0 => decC0 .ctlNopc w
  | 1 => decC0 .ctlDone w
  | 2 => decC0 .ctlRet w
  | 3 => decC3 .ctlWait w
  | 4 => decC0 .ctlRealign w
  | 5 => decCS .ctlCallr w
  | 6 => decCS .ctlJr w
  | _ => .error (.illegal 0x002)

/-- br, OP 0x01 (R213). -/
def decodeBr (w : Nat) : Dec Instr :=
  match field w 17 3 with
  | 0 => decBr0 .brAl w
  | 1 => decBr .brZ w
  | 2 => decBr .brNz w
  | 3 => decBr .brLz w
  | 4 => decBr .brGez w
  | 5 => decBr .brGz w
  | 6 => decBr .brLez w
  | _ => .error (.illegal 0x002)

/-- ctl.loop (R227): S names a0 to a15. -/
def decLoop (w : Nat) : Dec Instr := do
  let s ← opnd 4 (decAReg (cD w)); pure (.ctlLoop s (BitVec.ofNat 17 (field w 0 17)))

/-- ctl, OP 0x02 (R213). -/
def decodeCtlB (w : Nat) : Dec Instr :=
  match field w 17 3 with
  | 0 => decBr0 .ctlCall w
  | 1 => decLoop w
  | _ => .error (.illegal 0x002)

/-- alu (R213). -/
def decodeAlu (w : Nat) : Dec Instr :=
  match cMin w with
  | 0 => decC3 .aluAdd w
  | 1 => decC3 .aluSub w
  | 2 => decC3 .aluAnd w
  | 3 => decC3 .aluOr w
  | 4 => decC3 .aluXor w
  | 5 => decC3 .aluSll w
  | 6 => decC3 .aluSrl w
  | 7 => decC3 .aluSra w
  | 8 => decC3 .aluSlt w
  | 9 => decC3 .aluSltu w
  | 10 => decC3 .aluSeq w
  | 11 => decC3 .aluSne w
  | 12 => decC3 .aluMin w
  | 13 => decC3 .aluMax w
  | 14 => decC3 .aluMinu w
  | 15 => decC3 .aluMaxu w
  | 16 => decC3 .aluMul w
  | 17 => decC3 .aluMulh w
  | 18 => decC3 .aluMulhu w
  | 19 => decC3 .aluDiv w
  | 20 => decC3 .aluDivu w
  | 21 => decC3 .aluRem w
  | 22 => decC3 .aluRemu w
  | 23 => decMk .aluMkm mkmLegal w
  | 24 => decMk .aluMkx mkxLegal w
  | 25 => decMk .aluMks mksLegal w
  | _ => .error (.illegal 0x002)

/-- amo, OP 0x14 (R213). -/
def decodeAmo8 (w : Nat) : Dec Instr :=
  match cMin w with
  | 0 => decAmo .amoAdd w
  | 1 => decAmo .amoAnd w
  | 2 => decAmo .amoOr w
  | 3 => decAmo .amoXor w
  | 4 => decAmo .amoMax w
  | 5 => decAmo .amoMin w
  | 6 => decAmo .amoMaxu w
  | 7 => decAmo .amoMinu w
  | _ => .error (.illegal 0x002)

/-- amo, OP 0x15 (R213). -/
noncomputable def decodeAmo4 (w : Nat) : Dec Instr :=
  match cMin w with
  | 0 => decAmo .amoAddw w
  | 1 => decAmo .amoAndw w
  | 2 => decAmo .amoOrw w
  | 3 => decAmo .amoXorw w
  | 4 => decAmo .amoMaxw w
  | 5 => decAmo .amoMinw w
  | 6 => decAmo .amoMaxuw w
  | 7 => decAmo .amoMinuw w
  | 8 => decAmax .amoAmax w
  | 9 => decAmax .amoAmaxb w
  | 10 => decMaxrd .amoMaxrd w
  | 11 => decMaxrd .amoMaxrdb w
  | _ => .error (.illegal 0x002)

/-- orc (R213). -/
def decodeOrc (w : Nat) : Dec Instr :=
  match cMin w with
  | 0 => decOrcDecl w
  | 1 => decC3 .orcApp w
  | 2 => decLdt w
  | 3 => decC3 .orcLds w
  | _ => .error (.illegal 0x002)

/-- fut (R213). -/
def decodeFut (w : Nat) : Dec Instr :=
  match cMin w with
  | 0 => decCDS .futRd w
  | 1 => decRdc w
  | 2 => decCST .futWr w
  | 3 => decCS .futClr w
  | _ => .error (.illegal 0x002)

/-- msg (R213). -/
def decodeMsg (w : Nat) : Dec Instr :=
  match cMin w with
  | 0 => decSend .msgSend w
  | 1 => decSend .msgSendd w
  | 2 => decReply w
  | 3 => decC0 .msgPlyend w
  | _ => .error (.illegal 0x002)

/-- fence (R213). -/
def decodeFence (w : Nat) : Dec Instr :=
  match cMin w with
  | 0 => decFence w
  | _ => .error (.illegal 0x002)

/-- mxq (R213). -/
def decodeMxq (w : Nat) : Dec Instr :=
  match cMin w with
  | 0 => decMxq .mxqStep 12 w
  | 1 => decMxq .mxqSteps 12 w
  | 2 => decMxq .mxqDrain 15 w
  | 3 => decPoll .mxqPoll w
  | 4 => decSleep .mxqSleep w
  | 5 => decReclaim w
  | 6 => decRcmd .mxqRcmd w
  | _ => .error (.illegal 0x002)

/-- cpq (R213). -/
def decodeCpq (w : Nat) : Dec Instr :=
  match cMin w with
  | 0 => decCpq .cpqCopy w
  | 1 => decCpq .cpqAddf w
  | 2 => decCpq .cpqAddb w
  | 3 => decCpq .cpqAddi w
  | 4 => decCpqBar w
  | 5 => decCpq .cpqFill w
  | 6 => decPoll .cpqPoll w
  | 7 => decSleep .cpqSleep w
  | 8 => decRcmd .cpqRcmd w
  | _ => .error (.illegal 0x002)

/-- sys, OP 0x1c (R213). The four rows of sys.resume share one word, whose act is in the register S (R307): it reads here as the return, and the step takes the act. -/
def decodeSys (w : Nat) : Dec Instr :=
  match cMin w with
  | 0 => decCST .sysResumeReturn w
  | 1 => decCST .sysChain w
  | 2 => decCST .sysLaunch w
  | 3 => decCST .sysChmask w
  | 4 => decCS .sysCancel w
  | 5 => decCST .sysDigest w
  | 6 => decCS .sysFail w
  | 7 => decC0 .sysFpt w
  | _ => .error (.illegal 0x002)

/-- fmt, C-word (R213). -/
def decodeFmtC (w : Nat) : Dec Instr :=
  match cMin w with
  | 0 => decFmtA w
  | _ => .error (.illegal 0x002)

/-- li (R213). -/
def decodeLi (w imm : Nat) : Dec Instr :=
  match cMin w with
  | 0 => decLi .liSx w imm
  | 1 => decLi .liZx w imm
  | 2 => decLiHi w imm
  | _ => .error (.illegal 0x002)

/-- jmpl (R213). -/
def decodeJmpl (w imm : Nat) : Dec Instr :=
  match cMin w with
  | 0 => decJmpl .jmplGo w imm
  | 1 => decJmpl .jmplCall w imm
  | _ => .error (.illegal 0x002)

/-- sendl (R213). -/
def decodeSendl (w imm : Nat) : Dec Instr :=
  match cMin w with
  | 0 => decSendl .sendlAct w imm
  | 1 => decSendl .sendlData w imm
  | _ => .error (.illegal 0x002)

/-- The C-word majors (R212), without the lone group. -/
noncomputable def decodeCMajor (w : Nat) : Dec Instr :=
  match field w 25 6 with
  | 0x00 => decodeCtl w
  | 0x01 => decodeBr w
  | 0x02 => decodeCtlB w
  | 0x04 => decodeAlu w
  | 0x08 => decAlui .aluiAddi w
  | 0x09 => decAlui .aluiAndi w
  | 0x0a => decAlui .aluiOri w
  | 0x0b => decAlui .aluiXori w
  | 0x0c => decAluiSh .aluiSlli w
  | 0x0d => decAluiSh .aluiSrli w
  | 0x0e => decAluiSh .aluiSrai w
  | 0x0f => decAlui .aluiSlti w
  | 0x10 => decLoad .memLd w
  | 0x11 => decLoad .memLdu w
  | 0x12 => decStore w
  | 0x13 => decExtpage w
  | 0x14 => decodeAmo8 w
  | 0x15 => decodeAmo4 w
  | 0x16 => decodeOrc w
  | 0x17 => decodeFut w
  | 0x18 => decodeMsg w
  | 0x19 => decodeFence w
  | 0x1a => decodeMxq w
  | 0x1b => decodeCpq w
  | 0x1c => decodeSys w
  | 0x1d => decRdsr w
  | 0x1e => decWrsr w
  | 0x20 => decodeFmtC w
  | _ => .error (.illegal 0x001)

/-- The lone group (R206, R212), L = 1. -/
def decodeLone (w imm : Nat) : Dec Instr :=
  match field w 25 6 with
  | 0x30 => decodeLi w imm
  | 0x31 => decodeJmpl w imm
  | 0x32 => decodeSendl w imm
  | _ => .error (.illegal 0x007)

/-- Is the bundle a lone bundle (R206)? -/
def isLone (b : Nat) : Bool := field b 31 1 == 1

/-- The access side's word of the bundle b, the C-word in [31:0] and the X-word in [63:32] (R205). -/
noncomputable def decodeC (b : Nat) : Dec Instr :=
  if isLone b then decodeLone (b % 2 ^ 32) (field b 32 32) else decodeCMajor (b % 2 ^ 32)

/-! Fields of the X layouts (R209). -/

def xD (w : Nat) : Nat := field w 21 5
def xS (w : Nat) : Nat := field w 16 5
def xT (w : Nat) : Nat := field w 11 5
def xPred (w : Nat) : Nat := field w 8 3
def xMod (w : Nat) : Nat := field w 6 2
def xMin (w : Nat) : Nat := field w 0 6

/-- nop.x (R205): every field zero. -/
def decNopX (w : Nat) : Dec Instr := do
  mbz 6 (xMod w); mbz 8 (xPred w); mbz 11 (xT w); mbz 16 (xS w); mbz 21 (xD w); pure .nopX

/-- An ia word with D, S and T (R262). -/
def decIa (mk : EDst → ESrc → ESrc → Instr) (w : Nat) : Dec Instr := do
  let d ← opnd 3 (decEDst (xD w)); let s ← opnd 4 (decESrc (xS w)); let t ← opnd 5 (decESrc (xT w))
  mbz 6 (xMod w); mbz 8 (xPred w); pure (mk d s t)

/-- ia.clz, ia.ctz and ia.popc (R262). -/
def decIa2 (mk : EDst → ESrc → Instr) (w : Nat) : Dec Instr := do
  let d ← opnd 3 (decEDst (xD w)); let s ← opnd 4 (decESrc (xS w))
  mbz 6 (xMod w); mbz 8 (xPred w); mbz 11 (xT w); pure (mk d s)

/-- ia.sel (R262). -/
def decIaSel (w : Nat) : Dec Instr := do
  let d ← opnd 3 (decEDst (xD w)); let s ← opnd 4 (decESrc (xS w)); let t ← opnd 5 (decESrc (xT w))
  mbz 6 (xMod w); pure (.iaSel d s t (Fin.ofNat 8 (xPred w)))

/-- An iai word (R263). -/
def decIai (mk : EDst → ESrc → BitVec 16 → Instr) (w : Nat) : Dec Instr := do
  let d ← opnd 3 (decEDst (xD w)); let s ← opnd 4 (decESrc (xS w))
  pure (mk d s (BitVec.ofNat 16 (field w 0 16)))

/-- A shift of iai (R210, R263). -/
def decIaiSh (mk : EDst → ESrc → BitVec 6 → Instr) (w : Nat) : Dec Instr := do
  let d ← opnd 3 (decEDst (xD w)); let s ← opnd 4 (decESrc (xS w))
  mbz 6 (field w 6 10); pure (mk d s (BitVec.ofNat 6 (field w 0 6)))

/-- iai.lui (R263). -/
def decLui (w : Nat) : Dec Instr := do
  let d ← opnd 3 (decEDst (xD w))
  mbz 16 (xS w); pure (.iaiLui d (BitVec.ofNat 16 (field w 0 16)))

/-- An fa word with D, S and T (R264). -/
def decFa (mk : EDst → ESrc → ESrc → FpFmt → Instr) (w : Nat) : Dec Instr := do
  let d ← opnd 3 (decEDst (xD w)); let s ← opnd 4 (decESrc (xS w)); let t ← opnd 5 (decESrc (xT w))
  mbz 8 (xPred w); pure (mk d s t (decFp (xMod w)))

/-- A fused fa word (R264): D is e0 to e15. -/
def decFaF (mk : Fin 16 → ESrc → ESrc → FpFmt → Instr) (w : Nat) : Dec Instr := do
  let d ← opnd 3 (decEDst (xD w)); let s ← opnd 4 (decESrc (xS w)); let t ← opnd 5 (decESrc (xT w))
  let d ← eOnly d
  mbz 8 (xPred w); pure (mk d s t (decFp (xMod w)))

/-- An fa word with D and S (R264). -/
def decFa2 (mk : EDst → ESrc → FpFmt → Instr) (w : Nat) : Dec Instr := do
  let d ← opnd 3 (decEDst (xD w)); let s ← opnd 4 (decESrc (xS w))
  mbz 8 (xPred w); mbz 11 (xT w); pure (mk d s (decFp (xMod w)))

/-- A cvt word whose shape field holds a reserved value (R221, R267; log 58): D and S are tested as E scalar class. -/
def decCvtBad (w : Nat) : Dec Instr := do
  let _ ← opnd 3 (decEDst (xD w)); let _ ← opnd 4 (decESrc (xS w))
  .error (.reserved 0x406)

/-- The same for a minor whose entry has an E scalar T: cvt.tblw, cvt.pack and cvt.unpk (log 58). -/
def decCvtBadT (w : Nat) : Dec Instr := do
  let _ ← opnd 3 (decEDst (xD w)); let _ ← opnd 4 (decESrc (xS w)); let _ ← opnd 5 (decESrc (xT w))
  .error (.reserved 0x406)

/-- A scalar conversion (R267). -/
def decCvtS (mk : EDst → ESrc → Instr) (w : Nat) : Dec Instr := do
  let d ← opnd 3 (decEDst (xD w)); let s ← opnd 4 (decESrc (xS w))
  mbz 8 (xPred w); mbz 11 (xT w); pure (mk d s)

/-- A vector conversion (R283). -/
def decCvtV (mk : VDst → VSrc → Instr) (w : Nat) : Dec Instr := do
  let d ← opnd 3 (decVDst (xD w)); let s ← opnd 4 (decVSrc (xS w))
  mbz 8 (xPred w); mbz 11 (xT w); pure (mk d s)

/-- Both shapes of one conversion. -/
def decCvt (mkS : EDst → ESrc → Instr) (mkV : VDst → VSrc → Instr) (w : Nat) : Dec Instr :=
  if xMod w = 0 then decCvtS mkS w else if xMod w = 1 then decCvtV mkV w else decCvtBad w

/-- cvt.tblw (R313): shape s only. -/
def decTblw (w : Nat) : Dec Instr := do
  if xMod w = 0 then
    let s ← opnd 4 (decESrc (xS w)); let t ← opnd 5 (decESrc (xT w))
    mbz 8 (xPred w); mbz 21 (xD w); pure (.cvtTblw s t)
  else if xMod w = 1 then .error (.illegal 0x002) else decCvtBadT w

/-- cvt.pack (R283): shape v only, D a vector register. -/
def decPack (w : Nat) : Dec Instr := do
  if xMod w = 1 then
    let d ← opnd 3 (decVDst (xD w)); let s ← opnd 4 (decVSrc (xS w)); let t ← opnd 5 (decESrc (xT w))
    let d ← vecOnly d
    mbz 8 (xPred w); pure (.cvtPack d s t)
  else if xMod w = 0 then .error (.illegal 0x002) else decCvtBadT w

/-- cvt.unpk (R283): shape v only. -/
def decUnpk (w : Nat) : Dec Instr := do
  if xMod w = 1 then
    let d ← opnd 3 (decVDst (xD w)); let s ← opnd 4 (decVSrc (xS w)); let t ← opnd 5 (decESrc (xT w))
    mbz 8 (xPred w); pure (.cvtUnpk d s t)
  else if xMod w = 0 then .error (.illegal 0x002) else decCvtBadT w

/-- pr with three predicate fields (R268). -/
def decPPP (mk : Fin 8 → Fin 8 → Fin 8 → Instr) (w : Nat) : Dec Instr := do
  let d ← opnd 3 (decPred (xD w)); let s ← opnd 4 (decPred (xS w)); let t ← opnd 5 (decPred (xT w))
  mbz 6 (xMod w); mbz 8 (xPred w); pure (mk d s t)

/-- pr.not (R268). -/
def decPP (w : Nat) : Dec Instr := do
  let d ← opnd 3 (decPred (xD w)); let s ← opnd 4 (decPred (xS w))
  mbz 6 (xMod w); mbz 8 (xPred w); mbz 11 (xT w); pure (.prNot d s)

/-- pr.set (R268). -/
def decPE (w : Nat) : Dec Instr := do
  let d ← opnd 3 (decPred (xD w)); let s ← opnd 4 (decESrc (xS w))
  mbz 6 (xMod w); mbz 8 (xPred w); mbz 11 (xT w); pure (.prSet d s)

/-- pr.get (R268). -/
def decEP (w : Nat) : Dec Instr := do
  let d ← opnd 3 (decEDst (xD w)); let s ← opnd 4 (decPred (xS w))
  mbz 6 (xMod w); mbz 8 (xPred w); mbz 11 (xT w); pure (.prGet d s)

/-- The compares of pr (R268). -/
def decPEE (mk : Fin 8 → ESrc → ESrc → Instr) (w : Nat) : Dec Instr := do
  let d ← opnd 3 (decPred (xD w)); let s ← opnd 4 (decESrc (xS w)); let t ← opnd 5 (decESrc (xT w))
  mbz 6 (xMod w); mbz 8 (xPred w); pure (mk d s t)

/-- pr.any, pr.all and pr.popc (R268). -/
def decEPP (mk : EDst → Fin 8 → Fin 8 → Instr) (w : Nat) : Dec Instr := do
  let d ← opnd 3 (decEDst (xD w)); let s ← opnd 4 (decPred (xS w)); let t ← opnd 5 (decPred (xT w))
  mbz 6 (xMod w); mbz 8 (xPred w); pure (mk d s t)

/-- A va or vx word with D, S and T of vector class (R273, R280). -/
def decVa (mk : VDst → VSrc → VSrc → Fin 8 → LaneW → Instr) (w : Nat) : Dec Instr := do
  let d ← opnd 3 (decVDst (xD w)); let s ← opnd 4 (decVSrc (xS w)); let t ← opnd 5 (decVSrc (xT w))
  pure (mk d s t (Fin.ofNat 8 (xPred w)) (decLane (xMod w)))

/-- A va or vx word with D and S of vector class (R273, R280). -/
def decVa2 (mk : VDst → VSrc → Fin 8 → LaneW → Instr) (w : Nat) : Dec Instr := do
  let d ← opnd 3 (decVDst (xD w)); let s ← opnd 4 (decVSrc (xS w))
  mbz 11 (xT w); pure (mk d s (Fin.ofNat 8 (xPred w)) (decLane (xMod w)))

/-- The compares of va (R274): D is a predicate. -/
def decVaP (mk : Fin 8 → VSrc → VSrc → Fin 8 → LaneW → Instr) (w : Nat) : Dec Instr := do
  let d ← opnd 3 (decPred (xD w)); let s ← opnd 4 (decVSrc (xS w)); let t ← opnd 5 (decVSrc (xT w))
  pure (mk d s t (Fin.ofNat 8 (xPred w)) (decLane (xMod w)))

/-- va.dot (R275). -/
def decVaDot (w : Nat) : Dec Instr := do
  let d ← opnd 3 (decVDst (xD w)); let s ← opnd 4 (decVSrc (xS w)); let t ← opnd 5 (decVSrc (xT w))
  let d ← vecOnly d
  legal 6 (xMod w = 0)
  pure (.vaDot d s t (Fin.ofNat 8 (xPred w)))

/-- A vf word with D, S and T of vector class (R277). -/
def decVf (mk : VDst → VSrc → VSrc → Fin 8 → FpFmt → Instr) (w : Nat) : Dec Instr := do
  let d ← opnd 3 (decVDst (xD w)); let s ← opnd 4 (decVSrc (xS w)); let t ← opnd 5 (decVSrc (xT w))
  pure (mk d s t (Fin.ofNat 8 (xPred w)) (decFp (xMod w)))

/-- vf.fma and vf.dot (R277, R278): D is a vector register. -/
def decVfF (mk : Fin 8 → VSrc → VSrc → Fin 8 → FpFmt → Instr) (w : Nat) : Dec Instr := do
  let d ← opnd 3 (decVDst (xD w)); let s ← opnd 4 (decVSrc (xS w)); let t ← opnd 5 (decVSrc (xT w))
  let d ← vecOnly d
  pure (mk d s t (Fin.ofNat 8 (xPred w)) (decFp (xMod w)))

/-- The compares of vf (R277): D is a predicate. -/
def decVfP (mk : Fin 8 → VSrc → VSrc → Fin 8 → FpFmt → Instr) (w : Nat) : Dec Instr := do
  let d ← opnd 3 (decPred (xD w)); let s ← opnd 4 (decVSrc (xS w)); let t ← opnd 5 (decVSrc (xT w))
  pure (mk d s t (Fin.ofNat 8 (xPred w)) (decFp (xMod w)))

/-- A vf word with D and S of vector class (R277). -/
def decVf2 (mk : VDst → VSrc → Fin 8 → FpFmt → Instr) (w : Nat) : Dec Instr := do
  let d ← opnd 3 (decVDst (xD w)); let s ← opnd 4 (decVSrc (xS w))
  mbz 11 (xT w); pure (mk d s (Fin.ofNat 8 (xPred w)) (decFp (xMod w)))

/-- vx.bcast and vx.idx (R280): S is of E scalar class. -/
def decVxE (mk : VDst → ESrc → Fin 8 → LaneW → Instr) (w : Nat) : Dec Instr := do
  let d ← opnd 3 (decVDst (xD w)); let s ← opnd 4 (decESrc (xS w))
  mbz 11 (xT w); pure (mk d s (Fin.ofNat 8 (xPred w)) (decLane (xMod w)))

/-- vx.rot (R280): T is of E scalar class. -/
def decRot (w : Nat) : Dec Instr := do
  let d ← opnd 3 (decVDst (xD w)); let s ← opnd 4 (decVSrc (xS w)); let t ← opnd 5 (decESrc (xT w))
  pure (.vxRot d s t (Fin.ofNat 8 (xPred w)) (decLane (xMod w)))

/-- vx.ext (R280). -/
def decExt (w : Nat) : Dec Instr := do
  let d ← opnd 3 (decEDst (xD w)); let s ← opnd 4 (decVSrc (xS w)); let t ← opnd 5 (decESrc (xT w))
  mbz 8 (xPred w); pure (.vxExt d s t (decLane (xMod w)))

/-- vx.ins (R280). -/
def decIns (w : Nat) : Dec Instr := do
  let d ← opnd 3 (decVDst (xD w)); let s ← opnd 4 (decESrc (xS w)); let t ← opnd 5 (decESrc (xT w))
  let d ← vecOnly d
  mbz 8 (xPred w); pure (.vxIns d s t (decLane (xMod w)))

/-- vx.amax (R280, R281). -/
def decVxAmax (w : Nat) : Dec Instr := do
  let d ← opnd 3 (decVDst (xD w)); let s ← opnd 4 (decVSrc (xS w))
  mbz 6 (xMod w); mbz 11 (xT w); pure (.vxAmax d s (Fin.ofNat 8 (xPred w)))

/-- vx.scale (R280, R282). -/
def decScale (w : Nat) : Dec Instr := do
  let d ← opnd 3 (decVDst (xD w)); let s ← opnd 4 (decVSrc (xS w))
  mbz 6 (xMod w); mbz 8 (xPred w); mbz 11 (xT w); pure (.vxScale d s)

/-- vx.barq (R280, R284). -/
def decBarq (w : Nat) : Dec Instr := do
  let d ← opnd 3 (decVDst (xD w)); let s ← opnd 4 (decVSrc (xS w))
  let d ← vecOnly d
  mbz 6 (xMod w); mbz 8 (xPred w); mbz 11 (xT w); pure (.vxBarq d s)

/-- The E-side prefix (R218, R290). -/
def decFmtX (w : Nat) : Dec Instr := do
  mbz 8 (xPred w); mbz 15 (field w 15 1); mbz 20 (field w 20 1); mbz 25 (field w 25 1)
  pure (.fmtSetX (BitVec.ofNat 4 (field w 21 4)) (BitVec.ofNat 4 (field w 16 4)) (BitVec.ofNat 4 (field w 11 4))
    (BitVec.ofNat 2 (field w 6 2)))

/-- nop (R215). -/
def decodeNop (w : Nat) : Dec Instr :=
  match xMin w with
  | 0 => decNopX w
  | _ => .error (.illegal 0x002)

/-- ia (R215). -/
def decodeIa (w : Nat) : Dec Instr :=
  match xMin w with
  | 0 => decIa .iaAdd w
  | 1 => decIa .iaSub w
  | 2 => decIa .iaAnd w
  | 3 => decIa .iaOr w
  | 4 => decIa .iaXor w
  | 5 => decIa .iaSll w
  | 6 => decIa .iaSrl w
  | 7 => decIa .iaSra w
  | 8 => decIa .iaMul w
  | 9 => decIa .iaMulh w
  | 10 => decIa .iaMulhu w
  | 11 => decIa .iaDiv w
  | 12 => decIa .iaDivu w
  | 13 => decIa .iaRem w
  | 14 => decIa .iaRemu w
  | 15 => decIa .iaMin w
  | 16 => decIa .iaMax w
  | 17 => decIa .iaMinu w
  | 18 => decIa .iaMaxu w
  | 19 => decIa2 .iaClz w
  | 20 => decIa2 .iaCtz w
  | 21 => decIa2 .iaPopc w
  | 22 => decIaSel w
  | 23 => decIa .iaSlt w
  | 24 => decIa .iaSltu w
  | 25 => decIa .iaAdds w
  | 26 => decIa .iaSubs w
  | _ => .error (.illegal 0x002)

/-- fa (R215). -/
def decodeFa (w : Nat) : Dec Instr :=
  match xMin w with
  | 0 => decFa .faAdd w
  | 1 => decFa .faSub w
  | 2 => decFa .faMul w
  | 3 => decFaF .faFma w
  | 4 => decFaF .faFms w
  | 5 => decFaF .faFnma w
  | 6 => decFa .faMin w
  | 7 => decFa .faMax w
  | 8 => decFa2 .faAbs w
  | 9 => decFa2 .faNeg w
  | 10 => decFa2 .faRcpe w
  | 11 => decFa .faRcps w
  | 12 => decFa2 .faRsqe w
  | 13 => decFa2 .faSqrt w
  | 14 => decFa2 .faClass w
  | 15 => decFa .faCeq w
  | 16 => decFa .faClt w
  | 17 => decFa .faCle w
  | _ => .error (.illegal 0x002)

/-- cvt (R215). -/
def decodeCvt (w : Nat) : Dec Instr :=
  match xMin w with
  | 0 => decCvt .cvtEncS .cvtEncV w
  | 1 => decCvt .cvtDecS .cvtDecV w
  | 2 => decCvt .cvtCnvS .cvtCnvV w
  | 3 => decCvt .cvtFtiS .cvtFtiV w
  | 4 => decCvt .cvtItfS .cvtItfV w
  | 5 => decTblw w
  | 6 => decPack w
  | 7 => decUnpk w
  | _ => .error (.illegal 0x002)

/-- pr (R215). -/
def decodePr (w : Nat) : Dec Instr :=
  match xMin w with
  | 0 => decPPP .prAnd w
  | 1 => decPPP .prOr w
  | 2 => decPPP .prXor w
  | 3 => decPPP .prAndn w
  | 4 => decPP w
  | 5 => decPE w
  | 6 => decEP w
  | 7 => decPEE .prCeq w
  | 8 => decPEE .prCne w
  | 9 => decPEE .prClt w
  | 10 => decPEE .prCle w
  | 11 => decPEE .prCltu w
  | 12 => decPEE .prCleu w
  | 13 => decEPP .prAny w
  | 14 => decEPP .prAll w
  | 15 => decEPP .prPopc w
  | _ => .error (.illegal 0x002)

/-- va (R215). -/
def decodeVa (w : Nat) : Dec Instr :=
  match xMin w with
  | 0 => decVa .vaAdd w
  | 1 => decVa .vaSub w
  | 2 => decVa .vaAdds w
  | 3 => decVa .vaSubs w
  | 4 => decVa .vaAddus w
  | 5 => decVa .vaSubus w
  | 6 => decVa .vaMul w
  | 7 => decVa .vaMulh w
  | 8 => decVa .vaAnd w
  | 9 => decVa .vaOr w
  | 10 => decVa .vaXor w
  | 11 => decVa .vaSll w
  | 12 => decVa .vaSrl w
  | 13 => decVa .vaSra w
  | 14 => decVa .vaMin w
  | 15 => decVa .vaMax w
  | 16 => decVa .vaMinu w
  | 17 => decVa .vaMaxu w
  | 18 => decVa2 .vaAbs w
  | 19 => decVaP .vaCeq w
  | 20 => decVaP .vaClt w
  | 21 => decVaP .vaCltu w
  | 22 => decVa .vaSel w
  | 23 => decVaDot w
  | 24 => decVa2 .vaRsum w
  | 25 => decVa2 .vaRmin w
  | 26 => decVa2 .vaRmax w
  | _ => .error (.illegal 0x002)

/-- vf (R215). -/
def decodeVf (w : Nat) : Dec Instr :=
  match xMin w with
  | 0 => decVf .vfAdd w
  | 1 => decVf .vfSub w
  | 2 => decVf .vfMul w
  | 3 => decVfF .vfFma w
  | 4 => decVf .vfMin w
  | 5 => decVf .vfMax w
  | 6 => decVf2 .vfAbs w
  | 7 => decVf2 .vfNeg w
  | 8 => decVfP .vfCeq w
  | 9 => decVfP .vfClt w
  | 10 => decVfP .vfCle w
  | 11 => decVfF .vfDot w
  | 12 => decVf2 .vfRsum w
  | 13 => decVf2 .vfRmin w
  | 14 => decVf2 .vfRmax w
  | 15 => decVf2 .vfRcpe w
  | _ => .error (.illegal 0x002)

/-- vx (R215). -/
def decodeVx (w : Nat) : Dec Instr :=
  match xMin w with
  | 0 => decVa2 .vxMov w
  | 1 => decVxE .vxBcast w
  | 2 => decVa .vxPerm w
  | 3 => decRot w
  | 4 => decVa .vxZip w
  | 5 => decVa .vxUnzip w
  | 6 => decExt w
  | 7 => decIns w
  | 8 => decVxAmax w
  | 9 => decScale w
  | 10 => decBarq w
  | 11 => decVxE .vxIdx w
  | _ => .error (.illegal 0x002)

/-- fmt, X-word (R215). -/
def decodeFmtXw (w : Nat) : Dec Instr :=
  match xMin w with
  | 0 => decFmtX w
  | _ => .error (.illegal 0x002)

/-- The execute side's word w (R214). -/
def decodeX (w : Nat) : Dec Instr :=
  match field w 26 6 with
  | 0x00 => decodeNop w
  | 0x01 => decodeIa w
  | 0x02 => decodeFa w
  | 0x03 => decodeCvt w
  | 0x04 => decodePr w
  | 0x05 => decodeVa w
  | 0x06 => decodeVf w
  | 0x07 => decodeVx w
  | 0x08 => decIai .iaiAddi w
  | 0x09 => decIai .iaiAndi w
  | 0x0a => decIai .iaiOri w
  | 0x0b => decIai .iaiXori w
  | 0x0c => decIaiSh .iaiSlli w
  | 0x0d => decIaiSh .iaiSrli w
  | 0x0e => decIaiSh .iaiSrai w
  | 0x0f => decLui w
  | 0x10 => decodeFmtXw w
  | _ => .error (.illegal 0x001)

/-! Encoding, from the same tables. -/

/-- A C.R word (R208). -/
def cR (op d s t md mn : Nat) : Nat := op * 2 ^ 25 + d * 2 ^ 20 + s * 2 ^ 15 + t * 2 ^ 10 + md * 2 ^ 5 + mn
/-- A C.I word (R208). -/
def cI (op d s imm : Nat) : Nat := op * 2 ^ 25 + d * 2 ^ 20 + s * 2 ^ 15 + imm
/-- A C.M word (R208). -/
def cM (op d b sz ord sc off : Nat) : Nat :=
  op * 2 ^ 25 + d * 2 ^ 20 + b * 2 ^ 15 + sz * 2 ^ 12 + ord * 2 ^ 10 + sc * 2 ^ 7 + off
/-- A C.B word (R208). -/
def cB (op s cnd off : Nat) : Nat := op * 2 ^ 25 + s * 2 ^ 20 + cnd * 2 ^ 17 + off
/-- A lone bundle (R206). -/
def lone (op d s mn imm : Nat) : Nat := imm * 2 ^ 32 + 2 ^ 31 + cR op d s 0 0 mn
/-- An X.R word (R209). -/
def xR (op d s t pred md mn : Nat) : Nat :=
  op * 2 ^ 26 + d * 2 ^ 21 + s * 2 ^ 16 + t * 2 ^ 11 + pred * 2 ^ 8 + md * 2 ^ 6 + mn
/-- An X.I word (R209). -/
def xI (op d s imm : Nat) : Nat := op * 2 ^ 26 + d * 2 ^ 21 + s * 2 ^ 16 + imm

/-- The bundle bits of an instruction of the access side: the C-word in [31:0], and the immediate of a lone
bundle in [63:32] (R205, R206). An X-word or an event has none. -/
def encodeC : Instr → Option Nat
  | .ctlNopc => some (cR 0 0 0 0 0 0)
  | .ctlDone => some (cR 0 0 0 0 0 1)
  | .ctlRet => some (cR 0 0 0 0 0 2)
  | .ctlWait d s t => some (cR 0 (encADst d) (encASrc s) (encASrc t) 0 3)
  | .ctlRealign => some (cR 0 0 0 0 0 4)
  | .ctlCallr s => some (cR 0 0 (encASrc s) 0 0 5)
  | .ctlJr s => some (cR 0 0 (encASrc s) 0 0 6)
  | .brAl off => some (cB 1 0 0 off.toNat)
  | .brZ s off => some (cB 1 (encASrc s) 1 off.toNat)
  | .brNz s off => some (cB 1 (encASrc s) 2 off.toNat)
  | .brLz s off => some (cB 1 (encASrc s) 3 off.toNat)
  | .brGez s off => some (cB 1 (encASrc s) 4 off.toNat)
  | .brGz s off => some (cB 1 (encASrc s) 5 off.toNat)
  | .brLez s off => some (cB 1 (encASrc s) 6 off.toNat)
  | .ctlCall off => some (cB 2 0 0 off.toNat)
  | .ctlLoop s off => some (cB 2 s.val 1 off.toNat)
  | .aluAdd d s t => some (cR 4 (encADst d) (encASrc s) (encASrc t) 0 0)
  | .aluSub d s t => some (cR 4 (encADst d) (encASrc s) (encASrc t) 0 1)
  | .aluAnd d s t => some (cR 4 (encADst d) (encASrc s) (encASrc t) 0 2)
  | .aluOr d s t => some (cR 4 (encADst d) (encASrc s) (encASrc t) 0 3)
  | .aluXor d s t => some (cR 4 (encADst d) (encASrc s) (encASrc t) 0 4)
  | .aluSll d s t => some (cR 4 (encADst d) (encASrc s) (encASrc t) 0 5)
  | .aluSrl d s t => some (cR 4 (encADst d) (encASrc s) (encASrc t) 0 6)
  | .aluSra d s t => some (cR 4 (encADst d) (encASrc s) (encASrc t) 0 7)
  | .aluSlt d s t => some (cR 4 (encADst d) (encASrc s) (encASrc t) 0 8)
  | .aluSltu d s t => some (cR 4 (encADst d) (encASrc s) (encASrc t) 0 9)
  | .aluSeq d s t => some (cR 4 (encADst d) (encASrc s) (encASrc t) 0 10)
  | .aluSne d s t => some (cR 4 (encADst d) (encASrc s) (encASrc t) 0 11)
  | .aluMin d s t => some (cR 4 (encADst d) (encASrc s) (encASrc t) 0 12)
  | .aluMax d s t => some (cR 4 (encADst d) (encASrc s) (encASrc t) 0 13)
  | .aluMinu d s t => some (cR 4 (encADst d) (encASrc s) (encASrc t) 0 14)
  | .aluMaxu d s t => some (cR 4 (encADst d) (encASrc s) (encASrc t) 0 15)
  | .aluMul d s t => some (cR 4 (encADst d) (encASrc s) (encASrc t) 0 16)
  | .aluMulh d s t => some (cR 4 (encADst d) (encASrc s) (encASrc t) 0 17)
  | .aluMulhu d s t => some (cR 4 (encADst d) (encASrc s) (encASrc t) 0 18)
  | .aluDiv d s t => some (cR 4 (encADst d) (encASrc s) (encASrc t) 0 19)
  | .aluDivu d s t => some (cR 4 (encADst d) (encASrc s) (encASrc t) 0 20)
  | .aluRem d s t => some (cR 4 (encADst d) (encASrc s) (encASrc t) 0 21)
  | .aluRemu d s t => some (cR 4 (encADst d) (encASrc s) (encASrc t) 0 22)
  | .aluMkm d s t sp => some (cR 4 (encADst d) (encASrc s) (encASrc t) sp.toNat 23)
  | .aluMkx d s t sp => some (cR 4 (encADst d) (encASrc s) (encASrc t) sp.toNat 24)
  | .aluMks d s t sp => some (cR 4 (encADst d) (encASrc s) (encASrc t) sp.toNat 25)
  | .aluiAddi d s imm => some (cI 8 (encADst d) (encASrc s) imm.toNat)
  | .aluiAndi d s imm => some (cI 9 (encADst d) (encASrc s) imm.toNat)
  | .aluiOri d s imm => some (cI 10 (encADst d) (encASrc s) imm.toNat)
  | .aluiXori d s imm => some (cI 11 (encADst d) (encASrc s) imm.toNat)
  | .aluiSlli d s sh => some (cI 12 (encADst d) (encASrc s) sh.toNat)
  | .aluiSrli d s sh => some (cI 13 (encADst d) (encASrc s) sh.toNat)
  | .aluiSrai d s sh => some (cI 14 (encADst d) (encASrc s) sh.toNat)
  | .aluiSlti d s imm => some (cI 15 (encADst d) (encASrc s) imm.toNat)
  | .memLd d base sz ord sc off => some (cM 16 (encADst d) (encASrc base) (encSize sz) (encOrd ord) (encScope sc) off.toNat)
  | .memLdu d base sz ord sc off => some (cM 17 (encADst d) (encASrc base) (encSize sz) (encOrd ord) (encScope sc) off.toNat)
  | .memSt d base sz ord sc off => some (cM 18 (encASrc d) (encASrc base) (encSize sz) (encOrd ord) (encScope sc) off.toNat)
  | .memExtpage d base => some (cM 19 (encADst d) (encASrc base) 3 0 0 0)
  | .amoAdd d s t ord sc => some (cR 20 (encADst d) (encASrc s) (encASrc t) (encOrd ord * 8 + encScope sc) 0)
  | .amoAnd d s t ord sc => some (cR 20 (encADst d) (encASrc s) (encASrc t) (encOrd ord * 8 + encScope sc) 1)
  | .amoOr d s t ord sc => some (cR 20 (encADst d) (encASrc s) (encASrc t) (encOrd ord * 8 + encScope sc) 2)
  | .amoXor d s t ord sc => some (cR 20 (encADst d) (encASrc s) (encASrc t) (encOrd ord * 8 + encScope sc) 3)
  | .amoMax d s t ord sc => some (cR 20 (encADst d) (encASrc s) (encASrc t) (encOrd ord * 8 + encScope sc) 4)
  | .amoMin d s t ord sc => some (cR 20 (encADst d) (encASrc s) (encASrc t) (encOrd ord * 8 + encScope sc) 5)
  | .amoMaxu d s t ord sc => some (cR 20 (encADst d) (encASrc s) (encASrc t) (encOrd ord * 8 + encScope sc) 6)
  | .amoMinu d s t ord sc => some (cR 20 (encADst d) (encASrc s) (encASrc t) (encOrd ord * 8 + encScope sc) 7)
  | .amoAddw d s t ord sc => some (cR 21 (encADst d) (encASrc s) (encASrc t) (encOrd ord * 8 + encScope sc) 0)
  | .amoAndw d s t ord sc => some (cR 21 (encADst d) (encASrc s) (encASrc t) (encOrd ord * 8 + encScope sc) 1)
  | .amoOrw d s t ord sc => some (cR 21 (encADst d) (encASrc s) (encASrc t) (encOrd ord * 8 + encScope sc) 2)
  | .amoXorw d s t ord sc => some (cR 21 (encADst d) (encASrc s) (encASrc t) (encOrd ord * 8 + encScope sc) 3)
  | .amoMaxw d s t ord sc => some (cR 21 (encADst d) (encASrc s) (encASrc t) (encOrd ord * 8 + encScope sc) 4)
  | .amoMinw d s t ord sc => some (cR 21 (encADst d) (encASrc s) (encASrc t) (encOrd ord * 8 + encScope sc) 5)
  | .amoMaxuw d s t ord sc => some (cR 21 (encADst d) (encASrc s) (encASrc t) (encOrd ord * 8 + encScope sc) 6)
  | .amoMinuw d s t ord sc => some (cR 21 (encADst d) (encASrc s) (encASrc t) (encOrd ord * 8 + encScope sc) 7)
  | .amoAmax s t ord sc => some (cR 21 31 (encASrc s) (encASrc t) (encOrd ord * 8 + encScope sc) 8)
  | .amoAmaxb s t ord sc => some (cR 21 31 (encASrc s) (encASrc t) (encOrd ord * 8 + encScope sc) 9)
  | .amoMaxrd d s ord sc => some (cR 21 (encADst d) (encASrc s) 0 (encOrd ord * 8 + encScope sc) 10)
  | .amoMaxrdb d s ord sc => some (cR 21 (encADst d) (encASrc s) 0 (encOrd ord * 8 + encScope sc) 11)
  | .orcDecl s cls => some (cR 22 0 (encASrc s) 0 (encClass cls) 0)
  | .orcApp d s t => some (cR 22 (encADst d) (encASrc s) (encASrc t) 0 1)
  | .orcLdt d s t => some (cR 22 (encADst d) (encASrc s) (encADst t) 0 2)
  | .orcLds d s t => some (cR 22 (encADst d) (encASrc s) (encASrc t) 0 3)
  | .futRd d s => some (cR 23 (encADst d) (encASrc s) 0 0 0)
  | .futRdc d s t => some (cR 23 d.val (encASrc s) (encASrc t) 0 1)
  | .futWr s t => some (cR 23 0 (encASrc s) (encASrc t) 0 2)
  | .futClr s => some (cR 23 0 (encASrc s) 0 0 3)
  | .msgSend d s t pri => some (cR 24 d.toNat (encASrc s) (encASrc t) (pri.toNat * 8) 0)
  | .msgSendd d s t pri => some (cR 24 d.toNat (encASrc s) (encASrc t) (pri.toNat * 8) 1)
  | .msgReply d s t => some (cR 24 (encASrc d) (encASrc s) (encASrc t) 0 2)
  | .msgPlyend => some (cR 24 0 0 0 0 3)
  | .fenceAll sc => some (cR 25 0 0 0 (encScope sc) 0)
  | .mxqStep d s t acc => some (cR 26 (encADst d) s.toNat (encARegZ t) acc.val 0)
  | .mxqSteps d s t acc => some (cR 26 (encADst d) s.toNat (encARegZ t) acc.val 1)
  | .mxqDrain d s t acc => some (cR 26 (encADst d) s.toNat (encARegZ t) acc.val 2)
  | .mxqPoll d s => some (cR 26 (encADst d) (encARegZ s) 0 0 3)
  | .mxqSleep s => some (cR 26 0 (encARegZ s) 0 0 4)
  | .mxqReclaim acc => some (cR 26 0 0 0 acc.val 5)
  | .mxqRcmd s t => some (cR 26 0 s.toNat (encARegZ t) 0 6)
  | .cpqCopy d s q => some (cR 27 (encADst d) s.toNat 0 q.val 0)
  | .cpqAddf d s q => some (cR 27 (encADst d) s.toNat 0 q.val 1)
  | .cpqAddb d s q => some (cR 27 (encADst d) s.toNat 0 q.val 2)
  | .cpqAddi d s q => some (cR 27 (encADst d) s.toNat 0 q.val 3)
  | .cpqBar d q => some (cR 27 (encADst d) 0 0 q.val 4)
  | .cpqFill d s q => some (cR 27 (encADst d) s.toNat 0 q.val 5)
  | .cpqPoll d s => some (cR 27 (encADst d) (encARegZ s) 0 0 6)
  | .cpqSleep s => some (cR 27 0 (encARegZ s) 0 0 7)
  | .cpqRcmd s t => some (cR 27 0 s.toNat (encARegZ t) 0 8)
  | .sysResumeReturn s t => some (cR 28 0 (encASrc s) (encASrc t) 0 0)
  | .sysResumeRedo s t => some (cR 28 0 (encASrc s) (encASrc t) 0 0)
  | .sysResumeDiscard s t => some (cR 28 0 (encASrc s) (encASrc t) 0 0)
  | .sysResumeComplete s t => some (cR 28 0 (encASrc s) (encASrc t) 0 0)
  | .sysChain s t => some (cR 28 0 (encASrc s) (encASrc t) 0 1)
  | .sysLaunch s t => some (cR 28 0 (encASrc s) (encASrc t) 0 2)
  | .sysChmask s t => some (cR 28 0 (encASrc s) (encASrc t) 0 3)
  | .sysCancel s => some (cR 28 0 (encASrc s) 0 0 4)
  | .sysDigest s t => some (cR 28 0 (encASrc s) (encASrc t) 0 5)
  | .sysFail s => some (cR 28 0 (encASrc s) 0 0 6)
  | .sysFpt => some (cR 28 0 0 0 0 7)
  | .sysRdsr d num => some (cI 29 (encADst d) 0 num.toNat)
  | .sysWrsr s num => some (cI 30 0 (encASrc s) num.toNat)
  | .fmtSetA fd fa fb scl => some (cR 32 fd.toNat fa.toNat fb.toNat scl.toNat 0)
  | .liSx d imm => some (lone 48 (encADst d) 0 0 imm.toNat)
  | .liZx d imm => some (lone 48 (encADst d) 0 1 imm.toNat)
  | .liHi d s imm => some (lone 48 (encADst d) (encASrc s) 2 imm.toNat)
  | .jmplGo s imm => some (lone 49 0 (encASrc s) 0 imm.toNat)
  | .jmplCall s imm => some (lone 49 0 (encASrc s) 1 imm.toNat)
  | .sendlAct d s imm => some (lone 50 d.toNat (encASrc s) 0 imm.toNat)
  | .sendlData d s imm => some (lone 50 d.toNat (encASrc s) 1 imm.toNat)
  | _ => none

/-- The X-word of an instruction of the execute side (R209). -/
def encodeX : Instr → Option Nat
  | .nopX => some (xR 0 0 0 0 0 0 0)
  | .iaAdd d s t => some (xR 1 (encEDst d) (encESrc s) (encESrc t) 0 0 0)
  | .iaSub d s t => some (xR 1 (encEDst d) (encESrc s) (encESrc t) 0 0 1)
  | .iaAnd d s t => some (xR 1 (encEDst d) (encESrc s) (encESrc t) 0 0 2)
  | .iaOr d s t => some (xR 1 (encEDst d) (encESrc s) (encESrc t) 0 0 3)
  | .iaXor d s t => some (xR 1 (encEDst d) (encESrc s) (encESrc t) 0 0 4)
  | .iaSll d s t => some (xR 1 (encEDst d) (encESrc s) (encESrc t) 0 0 5)
  | .iaSrl d s t => some (xR 1 (encEDst d) (encESrc s) (encESrc t) 0 0 6)
  | .iaSra d s t => some (xR 1 (encEDst d) (encESrc s) (encESrc t) 0 0 7)
  | .iaMul d s t => some (xR 1 (encEDst d) (encESrc s) (encESrc t) 0 0 8)
  | .iaMulh d s t => some (xR 1 (encEDst d) (encESrc s) (encESrc t) 0 0 9)
  | .iaMulhu d s t => some (xR 1 (encEDst d) (encESrc s) (encESrc t) 0 0 10)
  | .iaDiv d s t => some (xR 1 (encEDst d) (encESrc s) (encESrc t) 0 0 11)
  | .iaDivu d s t => some (xR 1 (encEDst d) (encESrc s) (encESrc t) 0 0 12)
  | .iaRem d s t => some (xR 1 (encEDst d) (encESrc s) (encESrc t) 0 0 13)
  | .iaRemu d s t => some (xR 1 (encEDst d) (encESrc s) (encESrc t) 0 0 14)
  | .iaMin d s t => some (xR 1 (encEDst d) (encESrc s) (encESrc t) 0 0 15)
  | .iaMax d s t => some (xR 1 (encEDst d) (encESrc s) (encESrc t) 0 0 16)
  | .iaMinu d s t => some (xR 1 (encEDst d) (encESrc s) (encESrc t) 0 0 17)
  | .iaMaxu d s t => some (xR 1 (encEDst d) (encESrc s) (encESrc t) 0 0 18)
  | .iaClz d s => some (xR 1 (encEDst d) (encESrc s) 0 0 0 19)
  | .iaCtz d s => some (xR 1 (encEDst d) (encESrc s) 0 0 0 20)
  | .iaPopc d s => some (xR 1 (encEDst d) (encESrc s) 0 0 0 21)
  | .iaSel d s t pred => some (xR 1 (encEDst d) (encESrc s) (encESrc t) pred.val 0 22)
  | .iaSlt d s t => some (xR 1 (encEDst d) (encESrc s) (encESrc t) 0 0 23)
  | .iaSltu d s t => some (xR 1 (encEDst d) (encESrc s) (encESrc t) 0 0 24)
  | .iaAdds d s t => some (xR 1 (encEDst d) (encESrc s) (encESrc t) 0 0 25)
  | .iaSubs d s t => some (xR 1 (encEDst d) (encESrc s) (encESrc t) 0 0 26)
  | .iaiAddi d s imm => some (xI 8 (encEDst d) (encESrc s) imm.toNat)
  | .iaiAndi d s imm => some (xI 9 (encEDst d) (encESrc s) imm.toNat)
  | .iaiOri d s imm => some (xI 10 (encEDst d) (encESrc s) imm.toNat)
  | .iaiXori d s imm => some (xI 11 (encEDst d) (encESrc s) imm.toNat)
  | .iaiSlli d s sh => some (xI 12 (encEDst d) (encESrc s) sh.toNat)
  | .iaiSrli d s sh => some (xI 13 (encEDst d) (encESrc s) sh.toNat)
  | .iaiSrai d s sh => some (xI 14 (encEDst d) (encESrc s) sh.toNat)
  | .iaiLui d imm => some (xI 15 (encEDst d) 0 imm.toNat)
  | .faAdd d s t f => some (xR 2 (encEDst d) (encESrc s) (encESrc t) 0 (encFp f) 0)
  | .faSub d s t f => some (xR 2 (encEDst d) (encESrc s) (encESrc t) 0 (encFp f) 1)
  | .faMul d s t f => some (xR 2 (encEDst d) (encESrc s) (encESrc t) 0 (encFp f) 2)
  | .faFma d s t f => some (xR 2 d.val (encESrc s) (encESrc t) 0 (encFp f) 3)
  | .faFms d s t f => some (xR 2 d.val (encESrc s) (encESrc t) 0 (encFp f) 4)
  | .faFnma d s t f => some (xR 2 d.val (encESrc s) (encESrc t) 0 (encFp f) 5)
  | .faMin d s t f => some (xR 2 (encEDst d) (encESrc s) (encESrc t) 0 (encFp f) 6)
  | .faMax d s t f => some (xR 2 (encEDst d) (encESrc s) (encESrc t) 0 (encFp f) 7)
  | .faAbs d s f => some (xR 2 (encEDst d) (encESrc s) 0 0 (encFp f) 8)
  | .faNeg d s f => some (xR 2 (encEDst d) (encESrc s) 0 0 (encFp f) 9)
  | .faRcpe d s f => some (xR 2 (encEDst d) (encESrc s) 0 0 (encFp f) 10)
  | .faRcps d s t f => some (xR 2 (encEDst d) (encESrc s) (encESrc t) 0 (encFp f) 11)
  | .faRsqe d s f => some (xR 2 (encEDst d) (encESrc s) 0 0 (encFp f) 12)
  | .faSqrt d s f => some (xR 2 (encEDst d) (encESrc s) 0 0 (encFp f) 13)
  | .faClass d s f => some (xR 2 (encEDst d) (encESrc s) 0 0 (encFp f) 14)
  | .faCeq d s t f => some (xR 2 (encEDst d) (encESrc s) (encESrc t) 0 (encFp f) 15)
  | .faClt d s t f => some (xR 2 (encEDst d) (encESrc s) (encESrc t) 0 (encFp f) 16)
  | .faCle d s t f => some (xR 2 (encEDst d) (encESrc s) (encESrc t) 0 (encFp f) 17)
  | .cvtEncS d s => some (xR 3 (encEDst d) (encESrc s) 0 0 0 0)
  | .cvtDecS d s => some (xR 3 (encEDst d) (encESrc s) 0 0 0 1)
  | .cvtCnvS d s => some (xR 3 (encEDst d) (encESrc s) 0 0 0 2)
  | .cvtFtiS d s => some (xR 3 (encEDst d) (encESrc s) 0 0 0 3)
  | .cvtItfS d s => some (xR 3 (encEDst d) (encESrc s) 0 0 0 4)
  | .cvtTblw s t => some (xR 3 0 (encESrc s) (encESrc t) 0 0 5)
  | .cvtEncV d s => some (xR 3 (encVDst d) (encVSrc s) 0 0 1 0)
  | .cvtDecV d s => some (xR 3 (encVDst d) (encVSrc s) 0 0 1 1)
  | .cvtCnvV d s => some (xR 3 (encVDst d) (encVSrc s) 0 0 1 2)
  | .cvtFtiV d s => some (xR 3 (encVDst d) (encVSrc s) 0 0 1 3)
  | .cvtItfV d s => some (xR 3 (encVDst d) (encVSrc s) 0 0 1 4)
  | .cvtPack d s t => some (xR 3 d.val (encVSrc s) (encESrc t) 0 1 6)
  | .cvtUnpk d s t => some (xR 3 (encVDst d) (encVSrc s) (encESrc t) 0 1 7)
  | .prAnd d s t => some (xR 4 d.val s.val t.val 0 0 0)
  | .prOr d s t => some (xR 4 d.val s.val t.val 0 0 1)
  | .prXor d s t => some (xR 4 d.val s.val t.val 0 0 2)
  | .prAndn d s t => some (xR 4 d.val s.val t.val 0 0 3)
  | .prNot d s => some (xR 4 d.val s.val 0 0 0 4)
  | .prSet d s => some (xR 4 d.val (encESrc s) 0 0 0 5)
  | .prGet d s => some (xR 4 (encEDst d) s.val 0 0 0 6)
  | .prCeq d s t => some (xR 4 d.val (encESrc s) (encESrc t) 0 0 7)
  | .prCne d s t => some (xR 4 d.val (encESrc s) (encESrc t) 0 0 8)
  | .prClt d s t => some (xR 4 d.val (encESrc s) (encESrc t) 0 0 9)
  | .prCle d s t => some (xR 4 d.val (encESrc s) (encESrc t) 0 0 10)
  | .prCltu d s t => some (xR 4 d.val (encESrc s) (encESrc t) 0 0 11)
  | .prCleu d s t => some (xR 4 d.val (encESrc s) (encESrc t) 0 0 12)
  | .prAny d s t => some (xR 4 (encEDst d) s.val t.val 0 0 13)
  | .prAll d s t => some (xR 4 (encEDst d) s.val t.val 0 0 14)
  | .prPopc d s t => some (xR 4 (encEDst d) s.val t.val 0 0 15)
  | .vaAdd d s t pred w => some (xR 5 (encVDst d) (encVSrc s) (encVSrc t) pred.val (encLane w) 0)
  | .vaSub d s t pred w => some (xR 5 (encVDst d) (encVSrc s) (encVSrc t) pred.val (encLane w) 1)
  | .vaAdds d s t pred w => some (xR 5 (encVDst d) (encVSrc s) (encVSrc t) pred.val (encLane w) 2)
  | .vaSubs d s t pred w => some (xR 5 (encVDst d) (encVSrc s) (encVSrc t) pred.val (encLane w) 3)
  | .vaAddus d s t pred w => some (xR 5 (encVDst d) (encVSrc s) (encVSrc t) pred.val (encLane w) 4)
  | .vaSubus d s t pred w => some (xR 5 (encVDst d) (encVSrc s) (encVSrc t) pred.val (encLane w) 5)
  | .vaMul d s t pred w => some (xR 5 (encVDst d) (encVSrc s) (encVSrc t) pred.val (encLane w) 6)
  | .vaMulh d s t pred w => some (xR 5 (encVDst d) (encVSrc s) (encVSrc t) pred.val (encLane w) 7)
  | .vaAnd d s t pred w => some (xR 5 (encVDst d) (encVSrc s) (encVSrc t) pred.val (encLane w) 8)
  | .vaOr d s t pred w => some (xR 5 (encVDst d) (encVSrc s) (encVSrc t) pred.val (encLane w) 9)
  | .vaXor d s t pred w => some (xR 5 (encVDst d) (encVSrc s) (encVSrc t) pred.val (encLane w) 10)
  | .vaSll d s t pred w => some (xR 5 (encVDst d) (encVSrc s) (encVSrc t) pred.val (encLane w) 11)
  | .vaSrl d s t pred w => some (xR 5 (encVDst d) (encVSrc s) (encVSrc t) pred.val (encLane w) 12)
  | .vaSra d s t pred w => some (xR 5 (encVDst d) (encVSrc s) (encVSrc t) pred.val (encLane w) 13)
  | .vaMin d s t pred w => some (xR 5 (encVDst d) (encVSrc s) (encVSrc t) pred.val (encLane w) 14)
  | .vaMax d s t pred w => some (xR 5 (encVDst d) (encVSrc s) (encVSrc t) pred.val (encLane w) 15)
  | .vaMinu d s t pred w => some (xR 5 (encVDst d) (encVSrc s) (encVSrc t) pred.val (encLane w) 16)
  | .vaMaxu d s t pred w => some (xR 5 (encVDst d) (encVSrc s) (encVSrc t) pred.val (encLane w) 17)
  | .vaAbs d s pred w => some (xR 5 (encVDst d) (encVSrc s) 0 pred.val (encLane w) 18)
  | .vaCeq d s t pred w => some (xR 5 d.val (encVSrc s) (encVSrc t) pred.val (encLane w) 19)
  | .vaClt d s t pred w => some (xR 5 d.val (encVSrc s) (encVSrc t) pred.val (encLane w) 20)
  | .vaCltu d s t pred w => some (xR 5 d.val (encVSrc s) (encVSrc t) pred.val (encLane w) 21)
  | .vaSel d s t pred w => some (xR 5 (encVDst d) (encVSrc s) (encVSrc t) pred.val (encLane w) 22)
  | .vaDot d s t pred => some (xR 5 d.val (encVSrc s) (encVSrc t) pred.val 0 23)
  | .vaRsum d s pred w => some (xR 5 (encVDst d) (encVSrc s) 0 pred.val (encLane w) 24)
  | .vaRmin d s pred w => some (xR 5 (encVDst d) (encVSrc s) 0 pred.val (encLane w) 25)
  | .vaRmax d s pred w => some (xR 5 (encVDst d) (encVSrc s) 0 pred.val (encLane w) 26)
  | .vfAdd d s t pred f => some (xR 6 (encVDst d) (encVSrc s) (encVSrc t) pred.val (encFp f) 0)
  | .vfSub d s t pred f => some (xR 6 (encVDst d) (encVSrc s) (encVSrc t) pred.val (encFp f) 1)
  | .vfMul d s t pred f => some (xR 6 (encVDst d) (encVSrc s) (encVSrc t) pred.val (encFp f) 2)
  | .vfFma d s t pred f => some (xR 6 d.val (encVSrc s) (encVSrc t) pred.val (encFp f) 3)
  | .vfMin d s t pred f => some (xR 6 (encVDst d) (encVSrc s) (encVSrc t) pred.val (encFp f) 4)
  | .vfMax d s t pred f => some (xR 6 (encVDst d) (encVSrc s) (encVSrc t) pred.val (encFp f) 5)
  | .vfAbs d s pred f => some (xR 6 (encVDst d) (encVSrc s) 0 pred.val (encFp f) 6)
  | .vfNeg d s pred f => some (xR 6 (encVDst d) (encVSrc s) 0 pred.val (encFp f) 7)
  | .vfCeq d s t pred f => some (xR 6 d.val (encVSrc s) (encVSrc t) pred.val (encFp f) 8)
  | .vfClt d s t pred f => some (xR 6 d.val (encVSrc s) (encVSrc t) pred.val (encFp f) 9)
  | .vfCle d s t pred f => some (xR 6 d.val (encVSrc s) (encVSrc t) pred.val (encFp f) 10)
  | .vfDot d s t pred f => some (xR 6 d.val (encVSrc s) (encVSrc t) pred.val (encFp f) 11)
  | .vfRsum d s pred f => some (xR 6 (encVDst d) (encVSrc s) 0 pred.val (encFp f) 12)
  | .vfRmin d s pred f => some (xR 6 (encVDst d) (encVSrc s) 0 pred.val (encFp f) 13)
  | .vfRmax d s pred f => some (xR 6 (encVDst d) (encVSrc s) 0 pred.val (encFp f) 14)
  | .vfRcpe d s pred f => some (xR 6 (encVDst d) (encVSrc s) 0 pred.val (encFp f) 15)
  | .vxMov d s pred w => some (xR 7 (encVDst d) (encVSrc s) 0 pred.val (encLane w) 0)
  | .vxBcast d s pred w => some (xR 7 (encVDst d) (encESrc s) 0 pred.val (encLane w) 1)
  | .vxPerm d s t pred w => some (xR 7 (encVDst d) (encVSrc s) (encVSrc t) pred.val (encLane w) 2)
  | .vxRot d s t pred w => some (xR 7 (encVDst d) (encVSrc s) (encESrc t) pred.val (encLane w) 3)
  | .vxZip d s t pred w => some (xR 7 (encVDst d) (encVSrc s) (encVSrc t) pred.val (encLane w) 4)
  | .vxUnzip d s t pred w => some (xR 7 (encVDst d) (encVSrc s) (encVSrc t) pred.val (encLane w) 5)
  | .vxExt d s t w => some (xR 7 (encEDst d) (encVSrc s) (encESrc t) 0 (encLane w) 6)
  | .vxIns d s t w => some (xR 7 d.val (encESrc s) (encESrc t) 0 (encLane w) 7)
  | .vxAmax d s pred => some (xR 7 (encVDst d) (encVSrc s) 0 pred.val 0 8)
  | .vxScale d s => some (xR 7 (encVDst d) (encVSrc s) 0 0 0 9)
  | .vxBarq d s => some (xR 7 d.val (encVSrc s) 0 0 0 10)
  | .vxIdx d s pred w => some (xR 7 (encVDst d) (encESrc s) 0 pred.val (encLane w) 11)
  | .fmtSetX fd fa fb scl => some (xR 16 fd.toNat fa.toNat fb.toNat 0 scl.toNat 0)
  | _ => none

/-- The encoder: the words of a well-formed instruction, laid out as one bundle (R205); a word of the execute side
stands beside the all-zero C-word. -/
def encode (i : Instr) : Option Nat :=
  match encodeC i with
  | some b => some b
  | none => (encodeX i).map (· * 2 ^ 32)

/-- The instruction that the word of i decodes to: the four acts of sys.resume share one word (R307). -/
def canonical : Instr → Instr
  | .sysResumeRedo s t => .sysResumeReturn s t
  | .sysResumeDiscard s t => .sysResumeReturn s t
  | .sysResumeComplete s t => .sysResumeReturn s t
  | i => i

/-- The instruction the decoder reads from an instruction whose bits are w, numbered as the opcode table numbers
them. The table gives a C-word and an X-word the same 32 bits, so a word that the access side refuses is read as
an X-word; nbits tells nothing more. -/
noncomputable def decodeTableWord (_nbits w : Nat) : Option Instr :=
  match decodeC w with
  | .ok i => some i
  | .error _ =>
    match decodeX (w % 2 ^ 32) with
    | .ok i => some i
    | .error _ => none

end Sys2Proof
end

