-- ==== Sys2Proof/Machine/Numbers.lean ====
section
/-! DEFINITION. The number formats of spec/09: decoding patterns to exact values, exact sums and products, one rounding
with the flags of R168, saturation (R169), the decode table (R164 to R166) and block scales (R167). -/

namespace Sys2Proof.Machine

/-! ## Flags -/

/-- The conditions of R25 that one operation meets. -/
structure Fl where
  nv : Bool
  dz : Bool
  of : Bool
  uf : Bool
  nx : Bool
  sat : Bool
deriving DecidableEq, Repr

/-- No condition. -/
def Fl.zero : Fl := ⟨false, false, false, false, false, false⟩
/-- Either of two sets of conditions. -/
def Fl.or (a b : Fl) : Fl :=
  ⟨a.nv || b.nv, a.dz || b.dz, a.of || b.of, a.uf || b.uf, a.nx || b.nx, a.sat || b.sat⟩
/-- The invalid condition alone. -/
def Fl.invalid : Fl := { Fl.zero with nv := true }

/-! ## Exact values -/

/-- The exact meaning of a pattern: a NaN (signalling or quiet), an infinity, or (-1)^neg * m * 2^e (R160, R162). -/
inductive FV where
  | nan (signalling : Bool)
  | inf (neg : Bool)
  | fin (neg : Bool) (m : Nat) (e : Int)
deriving DecidableEq, Repr

/-- A binary format: exponent and fraction bits, bias, the largest finite value maxK * 2^maxQ, the canonical NaN, and
whether results past the largest finite value saturate (R160, R169). -/
structure FSpec where
  eb : Nat
  fb : Nat
  bias : Int
  maxK : Nat
  maxQ : Int
  nan : Nat
  sat : Bool
deriving DecidableEq, Repr

def specFp32 : FSpec := ⟨8, 23, 127, 2 ^ 24 - 1, 104, 0x7fc00000, false⟩
def specFp16 : FSpec := ⟨5, 10, 15, 2 ^ 11 - 1, 5, 0x7e00, false⟩
def specBf16 : FSpec := ⟨8, 7, 127, 2 ^ 8 - 1, 120, 0x7fc0, false⟩
/-- E8M10 without the LOW bits of its container (R161). -/
def specE8m10 : FSpec := ⟨8, 10, 127, 2 ^ 11 - 1, 117, 0x3fe00, false⟩
def specE5m2 : FSpec := ⟨5, 2, 15, 7, 13, 0x7e, false⟩
def specE4m3 : FSpec := ⟨4, 3, 7, 14, 5, 0x7f, true⟩
def specE2m1 : FSpec := ⟨2, 1, 1, 3, 1, 0, true⟩

/-- Decode a pattern whose top exponent holds infinities and NaNs (R160). -/
def decodeIeee (f : FSpec) (bits : Nat) : FV :=
  let neg := bits / 2 ^ (f.eb + f.fb) % 2 == 1
  let e := bits / 2 ^ f.fb % 2 ^ f.eb
  let fr := bits % 2 ^ f.fb
  if e = 2 ^ f.eb - 1 then (if fr = 0 then .inf neg else .nan (fr / 2 ^ (f.fb - 1) == 0))
  else if e = 0 then .fin neg fr (1 - f.bias - f.fb)
  else .fin neg (2 ^ f.fb + fr) ((e : Int) - f.bias - f.fb)

/-- Decode a pattern whose top exponent is normal (R160). -/
def decodePlain (f : FSpec) (bits : Nat) : FV :=
  let neg := bits / 2 ^ (f.eb + f.fb) % 2 == 1
  let e := bits / 2 ^ f.fb % 2 ^ f.eb
  let fr := bits % 2 ^ f.fb
  if e = 0 then .fin neg fr (1 - f.bias - f.fb) else .fin neg (2 ^ f.fb + fr) ((e : Int) - f.bias - f.fb)

/-- Decode an E4M3 code (R160); its NaN is quiet (R162). -/
def decodeE4m3 (c : Nat) : FV := if c % 128 = 127 then .nan false else decodePlain specE4m3 (c % 256)

/-- Is the value a signalling NaN? -/
def FV.isSnan : FV → Bool
  | .nan s => s
  | _ => false
/-- Is the value a NaN? -/
def FV.isNan : FV → Bool
  | .nan _ => true
  | _ => false
/-- Is the value zero? -/
def FV.isZero : FV → Bool
  | .fin _ 0 _ => true
  | _ => false
/-- The value with its sign inverted. -/
def FV.negate : FV → FV
  | .nan s => .nan s
  | .inf n => .inf !n
  | .fin n m e => .fin (!n) m e

/-- 2 to a possibly negative power, as a fraction. -/
def pow2 (e : Int) : Nat × Nat := if 0 ≤ e then (2 ^ e.toNat, 1) else (1, 2 ^ (-e).toNat)

/-- A finite magnitude m * 2^e as a fraction. -/
def fracOf (m : Nat) (e : Int) : Nat × Nat := (m * (pow2 e).1, (pow2 e).2)

/-- The finite value as an integer in units of 2^base, base at or below its exponent. -/
def scaled (neg : Bool) (m : Nat) (e base : Int) : Int :=
  let v : Int := m * 2 ^ (e - base).toNat
  if neg then -v else v

/-! ## Rounding -/

/-- Round m / 2^sh, with sticky bits below m, to an integer in mode rm (R168). Answers the integer and whether the
result is inexact. -/
def roundShift (rm : Nat) (neg : Bool) (m sh : Nat) (sticky : Bool) : Nat × Bool :=
  let k := m / 2 ^ sh
  let r := m % 2 ^ sh
  let half := 2 ^ sh
  let inexact := r != 0 || sticky
  let up :=
    if rm = 0 then (2 * r > half || (2 * r == half && (sticky || k % 2 == 1)))
    else if rm = 1 then false
    else if rm = 2 then neg && inexact
    else !neg && inexact
  (if up then k + 1 else k, inexact)

/-- The signed pattern of k * 2^q, k below 2^(fb + 1). -/
def packFp (f : FSpec) (neg : Bool) (k : Nat) (q : Int) : Nat :=
  let s := if neg then 2 ^ (f.eb + f.fb) else 0
  if k < 2 ^ f.fb then s + k
  else s + ((q + f.fb + f.bias).toNat * 2 ^ f.fb + (k - 2 ^ f.fb))

/-- Infinity, where the format has one; the pattern above the largest finite one. -/
def infFp (f : FSpec) (neg : Bool) : Nat :=
  (if neg then 2 ^ (f.eb + f.fb) else 0) + (2 ^ f.eb - 1) * 2 ^ f.fb

/-- The largest finite pattern. -/
def maxFp (f : FSpec) (neg : Bool) : Nat := packFp f neg f.maxK f.maxQ

/-- Round an exact nonzero magnitude (m plus sticky bits) * 2^e into a format, once, in mode rm (R168, R169). -/
def roundFp (f : FSpec) (rm : Nat) (neg : Bool) (m : Nat) (e : Int) (sticky : Bool) : Nat × Fl :=
  if m = 0 && !sticky then (if neg then 2 ^ (f.eb + f.fb) else 0, Fl.zero)
  else
    -- bring the magnitude to at least fb + 3 bits, so that one shift rounds it
    let m1 := m * 2 ^ (f.fb + 3)
    let e1 := e - (f.fb + 3)
    let top : Int := (Nat.log2 m1 : Int) + e1
    let qFree := top - f.fb
    let qMin := 1 - f.bias - f.fb
    let q := if qFree < qMin then qMin else qFree
    let fr := roundShift rm neg m1 (qFree - e1).toNat sticky
    let tiny := decide (qFree < qMin) &&
      !(fr.1 == 2 ^ (f.fb + 1) && decide (qFree + 1 = qMin))
    let rr := roundShift rm neg m1 (q - e1).toNat sticky
    let carry := rr.1 == 2 ^ (f.fb + 1)
    let k := if carry then 2 ^ f.fb else rr.1
    let q' := if carry then q + 1 else q
    let big := decide (f.maxQ < q') || (q' == f.maxQ && decide (f.maxK < k))
    if big then
      let toInf := rm = 0 || (rm = 2 && neg) || (rm = 3 && !neg)
      if f.sat then (maxFp f neg, ⟨false, false, true, false, true, true⟩)
      else (if toInf then infFp f neg else maxFp f neg, ⟨false, false, true, false, true, false⟩)
    else (packFp f neg k q', ⟨false, false, false, tiny && rr.2, rr.2, false⟩)

/-- Round the exact quotient num / den into a format. -/
def roundQ (f : FSpec) (rm : Nat) (neg : Bool) (num den : Nat) : Nat × Fl :=
  let sh := f.fb + 4 + Nat.log2 den
  let n := num * 2 ^ sh
  roundFp f rm neg (n / den) (-(sh : Int)) (n % den != 0)

/-! ## Exact sums -/

/-- The terms that are finite, as sign, magnitude and exponent. -/
def finTerms : List FV → List (Bool × Nat × Int)
  | [] => []
  | .fin n m e :: ts => (n, m, e) :: finTerms ts
  | _ :: ts => finTerms ts

/-- The least exponent of the terms. -/
def leastExp : Int → List (Bool × Nat × Int) → Int
  | b, [] => b
  | b, (_, _, e) :: ts => leastExp (if e < b then e else b) ts

/-- The exact sum of the terms in units of 2^base. -/
def sumTerms (base : Int) : List (Bool × Nat × Int) → Int
  | [] => 0
  | (n, m, e) :: ts => scaled n m e base + sumTerms base ts

/-- Round the exact sum of terms once (R162, R168). NaN terms, a clash of infinities and the sign of zero follow R162;
nv says that an invalid product has already been met; a sum with infinities of both signs is invalid beside a quiet NaN too. -/
def roundSum (f : FSpec) (rm : Nat) (nv : Bool) (ts : List FV) : Nat × Fl :=
  let snan := ts.any FV.isSnan
  let pos := ts.any (· == .inf false)
  let ng := ts.any (· == .inf true)
  if nv || ts.any FV.isNan then (f.nan, { Fl.zero with nv := nv || snan || (pos && ng) })
  else
    if pos && ng then (f.nan, Fl.invalid)
    else if pos then (infFp f false, Fl.zero)
    else if ng then (infFp f true, Fl.zero)
    else
      let fs := finTerms ts
      let base := leastExp 0 fs
      let t := sumTerms base fs
      if t = 0 then
        let allNeg := fs.all fun x => x.2.1 == 0 && x.1
        let allPos := fs.all fun x => x.2.1 == 0 && !x.1
        let neg := if allNeg && !fs.isEmpty then true else if allPos then false else rm == 2
        (if neg then 2 ^ (f.eb + f.fb) else 0, Fl.zero)
      else roundFp f rm (decide (t < 0)) t.natAbs base false

/-- An exact product; 0 * infinity is invalid (R162). -/
def mulFV : FV → FV → FV × Bool
  | .nan s, .nan t => (.nan (s || t), false)
  | .nan s, _ => (.nan s, false)
  | _, .nan s => (.nan s, false)
  | .inf n, .inf k => (.inf (n != k), false)
  | .inf n, .fin k m _ => if m = 0 then (.nan false, true) else (.inf (n != k), false)
  | .fin k m _, .inf n => if m = 0 then (.nan false, true) else (.inf (n != k), false)
  | .fin n m e, .fin k m' e' => (.fin (n != k) (m * m') (e + e'), false)

/-! ## The formats of fa and vf -/

/-- The format's specification. -/
def fmtSpec : FpFmt → FSpec
  | .fp32 => specFp32 | .fp16 => specFp16 | .bf16 => specBf16 | .e8m10 => specE8m10

/-- The width of the format's lane (R270). -/
def fmtBits : FpFmt → Nat
  | .fp32 => 32 | .fp16 => 16 | .bf16 => 16 | .e8m10 => 32

/-- Read a container as a value of the format (R261). -/
def readFp (f : FpFmt) (bits : Nat) : FV :=
  match f with
  | .fp32 => decodeIeee specFp32 (bits % 2 ^ 32)
  | .fp16 => decodeIeee specFp16 (bits % 2 ^ 16)
  | .bf16 => decodeIeee specBf16 (bits % 2 ^ 16)
  | .e8m10 => decodeIeee specE8m10 (bits % 2 ^ 32 / 2 ^ 13)

/-- Place a pattern of the format in its container (R161, R261). -/
def placeFp (f : FpFmt) (bits : Nat) : Nat :=
  match f with
  | .e8m10 => bits * 2 ^ 13
  | _ => bits

/-- The canonical NaN in its container (R160). -/
def nanFp (f : FpFmt) : Nat := placeFp f (fmtSpec f).nan

/-- Round an exact sum into a format's container. -/
def sumFp (f : FpFmt) (rm : Nat) (nv : Bool) (ts : List FV) : Nat × Fl :=
  let r := roundSum (fmtSpec f) rm nv ts
  (placeFp f r.1, r.2)

/-- Round(x * y + z), one rounding (R264). -/
def fmaFp (f : FpFmt) (rm : Nat) (x y z : FV) : Nat × Fl :=
  let p := mulFV x y
  let sn := x.isSnan || y.isSnan || z.isSnan
  let r := sumFp f rm p.2 [p.1, z]
  (r.1, { r.2 with nv := r.2.nv || sn })

/-- Round(x * y) (R264). -/
def mulFp (f : FpFmt) (rm : Nat) (x y : FV) : Nat × Fl :=
  let p := mulFV x y
  match p.1 with
  | .nan s => (nanFp f, { Fl.zero with nv := s || p.2 || x.isSnan || y.isSnan })
  | .inf n => (placeFp f (infFp (fmtSpec f) n), Fl.zero)
  | .fin n m e =>
    let r := roundFp (fmtSpec f) rm n m e false
    (placeFp f r.1, r.2)

/-- Is x less than y, neither being a NaN? -/
def ltFV : FV → FV → Bool
  | .inf true, .inf true => false
  | .inf true, _ => true
  | _, .inf true => false
  | .inf false, _ => false
  | _, .inf false => true
  | .fin n m e, .fin n' m' e' =>
    let b := if e < e' then e else e'
    decide (scaled n m e b < scaled n' m' e' b)
  | _, _ => false

/-- Are x and y equal in value, neither being a NaN? -/
def eqFV (x y : FV) : Bool := !x.isNan && !y.isNan && !ltFV x y && !ltFV y x

/-- Is the value's sign bit set? -/
def FV.neg : FV → Bool
  | .nan _ => false
  | .inf n => n
  | .fin n _ _ => n

/-- min and max (R265), on the containers and their values. -/
def extremeFp (f : FpFmt) (greatest : Bool) (a b : Nat) : Nat × Fl :=
  let x := readFp f a
  let y := readFp f b
  let fl := { Fl.zero with nv := x.isSnan || y.isSnan }
  let keep (c : Nat) : Nat :=
    match f with
    | .fp32 => c % 2 ^ 32
    | .e8m10 => c % 2 ^ 32 / 2 ^ 13 * 2 ^ 13
    | _ => c % 2 ^ 16
  if x.isNan && y.isNan then (nanFp f, fl)
  else if x.isNan then (keep b, fl)
  else if y.isNan then (keep a, fl)
  else
    let less := ltFV x y || (eqFV x y && x.neg && !y.neg)
    (keep (if less != greatest then a else b), fl)

/-- The class mask of R265. -/
def classFp (f : FpFmt) (a : Nat) : Nat :=
  match readFp f a with
  | .nan true => 256
  | .nan false => 512
  | .inf true => 1
  | .inf false => 128
  | .fin n m _ =>
    if m = 0 then (if n then 8 else 16)
    else if m < 2 ^ (fmtSpec f).fb then (if n then 4 else 32)
    else (if n then 2 else 64)

/-! ## Roots and estimates -/

/-- The integer square root, a bit at a time from bit b - 1 down. -/
def isqrtFrom (n : Nat) : Nat → Nat → Nat
  | 0, r => r
  | b + 1, r => isqrtFrom n b (if (r + 2 ^ b) * (r + 2 ^ b) ≤ n then r + 2 ^ b else r)

/-- The greatest r with r * r at most n. -/
def isqrt (n : Nat) : Nat := isqrtFrom n (Nat.log2 n / 2 + 1) 0

/-- The square root (R264): the root of -0 is -0. -/
def sqrtFp (f : FpFmt) (rm : Nat) (x : FV) : Nat × Fl :=
  match x with
  | .nan s => (nanFp f, { Fl.zero with nv := s })
  | .inf false => (placeFp f (infFp (fmtSpec f) false), Fl.zero)
  | .inf true => (nanFp f, Fl.invalid)
  | .fin n 0 _ => (placeFp f (if n then 2 ^ ((fmtSpec f).eb + (fmtSpec f).fb) else 0), Fl.zero)
  | .fin true _ _ => (nanFp f, Fl.invalid)
  | .fin false m e =>
    -- an even exponent and enough bits below
    let sh : Nat := if e % 2 = 0 then 64 else 65
    let n := m * 2 ^ sh
    let r := isqrt n
    let res := roundFp (fmtSpec f) rm false r ((e - sh) / 2) (r * r != n)
    (placeFp f res.1, res.2)

/-- The format of the estimates in f (R266): m fraction bits and the exponent range of f. -/
def estSpec : FpFmt → FSpec
  | .fp16 => specFp16
  | .bf16 => specBf16
  | _ => specE8m10

/-- Place a pattern of the estimate's format in f's container. -/
def placeEst (f : FpFmt) (bits : Nat) : Nat :=
  match f with
  | .fp32 => bits * 2 ^ 13
  | .e8m10 => bits * 2 ^ 13
  | _ => bits

/-- The reciprocal estimate (R266). -/
def rcpeFp (f : FpFmt) (x : FV) : Nat × Fl :=
  match x with
  | .nan s => (nanFp f, { Fl.zero with nv := s })
  | .inf n => (placeEst f (if n then 2 ^ ((estSpec f).eb + (estSpec f).fb) else 0), Fl.zero)
  | .fin n 0 _ => (placeEst f (infFp (estSpec f) n), { Fl.zero with dz := true })
  | .fin n m e =>
    let q := fracOf m e
    let r := roundQ (estSpec f) 0 n q.2 q.1
    (placeEst f r.1, r.2)

/-- The reciprocal square-root estimate (R266). -/
def rsqeFp (f : FpFmt) (x : FV) : Nat × Fl :=
  match x with
  | .nan s => (nanFp f, { Fl.zero with nv := s })
  | .inf false => (0, Fl.zero)
  | .inf true => (nanFp f, Fl.invalid)
  | .fin n 0 _ => (placeEst f (infFp (estSpec f) n), { Fl.zero with dz := true })
  | .fin true _ _ => (nanFp f, Fl.invalid)
  | .fin false m e =>
    let m' := if e % 2 = 0 then m else 2 * m
    let e' := if e % 2 = 0 then e else e - 1
    let k := Nat.log2 m' + 40
    let r := isqrt (2 ^ (2 * k) / m')
    let res := roundFp (estSpec f) 0 false r (-(e' / 2) - k) (r * r * m' != 2 ^ (2 * k))
    (placeEst f res.1, { res.2 with of := false, uf := false })

/-! ## The decode table -/

/-- The container that the placement loads at entry i of the lower half (R164): the E4M3 value of the code, and 448
at 0x7f. -/
def tableDefault (i : Nat) : Nat :=
  match decodeE4m3 (if i = 127 then 126 else i) with
  | .fin n m e => (roundFp specFp32 0 n m e false).1
  | _ => 0

/-- Entry i of the decode table, a container: the upper half mirrors the lower with SIGN set (R164). -/
def tableEntry (t : SMap (BitVec 32)) (i : Nat) : Nat :=
  let lo := match SMap.find (i % 128) t with
    | some c => c.toNat
    | none => tableDefault (i % 128)
  if i % 256 < 128 then lo else lo % 2 ^ 31 + 2 ^ 31

/-- Is entry i in order with its neighbour above (R164)? -/
def tordAt (t : SMap (BitVec 32)) (i : Nat) : Bool :=
  let c := tableEntry t i
  c < 2 ^ 31 && !(readFp .e8m10 c).isNan && (i == 127 || c / 2 ^ 13 ≤ tableEntry t (i + 1) / 2 ^ 13)

/-- The ordering flag TORD (R164). -/
def tord (t : SMap (BitVec 32)) : Bool := t.isEmpty || (upFrom 0 128).all (tordAt t)

/-- The value of a TBL8 code (R165). -/
def decodeTbl8 (t : SMap (BitVec 32)) (c : Nat) : FV := readFp .e8m10 (tableEntry t (c % 256))
/-- The value of a TBL4 nibble (R165). -/
def decodeTbl4 (t : SMap (BitVec 32)) (c : Nat) : FV :=
  readFp .e8m10 (tableEntry t (c % 16 / 8 * 128 + c % 8))

/-- The distance of entry value x from num / den, as a numerator over den times the entry's denominator; none for an
infinite entry. -/
def tblDist (x : FV) (num den : Nat) : Option (Nat × Nat) :=
  match x with
  | .fin _ m e =>
    let q := fracOf m e
    let a := q.1 * den
    let b := num * q.2
    some (if a < b then b - a else a - b, q.2 * den)
  | _ => none

/-- Is distance a nearer than distance b? -/
def nearer (a b : Option (Nat × Nat)) : Bool :=
  match a, b with
  | some (x, p), some (y, q) => x * q < y * p
  | some _, none => true
  | none, _ => false

/-- The code that R166 picks among entries 0 to n: the least even index at the least distance, else the least. -/
def pickEntry (ds : List (Nat × Option (Nat × Nat))) : Nat :=
  let best := ds.foldl (fun b d => if nearer d.2 b then d.2 else b) none
  let cands := ds.filter fun d => !nearer d.2 best && !nearer best d.2
  match cands.find? (fun d => d.1 % 2 == 0) with
  | some d => d.1
  | none => match cands with
    | d :: _ => d.1
    | [] => 0

/-- Encode a magnitude into a table format of top index n (R166): none stands for an infinite magnitude. -/
def encodeTblMag (t : SMap (BitVec 32)) (n : Nat) (mag : Option (Nat × Nat)) : Nat × Fl :=
  let es := (upFrom 0 (n + 1)).map fun k => (k, readFp .e8m10 (tableEntry t k))
  let topV := readFp .e8m10 (tableEntry t n)
  match mag with
  | none =>
    let best := es.foldl (fun b d => if ltFV b d.2 then d.2 else b) (.fin false 0 0)
    let cands := es.filter fun d => eqFV d.2 best
    let k := match cands.find? (fun d => d.1 % 2 == 0) with
      | some d => d.1
      | none => match cands with
        | d :: _ => d.1
        | [] => 0
    (k, { Fl.zero with sat := topV != .inf false, nx := best != .inf false })
  | some (num, den) =>
    let ds := es.map fun d => (d.1, tblDist d.2 num den)
    let k := pickEntry ds
    let exact := match tblDist (readFp .e8m10 (tableEntry t k)) num den with
      | some (0, _) => true
      | _ => false
    let above := match topV with
      | .fin _ m e => let q := fracOf m e; decide (q.1 * den < num * q.2)
      | _ => false
    (k, { Fl.zero with sat := above, nx := !exact })

/-! ## Block scales -/

/-- The value of a block scale field (R167); e = 255 is a NaN scale. -/
def scaleFV (s : Nat) : FV :=
  let e := s % 1024 / 4
  if e = 255 then .nan false else .fin false (4 + s % 4) ((e : Int) - 129)

/-- The largest finite value of a target of vx.scale as a fraction (R282). -/
def targetMax (t : SMap (BitVec 32)) (code : Nat) : Nat × Nat :=
  let ofFV : FV → Nat × Nat := fun x => match x with
    | .fin _ m e => fracOf m e
    | _ => (2 ^ 400, 1)
  if code = 0 then (127, 1) else if code = 1 then (255, 1) else if code = 5 then (7, 1)
  else if code = 6 then ofFV (decodeTbl8 t 127) else if code = 7 then ofFV (decodeTbl4 t 7)
  else
    let f := if code = 2 then specE4m3 else if code = 3 then specE5m2 else if code = 4 then specE2m1
      else if code = 8 then specFp16 else if code = 9 then specBf16 else specE8m10
    fracOf f.maxK f.maxQ

/-- Is a / scale at most the maximum mx, exactly (R282)? -/
def scaleFits (a mx : Nat × Nat) (s : Nat) : Bool :=
  -- a / ((4 + f) * 2^(e - 129)) <= mx
  decide (a.1 * mx.2 * 2 ^ 129 ≤ mx.1 * a.2 * ((4 + s % 4) * 2 ^ (s / 4)))

/-- The number of fields from bit b - 1 down that do not fit, which is the least field that does. -/
def leastScale (a mx : Nat × Nat) : Nat → Nat → Nat
  | 0, r => r
  | b + 1, r => leastScale a mx b (if scaleFits a mx (r + 2 ^ b - 1) then r else r + 2 ^ b)

/-- The vx.scale rule on a magnitude (none for a NaN or an infinity) (R282). -/
def scaleRule (a : Option (Nat × Nat)) (mx : Nat × Nat) : Nat × Fl :=
  match a with
  | none => (0x3fc, Fl.invalid)
  | some q =>
    if scaleFits q mx 0x3fb then (leastScale q mx 10 0, Fl.zero) else (0x3fb, { Fl.zero with sat := true })

/-! ## The formats of the prefix -/

/-- Element bits of a format code (R170); 64 stands for INT64. -/
def codeBits (c : Nat) : Nat :=
  if c = 4 || c = 5 || c = 7 then 4
  else if c < 8 then 8
  else if c < 10 then 16
  else if c < 12 then 32 else 64

/-- The code that stands for the INT64 default of cvt (R267). -/
def codeInt64 : Nat := 64

/-- Is the code an integer format? -/
def codeIsInt (c : Nat) : Bool := c == 0 || c == 1 || c == 5 || c == 64

/-- The value of an element pattern of a format code (R159, R160, R165). -/
def decodeCode (t : SMap (BitVec 32)) (c bits : Nat) : FV :=
  let int (w : Nat) : FV :=
    let u := bits % 2 ^ w
    if u < 2 ^ (w - 1) then .fin false u 0 else .fin true (2 ^ w - u) 0
  if c = 0 then int 8
  else if c = 1 then .fin false (bits % 256) 0
  else if c = 2 then decodeE4m3 bits
  else if c = 3 then decodeIeee specE5m2 (bits % 256)
  else if c = 4 then decodePlain specE2m1 (bits % 16)
  else if c = 5 then int 4
  else if c = 6 then decodeTbl8 t bits
  else if c = 7 then decodeTbl4 t bits
  else if c = 8 then readFp .fp16 bits
  else if c = 9 then readFp .bf16 bits
  else if c = 10 then readFp .e8m10 bits
  else if c = 11 then readFp .fp32 bits
  else int 64

/-- Convert a signed fraction to an integer format of w bits (R168, R169). OF goes by its row of R168 as for any format: the value
rounds to a magnitude above the format's largest (log 24). -/
def toInt (w : Nat) (signed : Bool) (rm : Nat) (neg : Bool) (num den : Nat) : Nat × Fl :=
  let k := num / den
  let r := num % den
  let inexact := r != 0
  let up :=
    if rm = 0 then decide (2 * r > den) || (2 * r == den && k % 2 == 1)
    else if rm = 1 then false
    else if rm = 2 then neg && inexact
    else !neg && inexact
  let v := if up then k + 1 else k
  let lim := if signed then (if neg then 2 ^ (w - 1) else 2 ^ (w - 1) - 1) else (if neg then 0 else 2 ^ w - 1)
  if lim < v then
    let m := if neg then (if signed then 2 ^ (w - 1) else 0) else lim
    let big := decide ((if signed then 2 ^ (w - 1) - 1 else 2 ^ w - 1) < v)
    (m, ⟨true, false, big, false, true, true⟩)
  else ((if neg then (2 ^ w - v) % 2 ^ w else v), ⟨false, false, false, false, inexact, false⟩)

/-- Convert a value, divided by a positive scale fraction, into a format code in its container, once (R166, R168,
R169, R283). -/
def encodeCode (t : SMap (BitVec 32)) (c rm : Nat) (x : FV) (scale : Nat × Nat) : Nat × Fl :=
  let intW := if c = 5 then 4 else if c = 64 then 64 else 8
  let fspec := if c = 2 then specE4m3 else if c = 3 then specE5m2 else if c = 4 then specE2m1
    else if c = 8 then specFp16 else if c = 9 then specBf16 else if c = 10 then specE8m10 else specFp32
  let place (b : Nat) : Nat := if c = 10 then b * 2 ^ 13 else b
  match x with
  | .nan s =>
    if codeIsInt c then (0, Fl.invalid)
    else if c = 2 then (0x7f, Fl.invalid)
    else if c = 4 then (0, Fl.invalid)
    else if c = 6 then (0x7f, Fl.invalid)
    else if c = 7 then (0x7, Fl.invalid)
    else (place fspec.nan, { Fl.zero with nv := s })
  | .inf n =>
    if codeIsInt c then
      let lim := if c = 1 then (if n then 0 else 255) else (if n then 2 ^ (intW - 1) else 2 ^ (intW - 1) - 1)
      (lim, ⟨true, false, false, false, true, true⟩)
    else if c = 2 || c = 4 then (maxFp fspec n, ⟨false, false, false, false, true, true⟩)
    else if c = 6 then
      let r := encodeTblMag t 127 none
      (if n then r.1 + 128 else r.1, r.2)
    else if c = 7 then
      let r := encodeTblMag t 7 none
      (if n then r.1 + 8 else r.1, r.2)
    else (place (infFp fspec n), Fl.zero)
  | .fin n m e =>
    let q := fracOf m e
    let num := q.1 * scale.2
    let den := q.2 * scale.1
    if codeIsInt c then toInt intW (c != 1) rm n num den
    else if c = 6 then
      let r := encodeTblMag t 127 (some (num, den))
      (if n then r.1 + 128 else r.1, r.2)
    else if c = 7 then
      let r := encodeTblMag t 7 (some (num, den))
      (if n then r.1 + 8 else r.1, r.2)
    else
      let r := if num = 0 then (if n then 2 ^ (fspec.eb + fspec.fb) else 0, Fl.zero) else roundQ fspec rm n num den
      (place r.1, r.2)

end Sys2Proof.Machine
end

