-- ==== Sys2Proof/Machine/Memories.lean ====
section
/-! DEFINITION. The memories: 512-bit values as bytes, HBM with its remap, migration and poison, host memory, extents, the
scratchpad at its home with FE bits and repair lines, and the L1 and L2 copies of mesh space (spec/03). -/

namespace Sys2Proof.Machine

/-! ## 512-bit values -/

/-- Byte i of a vector, byte 0 lowest (R3). -/
def vecByte (v : Vec) (i : Nat) : Byte := v.extractLsb' (8 * i) 8
/-- The n low bytes of a vector, lowest first. -/
def vecBytes (v : Vec) (n : Nat) : List Byte := (upFrom 0 n).map (vecByte v)
/-- The vector whose low bytes are bs and whose other bytes are zero. -/
def vecOf (bs : List Byte) : Vec := BitVec.ofNat 512 (leValue bs)
/-- The vector with byte i at b. -/
def vecPut (v : Vec) (i : Nat) (b : Byte) : Vec :=
  (v &&& ~~~((0xff : Vec) <<< (8 * i))) ||| ((b.zeroExtend 512) <<< (8 * i))
/-- The n-byte element at byte offset i. -/
def vecElem (v : Vec) (i n : Nat) : Nat := v.toNat / 2 ^ (8 * i) % 2 ^ (8 * n)
/-- The vector with bytes written from byte i upward. -/
def vecPutBytes (v : Vec) (i : Nat) : List Byte → Vec
  | [] => v
  | b :: bs => vecPutBytes (vecPut v i b) (i + 1) bs
/-- The vector with the n-byte element at byte offset i at x. -/
def vecPutElem (v : Vec) (i n x : Nat) : Vec := vecPutBytes v i (leBytes x n)
/-- The bytes of new where the mask is set, of old elsewhere. -/
def vecMerge (old new : Vec) (mask : BitVec 64) : Vec :=
  (upFrom 0 64).foldl (fun v i => if mask.getLsbD i then vecPut v i (vecByte new i) else v) old
/-- A mask of n bytes from byte i. -/
def byteMask (i n : Nat) : BitVec 64 := (BitVec.ofNat 64 (2 ^ n - 1)) <<< i

/-! ## HBM and host memory -/

/-- Where the bytes of an HBM address lie after retirement of pages (R57, R60). -/
def physAddr (s : State) (a : Nat) : Nat :=
  match SMap.find (a / 4096) s.remap with
  | some p => p * 4096 + a % 4096
  | none => a

/-- n bytes of HBM. -/
def hbmBytes (s : State) (a n : Nat) : List Byte := (upFrom a n).map fun x => Memory.read s.hbm (physAddr s x)

/-- Is a granule of the range poisoned (R59)? -/
def hbmPoisoned (s : State) (a n : Nat) : Bool :=
  (upFrom 0 n).any fun i => s.poison.contains (physAddr s (a + i) / 64)

/-- The migration entries with the sub-block of address a marked dirty (R60). -/
def markMigration (a : Nat) (ms : List Migration) : List Migration :=
  ms.map fun m => if m.source == a / 4096 then
    { m with dirty := m.dirty ||| (BitVec.ofNat 16 (2 ^ (a % 4096 / 256))) } else m

/-- A write of bytes to HBM. A 64-byte store of a whole granule clears its poison (R59). -/
def hbmWrite (s : State) (a : Nat) (bs : List Byte) : State :=
  let put (t : State) (p : Nat × Byte) : State :=
    { t with hbm := Memory.write t.hbm (physAddr s p.1) p.2, migrations := markMigration p.1 t.migrations }
  let t := ((upFrom a bs.length).zip bs).foldl put s
  if bs.length == 64 && a % 64 == 0 then { t with poison := t.poison.filter (· != physAddr s a / 64) } else t

/-! ### The last-level cache (R56, R59) -/

/-- The slice of a line: its pseudo-channel. -/
def sliceOf256 (line : Nat) : Nat := pseudoChannel (256 * line)

/-- The lines that a slice holds. -/
def sliceLines (s : State) (q : Nat) : List Nat := (s.llc.filter fun x => sliceOf256 x.1 == q).map (·.1)

/-- Room for a line in its slice of 32,768: a line that it does not hold yet takes the place of one that is written back,
which one being a free choice (R56; log 62). -/
def llcRoom (s : State) (line : Nat) : State :=
  let ls := sliceLines s (sliceOf256 line)
  if (SMap.find line s.llc).isSome || decide (ls.length < 32768) then s
  else
    match ls[Config.freeChoice s.fresh % ls.length]? with
    | some v => { s with llc := SMap.erase v s.llc, fresh := s.fresh + 1 }
    | none => s

/-- A line read through its slice: it is there, clean unless it was dirty. -/
def llcTouch (s : State) (a : Nat) : State :=
  let t := llcRoom s (a / 256)
  match SMap.find (a / 256) t.llc with
  | some _ => t
  | none => { t with llc := SMap.set (a / 256) none t.llc }

/-- A write that leaves its last-level cache line dirty under a placement tag (R59). -/
def hbmStore (s : State) (a : Nat) (bs : List Byte) (tag : BitVec 16) : State :=
  let t := llcRoom (hbmWrite s a bs) (a / 256)
  { t with llc := SMap.set (a / 256) (some tag) t.llc }

/-- n bytes of host memory. -/
def hostBytes (s : State) (a n : Nat) : List Byte := Memory.bytes s.hostMem a n
/-- A word of host memory. -/
def hostWord (s : State) (a : Nat) : Word := Memory.word s.hostMem a
/-- A write to host memory through PCIe. -/
def hostWrite (s : State) (a : Nat) (bs : List Byte) : State := { s with hostMem := Memory.writeBytes s.hostMem a bs }
/-- A word written to host memory. -/
def hostPut (s : State) (a : Nat) (w : Word) : State := hostWrite s a (leBytes w.toNat 8)

/-- n bytes of an extent from an offset. -/
def extentBytes (s : State) (e : Extent) (off n : Nat) : List Byte :=
  if e.host then hostBytes s (e.base + off) n else hbmBytes s (e.base + off) n
/-- A write to an extent. -/
def extentWrite (s : State) (e : Extent) (off : Nat) (bs : List Byte) (tag : BitVec 16) : State :=
  if e.host then hostWrite s (e.base + off) bs else hbmStore s (e.base + off) bs tag
/-- The poison of an extent's granule cleared: a single store has written all of it (R59). -/
def extentClean (s : State) (e : Extent) (off : Nat) : State :=
  if e.host then s else { s with poison := s.poison.filter (· != physAddr s (e.base + off) / 64) }
/-- A read of an extent through its slice (R56): host pages are not held there. -/
def extentTouch (s : State) (e : Extent) (off : Nat) : State := if e.host then s else llcTouch s (e.base + off)
/-- Does the range of an extent hold poison? -/
def extentPoisoned (s : State) (e : Extent) (off n : Nat) : Bool := !e.host && hbmPoisoned s (e.base + off) n

/-- Entry k of a launch's extent table, if it is loaded: in use, not empty, with some right (R146). -/
def Launch.extent (l : Launch) (k : Nat) : Option Extent :=
  match l.extents[k]? with
  | some e => if decide (k < l.cap.next) && e.len != 0 && e.rights != 0 then some e else none
  | none => none

/-! ## Pointers -/

/-- The space code of a pointer (R42). -/
def spaceOf (p : Word) : Nat := p.toNat / 2 ^ 60
/-- The core or destination index of a pointer. -/
def indexOf (p : Word) : Nat := p.toNat / 2 ^ 40 % 2 ^ 20
/-- The 18-bit offset of a scratchpad pointer. -/
def offOf (p : Word) : Nat := p.toNat % 2 ^ 18
/-- The extent number of a pointer. -/
def extOf (p : Word) : Nat := p.toNat / 2 ^ 54 % 64
/-- The 48-bit offset of a space 0x4 pointer. -/
def extOff (p : Word) : Nat := p.toNat % 2 ^ 48
/-- The home of a scratchpad pointer that hart h dereferences. -/
def homeOf (h : Nat) (p : Word) : Nat := if spaceOf p = 0 then h else indexOf p
/-- The space 0x5 pointer of a scratchpad granule of a home (R42). -/
def linePtr (home off : Nat) : Word := BitVec.ofNat 64 (5 * 2 ^ 60 + home * 2 ^ 40 + off / 64 * 64)
/-- The space 0x5 pointer of an extent granule. -/
def extLinePtr (k off : Nat) : Word := BitVec.ofNat 64 (5 * 2 ^ 60 + k * 2 ^ 54 + 2 ^ 39 + off / 64 * 64)
/-- The pointer of the granule that a space 0x5 pointer lies in. -/
def granulePtr (p : Word) : Word := p &&& ~~~(0x3f : Word)

/-- The declared line of a unit at a granule pointer. -/
def OrUnit.line (u : OrUnit) (p : Word) : Option OrLine := u.lines.find? fun l => l.ptr == p
/-- The unit with a line changed. -/
def OrUnit.putLine (u : OrUnit) (l : OrLine) : OrUnit :=
  { u with lines := u.lines.map fun m => if m.ptr == l.ptr then l else m }

/-! ## The scratchpad at its home -/

/-- Is the word that holds an offset empty (R46)? -/
def Ctx.isEmpty (c : Ctx) (off : Nat) : Bool := c.empties.contains (off / 8 * 8)
/-- The context with the word at an offset full, or empty. -/
def Ctx.fill (c : Ctx) (off : Nat) : Ctx := { c with empties := c.empties.filter (· != off / 8 * 8) }
def Ctx.drainWord (c : Ctx) (off : Nat) : Ctx := { c with empties := off / 8 * 8 :: (c.fill off).empties }

/-- n bytes read at a home: BASE of a declared line, else the scratchpad (R77, R244). -/
def Ctx.read (c : Ctx) (home off n : Nat) : List Byte :=
  match c.unit.line (linePtr home off) with
  | some l => (upFrom (off % 64) n).map (vecByte l.base)
  | none => Memory.bytes c.scratch off n

/-- The DETAIL with which a write of n bytes is refused at its home: an empty future or a declared line (R244). -/
def Ctx.writeRefused (c : Ctx) (home off n : Nat) : Option (BitVec 12) :=
  if (upFrom off n).any (fun o => c.isEmpty o) then some 0x020
  else if (c.unit.line (linePtr home off)).isSome then some 0x012
  else none

/-- The context with bytes written. -/
def Ctx.write (c : Ctx) (off : Nat) (bs : List Byte) : Ctx := { c with scratch := Memory.writeBytes c.scratch off bs }

/-! ## Atomic operations (R78, R247) -/

/-- Element bytes of an amo class. -/
def amoSize : AmoOp → Nat
  | .add | .and | .or | .xor | .max | .min | .maxu | .minu => 8
  | .amaxb => 2
  | _ => 4

/-- The signed value of a w-bit pattern. -/
def signedOf (w v : Nat) : Int := if v % 2 ^ w < 2 ^ (w - 1) then (v % 2 ^ w : Nat) else (v % 2 ^ w : Nat) - (2 ^ w : Nat)
/-- The w-bit pattern of an integer. -/
def patOf (w : Nat) (v : Int) : Nat := (v % (2 ^ w : Nat)).toNat

/-- The operation of an amo on element e with operand t (R78, R247). -/
def amoApply (op : AmoOp) (e t : Nat) : Nat :=
  let w := 8 * amoSize op
  let a := e % 2 ^ w
  let b := t % 2 ^ w
  let lt := decide (signedOf w a < signedOf w b)
  match op with
  | .add | .addw => (a + b) % 2 ^ w
  | .and | .andw => Nat.land a b
  | .or | .orw => Nat.lor a b
  | .xor | .xorw => Nat.xor a b
  | .max | .maxw => if lt then b else a
  | .min | .minw => if lt then a else b
  | .maxu | .maxuw => if a < b then b else a
  | .minu | .minuw => if a < b then a else b
  | .amax | .amaxb =>
    let c := b % 2 ^ (w - 1)
    if a < c then c else a

/-- The identity element of a class (R53). -/
def amoIdentity (op : AmoOp) : Nat :=
  let w := 8 * amoSize op
  match op with
  | .and | .andw | .minu | .minuw => 2 ^ w - 1
  | .max | .maxw => 2 ^ (w - 1)
  | .min | .minw => 2 ^ (w - 1) - 1
  | _ => 0

/-- The value that an amo with return gives D (R247). -/
def amoReturn (op : AmoOp) (old : Nat) : Word :=
  match op with
  | .addw | .andw | .orw | .xorw | .maxw | .minw => (BitVec.ofNat 32 old).signExtend 64
  | _ => BitVec.ofNat 64 old

/-! ## L1, L2 and U copies (R52 to R55) -/

/-- An invalid L1 line. -/
def L1Line.reset : L1Line :=
  { shared := none, stores := [], since := 0, ucls := none, udata := 0, umask := 0, uclosed := 0, umaskClosed := 0 }

/-- The line's bytes that a coalesced store covers. -/
def PendStore.mask (p : PendStore) : BitVec 64 := byteMask (offOf p.ptr % 64) p.bytes.length

/-- The dirty-byte mask of a line, its coalesced bytes, and the numbers of its stores (R52, R54). -/
def L1Line.dirty (l : L1Line) : BitVec 64 := l.stores.foldl (fun m p => m ||| p.mask) 0
/-- Stores applied over a line's bytes, oldest first. -/
def overStores (v : Vec) (ps : List PendStore) : Vec := ps.foldl (fun v p => vecPutBytes v (offOf p.ptr % 64) p.bytes) v
def L1Line.ddata (l : L1Line) : Vec := overStores 0 l.stores
def L1Line.ids (l : L1Line) : List Nat := l.stores.map (·.id)

/-- The key of a line of mesh space, by home and offset. -/
def lineKey (home off : Nat) : Nat := home * 4096 + off / 64
def keyHome (k : Nat) : Nat := k / 4096
def keyOff (k : Nat) : Nat := k % 4096 * 64
/-- The key of its L2 line of 256 bytes, and its sector there. -/
def l2Key (k : Nat) : Nat := k / 4
def l2Sector (k : Nat) : Fin 4 := Fin.ofNat 4 k

/-- The set indexes of R52. -/
def l1Set (k : Nat) : Nat := Nat.xor (keyOff k / 64 % 1024) (keyHome k % 1024)
def l2Set (k2 : Nat) : Nat := Nat.xor (k2 % 1024 % 512) (k2 / 1024 % 512)

/-- A line of a core's L1. -/
def Hart.line (H : Hart) (k : Nat) : L1Line := SMap.getD H.l1 k L1Line.reset
/-- The core with an L1 line changed; an invalid line leaves the map. -/
def Hart.putLine (H : Hart) (k : Nat) (l : L1Line) : Hart :=
  { H with l1 := if l = L1Line.reset then SMap.erase k H.l1 else SMap.set k l H.l1 }

/-- An empty L2 line. -/
def L2Line.reset : L2Line := { sectors := Vector.replicate 4 none }
/-- The S copy of a 64-byte line that a cluster's L2 holds. -/
def Cluster.sector (C : Cluster) (k : Nat) : Option Vec := (SMap.find (l2Key k) C.l2).bind fun l => l.sectors[l2Sector k]
/-- The cluster with a sector changed in an L2 line that it holds. -/
def Cluster.putSector (C : Cluster) (k : Nat) (v : Option Vec) : Cluster :=
  match SMap.find (l2Key k) C.l2 with
  | some l => { C with l2 := SMap.set (l2Key k) { l with sectors := l.sectors.set (l2Sector k) v } C.l2 }
  | none => C

/-- Every S copy of a line invalidated (R53), in L1 and L2. -/
def invalidate (s : State) (home off : Nat) : State :=
  let k := lineKey home off
  { s with
    harts := s.harts.map fun p => (p.1, p.2.putLine k { p.2.line k with shared := none })
    clusters := s.clusters.map fun p => (p.1, p.2.putSector k none) }

/-- The elements of a U copy that an update has reached, as byte offsets in the line. -/
def touched (mask : BitVec 64) (n : Nat) : List Nat :=
  ((upFrom 0 (64 / n)).map (· * n)).filter fun i => mask.getLsbD i

/-- An element of the home's scratchpad changed. -/
def Ctx.putElem (c : Ctx) (off n x : Nat) : Ctx := { c with scratch := Memory.writeN c.scratch off n x }

/-- The key of an OPEN amax partial. -/
def openKey (op : AmoOp) (off : Nat) : Nat := if op = .amaxb then 2 * off + 1 else 2 * off

/-- Does the core at a home lead a pair of launch L, so that its follower takes the same changes (R198)? Leaders stand at even x. -/
def mirrored (s : State) (L home : Nat) : Bool := isCompute home && home % 2 == 0 && (launchOf s L).any (fun l => l.cap.paired)

/-- Every S copy of a line of launch L invalidated, and of the follower's line (R53, R198). -/
def invalidateHome (s : State) (L home off : Nat) : State :=
  if mirrored s L home then invalidate (invalidate s home off) (home + 1) off else invalidate s home off

/-- The context of launch L at a home changed; under paired execution the follower's scratchpad takes the same change (R198). -/
def modHome (s : State) (L home : Nat) (f : Ctx → Ctx) : State :=
  let t := putCtx s home (f (ctxOf s home L))
  if mirrored s L home then putCtx t (home + 1) (f (ctxOf t (home + 1) L)) else t

/-- The context with the elements of a U copy combined into the home (R53, R78). -/
def combineU (c : Ctx) (off : Nat) (l : L1Line) : Ctx :=
  match l.ucls with
  | none => c
  | some op =>
    let n := amoSize op
    let base := off / 64 * 64
    if op = .amax || op = .amaxb then
      let c1 := (touched l.umask n).foldl (fun d i =>
        { d with amaxOpen := SMap.modify d.amaxOpen (openKey op (base + i)) 0 fun x =>
            BitVec.ofNat 64 (amoApply op x.toNat (vecElem l.udata i n)) }) c
      (touched l.umaskClosed n).foldl (fun d i =>
        d.putElem (base + i) n (amoApply op (Memory.readN d.scratch (base + i) n) (vecElem l.uclosed i n))) c1
    else (touched l.umask n).foldl (fun d i =>
        d.putElem (base + i) n (amoApply op (Memory.readN d.scratch (base + i) n) (vecElem l.udata i n))) c

/-- The line without its U copy. -/
def L1Line.dropU (l : L1Line) : L1Line :=
  { l with ucls := none, udata := 0, umask := 0, uclosed := 0, umaskClosed := 0 }

/-- The U copies of a line of launch L whose class is chosen recalled and combined at its home, in ascending sender index
(R53). -/
def recallWhere (chosen : AmoOp → Bool) (s : State) (L home off : Nat) : State :=
  let k := lineKey home off
  let ls := s.harts.filterMap fun p =>
    let l := p.2.line k
    if l.ucls.any chosen && p.2.hasCtx L then some l else none
  if ls.isEmpty then s
  else
    let drop (p : Nat × Hart) : Nat × Hart :=
      if (p.2.line k).ucls.any chosen && p.2.hasCtx L then (p.1, p.2.putLine k (p.2.line k).dropU) else p
    modHome { s with harts := s.harts.map drop } L home fun c => ls.foldl (fun c l => combineU c off l) c

/-- Every U copy of a line of launch L recalled and combined at its home (R53). -/
def recallU (s : State) (L home off : Nat) : State := recallWhere (fun _ => true) s L home off

/-- Every U copy of launch L recalled and combined at its home (R53). -/
def recallAll (s : State) (L : Nat) : State :=
  let keys := (s.harts.filter fun p => p.2.hasCtx L).flatMap fun p => (p.2.l1.filter fun x => x.2.ucls.isSome).map (·.1)
  keys.foldl (fun t k => recallU t L (keyHome k) (keyOff k)) s

end Sys2Proof.Machine
end

