-- ==== Sys2Proof/Machine/Repair.lean ====
section
/-! DEFINITION. Order-repair lines: the step of each class, the value over a history, insertion and settling
(spec/04 R64 to R72). -/

namespace Sys2Proof.Machine

/-- Element bytes of a class (R64). -/
def orcSize : OrcClass → Nat
  | .fp32 | .fma => 4
  | .fp16 | .bf16 => 2
  | _ => 8

/-- Does a class reply a prior value (R64)? -/
def orcReplies : OrcClass → Bool
  | .swap | .cas => true
  | _ => false

/-- The class code of a header (R64, R66). -/
def orcCode : OrcClass → Nat
  | .fp32 => 0 | .fp16 => 1 | .bf16 => 2 | .swap => 3 | .sbs => 4 | .cas => 5 | .fma => 6

/-- The class of a code; code 7 is reserved. -/
def orcOfCode (c : Nat) : Option OrcClass :=
  match c with
  | 0 => some .fp32 | 1 => some .fp16 | 2 => some .bf16 | 3 => some .swap | 4 => some .sbs | 5 => some .cas
  | 6 => some .fma | _ => none

/-- One operation on one element: OPND[127:64] is x and OPND[63:0] is y (R64, R66). -/
def orcStep (cls : OrcClass) (e : Nat) (x y : Word) : Nat :=
  match cls with
  | .fp32 => (roundSum specFp32 0 false [decodeIeee specFp32 e, decodeIeee specFp32 (x.toNat % 2 ^ 32)]).1
  | .fp16 => (roundSum specFp16 0 false [decodeIeee specFp16 e, decodeIeee specFp16 (x.toNat % 2 ^ 16)]).1
  | .bf16 => (roundSum specBf16 0 false [decodeIeee specBf16 e, decodeIeee specBf16 (x.toNat % 2 ^ 16)]).1
  | .swap => x.toNat
  | .sbs => leValue ((upFrom 0 8).map fun j => if y.getLsbD j then x.extractLsb' (8 * j) 8 else BitVec.ofNat 8 (e / 2 ^ (8 * j)))
  | .cas => if e = x.toNat then y.toNat else e
  | .fma => (fmaFp .fp32 0 (readFp .fp32 x.toNat) (readFp .fp32 y.toNat) (readFp .fp32 e)).1

/-- Element k of BASE. -/
def OrLine.elem (l : OrLine) (k : Nat) : Nat := vecElem l.base (k * orcSize l.cls) (orcSize l.cls)
/-- The line with element k of BASE at x. -/
def OrLine.putElem (l : OrLine) (k x : Nat) : OrLine :=
  { l with base := vecPutElem l.base (k * orcSize l.cls) (orcSize l.cls) x }

/-- The fold of R68 over the entries of element k that stand at or below the bound. -/
def foldHist (cls : OrcClass) (k : Nat) (bound : Option (BitVec 48)) : List HistEntry → Nat → Nat
  | [], x => x
  | e :: es, x =>
    if e.elem = k then
      if bound.all (fun b => stampLE e.stamp b) then foldHist cls k bound es (orcStep cls x e.x e.y) else x
    else foldHist cls k bound es x

/-- Value(L, k, b) of R68; none bounds nothing. -/
def OrLine.value (l : OrLine) (k : Nat) (bound : Option (BitVec 48)) : Nat := foldHist l.cls k bound l.hist (l.elem k)

/-- An entry inserted in ascending STAMP (R67). -/
def insertHist (e : HistEntry) : List HistEntry → List HistEntry
  | [] => [e]
  | f :: fs => if stampBefore e.stamp f.stamp then e :: f :: fs else f :: insertHist e fs

/-- The line with an entry inserted in ascending STAMP (R67). -/
def OrLine.insert (l : OrLine) (e : HistEntry) : OrLine := { l with hist := insertHist e l.hist }

/-- Settle(L, w) of R72: the line, and the entries that asked for the prior value with that value. -/
def settleHist (w : BitVec 48) (l : OrLine) : List HistEntry → OrLine × List (HistEntry × Nat)
  | [] => ({ l with hist := [] }, [])
  | e :: es =>
    if stampLE e.stamp w then
      let prior := l.elem e.elem
      let r := settleHist w (l.putElem e.elem (orcStep l.cls prior e.x e.y)) es
      (r.1, if e.rq then (e, prior) :: r.2 else r.2)
    else ({ l with hist := e :: es }, [])

/-- Settle(L, w) on a line. -/
def OrLine.settle (l : OrLine) (w : BitVec 48) : OrLine × List (HistEntry × Nat) := settleHist w l l.hist

/-- Every line of a unit settled to w (R72); the watermark itself is set by the caller. -/
def OrUnit.settle (u : OrUnit) (w : BitVec 48) : OrUnit × List (HistEntry × Nat) :=
  let rs := u.lines.map fun l => l.settle w
  ({ u with lines := rs.map (·.1) }, rs.flatMap (·.2))

/-- A line settled to the last stamp of its history, as at completion (R79). -/
def OrLine.settleAll (l : OrLine) : OrLine :=
  match l.hist.getLast? with
  | some e => (l.settle e.stamp).1
  | none => l

/-- A unit that has no line of its plat's list advances with every ply close (R39, R74). -/
def OrUnit.counted (u : OrUnit) (ply : BitVec 16) : Nat :=
  match u.counts.find? (fun c => c.ply == ply) with
  | some c => c.accepted
  | none => 0

/-- The unit with one more append of a ply accepted (R74). -/
def OrUnit.countAppend (u : OrUnit) (ply : BitVec 16) : OrUnit :=
  if u.counts.any (fun c => c.ply == ply) then
    { u with counts := u.counts.map fun c => if c.ply == ply then { c with accepted := c.accepted + 1 } else c }
  else { u with counts := u.counts ++ [⟨ply, none, 1⟩] }

/-- The unit with the total of a ply delivered (R74). -/
def OrUnit.putTotal (u : OrUnit) (ply : BitVec 16) (total : Nat) : OrUnit :=
  if u.counts.any (fun c => c.ply == ply) then
    { u with counts := u.counts.map fun c => if c.ply == ply then { c with total := some total } else c }
  else { u with counts := u.counts ++ [⟨ply, some total, 0⟩] }

end Sys2Proof.Machine
end

