-- ==== Sys2Proof/Machine/Ordering.lean ====
section
/-! DEFINITION. The ordering rules by scope: the five matrices, how a narrower operation is read in a wider scope, which
earlier operations a later one waits for, and the guards of locations that only some observers may not yet see (spec/05 R83
to R92, R97; log 63). -/

namespace Sys2Proof.Machine

/-! ## Scopes (R84, R97) -/

/-- The scopes from narrow to wide. -/
def scopeRank : Scope → Nat
  | .core => 0 | .cluster => 1 | .plat => 2 | .module => 3 | .system => 4

/-- Do two cores lie in one cluster? A channel or gateway core stands alone. -/
def sameCluster (a b : Nat) : Bool := a == b || (isCompute a && isCompute b && clusterOfCore a == clusterOfCore b)

/-- Is core g an observer in a scope of core h of launch L (R84)? -/
def observes (s : State) (h L : Nat) (sc : Scope) (g : Nat) : Bool :=
  match sc with
  | .core => h == g
  | .cluster => sameCluster h g
  | .plat => h == g || inPlat s L g
  | _ => true

/-- Does a scope of core h contain both h and a home? -/
def containsHome (s : State) (h L : Nat) (home : Nat) (sc : Scope) : Bool :=
  observes s h L sc home && (sc != .plat || isCompute h || home == h)

/-- The scope that a narrow one is pinned to: the narrowest that contains the issuer and the home (R97). -/
def pinned (s : State) (h L : Nat) (sc : Scope) (home : Nat) : Scope :=
  let fits (t : Scope) : Bool := decide (scopeRank sc ≤ scopeRank t) && containsHome s h L home t
  ([.core, .cluster, .plat, .module] : List Scope).find? fits |>.getD sc

/-! ## The matrices (R87 to R91) -/

/-- A cell of a matrix: kept not, at the same location, at the same location and always when both are sc (note q), at core
scope where neither access is in space 0x2 (note c), or always. Notes d and o need nothing of their own: a dependent operation
is issued after the value has arrived (R86), and an append's effect is fixed by its stamp. -/
inductive Keep where
  | no | same | sameOrSc | core | always
deriving DecidableEq, Repr

/-- The plat matrix (R89); two Sends stand at one location only where note m keeps them. -/
def platCell (e l : OpKind) : Keep :=
  match e with
  | .ldA | .fence | .plyEnd => .always
  | .ld | .amo | .st =>
    match l with
    | .ld | .st | .ldA | .amo => .same
    | .oApp | .oLdT | .oLdS => .no
    | _ => .always
  | .stR =>
    match l with
    | .ld | .st | .amo => .same
    | .ldA => .sameOrSc
    | .oApp | .oLdT | .oLdS => .no
    | _ => .always
  | .oApp =>
    match l with
    | .oLdT => .same
    | .oLdS | .stR | .send | .kick | .fence | .plyEnd => .always
    | _ => .no
  | .oLdT =>
    match l with
    | .oApp | .oLdT => .same
    | .stR | .send | .kick | .fence | .plyEnd => .always
    | _ => .no
  | .oLdS =>
    match l with
    | .oApp | .oLdT | .oLdS => .same
    | .stR | .send | .kick | .fence | .plyEnd => .always
    | _ => .no
  | .send =>
    match l with
    | .send => .same
    | .stR | .kick | .fence | .plyEnd => .always
    | _ => .no
  | .kick =>
    match l with
    | .stR | .send | .kick | .fence | .plyEnd => .always
    | _ => .no

/-- Is a kind one of the plain accesses whose cells core scope strengthens (R87)? -/
def plainAccess : OpKind → Bool
  | .ld | .st | .stR | .amo => true
  | _ => false

/-- The core matrix (R87). -/
def coreCell (e l : OpKind) : Keep :=
  if plainAccess e && (l == .ld || l == .st || l == .ldA || l == .amo) then .core else platCell e l

/-- The module matrix (R90). The cells with note p, where a ply end is read as no operation, keep nothing. -/
def moduleCell (e l : OpKind) : Keep :=
  if l = .plyEnd ∧ e ≠ .ldA ∧ e ≠ .fence then .no
  else if e = .plyEnd ∧ !(l == .stR || l == .send || l == .kick || l == .fence) then .no
  else platCell e l

/-- The system matrix (R91): Send and Kick are releases at module scope only. -/
def systemCell (e l : OpKind) : Keep :=
  if (l = .send ∨ l = .kick) ∧ e ≠ .ldA ∧ e ≠ .fence ∧ !(e == .send && l == .send) then .no else moduleCell e l

/-- The cell of the matrix of a scope. -/
def cell : Scope → OpKind → OpKind → Keep
  | .core => coreCell
  | .cluster => platCell
  | .plat => platCell
  | .module => moduleCell
  | .system => systemCell

/-- An operation about to be issued, as the matrices read it. -/
structure OpDesc where
  kinds : List OpKind
  scope : Scope
  sc : Bool
  loc : Loc
  space2 : Bool
deriving DecidableEq, Repr

/-- The kind that the matrix of a scope reads an operation of a given scope as (R85). A ply end is read as no operation in the
cells with note p alone. -/
def kindAt (s : Scope) (own : Scope) (k : OpKind) : Option OpKind :=
  if scopeRank s ≤ scopeRank own then some k
  else
    match k with
    | .ldA => some .ld
    | .stR | .kick | .send => some .st
    | .fence => none
    | k => some k

/-- Do two operations reach the same location (R85)? -/
def sameLoc (a b : Loc) : Bool := a.home == b.home && overlaps a.lo a.len b.lo b.len

/-- Does a cell keep a pair? A same location is always kept: its bytes have one order for every observer (R82). -/
def cellKeeps (c : Keep) (e : OutOp) (d : OpDesc) (a b : OpKind) : Bool :=
  match c with
  | .no => false
  | .same => sameLoc e.loc d.loc
  | .sameOrSc => sameLoc e.loc d.loc || (e.sc && d.sc)
  | .core => (!e.space2 && !d.space2) || (platCell a b == .same && sameLoc e.loc d.loc) ||
      (platCell a b == .sameOrSc && (sameLoc e.loc d.loc || (e.sc && d.sc)))
  | .always => true

/-- Is the pair of an earlier and a later operation of one slot kept for the observers of a scope (R85)? -/
def keptAt (s : Scope) (e : OutOp) (d : OpDesc) : Bool :=
  e.kinds.any fun a => d.kinds.any fun b =>
    match kindAt s e.scope a, kindAt s d.scope b with
    | some x, some y => cellKeeps (cell s x y) e d x y
    | _, _ => false

/-- The widest scope of the module for whose observers a pair is kept, if any (log 63). -/
def keepLevel (e : OutOp) (d : OpDesc) : Option Scope :=
  ([.module, .plat, .cluster, .core] : List Scope).find? fun s => keptAt s e d

/-- Is the pair kept for every observer? -/
def keepsPair (e : OutOp) (d : OpDesc) : Bool := keepLevel e d == some .module

/-- An issued operation as the matrices read it. -/
def OutOp.desc (o : OutOp) : OpDesc := ⟨o.kinds, o.scope, o.sc, o.loc, o.space2⟩

/-- The earlier operations of a slot's activation among those of its core. -/
def earlierOf (H : Hart) (slot act : Nat) : List OutOp := H.out.filter fun o => o.slot == slot && o.act == act

/-- The operations kept before one for every observer, and those kept for a narrower scope alone. -/
def hardOf (os : List OutOp) (d : OpDesc) : List Nat := (os.filter fun o => keepsPair o d).map (·.id)
def softOf (os : List OutOp) (d : OpDesc) : List (Scope × Nat) :=
  os.filterMap fun o =>
    match keepLevel o d with
    | some .module => none
    | some sc => some (sc, o.id)
    | none => none

/-! ## Coalesced bytes -/

/-- The numbers of the plain stores of core h that stand in its L1 or on their way from it (R61). -/
def coalesced (s : State) (h : Nat) : List Nat :=
  ((hartOf s h).l1.flatMap fun x => x.2.ids) ++ s.net.flatMap fun it =>
    if it.src.hart == h then
      match it.op with
      | .flush _ _ ps => ps.map (·.id)
      | _ => []
    else []

/-! ## What a home accepts (R44, R98, R243, R244) -/

/-- Is a core assigned to launch L: does it hold the launch's context (R44)? -/
def owned (s : State) (L home : Nat) : Bool := (hartOf s home).hasCtx L

/-- What a home refuses late: a ring or, for a write, a future-link region (R243 order 7). -/
def regionRefused (s : State) (L home off n : Nat) (store : Bool) : Bool :=
  match launchOf s L with
  | some l => touchesRing l.cap home off n || (store && touchesKind l.cap home 5 off n)
  | none => false

/-- The fault with which a home refuses a write of n bytes, if it does (R243, R244). -/
def homeRefuses (s : State) (L home off n : Nat) (p : Word) : Option FaultInfo :=
  if regionRefused s L home off n true then some ⟨codeBounds, 0x0b3, p⟩
  else ((ctxOf s home L).writeRefused home off n).map fun d => ⟨codeQueueMisuse, d, p⟩

/-- Where extents stand among the homes of locations, and engine registers. -/
def extHome (k : Nat) : Nat := 2 ^ 20 + k
def regHome (h : Nat) : Nat := 2 ^ 21 + h

/-- Does an operation write? -/
def OutOp.writes (o : OutOp) : Bool := o.kinds.any fun k => k == .st || k == .stR || k == .amo

/-- Would the home of a load, a store or an atomic of launch L on core h accept it now? Of an extent it is the channel core's own
checker. Other operations, and those that a message engine keeps until an answer, are accepted when they are performed. -/
def accepts (s : State) (h L : Nat) (o : OutOp) : Bool :=
  o.sure || ((o.kinds.all fun k => plainAccess k || k == .ldA) && !((hartOf s h).copies.any fun c => c.item.id == o.id) &&
    (if o.loc.home < 2 ^ 20 then
      owned s L o.loc.home && (if o.writes then (homeRefuses s L o.loc.home o.loc.lo o.loc.len 0).isNone
        else !regionRefused s L o.loc.home o.loc.lo o.loc.len false)
    else decide (o.loc.home < 2 ^ 21) &&
      (!o.writes || ((ctxOf s h L).unit.line (extLinePtr (o.loc.home - 2 ^ 20) o.loc.lo)).isNone)))

/-- Of a slot's operations, the newest first, those that some scope keeps before one of the given, or before one of those. -/
def keptBefore : List OutOp → List OpDesc → List OutOp
  | [], _ => []
  | o :: os, ds => if ds.any fun d => (keepLevel o d).isSome then o :: keptBefore os (o.desc :: ds) else keptBefore os ds

/-- The operations of core h with the given numbers accepted: their homes refuse them no more (R98). -/
def makeSure (s : State) (h : Nat) (ids : List Nat) : State :=
  if ids.isEmpty then s
  else
    let H := hartOf s h
    putHart s h { H with out := H.out.map fun o => if ids.contains o.id then { o with sure := true } else o }

/-- Has the home accepted an operation of core h? -/
def isSure (s : State) (h id : Nat) : Bool := (hartOf s h).out.any fun o => o.id == id && o.sure

/-- Does an accepted operation of launch L that is not yet performed reach bytes of a home? A clear of a future and a declaration
there wait for it, so that it is never refused (log 63). -/
def sureAt (s : State) (L : Nat) (loc : Loc) : Bool :=
  s.harts.any fun p => p.2.out.any fun o => o.sure && o.writes && sameLoc o.loc loc && (p.2.slot o.slot).ctx == L

/-! ## Guards (R85; log 63) -/

/-- Is an operation of core h still to be performed? -/
def standing (s : State) (h id : Nat) : Bool := (hartOf s h).out.any fun o => o.id == id

/-- Does a guard still hold? -/
def Guard.live (s : State) (g : Guard) : Bool := g.ids.any (standing s g.src.hart)

/-- Must an access of an issuer, numbered id, to a location wait for a guard? -/
def guarded (s : State) (src : Issuer) (id : Nat) (loc : Loc) : Bool :=
  s.guards.any fun g =>
    sameLoc g.loc loc && decide (g.after ≤ id) && g.live s && observes s g.src.hart g.src.launch g.scope src.hart &&
    !(g.src.hart == src.hart && g.src.slot == src.slot && g.src.act == src.act)

/-- Is an operation that only the observers of a scope see before another still to be performed for them? The slots of a core
see its coalesced bytes (R61). -/
def softStands (s : State) (h : Nat) (x : Scope × Nat) : Bool :=
  standing s h x.2 && !(x.1 == .core && (coalesced s h).contains x.2)

/-- May an operation be performed before earlier ones that a narrower scope keeps before it? Not where an operation of its core
is itself held up by a guard, so that guards never wait for each other; and not before their homes accept those, since one that
ends in a fault leaves the later one never performed (R98). kept are the operations that any scope keeps before it. -/
def mayPass (s : State) (src : Issuer) (soft : List (Scope × Nat)) (kept : List OutOp) : Bool :=
  (soft.isEmpty || (hartOf s src.hart).out.all fun o => !guarded s { src with slot := o.slot, act := o.act } o.id o.loc) &&
  kept.all (accepts s src.hart src.launch)

/-- The guards that an operation performed before the given ones leaves at its location, one for each scope. -/
def guardsFor (src : Issuer) (loc : Loc) (soft : List (Scope × Nat)) : List Guard :=
  (soft.map (·.1)).eraseDups.map fun sc =>
    { src := src, scope := sc, loc := loc, ids := (soft.filter fun x => x.1 == sc).map (·.2), after := 0 }

/-- The state with guards added, and those that hold no longer taken away. -/
def addGuards (s : State) (gs : List Guard) : State :=
  if gs.isEmpty then s else { s with guards := s.guards.filter (·.live s) ++ gs }

end Sys2Proof.Machine
end

