-- ==== Sys2Proof/Machine/Scoreboard.lean ====
section
/-! DEFINITION. The scoreboard of a slot: settling an entry, and the operations of a core that are issued and not yet
performed (spec/02 R28, spec/05 R98, spec/18 R308). -/

namespace Sys2Proof.Machine

/-- Fill the reservation of a pending load in a queue (R103). -/
def fillReserved (id : Nat) (e : QEntry) : List LqEntry → List LqEntry
  | [] => []
  | .reserved j :: es => if j = id then .filled e :: es else .reserved j :: fillReserved id e es
  | .filled f :: es => .filled f :: fillReserved id e es

/-- A register file of sixteen with register n at w. -/
def setReg (r : Vector Word 16) (n : Fin 16) (w : Word) : Vector Word 16 := r.set n w

/-- The slot with the value of operation id delivered to a destination: a register, a reserved queue entry, or
nothing. -/
def Slot.deliver (σ : Slot) (id : Nat) (d : ADst) (w : Word) (e : QEntry) : Slot :=
  match d with
  | .a n => { σ with a := σ.a.set n w }
  | .sm n => { σ with sm := σ.sm.set n (smWord w) }
  | .lq k => { σ with lq := σ.lq.set k (fillReserved id e σ.lq[k]) }
  | .z => σ

/-- The slot with entry id settled by a value: w for a register, e for a queue, and a second value for T of orc.ldt. -/
def Slot.settle (σ : Slot) (id : Nat) (w : Word) (e : QEntry) (flag : Word) : Slot :=
  match σ.sb.find? (fun x => x.id == id) with
  | none => σ
  | some x =>
    let σ1 := match x.dst with
      | some d => σ.deliver id d w e
      | none => σ
    let σ2 := match x.dst2 with
      | some d => σ1.deliver id d flag ⟨flag.zeroExtend 512, 3⟩
      | none => σ1
    { σ2 with sb := σ2.sb.filter (fun y => y.id != id) }

/-- The queue entry of an 8-byte value (R104, R223). -/
def entryOf (w : Word) : QEntry := ⟨w.zeroExtend 512, 3⟩

/-- Does the slot still run the issuer's activation? -/
def runs (s : State) (src : Issuer) : Bool :=
  let σ := slotOf s src.hart src.slot
  σ.running && σ.act == src.act && σ.ctx == src.launch

/-- The fingerprint with a result taken in (R199). -/
def fprStep (f w : Word) : Word := f.rotateLeft 5 ^^^ w

/-- The XOR of the eight words of a 512-bit result (R199). -/
def foldVec (v : Vec) : Word := (upFrom 0 8).foldl (fun x i => x ^^^ v.extractLsb' (64 * i) 64) 0

/-- A result enters fpr of both cores of the pair of core h (R199). -/
def noteFpr (s : State) (h : Nat) (w : Word) : State :=
  let t := putHart s h { hartOf s h with fpr := fprStep (hartOf s h).fpr w }
  putHart t (h + 1) { hartOf t (h + 1) with fpr := fprStep (hartOf t (h + 1)).fpr w }

/-- What a destination takes as a result (R199): the value of a register, the XOR of the eight words of an entry pushed. -/
def dstResult (w : Word) (e : QEntry) : ADst → Word
  | .a _ => w
  | .sm _ => smWord w
  | .lq _ => foldVec e.data
  | .z => 0

/-- The result that an entry of a slot of a pair brings when it settles, if it brings one (R199). -/
def Slot.brings (σ : Slot) (id : Nat) (w : Word) (e : QEntry) (flag : Word) : Option Word :=
  if σ.paired then
    match σ.sb.find? fun x => x.id == id && (x.dst.any (· != .z) || x.dst2.any (· != .z)) with
    | some x => some ((x.dst.map (dstResult w e)).getD 0 ^^^ (x.dst2.map (dstResult flag ⟨flag.zeroExtend 512, 3⟩)).getD 0)
    | none => none
  else none

/-- What a pair keeps of a result: it enters the fingerprints, and the checkpoint of a word that was performed as it was taken (R199,
R201). -/
def notePair (s : State) (src : Issuer) (id : Nat) (w : Word) (e : QEntry) (flag : Word) : State :=
  let σ := slotOf s src.hart src.slot
  if σ.paired then
    let t := match σ.brings id w e flag with
      | some r => noteFpr s src.hart r
      | none => s
    let H := hartOf t src.hart
    putHart t src.hart
      { H with checkpoint := H.checkpoint.map fun c => ⟨modifySlot (fun τ => τ.settle id w e flag) src.slot c.slots⟩ }
  else s

/-- The issuer's scoreboard entry settled, if its activation still runs; else nothing (R108). -/
def settleSb (s : State) (src : Issuer) (id : Nat) (w : Word) (e : QEntry) (flag : Word) : State :=
  if runs s src then
    putSlot (notePair s src id w e flag) src.hart src.slot ((slotOf s src.hart src.slot).settle id w e flag)
  else s

/-- The scoreboard entry of an operation cleared. -/
def clearSb (s : State) (src : Issuer) (id : Nat) : State := settleSb s src id 0 ⟨0, 3⟩ 0

/-- The operation is performed: nothing waits for it any more. -/
def dropOut (s : State) (h id : Nat) : State :=
  let H := hartOf s h
  putHart s h { H with out := H.out.filter (fun o => o.id != id) }

/-- The operations are performed. -/
def dropOuts (s : State) (h : Nat) (ids : List Nat) : State :=
  let H := hartOf s h
  putHart s h { H with out := H.out.filter (fun o => !ids.contains o.id) }

/-- Have the earlier operations that are kept before an item for every observer been performed (R98)? -/
def ready (s : State) (it : NetItem) : Bool :=
  (hartOf s it.src.hart).out.all fun o => !it.prior.contains o.id

/-- The earlier operations that are kept before an item for a narrower scope alone and still stand. -/
def NetItem.softLeft (s : State) (it : NetItem) : List (Scope × Nat) := it.soft.filter (softStands s it.src.hart)

/-- The operations of a list that come before the first of the given numbers. -/
def beforeThese (ids : List Nat) : List OutOp → List OutOp
  | [] => []
  | o :: os => if ids.contains o.id then [] else o :: beforeThese ids os

/-- The operations of its slot that any scope keeps before an item, and that still stand. -/
def NetItem.keptLeft (s : State) (it : NetItem) : List OutOp :=
  let H := hartOf s it.src.hart
  match H.out.find? fun o => o.id == it.id with
  | some o => keptBefore (beforeThese [it.id] (earlierOf H o.slot o.act)).reverse [o.desc]
  | none => []

/-- The location of an operation of core h that stands. -/
def locOf (s : State) (h id : Nat) : Option Loc := ((hartOf s h).out.find? fun o => o.id == id).map (·.loc)

/-- May an item be performed now: its kept operations are performed, no guard holds its location, and it may pass what only a
narrower scope keeps before it (R85, R98; log 63)? -/
def mayPerform (s : State) (it : NetItem) : Bool :=
  ready s it && (locOf s it.src.hart it.id).all (fun l => !guarded s it.src it.id l) &&
  mayPass s it.src (it.softLeft s) (it.keptLeft s)

/-- The state with the guards that performing an item now leaves, what it passes being accepted. -/
def passing (s : State) (it : NetItem) : State :=
  match locOf s it.src.hart it.id with
  | some l => addGuards (makeSure s it.src.hart ((it.keptLeft s).map (·.id))) (guardsFor it.src l (it.softLeft s))
  | none => s

/-- Item k of the net where it may be performed now, with the state without it. -/
def performing (s : State) (k : Nat) : Option (NetItem × State) :=
  match s.net[k]? with
  | some it => if mayPerform s it then some (it, passing { s with net := removeAt k s.net } it) else none
  | none => none

/-! ## Operations that end in a fault (R98) -/

/-- The operations of the given numbers with every later one of the same activation that some scope keeps after one of them; the
list is in the order of issue, and bad holds what has been found. -/
def failedAfter (ids : List Nat) : List OutOp → List OutOp → List OutOp
  | [], bad => bad
  | o :: os, bad =>
    if ids.contains o.id || bad.any fun b => b.slot == o.slot && b.act == o.act && (keepLevel b o.desc).isSome then
      failedAfter ids os (bad ++ [o])
    else failedAfter ids os bad

/-- An item of the mesh without failed operations: gone, or a flush without the failed stores. -/
def withoutFailed (h : Nat) (ids : List Nat) (it : NetItem) : Option NetItem :=
  if it.src.hart != h then some it
  else
    match it.op with
    | .flush home line ps =>
      let qs := ps.filter fun p => !ids.contains p.id
      if qs.isEmpty then none else some { it with op := .flush home line qs }
    | _ => if ids.contains it.id then none else some it

/-- A core without failed operations: those that it holds back, keeps copies of or has coalesced are never performed. -/
def Hart.withoutFailed (H : Hart) (ids : List Nat) : Hart :=
  { H with
    out := H.out.filter fun o => !ids.contains o.id
    commit := H.commit.filter fun it => !ids.contains it.id
    copies := H.copies.filter fun c => !ids.contains c.item.id
    l1 := H.l1.map fun x => (x.1, { x.2 with stores := x.2.stores.filter fun p => !ids.contains p.id }) }

/-- A reservation of a queue that will not be filled is given up (R104, R250). -/
def Slot.unreserve (σ : Slot) (id : Nat) : Slot :=
  { σ with lq := σ.lq.map fun q => q.filter fun x => x != .reserved id }

/-- What the word has taken from queues and streams since a slot stood as before (R223). -/
def undoOf (before after : Slot) : Undo :=
  let diff {α : Type} (a b : List α) : List α := a.take (a.length - b.length)
  { sq0 := diff before.sq[0] after.sq[0], sq1 := diff before.sq[1] after.sq[1], cq := diff before.cq after.cq,
    sm := ([0, 1, 2, 3] : List (Fin 4)).filterMap fun n => if before.sm[n] = after.sm[n] then none else some (n, before.sm[n]) }

/-- The slot with what a word took put back, and waiting no longer (R223). -/
def Slot.putBack (σ : Slot) (u : Undo) : Slot :=
  { σ with
    sq := (σ.sq.set 0 (u.sq0 ++ σ.sq[0])).set 1 (u.sq1 ++ σ.sq[1])
    cq := u.cq ++ σ.cq
    sm := u.sm.foldl (fun v x => v.set x.1 x.2) σ.sm
    aWait := none }

/-- The slot with what a waiting word took put back (R223). -/
def Slot.undo (σ : Slot) : Slot :=
  match σ.aWait with
  | some (.answer _ u) => σ.putBack u
  | some (.waitWord _ _ _ u) => σ.putBack u
  | _ => σ

/-- The slot as before the append that waits for the answer to operation id: what it took comes back, and its entries go. -/
def Slot.undoFor (σ : Slot) (id : Nat) : Slot :=
  let τ := σ.undo
  let mine (e : SbEntry) : Bool := (e.item.map (·.id)) == some id
  let u := (τ.sb.filter mine).foldl (fun x e => x.unreserve e.id) τ
  { u with sb := τ.sb.filter fun e => !mine e }

/-- A slot some of whose operations are never performed: their entries are marked, and an append that waits for its answer
among them has performed nothing. -/
def Slot.failed (σ : Slot) (ids : List Nat) (later : List OutOp) : Slot :=
  let τ := match σ.aWait with
    | some (.answer id _) => if ids.contains id then σ.undoFor id else σ
    | _ => σ
  { τ with sb := τ.sb.map fun x => if later.any (fun o => o.id == x.id) then { x with refused := true } else x }

/-- Operations of core h ended in a fault: they, and every later operation that is kept after them, are never performed; the
entries of the later ones stay, for redo (R98, R308). -/
def failOuts (s : State) (h : Nat) (ids : List Nat) : State :=
  let H := hartOf s h
  let all := (failedAfter ids H.out []).map (·.id) ++ ids
  let later := H.out.filter fun o => all.contains o.id && !ids.contains o.id
  let t := putHart s h { H.withoutFailed all with slots := H.slots.map fun σ => σ.failed all later }
  { t with net := t.net.filterMap (withoutFailed h all) }

/-- The item k of the net taken out of it. -/
def takeNet (s : State) (k : Nat) : Option (NetItem × State) :=
  match s.net[k]? with
  | some it => some (it, { s with net := removeAt k s.net })
  | none => none

/-- The copy of an operation in a message engine (R111). -/
def copyOf (s : State) (h id : Nat) : Option SendCopy := (hartOf s h).copies.find? fun c => c.item.id == id
/-- The copy dropped. -/
def dropCopy (s : State) (h id : Nat) : State :=
  let H := hartOf s h
  putHart s h { H with copies := H.copies.filter fun c => c.item.id != id }

/-! ## Discard (R233, R308) -/

/-- The slot without a scoreboard entry. -/
def Slot.dropEntry (σ : Slot) (id : Nat) : Slot := { σ with sb := σ.sb.filter fun e => e.id != id }

/-- A reply that may still come for an entry which is given up will be dropped: no other entry takes its number until then. A
refused operation brings none, unless it is an append that can still be sent again. -/
def addGone (s : State) (src : Issuer) (e : SbEntry) : State :=
  match e.num with
  | some n =>
    let H := hartOf s src.hart
    let again := (H.slot src.slot).sb.any fun x => x.kind == 6 && x.item.map (·.id) == e.item.map (·.id)
    if e.refused && !again then s else putHart s src.hart { H with gone := H.gone ++ [(src.launch, src.slot, n, e.kind)] }
  | none => s

/-- The reply of a given number and kind has come, or never will. -/
def dropGone (s : State) (h L n num kind : Nat) : State :=
  let H := hartOf s h
  putHart s h { H with gone := H.gone.filter fun g => g != (L, n, num, kind) }

/-- A refused append that is given up brings no reply. -/
def giveUp (s : State) (src : Issuer) (e : SbEntry) : State :=
  match e.item with
  | some it =>
    match it.op with
    | .orcApp _ _ _ _ (some n) => if e.refused then dropGone s src.hart src.launch src.slot n 5 else s
    | _ => s
  | none => s

/-- An entry settled by discard: its reply will be dropped, its reservation is removed, and the copy of a send goes (R308). -/
def discardEntry (s : State) (src : Issuer) (e : SbEntry) : State :=
  let σ := slotOf s src.hart src.slot
  let t := addGone (putSlot s src.hart src.slot ((σ.unreserve e.id).dropEntry e.id)) src e
  if e.kind = 6 then giveUp (dropOut (dropCopy t src.hart e.id) src.hart e.id) src e
  else if e.kind = 4 then dropOut t src.hart e.id
  else t

/-- A stamped operation accepted again is recorded in the replay filter of 64 stamps per sender (R67, R111). -/
def Ctx.record (c : Ctx) (stamp : BitVec 48) (f : Option FaultInfo) : Ctx :=
  let k := stampSender stamp
  { c with filter := SMap.set k ((⟨stamp, f⟩ :: SMap.getD c.filter k []).take 64) c.filter }
/-- Does the replay filter hold the stamp? -/
def Ctx.seen (c : Ctx) (stamp : BitVec 48) : Bool := (SMap.getD c.filter (stampSender stamp) []).any fun f => f.stamp == stamp

end Sys2Proof.Machine
end

