-- ==== Sys2Proof/Machine/Launches.lean ====
section
/-! DEFINITION. How a launch ends: counters, status records, the fault log, repair lines, the zeroing of its plat, chains,
and the delivery of late faults (spec/01 R15 R17, spec/02 R29, spec/04 R79 R80, spec/08 R151 R152 R157, spec/10 R178,
spec/11 R189, spec/14 R241). -/

namespace Sys2Proof.Machine

/-! ## Counters and status records -/

/-- A counter at the end of a launch that it counts in LIVE (R189, R190). -/
def countEnd (ok : Bool) (code : BitVec 16) (c : Counter) : Counter :=
  { ended := c.ended + 1, done := if ok then c.done + 1 else c.done, live := c.live - 1, cxl := c.cxl && decide (1 < c.live),
    last := if ok then c.last else code }

/-- Every counter of a capsule that has been counted, changed for its end (R189). -/
def endCounters (s : State) (cap : Capsule) (ok : Bool) (code : BitVec 16) : State :=
  if cap.counted then cap.counters.foldl (fun t c => modCounter t c (countEnd ok code)) s else s

/-- Every counter of a capsule one more LIVE (R188). -/
def countLive (s : State) (cap : Capsule) : State :=
  cap.counters.foldl (fun t c => modCounter t c fun k => { k with live := k.live + 1 }) s

/-- A status record, word 1 before word 0; address 0 names none (R137, R138). -/
def writeStatus (s : State) (status : Word) (tag : BitVec 32) (code : BitVec 16) (cycles : Nat) : State :=
  if status = 0 then s
  else
    let t := hostPut s (status.toNat + 8) (BitVec.ofNat 64 cycles)
    hostPut t status.toNat (BitVec.ofNat 64 (code.toNat + 2 ^ 16 + tag.toNat * 2 ^ 32))

/-- The packet with a number of queue q completed (R138). -/
def closePacket (s : State) (q n : Nat) : State :=
  match SMap.find q s.queues with
  | some u => { s with queues := SMap.set q { u with open' := u.open'.filter (· != n) } s.queues }
  | none => s

/-- The report of a launch's end to the host (R138, R155, R311). Word 1 is not stated for a launch that was never placed
(log 4). -/
def report (s : State) (o : Origin) (placedAt : Option Nat) (code : BitVec 16) : State :=
  match o with
  | .queue q st tag n =>
    match placedAt with
    | some p => closePacket (writeStatus s st tag code (s.cycle - p)) q n
    | none => closePacket (writeStatus { s with fresh := s.fresh + 1 } st tag code (Config.freeWord s.fresh).toNat) q n
  | .chainOf q st tag n begun => closePacket (writeStatus s st tag code (s.cycle - begun)) q n
  | .launchBy _ => s

/-- The reports of a placed launch: its own, and those of the chains that a resumed residue goes on with (R155). -/
def reportEnd (s : State) (l : Launch) (code : BitVec 16) : State :=
  l.cap.replaces.foldl (fun t o => report t o none code) (report s l.cap.origin (some l.placedAt) code)

/-- A refusal entered in the fault log; the plat, TAG, core and address of its record are not stated (log 4). -/
def logRefusal (s : State) (code : BitVec 16) (detail : BitVec 12) : State :=
  let f := s.fresh
  logFault { s with fresh := f + 4 } code detail (Config.freeChoice f % 1024) ((Config.freeWord (f + 1)).extractLsb' 0 16)
    (Config.freeChoice (f + 2) % 2 ^ 20) (Config.freeWord (f + 3))

/-- A capsule without a plat ends. One that has been counted moves its counters and enters the fault log; before that its
report alone says so (R7, R189). The chains that it goes on with for a resumed residue end with it (R155). -/
def endUnplaced (s : State) (cap : Capsule) (code : BitVec 16) (detail : BitVec 12) : State :=
  let t := if cap.counted then logRefusal s code detail else s
  cap.replaces.foldl (fun u o => report u o none code) (report (endCounters t cap false code) cap.origin none code)

/-! ## Drain (R180) -/

/-- Has a plat the capsule's shape? -/
def PlatEntry.fits (P : PlatEntry) (cap : Capsule) : Bool := P.defd && P.h == cap.h && P.w == cap.w

/-- What the module holds for the residue that a capsule resumes (R154). -/
def residueOrigin (s : State) (cap : Capsule) : Option Residue :=
  if cap.residue then SMap.find (cap.word 24) s.residues else none

/-- Does drain make an unplaced capsule unplaceable (R180)? DEDUCED: a width or height that no plat can have falls under this order 1 of
R149, before the BOUNDS of order 5 (log 84). -/
def unplaceable (s : State) (cap : Capsule) : Bool :=
  s.drain ||
  (match residueOrigin s cap with
   | some o => s.plats.any fun p => p.2.fits cap && p.2.x4 == o.x4 && p.2.y2 == o.y2 && p.2.drain
   | none => false) ||
  (match cap.bound with
   | some p => (platOf s p).drain
   | none => false) ||
  !(s.plats.any fun p => p.2.fits cap && !p.2.drain)

/-! ## Repair lines at the end of a launch (R79, R80) -/

/-- The lines of one context ended: settled or not, their BASE written back. -/
def endLines (settle : Bool) (l : Launch) (h : Nat) (c : Ctx) (s : State) : State :=
  c.unit.lines.foldl (fun t line =>
    let line := if settle then line.settleAll else line
    let bs := vecBytes line.base 64
    if line.ptr.getLsbD 39 then
      match l.extent (extOf line.ptr) with
      | some e => extentWrite t e (line.ptr.toNat % 2 ^ 39) bs (platOf t l.plat).tag
      | none => t
    else if settle then putCtx t h ((ctxOf t h c.launch).write (offOf line.ptr) bs) else t) s

/-- The lines of every unit of a launch ended. -/
def endRepair (settle : Bool) (s : State) (L : Nat) (l : Launch) : State :=
  s.harts.foldl (fun t p => if p.2.hasCtx L then endLines settle l p.1 (p.2.ctx L) t else t) s

/-! ## Removal (R58, R157) -/

/-- A core after the end of launch L: its context with its decode table, its slots, their operations, its copies and its
buffered operations are gone (R11, R157). A compute core of the plat is zeroed whole. -/
def Hart.endLaunch (L h : Nat) (H : Hart) : Hart :=
  if isCompute h && H.hasCtx L then { Hart.reset with acts := H.acts }
  else
    let mine (o : OutOp) : Bool := (H.slot o.slot).running && (H.slot o.slot).ctx == L && (H.slot o.slot).act == o.act
    { H with
      out := H.out.filter (fun o => !mine o)
      slots := H.slots.map fun σ => if σ.running && σ.ctx == L then Slot.reset else σ
      ctxs := H.ctxs.filter (fun c => c.launch != L)
      gone := H.gone.filter (fun g => g.1 != L)
      copies := H.copies.filter (fun c => c.item.src.launch != L)
      commit := H.commit.filter (fun i => i.src.launch != L) }

/-- The plat's cores, clusters and traffic of launch L removed, and the plat in a given state. Its dirty last-level cache lines
and its TAG stay until the release has ended (R61, R177). -/
def clearPlat (s : State) (L p : Nat) (state : PlatState) : State :=
  let P := platOf s p
  let inP (c : Nat) : Bool :=
    decide (P.x4 ≤ c % 256) && decide (c % 256 < P.x4 + P.w) && decide (P.y2 ≤ c / 256) && decide (c / 256 < P.y2 + P.h)
  let t : State :=
    { s with
      harts := s.harts.map fun x => (x.1, x.2.endLaunch L x.1)
      clusters := s.clusters.filter fun x => !inP x.1
      net := s.net.filter fun i => i.src.launch != L
      collectives := s.collectives.filter fun c => c.launch != L
      launches := s.launches.filter fun x => x.1 != L
      gzChanged := true }
  putPlat t p { P with state := state, launch := none, quiesce := 0 }

/-- The release of plat p ends: its dirty lines are written back, and then TAG is cleared (R177). -/
def clearTag (s : State) (p : Nat) : State :=
  let P := platOf s p
  let clean (x : Nat × Option (BitVec 16)) : Nat × Option (BitVec 16) := if x.2 = some P.tag then (x.1, none) else x
  putPlat { s with llc := s.llc.map clean } p { P with tag := 0 }

/-! ## Chains (R151, R152) -/

/-- The launch number under which the carried bytes of a plat stand between two capsules (R152). -/
def carriedLaunch (p : Nat) : Nat := 1024 + p

/-- The cores of a plat without the bytes that they kept for an onward capsule. -/
def dropCarried (s : State) (p : Nat) : State :=
  { s with harts := s.harts.map fun x => (x.1, { x.2 with ctxs := x.2.ctxs.filter fun c => c.launch != carriedLaunch p }) }

/-- Do the carry regions of l pass to cap (R152)? -/
def carries (l : Launch) (cap : Capsule) : Bool :=
  l.cap.grantOwner == cap.grantOwner && (cap.chain[4]).getLsbD 0 && l.cap.w == cap.w && l.cap.h == cap.h &&
  (l.cap.regions 2).all fun r => (cap.regions 2).contains r

/-- The extents and checker cursors that an onward capsule inherits (R151). -/
def inherit (s : State) (L : Nat) (l : Launch) (cap : Capsule) : List (Nat × Extent × SMap Checker) :=
  ((upFrom 0 cap.next).filterMap fun j =>
    match cap.extents[j]? with
    | some e =>
      if e.inh then
        match l.extents[e.from']? with
        | some f =>
          let cs := s.harts.filterMap fun x =>
            if x.2.hasCtx L then (SMap.find e.from' (x.2.ctx L).checkers).map fun k => (x.1, k) else none
          some (j, { e with base := f.base, len := f.len, owner := f.owner, host := f.host, rights := f.rights &&& e.rights }, cs)
        | none => none
      else none
    | none => none)

/-- The bytes of the carry regions of a context, with their FE bits, kept for the onward capsule (R152). Its placement empties
every list of waiters (R121). -/
def carryCtx (l : Launch) (p : Nat) (c : Ctx) : Ctx :=
  let inside (a : Nat) : Bool := (l.cap.regions 2).any fun r => decide (r.1 ≤ a) && decide (a < r.1 + r.2)
  { Ctx.reset (carriedLaunch p) with
    scratch := c.scratch.filter fun x => inside x.1 && !c.empties.contains (x.1 / 8 * 8)
    empties := c.empties.filter inside }

/-- The origin of an onward capsule (R155, R311). -/
def onwardOrigin (l : Launch) : Origin :=
  match l.cap.origin with
  | .queue q st tag n => .chainOf q st tag n l.placedAt
  | o => o

/-- Does an onward capsule keep plat p of the launch that it follows: the carry regions pass to it, no pre-emption takes the plat
(R158), and the plat is where a residue was spilled from (R154)? -/
def keepsPlat (s : State) (p : Nat) (l : Launch) (cap : Capsule) : Bool :=
  let P := platOf s p
  carries l cap && P.quiesce != 1 && (!cap.residue || (match residueOrigin s cap with
    | some o => P.x4 == o.x4 && P.y2 == o.y2
    | none => false))

/-- A pending chain that a drain makes unplaceable is marked, so that its onward capsule is refused at the chain even if the drain
has been cleared by then (R16). -/
def markDrained (s : State) (l : Launch) : Launch :=
  { l with pending := l.pending.map fun cap =>
      { cap with drained := cap.drained || unplaceable s { cap with bound := if keepsPlat s l.plat l cap then some l.plat else none } } }

/-- The pending chain of a launch that ends by chaining takes effect; t is the state after the removal of the chaining
capsule from plat p, and s the state before it. A plat that is being pre-empted is freed, so that the onward capsule keeps
nothing of it and waits behind the pre-empting capsule (R158). -/
def startOnward (s t : State) (L p : Nat) (l : Launch) (cap : Capsule) : State :=
  let keep := keepsPlat s p l cap
  let cap1 : Capsule :=
    { cap with
      origin := onwardOrigin l, replaces := l.cap.replaces, inherited := inherit s L l cap, counted := true
      bound := if keep then some p else none
      behind := if (platOf s p).quiesce = 1 then some p else none }
  let u := countLive t cap1
  if cap1.counters.any fun c => (counterOf u c).cxl then endUnplaced u cap1 codePreempted 0x001
  else if cap.drained || unplaceable u cap1 then endUnplaced u cap1 codeDrain 0
  else if keep then
    let carried (x : Nat × Hart) : Nat × Hart :=
      match s.harts.find? (fun y => y.1 == x.1) with
      | some y => if isCompute x.1 && y.2.hasCtx L then (x.1, { x.2 with ctxs := [carryCtx l p (y.2.ctx L)] }) else x
      | none => x
    putPlat { u with harts := u.harts.map carried } p { platOf u p with onward := some cap1 }
  else { u with waitList := u.waitList ++ [cap1] }

/-! ## The end of a placed launch -/

/-- Launch L ends by completion or chaining (R15, R79, R151): its lines settle, its counters move, its record is
written unless a chain goes on, and its plat goes to ZEROING. -/
def completeLaunch (s0 : State) (L : Nat) : State :=
  let s := recallAll s0 L
  match launchOf s L with
  | none => s
  | some l =>
    let s1 := endRepair true s L l
    let s2 := endCounters s1 l.cap true 0
    let s3 := if l.pending.isSome then s2 else reportEnd s2 l 0
    let t := clearPlat s3 L l.plat .zeroing
    match l.pending with
    | some cap => startOnward s3 t L l.plat l cap
    | none => t

/-- Launch L ends with a code: its history is discarded (R80), its pending chain dropped (R151), its counters take the
code (R189), and its plat goes to the given state (R178). -/
def failLaunch (s : State) (L : Nat) (code : BitVec 16) (state : PlatState) : State :=
  match launchOf s L with
  | none => s
  | some l =>
    let s1 := endRepair false s L l
    let s2 := endCounters s1 l.cap false code
    clearPlat (reportEnd s2 l code) L l.plat state

/-- The plat of launch L is killed by a fault of core h (R29, R183). -/
def killLaunch (s : State) (L h : Nat) (f : FaultInfo) : State :=
  match launchOf s L with
  | none => s
  | some l =>
    let P := platOf s l.plat
    failLaunch (logFault s f.code f.detail l.plat P.tag h f.addr) L f.code .zeroing

/-- Launch L ends with a code and DETAIL that no core's fault gave; the core and the address of the fault log record are not
stated (log 4). -/
def endLogged (s : State) (L : Nat) (code : BitVec 16) (detail : BitVec 12) (state : PlatState) : State :=
  match launchOf s L with
  | none => s
  | some l =>
    let f := s.fresh
    let t := logFault { s with fresh := f + 2 } code detail l.plat (platOf s l.plat).tag (Config.freeChoice f % 2 ^ 20)
      (Config.freeWord (f + 1))
    failLaunch t L code state

/-- A plat that is RUNNING or QUIESCING is fenced, and its launch reports a code; R178 fences from no other state (R59; log
64). -/
def fencePlat (s : State) (p : Nat) (code : BitVec 16) (detail : BitVec 12) : State :=
  match (platOf s p).state, (platOf s p).launch with
  | .running, some L => endLogged s L code detail .fenced
  | .quiescing, some L => endLogged s L code detail .fenced
  | _, _ => s

/-- A fault of slot n of core h while it runs its trap handler: the earlier contents of tcause go to the fault log, and the
plat is killed (R29). -/
def doubleFault (s : State) (h n : Nat) (f : FaultInfo) : State :=
  let σ := slotOf s h n
  let p := match launchOf s σ.ctx with
    | some l => l.plat
    | none => 0
  let t := logFault s (σ.tcause.extractLsb' 16 16) (σ.tcause.extractLsb' 0 12) p (platOf s p).tag h σ.taddr
  killLaunch t σ.ctx h f

/-! ## Late faults (R241) -/

/-- A refusal reaches the slot of an operation: it waits for the next bundle boundary, or kills the plat when the slot
has been released. In a trap handler it kills the plat too, but for a sys.resume with ACT 0 that retires in the same cycle (R314):
so once the cycle is over. -/
def lateFault (s : State) (src : Issuer) (id : Option Nat) (f : FaultInfo) : State :=
  if runs s src then
    let σ := slotOf s src.hart src.slot
    let of (x : SbEntry) : Bool := id == some x.id || (id.isSome && x.item.map (·.id) == id)
    let mark (x : SbEntry) : SbEntry := if of x then { x with refused := true } else x
    let τ : Slot := { σ with sb := σ.sb.map mark }
    putSlot s src.hart src.slot
      (if σ.inTrap then { τ with inHandler := σ.inHandler ++ [(s.cycle, id, f)] } else { τ with late := σ.late ++ [(id, f)] })
  else killLaunch s src.launch src.hart f

/-- Has a late fault reached slot n of core h in its trap handler in an earlier cycle? -/
def Slot.handlerFault (σ : Slot) (cycle : Nat) : Option FaultInfo :=
  if σ.running && σ.inTrap then (σ.inHandler.find? fun x => decide (x.1 < cycle)).map (·.2.2) else none

/-- The plat killed by the late fault that a slot met in its trap handler, the cycle of its arrival being over (R241, R314). -/
def endHandlerFault (h n : Nat) (s : State) : State :=
  match (slotOf s h n).handlerFault s.cycle with
  | some f => doubleFault s h n f
  | none => s

/-- Operations of a core that end in a late fault: those kept after them are never performed (R98). -/
def refuse (s : State) (src : Issuer) (id : Nat) (f : FaultInfo) : State :=
  lateFault (failOuts s src.hart [id]) src (some id) f

end Sys2Proof.Machine
end

