-- ==== Sys2Proof/Machine/Ops.lean ====
section
/-! DEFINITION. What every word shares: waiting and faulting, taking a trap and returning from it, retiring on each side,
the scoreboard, the ordering matrices, and the accesses of a hart's own scratchpad (spec/02, spec/05, spec/06 R106,
spec/12 R219 R220, spec/18 R304 to R309). -/

namespace Sys2Proof.Machine

/-! ## Words that do not retire -/

/-- Why a word does not retire now: it waits, or it raises a precise fault. The state to keep is the one before the
word unless the word has already begun (a held pop of R104). -/
inductive Stop where
  | wait (w : Wait) (keep : Option State)
  | trap (f : FaultInfo) (keep : Option State)
  /-- The word waits for earlier operations, and performs nothing; coalesced bytes among those go to their homes. -/
  | order (ids : List Nat)

/-- A computation of a word over the state. -/
abbrev Op (α : Type) := StateT State (Except Stop) α

/-- The word waits, with nothing performed. -/
def waitFor {α : Type} (w : Wait) : Op α := fun _ => .error (.wait w none)
/-- The word waits, having begun what the given state holds. -/
def waitWith {α : Type} (w : Wait) (s : State) : Op α := fun _ => .error (.wait w (some s))
/-- The word raises a precise fault. -/
def trapAt {α : Type} (code : BitVec 16) (detail : BitVec 12) (addr : Word) : Op α :=
  fun _ => .error (.trap ⟨code, detail, addr⟩ none)
/-- The word raises a precise fault whose DETAIL the spec does not state (log 4). -/
def trapFree {α : Type} (code : BitVec 16) (addr : Word) : Op α :=
  fun s => .error (.trap ⟨code, Config.freeDetail s.fresh, addr⟩ none)
/-- A word that the spec does not state, the next of its kind (log 4). -/
def freeWord : Op Word := fun s => .ok (Config.freeWord s.fresh, { s with fresh := s.fresh + 1 })

/-- A stop of the word where a condition holds. -/
def stopIf (c : Prop) [Decidable c] (stop : Op Unit) : Op Unit := if c then stop else pure ()

/-- A stop of the word where something is found. -/
def stopSome {α : Type} (o : Option α) (stop : α → Op Unit) : Op Unit :=
  match o with
  | some a => stop a
  | none => pure ()

/-- The current slot changed. -/
def modSlot (f : Slot → Slot) : Op Unit := fun s => .ok ((), putCur s (f (curSlot s)))
/-- The current slot. -/
def getSlot : Op Slot := fun s => .ok (curSlot s, s)
/-- The state changed. -/
def modState (f : State → State) : Op Unit := fun s => .ok ((), f s)

/-! ## Fingerprints (R199) -/

/-- A result of a retiring word enters fpr of both cores of a pair (R199). -/
def noteResult (w : Word) : Op Unit := fun s =>
  if (curSlot s).paired then .ok ((), noteFpr s (curHart s) w) else .ok ((), s)

/-! ## Handlers and positions -/

/-- The issuer that the current slot's operations carry. -/
def curIssuer (s : State) : Issuer :=
  let σ := curSlot s
  { hart := curHart s, launch := σ.ctx, slot := curNum s, act := σ.act }

/-- The handler record of entry k for slot n of core h. -/
def handlerOf (s : State) (h n k : Nat) : Option Handler :=
  match launchOf s (slotOf s h n).ctx with
  | some l => l.handler k
  | none => none

/-- The window of slot n of core h for a handler record: base and end (R50, R131, R225). -/
def windowOf (s : State) (h n : Nat) (r : Handler) : Nat × Nat :=
  match launchOf s (slotOf s h n).ctx with
  | some l => (windowBase l.cap h r n, windowBase l.cap h r n + r.stklen)
  | none => (0, 0)

/-- The handler entry whose code the slot runs: entry 63 in its trap handler, else CHAN (R23, R305). -/
def Slot.entry (σ : Slot) : Nat := if σ.inTrap then 63 else σ.chan.toNat

/-- Length of the code window of a launch in bundles (R144). -/
def codeLen (s : State) (L : Nat) : Nat :=
  match launchOf s L with
  | some l => l.cap.codelen
  | none => 0

/-- The bundle whose X-word the E-side runs next: the oldest that only the A-side has retired, or the bundle in which the
A-side waits for the E-side (R106, R232, R307). -/
def Slot.ePos (σ : Slot) : Option Nat :=
  match σ.path with
  | p :: _ => some p.bundle
  | [] => if (σ.aWait == some .done || σ.aWait == some .eSide) && !σ.eDone then some σ.pc else none

/-! ## Earlier operations (R83 to R92) -/

/-- The earlier operations of the current activation, in order. -/
def curEarlier (s : State) : List OutOp := earlierOf (hartOf s (curHart s)) (curNum s) (curSlot s).act

/-- The earlier operations of the current slot that are kept before a new one for every observer and not yet performed. -/
def priorsOf (s : State) (d : OpDesc) : List Nat := hardOf (curEarlier s) d

/-- Is an operation a release (R83, R84)? -/
def OpDesc.release (d : OpDesc) : Bool := d.kinds.any fun k => k == .stR || k == .send || k == .kick || k == .fence

/-! ## Coalesced bytes (R54) -/

/-- The coalesced bytes of an L1 line of core h sent to their home. -/
def flushLine (L h k : Nat) (s : State) : State :=
  let H := hartOf s h
  let l := H.line k
  if l.stores.isEmpty then s
  else
    let home := keyHome k
    let prior := ((beforeThese l.ids H.out).filter fun o => sameLoc o.loc ⟨home, keyOff k, 64⟩).map (·.id)
    let src : Issuer := match H.out.find? (fun o => l.ids.contains o.id) with
      | some o => { hart := h, launch := L, slot := o.slot, act := o.act }
      | none => { hart := h, launch := L, slot := 0, act := 0 }
    let it : NetItem := { id := s.nextId, src := src, op := .flush home (keyOff k) l.stores, prior := prior, since := s.cycle }
    let t := putHart s h (H.putLine k { l with shared := none, stores := [], since := 0 })
    { t with nextId := s.nextId + 1, net := t.net ++ [it] }

/-- Every coalesced line of core h whose home lies in a scope sent to its home (R54, R84). -/
def flushScope (L h : Nat) (sc : Scope) (s : State) : State :=
  ((hartOf s h).l1.filter fun x => !x.2.stores.isEmpty && containsHome s h L (keyHome x.1) sc).foldl
    (fun t x => flushLine L h x.1 t) s

/-- The lines of core h that hold stores with the given numbers sent to their homes. -/
def flushIds (L h : Nat) (ids : List Nat) (s : State) : State :=
  ((hartOf s h).l1.filter fun x => x.2.ids.any ids.contains).foldl (fun t x => flushLine L h x.1 t) s

/-! ## Scoreboard words (R28) -/

/-- The operand code of a destination of A class (R211). -/
def dstCode : ADst → Nat
  | .a n => n
  | .lq k => 16 + k
  | .sm n => 23 + n
  | .z => 31

/-- INFO of an entry: of a held pop its queue code, the bytes delivered and the held bit (R28, R104). -/
def SbEntry.infoNow (e : SbEntry) : BitVec 50 :=
  match e.held with
  | some p => BitVec.ofNat 50 (16 + p.queue + p.delivered % 128 * 2 ^ 5 + 2 ^ 12)
  | none => e.info

/-- A scoreboard entry as tsb shows it (R28). -/
def sbWord (e : SbEntry) : Word :=
  let side := match e.side with
    | .aSide => 0
    | .eSide => 1
  BitVec.ofNat 64 (2 ^ 63 + e.kind % 8 * 2 ^ 60 + e.destCode % 32 * 2 ^ 55 + side * 2 ^ 54) ||| e.infoNow.zeroExtend 64

/-- INFO of an operation on a pointer: space code, core index, offset (R28). The layout gives no case for a pointer that names
no core (space 0x4, or a line of an extent): DESIGN CHOICE, its bits [59:40] and [17:0] stand in the two fields (log 66). -/
def infoOf (p : Word) : BitVec 50 := BitVec.ofNat 50 (spaceOf p * 2 ^ 46 + indexOf p * 2 ^ 26 + offOf p)

/-! ## Taking a trap (R304, R305) -/

/-- Bits of tcause (R27). -/
def causeWord (side : Side) (f : FaultInfo) : BitVec 32 :=
  f.code ++ (match side with
    | .aSide => (0 : BitVec 1)
    | .eSide => 1) ++ (0 : BitVec 3) ++ f.detail

/-- The slot after trap entry into the given record, whose window base is base. -/
def Slot.enterTrap (σ : Slot) (side : Side) (f : FaultInfo) (r : Handler) (base : Nat) : Slot :=
  let ids := (σ.sb.map (·.id)).take 16
  let words := (σ.sb.map sbWord).take 16
  let tpc := match side with
    | .aSide => σ.pc
    | .eSide => σ.ePos.getD σ.pc
  { σ with
    tsb := Vector.ofFn fun i => words[i.val]?.getD 0
    tsbIds := ids
    tcause := causeWord side f
    taddr := f.addr
    tpc := BitVec.ofNat 13 tpc
    aFmtsave := σ.aPrefix.getD σ.aFmtsave
    aPP := σ.aPP || σ.aPrefix.isSome
    eFmtsave := σ.ePrefix.getD σ.eFmtsave
    ePP := σ.ePP || σ.ePrefix.isSome
    aPrefix := none
    ePrefix := none
    eTable := none
    slip := some { eFault := side == .eSide, aPc := σ.pc, path := σ.path, bq := σ.bq, eDone := σ.eDone }
    call := some { rs := σ.rs, swp := σ.swp }
    sb := σ.sb.map fun x => { x with held := x.held.map fun p => { p with armed := false } }
    path := []
    bq := []
    rs := []
    swp := BitVec.ofNat 18 base
    eDone := false
    inTrap := true
    pc := r.entry
    aWait := none
    eWait := none
    agreed := false }

/-- The requests that a slot has standing at its cluster's engines, withdrawn (R304: the word has performed nothing). -/
def dropRequests (s : State) (src : Issuer) : State :=
  if isCompute src.hart then
    let c := clusterOfCore src.hart
    match SMap.find c s.clusters with
    | some C =>
      let keep (r : Request) : Bool :=
        match r.job.rep with
        | .slot x => x != src
        | .remote _ _ _ => true
      putCluster s c { C with mxReqs := C.mxReqs.filter keep, cpReqs := C.cpReqs.filter keep }
    | none => s
  else s

/-- The slot with a ctl.wait that waits abandoned, having performed nothing (R234). -/
def Slot.abandonWait (σ : Slot) : Slot :=
  match σ.aWait with
  | some (.waitWord _ _ _ _) => σ.undo
  | _ => σ

/-- A trap of slot n of core h: entry into handler 63 (R304), or the end of the plat when the slot already runs it or the
capsule has none (R29). -/
def trapEntry (s0 : State) (h n : Nat) (side : Side) (f : FaultInfo) : State :=
  let s := { s0 with fresh := s0.fresh + 1 }
  let σ := slotOf s h n
  if σ.inTrap then doubleFault s h n f
  else
    match handlerOf s h n 63 with
    | some r =>
      let t := dropRequests s { hart := h, launch := σ.ctx, slot := n, act := σ.act }
      putSlot t h n (σ.abandonWait.enterTrap side f r (windowOf s h n r).1)
    | none => killLaunch s σ.ctx h f

/-- Must a trap of the slot wait? A fence or a ply end that has begun waiting, an append that waits for its answer, and an
acquire load in flight, complete before trap entry (R99, R250). -/
def trapDeferred (s : State) (h n : Nat) : Bool :=
  let σ := slotOf s h n
  (match σ.aWait with
   | some .ply => true
   | some (.fence _) => true
   | some (.answer _ _) => true
   | _ => false) ||
  (hartOf s h).out.any fun o => o.slot == n && o.act == σ.act && o.kinds.contains .ldA &&
    σ.sb.any fun x => x.id == o.id && x.kind == 2 && !x.refused

/-! ## Retiring -/

/-- Where the A-side goes when a word retires. -/
inductive Flow where
  | next
  | jump (t : Nat)
  /-- The word has left the slot where it is to be: released, or returned from its trap. -/
  | stay
deriving DecidableEq, Repr

/-- The slot's A-side after its bundle retires (R106). -/
def Slot.retireA (σ : Slot) (lone : Bool) (fl : Flow) : Slot :=
  match fl with
  | .next => { σ with pc := σ.pc + 1, path := σ.path ++ [⟨σ.pc, lone, false⟩], aWait := none, agreed := false }
  | .jump t =>
    { σ with
      pc := t, path := σ.path ++ [⟨σ.pc, lone, true⟩], bq := σ.bq ++ [BitVec.ofNat 13 t], aWait := none, agreed := false }
  | .stay => σ

/-- The slot's E-side after its X-word retires: a bundle that the A-side left by a taken transfer also takes the next
path from the branch queue (R106). -/
def Slot.retireE (σ : Slot) : Slot :=
  match σ.path with
  | p :: ps => { σ with path := ps, bq := if p.taken then σ.bq.drop 1 else σ.bq, eWait := none, eTable := none }
  | [] => { σ with eDone := true, eWait := none, eTable := none }

/-- The A-side's prefix consumed by the governed word; a prefix that came from FMTSAVE clears FMTSAVE and PP (R23, R309). -/
def Slot.consumeA (σ : Slot) : Slot :=
  if !σ.inTrap && σ.aPP && σ.aPrefix == some σ.aFmtsave then { σ with aPrefix := none, aPP := false, aFmtsave := 0 }
  else { σ with aPrefix := none }
/-- The E-side's prefix consumed by the governed word. -/
def Slot.consumeE (σ : Slot) : Slot :=
  if !σ.inTrap && σ.ePP && σ.ePrefix == some σ.eFmtsave then { σ with ePrefix := none, ePP := false, eFmtsave := 0 }
  else { σ with ePrefix := none }

/-- Is a 32-bit word an fmt.set of the A-side, of the E-side (R218, R309)? -/
def isFmtA (w : BitVec 32) : Bool :=
  w.extractLsb' 25 7 == 0x20 && w.extractLsb' 0 5 == 0 && w.extractLsb' 7 3 == 0 && !w.getLsbD 24 && !w.getLsbD 19 && !w.getLsbD 14
def isFmtE (w : BitVec 32) : Bool :=
  w.extractLsb' 26 6 == 0x10 && w.extractLsb' 0 6 == 0 && w.extractLsb' 8 3 == 0 && !w.getLsbD 25 && !w.getLsbD 20 && !w.getLsbD 15

/-- How a word stands to a prefix before it (R219, R220). -/
inductive Gov where
  | none | governable | isPrefix
deriving DecidableEq, Repr

/-- The DETAIL of PREFIX_MISUSE that a pending prefix raises on a word, if it does (R220, R309). -/
def misuse (isFmt : Bool) (g : Gov) : Option (BitVec 12) :=
  match g with
  | .none => some 0x001
  | .isPrefix => some 0x002
  | .governable => if isFmt then none else some 0x004

/-- Does the A-side sleep on an engine job (R125)? An entry from before a trap does not hold the handler. -/
def Slot.sleeping (σ : Slot) : Bool := σ.sb.any fun x => x.kind == 3 && !x.refused && !(σ.inTrap && σ.tsbIds.contains x.id)

/-- Must a slot of a pair wait for an agreement point, or for the end of a self-test, before its next bundle (R199, R201,
R312)? -/
def pairStall (s : State) : Bool :=
  let H := hartOf s (curHart s)
  (curSlot s).paired && (decide (256 ≤ H.sinceAgree) || decide (64 ≤ H.commit.length) || H.fptForced || H.selftest)

/-- Has the word that waits been issued, so that it goes on waiting for its own end alone? -/
def Wait.issued : Wait → Bool
  | .ply | .fence _ | .realign _ | .waitWord _ _ _ _ | .answer _ _ | .chain _ _ _ _ | .done => true
  | _ => false

/-- Has the A-side issued the word it waits in? -/
def Slot.inWord (σ : Slot) : Bool := σ.aWait.any Wait.issued

/-- What keeps the A-side of the current slot from issuing a word: 64 bundles that the E-side has not retired (R106), a sleep on
an engine job (R125), and the agreement of a pair (R199). -/
def holdA (s : State) : Option Wait :=
  let σ := curSlot s
  if σ.inWord then none
  else if 64 ≤ σ.path.length then some .slipFull
  else if σ.sleeping then some .engine
  else if pairStall s then some .commit
  else none

/-- The current A-side marked as waiting. -/
def markA (s : State) (w : Wait) : State := putCur s { curSlot s with aWait := some w }
/-- The current E-side marked as waiting. -/
def markE (s : State) (w : Wait) : State := putCur s { curSlot s with eWait := some w }

/-- A precise fault of a side of the current slot, whose trap is entered from the state t, or a wait, with nothing of the word
performed, for what must complete before trap entry (R99). -/
def takeTrap (s t : State) (side : Side) (f : FaultInfo) : State :=
  if trapDeferred s (curHart s) (curNum s) then
    match side with
    | .aSide => markA s .order
    | .eSide => markE s .order
  else trapEntry t (curHart s) (curNum s) side f

/-- A checkpoint with one slot changed. -/
def Checkpoint.put (c : Checkpoint) (n : Nat) (f : Slot → Slot) : Checkpoint := ⟨modifySlot f n c.slots⟩

/-- One more bundle of a pair has retired on slot n of core h (R199). A word that waited for its agreement point belongs to what was
agreed there: it has been performed, so that the checkpoint's slot stands after it and a rollback does not perform it again (R200,
R201). -/
def countBundle (h n : Nat) (agreed : Bool) (s : State) : State :=
  if (slotOf s h n).paired then
    let H := hartOf s h
    putHart s h
      { H with
        sinceAgree := H.sinceAgree + 1
        checkpoint := if agreed then H.checkpoint.map fun c => c.put n fun _ => H.slot n else H.checkpoint }
  else s

/-- The A-side word of slot n of core h retires, σ being the slot as the word leaves it (R106, R199). -/
def retireAt (s : State) (h n : Nat) (σ : Slot) (lone : Bool) (fl : Flow) : State :=
  countBundle h n σ.agreed (putSlot s h n (σ.retireA lone fl))

/-- The effect of an A-side word on the current slot: it waits, traps, or runs its operation and retires. -/
def stepA (lone : Bool) (g : Gov) (op : Op Flow) (s : State) : State :=
  let σ := curSlot s
  match holdA s with
  | some w => markA s w
  | none =>
    match σ.aPrefix.bind fun p => misuse (isFmtA p) g with
    | some d => takeTrap s (putCur s { σ with aPrefix := none, aPP := false }) .aSide ⟨codePrefix, d, 0⟩
    | none =>
      match op s with
      | .ok (fl, t) =>
        if fl = .stay then t
        else
          let τ := curSlot t
          retireAt t (curHart t) (curNum t) (if g = .governable then τ.consumeA else τ) lone fl
      | .error (.wait w keep) => markA (keep.getD s) w
      | .error (.order ids) => markA (flushIds (curLaunch s) (curHart s) ids s) .order
      | .error (.trap f keep) => takeTrap s (keep.getD s) .aSide f

/-- The decode table that the current word works with: as it stands, or as it stood when the word was issued (R164, R172). -/
def tableNow (s : State) : SMap (BitVec 32) := (curSlot s).eTable.getD (curCtx s).table

/-- Is it a wait of an X-word that has its sources, until it can push its result (R260)? -/
def Wait.pushes : Wait → Bool
  | .pushSq _ | .pushCq => true
  | _ => false

/-- A word that waits to push has been issued: the decode table as it stands is kept for it (R172). -/
def keepTable (w : Wait) (s : State) : State :=
  if w.pushes then putCur s { curSlot s with eTable := some (tableNow s) } else s

/-- The effect of an E-side word on the current slot. -/
def stepE (g : Gov) (op : Op Unit) (s : State) : State :=
  let σ := curSlot s
  if σ.ePos.isNone then markE s .path
  else if σ.paired && (hartOf s (curHart s)).selftest then markE s .commit
  else
    match σ.ePrefix.bind fun p => misuse (isFmtE p) g with
    | some d => takeTrap s (putCur s { σ with ePrefix := none, ePP := false }) .eSide ⟨codePrefix, d, 0⟩
    | none =>
      match op s with
      | .ok (_, t) =>
        let τ := curSlot t
        putCur t (if g = .governable then τ.consumeE else τ).retireE
      | .error (.wait w keep) => markE (keepTable w (keep.getD s)) w
      | .error (.order _) => markE s .order
      | .error (.trap f keep) => takeTrap s (keep.getD s) .eSide f

/-- Words run on the current slot of the current core; a state that points at no core, or at a slot without an
activation, has no word to run. -/
def onSlot (f : State → State) (s : State) : Host.Outcome State Fault Refusal :=
  if Config.nHarts ≤ curHart s then .fault .noSuchHart
  else if (curSlot s).running then .next (f s) else .fault .slotNotRunning

/-- A C-word. -/
def wordA (lone : Bool) (g : Gov) (op : Op Flow) (s : State) : Host.Outcome State Fault Refusal := onSlot (stepA lone g op) s
/-- An ordinary C-word that goes on to the next bundle. -/
def plainA (op : Op Unit) (s : State) : Host.Outcome State Fault Refusal :=
  wordA false .none (do op; return .next) s
/-- An X-word. -/
def wordE (g : Gov) (op : Op Unit) (s : State) : Host.Outcome State Fault Refusal := onSlot (stepE g op) s

/-- A word that the decoder refuses raises its precise fault on its side (R221); it governs nothing, so a pending prefix
is saved (R219). -/
def illegalWord (side : Side) (f : FaultInfo) (s : State) : State :=
  match side with
  | .aSide =>
    match holdA s with
    | some w => markA s w
    | none => takeTrap s s .aSide f
  | .eSide => if (curSlot s).paired && (hartOf s (curHart s)).selftest then markE s .commit else takeTrap s s .eSide f

/-- An event is an action of the module and always answers a next state; one whose occasion has not come changes
nothing. -/
def event (f : State → State) (s : State) : Host.Outcome State Fault Refusal := .next (f s)

/-- An operation of the A-side of slot n of core h run outside its own turn: cur is put back afterwards. -/
def asSlot (h n : Nat) (f : State → State) (s : State) : State :=
  let t := f { s with cur := (h, n, .aSide) }
  { t with cur := s.cur }

/-! ## New scoreboard entries (R28) -/

/-- A scoreboard entry of a kind without destination. -/
def SbEntry.plain (id kind : Nat) (info : BitVec 50) : SbEntry :=
  { id := id, num := none, kind := kind, destCode := 31, side := .aSide, info := info, dst := none, dst2 := none, item := none,
    outOp := none, refused := false, held := none }

/-- Room for one more scoreboard entry, or a wait (R28). -/
def needSb (n : Nat) : Op Unit := fun s =>
  if 16 < (curSlot s).sb.length + n then .error (.wait (.pending 0) none) else .ok ((), s)

/-- A scoreboard entry added to the current slot, with its operation as the matrices read it. -/
def addSb (e : SbEntry) : Op Unit := modState fun s =>
  let id := match e.item with
    | some it => it.id
    | none => e.id
  let o := (hartOf s (curHart s)).out.find? fun x => x.id == id
  putCur s { curSlot s with sb := (curSlot s).sb ++ [{ e with outOp := o }] }

/-! ## Issuing -/

/-- The order of an access that is performed at issue, but for the given earlier operations: it waits while an operation that
is kept before it for every observer is outstanding, and while a guard holds its location; what only a narrower scope keeps
before it, once accepted, leaves a guard (R98; log 63). -/
def passOrder (d : OpDesc) (except : List Nat) : Op Unit := fun s =>
  let src := curIssuer s
  let hard := (priorsOf s d).filter fun i => !except.contains i
  let soft := (softOf (curEarlier s) d).filter fun x => !except.contains x.2 && softStands s src.hart x
  let kept := keptBefore (curEarlier s).reverse [d]
  if guarded s src s.nextId d.loc then .error (.order [])
  else if !hard.isEmpty then .error (.order hard)
  else if mayPass s src soft kept then .ok ((), addGuards (makeSure s src.hart (kept.map (·.id))) (guardsFor src d.loc soft))
  else .error (.order (kept.map (·.id)))

/-- The order of an access that is performed at issue. -/
def inOrder (d : OpDesc) : Op Unit := passOrder d []

/-- A release pushes the core's coalesced bytes whose homes lie in its scope (R54). -/
def releasePush (L h : Nat) (d : OpDesc) (s : State) : State := if d.release then flushScope L h d.scope s else s

/-- An operation as the matrices read it, of slot n's activation. -/
def OpDesc.out (d : OpDesc) (id n act : Nat) : OutOp :=
  { id := id, slot := n, act := act, kinds := d.kinds, scope := d.scope, sc := d.sc, loc := d.loc, space2 := d.space2 }

/-- An operation of the current slot issued into the mesh: its item, with the operations kept before it. The given
numbers are left out of those; coalesced bytes among them go to their homes. A pair holds it in its commit buffer where
buffer says so (R200). -/
def issue (buffer : Bool) (op : NetOp) (d : OpDesc) (except : List Nat) : Op NetItem := fun s0 =>
  let h := curHart s0
  let prior := (priorsOf s0 d).filter fun i => !except.contains i
  let soft := (softOf (curEarlier s0) d).filter fun x => !except.contains x.2
  let s := flushIds (curLaunch s0) h prior (releasePush (curLaunch s0) h d s0)
  let id := s.nextId
  let it : NetItem := { id := id, src := curIssuer s, op := op, prior := prior, since := s.cycle, soft := soft }
  let H := hartOf s h
  let t := putHart { s with nextId := id + 1 } h { H with out := H.out ++ [d.out id (curNum s) (curSlot s).act] }
  if (curSlot s).paired && buffer then .ok (it, putHart t h { hartOf t h with commit := (hartOf t h).commit ++ [it] })
  else .ok (it, { t with net := t.net ++ [it] })

/-- An operation of a pair that needs an answer, or acts at once outside the pair, waits for the next agreement point (R199,
R200; log 15). -/
def agreeFirst : Op Unit := fun s =>
  if (curSlot s).paired && !(curSlot s).agreed then .error (.wait .agree none) else .ok ((), s)

/-- An operation already numbered that goes back into the mesh, ordered as if it were issued now (R99, R308). -/
def reissue (s0 : State) (it : NetItem) (o : OutOp) : State :=
  let h := it.src.hart
  let es := earlierOf (hartOf s0 h) o.slot o.act
  let prior := hardOf es o.desc
  let s := flushIds it.src.launch h prior (releasePush it.src.launch h o.desc s0)
  let t := putHart s h { hartOf s h with out := (hartOf s h).out ++ [o] }
  { t with net := t.net ++ [{ it with prior := prior, soft := softOf es o.desc, since := s.cycle, part := 0, data := 0, met := none }] }

/-- The coalesced bytes of the current core pushed, as a release or a fence does (R54). -/
def pushBytes (sc : Scope) : Op Unit := modState fun s => flushScope (curLaunch s) (curHart s) sc s

/-! ## The hart's own scratchpad -/

/-- The capsule of the current activation. -/
def curCap (s : State) : Option Capsule := (launchOf s (curLaunch s)).map (·.cap)
/-- Does a range of the current hart's own scratchpad touch a ring (R49)? -/
def curTouchesRing (s : State) (off n : Nat) : Bool :=
  match curCap s with
  | some c => touchesRing c (curHart s) off n
  | none => false
/-- Does it touch the future-link region (R51)? -/
def curTouchesLinks (s : State) (off n : Nat) : Bool :=
  match curCap s with
  | some c => touchesKind c (curHart s) 5 off n
  | none => false

/-- The buffered stores of a pair to its own scratchpad, over the bytes read (R200). -/
def overCommit (s : State) (h off n : Nat) (bs : List Byte) : List Byte :=
  (hartOf s h).commit.foldl (fun acc it =>
    match it.op with
    | .store p new =>
      if homeOf h p = h then
        ((upFrom off n).zip acc).map fun x =>
          if offOf p ≤ x.1 ∧ x.1 < offOf p + new.length then new.getD (x.1 - offOf p) 0 else x.2
      else acc
    | _ => acc) bs

/-- n bytes of the hart's own scratchpad, after every U copy has been recalled (R53). -/
def ownBytesAt (off n : Nat) : Op (List Byte) := fun s =>
  let h := curHart s
  let L := curLaunch s
  let t := recallU s L h off
  .ok (overCommit t h off n ((ctxOf t h L).read h off n), t)

/-- Bytes written to the hart's own scratchpad: every S copy is invalidated and U copies recalled first (R53). A pair
buffers them (R200). -/
def ownWrite (p : Word) (off : Nat) (bs : List Byte) : Op Unit := fun s =>
  let h := curHart s
  let L := curLaunch s
  if (curSlot s).paired then
    let it : NetItem := { id := s.nextId, src := curIssuer s, op := .store p bs, prior := [], since := s.cycle }
    let t := putHart s h { hartOf s h with commit := (hartOf s h).commit ++ [it] }
    .ok ((), { t with nextId := s.nextId + 1 })
  else
    let t := recallU s L h off
    .ok ((), invalidateHome (modHome t L h fun c => c.write off bs) L h off)

/-! ## The next stamped operation (R30) -/

/-- Does a slot of core h hold the next sequence value of launch L for an append that waits for its answer (R250)? -/
def answerPending (s : State) (h L : Nat) : Bool :=
  (hartOf s h).slots.toList.any fun σ => σ.running && σ.ctx == L && (match σ.aWait with
    | some (.answer _ _) => true
    | _ => false)

/-- The stamp of the current core's next stamped operation, not yet consumed; a 4,097th in one ply waits, and so does one
behind an append that may yet give its value back. -/
def peekStamp : Op (BitVec 48) := fun s =>
  let c := curCtx s
  if 4096 ≤ c.sseq || answerPending s (curHart s) (curLaunch s) then .error (.wait .sseq none)
  else .ok (mkStamp c.ply (curHart s) c.sseq, s)

/-- The stamp of the current core's next stamped operation. The ply and the sequence of a shared channel or gateway core stand in each
context: DESIGN CHOICE, R345 lists neither (log 60). -/
def takeStamp : Op (BitVec 48) := do
  let t ← peekStamp
  modState fun s => putCurCtx s { curCtx s with sseq := (curCtx s).sseq + 1 }
  return t

/-- Is a number of slot n of core h kept for a reply of launch L that will be dropped (R308)? -/
def numGone (s : State) (h n L k : Nat) : Bool := (hartOf s h).gone.any fun g => g.1 == L && g.2.1 == n && g.2.2.1 == k

/-- A scoreboard number for an entry that messages name: one that no such entry of the slot has and no reply is still to come
for, which the spec leaves open (log 4); where none is left the word waits as for an entry. -/
def takeNum : Op Nat := fun s =>
  let free := (upFrom 0 16).filter fun n =>
    !((curSlot s).sb.any fun e => e.num == some n) && !numGone s (curHart s) (curNum s) (curLaunch s) n
  match free[Config.freeChoice s.fresh % free.length]? with
  | some n => .ok (n, { s with fresh := s.fresh + 1 })
  | none => .error (.wait (.pending 0) none)

/-! ## Writes of two slots in one cycle (R314) -/

/-- A write of the current slot to the mask or table entry k, which one of a higher slot in the same cycle stands before. -/
def unlessLater (k : Nat) (f : State → State) : Op Unit := modState fun s => if laterWrote k s then s else noteWrite k (f s)

/-! ## Returning from a trap (R307) -/

/-- The state in which a slot's trap ends: the call and slip records restored, INTRAP cleared, both sides at tpc or at
their slip point, and pending prefixes taken from FMTSAVE (R305, R307, R309). The target is pushed into the branch queue and the
E-side, which has retired its word of the bundle, takes it at once (R106). A prefix that the E-side has retired in the bundle of
the return governs its next word (R219), but where PP is set FMTSAVE stands in its place (log 65). A late fault that has reached
the handler in this cycle is a new trap at the next boundary (R314). -/
def Slot.leaveTrap (σ : Slot) : Slot :=
  let rs := match σ.call with
    | some c => c.rs
    | none => []
  let swp := match σ.call with
    | some c => c.swp
    | none => σ.swp
  let t := σ.tpc.toNat
  let base : Slot :=
    { σ with
      rs := rs, swp := swp, inTrap := false, call := none, slip := none, tsb := Vector.replicate 16 0, tsbIds := [],
      aWait := none, eWait := none, agreed := false, inHandler := [], late := σ.late ++ σ.inHandler.map (·.2), aPrefix := if σ.aPP then some σ.aFmtsave else none,
      ePrefix := if σ.ePP then some σ.eFmtsave else σ.ePrefix }
  match σ.slip with
  | none => { base with pc := t, path := [], bq := (σ.bq ++ [σ.tpc]).drop 1, eDone := false }
  | some r =>
    let bq := (σ.bq ++ [σ.tpc]).drop 1 ++ r.bq
    if r.eFault then { base with pc := r.aPc, path := r.path, bq := bq, eDone := r.eDone }
    else { base with pc := t, path := r.path, bq := bq, eDone := r.eDone }

end Sys2Proof.Machine
end

