-- ==== Sys2Proof/Machine/Operands.lean ====
section
/-! DEFINITION. Every operand form: reading and writing fields of A class, E scalar class, E vector class and predicate
class, with their queues and stream registers (spec/02 R20 to R24, spec/06 R102 to R104, spec/13 R223, spec/15 R260,
spec/16 R271). -/

namespace Sys2Proof.Machine

/-! ## Queue entries (R102) -/

/-- Bytes of valid data that a TAG names. -/
def tagSize (tag : BitVec 4) : Nat :=
  match (tag.extractLsb' 0 3).toNat with
  | 0 => 1 | 1 => 2 | 2 => 4 | 3 => 8 | _ => 64

/-- The 64-bit value of a scalar pop. -/
def QEntry.scalar (e : QEntry) : Word :=
  let n := tagSize e.tag
  if n = 64 then e.data.extractLsb' 0 64
  else
    let v := vecElem e.data 0 n
    if e.tag.getLsbD 3 then BitVec.ofInt 64 (signedOf (8 * n) v) else BitVec.ofNat 64 v

/-- The 512-bit value of a vector pop. -/
def QEntry.vector (e : QEntry) : Vec := BitVec.ofNat 512 (vecElem e.data 0 (tagSize e.tag))

/-- The TAG of an access size, signed or not (R102). -/
def tagOf (sz : Size) (signed : Bool) : BitVec 4 :=
  let t : BitVec 4 := match sz with
    | .b1 => 0 | .b2 => 1 | .b4 => 2 | .b8 => 3 | .b64 => 4
  if signed then t ||| 8 else t

/-- Bytes of an access size (R208). -/
def sizeBytes : Size → Nat
  | .b1 => 1 | .b2 => 2 | .b4 => 4 | .b8 => 8 | .b64 => 64

/-- The code of an access size, which ALIGN reports (R243). -/
def sizeCode : Size → BitVec 12
  | .b1 => 0 | .b2 => 1 | .b4 => 2 | .b8 => 3 | .b64 => 4

/-! ## Fields of A class (R223) -/

/-- The kind of the live operation that still writes a destination, if one does (R244); z takes nothing. -/
def Slot.pendingOn (σ : Slot) (d : ADst) : Option Nat :=
  if d = .z then none else (σ.sb.find? fun e => !e.refused && (e.dst == some d || e.dst2 == some d)).map (·.kind)

/-- A wait while an operation still writes the register (log 10). -/
def notPending (d : ADst) : Op Unit := fun s =>
  match (curSlot s).pendingOn d with
  | some k => .error (.wait (.pending k) none)
  | none => .ok ((), s)

/-- An element read through stream register n, which advances (R21). -/
def readStream (n : Fin 4) : Op Word := do
  let σ ← getSlot
  stopIf (σ.smBusy.contains n) (waitFor .stream)
  notPending (.sm n)
  let r := σ.sm[n]
  let count := r.extractLsb' 48 16
  let szf := r.extractLsb' 46 2
  let size := 2 ^ szf.toNat
  let addr := (r.extractLsb' 0 18).toNat
  stopIf (count = 0) (trapFree codeQueueMisuse 0)
  stopIf (addr % size ≠ 0) (trapAt codeAlign (szf.zeroExtend 12) 0)
  let s ← get
  stopIf (ownBytes (curHart s) < addr + size) (trapAt codeBounds 0x0b0 0)
  inOrder { kinds := [.ld], scope := .core, sc := false, loc := ⟨curHart s, addr, size⟩, space2 := false }
  let bs ← ownBytesAt addr size
  let next : Word := (count - 1) ++ szf ++ r.extractLsb' 18 28 ++ (r.extractLsb' 0 18 + r.extractLsb' 18 18)
  modSlot fun τ => { τ with sm := τ.sm.set n next }
  return BitVec.ofNat 64 (leValue bs)

/-- A source field of A class. -/
def readA : ASrc → Op Word
  | .a n => do
    notPending (.a n)
    return (← getSlot).a[n]
  | .sq q => do
    match (← getSlot).sq[q] with
    | [] => waitFor (.popSq q)
    | e :: es => do
      modSlot fun σ => { σ with sq := σ.sq.set q es }
      return e.scalar
  | .cq => do
    match (← getSlot).cq with
    | [] => waitFor .popCq
    | w :: ws => do
      modSlot fun σ => { σ with cq := ws }
      return w
  | .sm n => readStream n
  | .z => return 0

/-- A push of an entry to lq k, or a wait while 16 entries are reserved or filled (R103). -/
def pushLq (k : Fin 4) (e : LqEntry) : Op Unit := fun s =>
  let σ := curSlot s
  if 16 ≤ σ.lq[k].length then .error (.wait (.pushLq k) none)
  else .ok ((), putCur s { σ with lq := σ.lq.set k (σ.lq[k] ++ [e]) })

/-- A destination field of A class. -/
def writeA (d : ADst) (w : Word) : Op Unit :=
  match d with
  | .a n => do
    notPending (.a n)
    modSlot fun σ => { σ with a := σ.a.set n w }
    noteResult w
  | .lq k => do
    pushLq k (.filled (entryOf w))
    noteResult w
  | .sm n => do
    stopIf ((← getSlot).smBusy.contains n) (waitFor .stream)
    notPending (.sm n)
    modSlot fun σ => { σ with sm := σ.sm.set n (smWord w) }
    noteResult w
  | .z => return ()

/-- A register-only field of A class (R344). -/
def readAReg : ARegZ → Op Word
  | .a n => readA (.a n)
  | .z => return 0

/-- The 64-bit register named by a number, as an operand (R344). -/
def readNum (n : Nat) : Op Word := readA (.a (Fin.ofNat 16 n))

/-! ## Fields of E scalar class (R260) -/

/-- The entry that a pop of lq k takes: a held entry that redo has armed, else the head of the queue (R104). -/
def popLq (k : Fin 4) : Op QEntry := do
  let σ ← getSlot
  match σ.sb.find? (fun x => x.held.any fun p => p.armed && p.queue == k) with
  | some x => do
    modSlot fun τ => { τ with sb := τ.sb.filter (fun y => y.id != x.id) }
    return (x.held.map (·.entry)).getD ⟨0, 3⟩
  | none =>
    match σ.lq[k] with
    | .filled e :: es => do
      modSlot fun τ => { τ with lq := τ.lq.set k es }
      return e
    | _ => waitFor (.popLq k)

/-- A source field of E scalar class. -/
def readE : ESrc → Op Word
  | .e n => do return (← getSlot).e[n]
  | .lq k => do return (← popLq k).scalar
  | .z => return 0

/-- A push of an entry to sq q, or a wait while it is full. -/
def pushSq (q : Fin 2) (e : QEntry) : Op Unit := fun s =>
  let σ := curSlot s
  if 16 ≤ σ.sq[q].length then .error (.wait (.pushSq q) none)
  else .ok ((), putCur s { σ with sq := σ.sq.set q (σ.sq[q] ++ [e]) })
/-- A push of a value to cq, or a wait while it is full. -/
def pushCq (w : Word) : Op Unit := fun s =>
  let σ := curSlot s
  if 8 ≤ σ.cq.length then .error (.wait .pushCq none) else .ok ((), putCur s { σ with cq := σ.cq ++ [w] })

/-- A destination field of E scalar class. -/
def writeE (d : EDst) (w : Word) : Op Unit :=
  match d with
  | .e n => do
    modSlot fun σ => { σ with e := σ.e.set n w }
    noteResult w
  | .sq q => do
    pushSq q (entryOf w)
    noteResult w
  | .cq => do
    pushCq w
    noteResult w
  | .z => return ()

/-! ## Predicates (R24) -/

/-- Predicate n; p0 reads as all ones. -/
def Slot.pred (σ : Slot) (n : Fin 8) : Word := if n = 0 then ~~~0 else σ.p[n]
/-- The slot with predicate n at w; a write to p0 is discarded. -/
def Slot.setPred (σ : Slot) (n : Fin 8) (w : Word) : Slot := if n = 0 then σ else { σ with p := σ.p.set n w }
def readP (n : Fin 8) : Op Word := do return (← getSlot).pred n
def writeP (n : Fin 8) (w : Word) : Op Unit := do
  modSlot fun σ => σ.setPred n w
  noteResult w

/-! ## Fields of E vector class (R271) -/

/-- The slot with the arming of a held entry set. -/
def Slot.arm (σ : Slot) (ids : List Nat) (b : Bool) : Slot :=
  { σ with sb := σ.sb.map fun x =>
      if ids.contains x.id then { x with held := x.held.map fun p => { p with armed := b } } else x }

/-- The slot with a held entry delivered to the word that runs: both halves, since a trap between them lets the second arrive
first (R285). -/
def Slot.taken (σ : Slot) (id : Nat) : Slot :=
  { σ with sb := σ.sb.map fun x =>
      if x.id == id then { x with held := x.held.map fun p => { p with armed := false, delivered := 64 } } else x }

/-- A vector pop of lq k: the entry moves to the scoreboard and stays there until the word retires (R104). An entry that
the word already holds, or that redo has armed, comes first. Answers the entry and its number. -/
def holdPop (k : Fin 4) (dest : HeldDst) (code : Nat) : Op (QEntry × Nat) := do
  let σ ← getSlot
  match σ.sb.find? (fun x => x.held.any fun p => p.armed && p.queue == k) with
  | some x => do
    modSlot fun τ => τ.taken x.id
    return ((x.held.map (·.entry)).getD ⟨0, 3⟩, x.id)
  | none =>
    match σ.lq[k] with
    | .filled e :: es => do
      needSb 1
      let s ← get
      let id := s.nextId
      let p : HeldPop := { queue := k, entry := e, delivered := 64, armed := false, dest := dest }
      let x : SbEntry :=
        { SbEntry.plain id 1 0 with
          destCode := code, side := .eSide, held := some p }
      modState fun t => { t with nextId := id + 1 }
      modSlot fun τ => { τ with lq := τ.lq.set k es, sb := τ.sb ++ [x] }
      return (e, id)
    | _ => waitFor (.popLq k)

/-- A source field of E vector class, with the number of the entry that it holds. -/
def grabV (v : VSrc) (dest : HeldDst) (code : Nat) : Op (Vec × List Nat) :=
  match v with
  | .v n => do return ((← getSlot).v[n], [])
  | .lq k => do
    let r ← holdPop k dest code
    return (r.1.vector, [r.2])
  | .z => return (0, [])

/-- The state of a word that has begun and stops: the entries that it holds stay, for the word itself (R104, R271), and so does
the decode table (R172). -/
def begun (s : State) (ids : List Nat) : State :=
  if ids.isEmpty then s else putCur s { (curSlot s).arm ids true with eTable := some (tableNow s) }

/-- A stop of a word that has already begun. -/
def keepFrom {α : Type} (s : State) (ids : List Nat) : Except Stop α → Except Stop α
  | .ok x => .ok x
  | .error (.wait w none) => .error (.wait w (some (begun s ids)))
  | .error (.trap f none) => .error (.trap f (some (begun s ids)))
  | .error e => .error e

/-- A vector word with one or two vector sources: its pops are held, its body runs, and the held entries are freed as it
retires. -/
def withV (s1 s2 : VSrc) (dest : HeldDst) (code : Nat) (body : Vec → Vec → Op Unit) : Op Unit := fun s =>
  match grabV s1 dest code s with
  | .error e => .error e
  | .ok ((x, u1), t1) =>
    match keepFrom t1 u1 (grabV s2 dest code t1) with
    | .error e => .error e
    | .ok ((y, u2), t2) =>
      match keepFrom t2 (u1 ++ u2) (body x y t2) with
      | .error e => .error e
      | .ok (_, t3) =>
        .ok ((), putCur t3 { curSlot t3 with sb := (curSlot t3).sb.filter fun e => !(u1 ++ u2).contains e.id })

/-- A vector word with one vector source. -/
def withV1 (s1 : VSrc) (dest : HeldDst) (code : Nat) (body : Vec → Op Unit) : Op Unit := withV s1 .z dest code fun x _ => body x

/-- A destination field of E vector class. -/
def writeV (d : VDst) (w : Vec) : Op Unit :=
  match d with
  | .v n => do
    modSlot fun σ => { σ with v := σ.v.set n w }
    noteResult (foldVec w)
  | .sq q => do
    pushSq q ⟨w, 4⟩
    noteResult (foldVec w)
  | .cq => do
    pushCq (w.extractLsb' 0 64)
    noteResult (w.extractLsb' 0 64)
  | .z => return ()

/-- The current value of a vector destination register; queues and z hold none, and read as zero. -/
def Slot.vdst (σ : Slot) : VDst → Vec
  | .v n => σ.v[n]
  | _ => 0

/-- How a vector destination stands in a held entry: its operand code and its kind. -/
def heldV : VDst → HeldDst × Nat
  | .v n => (.v n, n)
  | .sq q => (.sq q, 20 + q)
  | .cq => (.cq, 22)
  | .z => (.z, 31)
def heldE : EDst → HeldDst × Nat
  | .e n => (.e n, n)
  | .sq q => (.sq q, 20 + q)
  | .cq => (.cq, 22)
  | .z => (.z, 31)

end Sys2Proof.Machine
end

