-- ==== Sys2Proof/Machine/Alu.lean ====
section
/-! DEFINITION. The integer instructions of the A-side: alu and alui (spec/13 R236 to R239), and the integer functions that
the E-side shares with them. -/

namespace Sys2Proof.Machine

/-! ## Integer functions (R236, R237) -/

/-- 1 if the condition holds, else 0. -/
def flagWord (b : Bool) : Word := if b then 1 else 0
/-- Signed quotient truncated towards zero; T = 0 gives -1. -/
def divS (x y : Word) : Word := if y = 0 then ~~~0 else x.sdiv y
/-- Unsigned quotient; T = 0 gives all ones. -/
def divU (x y : Word) : Word := if y = 0 then ~~~0 else x / y
/-- Signed remainder with the sign of S; T = 0 gives S. -/
def remS (x y : Word) : Word := if y = 0 then x else x.srem y
/-- Unsigned remainder; T = 0 gives S. -/
def remU (x y : Word) : Word := if y = 0 then x else x % y
/-- Bits [127:64] of the signed product. -/
def mulhS (x y : Word) : Word := BitVec.ofInt 64 (x.toInt * y.toInt / 2 ^ 64)
/-- Bits [127:64] of the unsigned product. -/
def mulhU (x y : Word) : Word := BitVec.ofNat 64 (x.toNat * y.toNat / 2 ^ 64)
/-- Shifts by T[5:0]. -/
def sllW (x y : Word) : Word := x <<< (y.toNat % 64)
def srlW (x y : Word) : Word := x >>> (y.toNat % 64)
def sraW (x y : Word) : Word := x.sshiftRight (y.toNat % 64)
/-- Comparisons and extremes. -/
def sltW (x y : Word) : Word := flagWord (x.slt y)
def sltuW (x y : Word) : Word := flagWord (x.ult y)
def minS (x y : Word) : Word := if y.slt x then y else x
def maxS (x y : Word) : Word := if x.slt y then y else x
def minU (x y : Word) : Word := if y.ult x then y else x
def maxU (x y : Word) : Word := if x.ult y then y else x

/-- An A-side word that writes f of its two sources. -/
def aluOp (f : Word → Word → Word) (d : ADst) (x y : ASrc) (s : State) : Host.Outcome State Fault Refusal :=
  plainA (do
    let a ← readA x
    let b ← readA y
    writeA d (f a b)) s

/-- An A-side word that writes f of one source. -/
def aluiOp (f : Word → Word) (d : ADst) (x : ASrc) (s : State) : Host.Outcome State Fault Refusal :=
  plainA (do
    let a ← readA x
    writeA d (f a)) s

/-! ## alu (R236) -/
/-- R236: alu.add. -/
def execAluAdd (d : ADst) (x y : ASrc) (s : State) : Host.Outcome State Fault Refusal :=
  aluOp (fun a b => a + b) d x y s
/-- R236: alu.sub. -/
def execAluSub (d : ADst) (x y : ASrc) (s : State) : Host.Outcome State Fault Refusal :=
  aluOp (fun a b => a - b) d x y s
/-- R236: alu.and. -/
def execAluAnd (d : ADst) (x y : ASrc) (s : State) : Host.Outcome State Fault Refusal :=
  aluOp (fun a b => a &&& b) d x y s
/-- R236: alu.or. -/
def execAluOr (d : ADst) (x y : ASrc) (s : State) : Host.Outcome State Fault Refusal :=
  aluOp (fun a b => a ||| b) d x y s
/-- R236: alu.xor. -/
def execAluXor (d : ADst) (x y : ASrc) (s : State) : Host.Outcome State Fault Refusal :=
  aluOp (fun a b => a ^^^ b) d x y s
/-- R236: alu.sll. -/
def execAluSll (d : ADst) (x y : ASrc) (s : State) : Host.Outcome State Fault Refusal :=
  aluOp sllW d x y s
/-- R236: alu.srl. -/
def execAluSrl (d : ADst) (x y : ASrc) (s : State) : Host.Outcome State Fault Refusal :=
  aluOp srlW d x y s
/-- R236: alu.sra. -/
def execAluSra (d : ADst) (x y : ASrc) (s : State) : Host.Outcome State Fault Refusal :=
  aluOp sraW d x y s
/-- R236: alu.slt. -/
def execAluSlt (d : ADst) (x y : ASrc) (s : State) : Host.Outcome State Fault Refusal :=
  aluOp sltW d x y s
/-- R236: alu.sltu. -/
def execAluSltu (d : ADst) (x y : ASrc) (s : State) : Host.Outcome State Fault Refusal :=
  aluOp sltuW d x y s
/-- R236: alu.seq. -/
def execAluSeq (d : ADst) (x y : ASrc) (s : State) : Host.Outcome State Fault Refusal :=
  aluOp (fun a b => flagWord (a == b)) d x y s
/-- R236: alu.sne. -/
def execAluSne (d : ADst) (x y : ASrc) (s : State) : Host.Outcome State Fault Refusal :=
  aluOp (fun a b => flagWord (a != b)) d x y s
/-- R236: alu.min. -/
def execAluMin (d : ADst) (x y : ASrc) (s : State) : Host.Outcome State Fault Refusal :=
  aluOp minS d x y s
/-- R236: alu.max. -/
def execAluMax (d : ADst) (x y : ASrc) (s : State) : Host.Outcome State Fault Refusal :=
  aluOp maxS d x y s
/-- R236: alu.minu. -/
def execAluMinu (d : ADst) (x y : ASrc) (s : State) : Host.Outcome State Fault Refusal :=
  aluOp minU d x y s
/-- R236: alu.maxu. -/
def execAluMaxu (d : ADst) (x y : ASrc) (s : State) : Host.Outcome State Fault Refusal :=
  aluOp maxU d x y s
/-- R236: alu.mul. -/
def execAluMul (d : ADst) (x y : ASrc) (s : State) : Host.Outcome State Fault Refusal :=
  aluOp (fun a b => a * b) d x y s
/-- R236: alu.mulh. -/
def execAluMulh (d : ADst) (x y : ASrc) (s : State) : Host.Outcome State Fault Refusal :=
  aluOp mulhS d x y s
/-- R236: alu.mulhu. -/
def execAluMulhu (d : ADst) (x y : ASrc) (s : State) : Host.Outcome State Fault Refusal :=
  aluOp mulhU d x y s
/-- R236: alu.div. -/
def execAluDiv (d : ADst) (x y : ASrc) (s : State) : Host.Outcome State Fault Refusal :=
  aluOp divS d x y s
/-- R236: alu.divu. -/
def execAluDivu (d : ADst) (x y : ASrc) (s : State) : Host.Outcome State Fault Refusal :=
  aluOp divU d x y s
/-- R236: alu.rem. -/
def execAluRem (d : ADst) (x y : ASrc) (s : State) : Host.Outcome State Fault Refusal :=
  aluOp remS d x y s
/-- R236: alu.remu. -/
def execAluRemu (d : ADst) (x y : ASrc) (s : State) : Host.Outcome State Fault Refusal :=
  aluOp remU d x y s

/-! ## Composed pointers (R238) -/

/-- A composed pointer, within the limits of S and T; a value outside its limit is BOUNDS. -/
def composeOp (limS limT : Nat) (f : Nat → Nat → Nat) (d : ADst) (x y : ASrc) (s : State) : Host.Outcome State Fault Refusal :=
  plainA (do
    let a ← readA x
    let b ← readA y
    stopIf (limS ≤ a.toNat) (trapAt codeBounds 0x0a0 0)
    stopIf (limT ≤ b.toNat) (trapAt codeBounds 0x0a1 0)
    writeA d (BitVec.ofNat 64 (f a.toNat b.toNat))) s

/-- R238: alu.mkm. -/
def execAluMkm (d : ADst) (x y : ASrc) (sp : BitVec 4) (s : State) : Host.Outcome State Fault Refusal :=
  composeOp (2 ^ 20) (2 ^ 18) (fun a b => sp.toNat * 2 ^ 60 + a * 2 ^ 40 + b) d x y s
/-- R238: alu.mkx; space 0x5 names the extent view with H = 1. -/
def execAluMkx (d : ADst) (x y : ASrc) (sp : BitVec 4) (s : State) : Host.Outcome State Fault Refusal :=
  if sp = 5 then composeOp 64 (2 ^ 39) (fun a b => 5 * 2 ^ 60 + a * 2 ^ 54 + 2 ^ 39 + b) d x y s
  else composeOp 64 (2 ^ 48) (fun a b => sp.toNat * 2 ^ 60 + a * 2 ^ 54 + b) d x y s
/-- R238: alu.mks. -/
def execAluMks (d : ADst) (x y : ASrc) (sp : BitVec 4) (s : State) : Host.Outcome State Fault Refusal :=
  if sp = 6 then composeOp 1 (2 ^ 12) (fun _ b => 6 * 2 ^ 60 + b) d x y s
  else composeOp (2 ^ 20) 1 (fun a _ => sp.toNat * 2 ^ 60 + a * 2 ^ 40) d x y s

/-! ## alui (R239) -/
/-- R239: alui.addi. -/
def execAluiAddi (d : ADst) (x : ASrc) (imm : BitVec 15) (s : State) : Host.Outcome State Fault Refusal :=
  aluiOp (fun a => a + imm.signExtend 64) d x s
/-- R239: alui.andi. -/
def execAluiAndi (d : ADst) (x : ASrc) (imm : BitVec 15) (s : State) : Host.Outcome State Fault Refusal :=
  aluiOp (fun a => a &&& imm.zeroExtend 64) d x s
/-- R239: alui.ori. -/
def execAluiOri (d : ADst) (x : ASrc) (imm : BitVec 15) (s : State) : Host.Outcome State Fault Refusal :=
  aluiOp (fun a => a ||| imm.zeroExtend 64) d x s
/-- R239: alui.xori. -/
def execAluiXori (d : ADst) (x : ASrc) (imm : BitVec 15) (s : State) : Host.Outcome State Fault Refusal :=
  aluiOp (fun a => a ^^^ imm.zeroExtend 64) d x s
/-- R239: alui.slli. -/
def execAluiSlli (d : ADst) (x : ASrc) (sh : BitVec 6) (s : State) : Host.Outcome State Fault Refusal :=
  aluiOp (fun a => a <<< sh.toNat) d x s
/-- R239: alui.srli. -/
def execAluiSrli (d : ADst) (x : ASrc) (sh : BitVec 6) (s : State) : Host.Outcome State Fault Refusal :=
  aluiOp (fun a => a >>> sh.toNat) d x s
/-- R239: alui.srai. -/
def execAluiSrai (d : ADst) (x : ASrc) (sh : BitVec 6) (s : State) : Host.Outcome State Fault Refusal :=
  aluiOp (fun a => a.sshiftRight sh.toNat) d x s
/-- R239: alui.slti. -/
def execAluiSlti (d : ADst) (x : ASrc) (imm : BitVec 15) (s : State) : Host.Outcome State Fault Refusal :=
  aluiOp (fun a => sltW a (imm.signExtend 64)) d x s

end Sys2Proof.Machine
end

