-- ==== Sys2Proof/Machine/Mem.lean ====
section
/-! DEFINITION. Pointer checks, loads, stores and the page walk of an extent (spec/14 R242 to R246), and the reads of engine
registers (spec/02 R33 to R37). -/

namespace Sys2Proof.Machine

/-! ## Pointer checks (R243) -/

/-- What a checked pointer names. -/
inductive Target where
  | own (off : Nat)
  | mesh (home off : Nat) (cached : Bool)
  | ext (k off : Nat)
  | reg (off : Nat)
deriving DecidableEq, Repr

/-- May a hart dereference a space with mem (R8, R42)? -/
def mayUse (h sp : Nat) : Bool := sp == 0 || sp == 1 || sp == 2 || (sp == 4 && isChannel h) || (sp == 6 && isCompute h)

/-- Are the pointer's reserved fields zero (R42)? -/
def reservedZero (p : Word) : Bool :=
  match spaceOf p with
  | 0 => p.toNat % 2 ^ 60 / 2 ^ 18 == 0
  | 1 => p.toNat % 2 ^ 40 / 2 ^ 18 == 0
  | 2 => p.toNat % 2 ^ 40 / 2 ^ 18 == 0
  | 4 => p.toNat % 2 ^ 54 / 2 ^ 48 == 0
  | _ => p.toNat % 2 ^ 60 / 2 ^ 12 == 0

/-- The offset field that alignment is checked on. -/
def ptrOff (p : Word) : Nat :=
  match spaceOf p with
  | 4 => extOff p
  | 6 => p.toNat % 2 ^ 12
  | _ => offOf p

/-- Is an offset in the map of R33? -/
def regMapped (off : Nat) : Bool :=
  off == 0x000 || off == 0x008 || off == 0x010 || (decide (0x040 ≤ off) && decide (off ≤ 0x078)) ||
  (decide (0x080 ≤ off) && decide (off ≤ 0x0f8)) || off == 0x100 || off == 0x108 || off == 0x110

/-- Is it a kick register? -/
def isKick (off : Nat) : Bool := off == 0x000 || off == 0x100

/-- A precise refusal. -/
def pfault (code : BitVec 16) (d : BitVec 12) (p : Word) : Except FaultInfo Target := .error ⟨code, d, p⟩

/-- The checks of R243 that an issuing hart makes on an access of n bytes, in order: the target, or the fault. store says
that it writes, release that a store is a release, mem that spaces 0x4 and 0x6 are allowed. -/
def checkPointer (s : State) (p : Word) (n : Nat) (szc : BitVec 12) (store release mem : Bool) : Except FaultInfo Target :=
  let h := curHart s
  let sp := spaceOf p
  let off := ptrOff p
  let idx := indexOf p
  let isOwn := sp == 0 || idx == h
  if !(mayUse h sp && (mem || decide (sp < 4))) then pfault codeSpace (BitVec.ofNat 12 sp) p
  else if !reservedZero p then pfault codeSpace (BitVec.ofNat 12 sp) p
  else if off % n ≠ 0 ∨ (sp = 6 ∧ n ≠ 8) then pfault codeAlign szc p
  else if sp < 4 then
    if (if isOwn then ownBytes h else Config.scratchBytes) < off + n then pfault codeBounds 0x0b0 p
    else if sp ≠ 0 ∧ (Config.nCompute ≤ idx ∨ inPlat s (curLaunch s) idx = false) then pfault codeBounds 0x0b1 p
    else if isOwn then
      if curTouchesRing s off n || (store && curTouchesLinks s off n) then pfault codeBounds 0x0b3 p
      else .ok (.own off)
    else .ok (.mesh idx off (sp == 1 && isCompute h))
  else if sp = 4 then
    let k := extOf p
    match (launchOf s (curLaunch s)).bind fun l => l.extent k with
    | none => pfault codeBounds 0x0b4 p
    | some e =>
      if e.len < off + n || !e.rights.getLsbD (if store then 1 else 0) then pfault codeBounds 0x0b4 p
      else if pseudoChannel (e.base + off) ≠ h - Config.nCompute then pfault codeBounds 0x0b5 p
      else .ok (.ext k off)
  else if !regMapped off then pfault codeBounds 0x0b6 p
  else if store && !isKick off then pfault codeReserved 0x400 p
  else if store && !release then pfault codeQueueMisuse 0x002 p
  else .ok (.reg off)

/-- The checks as part of a word: a failure is precise. -/
def checked (p : Word) (n : Nat) (szc : BitVec 12) (store release mem : Bool) : Op Target := fun s =>
  match checkPointer s p n szc store release mem with
  | .ok t => .ok (t, s)
  | .error f => .error (.trap f none)

/-! ## Engine registers (R33 to R37) -/

/-- Carry entries in use by a cluster, and by one slot. -/
def Cluster.cbused (C : Cluster) : Nat := C.carries.length
def Cluster.carriesOf (C : Cluster) (a : Nat) : Nat := (C.carries.filter fun c => c.slot == a).length

/-- mxst (R34). -/
def Cluster.mxst (C : Cluster) : Word :=
  BitVec.ofNat 64 ((if C.cstall then 2 ^ 22 else 0) + C.nextId.toNat * 2 ^ 14 + C.jobs.length * 2 ^ 9 + C.cbused)
/-- mxslot of slot a (R35). -/
def Cluster.mxslot (C : Cluster) (a : Fin 8) : Word :=
  BitVec.ofNat 64 (C.carriesOf a * 2 ^ 9 + C.accs[a].oslot % 8 * 2 ^ 6 + C.accs[a].ocore % 8 * 2 ^ 3 + (if C.accs[a].draining then 4 else C.accs[a].state))
/-- cpst (R37). -/
def Cluster.cpst (C : Cluster) : Word :=
  BitVec.ofNat 64 (C.cpNextId.toNat * 2 ^ 8 + (C.cpq.toList.map List.length).sum)

/-- The register at an offset of space 0x6; the kick registers read zero. -/
def engineReg (s : State) (off : Nat) : Word :=
  let C := clusterOf s (clusterOfCore (curHart s))
  if off = 0x008 then C.mxst
  else if off = 0x010 then C.own.zeroExtend 64
  else if 0x040 ≤ off ∧ off ≤ 0x078 then C.mxslot (Fin.ofNat 8 ((off - 0x040) / 8))
  else if 0x080 ≤ off ∧ off ≤ 0x0f8 then ((C.jobs[(off - 0x080) / 8]?).map (·.desc)).getD 0
  else if off = 0x108 then C.cpst
  else if off = 0x110 then (if (curCap s).any (·.cpmode) then 1 else 0)
  else 0

/-! ## What a load delivers -/

/-- The value of n loaded bytes for a register (R242). -/
def loadValue (signed : Bool) (bs : List Byte) : Word :=
  let v := leValue bs
  if bs.length = 64 then BitVec.ofNat 64 v
  else if signed then BitVec.ofInt 64 (signedOf (8 * bs.length) v) else BitVec.ofNat 64 v

/-- The SZ code of a count of bytes. -/
def sizeTag (n : Nat) (signed : Bool) : BitVec 4 :=
  let t : BitVec 4 := if n = 1 then 0 else if n = 2 then 1 else if n = 4 then 2 else if n = 8 then 3 else 4
  if signed then t ||| 8 else t

/-- The queue entry of loaded bytes (R102, R242). -/
def loadEntry (signed : Bool) (bs : List Byte) : QEntry := ⟨vecOf bs, sizeTag bs.length signed⟩

/-- Loaded bytes written to a destination at once. -/
def writeLoaded (d : ADst) (signed : Bool) (bs : List Byte) : Op Unit :=
  match d with
  | .lq k => do
    pushLq k (.filled (loadEntry signed bs))
    noteResult (foldVec (vecOf bs))
  | d => writeA d (loadValue signed bs)

/-- A destination taken for an operation in flight: a queue entry reserved, a register pending (R103, R244). -/
def reserve (d : ADst) (id : Nat) : Op Unit :=
  match d with
  | .lq k => pushLq k (.reserved id)
  | d => notPending d

/-- A scoreboard entry of a load or an atomic that returns (R28). -/
def addPending (kind : Nat) (d : ADst) (p : Word) (it : NetItem) : Op Unit := do
  needSb 1
  reserve d it.id
  addSb { SbEntry.plain it.id kind (infoOf p) with destCode := dstCode d, dst := some d, item := some it }

/-! ## Kinds of mem accesses (R83) -/

def loadKind : Ord → OpKind
  | .acq | .sc => .ldA
  | _ => .ld
def storeKind : Ord → OpKind
  | .rel | .sc => .stR
  | _ => .st

/-- The scope at which the current hart's operation of a named scope is performed (R97). The home of an extent is the channel
core's own checker, and that of an engine register the cluster. -/
def pinnedHere (s : State) (sc : Scope) (home : Nat) : Scope :=
  if 2 ^ 21 ≤ home then (if sc = .core then .cluster else sc)
  else if 2 ^ 20 ≤ home then sc
  else pinned s (curHart s) (curLaunch s) sc home

/-- An access as the matrices read it. -/
def accessDesc (s : State) (k : OpKind) (ord : Ord) (sc : Scope) (home off n : Nat) (sp : Nat) : OpDesc :=
  { kinds := [k], scope := pinnedHere s sc home, sc := ord == .sc, loc := ⟨home, off, n⟩, space2 := sp == 2 }

/-! ## Loads (R242, R244) -/

/-- Is a line of core h on its way to its home (R54)? -/
def inFlight (s : State) (h home off : Nat) : Bool :=
  s.net.any fun it => it.src.hart == h && (match it.op with
    | .flush m o _ => m == home && o == off / 64 * 64
    | _ => false)

/-- Is a sector of cluster c's L2 dirty: does a coalesced line of one of its cores, homed outside it, stand between L1 and its
home (R52, R54)? -/
def l2Dirty (s : State) (c k : Nat) : Bool :=
  s.net.any fun it => isCompute it.src.hart && clusterOfCore it.src.hart == c && clusterOfCore (keyHome k) != c && (match it.op with
    | .flush m o _ => lineKey m o == k
    | _ => false)

/-! ### Evictions (R52, R53, R55; log 62) -/

/-- The line of core h's L1 evicted: its coalesced bytes go to the home, a U copy is combined there, and the line is invalid. -/
def evictL1 (L h : Nat) (s : State) (k : Nat) : State :=
  let t := flushLine L h k s
  let l := (hartOf t h).line k
  let u := if l.ucls.isSome then modHome t L (keyHome k) fun c => combineU c (keyOff k) l else t
  putHart u h ((hartOf u h).putLine k L1Line.reset)

/-- A line of cluster c's L2 evicted: it is first invalidated in each L1 of the cluster (R55). -/
def evictL2 (L c k2 : Nat) (s : State) : State :=
  let ks := (upFrom 0 4).map (4 * k2 + ·)
  let t := (coresOfCluster c).foldl (fun t h => (ks.filter fun k => (SMap.find k (hartOf t h).l1).isSome).foldl (evictL1 L h) t) s
  putCluster t c { clusterOf t c with l2 := SMap.erase k2 (clusterOf t c).l2 }

/-- Room for a line in the L2 of cluster c, 16 ways of its set (R52), and the line there. -/
def l2Alloc (L c k2 : Nat) (s : State) : State :=
  let C := clusterOf s c
  if (SMap.find k2 C.l2).isSome then s
  else
    let same := (C.l2.filter fun x => l2Set x.1 == l2Set k2).map (·.1)
    let t := if same.length < 16 then s
      else
        match same[Config.freeChoice s.fresh % same.length]? with
        | some v => evictL2 L c v { s with fresh := s.fresh + 1 }
        | none => s
    putCluster t c { clusterOf t c with l2 := SMap.set k2 L2Line.reset (clusterOf t c).l2 }

/-- Room for a line in core h's L1, 10 ways of its set, and, for a line homed outside the cluster, in its L2 (R52, R55). -/
def l1Alloc (L h k : Nat) (s : State) : State :=
  let c := clusterOfCore h
  let t := if clusterOfCore (keyHome k) = c then s else l2Alloc L c (l2Key k) s
  let H := hartOf t h
  let same := (H.l1.filter fun x => l1Set x.1 == l1Set k).map (·.1)
  if (SMap.find k H.l1).isSome || decide (same.length < 10) then t
  else
    match same[Config.freeChoice t.fresh % same.length]? with
    | some v => evictL1 L h { t with fresh := t.fresh + 1 } v
    | none => t

/-- A line that core h's L1 or its cluster's L2 can serve without the home: n bytes at an offset (R52 to R55, R61). -/
def cacheHit (s : State) (h home off n : Nat) : Option (List Byte) :=
  let k := lineKey home off
  let l := (hartOf s h).line k
  let data : Option Vec := match l.shared with
    | some v => some v
    | none => if (upFrom (off % 64) n).all (fun i => l.dirty.getLsbD i) then some l.ddata
        else if clusterOfCore h == clusterOfCore home then none
        else (clusterOf s (clusterOfCore h)).sector k
  if l.ucls.isSome || inFlight s h home off then none
  else data.map fun v => (upFrom (off % 64) n).map (vecByte (overStores v l.stores))

/-- A load that misses in core h's L1 and is served by its cluster's L2 leaves the line in L1, shared (R53, R55). -/
def fillFromL2 (L h home off : Nat) (s : State) : State :=
  let k := lineKey home off
  if ((hartOf s h).line k).shared.isSome || clusterOfCore h == clusterOfCore home then s
  else
    match (clusterOf s (clusterOfCore h)).sector k with
    | some v =>
      let t := l1Alloc L h k s
      putHart t h ((hartOf t h).putLine k { (hartOf t h).line k with shared := some v })
    | none => s

/-- Room in a channel core's request queue (R132). -/
def needRequest : Op Unit := fun s =>
  let n := (s.net.filter fun it => it.src.hart == curHart s && (match it.op with
    | .extLoad _ _ _ => true
    | .extStore _ _ => true
    | _ => false)).length
  if 64 ≤ n then .error (.wait .room none) else .ok ((), s)

/-- Does an earlier store of the current slot, on its way to the checker, write the whole granule of an extent's offset, and so clear
its poison before a load that is kept after it (R59, R82)? -/
def clearedBefore (s : State) (k off : Nat) : Bool :=
  s.net.any fun it => it.src == curIssuer s && (match it.op with
    | .extStore p bs => bs.length == 64 && extOf p == k && extOff p / 64 == off / 64
    | _ => false)

/-- mem.ld and mem.ldu (R242). -/
def loadOp (signed : Bool) (d : ADst) (base : ASrc) (sz : Size) (ord : Ord) (sc : Scope) (off : BitVec 7) : Op Unit := do
  let b ← readA base
  let n := sizeBytes sz
  let p := b + off.signExtend 64 * BitVec.ofNat 64 n
  let t ← checked p n (sizeCode sz) false false true
  let s ← get
  let h := curHart s
  let sp := spaceOf p
  match t with
  | .own o => do
    inOrder (accessDesc s (loadKind ord) ord sc h o n sp)
    let bs ← ownBytesAt o n
    writeLoaded d signed bs
  | .mesh home o cached => do
    let desc := accessDesc s (loadKind ord) ord sc home o n sp
    match (if cached then cacheHit s h home o n else none) with
    | some bs => do
      passOrder desc (coalesced s h)
      modState fun t => fillFromL2 (curLaunch t) h home o t
      writeLoaded d signed bs
    | none => do
      let it ← issue false (.load p n signed (!cached)) desc (if cached then coalesced s h else [])
      addPending 2 d p it
  | .ext k o => do
    stopSome ((launchOf s (curLaunch s)).bind fun l => l.extent k) (fun e =>
      stopIf (extentPoisoned s e o n && !clearedBefore s k o) (trapFree codeUncorrectable p))
    needRequest
    let it ← issue false (.extLoad p n signed) (accessDesc s (loadKind ord) ord sc (extHome k) o n sp) []
    addPending 2 d p it
  | .reg o => do
    inOrder (accessDesc s (loadKind ord) ord sc (regHome h) o n sp)
    writeLoaded d signed (leBytes (engineReg s o).toNat n)

/-- R242: mem.ld. -/
def execMemLd (d : ADst) (base : ASrc) (sz : Size) (ord : Ord) (sc : Scope) (off : BitVec 7) (s : State) :
    Host.Outcome State Fault Refusal := plainA (loadOp true d base sz ord sc off) s
/-- R242: mem.ldu. -/
def execMemLdu (d : ADst) (base : ASrc) (sz : Size) (ord : Ord) (sc : Scope) (off : BitVec 7) (s : State) :
    Host.Outcome State Fault Refusal := plainA (loadOp false d base sz ord sc off) s

/-! ## Stores (R242, R244) -/

/-- The n bytes that a store's data field gives: an sq entry's valid bytes, zero beyond, or a register's low bytes. -/
def storeData (d : ASrc) (n : Nat) : Op (List Byte) :=
  match d with
  | .sq q => do
    match (← getSlot).sq[q] with
    | [] => waitFor (.popSq q)
    | e :: es => do
      modSlot fun σ => { σ with sq := σ.sq.set q es }
      return leBytes e.vector.toNat n
  | d => do return leBytes (← readA d).toNat n

/-- A plain store coalesced in the current core's L1 (R54): its own S copy goes, and it waits for an earlier load of the
slot from the same bytes. -/
def coalesce (p : Word) (home off : Nat) (bs : List Byte) (d : OpDesc) : Op Unit := do
  passOrder d (coalesced (← get) (curHart (← get)))
  modState fun t0 =>
    let h := curHart t0
    let k := lineKey home off
    let t := l1Alloc (curLaunch t0) h k t0
    let id := t.nextId
    let H := hartOf t h
    let l := H.line k
    let l1 : L1Line :=
      { l with
        shared := none
        stores := l.stores ++ [⟨id, p, bs⟩]
        since := if l.stores.isEmpty then t.cycle else l.since }
    putHart { t with nextId := id + 1 } h { H.putLine k l1 with out := H.out ++ [d.out id (curNum t) (curSlot t).act] }

/-- The bytes of a store, whose fingerprint is taken (R199). -/
def storedBytes (d : ASrc) (n : Nat) : Op (List Byte) := do
  let bs ← storeData d n
  noteResult (foldVec (vecOf bs))
  return bs

/-- mem.st (R242); kick says what a store to a kick register does (R33). -/
def storeOp (kick : Engine → ASrc → OpDesc → Op Unit) (d base : ASrc) (sz : Size) (ord : Ord) (sc : Scope) (off : BitVec 7) :
    Op Unit := do
  let b ← readA base
  let n := sizeBytes sz
  let p := b + off.signExtend 64 * BitVec.ofNat 64 n
  let t ← checked p n (sizeCode sz) true (storeKind ord == .stR) true
  let s ← get
  let h := curHart s
  let sp := spaceOf p
  match t with
  | .own o => do
    let bs ← storedBytes d n
    stopSome ((curCtx s).writeRefused h o n) (fun c => trapAt codeQueueMisuse c p)
    let desc := accessDesc s (storeKind ord) ord sc h o n sp
    inOrder desc
    modState fun t => releasePush (curLaunch t) (curHart t) desc t
    ownWrite p o bs
  | .mesh home o cached => do
    let bs ← storedBytes d n
    let desc := accessDesc s (storeKind ord) ord sc home o n sp
    if cached && storeKind ord == .st && !(curSlot s).paired then coalesce p home o bs desc
    else do
      let _ ← issue true (.store p bs) desc []
  | .ext k o => do
    let bs ← storedBytes d n
    stopIf (((curCtx s).unit.line (extLinePtr k o)).isSome) (trapAt codeQueueMisuse 0x012 p)
    needRequest
    let _ ← issue false (.extStore p bs) (accessDesc s (storeKind ord) ord sc (extHome k) o n sp) []
  | .reg o => kick (if o = 0 then .mxe else .cpe) d (accessDesc s .stR ord sc (regHome h) o n sp)

/-! ## Walking the pages of an extent (R246) -/

/-- The least page of an extent, from offset o up and below len, that lies on pseudo-channel q. -/
def nextPage (base q : Nat) : Nat → Nat → Option Nat
  | 0, _ => none
  | n + 1, o => if pseudoChannel (base + o) = q then some o else nextPage base q n (o + 4096)

/-- mem.extpage (R246). -/
def extpageOp (d : ADst) (base : ASrc) : Op Unit := do
  let p ← readA base
  let s ← get
  let h := curHart s
  stopIf (!isChannel h) (trapAt codeSpace 0x4 p)
  stopIf (spaceOf p ≠ 4) (trapAt codeSpace (BitVec.ofNat 12 (spaceOf p)) p)
  let k := extOf p
  let c := SMap.getD (curCtx s).checkers k ⟨false, 0, 0⟩
  match (launchOf s (curLaunch s)).bind fun l => l.extents[k]? with
  | none => trapAt codeBounds 0x0b4 p
  | some e => do
    stopIf ((curCap s).all (fun cap => decide (cap.next ≤ k)) || !c.valid) (trapAt codeBounds 0x0b4 p)
    let from' := (c.cursor + 4095) / 4096 * 4096
    let put (cur : Nat) : Op Unit := modState fun t =>
      putCurCtx t { curCtx t with checkers := SMap.set k { c with cursor := cur } (curCtx t).checkers }
    match nextPage e.base (h - Config.nCompute) ((e.len + 4095 - from') / 4096) from' with
    | some o => do
      put (o + 4096)
      writeA d (BitVec.ofNat 64 (4 * 2 ^ 60 + k * 2 ^ 54 + o))
    | none => do
      put e.len
      writeA d (~~~0)

/-- R246: mem.extpage. -/
def execMemExtpage (d : ADst) (base : ASrc) (s : State) : Host.Outcome State Fault Refusal := plainA (extpageOp d base) s

end Sys2Proof.Machine
end

