-- ==== Sys2Proof/Machine/Amo.lean ====
section
/-! DEFINITION. The commutative atomics (spec/14 R247 R248, spec/03 R53, spec/04 R78). -/

namespace Sys2Proof.Machine

/-- The SZ code of an element (R243). -/
def elemCode (n : Nat) : BitVec 12 := if n = 8 then 3 else if n = 4 then 2 else 1

/-- The kinds of an amo under its ORD (R83). -/
def amoKinds : Ord → List OpKind
  | .plain => [.amo]
  | .acq => [.amo, .ldA]
  | .rel => [.amo, .stR]
  | .sc => [.amo, .ldA, .stR]

/-- An amo as the matrices read it. -/
def amoDesc (s : State) (ord : Ord) (sc : Scope) (home off n sp : Nat) : OpDesc :=
  { kinds := amoKinds ord, scope := pinnedHere s sc home, sc := ord == .sc, loc := ⟨home, off, n⟩, space2 := sp == 2 }

/-! ## At the home -/

/-- Where an amax update of a ply goes at a home (R248): the context with it in CLOSED or OPEN, or nothing while the ply is
ahead of the home's. -/
def placeAmax (c : Ctx) (off : Nat) (op : AmoOp) (t : Nat) (ply : BitVec 16) : Option Ctx :=
  let n := amoSize op
  if ply = c.ply then
    some { c with amaxOpen := SMap.modify c.amaxOpen (openKey op off) 0 fun x => BitVec.ofNat 64 (amoApply op x.toNat t) }
  else if plyBefore ply c.ply then some (c.putElem off n (amoApply op (Memory.readN c.scratch off n) t))
  else none

/-- Is it an amax class? -/
def isAmax (op : AmoOp) : Bool := op == .amax || op == .amaxb

/-- An amo performed at its home: every U copy is recalled first and every S copy invalidated (R53). Answers the old
element and the state; an amax update ahead of the home's ply is left to the caller. -/
def amoAtHome (s : State) (L home off : Nat) (op : AmoOp) (t : Nat) (ply : BitVec 16) : Option (Nat × State) :=
  let s1 := recallU s L home off
  let c := ctxOf s1 home L
  let n := amoSize op
  let old := Memory.readN c.scratch off n
  if isAmax op then
    (placeAmax c off op t ply).map fun _ => (old, invalidateHome (modHome s1 L home fun d => (placeAmax d off op t ply).getD d) L home off)
  else some (old, invalidateHome (modHome s1 L home fun d => d.putElem off n (amoApply op old t)) L home off)

/-- The maximum at the stamp cut read and reset (R78): the element holds the CLOSED partial of the home once the copies
have been recalled. -/
def maxrdAtHome (s : State) (L home off n : Nat) : Nat × State :=
  let s1 := recallU s L home off
  let c := ctxOf s1 home L
  (Memory.readN c.scratch off n, invalidateHome (modHome s1 L home fun d => d.putElem off n 0) L home off)

/-! ## At the issuer -/

/-- The L1 line with an update of its class combined in (R53). -/
def L1Line.combine (l : L1Line) (op : AmoOp) (i t : Nat) : L1Line :=
  let n := amoSize op
  let old := if l.umask.getLsbD i then vecElem l.udata i n else amoIdentity op
  { l with udata := vecPutElem l.udata i n (amoApply op old t), umask := l.umask ||| byteMask i n }

/-- A form without return, combined in the issuer's U copy (R53, R247): a line that is not yet held in U for the class is
taken after a recall of the U copies of other classes. What the home would refuse is delivered late. -/
def combineHere (p : Word) (home off : Nat) (op : AmoOp) (t : Nat) : Op Unit := modState fun s =>
  let h := curHart s
  let L := curLaunch s
  let k := lineKey home off
  match homeRefuses s L home off (amoSize op) p with
  | some f => lateFault s (curIssuer s) none f
  | none =>
    let u :=
      if ((hartOf s h).line k).ucls = some op then s
      else l1Alloc L h k (invalidate (recallWhere (· != op) s L home off) home off)
    let l := (hartOf u h).line k
    putHart u h ((hartOf u h).putLine k ({ l with shared := none, ucls := some op }.combine op (off % 64) t))

/-- An amo of R247. -/
def amoOp (op : AmoOp) (d : ADst) (x y : ASrc) (ord : Ord) (sc : Scope) : Op Unit := do
  let p ← readA x
  let t ← readA y
  let n := amoSize op
  let tgt ← checked p n (elemCode n) true false false
  noteResult t
  let s ← get
  let h := curHart s
  let ply := (curCtx s).ply
  match tgt with
  | .own o => do
    stopSome ((curCtx s).writeRefused h o n) (fun c => trapAt codeQueueMisuse c p)
    agreeFirst
    let desc := amoDesc s ord sc h o n (spaceOf p)
    inOrder desc
    modState fun t => releasePush (curLaunch t) (curHart t) desc t
    let s ← get
    match amoAtHome s (curLaunch s) h o op t.toNat ply with
    | some (old, u) => do
      modState fun _ => u
      writeA d (amoReturn op old)
    | none => pure ()
  | .mesh home o cached => do
    let desc := amoDesc s ord sc home o n (spaceOf p)
    if d = .z then
      if cached && !(curSlot s).paired && owned s (curLaunch s) home then do
        inOrder desc
        modState fun t => releasePush (curLaunch t) (curHart t) desc t
        combineHere p home o op t.toNat
      else do
        let _ ← issue true (.amo p op t ply) desc []
    else do
      agreeFirst
      let it ← issue false (.amo p op t ply) desc []
      addPending 2 d p it
  | _ => trapAt codeSpace (BitVec.ofNat 12 (spaceOf p)) p

/-- amo.maxrd and amo.maxrdb (R78, R247), on an element of n bytes. -/
def maxrdOp (n : Nat) (d : ADst) (x : ASrc) (ord : Ord) (sc : Scope) : Op Unit := do
  let p ← readA x
  let tgt ← checked p n (elemCode n) true false false
  let s ← get
  let h := curHart s
  let ply := (curCtx s).ply
  agreeFirst
  match tgt with
  | .own o => do
    stopSome ((curCtx s).writeRefused h o n) (fun c => trapAt codeQueueMisuse c p)
    let desc := amoDesc s ord sc h o n (spaceOf p)
    inOrder desc
    modState fun t => releasePush (curLaunch t) (curHart t) desc t
    let s ← get
    let r := maxrdAtHome s (curLaunch s) h o n
    modState fun _ => r.2
    writeA d (BitVec.ofNat 64 r.1)
  | .mesh home o _ => do
    let it ← issue false (.maxrd p n ply) (amoDesc s ord sc home o n (spaceOf p)) []
    if d ≠ .z then addPending 2 d p it
  | _ => trapAt codeSpace (BitVec.ofNat 12 (spaceOf p)) p

/-- R247: amo.add. -/
def execAmoAdd (d : ADst) (x y : ASrc) (ord : Ord) (sc : Scope) (s : State) :
    Host.Outcome State Fault Refusal := plainA (amoOp .add d x y ord sc) s
/-- R247: amo.and. -/
def execAmoAnd (d : ADst) (x y : ASrc) (ord : Ord) (sc : Scope) (s : State) :
    Host.Outcome State Fault Refusal := plainA (amoOp .and d x y ord sc) s
/-- R247: amo.or. -/
def execAmoOr (d : ADst) (x y : ASrc) (ord : Ord) (sc : Scope) (s : State) :
    Host.Outcome State Fault Refusal := plainA (amoOp .or d x y ord sc) s
/-- R247: amo.xor. -/
def execAmoXor (d : ADst) (x y : ASrc) (ord : Ord) (sc : Scope) (s : State) :
    Host.Outcome State Fault Refusal := plainA (amoOp .xor d x y ord sc) s
/-- R247: amo.max. -/
def execAmoMax (d : ADst) (x y : ASrc) (ord : Ord) (sc : Scope) (s : State) :
    Host.Outcome State Fault Refusal := plainA (amoOp .max d x y ord sc) s
/-- R247: amo.min. -/
def execAmoMin (d : ADst) (x y : ASrc) (ord : Ord) (sc : Scope) (s : State) :
    Host.Outcome State Fault Refusal := plainA (amoOp .min d x y ord sc) s
/-- R247: amo.maxu. -/
def execAmoMaxu (d : ADst) (x y : ASrc) (ord : Ord) (sc : Scope) (s : State) :
    Host.Outcome State Fault Refusal := plainA (amoOp .maxu d x y ord sc) s
/-- R247: amo.minu. -/
def execAmoMinu (d : ADst) (x y : ASrc) (ord : Ord) (sc : Scope) (s : State) :
    Host.Outcome State Fault Refusal := plainA (amoOp .minu d x y ord sc) s
/-- R247: amo.addw. -/
def execAmoAddw (d : ADst) (x y : ASrc) (ord : Ord) (sc : Scope) (s : State) :
    Host.Outcome State Fault Refusal := plainA (amoOp .addw d x y ord sc) s
/-- R247: amo.andw. -/
def execAmoAndw (d : ADst) (x y : ASrc) (ord : Ord) (sc : Scope) (s : State) :
    Host.Outcome State Fault Refusal := plainA (amoOp .andw d x y ord sc) s
/-- R247: amo.orw. -/
def execAmoOrw (d : ADst) (x y : ASrc) (ord : Ord) (sc : Scope) (s : State) :
    Host.Outcome State Fault Refusal := plainA (amoOp .orw d x y ord sc) s
/-- R247: amo.xorw. -/
def execAmoXorw (d : ADst) (x y : ASrc) (ord : Ord) (sc : Scope) (s : State) :
    Host.Outcome State Fault Refusal := plainA (amoOp .xorw d x y ord sc) s
/-- R247: amo.maxw. -/
def execAmoMaxw (d : ADst) (x y : ASrc) (ord : Ord) (sc : Scope) (s : State) :
    Host.Outcome State Fault Refusal := plainA (amoOp .maxw d x y ord sc) s
/-- R247: amo.minw. -/
def execAmoMinw (d : ADst) (x y : ASrc) (ord : Ord) (sc : Scope) (s : State) :
    Host.Outcome State Fault Refusal := plainA (amoOp .minw d x y ord sc) s
/-- R247: amo.maxuw. -/
def execAmoMaxuw (d : ADst) (x y : ASrc) (ord : Ord) (sc : Scope) (s : State) :
    Host.Outcome State Fault Refusal := plainA (amoOp .maxuw d x y ord sc) s
/-- R247: amo.minuw. -/
def execAmoMinuw (d : ADst) (x y : ASrc) (ord : Ord) (sc : Scope) (s : State) :
    Host.Outcome State Fault Refusal := plainA (amoOp .minuw d x y ord sc) s
/-- R78, R247: amo.amax. -/
def execAmoAmax (x y : ASrc) (ord : Ord) (sc : Scope) (s : State) :
    Host.Outcome State Fault Refusal := plainA (amoOp .amax .z x y ord sc) s
/-- R78, R247: amo.amaxb. -/
def execAmoAmaxb (x y : ASrc) (ord : Ord) (sc : Scope) (s : State) :
    Host.Outcome State Fault Refusal := plainA (amoOp .amaxb .z x y ord sc) s
/-- R78, R247: amo.maxrd. -/
def execAmoMaxrd (d : ADst) (x : ASrc) (ord : Ord) (sc : Scope) (s : State) :
    Host.Outcome State Fault Refusal := plainA (maxrdOp 4 d x ord sc) s
/-- R78, R247: amo.maxrdb. -/
def execAmoMaxrdb (d : ADst) (x : ASrc) (ord : Ord) (sc : Scope) (s : State) :
    Host.Outcome State Fault Refusal := plainA (maxrdOp 2 d x ord sc) s

end Sys2Proof.Machine
end

