-- ==== Sys2Proof/Machine/Flags.lean ====
section
/-! DEFINITION. The sticky flags of est and the rounding mode (spec/02 R25, spec/09 R168). -/

namespace Sys2Proof.Machine

/-- The conditions as bits NV DZ OF UF NX of est. -/
def Fl.bits (f : Fl) : BitVec 5 :=
  BitVec.ofNat 5 ((if f.nv then 16 else 0) + (if f.dz then 8 else 0) + (if f.of then 4 else 0) + (if f.uf then 2 else 0) +
    (if f.nx then 1 else 0))

/-- The slot with the conditions of a retired word set in est; the flags are sticky. -/
def Slot.raise (σ : Slot) (f : Fl) : Slot := { σ with flags := σ.flags ||| f.bits, sat := σ.sat || f.sat }

/-- The sticky flags of a retiring word (R25, R260). -/
def setFlags (f : Fl) : Op Unit := modSlot fun σ => σ.raise f

/-- The rounding mode est.RM. -/
def roundMode : Op Nat := do return (← getSlot).rm.toNat

/-- A bit of a register. -/
def bitOf (b : Bool) : BitVec 1 := if b then 1 else 0

/-- est as software reads it (R25): FMTSAVE, PP, 15 zeros, SAT, a zero, RM, 7 zeros and the flags. -/
def Slot.est (σ : Slot) : Word :=
  σ.eFmtsave ++ bitOf σ.ePP ++ (0 : BitVec 15) ++ bitOf σ.sat ++ (0 : BitVec 1) ++ σ.rm ++ (0 : BitVec 7) ++ σ.flags

/-- ast as software reads it (R23): FMTSAVE, PP, INTRAP, PRI, CHAN, DET, PAIRED, RSD, 4 zeros and BUDLEFT. -/
def Slot.ast (σ : Slot) : Word :=
  σ.aFmtsave ++ bitOf σ.aPP ++ bitOf σ.inTrap ++ σ.pri ++ σ.chan ++ bitOf σ.det ++ bitOf σ.paired ++
    BitVec.ofNat 4 σ.rs.length ++ (0 : BitVec 4) ++ σ.budleft

/-- est with its RW fields written (R25). -/
def Slot.setEst (σ : Slot) (w : Word) : Slot :=
  { σ with eFmtsave := w.extractLsb' 32 32, ePP := w.getLsbD 31, sat := w.getLsbD 15, rm := w.extractLsb' 12 2,
           flags := w.extractLsb' 0 5 }
/-- ast with its RW fields written (R23). -/
def Slot.setAst (σ : Slot) (w : Word) : Slot := { σ with aFmtsave := w.extractLsb' 32 32, aPP := w.getLsbD 31 }

end Sys2Proof.Machine
end

