-- ==== Sys2Proof/Machine/Fetch.lean ====
section
/-! DEFINITION. Fetching: the bundle at an index of a launch's code, the words of the two sides of a slot, and placing a
bundle where the next step fetches (spec/12 R205 R206, spec/13 R224). -/

namespace Sys2Proof.Machine

/-- Bundle b of launch L's code; a bundle that the code does not list is zero (R145). -/
def bundleAt (s : State) (L b : Nat) : Word :=
  match launchOf s L with
  | some l => SMap.getD l.code b 0
  | none => 0

/-- The fault of a word that fails R221. -/
def decodeFaultInfo : DecodeFault → FaultInfo
  | .illegal d => ⟨codeIllegal, BitVec.ofNat 12 d, 0⟩
  | .reserved d => ⟨codeReserved, BitVec.ofNat 12 d, 0⟩

/-- The row of sys.resume that ACT of its S operand selects (R307). -/
noncomputable def actOf (src t : ASrc) (s : State) : Instr :=
  match readA src s with
  | .ok (w, _) =>
    match (w.extractLsb' 0 2).toNat with
    | 1 => .sysResumeRedo src t
    | 2 => .sysResumeDiscard src t
    | 3 => .sysResumeComplete src t
    | _ => .sysResumeReturn src t
  | .error _ => .sysResumeReturn src t

/-- The instruction of a decoded C-word in a state: sys.resume is four rows by ACT. -/
noncomputable def refine (i : Instr) (s : State) : Instr :=
  match i with
  | .sysResumeReturn src t => actOf src t s
  | j => j

/-- The C-word that the current slot's A-side runs next. -/
noncomputable def nextC (s : State) : Dec Instr :=
  match decodeC (bundleAt s (curLaunch s) (curSlot s).pc).toNat with
  | .ok i => .ok (refine i s)
  | .error f => .error f

/-- The X-word of bundle b; the second word of a lone bundle is an immediate and acts as nop.x (R106, R206). -/
noncomputable def nextX (s : State) (b : Nat) : Dec Instr :=
  let w := (bundleAt s (curLaunch s) b).toNat
  if isLone w then .ok .nopX else decodeX (w / 2 ^ 32)

/-- A handler record for a placed word: its entry bundle is b, its window is empty. -/
def plainHandler (b : Nat) : Handler :=
  { v := true, det := false, rwin := 7, bcls := 0, pri := 0, entry := b, stklen := 0, stkbase := 0 }

/-- A capsule of one cluster with the longest code window, budgets of one unit and no regions. -/
def plainCapsule : Capsule :=
  { hdr := (((((Vector.replicate 32 (0 : Word)).set 0 0x314e585a00000101).set 1 0x40100).set 4 0x001001001001).set 5
      0x001001001001).set 6 0x20000000
    codeId := 0, grantDig := 0, chain := Vector.replicate 8 0, extents := [], args := [], origin := .launchBy 0, ranges := [],
    grantOwner := 0, bound := none, counted := false, inherited := [], replaces := [], behind := none, drained := false }

/-- The launch of that capsule on plat 0, with handler 0 and a trap handler. -/
def plainLaunch (code : SMap Word) : Launch :=
  { cap := plainCapsule, plat := 0, placedAt := 0, loaded := true, handlers := [(0, plainHandler 0), (63, plainHandler 1)],
    code := code, extents := [], pending := none, cancelled := false, preempting := false, units := [],
    regime := false, regimeNext := none, lastDigest := none, digests := [], halted := false, idleSince := none }

/-- The slot of a started activation of handler 0 at bundle 0. -/
def plainSlot (path : List PathEntry) : Slot :=
  { Slot.reset with running := true, act := 1, budleft := 1, path := path }

/-- A bundle placed where the current side fetches next. Where the current slot runs an activation of a placed launch, the
bundle takes the place of the one at its pc. Otherwise the module is given a plat of one cluster with a capsule whose
bundle 0 it is, started in slot 0 of core 0 (log 16). An X-word is placed in a bundle that the A-side has retired. -/
def placeBundle (s : State) (b : Word) (side : Side) : State :=
  match launchOf s (curLaunch s), (curSlot s).running with
  | some l, true =>
    let σ := curSlot s
    match side with
    | .aSide =>
      let t := putLaunch s (curLaunch s) { l with code := SMap.set σ.pc b l.code }
      { t with cur := (curHart s, curNum s, side), agenda := [] }
    | .eSide =>
      let t := putLaunch s (curLaunch s) { l with code := SMap.set (σ.ePos.getD σ.pc) b l.code }
      let path := if σ.path.isEmpty then [⟨σ.pc, false, false⟩] else σ.path
      { putCur t { σ with path := path } with cur := (curHart s, curNum s, side), agenda := [] }
  | _, _ =>
    let path : List PathEntry := match side with
      | .aSide => []
      | .eSide => [⟨0, false, false⟩]
    let σ := plainSlot path
    let pc := match side with
      | .aSide => 0
      | .eSide => 1
    let H : Hart := { (hartOf s 0).putCtx (Ctx.reset 0) with acts := 1 }
    let P : PlatEntry := { PlatEntry.reset with state := .running, defd := true, launch := some 0, h := 1, w := 1, tag := 1 }
    { s with
      harts := SMap.set 0 (H.putSlot 0 { σ with pc := pc }) s.harts
      plats := SMap.set 0 P s.plats
      launches := SMap.set 0 (plainLaunch [(0, b)]) s.launches
      cur := (0, 0, side)
      agenda := [] }

/-- The bundle that holds an instruction whose bits are w (R205): a word that no C-side decoder takes and an X-side decoder
does is an X-word beside ctl.nopc. -/
noncomputable def bundleOf (w : Nat) : Word × Side :=
  match decodeC w, decodeX (w % 2 ^ 32) with
  | .error _, .ok _ => (BitVec.ofNat 64 (w % 2 ^ 32 * 2 ^ 32), .eSide)
  | _, _ => (BitVec.ofNat 64 w, .aSide)

end Sys2Proof.Machine
end

