-- ==== Sys2Proof/Machine/Activations.lean ====
section
/-! DEFINITION. Activations: starting one in a slot, selection, the end of one, and what the cluster wait table lists
(spec/02 R18 R20 to R23 R35, spec/06 R112 R119, spec/10 R175, spec/13 R232). -/

namespace Sys2Proof.Machine

/-! ## The wait table (R175) -/

/-- Is a side blocked on the slot's own queues (R106)? -/
def Wait.onQueue : Wait → Bool
  | .popLq _ | .popSq _ | .popCq | .pushLq _ | .pushSq _ | .pushCq | .branchFull | .slipFull | .path => true
  | _ => false

/-- Has the entry or the room that a side waits for appeared (R103)? -/
def unblocked (σ : Slot) : Wait → Bool
  | .popLq k =>
    match σ.lq[k] with
    | .filled _ :: _ => true
    | _ => false
  | .popSq q => !σ.sq[q].isEmpty
  | .popCq => !σ.cq.isEmpty
  | .pushLq k => decide (σ.lq[k].length < 16)
  | .pushSq q => decide (σ.sq[q].length < 16)
  | .pushCq => decide (σ.cq.length < 8)
  | .branchFull => decide (σ.bq.length < 64)
  | .slipFull => decide (σ.path.length < 64)
  | .path => σ.ePos.isSome
  | _ => false

/-- Has what a side waits for come, as far as the slot alone shows it? -/
def Slot.resolved (σ : Slot) (w : Wait) : Bool :=
  match w with
  | .pending 0 => decide (σ.sb.length < 16)
  | .pending k => !σ.sb.any fun e => e.kind == k
  | .engine => !σ.sleeping
  | .eSide => σ.path.isEmpty && σ.eDone
  | .eEarlier => σ.path.isEmpty
  | .stream => σ.smBusy.isEmpty
  | .agree => σ.agreed
  | .done => σ.path.isEmpty && σ.eDone && σ.sb.isEmpty
  | w => unblocked σ w

/-- Do both sides wait on the slot's own queues (R106)? -/
def Slot.queueBound (σ : Slot) : Bool :=
  σ.aWait.any Wait.onQueue && (σ.ePos.isNone || σ.eWait.any fun w => w.onQueue && !σ.resolved w)

/-- Does a slot wait at step 3 of ctl.done on KIND 5 entries alone (R232)? -/
def Slot.waitsSettled (σ : Slot) : Bool :=
  σ.aWait == some .done && !σ.inTrap && σ.path.isEmpty && σ.eDone && !σ.sb.isEmpty && σ.sb.all fun e => e.kind == 5

/-- WHY of a slot whose A-side waits for what some scoreboard entries of it bring. -/
def Slot.whyEntries (σ : Slot) : Nat :=
  if σ.sb.any (fun e => e.kind == 4) then 3
  else if σ.sb.any (fun e => e.kind == 5) then 4
  else if σ.sb.any (fun e => e.kind == 2) then 5 else 0

/-- Is a send, or another operation that holds a KIND 6 entry, of the slot on its way or to be sent again (R111)? -/
def Slot.sending (σ : Slot) : Bool := σ.sb.any fun e => e.kind == 6 && !e.refused

/-- WHY of a slot: 0 where its A-side does not wait, what it waits for has come, or a send of the slot is in flight. -/
def Slot.why (σ : Slot) : Nat :=
  match σ.aWait with
  | none => 0
  | some w =>
    if σ.resolved w || σ.sending then 0
    else
      match w with
      | .engine => 2
      | .pending k => if k = 3 then 2 else if k = 4 then 3 else if k = 5 then 4 else if k = 2 then 5 else 0
      | .order => σ.whyEntries
      | .ply => 6
      | .realign _ => 7
      | .waitWord _ _ _ _ => 8
      | .done =>
        if σ.waitsSettled then 4
        else if !(σ.path.isEmpty && σ.eDone) || σ.inTrap then 0
        else σ.whyEntries
      | _ => if σ.queueBound then 1 else 0

/-- Does the word that slot σ of core h awaits differ from what ctl.wait expects (R234)? -/
def waitOver (s : State) (h : Nat) (σ : Slot) : Bool :=
  match σ.aWait with
  | some (.waitWord _ off t _) =>
    BitVec.ofNat 64 (leValue (overCommit s h off 8 ((ctxOf s h σ.ctx).read h off 8))) != t
  | _ => false

/-- WHY of slot σ of core h, its awaited word looked at. -/
def whyAt (s : State) (h : Nat) (σ : Slot) : Nat := if waitOver s h σ then 0 else σ.why

/-- Is slot σ of core h listed in the wait table? -/
def listedAt (s : State) (h : Nat) (σ : Slot) : Bool := σ.running && whyAt s h σ != 0

/-- May a side of the slot issue: it does not wait, or what it waits for has come; a late fault is taken at once (R241)? -/
def Slot.able (σ : Slot) : Bool :=
  σ.running && (!σ.late.isEmpty || σ.aWait.all σ.resolved || (σ.ePos.isSome && σ.eWait.all σ.resolved))

/-- May a side of slot σ of core h issue, its awaited word looked at? -/
def ableAt (s : State) (h : Nat) (σ : Slot) : Bool := σ.able || (σ.running && waitOver s h σ)

/-- Is a ring entry a candidate of a context (R112)? -/
def Ctx.candidate (c : Ctx) (e : RingEntry) : Bool :=
  e.state == .ready && !c.masks.getLsbD (e.header.extractLsb' 58 6).toNat

/-- The running slots of a core for a launch. -/
def slotsOf (H : Hart) (L : Nat) : List Slot := H.slots.toList.filter fun σ => σ.running && σ.ctx == L

/-- STATE of a core for one capsule: 0 idle, 1 busy, 2 waiting (R175). -/
def coreState (s : State) (h L : Nat) : Nat :=
  let H := hartOf s h
  let mine := slotsOf H L
  if mine.isEmpty then (if (H.ctx L).ring.any (fun e => (H.ctx L).candidate e) then 1 else 0)
  else if mine.any (listedAt s h) && !mine.any (ableAt s h) then 2 else 1

/-- The wait-table entry of a compute core (R175). -/
def waitEntry (s : State) (h : Nat) : Word :=
  let H := hartOf s h
  let bits (f : Slot → Nat) (w : Nat) : Nat := (upFrom 0 8).foldl (fun x n => x + f (H.slot n) * 2 ^ (w * n)) 0
  let state := match H.ctxs with
    | c :: _ => coreState s h c.launch
    | [] => 0
  let why (σ : Slot) : Nat := if σ.running then whyAt s h σ else 0
  let bit (b : Bool) : Nat := if b then 1 else 0
  BitVec.ofNat 64 (bits (fun σ => bit (listedAt s h σ)) 1 + bits (fun σ => bit (ableAt s h σ)) 1 * 2 ^ 8 + state * 2 ^ 16 + bits why 4 * 2 ^ 32)

/-! ## Arrival at the ply barrier (R257) -/

/-- The cores that hold a context of a launch. -/
def coresOf (s : State) (L : Nat) : List Nat := (s.harts.filter fun p => p.2.hasCtx L).map (·.1)

/-- Do the running slots of a core all wait at step 3 of ctl.done on KIND 5 entries alone (R232)? -/
def settledWait (H : Hart) (L : Nat) : Bool := !(slotsOf H L).isEmpty && (slotsOf H L).all Slot.waitsSettled

/-- Has a core arrived by msg.plyend, or by the wait of R232? -/
def arrivedItself (s : State) (h L : Nat) : Bool :=
  let H := hartOf s h
  (H.ctx L).arrived || settledWait H L

/-- Has a barrier of the launch begun: some core of its plat has arrived, and not by idleness? -/
def barrierBegun (s : State) (L : Nat) : Bool := (coresOf s L).any fun h => isCompute h && arrivedItself s h L

/-- Is a core counted as arrived without a msg.plyend, so that it makes no selection until the barrier completes? A core without
running slots has been idle: what became ready since waits (R257). -/
def counted (s : State) (h L : Nat) : Bool :=
  let H := hartOf s h
  !(H.ctx L).arrived && ((slotsOf H L).isEmpty || settledWait H L) && barrierBegun s L

/-! ## Starting an activation (R20, R23) -/

/-- The slot of an activation of a record, started by a message. -/
def startSlot (s : State) (h n L act : Nat) (r : Handler) (chan : Nat) (header : Word) (payload : List Word)
    (released : Bool) : Slot :=
  let cap := (launchOf s L).map (·.cap)
  let base := match cap with
    | some c => windowBase c h r n
    | none => 0
  let bud := match cap with
    | some c => c.budget r.bcls
    | none => 0
  { Slot.reset with
    running := true, act := act, ctx := L
    a := Vector.ofFn fun i => if i.val = 0 then header else payload.getD (i.val - 1) 0
    pc := r.entry, swp := BitVec.ofNat 18 base, pri := r.pri, chan := BitVec.ofNat 6 chan, det := released
    paired := isCompute h && (cap.map (·.paired)).getD false, budleft := BitVec.ofNat 12 bud, startCycle := s.cycle }

/-- The words that a message loads: its payload, or the descriptor alone of a data message (R20, R108). -/
def loadedWords (header : Word) (payload : List Word) : List Word :=
  if header.extractLsb' 48 4 = 0 then payload.take 1 else payload

/-- The message of a ring entry started in slot n of core h; a pair keeps it until its next agreement point (R201). An entry
without record starts nothing. -/
def startIn (s : State) (h n L : Nat) (e : RingEntry) : State :=
  let chan := (e.header.extractLsb' 58 6).toNat
  match (launchOf s L).bind fun l => l.handler chan with
  | none => s
  | some r =>
    let H := hartOf s h
    let σ := startSlot s h n L (H.acts + 1) r chan e.header (loadedWords e.header e.payload) e.released
    putHart s h { H.putSlot n σ with acts := H.acts + 1, started := if σ.paired then H.started ++ [e] else H.started }

/-- The lowest free slot of a core. Which free slot a selection takes is not stated: DESIGN CHOICE (log 72). -/
def freeSlot (H : Hart) : Option Nat := (upFrom 0 8).find? fun n => !(H.slot n).running

/-! ## Selection (R112) -/

/-- A candidate: its launch, its entry and its handler's priority. -/
structure Candidate where
  launch : Nat
  entry : RingEntry
  pri : Nat
deriving DecidableEq, Repr

/-- May launch L start activations on core h: not under pre-emption on a compute core (R119), unless a pending chain stands, which
the pre-emption leaves to end as it would (R158); not under a cancel (R17),
not while it is halted (R203), and not on the follower of a pair or during its self-test (R198, R201)? -/
def maySelect (s : State) (h L : Nat) : Bool :=
  match launchOf s L with
  | some l => !l.cancelled && !l.halted && !(l.preempting && l.pending.isNone && isCompute h) && !(l.cap.paired && isCompute h && (h % 2 == 1 || (hartOf s h).selftest))
  | none => false

/-- The ready ring entries of unmasked channels over the contexts of a core that may select. -/
def candidates (ok : Nat → Bool) (s : State) (h : Nat) : List Candidate :=
  (hartOf s h).ctxs.flatMap fun c =>
    if ok c.launch then
      (c.ring.filter fun e => c.candidate e).map fun e =>
        let pri := match (launchOf s c.launch).bind fun l => l.handler (e.header.extractLsb' 58 6).toNat with
          | some r => r.pri.toNat
          | none => 0
        { launch := c.launch, entry := e, pri := pri }
    else []

/-- Is x chosen before y: a higher priority, or the same and an older age? -/
def Candidate.before (x y : Candidate) : Bool :=
  decide (y.pri < x.pri) || (x.pri == y.pri && decide (x.entry.age < y.entry.age))

/-- The first of a list under an order. -/
def firstBy {α : Type} (lt : α → α → Bool) : List α → Option α
  | [] => none
  | x :: xs =>
    match firstBy lt xs with
    | some y => if lt y x then some y else some x
    | none => some x

/-- The candidate that the next selection takes: after 15 selections that passed over a priority-0 candidate, the oldest
of those. -/
def choose (passOver : Nat) (cs : List Candidate) : Option Candidate :=
  match (if 15 ≤ passOver then firstBy Candidate.before (cs.filter fun c => c.pri == 0) else none) with
  | some c => some c
  | none => firstBy Candidate.before cs

/-- The count of passed-over selections after one that takes c. -/
def passAfter (passOver : Nat) (cs : List Candidate) (c : Candidate) : Nat :=
  if c.pri = 0 then 0
  else if cs.any (fun x => x.pri == 0) then passOver + 1 else passOver

/-- One selection on core h among the given launches, if it has a free slot and a candidate. -/
def selectOne (ok : Nat → Bool) (s : State) (h : Nat) : State :=
  let H := hartOf s h
  match freeSlot H, choose H.passOver (candidates ok s h) with
  | some n, some c =>
    let ctx := H.ctx c.launch
    let ctx1 := { ctx with ring := ctx.ring.filter fun e => e.age != c.entry.age }
    let H1 : Hart := { H.putCtx ctx1 with passOver := passAfter H.passOver (candidates ok s h) c }
    startIn (putHart s h H1) h n c.launch c.entry
  | _, _ => s

/-- Selections on core h among the given launches until no slot or no candidate is left. -/
def selectAmong (ok : Nat → Bool) (s : State) (h : Nat) : State := (upFrom 0 8).foldl (fun t _ => selectOne ok t h) s

/-- May a launch make selections on core h now? -/
def mayStart (s : State) (h L : Nat) : Bool := maySelect s h L && !counted s h L

/-- Selections on core h until no slot or no candidate is left. -/
def select (s : State) (h : Nat) : State := selectAmong (mayStart s h) s h

/-! ## The end of an activation (R35, R232) -/

/-- The accumulator slots of a cluster that an activation leaves behind are orphaned. -/
def orphan (c : Cluster) (pos n act : Nat) : Cluster :=
  { c with accs := c.accs.map fun a =>
      if (a.state == 1 || a.state == 2) && !a.draining && a.ocore == pos && a.oslot == n && a.oact == act && !a.port then
        { a with state := 3 } else a }

/-- Slot n of core h released, its accumulators orphaned, and a selection made, as a core that was not counted as arrived while
the slot ran. -/
def releaseSlot (s : State) (h n : Nat) : State :=
  let σ := slotOf s h n
  let t := if isCompute h then
      match SMap.find (clusterOfCore h) s.clusters with
      | some C => putCluster s (clusterOfCore h) (orphan C (posInCluster h) n σ.act)
      | none => s
    else s
  selectAmong (mayStart s h) (putSlot t h n Slot.reset) h

end Sys2Proof.Machine
end

