-- ==== Sys2Proof/Machine/Control.lean ====
section
/-! DEFINITION. Control transfers, calls and returns, loading of constants, the end of an activation, waiting and
realigning (spec/13 R224 to R235). -/

namespace Sys2Proof.Machine

/-! ## Transfers (R224, R225) -/

/-- Transfer(t): out of the code window is CODE_END; a full branch queue waits. -/
def transfer (t : Int) : Op Flow := fun s =>
  if t < 0 ∨ (codeLen s (curLaunch s) : Int) ≤ t then
    .error (.trap ⟨codeCodeEnd, 0x002, BitVec.ofInt 64 t⟩ none)
  else if 64 ≤ (curSlot s).bq.length then .error (.wait .branchFull none)
  else .ok (.jump t.toNat, s)

/-- The window of the current slot. -/
def curWindow (s : State) : Nat × Nat :=
  match handlerOf s (curHart s) (curNum s) (curSlot s).entry with
  | some r => windowOf s (curHart s) (curNum s) r
  | none => (0, 0)

/-- A pointer into the own scratchpad. -/
def ownPtr (off : Nat) : Word := BitVec.ofNat 64 off

/-- Push(a) of the return address, as an entry of 13 bits: that of a call in bundle 8,191 of a window of 8,192 bundles wraps to 0
(log 88). -/
def pushReturn (a : Nat) : Op Unit := do
  let s ← get
  let σ := curSlot s
  if σ.rs.length < 8 then modSlot fun τ => { τ with rs := BitVec.ofNat 13 a :: τ.rs }
  else
    let off := σ.swp.toNat
    stopIf ((curWindow s).2 < off + 8) (trapAt codeStack 0x001 0)
    inOrder { kinds := [.st], scope := .core, sc := false, loc := ⟨curHart s, off, 8⟩, space2 := false }
    stopSome ((curCtx s).writeRefused (curHart s) off 8) (fun d => trapAt codeQueueMisuse d (ownPtr off))
    ownWrite (ownPtr off) off (leBytes (σ.rs.getLastD 0).toNat 8)
    modSlot fun τ => { τ with swp := BitVec.ofNat 18 (off + 8), rs := BitVec.ofNat 13 a :: τ.rs.dropLast }

/-- Pop() of a return address. -/
def popReturn : Op Nat := do
  let s ← get
  match (curSlot s).rs with
  | t :: ts => do
    modSlot fun τ => { τ with rs := ts }
    return t.toNat
  | [] =>
    let off := (curSlot s).swp.toNat
    stopIf (off ≤ (curWindow s).1) (trapAt codeStack 0x002 0)
    inOrder { kinds := [.ld], scope := .core, sc := false, loc := ⟨curHart s, off - 8, 8⟩, space2 := false }
    let bs ← ownBytesAt (off - 8) 8
    modSlot fun τ => { τ with swp := BitVec.ofNat 18 (off - 8) }
    return leValue bs % 2 ^ 13

/-- The bundle index of the current A-side. -/
def curPc : Op Nat := do return (← getSlot).pc

/-! ## Branches (R226, R227) -/

/-- A branch relative to its bundle, taken on a condition of S. -/
def branchOn (c : Word → Bool) (x : ASrc) (off : BitVec 17) (s : State) : Host.Outcome State Fault Refusal :=
  wordA false .none (do
    let v ← readA x
    if c v then transfer ((← curPc) + off.toInt) else return .next) s

/-- R226: br.al. -/
def execBrAl (off : BitVec 17) (s : State) : Host.Outcome State Fault Refusal :=
  wordA false .none (do transfer ((← curPc) + off.toInt)) s
/-- R226: br.z. -/
def execBrZ (x : ASrc) (off : BitVec 17) (s : State) : Host.Outcome State Fault Refusal := branchOn (fun v => v == 0) x off s
/-- R226: br.nz. -/
def execBrNz (x : ASrc) (off : BitVec 17) (s : State) : Host.Outcome State Fault Refusal := branchOn (fun v => v != 0) x off s
/-- R226: br.lz. -/
def execBrLz (x : ASrc) (off : BitVec 17) (s : State) : Host.Outcome State Fault Refusal :=
  branchOn (fun v => decide (v.toInt < 0)) x off s
/-- R226: br.gez. -/
def execBrGez (x : ASrc) (off : BitVec 17) (s : State) : Host.Outcome State Fault Refusal :=
  branchOn (fun v => decide (0 ≤ v.toInt)) x off s
/-- R226: br.gz. -/
def execBrGz (x : ASrc) (off : BitVec 17) (s : State) : Host.Outcome State Fault Refusal :=
  branchOn (fun v => decide (0 < v.toInt)) x off s
/-- R226: br.lez. -/
def execBrLez (x : ASrc) (off : BitVec 17) (s : State) : Host.Outcome State Fault Refusal :=
  branchOn (fun v => decide (v.toInt ≤ 0)) x off s

/-- A call to an unbounded target: the push and the transfer are one step. -/
def callTo (t : Int) : Op Flow := do
  pushReturn ((← curPc) + 1)
  transfer t

/-- R227: ctl.call. -/
def execCtlCall (off : BitVec 17) (s : State) : Host.Outcome State Fault Refusal :=
  wordA false .none (do callTo ((← curPc) + off.toInt)) s
/-- R227: ctl.loop. -/
def execCtlLoop (n : Fin 16) (off : BitVec 17) (s : State) : Host.Outcome State Fault Refusal :=
  wordA false .none (do
    let v ← readA (.a n)
    writeA (.a n) (v - 1)
    if v - 1 ≠ 0 then transfer ((← curPc) + off.toInt) else return .next) s
/-- R228: ctl.callr. -/
def execCtlCallr (x : ASrc) (s : State) : Host.Outcome State Fault Refusal :=
  wordA false .none (do callTo (← readA x).toNat) s
/-- R228: ctl.jr. -/
def execCtlJr (x : ASrc) (s : State) : Host.Outcome State Fault Refusal :=
  wordA false .none (do transfer (← readA x).toNat) s
/-- R228: ctl.ret. -/
def execCtlRet (s : State) : Host.Outcome State Fault Refusal := wordA false .none (do transfer (← popReturn)) s

/-! ## Lone transfers and constants (R229, R230) -/

/-- R229: jmpl.go; the target is formed without wrapping. -/
def execJmplGo (x : ASrc) (imm : BitVec 32) (s : State) : Host.Outcome State Fault Refusal :=
  wordA true .none (do transfer ((← readA x).toInt + imm.toInt)) s
/-- R229: jmpl.call. -/
def execJmplCall (x : ASrc) (imm : BitVec 32) (s : State) : Host.Outcome State Fault Refusal :=
  wordA true .none (do callTo ((← readA x).toInt + imm.toInt)) s
/-- A lone word that goes on to the next bundle. -/
def loneA (op : Op Unit) (s : State) : Host.Outcome State Fault Refusal := wordA true .none (do op; return .next) s
/-- R230: li.sx. -/
def execLiSx (d : ADst) (imm : BitVec 32) (s : State) : Host.Outcome State Fault Refusal :=
  loneA (writeA d (imm.signExtend 64)) s
/-- R230: li.zx. -/
def execLiZx (d : ADst) (imm : BitVec 32) (s : State) : Host.Outcome State Fault Refusal :=
  loneA (writeA d (imm.zeroExtend 64)) s
/-- R230: li.hi. -/
def execLiHi (d : ADst) (x : ASrc) (imm : BitVec 32) (s : State) : Host.Outcome State Fault Refusal :=
  loneA (do writeA d (imm ++ (← readA x).extractLsb' 0 32)) s

/-! ## Ending (R231 to R233) -/

/-- R231: ctl.nopc. -/
def execCtlNopc (s : State) : Host.Outcome State Fault Refusal := plainA (return ()) s

/-- Does any queue of R101 hold an entry or an open reservation? -/
def Slot.queuesHold (σ : Slot) : Bool :=
  σ.lq.any (fun q => !q.isEmpty) || σ.sq.any (fun q => !q.isEmpty) || !σ.cq.isEmpty

/-- An E-side prefix with no word left to govern is misused on the ctl.done, and discarded (R220, R232). -/
def dropPrefixE : Op Unit := fun s =>
  let t := putCur s { curSlot s with ePrefix := none, ePP := false }
  .error (.trap ⟨codePrefix, 0x003, 0⟩ (some t))

/-- The current slot released, with its cores's selection. -/
def freeCurrent : Op Unit := modState fun s => releaseSlot s (curHart s) (curNum s)

/-- Every entry of the current slot's scoreboard discarded (R233, R308). -/
def discardAll : Op Unit := modState fun s => (curSlot s).sb.foldl (fun t e => discardEntry t (curIssuer s) e) s

/-- Does the activation of the current slot, on a pair, still wait for its final agreement point (R200)? -/
def finalDue (s : State) : Bool :=
  (curSlot s).paired && (!(hartOf s (curHart s)).commit.isEmpty || (hartOf s (curHart s)).sinceAgree != 0)

/-- The steps of R232 after its first. -/
def doneOp : Op Flow := do
  let s ← get
  let σ := curSlot s
  stopIf (!(σ.path.isEmpty && σ.eDone)) (waitFor .done)
  stopIf (σ.ePrefix.isSome) dropPrefixE
  stopIf (!σ.sb.isEmpty) (waitFor .done)
  stopIf (finalDue s) (waitFor .done)
  stopIf (σ.queuesHold) (trapAt codeQueueMisuse 0x001 0)
  freeCurrent
  return .stay

/-- R233: the activation abandoned from its trap handler. It waits for its sends, and on a pair for its final agreement point (R200);
the words of the handler that its E-side has not retired are not waited for (log 81). -/
def abandonOp : Op Flow := do
  let σ ← getSlot
  stopIf (σ.sb.any (fun e => e.kind == 6 && !e.refused) || !σ.inHandler.isEmpty) (waitFor .done)
  discardAll
  let s ← get
  stopIf (finalDue s) (waitWith .done s)
  freeCurrent
  return .stay

/-- R232, R233: ctl.done. In the trap handler it governs nothing and misuses nothing. -/
def execCtlDone (s : State) : Host.Outcome State Fault Refusal :=
  if (curSlot s).inTrap then wordA false .governable abandonOp s else wordA false .none doneOp s

/-! ## Waiting on a word (R234) -/

/-- The offset that a pointer to the own scratchpad names, or the fault of R234. -/
def ownOffset (p : Word) (size : Nat) (align : BitVec 12) : Op Nat := fun s =>
  let sp := spaceOf p
  let code : BitVec 12 := BitVec.ofNat 12 sp
  let bad : Bool := match sp with
    | 0 => decide (2 ^ 18 ≤ p.toNat)
    | 1 => indexOf p != curHart s || p.toNat % 2 ^ 40 / 2 ^ 18 != 0
    | 2 => indexOf p != curHart s || p.toNat % 2 ^ 40 / 2 ^ 18 != 0
    | _ => true
  let off := offOf p
  if bad then .error (.trap ⟨codeSpace, code, p⟩ none)
  else if off % size ≠ 0 then .error (.trap ⟨codeAlign, align, p⟩ none)
  else if ownBytes (curHart s) < off + size then .error (.trap ⟨codeBounds, 0x0b0, p⟩ none)
  else if sp ≠ 0 ∧ Config.nCompute ≤ indexOf p then .error (.trap ⟨codeBounds, 0x0b1, p⟩ none)
  else if curTouchesRing s off size then .error (.trap ⟨codeBounds, 0x0b3, p⟩ none)
  else .ok (off, s)

/-- The destination is free: a wait that cannot come back once the word has begun, as only the A-side fills it. -/
def freeDst (d : ADst) : Op Unit := fun s =>
  let σ := curSlot s
  match d with
  | .lq k => if 16 ≤ σ.lq[k].length then .error (.wait (.pushLq k) none) else .ok ((), s)
  | .sm n => if σ.smBusy.contains n then .error (.wait .stream none) else notPending d s
  | _ => notPending d s

/-- The read of the awaited word: the word waits while it equals t, and while a guard holds it; u is what ctl.wait has taken. -/
def pollWord (d : ADst) (off : Nat) (t : Word) (u : Undo) : Op Unit := do
  let s ← get
  let bs ← ownBytesAt off 8
  let w : Word := BitVec.ofNat 64 (leValue bs)
  stopIf (w = t ∨ guarded s (curIssuer s) s.nextId ⟨curHart s, off, 8⟩) (waitWith (.waitWord d off t u) s)
  writeA d w

/-- The word of ctl.wait: S and T are read once, and the awaited word until it differs from T (R234). Its reads are acquires at
module scope. -/
def waitOp (d : ADst) (x y : ASrc) : Op Unit := do
  let before ← getSlot
  match before.aWait with
  | some (.waitWord d off t u) => pollWord d off t u
  | _ => do
    let p ← readA x
    let t ← readA y
    let off ← ownOffset p 8 3
    freeDst d
    inOrder { kinds := [.ldA], scope := .module, sc := false, loc := ⟨curHart (← get), off, 8⟩, space2 := false }
    pollWord d off t (undoOf before (← getSlot))

/-- R234: ctl.wait. -/
def execCtlWait (d : ADst) (x y : ASrc) (s : State) : Host.Outcome State Fault Refusal := plainA (waitOp d x y) s

/-! ## Realigning (R235) -/

/-- The realign group of slot n of core h: pairs of core and slot that run the same entry, the slot itself left out. -/
def realignGroup (s : State) (h n : Nat) : List (Nat × Nat) :=
  let σ := slotOf s h n
  let cores := if isCompute h then coresOfCluster (clusterOfCore h) else [h]
  (cores.flatMap fun c => (upFrom 0 8).map fun k => (c, k)).filter fun p =>
    let τ := slotOf s p.1 p.2
    τ.running && τ.chan == σ.chan && τ.ctx == σ.ctx && !(p.1 == h && p.2 == n)

/-- Does a slot wait in ctl.realign? -/
def Slot.realigns (σ : Slot) : Bool :=
  match σ.aWait with
  | some (.realign _) => true
  | _ => false

/-- The cycle since which a slot waits in ctl.realign, or now. -/
def realignSince (s : State) (σ : Slot) : Nat :=
  match σ.aWait with
  | some (.realign c) => c
  | _ => s.cycle

/-- The waiting members resume together. -/
def resumeMembers (s : State) (ps : List (Nat × Nat)) : State :=
  ps.foldl (fun t p =>
    let σ := slotOf t p.1 p.2
    if σ.realigns then retireAt t p.1 p.2 σ false .next else t) s

/-- Is every other member of the group listed? -/
def groupListed (s : State) (h n : Nat) : Bool := (realignGroup s h n).all fun p => listedAt s p.1 (slotOf s p.1 p.2)

/-- The word of ctl.realign: it goes on when the group is listed, and takes the waiting members with it. -/
def realignOp : Op Unit := fun s =>
  if groupListed s (curHart s) (curNum s) then .ok ((), resumeMembers s (realignGroup s (curHart s) (curNum s)))
  else .error (.wait (.realign (realignSince s (curSlot s))) none)

/-- R235: ctl.realign. -/
def execCtlRealign (s : State) : Host.Outcome State Fault Refusal := plainA realignOp s

/-! ## Events of this chapter -/

/-- Is event time for slot n of core h: it runs, it exists, and its launch is not halted (R203)? -/
def slotRuns (s : State) (h n : Nat) : Bool :=
  decide (h < Config.nHarts) && decide (n < 8) && (slotOf s h n).running && !(launchOf s (slotOf s h n).ctx).any (·.halted)

/-- The first late fault that a slot takes now, with those that are left: any, but in a waiting fence one of an operation that the
fence waits for, so that an engine job's stays (R99). -/
def Slot.nextLate (σ : Slot) : Option (FaultInfo × List (Option Nat × FaultInfo)) :=
  let ofOp (x : Option Nat × FaultInfo) : Bool :=
    match σ.aWait with
    | some (.fence _) => x.1.isSome
    | _ => true
  match σ.late.find? ofOp with
  | some x => some (x.2, σ.late.erase x)
  | none => none

/-- R241: a refusal is delivered at the slot's next bundle boundary. It waits where R99 makes a trap wait and while the slot is inside
ctl.realign, whose bundle has not ended; a waiting fence or ctl.wait is abandoned; in a trap handler it kills the plat. -/
def deliverLate (h n : Nat) (s : State) : State :=
  let σ := slotOf s h n
  match slotRuns s h n, σ.nextLate with
  | true, some (f, fs) =>
    if σ.aWait == some .ply || σ.realigns || (match σ.aWait with
        | some (.answer _ _) => true
        | _ => false) then s
    else
      let t := putSlot s h n { σ.abandonWait with late := fs, aWait := none }
      if trapDeferred t h n then s else trapEntry t h n .aSide f
  | _, _ => s

/-- R241: LATE_FAULT_DELIVERY. -/
def execLateFaultDelivery (h n : Nat) (s : State) : Host.Outcome State Fault Refusal := event (deliverLate h n) s

/-- R224: the path has left the code window by falling through, and both sides have retired its last bundle. -/
def fallThrough (h n : Nat) (s : State) : State :=
  let σ := slotOf s h n
  let len := codeLen s σ.ctx
  if slotRuns s h n && decide (len ≤ σ.pc) && σ.path.isEmpty && !trapDeferred s h n && !σ.sleeping &&
      !(σ.paired && (hartOf s h).selftest) then
    let t := trapEntry s h n .aSide ⟨codeCodeEnd, 0x001, 0⟩
    let τ := slotOf t h n
    if τ.inTrap && !σ.inTrap then putSlot t h n { τ with tpc := BitVec.ofNat 13 (len - 1) } else t
  else s

/-- R224: CODE_END_FALLTHROUGH. -/
def execCodeEndFallthrough (h n : Nat) (s : State) : Host.Outcome State Fault Refusal := event (fallThrough h n) s

/-- R103: a side blocked on a queue of its slot resumes: it no longer waits, and its next turn runs its word. -/
def releaseSide (h n : Nat) (side : Side) (s : State) : State :=
  let σ := slotOf s h n
  if slotRuns s h n then
    match side with
    | .aSide => if σ.aWait.any (unblocked σ) then putSlot s h n { σ with aWait := none } else s
    | .eSide => if σ.eWait.any (unblocked σ) then putSlot s h n { σ with eWait := none } else s
  else s

/-- R103: SIDE_BLOCK_RELEASE. -/
def execSideBlockRelease (h n : Nat) (side : Side) (s : State) : Host.Outcome State Fault Refusal := event (releaseSide h n side) s

/-- R232: a ctl.done that waits goes on once its waits have ended; a late fault comes before it (R241). -/
def releaseDone (h n : Nat) (s : State) : State :=
  let σ := slotOf s h n
  if slotRuns s h n && σ.late.isEmpty && σ.aWait == some .done then
    asSlot h n (if σ.inTrap then stepA false .governable abandonOp else stepA false .none doneOp) s
  else s

/-- R232: SLOT_RELEASE. -/
def execSlotRelease (h n : Nat) (s : State) : Host.Outcome State Fault Refusal := event (releaseDone h n) s

/-- R234: a ctl.wait that waits re-reads its word; a late fault comes before it (R240). -/
def wakeWait (h n : Nat) (s : State) : State :=
  match slotRuns s h n && (slotOf s h n).late.isEmpty, (slotOf s h n).aWait with
  | true, some (.waitWord d off t u) => asSlot h n (stepA false .none (do pollWord d off t u; return .next)) s
  | _, _ => s

/-- R234: CTL_WAIT_WAKE. -/
def execCtlWaitWake (h n : Nat) (s : State) : Host.Outcome State Fault Refusal := event (wakeWait h n) s

/-- R235: the group of a waiting slot is listed: its waiting members resume together. -/
def releaseGroup (h n : Nat) (s : State) : State :=
  if slotRuns s h n && (slotOf s h n).realigns && groupListed s h n then
    resumeMembers s ((h, n) :: realignGroup s h n)
  else s

/-- R235: REALIGN_RELEASE. -/
def execRealignRelease (h n : Nat) (s : State) : Host.Outcome State Fault Refusal := event (releaseGroup h n) s

/-- Has slot n of core h waited in ctl.realign for 4,096 cycles? -/
def realignOver (s : State) (h n : Nat) : Bool :=
  (slotOf s h n).realigns && decide (realignSince s (slotOf s h n) + 4096 ≤ s.cycle)

/-- R235: a ctl.realign of 4,096 cycles is released, with the members of its group that are released in the same cycle: those whose
time is over too, or all where the group is listed (R240). -/
def timeoutRealign (h n : Nat) (s : State) : State :=
  if slotRuns s h n && realignOver s h n then
    let group := realignGroup s h n
    resumeMembers s ((h, n) :: if groupListed s h n then group else group.filter fun p => realignOver s p.1 p.2)
  else s

/-- R235: REALIGN_TIMEOUT. -/
def execRealignTimeout (h n : Nat) (s : State) : Host.Outcome State Fault Refusal := event (timeoutRealign h n) s

end Sys2Proof.Machine
end

