-- ==== Sys2Proof/Machine/Mesh.lean ====
section
/-! DEFINITION. Memory operations at their homes: remote loads and stores, atomics, coalesced bytes, accesses through a
checker, and the ownership time-out (spec/03 R44 R53 R54 R59 R60, spec/07 R133, spec/14 R244 R247). -/

namespace Sys2Proof.Machine

/-! ## Ownership (R44) -/

/-- The home and the pointer of an operation at a compute core's scratchpad. -/
def NetOp.target (h : Nat) : NetOp → Option (Nat × Word)
  | .load p _ _ _ | .store p _ | .amo p _ _ _ | .maxrd p _ _ | .futRd p _ | .futRdc p _ _ | .futWr p _ | .futClr p =>
    some (homeOf h p, p)
  | .flush home off ps => some (home, (ps.map (·.ptr)).headD (BitVec.ofNat 64 (2 ^ 60 + home * 2 ^ 40 + off)))
  | .orcDecl p _ | .orcApp p _ _ _ _ | .orcLdt p | .orcLds p _ => if p.getLsbD 39 then none else some (indexOf p, p)
  | _ => none

/-- The stores of a flush, each as its issuer's. -/
def flushSrcs (s : State) (it : NetItem) (ps : List PendStore) : List (Issuer × PendStore × Loc) :=
  ps.map fun p =>
    let o := (hartOf s it.src.hart).out.find? fun o => o.id == p.id
    ((match o with
      | some o => { it.src with slot := o.slot, act := o.act }
      | none => it.src), p, ⟨(match it.op with
      | .flush home _ _ => home
      | _ => 0), offOf p.ptr, p.bytes.length⟩)

/-- Does a guard hold one of the stores of a flush (log 63)? -/
def flushGuarded (s : State) (it : NetItem) : Bool :=
  match it.op with
  | .flush _ _ ps => (flushSrcs s it ps).any fun x => guarded s x.1 x.2.1.id x.2.2
  | _ => false

/-- Item k of the net where it may be performed now and its home is owned by its launch, with the state without it. -/
def arriving (s : State) (k : Nat) : Option (NetItem × State) :=
  match takeNet s k with
  | some (it, t) =>
    if mayPerform s it && !flushGuarded s it then
      match it.op.target it.src.hart with
      | some (home, _) => if owned s it.src.launch home then some (it, passing t it) else none
      | none => some (it, passing t it)
    else none
  | none => none

/-- A write at its home: every U copy is recalled first and every S copy invalidated (R53). The table has no case for a store
that finds U copies at its home; DEDUCED: they are recalled and combined before it, as before a read (log 69). -/
def homeWrite (s : State) (L home off : Nat) (bs : List Byte) : State :=
  let t := recallU s L home off
  invalidateHome (modHome t L home fun c => c.write off bs) L home off

/-! ## Accesses of 64 bytes (R82) -/

/-- Which of the words that are left of a 64-byte access are performed now: any of them, or all, which the spec leaves open
(log 63). -/
def wordsNow (s : State) (left : BitVec 8) : BitVec 8 × State :=
  let m := left &&& BitVec.ofNat 8 (Config.freeChoice s.fresh)
  (if m = 0 then left else m, { s with fresh := s.fresh + 1 })

/-- The state with an item back in the net, before everything that was sent later. Its home has accepted it. -/
def backInNet (s : State) (it : NetItem) (ids : List Nat) : State := makeSure { s with net := it :: s.net } it.src.hart ids

/-- The operation performed, its entry settled with a value. -/
def served (s : State) (it : NetItem) (w : Word) (e : QEntry) : State :=
  dropOut (settleSb s it.src it.id w e 0) it.src.hart it.id

/-- A late fault whose DETAIL the spec does not state (log 4). -/
def refuseFree (s : State) (src : Issuer) (id : Nat) (code : BitVec 16) (p : Word) : State :=
  refuse { s with fresh := s.fresh + 1 } src id ⟨code, Config.freeDetail s.fresh, p⟩

/-! ## Loads (R244) -/

/-- The words of a coalesced store that lie in a set of words of its line, as offsets in the line with their bytes. -/
def PendStore.cut (m : BitVec 8) (p : PendStore) : List (Nat × List Byte) :=
  if p.bytes.length = 64 then ((upFrom 0 8).filter fun j => m.getLsbD j).map fun j => (8 * j, (p.bytes.drop (8 * j)).take 8)
  else if m.getLsbD (offOf p.ptr % 64 / 8) then [(offOf p.ptr % 64, p.bytes)] else []

/-- Those words applied over a line's bytes, the oldest store first. -/
def overWords (m : BitVec 8) (v : Vec) (ps : List PendStore) : Vec :=
  (ps.flatMap (·.cut m)).foldl (fun v x => vecPutBytes v x.1 x.2) v

/-- A line at its home with the bytes of core h's stores that are on their way to it (R61). -/
def ownBytesOver (s : State) (h home off : Nat) (v : Vec) : Vec :=
  let line := off / 64 * 64
  let v1 := s.net.foldl (fun v it =>
    if it.src.hart == h then
      match it.op with
      | .flush m o ps => if m == home && o == line then overWords (~~~it.part) v ps else v
      | _ => v
    else v) v
  overStores v1 ((hartOf s h).line (lineKey home off)).stores

/-- An S copy of a line in core h's L1 and, for a line homed outside its cluster, in its L2 (R53, R55). -/
def fillShared (s : State) (L h home off : Nat) (v : Vec) : State :=
  let k := lineKey home off
  let t := l1Alloc L h k s
  let H := hartOf t h
  let u := putHart t h (H.putLine k { H.line k with shared := some v })
  let c := clusterOfCore h
  if c = clusterOfCore home then u else putCluster u c ((clusterOf u c).putSector k (some v))

/-- The words of a set read from a line into what a 64-byte access has read. -/
def readWords (m : BitVec 8) (line data : Vec) : Vec :=
  (upFrom 0 8).foldl (fun v j =>
    if m.getLsbD j then vecPutBytes v (8 * j) ((upFrom (8 * j) 8).map (vecByte line)) else v) data

/-- A load served at its home: U copies are combined first; a cached load leaves an S copy, except of a declared line, which
is never cached. A load of 64 bytes reads its words in one turn or in several; the copy that it leaves holds the line as it
stands when the last word is read. -/
def loadAtHome (s : State) (it : NetItem) (p : Word) (n : Nat) (signed uncached : Bool) : State :=
  let h := it.src.hart
  let L := it.src.launch
  let home := homeOf h p
  let off := offOf p
  if regionRefused s L home off n false then refuse s it.src it.id ⟨codeBounds, 0x0b3, p⟩
  else
    let t := recallU s L home off
    let c := ctxOf t home L
    let line := vecOf (c.read home (off / 64 * 64) 64)
    let seen := if uncached then line else ownBytesOver t h home off line
    if n = 64 then
      let now := wordsNow t (~~~it.part)
      let data := readWords now.1 seen it.data
      let u := now.2
      if it.part ||| now.1 = 0xff then
        let bs := vecBytes data 64
        let plain := uncached || (c.unit.line (linePtr home off)).isSome
        served (if plain then u else fillShared u L h home off line) it (loadValue signed bs) (loadEntry signed bs)
      else backInNet u { it with part := it.part ||| now.1, data := data } [it.id]
    else
      let bs := (upFrom (off % 64) n).map (vecByte seen)
      let u := if uncached || (c.unit.line (linePtr home off)).isSome then t else fillShared t L h home off line
      served u it (loadValue signed bs) (loadEntry signed bs)

/-- R244: MESH_LOAD_ARRIVAL. -/
def execMeshLoadArrival (k : Nat) (s : State) : Host.Outcome State Fault Refusal :=
  event (fun s =>
    match arriving s k with
    | some (it, t) =>
      match it.op with
      | .load p n signed uncached => loadAtHome t it p n signed uncached
      | _ => s
    | none => s) s

/-! ## Stores (R53, R54, R244) -/

/-- The fault with which a home refuses a write of core h's operation id, if it does; one that it has accepted it refuses no
more (R98). -/
def refusedNow (s : State) (h id L home off n : Nat) (p : Word) : Option FaultInfo :=
  if isSure s h id then none else homeRefuses s L home off n p

/-- The coalesced stores of a line of which the home refuses none, and the state in which the others have ended. A store that the
home refuses leaves it unchanged and faults late with its own pointer, and those that are kept after it are never performed (R98,
R244, R245). bad holds the numbers of those. -/
def screenStores (L home : Nat) : List (Issuer × PendStore × Loc) → List Nat → State → State × List PendStore
  | [], _, s => (s, [])
  | x :: xs, bad, s =>
    let p := x.2.1
    if bad.contains p.id then screenStores L home xs bad s
    else
      match refusedNow s x.1.hart p.id L home x.2.2.lo x.2.2.len p.ptr with
      | some f =>
        let more := (failedAfter [p.id] (hartOf s x.1.hart).out []).map (·.id)
        screenStores L home xs (p.id :: more ++ bad) (lateFault (failOuts s x.1.hart [p.id]) x.1 (some p.id) f)
      | none =>
        let r := screenStores L home xs bad s
        (r.1, p :: r.2)

/-- The coalesced bytes of a line applied at their home, the oldest store first (R54). Where a store of 64 bytes is among them, the
words of the line are applied in one turn or in several (R82); what the home refuses it refuses before the first of them. -/
def flushAtHome (s : State) (it : NetItem) (home off : Nat) (ps : List PendStore) : State :=
  let r := if it.part = 0 then screenStores it.src.launch home (flushSrcs s it ps) [] s else (s, ps)
  let wide := r.2.any fun p => decide (p.bytes.length = 64)
  let now := if wide then wordsNow r.1 (~~~it.part) else (~~~it.part, r.1)
  let t := (r.2.flatMap (·.cut now.1)).foldl (fun t x => homeWrite t it.src.launch home (off + x.1) x.2) now.2
  let part := it.part ||| now.1
  if part = 0xff then dropOuts t it.src.hart (ps.map (·.id))
  else backInNet t { it with op := .flush home off r.2, part := part } (r.2.map (·.id))

/-- A store applied at its home, or refused (R244); the words of a store of 64 bytes are applied in one turn or in several. -/
def storeAtHome (s : State) (it : NetItem) (p : Word) (bs : List Byte) : State :=
  let L := it.src.launch
  let home := homeOf it.src.hart p
  match refusedNow s it.src.hart it.id L home (offOf p) bs.length p with
  | some f => refuse s it.src it.id f
  | none =>
    if bs.length = 64 then
      let now := wordsNow s (~~~it.part)
      let t := ((upFrom 0 8).filter fun j => now.1.getLsbD j).foldl
        (fun t j => homeWrite t L home (offOf p + 8 * j) ((bs.drop (8 * j)).take 8)) now.2
      if it.part ||| now.1 = 0xff then dropOut t it.src.hart it.id
      else backInNet t { it with part := it.part ||| now.1 } [it.id]
    else dropOut (homeWrite s L home (offOf p) bs) it.src.hart it.id

/-- R53: MESH_STORE_ARRIVAL. -/
def execMeshStoreArrival (k : Nat) (s : State) : Host.Outcome State Fault Refusal :=
  event (fun s =>
    match arriving s k with
    | some (it, t) =>
      match it.op with
      | .store p bs => storeAtHome t it p bs
      | .flush home off ps => flushAtHome t it home off ps
      | _ => s
    | none => s) s

/-- R54: 64 cycles after the first coalesced store of a line its bytes go to their home. -/
def flushTimer (h k : Nat) (s : State) : State :=
  let H := hartOf s h
  match H.ctxs with
  | c :: _ => if !(H.line k).stores.isEmpty && decide ((H.line k).since + 64 ≤ s.cycle) then flushLine c.launch h k s else s
  | [] => s

/-- R54: COALESCE_FLUSH_TIMER. -/
def execCoalesceFlushTimer (h k : Nat) (s : State) : Host.Outcome State Fault Refusal := event (flushTimer h k) s

/-! ## Atomics (R247, R248) -/

/-- An amo at its home. An amax update of a ply ahead of the home's is held there. -/
def amoArrive (s : State) (it : NetItem) (p : Word) (op : AmoOp) (t : Word) (ply : BitVec 16) : State :=
  let L := it.src.launch
  let home := homeOf it.src.hart p
  match refusedNow s it.src.hart it.id L home (offOf p) (amoSize op) p with
  | some f => refuse s it.src it.id f
  | none =>
    match amoAtHome s L home (offOf p) op t.toNat ply with
    | some (old, u) => served u it (amoReturn op old) (entryOf (amoReturn op old))
    | none =>
      let c := ctxOf s home L
      dropOut (putCtx s home { c with amaxHeld := c.amaxHeld ++ [it] }) it.src.hart it.id

/-- A read and reset of the maximum at its home (R78). -/
def maxrdArrive (s : State) (it : NetItem) (p : Word) (n : Nat) : State :=
  let L := it.src.launch
  let home := homeOf it.src.hart p
  match refusedNow s it.src.hart it.id L home (offOf p) n p with
  | some f => refuse s it.src it.id f
  | none =>
    let r := maxrdAtHome s L home (offOf p) n
    served r.2 it (BitVec.ofNat 64 r.1) (entryOf (BitVec.ofNat 64 r.1))

/-- R247: AMO_ARRIVAL. -/
def execAmoArrival (k : Nat) (s : State) : Host.Outcome State Fault Refusal :=
  event (fun s =>
    match arriving s k with
    | some (it, t) =>
      match it.op with
      | .amo p op x ply => amoArrive t it p op x ply
      | .maxrd p n _ => maxrdArrive t it p n
      | _ => s
    | none => s) s

/-! ## Accesses through a checker (R59, R60, R133, R244) -/

/-- The extent that a space 0x4 pointer of launch L names. -/
def extentOf (s : State) (L : Nat) (p : Word) : Option Extent := (launchOf s L).bind fun l => l.extent (extOf p)

/-- n bytes of an extent as the checker of core h reads them: BASE of a declared line, else memory (R77, R244). -/
def checkerBytes (s : State) (h L : Nat) (e : Extent) (p : Word) (n : Nat) : List Byte :=
  match (ctxOf s h L).unit.line (extLinePtr (extOf p) (extOff p)) with
  | some l => (upFrom (extOff p % 64) n).map (vecByte l.base)
  | none => extentBytes s e (extOff p) n

/-- A load through a checker: the words of a load of 64 bytes are read in one turn or in several (R82). Poison was found when it
was issued (R59). -/
def checkerLoad (s : State) (it : NetItem) (e : Extent) (p : Word) (n : Nat) (signed : Bool) : State :=
  let bs := checkerBytes s it.src.hart it.src.launch e p n
  if n = 64 then
    let now := wordsNow s (~~~it.part)
    let data := readWords now.1 (vecOf bs) it.data
    if it.part ||| now.1 = 0xff then
      served (extentTouch now.2 e (extOff p)) it (loadValue signed (vecBytes data 64)) (loadEntry signed (vecBytes data 64))
    else backInNet now.2 { it with part := it.part ||| now.1, data := data } [it.id]
  else served (extentTouch s e (extOff p)) it (loadValue signed bs) (loadEntry signed bs)

/-- R244: EXTENT_LOAD_DATA_RETURN. The data settles the entry. -/
def execExtentLoadDataReturn (k : Nat) (s : State) : Host.Outcome State Fault Refusal :=
  event (fun s =>
    match arriving s k with
    | some (it, t) =>
      match it.op with
      | .extLoad p n signed =>
        match extentOf s it.src.launch p with
        | some e => checkerLoad t it e p n signed
        | none => refuse t it.src it.id ⟨codeBounds, 0x0b4, p⟩
      | _ => s
    | none => s) s

/-- A store through a checker applied: the words of a store of 64 bytes in one turn or in several (R82). It is one store of a whole
granule, so its last word clears the granule's poison (R59). -/
def checkerStore (s : State) (it : NetItem) (e : Extent) (p : Word) (bs : List Byte) : State :=
  let tag := (platOfLaunch s it.src.launch).tag
  if bs.length = 64 then
    let now := wordsNow s (~~~it.part)
    let t := ((upFrom 0 8).filter fun j => now.1.getLsbD j).foldl
      (fun t j => extentWrite t e (extOff p + 8 * j) ((bs.drop (8 * j)).take 8) tag) now.2
    if it.part ||| now.1 = 0xff then dropOut (extentClean t e (extOff p)) it.src.hart it.id
    else backInNet t { it with part := it.part ||| now.1 } [it.id]
  else dropOut (extentWrite s e (extOff p) bs tag) it.src.hart it.id

/-- Is the page of an HBM address held by the last pass of its migration (R60 step 4)? -/
def pageHeld (s : State) (a : Nat) : Bool := s.migrations.any fun m => m.source == a / 4096 && decide (4 ≤ m.passes) && m.dirty != 0

/-- R133: STORER_WRITE_ACK. The write is applied at its slice and acknowledged; a write to a page in the last pass of its
migration is retried (R60). -/
def execStorerWriteAck (k : Nat) (s : State) : Host.Outcome State Fault Refusal :=
  event (fun s =>
    match arriving s k with
    | some (it, t) =>
      match it.op with
      | .extStore p bs =>
        match extentOf s it.src.launch p with
        | some e =>
          if !e.host && pageHeld s (e.base + extOff p) then s
          else if !isSure s it.src.hart it.id &&
              ((ctxOf s it.src.hart it.src.launch).unit.line (extLinePtr (extOf p) (extOff p))).isSome then
            refuse t it.src it.id ⟨codeQueueMisuse, 0x012, p⟩
          else checkerStore t it e p bs
        | none => refuse t it.src it.id ⟨codeBounds, 0x0b4, p⟩
      | _ => s
    | none => s) s

/-! ## The ownership time-out (R44) -/

/-- An operation retried for 65,536 cycles against a cluster that is not assigned ends in BOUNDS. -/
def ownTimeout (s : State) (it : NetItem) : Option FaultInfo :=
  match it.op.target it.src.hart with
  | some (home, p) =>
    if !owned s it.src.launch home && decide (it.since + 65536 ≤ s.cycle) then some ⟨codeBounds, 0x0b2, p⟩ else none
  | none => none

/-- The pointer that a fault of a message engine's copy reports: the port of a message, the line or word of another. -/
def portOf (it : NetItem) : Word :=
  match it.op with
  | .msg dest _ _ => BitVec.ofNat 64 (7 * 2 ^ 60 + dest * 2 ^ 40)
  | op =>
    match op.target it.src.hart with
    | some (_, p) => p
    | none =>
      match op with
      | .orcDecl p _ | .orcApp p _ _ _ _ | .orcLdt p | .orcLds p _ => p
      | _ => 0

/-! ## Pointers of repair lines (R42, R63) -/

/-- H of a space 0x5 pointer. -/
def cellH (p : Word) : Bool := p.getLsbD 39
/-- The offset of a space 0x5 pointer. -/
def cellOff (p : Word) : Nat := if cellH p then p.toNat % 2 ^ 39 else offOf p

/-- The core whose unit is the home of a line; none for an extent that is not loaded. The home of a line of a HOST extent, whose
pages no slice holds, is not stated: DESIGN CHOICE, the channel core that the hash of its address names (log 70). -/
def cellHome (s : State) (L : Nat) (p : Word) : Option Nat :=
  if cellH p then
    match extentOf s L p with
    | some e => some (Config.nCompute + pseudoChannel (e.base + cellOff p))
    | none => none
  else some (indexOf p)

/-- The core's count of appends to a unit, which REGIME 1 sums at the ply barrier (R74). -/
def countSent (s : State) (h L : Nat) (home : Option Nat) : State :=
  match home with
  | some u =>
    let c := ctxOf s h L
    if (launchOf s L).any (·.regime) then putCtx s h { c with appends := SMap.modify c.appends u 0 (· + 1) } else s
  | none => s

/-- An append that was refused precisely counts for nothing, if its ply is still open (R250). -/
def uncount (s : State) (h L : Nat) (op : NetOp) : State :=
  match op with
  | .orcApp p stamp _ _ _ =>
    match cellHome s L p with
    | some u =>
      let c := ctxOf s h L
      if (launchOf s L).any (·.regime) && stampPly stamp == c.ply then putCtx s h { c with appends := SMap.modify c.appends u 0 (· - 1) } else s
    | none => s
  | _ => s

end Sys2Proof.Machine
end

