-- ==== Sys2Proof/Machine/Messages.lean ====
section
/-! DEFINITION. Messages: sends, acceptance, nacks and resends, arrival at a core, the overflow ring and pipeline placement
(spec/06 R107 to R116, spec/10 R174, spec/14 R254 to R256). -/

namespace Sys2Proof.Machine

/-! ## Answers to a message engine (R108, R111) -/

/-- A message or an answer put into the mesh. -/
def post (s : State) (src : Issuer) (op : NetOp) : State :=
  { s with nextId := s.nextId + 1, net := s.net ++ [{ id := s.nextId, src := src, op := op, prior := [], since := s.cycle }] }

/-- The acceptance of an operation on its way back; the placement engine keeps no copies. -/
def accept (s : State) (it : NetItem) : State := if it.src.hart = placer then s else post s it.src (.accept it.id)
/-- A nack on its way back. -/
def nack (s : State) (it : NetItem) (reason : Nat) (f : FaultInfo) : State :=
  if it.src.hart = placer then s else post s it.src (.nack it.id reason f)
/-- A refusal with a fault code on its way back (R110). -/
def refusal (s : State) (it : NetItem) (code : BitVec 16) (detail : BitVec 12) : State :=
  nack s it 15 ⟨code, detail, portOf it⟩
/-- A refusal whose DETAIL the spec does not state (log 4). -/
def refusalFree (s : State) (it : NetItem) (code : BitVec 16) : State :=
  refusal { s with fresh := s.fresh + 1 } it code (Config.freeDetail s.fresh)
/-- No fault. -/
def noFault : FaultInfo := ⟨0, 0, 0⟩

/-- The copy that the message engine of a core keeps of an operation (R111). -/
def keepCopy (s : State) (it : NetItem) : State :=
  let H := hartOf s it.src.hart
  putHart s it.src.hart { H with copies := H.copies ++ [⟨it, 0, none, 0, none⟩] }

/-- An operation of the current slot that is kept until it is accepted: it holds a KIND 6 entry (R28, R111). A pair holds it in its
commit buffer where buffer says so. -/
def sendVia (buffer : Bool) (op : NetOp) (d : OpDesc) (info : BitVec 50) : Op NetItem := do
  needSb 1
  let it ← issue buffer op d []
  addSb { SbEntry.plain it.id 6 info with item := some it }
  modState fun s => keepCopy s it
  return it

/-- One that a pair holds until its next agreement point (R200). -/
def sendKept (op : NetOp) (d : OpDesc) (info : BitVec 50) : Op NetItem := sendVia true op d info

/-! ## Sends (R254 to R256) -/

/-- Is it a destination index of R254? -/
def isDest (d : Nat) : Bool := decide (d < Config.nHarts) || (decide (0xb0000 ≤ d) && decide (d ≤ 0xd7fff))

/-- The destination that a port pointer names, or its precise fault. -/
def portDest (p : Word) : Op Nat := fun s =>
  let d := indexOf p
  if spaceOf p ≠ 7 ∨ p.toNat % 2 ^ 40 ≠ 0 then .error (.trap ⟨codeSpace, BitVec.ofNat 12 (spaceOf p), p⟩ none)
  else if !isDest d || (isCompute d && !inPlat s (curLaunch s) d) then .error (.trap ⟨codeBounds, 0x0b1, p⟩ none)
  else .ok (d, s)

/-- A header from its fields (R107). -/
def mkHeader (chan : BitVec 6) (pri : BitVec 2) (len kind : BitVec 4) (stamp : BitVec 48) : Word :=
  chan ++ pri ++ len ++ kind ++ stamp

/-- The cluster that a message's destination lies in: that of a compute core, or of an engine port (R127). -/
def destCluster (d : Nat) : Option Nat :=
  if isCompute d then some (clusterOfCore d)
  else if 0xb0000 ≤ d ∧ d < 0xc4000 then some (d - 0xb0000)
  else if 0xc4000 ≤ d ∧ d < 0xd8000 then some (d - 0xc4000)
  else none

/-- The location of a Send (R85); only sends within a cluster are kept at one destination and channel (R92 note m). -/
def sendLoc (s : State) (dest chan : Nat) : Loc :=
  let near := isCompute (curHart s) && destCluster dest == some (clusterOfCore (curHart s))
  ⟨2 ^ 22 + dest, if near then chan else 64 + s.nextId, 1⟩

/-- A Send as the matrices read it: a release at module scope (R84). -/
def sendDesc (s : State) (dest chan : Nat) : OpDesc :=
  { kinds := [.send], scope := .module, sc := false, loc := sendLoc s dest chan, space2 := false }

/-- A message stamped and sent. -/
def sendMessage (dest : Nat) (chan : BitVec 6) (pri : BitVec 2) (kind : BitVec 4) (payload : List Word) : Op Unit := do
  payload.forM noteResult
  let stamp ← takeStamp
  let s ← get
  let header := mkHeader chan pri (BitVec.ofNat 4 payload.length) kind stamp
  let _ ← sendKept (.msg dest header payload) (sendDesc s dest chan.toNat) (chan.zeroExtend 50)

/-- The payload registers a first to a first + len - 1. -/
def readBlock (first : Nat) : Nat → Op (List Word)
  | 0 => return []
  | len + 1 => do
    let w ← readNum first
    return w :: (← readBlock (first + 1) len)

/-- The checks and the effect that R254 gives, for a header's fields. -/
def sendOp (first : BitVec 5) (p : Word) (rest : Bool) (chan : BitVec 6) (pri : BitVec 2) (len : Nat) (data : Bool) : Op Unit := do
  let dest ← portDest p
  stopIf (rest) (trapAt codeReserved 0x0c0 0)
  stopIf (7 < len ∨ (0 < len ∧ 16 < first.toNat + len)) (trapAt codeReserved 0x0c1 0)
  stopIf (data && len == 0) (trapAt codeReserved 0x0c1 0)
  let payload ← readBlock first.toNat len
  sendMessage dest chan pri (if data then 0 else 1) payload

/-- msg.send and msg.sendd (R254): the header comes from the template T. -/
def msgSendOp (data : Bool) (first : BitVec 5) (x y : ASrc) (pri : BitVec 2) : Op Unit := do
  let p ← readA x
  let t ← readA y
  sendOp first p (t.extractLsb' 56 2 != 0 || t.extractLsb' 0 52 != 0) (t.extractLsb' 58 6) pri (t.extractLsb' 52 4).toNat data

/-- R254: msg.send. -/
def execMsgSend (d : BitVec 5) (x y : ASrc) (pri : BitVec 2) (s : State) : Host.Outcome State Fault Refusal :=
  plainA (msgSendOp false d x y pri) s
/-- R254: msg.sendd. -/
def execMsgSendd (d : BitVec 5) (x y : ASrc) (pri : BitVec 2) (s : State) : Host.Outcome State Fault Refusal :=
  plainA (msgSendOp true d x y pri) s

/-- msg.reply (R255). -/
def replyOp (d x y : ASrc) : Op Unit := do
  let p ← readA x
  let t ← readA y
  let w ← readA d
  let dest ← portDest p
  stopIf (w.toNat / 2 ^ 7 ≠ 0) (trapAt codeReserved 0x0c2 0)
  sendMessage dest 0 3 2 [w, t]

/-- R255: msg.reply. -/
def execMsgReply (d x y : ASrc) (s : State) : Host.Outcome State Fault Refusal := plainA (replyOp d x y) s

/-- sendl (R256): the header comes from the immediate. -/
def sendlOp (data : Bool) (d : BitVec 5) (x : ASrc) (imm : BitVec 32) : Op Unit := do
  let p ← readA x
  stopIf (imm.extractLsb' 0 20 ≠ 0) (trapAt codeReserved 0x0c3 0)
  sendOp d p false (imm.extractLsb' 26 6) (imm.extractLsb' 24 2) (imm.extractLsb' 20 4).toNat data

/-- R256: sendl.act. -/
def execSendlAct (d : BitVec 5) (x : ASrc) (imm : BitVec 32) (s : State) : Host.Outcome State Fault Refusal :=
  loneA (sendlOp false d x imm) s
/-- R256: sendl.data. -/
def execSendlData (d : BitVec 5) (x : ASrc) (imm : BitVec 32) (s : State) : Host.Outcome State Fault Refusal :=
  loneA (sendlOp true d x imm) s

/-! ## The overflow ring (R109, R113) -/

/-- The channel and the KIND of a header. -/
def chanOf (header : Word) : Nat := (header.extractLsb' 58 6).toNat
def kindOf (header : Word) : Nat := (header.extractLsb' 48 4).toNat
/-- The stamp of a header. -/
def stampOf (header : Word) : BitVec 48 := header.extractLsb' 0 48

/-- The capsule of a launch. -/
def capOf (s : State) (L : Nat) : Option Capsule := (launchOf s L).map (·.cap)

/-- The base of a hart's ring region (R49, R131). -/
def ringBase (cap : Option Capsule) (h : Nat) : Nat :=
  match cap with
  | some c => if isCompute h then c.ring.1 else 0xe000
  | none => 0

/-- The 64 bytes of a ring entry: header, payload and zeros (R49). -/
def entryBytes (header : Word) (payload : List Word) : List Byte :=
  ((header :: payload ++ List.replicate 7 0).take 8).flatMap fun w : Word => leBytes w.toNat 8

/-- The first index from the tail on, of a ring of n entries, at which no entry stands (R49). -/
def freeEntry (c : Ctx) (n : Nat) : Nat :=
  let ks := (upFrom c.ringTail n).map (· % n)
  (ks.find? fun k => !c.ring.any fun e => e.pos == k).getD 0

/-- SpillToRing: nothing where the ring has no free entry. The entry's 64 bytes are written at the ring's tail (R49). -/
def spill (s : State) (h L : Nat) (header : Word) (payload : List Word) (state : RingState) : Option State :=
  let c := ctxOf s h L
  let room := match capOf s L with
    | some cap => ringEntries cap h
    | none => 0
  if room ≤ c.ring.length then none
  else
    let k := freeEntry c room
    let e : RingEntry := { header := header, payload := payload, state := state, released := false, age := s.nextId, pos := k }
    let t := putCtx { s with nextId := s.nextId + 1 } h { c with ring := c.ring ++ [e], ringTail := (k + 1) % room }
    some (modHome t L h fun d => d.write (ringBase (capOf s L) h + 64 * k) (entryBytes header payload))

/-- May an arrival take a slot at once: a free slot, no ready ring entry, the entry unmasked, and selection allowed? -/
def takesSlot (s : State) (h L chan : Nat) : Bool :=
  let c := ctxOf s h L
  (freeSlot (hartOf s h)).isSome && !c.ring.any (fun e => e.state == .ready) && !c.masks.getLsbD chan && mayStart s h L

/-- A selection with the arriving message as its one candidate. -/
def startArrival (s : State) (h L : Nat) (header : Word) (payload : List Word) : State :=
  match freeSlot (hartOf s h) with
  | some n =>
    let low := (((launchOf s L).bind fun l => l.handler (chanOf header)).map (·.pri)) == some 0
    let t := if low then putHart s h { hartOf s h with passOver := 0 } else s
    startIn { t with nextId := t.nextId + 1 } h n L
      { header := header, payload := payload, state := .ready, released := false, age := t.nextId, pos := 0 }
  | none => s

/-- The order of R109 for a message that starts an activation: nothing is taken where the ring is full. -/
def takeMessage (s : State) (h L : Nat) (det : Bool) (header : Word) (payload : List Word) : Option State :=
  if det then spill s h L header payload .parked
  else if takesSlot s h L (chanOf header) then some (startArrival s h L header payload)
  else (spill s h L header payload .ready).map fun t => select t h

/-- Is an entry DET in a launch? -/
def isDet (s : State) (L chan : Nat) : Bool :=
  match (launchOf s L).bind fun l => l.handler chan with
  | some r => r.det
  | none => false

/-! ## Pipeline placement (R116) -/

/-- The item number of a message. A message of LEN 0 has no payload word to carry one, of which the spec says nothing: DESIGN
CHOICE, its number is 0 (log 71). -/
def itemOf (payload : List Word) : BitVec 32 := (payload.headD 0).extractLsb' 0 32

/-- Held entries of a channel that have become expected made ready in item order; fuel is the number of ring entries. -/
def releaseHeld (chan : Nat) : Nat → Ctx → Ctx
  | 0, c => c
  | n + 1, c =>
    let x := SMap.getD c.expected chan 0
    let mine (e : RingEntry) : Bool := e.state == .held && chanOf e.header == chan && itemOf e.payload == x
    if c.ring.any mine then
      releaseHeld chan n
        { c with ring := c.ring.map fun e => if mine e then { e with state := .ready } else e
                 expected := SMap.set chan (x + 1) c.expected }
    else c

/-- What a core answers to an arrival: it is taken, or nacked with a reason. -/
inductive Taken where
  | done (s : State)
  | nacked (reason : Nat)

/-- An arrival on a channel under pipeline placement. -/
def pipelineArrive (s : State) (h L : Nat) (header : Word) (payload : List Word) : Taken :=
  let chan := chanOf header
  let c := ctxOf s h L
  let pqd := match capOf s L with
    | some cap => cap.pqd
    | none => 1
  let d := (itemOf payload - SMap.getD c.expected chan 0).toNat
  if d = 0 then
    match takeMessage s h L false header payload with
    | some t =>
      let c1 := ctxOf t h L
      let c2 : Ctx := { c1 with expected := SMap.set chan (SMap.getD c.expected chan 0 + 1) c1.expected }
      .done (select (putCtx t h (releaseHeld chan c2.ring.length c2)) h)
    | none => .nacked 0
  else if 2 ^ 31 ≤ d then .done s
  else if d < pqd ∧ (c.ring.filter fun e => chanOf e.header == chan).length < pqd then
    match spill s h L header payload .held with
    | some t => .done t
    | none => .nacked 0
  else .nacked 4

/-- A message that starts an activation, under the capsule's placement. Stages stand on compute cores; start messages
carry no item. -/
def takeArrival (s : State) (h L : Nat) (header : Word) (payload : List Word) : Taken :=
  let pipe := (capOf s L).any (·.pipe) && isCompute h && kindOf header == 1 && stampSender (stampOf header) != placer
  if pipe then pipelineArrive s h L header payload
  else
    let det := isDet s L (chanOf header) && !(capOf s L).any (·.pipe)
    match takeMessage s h L det header payload with
    | some t => .done t
    | none => .nacked 0

/-! ## Arrival (R108 to R110, R174, R198, R345) -/

/-- Why a core turns a message away before it reads it: the reason, or a refusal. -/
inductive Turned where
  | no
  | nacked (reason : Nat)
  | refused (code : BitVec 16) (detail : BitVec 12)
  | refusedFree (code : BitVec 16)

/-- The first checks of an arrival: the sender's capsule must hold the core. -/
def turnedAway (s : State) (L h : Nat) : Turned :=
  if owned s L h then
    if (capOf s L).any (·.paired) && isCompute h && h % 2 == 1 then .refusedFree codeBounds else .no
  else if isCompute h then
    match platOfCore s h with
    | some (_, P) =>
      if P.state = .zeroing ∨ P.state = .fenced ∨ P.state = .spilling then .nacked 1 else .nacked 2
    | none => .nacked 2
  else .refused codeBounds 0x0b1

/-- The reply that a core sends for an arrival. A nacked message of the placement engine stays on its way. -/
def answerTurned (s t : State) (it : NetItem) : Turned → State
  | .no => t
  | .nacked r => if it.src.hart = placer then s else nack t it r noFault
  | .refused c d => refusal t it c d
  | .refusedFree c => refusalFree t it c

/-- A message that its destination has turned away for room, by its mask alone: with the mask clear it would take a slot. It stays for
the rest of the cycle, in which a sys.chmask may still let it in (R187), and is nacked once the cycle is over. -/
def maskHolds (s : State) (it : NetItem) (h L : Nat) (header : Word) : Bool :=
  let c := ctxOf s h L
  let open' := putCtx s h { c with masks := c.masks &&& ~~~BitVec.ofNat 64 (2 ^ chanOf header) }
  c.masks.getLsbD (chanOf header) && !isDet s L (chanOf header) && takesSlot open' h L (chanOf header) &&
  it.met.all (· == s.cycle)

/-- The operation in flight with the cycle of its arrival. -/
def meets (s : State) (it : NetItem) : State :=
  { s with net := s.net.map fun x => if x.id = it.id then { x with met := some (it.met.getD s.cycle) } else x }

/-- What becomes of an arrival that finds no room. -/
def noRoom (s t : State) (it : NetItem) (h L : Nat) (header : Word) (r : Nat) : State :=
  if r == 0 && maskHolds t it h L header then meets s it else answerTurned s t it (.nacked r)

/-- Did an arrival wait for its mask in a cycle that is over? -/
def metBefore (s : State) (it : NetItem) : Bool := it.met.any fun c => decide (c < s.cycle)

/-- A message that starts an activation: one that waited for its mask in vain is nacked. -/
def takeMet (s : State) (it : NetItem) (h L : Nat) (header : Word) (payload : List Word) : Taken :=
  if metBefore s it then .nacked 0 else takeArrival s h L header payload

/-- Is an entry refused to a message that starts an activation (R174)? -/
def entryRefused (s : State) (L : Nat) (header : Word) (len : Nat) : Bool :=
  let chan := chanOf header
  match (launchOf s L).bind fun l => l.handler chan with
  | some r => chan == 63 || (kindOf header == 1 && decide (r.rwin < len))
  | none => true

/-- The DETAIL with which a data message is refused as malformed (R108). -/
def dataRefused (s : State) (L h : Nat) (payload : List Word) : Option (BitVec 12) :=
  match payload with
  | [] => some 0x0b9
  | w :: ws =>
    let off := (w.extractLsb' 0 18).toNat
    let n := 8 * ws.length
    if w.toNat / 2 ^ 19 ≠ 0 ∨ off % 8 ≠ 0 then some 0x0b9
    else if ownBytes h < off + n then some 0x0b0
    else
      match capOf s L with
      | some c => if 0 < n ∧ (touchesRing c h off n || touchesStack c h off n || touchesKind c h 5 off n) then some 0x0b3 else none
      | none => none

/-- The words of a data message written at a core. -/
def writeMessage (s : State) (L h off : Nat) (ws : List Word) : State :=
  homeWrite s L h off (ws.flatMap fun w => leBytes w.toNat 8)

/-- Does a data message wake an activation? -/
def wakes (payload : List Word) : Bool := (payload.headD 0).getLsbD 18

/-- A message that is taken: recorded in the replay filter, and accepted. -/
def takenBy (s : State) (it : NetItem) (L h : Nat) (stamp : BitVec 48) : State :=
  accept (putCtx s h ((ctxOf s h L).record stamp none)) it

/-- An active message at its destination; s is the state with the message still on its way, t without it. -/
def activeArrive (s t : State) (it : NetItem) (h : Nat) (header : Word) (payload : List Word) : State :=
  let L := it.src.launch
  match turnedAway t L h with
  | .no =>
    if (ctxOf t h L).seen (stampOf header) then accept t it
    else if entryRefused t L header payload.length then refusal t it codeReserved (0x300 + BitVec.ofNat 12 (chanOf header))
    else
      match takeMet t it h L header payload with
      | .done u => takenBy u it L h (stampOf header)
      | .nacked r => noRoom s t it h L header r
  | a => answerTurned s t it a

/-- R109: ACTIVE_MESSAGE_ARRIVAL. -/
def execActiveMessageArrival (k : Nat) (s : State) : Host.Outcome State Fault Refusal :=
  event (fun s =>
    match performing s k with
    | some (it, t) =>
      match it.op with
      | .msg dest header payload =>
        if decide (dest < Config.nHarts) && kindOf header == 1 then activeArrive s t it dest header payload else s
      | _ => s
    | none => s) s

/-- A data message at its destination. -/
def dataArrive (s t : State) (it : NetItem) (h : Nat) (header : Word) (payload : List Word) : State :=
  let L := it.src.launch
  match turnedAway t L h with
  | .no =>
    let off := ((payload.headD 0).extractLsb' 0 18).toNat
    if (ctxOf t h L).seen (stampOf header) then accept t it
    else
      match dataRefused t L h payload with
      | some d => refusal t it codeBounds d
      | none =>
        match (if payload.length ≤ 1 then none else (ctxOf t h L).writeRefused h off (8 * (payload.length - 1))) with
        | some d => refusal t it codeQueueMisuse d
        | none =>
          if wakes payload then
            if entryRefused t L header payload.length then
              refusal t it codeReserved (0x300 + BitVec.ofNat 12 (chanOf header))
            else
              match takeMet (writeMessage t L h off (payload.drop 1)) it h L header payload with
              | .done u => takenBy u it L h (stampOf header)
              | .nacked r => noRoom s t it h L header r
          else takenBy (writeMessage t L h off (payload.drop 1)) it L h (stampOf header)
  | a => answerTurned s t it a

/-- R108: DATA_MESSAGE_ARRIVAL. -/
def execDataMessageArrival (k : Nat) (s : State) : Host.Outcome State Fault Refusal :=
  event (fun s =>
    match performing s k with
    | some (it, t) =>
      match it.op with
      | .msg dest header payload =>
        if decide (dest < Config.nHarts) && kindOf header == 0 then dataArrive s t it dest header payload else s
      | _ => s
    | none => s) s

/-- The live entry of a slot that a reply names, if it is of the given kind and the slot runs for the capsule that sent it (R345). -/
def namedEntry (s : State) (L h n num kind : Nat) : Option SbEntry :=
  let σ := slotOf s h n
  if σ.running && σ.ctx == L then σ.sb.find? fun e => e.num == some num && e.kind == kind else none

/-- A named entry settled with a value (R108, R118, R72). A reply whose entry is not live is dropped, and the number that was kept
for it is free again (R308). -/
def settleNamed (s : State) (L h n num kind : Nat) (w : Word) : State :=
  match namedEntry s L h n num kind with
  | some e => dropOut (settleSb s { hart := h, launch := L, slot := n, act := (slotOf s h n).act } e.id w (entryOf w) 0) h e.id
  | none => dropGone s h L n num kind

/-- R108: REPLY_MESSAGE_ARRIVAL. -/
def execReplyMessageArrival (k : Nat) (s : State) : Host.Outcome State Fault Refusal :=
  event (fun s =>
    match performing s k with
    | some (it, t) =>
      match it.op with
      | .msg dest header payload =>
        if decide (dest < Config.nHarts) && kindOf header == 2 then
          let w := payload.headD 0
          accept (settleNamed t it.src.launch dest (w.extractLsb' 0 3).toNat (w.extractLsb' 3 4).toNat 4 (payload.getD 1 0)) it
        else s
      | _ => s
    | none => s) s

/-! ## Nacks, resends and acceptance at the sender (R75, R111, R250) -/

/-- Does a slot wait for the answer to an operation? -/
def awaits (s : State) (src : Issuer) (id : Nat) : Bool :=
  runs s src && (match (slotOf s src.hart src.slot).aWait with
    | some (.answer i _) => i == id
    | _ => false)

/-- Does a slot of a halted launch wait for the answer (R203)? The answer stays on its way. -/
def answerHeld (s : State) (src : Issuer) (id : Nat) : Bool := awaits s src id && (launchOf s src.launch).any (·.halted)

/-- An append that requested a reply retires: it has consumed its sequence value (R250). -/
def retireAnswer (s : State) (src : Issuer) : State :=
  let c := ctxOf s src.hart src.launch
  let t := putCtx s src.hart { c with sseq := c.sseq + 1 }
  retireAt t src.hart src.slot (slotOf t src.hart src.slot) false .next

/-- An append that requested a reply is refused precisely: its entries go, what it took comes back, and its slot traps on
it (R250). -/
def trapAnswer (s : State) (src : Issuer) (id : Nat) (f : FaultInfo) : State :=
  let σ := (slotOf s src.hart src.slot).undoFor id
  trapEntry (dropOut (putSlot s src.hart src.slot σ) src.hart id) src.hart src.slot .aSide f

/-- R111: SEND_ACCEPTANCE. -/
def execSendAcceptance (k : Nat) (s : State) : Host.Outcome State Fault Refusal :=
  event (fun s =>
    match takeNet s k with
    | some (it, t) =>
      match it.op with
      | .accept id =>
        if answerHeld s it.src id then s
        else
        let u := dropOut (clearSb (dropCopy t it.src.hart id) it.src id) it.src.hart id
        if awaits u it.src id then retireAnswer u it.src else u
      | _ => s
    | none => s) s

/-- A refusal of REASON 15 at the sender: a late fault, or for an append that waits for its answer the precise fault of R250. -/
def refusedCopy (s : State) (src : Issuer) (id : Nat) (f : FaultInfo) : State :=
  let t := dropCopy s src.hart id
  if awaits t src id then
    if f.code = codeQueueMisuse ∧ (f.detail = 0x010 ∨ f.detail = 0x016) then
      match copyOf s src.hart id with
      | some c => trapAnswer (uncount t src.hart src.launch c.item.op) src id f
      | none => trapAnswer t src id f
    else refuse (retireAnswer t src) src id f
  else refuse t src id f

/-- An append whose retries have run out: its fault is late, and the message engine keeps its copy, so that it counts as
outstanding until redo or discard (R73, R75). -/
def exhausted (s : State) (src : Issuer) (c : SendCopy) (f : FaultInfo) : State :=
  let t := refusedCopy s src c.item.id f
  let H := hartOf t src.hart
  if runs t src then putHart t src.hart { H with copies := H.copies ++ [{ c with due := none }] } else t

/-- The end of a copy that REASON 2 has refused for 65,536 cycles (R44, R111). -/
def ownOver (s : State) (c : SendCopy) : Bool := c.due.isSome && c.firstOwn.any fun since => decide (since + 65536 ≤ s.cycle)

/-- The repair retry budget of a launch's plat (R75, R177). -/
def retryBudget (s : State) (L : Nat) : Nat := (platOfLaunch s L).rbudget.toNat

/-- A nack at the sender's message engine (R111): a resend is scheduled 64 x 2^min(k, 10) cycles later. -/
def scheduleResend (s : State) (h id reason : Nat) : State :=
  let H := hartOf s h
  let again (c : SendCopy) : SendCopy :=
    if c.item.id = id then
      { c with
        nacks := c.nacks + 1
        due := some (s.cycle + 64 * 2 ^ min c.nacks 10)
        retries := if reason = 3 then c.retries + 1 else c.retries
        firstOwn := if reason = 2 then some (c.firstOwn.getD s.cycle) else none }
    else c
  putHart s h { H with copies := H.copies.map again }

/-- R111: NACK_MESSAGE_ARRIVAL. -/
def execNackMessageArrival (k : Nat) (s : State) : Host.Outcome State Fault Refusal :=
  event (fun s =>
    match takeNet s k with
    | some (it, t) =>
      match it.op with
      | .nack id reason f =>
        match copyOf t it.src.hart id with
        | some c =>
          if answerHeld s it.src id then s
          else if reason = 15 then refusedCopy t it.src id f
          else if reason = 3 ∧ retryBudget s it.src.launch ≤ c.retries then s
          else scheduleResend t it.src.hart id reason
        | none => t
      | _ => s
    | none => s) s

/-- R75: ORC_RETRY_BUDGET_EXHAUSTED. The append's entry stays; the fault is late. -/
def execOrcRetryBudgetExhausted (k : Nat) (s : State) : Host.Outcome State Fault Refusal :=
  event (fun s =>
    match takeNet s k with
    | some (it, t) =>
      match it.op with
      | .nack id reason _ =>
        match copyOf t it.src.hart id with
        | some c =>
          if reason = 3 ∧ retryBudget s it.src.launch ≤ c.retries ∧ answerHeld s it.src id = false then
            exhausted { t with fresh := t.fresh + 1 } it.src c ⟨codeOrcOverflow, Config.freeDetail t.fresh, portOf c.item⟩
          else s
        | none => s
      | _ => s
    | none => s) s

/-- Every copy of every message engine, with its core. -/
def allCopies (s : State) : List (Nat × SendCopy) := s.harts.flatMap fun p => p.2.copies.map fun c => (p.1, c)

/-- R44: the time-out of the k-th operation of the net, or after those of the k-th copy that a message engine keeps. -/
def retryTimeout (k : Nat) (s : State) : State :=
  match takeNet s k with
  | some (it, t) =>
    match ownTimeout s it with
    | some f =>
      match it.op with
      | .flush _ _ ps =>
        (flushSrcs s it ps).foldl (fun u x => lateFault u x.1 (some x.2.1.id) { f with addr := x.2.1.ptr })
          (failOuts t it.src.hart (ps.map (·.id)))
      | _ => refuse t it.src it.id f
    | none => s
  | none =>
    match (allCopies s)[k - s.net.length]? with
    | some (_, c) => if ownOver s c && !answerHeld s c.item.src c.item.id then refusedCopy s c.item.src c.item.id ⟨codeBounds, 0x0b2, portOf c.item⟩ else s
    | none => s

/-- R44: OWNERSHIP_RETRY_TIMEOUT. -/
def execOwnershipRetryTimeout (k : Nat) (s : State) : Host.Outcome State Fault Refusal := event (retryTimeout k) s

/-- R111: MESSAGE_RESEND. The k-th copy whose back-off has run out is sent again, unless its time is over (R44). -/
def execMessageResend (k : Nat) (s : State) : Host.Outcome State Fault Refusal :=
  event (fun s =>
    match (allCopies s)[k]? with
    | some (h, c) =>
      match c.due with
      | some d =>
        if ownOver s c then refusedCopy s c.item.src c.item.id ⟨codeBounds, 0x0b2, portOf c.item⟩
        else if d ≤ s.cycle then
          let H := hartOf s h
          let sent (x : SendCopy) : SendCopy := if x.item.id = c.item.id then { x with due := none } else x
          let t := putHart s h { H with copies := H.copies.map sent }
          { t with net := t.net ++ [{ c.item with since := s.cycle, met := none }] }
        else s
      | none => s
    | none => s) s

end Sys2Proof.Machine
end

