-- ==== Sys2Proof/Machine/Cells.lean ====
section
/-! DEFINITION. The words of order-repair cells and what their homes do: declaring, appending, loading, and the advance of
the watermark (spec/04 R63 to R77, spec/14 R249 to R252). -/

namespace Sys2Proof.Machine

/-! ## Pointers of repair lines (R42, R63) -/

/-- The location of a line for the matrices: its granule at its home. -/
def cellLoc (p : Word) : Loc :=
  ⟨if cellH p then 2 ^ 25 + extOf p else 2 ^ 24 + indexOf p, cellOff p / 64 * 64, 64⟩

/-- What a home refuses: a granule in a ring, stack or future-link region, or an extent that does not hold it with both
rights. -/
def cellRefused (s : State) (L : Nat) (p : Word) : Option (BitVec 12) :=
  let g := cellOff p / 64 * 64
  if cellH p then
    match extentOf s L p with
    | some e => if e.len < g + 64 ∨ !(e.rights.getLsbD 0 && e.rights.getLsbD 1) then some 0x0b4 else none
    | none => some 0x0b4
  else
    match capOf s L with
    | some c =>
      let h := indexOf p
      if touchesRing c h g 64 || touchesStack c h g 64 || touchesKind c h 5 g 64 then some 0x0b3 else none
    | none => none

/-- The checks on a repair pointer that the issuing core makes (R8, R42, R43, R63; log 57): the order-repair view is one of compute
cores alone; decl asks for a whole granule. -/
def cellCheck (p : Word) (decl : Bool) : Op Unit := do
  let s ← get
  let sp := spaceOf p
  let h := curHart s
  let L := curLaunch s
  let reserved := if cellH p then p.toNat / 2 ^ 40 % 2 ^ 14 else p.toNat / 2 ^ 18 % 2 ^ 21
  stopIf (sp ≠ 5 ∨ reserved ≠ 0 ∨ !isCompute h) (trapAt codeSpace (BitVec.ofNat 12 sp) p)
  stopIf (decl && cellOff p % 64 != 0) (trapFree codeAlign p)
  if cellH p then
    if cellHome s L p = some h then
      stopSome (cellRefused s L p) (fun d => trapAt codeBounds d p)
  else do
    stopIf (Config.nCompute ≤ indexOf p ∨ inPlat s L (indexOf p) = false) (trapAt codeBounds 0x0b1 p)
    stopIf (Config.scratchBytes ≤ offOf p) (trapAt codeBounds 0x0b0 p)
    if indexOf p = h then
      stopSome (cellRefused s L p) (fun d => trapAt codeBounds d p)

/-- An order-repair operation as the matrices read it. -/
def cellDesc (k : OpKind) (p : Word) : OpDesc := { kinds := [k], scope := .plat, sc := false, loc := cellLoc p, space2 := false }

/-! ## The words (R249 to R252) -/

/-- R249: orc.decl. -/
def execOrcDecl (x : ASrc) (cls : OrcClass) (s : State) : Host.Outcome State Fault Refusal :=
  plainA (do
    let p ← readA x
    cellCheck p true
    let _ ← sendKept (.orcDecl p cls) (cellDesc .oApp p) 0) s

/-- The operand's low half: the register after an even register a0 to a14 (R250). -/
def opndLow (y : ASrc) : Op Word :=
  match y with
  | .a n => if n.val % 2 = 0 ∧ n.val < 15 then readNum (n.val + 1) else return 0
  | _ => return 0

/-- An append without reply. -/
def appendOp (p x y : Word) : Op Unit := do
  let stamp ← takeStamp
  let _ ← sendKept (.orcApp p stamp x y none) (cellDesc .oApp p) 0
  modState fun s => countSent s (curHart s) (curLaunch s) (cellHome s (curLaunch s) p)

/-- An append that requests a reply: its sequence value is consumed, and the word retires, at the home's answer. On a pair its
agreement point has come before it, and it is performed at once (R200). -/
def appendReply (before : Slot) (d : ADst) (p x y : Word) : Op Unit := do
  agreeFirst
  let stamp ← peekStamp
  needSb 2
  let num ← takeNum
  let it ← sendVia false (.orcApp p stamp x y (some num)) (cellDesc .oApp p) 0
  modState fun s => countSent s (curHart s) (curLaunch s) (cellHome s (curLaunch s) p)
  let id := (← get).nextId
  modState fun s => { s with nextId := id + 1 }
  reserve d id
  addSb { SbEntry.plain id 5 (infoOf p) with num := some num, destCode := dstCode d, dst := some d, item := some it }
  let s ← get
  waitWith (.answer it.id (undoOf before (curSlot s))) s

/-- The append whose answer a slot waits for, with what its word took. -/
def Slot.answering (σ : Slot) : Option (Nat × Undo) :=
  match σ.aWait with
  | some (.answer id u) => some (id, u)
  | _ => none

/-- orc.app (R250). -/
def orcAppOp (d : ADst) (x y : ASrc) : Op Unit := do
  let before ← getSlot
  stopSome before.answering (fun a => waitFor (.answer a.1 a.2))
  let p ← readA x
  let t ← readA y
  let low ← opndLow y
  cellCheck p false
  noteResult t
  noteResult low
  match d with
  | .z => appendOp p t low
  | d => appendReply before d p t low

/-- R250: orc.app. -/
def execOrcApp (d : ADst) (x y : ASrc) (s : State) : Host.Outcome State Fault Refusal := plainA (orcAppOp d x y) s

/-- R251: orc.ldt. -/
def execOrcLdt (d : ADst) (x : ASrc) (t : ADst) (s : State) : Host.Outcome State Fault Refusal :=
  plainA (do
    let p ← readA x
    cellCheck p false
    agreeFirst
    needSb 1
    let it ← issue false (.orcLdt p) (cellDesc .oLdT p) []
    reserve d it.id
    reserve t it.id
    addSb { SbEntry.plain it.id 2 (infoOf p) with destCode := dstCode d, dst := some d, dst2 := some t, item := some it }) s

/-- R252: orc.lds. -/
def execOrcLds (d : ADst) (x y : ASrc) (s : State) : Host.Outcome State Fault Refusal :=
  plainA (do
    let p ← readA x
    let t ← readA y
    cellCheck p false
    let b := t.extractLsb' 0 16
    let c := (curCtx (← get)).ply
    stopIf (b ≠ c ∧ b ≠ c - 1) (trapAt codeQueueMisuse 0x014 p)
    agreeFirst
    let it ← issue false (.orcLds p b) (cellDesc .oLdS p) []
    addPending 5 d p it) s

/-! ## At the home -/

/-- The home of an arriving send of a repair operation, or the answer that turns it away. -/
def cellArrive (t : State) (it : NetItem) (p : Word) (body : Nat → State) : State :=
  let L := it.src.launch
  match cellHome t L p with
  | none => refusal t it codeBounds 0x0b4
  | some home =>
    if !owned t L home then (if cellH p then refusal t it codeBounds 0x0b4 else nack t it 2 noFault)
    else
      match cellRefused t L p with
      | some d => refusal t it codeBounds d
      | none => body home

/-- A line declared with its current 64 bytes in BASE (R63). -/
def declareLine (t : State) (it : NetItem) (home : Nat) (p : Word) (cls : OrcClass) : State :=
  let L := it.src.launch
  let g := granulePtr p
  let mk (base : Vec) : OrLine := { gran := cellOff p / 64 * 64, ptr := g, cls := cls, base := base, hist := [] }
  let add (u : State) (l : OrLine) : State :=
    let c := ctxOf u home L
    let v := putCtx u home { c with unit := { c.unit with lines := c.unit.lines ++ [l] } }
    accept (modLaunch v L fun x => if x.units.contains home then x else { x with units := x.units ++ [home] }) it
  if cellH p then
    match extentOf t L p with
    | some e =>
      if extentPoisoned t e (cellOff p / 64 * 64) 64 then refusalFree t it codeUncorrectable
      else add (extentTouch t e (cellOff p)) (mk (vecOf (extentBytes t e (cellOff p / 64 * 64) 64)))
    | none => refusal t it codeBounds 0x0b4
  else
    let u := invalidateHome (recallU t L home (offOf p)) L home (offOf p)
    add u (mk (vecOf (Memory.bytes (ctxOf u home L).scratch (offOf p / 64 * 64) 64)))

/-- The location of a line's bytes as loads and stores reach them. -/
def lineLoc (home : Nat) (p : Word) : Loc :=
  if cellH p then ⟨extHome (extOf p), cellOff p / 64 * 64, 64⟩ else ⟨home, cellOff p / 64 * 64, 64⟩

/-- orc.decl at its home (R63, R77). One of a line to which a write has been accepted that is not yet performed stays on its way:
s is the state that still has it (log 63). -/
def declArrive (s t : State) (it : NetItem) (p : Word) (cls : OrcClass) : State :=
  let L := it.src.launch
  cellArrive t it p fun home =>
    let u := (ctxOf t home L).unit
    let units := match launchOf t L with
      | some l => l.units
      | none => []
    match u.line (granulePtr p) with
    | some l => if l.cls = cls then accept t it else refusal t it codeQueueMisuse 0x011
    | none =>
      if 255 ≤ u.lines.length ∨ (!units.contains home && decide (64 ≤ units.length)) then
        refusal t it codeQueueMisuse 0x015
      else if sureAt t L (lineLoc home p) then s
      else declareLine t it home p cls

/-- R63: ORC_DECL_ARRIVAL. -/
def execOrcDeclArrival (k : Nat) (s : State) : Host.Outcome State Fault Refusal :=
  event (fun s =>
    match performing s k with
    | some (it, t) =>
      match it.op with
      | .orcDecl p cls => declArrive s t it p cls
      | _ => s
    | none => s) s

/-- An append inserted in its line's history, recorded and acknowledged (R67). -/
def insertAppend (t : State) (it : NetItem) (home : Nat) (l : OrLine) (p : Word) (stamp : BitVec 48) (x y : Word)
    (rq : Option Nat) : State :=
  let L := it.src.launch
  let e : HistEntry :=
    { stamp := stamp, x := x, y := y, elem := cellOff p % 64 / orcSize l.cls, rq := rq.isSome, rslot := it.src.slot,
      rsb := rq.getD 0 }
  let c := (ctxOf t home L).record stamp none
  let u := c.unit.putLine (l.insert e)
  accept (putCtx t home { c with unit := if u.regime then u.countAppend (stampPly stamp) else u }) it

/-- orc.app at its home (R67, R71, R76, R250). -/
def appendArrive (t : State) (it : NetItem) (p : Word) (stamp : BitVec 48) (x y : Word) (rq : Option Nat) : State :=
  let L := it.src.launch
  cellArrive t it p fun home =>
    let c := ctxOf t home L
    match c.unit.line (granulePtr p) with
    | none => refusal t it codeQueueMisuse 0x010
    | some l =>
      if cellOff p % orcSize l.cls ≠ 0 then refusalFree t it codeAlign
      else if rq.isSome && !orcReplies l.cls then refusal t it codeQueueMisuse 0x016
      else if c.seen stamp then accept t it
      else if stampLE stamp c.unit.swm then
        let P := match launchOf t L with
          | some l => l.plat
          | none => 0
        refusalFree (logStamped t (some stamp) codeStale (Config.freeDetail t.fresh) P (platOf t P).tag (stampSender stamp) p) it codeStale
      else if l.hist.any (fun e => e.stamp == stamp) then accept t it
      else if 16 ≤ l.hist.length then nack t it 3 noFault
      else insertAppend t it home l p stamp x y rq

/-- R67: ORC_APPEND_ARRIVAL. -/
def execOrcAppendArrival (k : Nat) (s : State) : Host.Outcome State Fault Refusal :=
  event (fun s =>
    match performing s k with
    | some (it, t) =>
      match it.op with
      | .orcApp p stamp x y rq => appendArrive t it p stamp x y rq
      | _ => s
    | none => s) s

/-- The home and the line of a load, with the element, or what refuses the load (R63, R77, R250). -/
def cellLoad (t : State) (it : NetItem) (p : Word) (body : Nat → OrLine → Nat → State) : State :=
  let L := it.src.launch
  match cellHome t L p with
  | none => refuse t it.src it.id ⟨codeBounds, 0x0b4, p⟩
  | some home =>
    match cellRefused t L p with
    | some d => refuse t it.src it.id ⟨codeBounds, d, p⟩
    | none =>
      match (ctxOf t home L).unit.line (granulePtr p) with
      | none => refuse t it.src it.id ⟨codeQueueMisuse, 0x010, p⟩
      | some l =>
        if cellOff p % orcSize l.cls ≠ 0 then refuseFree t it.src it.id codeAlign p
        else body home l (cellOff p % 64 / orcSize l.cls)

/-- The tentative load at its home (R69): the value over the accepted history, and the settled flag. -/
def ldtArrive (t : State) (it : NetItem) (p : Word) : State :=
  cellLoad t it p fun _ l k =>
    let w : Word := BitVec.ofNat 64 (l.value k none)
    let flag : Word := if l.hist.any (fun e => e.elem == k) then 0 else 1
    dropOut (settleSb t it.src it.id w (entryOf w) flag) it.src.hart it.id

/-- R69: ORC_TENTATIVE_LOAD_ARRIVAL. -/
def execOrcTentativeLoadArrival (k : Nat) (s : State) : Host.Outcome State Fault Refusal :=
  event (fun s =>
    match arriving s k with
    | some (it, t) =>
      match it.op with
      | .orcLdt p => ldtArrive t it p
      | _ => s
    | none => s) s

/-- The settled load at its home (R70): served at exactly End(b), else it waits at the unit. -/
def ldsArrive (t : State) (it : NetItem) (p : Word) (b : BitVec 16) : State :=
  let L := it.src.launch
  cellLoad t it p fun home l k =>
    let c := ctxOf t home L
    if c.unit.swm = endOf b then
      let w : Word := BitVec.ofNat 64 (l.value k (some (endOf b)))
      served t it w (entryOf w)
    else putCtx t home { c with unit := { c.unit with waiting := c.unit.waiting ++ [it] } }

/-- R70: ORC_SETTLED_LOAD_ARRIVAL. -/
def execOrcSettledLoadArrival (k : Nat) (s : State) : Host.Outcome State Fault Refusal :=
  event (fun s =>
    match arriving s k with
    | some (it, t) =>
      match it.op with
      | .orcLds p b => ldsArrive t it p b
      | _ => s
    | none => s) s

/-! ## The advance of the watermark (R72 to R74) -/

/-- Does a waiting load name the ply? -/
def bound (it : NetItem) (n : BitVec 16) : Bool :=
  match it.op with
  | .orcLds _ b => b == n
  | _ => false

/-- A waiting load served at the watermark. -/
def serveWaiting (home L : Nat) (s : State) (it : NetItem) : State :=
  match it.op with
  | .orcLds p _ =>
    match (ctxOf s home L).unit.line (granulePtr p) with
    | some l =>
      let w : Word := BitVec.ofNat 64 (l.elem (cellOff p % 64 / orcSize l.cls))
      served s it w (entryOf w)
    | none => s
  | _ => s

/-- A unit advanced to End(n): its lines settle one at a time, prior values are replied, and its waiting loads of the bound
are served (R72). -/
def advanceUnit (L : Nat) (n : BitVec 16) (s : State) (home : Nat) : State :=
  let c := ctxOf s home L
  let r := c.unit.settle (endOf n)
  let u : OrUnit :=
    { r.1 with
      swm := endOf n
      counts := r.1.counts.filter fun x => x.ply != n
      waiting := r.1.waiting.filter fun it => !bound it n }
  let t := putCtx s home { c with unit := u }
  let v := r.2.foldl (fun t x => settleNamed t L (stampSender x.1.stamp) x.1.rslot x.1.rsb 5 (BitVec.ofNat 64 x.2)) t
  (c.unit.waiting.filter fun it => bound it n).foldl (serveWaiting home L) v

/-- Has a unit of REGIME 1 accepted the total of the ply after its watermark? -/
def caughtUp (u : OrUnit) : Bool :=
  u.regime && u.counts.any fun c => c.ply == stampPly u.swm + 1 && c.total == some c.accepted

/-- R74: SEQUENCE_WATERMARK_ADVANCE. Each state of the unit beside core h that has its total advances by one ply. -/
def execSequenceWatermarkAdvance (unit : Nat) (s : State) : Host.Outcome State Fault Refusal :=
  event (fun s => (hartOf s unit).ctxs.foldl (fun t c =>
    if caughtUp c.unit then advanceUnit c.launch (stampPly c.unit.swm + 1) t unit else t) s) s

end Sys2Proof.Machine
end

