-- ==== Sys2Proof/Machine/Futures.lean ====
section
/-! DEFINITION. Futures: the words that read, write and empty them, and their homes with the lists of waiting readers
(spec/03 R46 R51, spec/06 R117 R118, spec/07 R131, spec/14 R253). -/

namespace Sys2Proof.Machine

/-! ## Nodes of the future-link region (R51) -/

/-- Nodes of a capsule's future-link region on a compute core, and the region's base. -/
def linkRegion (s : State) (L h : Nat) : Nat × Nat :=
  match capOf s L with
  | some c =>
    match (if isCompute h then c.regions 5 else []) with
    | r :: _ => (r.1, min (r.2 / 16) 65535)
    | [] => (0, 0)
  | none => (0, 0)

/-- Word 1 of a node: next, channel, sender. -/
def nodeWord (next chan sender : Nat) : Word := BitVec.ofNat 64 (next % 2 ^ 16 * 2 ^ 32 + chan % 64 * 2 ^ 20 + sender % 2 ^ 20)

/-- A waiter linked at the head of the list of an empty future; nothing where no node is free (R51, R117). -/
def linkWaiter (s : State) (L home off chan sender : Nat) (tag : Word) : Option State :=
  let c := ctxOf s home L
  match c.futFree with
  | n :: ns =>
    let a := (linkRegion s L home).1 + 16 * n
    let head := Memory.readN c.scratch off 2
    let t := putCtx s home { c with futFree := ns }
    some (modHome t L home fun d =>
      let m := Memory.writeN d.scratch a 8 tag.toNat
      { d with scratch := Memory.writeN (Memory.writeN m (a + 8) 8 (nodeWord head chan sender).toNat) off 8 (n + 1) })
  | [] => none

/-- The waiting nodes from a list head, newest first: index, channel, sender and tag. -/
def waiters (m : Memory) (base : Nat) : Nat → Nat → List (Nat × Nat × Nat × Word)
  | 0, _ => []
  | fuel + 1, n =>
    if n = 0 then []
    else
      let a := base + 16 * (n - 1)
      let w := Memory.readN m (a + 8) 8
      (n - 1, w / 2 ^ 20 % 64, w % 2 ^ 20, Memory.word m a) :: waiters m base fuel (w / 2 ^ 32 % 2 ^ 16)

/-- The waiters of an empty future. -/
def waitersOf (s : State) (L home off : Nat) : List (Nat × Nat × Nat × Word) :=
  let r := linkRegion s L home
  let c := ctxOf s home L
  waiters c.scratch r.1 r.2 (Memory.readN c.scratch off 2)

/-- A message of a home core: it carries the core's index and the next of its sequence values (R118, R253). -/
def homeSend (s : State) (L home dest : Nat) (chan : BitVec 6) (pri : BitVec 2) (kind : BitVec 4) (payload : List Word) :
    State :=
  let c := ctxOf s home L
  let header := mkHeader chan pri (BitVec.ofNat 4 payload.length) kind (mkStamp c.ply home c.sseq)
  let t := putCtx s home { c with sseq := c.sseq + 1 }
  let it : NetItem :=
    { id := t.nextId, src := { hart := home, launch := L, slot := 8, act := 0 }, op := .msg dest header payload, prior := [],
      since := t.cycle }
  keepCopy { t with nextId := t.nextId + 1, net := t.net ++ [it] } it

/-- The active message with which a continuation read is served; its PRI is not stated (log 4). -/
def sendContinuation (s : State) (L home dest chan : Nat) (value tag : Word) : State :=
  homeSend { s with fresh := s.fresh + 1 } L home dest (BitVec.ofNat 6 chan) ((Config.freeWord s.fresh).extractLsb' 56 2) 1
    [value, tag]

/-- One waiter served (R118). -/
def serveWaiter (L home : Nat) (value : Word) (s : State) (w : Nat × Nat × Nat × Word) : State :=
  if w.2.1 = 63 then homeSend s L home w.2.2.1 0 3 2 [w.2.2.2, value]
  else sendContinuation s L home w.2.2.1 w.2.1 value w.2.2.2

/-- Can a home take n sequence values (R30)? -/
def hasSseq (s : State) (L home n : Nat) : Bool :=
  n == 0 || (decide ((ctxOf s home L).sseq + n ≤ 4096) && !answerPending s home L)

/-- A write to an empty future: it is filled and its waiters are served, newest first, in one step (R118). -/
def fillFuture (s : State) (L home off : Nat) (value : Word) : State :=
  let ws := waitersOf s L home off
  let c := ctxOf s home L
  let t := putCtx s home { c with futFree := (ws.map (·.1)).reverse ++ c.futFree }
  let u := modHome t L home fun d => { (d.fill off) with scratch := Memory.writeN d.scratch off 8 value.toNat }
  ws.foldl (serveWaiter L home value) (invalidateHome u L home off)

/-- A full future emptied (R253). -/
def emptyFuture (s : State) (L home off : Nat) : State :=
  let t := recallU s L home off
  invalidateHome (modHome t L home fun d => { (d.drainWord off) with scratch := Memory.writeN d.scratch off 8 0 }) L home off

/-- The value of a full future. -/
def futureValue (s : State) (L home off : Nat) : Word × State :=
  let t := recallU s L home off
  (BitVec.ofNat 64 (leValue ((ctxOf t home L).read home off 8)), t)

/-- Does a word lie in a declared line (R253)? -/
def inLine (s : State) (L home off : Nat) : Bool := ((ctxOf s home L).unit.line (linePtr home off)).isSome

/-! ## The words (R253) -/

/-- A future operation as the matrices read it, at module scope. -/
def futDesc (k : OpKind) (home off sp : Nat) : OpDesc :=
  { kinds := [k], scope := .module, sc := false, loc := ⟨home, off, 8⟩, space2 := sp == 2 }

/-- The home and the offset of a checked future pointer, and whether it is the core's own. -/
def futTarget (p : Word) (store : Bool) : Op (Nat × Nat × Bool) := do
  let t ← checked p 8 3 store false false
  let s ← get
  let L := curLaunch s
  match t with
  | .own o => do
    stopIf (inLine s L (curHart s) o) (trapAt codeQueueMisuse 0x012 p)
    return (curHart s, o, true)
  | .mesh home o _ => return (home, o, false)
  | _ => trapAt codeSpace (BitVec.ofNat 12 (spaceOf p)) p

/-- An operation that is in order and takes place at the issuer's own home at once: it stays among the slot's operations
until its answer, and travels nowhere. -/
def issueHere (op : NetOp) (d : OpDesc) : Op NetItem := do
  inOrder d
  let it ← issue false op d []
  modState fun s => { s with net := s.net.filter fun x => x.id != it.id }
  return it

/-- A blocking read that is pending (R117): linked at the own home at once where a node is free, else on its way. -/
def pendRead (d : ADst) (p : Word) (home off : Nat) (own : Bool) (desc : OpDesc) : Op Unit := do
  needSb 1
  let num ← takeNum
  let s ← get
  let tag : Word := BitVec.ofNat 64 (curNum s + 8 * num)
  let here := own && !(curCtx s).futFree.isEmpty
  let it ← (if here then issueHere (.futRd p tag) desc else issue false (.futRd p tag) desc [])
  reserve d it.id
  addSb { SbEntry.plain it.id 4 (infoOf p) with num := some num, destCode := dstCode d, dst := some d, item := some it }
  if here then modState fun s => (linkWaiter s (curLaunch s) home off 63 (curHart s) tag).getD s
  else modState fun s => keepCopy s it

/-- fut.rd. -/
def futRdOp (d : ADst) (x : ASrc) : Op Unit := do
  let p ← readA x
  let (home, off, own) ← futTarget p false
  agreeFirst
  let s ← get
  let desc := futDesc .ldA home off (spaceOf p)
  if own && !(curCtx s).isEmpty off then do
    inOrder desc
    let r := futureValue (← get) (curLaunch s) home off
    modState fun _ => r.2
    writeA d r.1
  else do
    stopIf (own && !isCompute home) (trapAt codeQueueMisuse 0x033 p)
    pendRead d p home off own desc

/-- R253: fut.rd. -/
def execFutRd (d : ADst) (x : ASrc) (s : State) : Host.Outcome State Fault Refusal := plainA (futRdOp d x) s

/-- fut.rdc. DESIGN CHOICE: of two faults of one word, those of the pointer come before that of the channel (log 89). -/
def futRdcOp (d : Fin 16) (x y : ASrc) : Op Unit := do
  let p ← readA x
  let tag ← readA y
  let chan := ((← readNum d.val).extractLsb' 0 6).toNat
  let (home, off, own) ← futTarget p false
  stopIf (chan = 63) (trapAt codeQueueMisuse 0x030 p)
  agreeFirst
  let s ← get
  let L := curLaunch s
  let desc := futDesc .ldA home off (spaceOf p)
  if own && !(curCtx s).isEmpty off then do
    inOrder desc
    stopIf (!hasSseq s L home 1) (waitFor .sseq)
    let r := futureValue (← get) L home off
    modState fun _ => sendContinuation r.2 L home (curHart s) chan r.1 tag
  else do
    stopIf (own && !isCompute home) (trapAt codeQueueMisuse 0x033 p)
    if own && !(curCtx s).futFree.isEmpty then do
      inOrder desc
      modState fun s => (linkWaiter s L home off chan (curHart s) tag).getD s
    else do
      let _ ← sendKept (.futRdc p chan tag) desc 0

/-- R253: fut.rdc. -/
def execFutRdc (d : Fin 16) (x y : ASrc) (s : State) : Host.Outcome State Fault Refusal := plainA (futRdcOp d x y) s

/-- fut.wr. -/
def futWrOp (x y : ASrc) : Op Unit := do
  let p ← readA x
  let v ← readA y
  let (home, off, own) ← futTarget p true
  noteResult v
  let s ← get
  let L := curLaunch s
  let desc := futDesc .stR home off (spaceOf p)
  if own then do
    stopIf (!(curCtx s).isEmpty off) (trapAt codeQueueMisuse 0x031 p)
    agreeFirst
    pushBytes .module
    inOrder desc
    stopIf (!hasSseq s L home (waitersOf s L home off).length) (waitFor .sseq)
    modState fun t => fillFuture t L home off v
  else do
    let _ ← sendKept (.futWr p v) desc 0

/-- R253: fut.wr. -/
def execFutWr (x y : ASrc) (s : State) : Host.Outcome State Fault Refusal := plainA (futWrOp x y) s

/-- fut.clr. -/
def futClrOp (x : ASrc) : Op Unit := do
  let p ← readA x
  let (home, off, own) ← futTarget p true
  let s ← get
  let L := curLaunch s
  let desc := futDesc .st home off (spaceOf p)
  if own then do
    let c := curCtx s
    stopIf (c.isEmpty off && Memory.readN c.scratch off 2 != 0) (trapAt codeQueueMisuse 0x032 p)
    agreeFirst
    inOrder desc
    stopIf (sureAt (← get) L desc.loc) (fun _ => .error (.order []))
    if !c.isEmpty off then modState fun t => emptyFuture t L home off
  else do
    let _ ← sendKept (.futClr p) desc 0

/-- R253: fut.clr. -/
def execFutClr (x : ASrc) (s : State) : Host.Outcome State Fault Refusal := plainA (futClrOp x) s

/-! ## At the home -/

/-- The checks of a home on a future operation (R44, R243, R253), or the answer that turns it away. -/
def futArrive (t : State) (it : NetItem) (p : Word) (store : Bool) (body : Nat → Nat → State) : State :=
  let L := it.src.launch
  let home := homeOf it.src.hart p
  let off := offOf p
  if !owned t L home then nack t it 2 noFault
  else if regionRefused t L home off 8 store then refusal t it codeBounds 0x0b3
  else if inLine t L home off then refusal t it codeQueueMisuse 0x012
  else body home off

/-- A blocking read at its home (R117). -/
def readArrive (t : State) (it : NetItem) (p tag : Word) : State :=
  let L := it.src.launch
  futArrive t it p false fun home off =>
    if (ctxOf t home L).isEmpty off then
      match linkWaiter t L home off 63 it.src.hart tag with
      | some u => dropCopy u it.src.hart it.id
      | none => nack t it 5 noFault
    else
      let r := futureValue t L home off
      served (dropCopy r.2 it.src.hart it.id) it r.1 (entryOf r.1)

/-- A continuation read at its home (R117, R253); s is the state with the read still on its way. -/
def continueArrive (s t : State) (it : NetItem) (p : Word) (chan : Nat) (tag : Word) : State :=
  let L := it.src.launch
  futArrive t it p false fun home off =>
    if (ctxOf t home L).isEmpty off then
      match linkWaiter t L home off chan it.src.hart tag with
      | some u => accept u it
      | none => nack t it 5 noFault
    else if hasSseq t L home 1 then
      let r := futureValue t L home off
      accept (sendContinuation r.2 L home it.src.hart chan r.1 tag) it
    else s

/-- R117: FUTURE_READ_ARRIVAL. -/
def execFutureReadArrival (k : Nat) (s : State) : Host.Outcome State Fault Refusal :=
  event (fun s =>
    match performing s k with
    | some (it, t) =>
      match it.op with
      | .futRd p tag => readArrive t it p tag
      | .futRdc p chan tag => continueArrive s t it p chan tag
      | _ => s
    | none => s) s

/-- R118: FUTURE_WRITE_ARRIVAL. -/
def execFutureWriteArrival (k : Nat) (s : State) : Host.Outcome State Fault Refusal :=
  event (fun s =>
    match performing s k with
    | some (it, t) =>
      match it.op with
      | .futWr p v =>
        futArrive t it p true fun home off =>
          let L := it.src.launch
          if !(ctxOf t home L).isEmpty off then refusal t it codeQueueMisuse 0x031
          else if hasSseq t L home (waitersOf t L home off).length then accept (fillFuture t L home off v) it
          else s
      | _ => s
    | none => s) s

/-- R253: FUTURE_CLEAR_ARRIVAL. -/
def execFutureClearArrival (k : Nat) (s : State) : Host.Outcome State Fault Refusal :=
  event (fun s =>
    match performing s k with
    | some (it, t) =>
      match it.op with
      | .futClr p =>
        futArrive t it p true fun home off =>
          let c := ctxOf t home it.src.launch
          if sureAt t it.src.launch ⟨home, off, 8⟩ then s
          else if !c.isEmpty off then accept (emptyFuture t it.src.launch home off) it
          else if Memory.readN c.scratch off 2 = 0 then accept t it
          else refusal t it codeQueueMisuse 0x032
      | _ => s
    | none => s) s

end Sys2Proof.Machine
end

