-- ==== Sys2Proof/Machine/Barrier.lean ====
section
/-! DEFINITION. Fences, the ply barrier and the repair regimes (spec/04 R73 R74 R78, spec/06 R114, spec/14 R257 R258). -/

namespace Sys2Proof.Machine

/-! ## Fences (R258) -/

/-- Is every earlier operation of slot n of core h performed for the observers of a scope? The slots of a core see its
coalesced bytes (R61). -/
def fenceDone (s : State) (h n : Nat) (sc : Scope) : Bool :=
  (hartOf s h).out.all fun o =>
    o.slot != n || o.act != (slotOf s h n).act || (sc == .core && (coalesced s h).contains o.id)

/-- fence.all: the coalesced bytes homed in the scope are pushed first. -/
def fenceOp (sc : Scope) : Op Unit := do
  pushBytes sc
  let s ← get
  stopIf (!fenceDone s (curHart s) (curNum s) sc) (waitWith (.fence sc) s)

/-- R258: fence.all. -/
def execFenceAll (sc : Scope) (s : State) : Host.Outcome State Fault Refusal := plainA (fenceOp sc) s

/-- R258: FENCE_COMPLETE. A late fault of an operation that the fence waits for comes first. -/
def execFenceComplete (h n : Nat) (s : State) : Host.Outcome State Fault Refusal :=
  event (fun s =>
    let σ := slotOf s h n
    match slotRuns s h n && σ.nextLate.isNone, σ.aWait with
    | true, some (.fence sc) => if fenceDone s h n sc then retireAt s h n σ false .next else s
    | _, _ => s) s

/-! ## msg.plyend (R257) -/

/-- msg.plyend as the matrices read it (R84). It reaches no location. -/
def plyDesc : OpDesc := { kinds := [.plyEnd], scope := .plat, sc := false, loc := ⟨2 ^ 26, 0, 0⟩, space2 := false }

/-- The order of a ply end: it waits for what the matrices keep before it for every observer, an acquire load at module scope (R90),
and for the homes to accept what is kept before it in the plat, which the barrier orders (R98; log 63). A settled load waits at its
unit for the close (R70). -/
def plyOrder : Op Unit := fun s =>
  let kept := (keptBefore (curEarlier s).reverse [plyDesc]).filter fun o => !o.kinds.contains .oLdS
  let ids := kept.map (·.id)
  if (priorsOf s plyDesc).isEmpty && kept.all (accepts s (curHart s) (curLaunch s)) then .ok ((), makeSure s (curHart s) ids)
  else .error (.order ids)

/-- msg.plyend: it waits for KIND 6 entries, then pushes the core's coalesced bytes and waits, listed, at the barrier. -/
def plyendOp : Op Unit := do
  let σ ← getSlot
  stopIf (σ.sb.any (fun e => e.kind == 6)) (waitFor (.pending 6))
  plyOrder
  pushBytes .plat
  modState fun t => putCurCtx t { curCtx t with arrived := true }
  let t ← get
  waitWith .ply t

/-- R257: msg.plyend. -/
def execMsgPlyend (s : State) : Host.Outcome State Fault Refusal := plainA plyendOp s

/-! ## The barrier (R257) -/

/-- Has a core arrived, its coalesced bytes being applied (R54)? A core without running slots has been idle since the barrier began
(log 17). -/
def hasArrived (s : State) (h L : Nat) : Bool :=
  (arrivedItself s h L || (slotsOf (hartOf s h) L).isEmpty) && (coalesced s h).isEmpty

/-- The open ply of a launch: that of its cores. -/
def plyOf (s : State) (L : Nat) : BitVec 16 :=
  match coresOf s L with
  | h :: _ => (ctxOf s h L).ply
  | [] => 0

/-- Is an item an append of launch L? -/
def NetItem.appends (L : Nat) (it : NetItem) : Bool :=
  it.src.launch == L && (match it.op with
    | .orcApp _ _ _ _ _ => true
    | _ => false)

/-- Is an append of launch L still neither accepted nor refused? A message engine keeps a copy of each, and of one whose retries have
run out until redo or discard (R73, R75); one may stand in the mesh whose entry has been discarded, and one that is never performed
unless redo sends it (R98, R308) in the scoreboard. -/
def appendOpen (s : State) (L : Nat) : Bool :=
  s.net.any (·.appends L) || s.harts.any fun p =>
    (p.2.copies.any fun c => c.item.appends L) ||
    (slotsOf p.2 L).any fun σ => σ.sb.any fun e => e.item.any (·.appends L)

/-- Is a settled load of launch L with a bound other than ply n in flight to its unit (R70, R257)? -/
def earlierLoad (s : State) (L : Nat) (n : BitVec 16) : Bool :=
  let early (it : NetItem) : Bool := it.src.launch == L && (match it.op with
    | .orcLds _ b => b != n
    | _ => false)
  s.net.any early

/-- Would the close of ply n open a fifth ply beyond the watermark of a unit under REGIME 1 (R74)? -/
def tooFar (s : State) (L : Nat) (n : BitVec 16) : Bool :=
  s.harts.any fun p => p.2.hasCtx L && (p.2.ctx L).unit.regime &&
    decide (4 < (n + 1 - stampPly (p.2.ctx L).unit.swm).toNat)

/-- Can the barrier of a launch complete? Idleness alone begins none. -/
def barrierReady (s : State) (L : Nat) (l : Launch) : Bool :=
  let hs := coresOf s L
  let n := plyOf s L
  l.loaded && !l.halted && barrierBegun s L && hs.all (fun h => hasArrived s h L) &&
  (l.regime || !appendOpen s L) && !earlierLoad s L n && !tooFar s L n

/-- The sum of a launch's appends of the closing ply to a unit (R74). -/
def totalFor (s : State) (L unit : Nat) : Nat :=
  (s.harts.foldl (fun a p => if p.2.hasCtx L then a + SMap.getD (p.2.ctx L).appends unit 0 else a) 0) % 2 ^ 16

/-- A unit of REGIME 1 advanced through the plies whose totals it has accepted, at most the given number (R74). -/
def advanceCaught (L h : Nat) : Nat → State → State
  | 0, s => s
  | k + 1, s =>
    let u := (ctxOf s h L).unit
    if caughtUp u then advanceCaught L h k (advanceUnit L (stampPly u.swm + 1) s h) else s

/-- A unit at the close of ply n: it settles under REGIME 0; under REGIME 1 a listed unit takes its total, and advances where it has
accepted it, and another advances as if its total were 0 (R39, R74). -/
def closeUnit (L : Nat) (l : Launch) (n : BitVec 16) (s : State) (h : Nat) : State :=
  let c := ctxOf s h L
  if c.unit.regime && l.units.contains h then
    advanceCaught L h 5 (putCtx s h { c with unit := c.unit.putTotal n (totalFor s L h) })
  else advanceUnit L n s h

/-- What the end of the barrier orders for the observers of the plat: the operations that the waiting slots issued before it and that
are not yet performed are performed before later ones at their locations (R89, R90; log 63). A settled load waits at its unit. -/
def plyGuards (s : State) (L h : Nat) : List Guard :=
  let H := hartOf s h
  let waits (o : OutOp) : Bool :=
    let σ := H.slot o.slot
    σ.running && σ.ctx == L && σ.act == o.act && σ.aWait == some .ply && !o.kinds.contains .oLdS
  (H.out.filter waits).map fun o =>
    { src := { hart := h, launch := L, slot := o.slot, act := o.act }, scope := .plat, loc := o.loc, ids := [o.id], after := s.nextId }

/-- Entries in ascending sender index and sequence. -/
def insertEntry (e : RingEntry) : List RingEntry → List RingEntry
  | [] => [e]
  | f :: fs =>
    if (e.header.extractLsb' 0 32).toNat < (f.header.extractLsb' 0 32).toNat then e :: f :: fs else f :: insertEntry e fs

/-- The parked entries of ply n, sorted, made ready, with ages from a number upward (R114). -/
def releaseParked (n : BitVec 16) (age : Nat) (ring : List RingEntry) : List RingEntry :=
  let mine (e : RingEntry) : Bool := e.state == .parked && stampPly (stampOf e.header) == n
  let sorted := (ring.filter mine).foldr insertEntry []
  ring.filter (fun e => !mine e) ++
    (sorted.zip (upFrom age sorted.length)).map fun x => { x.1 with state := .ready, released := true, age := x.2 }

/-- An L1 line's amax copy at a ply close: OPEN merges into CLOSED (R78). -/
def L1Line.closePly (l : L1Line) : L1Line :=
  match l.ucls with
  | some op =>
    if isAmax op then
      let n := amoSize op
      let merged := (touched l.umask n).foldl (fun v i =>
        vecPutElem v i n (amoApply op (vecElem v i n) (vecElem l.udata i n))) l.uclosed
      { l with udata := 0, umask := 0, uclosed := merged, umaskClosed := l.umaskClosed ||| l.umask }
    else l
  | none => l

/-- The class and the offset of a key of OPEN partials. -/
def openAt (k : Nat) : AmoOp × Nat := if k % 2 = 1 then (.amaxb, k / 2) else (.amax, k / 2)

/-- A home's amax partials at a ply close: OPEN merges into CLOSED, and the updates held for the new ply enter OPEN (R78,
R248). -/
def Ctx.closeAmax (c : Ctx) (new : BitVec 16) : Ctx :=
  let c1 := c.amaxOpen.foldl (fun d x =>
    let k := openAt x.1
    let n := amoSize k.1
    d.putElem k.2 n (amoApply k.1 (Memory.readN d.scratch k.2 n) x.2.toNat)) c
  let c2 : Ctx := { c1 with amaxOpen := [], amaxHeld := [], ply := new }
  c.amaxHeld.foldl (fun d it =>
    match it.op with
    | .amo p op t ply => (placeAmax d (offOf p) op t.toNat ply).getD { d with amaxHeld := d.amaxHeld ++ [it] }
    | _ => d) c2

/-- The lines whose home elements change at a ply close lose their S copies. -/
def invalidateOpen (s : State) (h : Nat) (c : Ctx) : State :=
  c.amaxOpen.foldl (fun t x => invalidate t h (x.1 / 2)) s

/-- A core's context moved to the next ply: parked entries released, amax partials merged, ply and sseq. -/
def closeCore (L : Nat) (n : BitVec 16) (s : State) (h : Nat) : State :=
  let t := invalidateOpen s h (ctxOf s h L)
  let c := ctxOf t h L
  let c1 : Ctx :=
    { c with ring := releaseParked n t.nextId c.ring, sseq := 0, appends := [], arrived := false }
  let u := putCtx { t with nextId := t.nextId + c.ring.length } h (c1.closeAmax (n + 1))
  let H := hartOf u h
  if isCompute h then putHart u h { H with l1 := H.l1.map fun x => (x.1, x.2.closePly) } else u

/-- The slots of a core that wait at the barrier resume. -/
def resumePly (L : Nat) (s : State) (h : Nat) : State :=
  (upFrom 0 8).foldl (fun t n =>
    let σ := slotOf t h n
    if σ.running && σ.ctx == L && σ.aWait == some .ply then retireAt t h n σ false .next else t) s

/-- May the plat's regime change to the given one after the close of ply n: back to REGIME 0 only when every watermark has
reached the last closed ply (R74)? -/
def regimeAllowed (s : State) (L : Nat) (n : BitVec 16) (r : Bool) : Bool :=
  r || s.harts.all fun p => !p.2.hasCtx L || (p.2.ctx L).unit.swm == endOf n

/-- The regime that a launch waits for taken at a ply boundary (R74). -/
def changeRegime (s : State) (L : Nat) (n : BitVec 16) : State :=
  match (launchOf s L).bind (·.regimeNext) with
  | some r =>
    if regimeAllowed s L n r then
      let t := modLaunch s L fun l => { l with regime := r, regimeNext := none }
      (coresOf t L).foldl (fun u h => putCtx u h { ctxOf u h L with unit := { (ctxOf u h L).unit with regime := r } }) t
    else s
  | none => s

/-- From the end of the barrier onward no selection takes place on the compute cores of a plat that a pre-emption has been
requested for (R119, R194). -/
def holdSelection (s : State) (L : Nat) (l : Launch) : State :=
  let P := platOf s l.plat
  if P.state = .quiescing ∧ P.quiesce = 1 then modLaunch s L fun x => { x with preempting := true } else s

/-- The close of the open ply of a launch, in the order of R257 step 4. -/
def closePly (s : State) (L : Nat) (l : Launch) : State :=
  let n := plyOf s L
  let hs := coresOf s L
  let t := hs.foldl (closeUnit L l n) s
  let u := hs.foldl (closeCore L n) t
  let v := holdSelection (hs.foldl (resumePly L) (changeRegime u L n)) L l
  let w := addGuards v (hs.flatMap (plyGuards s L))
  hs.foldl (fun x h => selectAmong (maySelect x h) x h) w

/-- R257: PLY_BARRIER_COMPLETE. -/
def execPlyBarrierComplete (plat : Nat) (s : State) : Host.Outcome State Fault Refusal :=
  event (fun s =>
    match (platOf s plat).launch with
    | some L =>
      match launchOf s L with
      | some l => if barrierReady s L l then closePly s L l else s
      | none => s
    | none => s) s

/-- R74: REGIME_CHANGE. The firmware's switch takes effect at the plat's next ply boundary. -/
def execRegimeChange (plat : Nat) (s : State) : Host.Outcome State Fault Refusal :=
  event (fun s =>
    match (platOf s plat).launch with
    | some L => modLaunch s L fun l => { l with regimeNext := some (!l.regime) }
    | none => s) s

end Sys2Proof.Machine
end

