-- ==== Sys2Proof/Machine/Scalar.lean ====
section
/-! DEFINITION. The scalar instructions of the E-side: ia and iai (spec/15 R262, R263), fa (R264 to R266), cvt with shape s
(R267, spec/18 R313), pr (R268), and nop.x. -/

namespace Sys2Proof.Machine

/-! ## Shapes of words -/

/-- An X-word that writes f of its two sources (R260). -/
def iaOp (f : Word → Word → Word) (d : EDst) (x y : ESrc) (s : State) : Host.Outcome State Fault Refusal :=
  wordE .none (do
    let a ← readE x
    let b ← readE y
    writeE d (f a b)) s

/-- An X-word that writes f of one source (R260). -/
def iaiOp (f : Word → Word) (d : EDst) (x : ESrc) (s : State) : Host.Outcome State Fault Refusal :=
  wordE .none (do
    let a ← readE x
    writeE d (f a)) s

/-- Leading zero bits. -/
def clzW (x : Word) : Word := BitVec.ofNat 64 (if x = 0 then 64 else 63 - Nat.log2 x.toNat)
/-- Trailing zero bits. -/
def ctzW (x : Word) : Word := BitVec.ofNat 64 (((upFrom 0 64).find? fun i => x.getLsbD i).getD 64)
/-- One bits. -/
def popcW (x : Word) : Word := BitVec.ofNat 64 ((upFrom 0 64).filter fun i => x.getLsbD i).length

/-- A signed result clamped to w bits, with the condition SAT where it clamps. -/
def clampS (w : Nat) (v : Int) : Int × Bool :=
  if v < -(2 ^ (w - 1) : Int) then (-(2 ^ (w - 1) : Int), true)
  else if (2 ^ (w - 1) : Int) ≤ v then ((2 ^ (w - 1) : Int) - 1, true)
  else (v, false)

/-- An X-word whose exact signed result is clamped (R262). -/
def satOp (f : Int → Int → Int) (d : EDst) (x y : ESrc) (s : State) : Host.Outcome State Fault Refusal :=
  wordE .none (do
    let a ← readE x
    let b ← readE y
    let r := clampS 64 (f a.toInt b.toInt)
    writeE d (BitVec.ofInt 64 r.1)
    setFlags { Fl.zero with sat := r.2 }) s

/-! ## ia (R262) -/
/-- R262: ia.add. -/
def execIaAdd (d : EDst) (x y : ESrc) (s : State) : Host.Outcome State Fault Refusal := iaOp (fun a b => a + b) d x y s
/-- R262: ia.sub. -/
def execIaSub (d : EDst) (x y : ESrc) (s : State) : Host.Outcome State Fault Refusal := iaOp (fun a b => a - b) d x y s
/-- R262: ia.and. -/
def execIaAnd (d : EDst) (x y : ESrc) (s : State) : Host.Outcome State Fault Refusal := iaOp (fun a b => a &&& b) d x y s
/-- R262: ia.or. -/
def execIaOr (d : EDst) (x y : ESrc) (s : State) : Host.Outcome State Fault Refusal := iaOp (fun a b => a ||| b) d x y s
/-- R262: ia.xor. -/
def execIaXor (d : EDst) (x y : ESrc) (s : State) : Host.Outcome State Fault Refusal := iaOp (fun a b => a ^^^ b) d x y s
/-- R262: ia.sll. -/
def execIaSll (d : EDst) (x y : ESrc) (s : State) : Host.Outcome State Fault Refusal := iaOp sllW d x y s
/-- R262: ia.srl. -/
def execIaSrl (d : EDst) (x y : ESrc) (s : State) : Host.Outcome State Fault Refusal := iaOp srlW d x y s
/-- R262: ia.sra. -/
def execIaSra (d : EDst) (x y : ESrc) (s : State) : Host.Outcome State Fault Refusal := iaOp sraW d x y s
/-- R262: ia.mul. -/
def execIaMul (d : EDst) (x y : ESrc) (s : State) : Host.Outcome State Fault Refusal := iaOp (fun a b => a * b) d x y s
/-- R262: ia.mulh. -/
def execIaMulh (d : EDst) (x y : ESrc) (s : State) : Host.Outcome State Fault Refusal := iaOp mulhS d x y s
/-- R262: ia.mulhu. -/
def execIaMulhu (d : EDst) (x y : ESrc) (s : State) : Host.Outcome State Fault Refusal := iaOp mulhU d x y s
/-- R262: ia.div. -/
def execIaDiv (d : EDst) (x y : ESrc) (s : State) : Host.Outcome State Fault Refusal := iaOp divS d x y s
/-- R262: ia.divu. -/
def execIaDivu (d : EDst) (x y : ESrc) (s : State) : Host.Outcome State Fault Refusal := iaOp divU d x y s
/-- R262: ia.rem. -/
def execIaRem (d : EDst) (x y : ESrc) (s : State) : Host.Outcome State Fault Refusal := iaOp remS d x y s
/-- R262: ia.remu. -/
def execIaRemu (d : EDst) (x y : ESrc) (s : State) : Host.Outcome State Fault Refusal := iaOp remU d x y s
/-- R262: ia.min. -/
def execIaMin (d : EDst) (x y : ESrc) (s : State) : Host.Outcome State Fault Refusal := iaOp minS d x y s
/-- R262: ia.max. -/
def execIaMax (d : EDst) (x y : ESrc) (s : State) : Host.Outcome State Fault Refusal := iaOp maxS d x y s
/-- R262: ia.minu. -/
def execIaMinu (d : EDst) (x y : ESrc) (s : State) : Host.Outcome State Fault Refusal := iaOp minU d x y s
/-- R262: ia.maxu. -/
def execIaMaxu (d : EDst) (x y : ESrc) (s : State) : Host.Outcome State Fault Refusal := iaOp maxU d x y s
/-- R262: ia.slt. -/
def execIaSlt (d : EDst) (x y : ESrc) (s : State) : Host.Outcome State Fault Refusal := iaOp sltW d x y s
/-- R262: ia.sltu. -/
def execIaSltu (d : EDst) (x y : ESrc) (s : State) : Host.Outcome State Fault Refusal := iaOp sltuW d x y s
/-- R262: ia.clz. -/
def execIaClz (d : EDst) (x : ESrc) (s : State) : Host.Outcome State Fault Refusal := iaiOp clzW d x s
/-- R262: ia.ctz. -/
def execIaCtz (d : EDst) (x : ESrc) (s : State) : Host.Outcome State Fault Refusal := iaiOp ctzW d x s
/-- R262: ia.popc. -/
def execIaPopc (d : EDst) (x : ESrc) (s : State) : Host.Outcome State Fault Refusal := iaiOp popcW d x s
/-- R262: ia.sel; both sources are read, and both pop. -/
def execIaSel (d : EDst) (x y : ESrc) (p : Fin 8) (s : State) : Host.Outcome State Fault Refusal :=
  wordE .none (do
    let a ← readE x
    let b ← readE y
    let m ← readP p
    writeE d (if m.getLsbD 0 then a else b)) s
/-- R262: ia.adds. -/
def execIaAdds (d : EDst) (x y : ESrc) (s : State) : Host.Outcome State Fault Refusal := satOp (fun a b => a + b) d x y s
/-- R262: ia.subs. -/
def execIaSubs (d : EDst) (x y : ESrc) (s : State) : Host.Outcome State Fault Refusal := satOp (fun a b => a - b) d x y s

/-! ## iai (R263) -/
/-- R263: iai.addi. -/
def execIaiAddi (d : EDst) (x : ESrc) (imm : BitVec 16) (s : State) : Host.Outcome State Fault Refusal :=
  iaiOp (fun a => a + imm.signExtend 64) d x s
/-- R263: iai.andi. -/
def execIaiAndi (d : EDst) (x : ESrc) (imm : BitVec 16) (s : State) : Host.Outcome State Fault Refusal :=
  iaiOp (fun a => a &&& imm.zeroExtend 64) d x s
/-- R263: iai.ori. -/
def execIaiOri (d : EDst) (x : ESrc) (imm : BitVec 16) (s : State) : Host.Outcome State Fault Refusal :=
  iaiOp (fun a => a ||| imm.zeroExtend 64) d x s
/-- R263: iai.xori. -/
def execIaiXori (d : EDst) (x : ESrc) (imm : BitVec 16) (s : State) : Host.Outcome State Fault Refusal :=
  iaiOp (fun a => a ^^^ imm.zeroExtend 64) d x s
/-- R263: iai.slli. -/
def execIaiSlli (d : EDst) (x : ESrc) (sh : BitVec 6) (s : State) : Host.Outcome State Fault Refusal :=
  iaiOp (fun a => sllW a (sh.zeroExtend 64)) d x s
/-- R263: iai.srli. -/
def execIaiSrli (d : EDst) (x : ESrc) (sh : BitVec 6) (s : State) : Host.Outcome State Fault Refusal :=
  iaiOp (fun a => srlW a (sh.zeroExtend 64)) d x s
/-- R263: iai.srai. -/
def execIaiSrai (d : EDst) (x : ESrc) (sh : BitVec 6) (s : State) : Host.Outcome State Fault Refusal :=
  iaiOp (fun a => sraW a (sh.zeroExtend 64)) d x s
/-- R263: iai.lui. -/
def execIaiLui (d : EDst) (imm : BitVec 16) (s : State) : Host.Outcome State Fault Refusal :=
  wordE .none (writeE d (imm.signExtend 64 <<< 16)) s

/-! ## fa (R264) -/

/-- A floating-point word of one source: f answers the pattern and the conditions, from the mode and the pattern of S. -/
def faOne (f : Nat → Nat → Nat × Fl) (d : EDst) (x : ESrc) (s : State) : Host.Outcome State Fault Refusal :=
  wordE .none (do
    let a ← readE x
    let r := f (← roundMode) a.toNat
    writeE d (BitVec.ofNat 64 r.1)
    setFlags r.2) s

/-- A floating-point word of two sources. -/
def faTwo (f : Nat → Nat → Nat → Nat × Fl) (d : EDst) (x y : ESrc) (s : State) : Host.Outcome State Fault Refusal :=
  wordE .none (do
    let a ← readE x
    let b ← readE y
    let r := f (← roundMode) a.toNat b.toNat
    writeE d (BitVec.ofNat 64 r.1)
    setFlags r.2) s

/-- A fused word, which reads D as the addend. -/
def faThree (f : Nat → FV → FV → FV → Nat × Fl) (fmt : FpFmt) (d : Fin 16) (x y : ESrc) (s : State) :
    Host.Outcome State Fault Refusal :=
  wordE .none (do
    let a ← readE x
    let b ← readE y
    let c ← readE (.e d)
    let r := f (← roundMode) (readFp fmt a.toNat) (readFp fmt b.toNat) (readFp fmt c.toNat)
    writeE (.e d) (BitVec.ofNat 64 r.1)
    setFlags r.2) s

/-- S + T (R264). -/
def addFp (f : FpFmt) (rm a b : Nat) : Nat × Fl := sumFp f rm false [readFp f a, readFp f b]
/-- S - T (R264). -/
def subFp (f : FpFmt) (rm a b : Nat) : Nat × Fl := sumFp f rm false [readFp f a, (readFp f b).negate]

/-- S with its sign bit changed: cleared, or inverted; a NaN gives the canonical one (R264). -/
def signFp (f : FpFmt) (invert : Bool) (a : Nat) : Nat × Fl :=
  let top := 2 ^ (fmtBits f - 1)
  let b := match f with
    | .e8m10 => a % 2 ^ 32 / 2 ^ 13 * 2 ^ 13
    | _ => a % 2 ^ fmtBits f
  match readFp f a with
  | .nan sg => (nanFp f, { Fl.zero with nv := sg })
  | _ => ((if invert && decide (b < top) then b + top else if invert then b - top else b % top), Fl.zero)

/-- The compares of R265: equality, less, less or equal. -/
def ceqFp (f : FpFmt) (a b : Nat) : Bool × Fl :=
  let x := readFp f a
  let y := readFp f b
  (eqFV x y, { Fl.zero with nv := x.isSnan || y.isSnan })
def cltFp (f : FpFmt) (a b : Nat) : Bool × Fl :=
  let x := readFp f a
  let y := readFp f b
  (!x.isNan && !y.isNan && ltFV x y, { Fl.zero with nv := x.isNan || y.isNan })
def cleFp (f : FpFmt) (a b : Nat) : Bool × Fl :=
  let x := readFp f a
  let y := readFp f b
  (!x.isNan && !y.isNan && (ltFV x y || eqFV x y), { Fl.zero with nv := x.isNan || y.isNan })

/-- A condition as the integer result of a compare. -/
def boolRes (r : Bool × Fl) : Nat × Fl := (if r.1 then 1 else 0, r.2)

/-- R264: fa.add. -/
def execFaAdd (d : EDst) (x y : ESrc) (f : FpFmt) (s : State) : Host.Outcome State Fault Refusal := faTwo (addFp f) d x y s
/-- R264: fa.sub. -/
def execFaSub (d : EDst) (x y : ESrc) (f : FpFmt) (s : State) : Host.Outcome State Fault Refusal := faTwo (subFp f) d x y s
/-- R264: fa.mul. -/
def execFaMul (d : EDst) (x y : ESrc) (f : FpFmt) (s : State) : Host.Outcome State Fault Refusal :=
  faTwo (fun rm a b => mulFp f rm (readFp f a) (readFp f b)) d x y s
/-- R264: fa.fma. -/
def execFaFma (d : Fin 16) (x y : ESrc) (f : FpFmt) (s : State) : Host.Outcome State Fault Refusal :=
  faThree (fun rm a b c => fmaFp f rm a b c) f d x y s
/-- R264: fa.fms. -/
def execFaFms (d : Fin 16) (x y : ESrc) (f : FpFmt) (s : State) : Host.Outcome State Fault Refusal :=
  faThree (fun rm a b c => fmaFp f rm a b c.negate) f d x y s
/-- R264: fa.fnma. -/
def execFaFnma (d : Fin 16) (x y : ESrc) (f : FpFmt) (s : State) : Host.Outcome State Fault Refusal :=
  faThree (fun rm a b c => fmaFp f rm a.negate b c) f d x y s
/-- R264, R265: fa.min. -/
def execFaMin (d : EDst) (x y : ESrc) (f : FpFmt) (s : State) : Host.Outcome State Fault Refusal :=
  faTwo (fun _ a b => extremeFp f false a b) d x y s
/-- R264, R265: fa.max. -/
def execFaMax (d : EDst) (x y : ESrc) (f : FpFmt) (s : State) : Host.Outcome State Fault Refusal :=
  faTwo (fun _ a b => extremeFp f true a b) d x y s
/-- R264: fa.abs. -/
def execFaAbs (d : EDst) (x : ESrc) (f : FpFmt) (s : State) : Host.Outcome State Fault Refusal :=
  faOne (fun _ a => signFp f false a) d x s
/-- R264: fa.neg. -/
def execFaNeg (d : EDst) (x : ESrc) (f : FpFmt) (s : State) : Host.Outcome State Fault Refusal :=
  faOne (fun _ a => signFp f true a) d x s
/-- R264, R266: fa.rcpe. -/
def execFaRcpe (d : EDst) (x : ESrc) (f : FpFmt) (s : State) : Host.Outcome State Fault Refusal :=
  faOne (fun _ a => rcpeFp f (readFp f a)) d x s
/-- R264: fa.rcps. -/
def execFaRcps (d : EDst) (x y : ESrc) (f : FpFmt) (s : State) : Host.Outcome State Fault Refusal :=
  faTwo (fun rm a b => fmaFp f rm (readFp f a).negate (readFp f b) (.fin false 2 0)) d x y s
/-- R264, R266: fa.rsqe. -/
def execFaRsqe (d : EDst) (x : ESrc) (f : FpFmt) (s : State) : Host.Outcome State Fault Refusal :=
  faOne (fun _ a => rsqeFp f (readFp f a)) d x s
/-- R264: fa.sqrt. -/
def execFaSqrt (d : EDst) (x : ESrc) (f : FpFmt) (s : State) : Host.Outcome State Fault Refusal :=
  faOne (fun rm a => sqrtFp f rm (readFp f a)) d x s
/-- R264, R265: fa.class. -/
def execFaClass (d : EDst) (x : ESrc) (f : FpFmt) (s : State) : Host.Outcome State Fault Refusal :=
  faOne (fun _ a => (classFp f a, Fl.zero)) d x s
/-- R264: fa.ceq. -/
def execFaCeq (d : EDst) (x y : ESrc) (f : FpFmt) (s : State) : Host.Outcome State Fault Refusal :=
  faTwo (fun _ a b => boolRes (ceqFp f a b)) d x y s
/-- R264: fa.clt. -/
def execFaClt (d : EDst) (x y : ESrc) (f : FpFmt) (s : State) : Host.Outcome State Fault Refusal :=
  faTwo (fun _ a b => boolRes (cltFp f a b)) d x y s
/-- R264: fa.cle. -/
def execFaCle (d : EDst) (x y : ESrc) (f : FpFmt) (s : State) : Host.Outcome State Fault Refusal :=
  faTwo (fun _ a b => boolRes (cleFp f a b)) d x y s

/-! ## cvt with shape s (R267) -/

/-- The fields of a prefix of the E-side (R218). -/
def pfxFd (w : BitVec 32) : Nat := (w.extractLsb' 21 4).toNat
def pfxFa (w : BitVec 32) : Nat := (w.extractLsb' 16 4).toNat
def pfxFb (w : BitVec 32) : Nat := (w.extractLsb' 11 4).toNat
def pfxScl (w : BitVec 32) : Nat := (w.extractLsb' 6 2).toNat

/-- The pending prefix of the E-side. -/
def prefixE : Op (Option (BitVec 32)) := do return (← getSlot).ePrefix

/-- The decode table of the current core. -/
def curTable : Op (SMap (BitVec 32)) := fun s => .ok (tableNow s, s)

/-- Is the code a table format? -/
def isTbl (c : Nat) : Bool := c == 6 || c == 7

/-- The destination and source formats of a cvt, FD and FA of the prefix or the defaults, checked in the order of R267:
the lists of codes, then TORD. -/
def cvtFormats (dfd dfa : Nat) (okD okA : List Nat) : Op (Nat × Nat) := do
  let p ← prefixE
  let fd := (p.map pfxFd).getD dfd
  let fa := (p.map pfxFa).getD dfa
  stopIf (p.isSome && !okD.contains fd) (trapAt codeReserved 0x0e2 0)
  stopIf (p.isSome && !okA.contains fa) (trapAt codeReserved 0x0e3 0)
  stopIf ((isTbl fd || isTbl fa) && !tord (← curTable)) (trapAt codeReserved 0x0e0 0)
  return (fd, fa)

/-- The codes of the narrow formats, of the wide formats, and of the integer formats (R267). -/
def narrowCodes : List Nat := [0, 1, 2, 3, 4, 5, 6, 7]
def wideCodes : List Nat := [8, 9, 10, 11]
def intCodes : List Nat := [0, 1, 5]

/-- A converted value as a 64-bit result: fti sign-extends the signed integer formats. -/
def cvtResult (extend : Bool) (fd v : Nat) : Word :=
  if extend && fd == 0 then BitVec.ofInt 64 (signedOf 8 v)
  else if extend && fd == 5 then BitVec.ofInt 64 (signedOf 4 v)
  else BitVec.ofNat 64 v

/-- A scalar conversion (R267). -/
def cvtOp (extend : Bool) (dfd dfa : Nat) (okD okA : List Nat) (d : EDst) (x : ESrc) (s : State) :
    Host.Outcome State Fault Refusal :=
  wordE .governable (do
    let (fd, fa) ← cvtFormats dfd dfa okD okA
    let a ← readE x
    let t ← curTable
    let r := encodeCode t fd (← roundMode) (decodeCode t fa a.toNat) (1, 1)
    writeE d (cvtResult extend fd r.1)
    setFlags r.2) s

/-- R267: cvt.enc, shape s. -/
def execCvtEncS (d : EDst) (x : ESrc) (s : State) : Host.Outcome State Fault Refusal :=
  cvtOp false 6 11 narrowCodes wideCodes d x s
/-- R267: cvt.dec, shape s. -/
def execCvtDecS (d : EDst) (x : ESrc) (s : State) : Host.Outcome State Fault Refusal :=
  cvtOp false 11 6 wideCodes narrowCodes d x s
/-- R267: cvt.cnv, shape s. -/
def execCvtCnvS (d : EDst) (x : ESrc) (s : State) : Host.Outcome State Fault Refusal :=
  cvtOp false 8 11 wideCodes wideCodes d x s
/-- R267: cvt.fti, shape s. -/
def execCvtFtiS (d : EDst) (x : ESrc) (s : State) : Host.Outcome State Fault Refusal :=
  cvtOp true codeInt64 11 intCodes wideCodes d x s
/-- R267: cvt.itf, shape s. -/
def execCvtItfS (d : EDst) (x : ESrc) (s : State) : Host.Outcome State Fault Refusal :=
  cvtOp false 11 codeInt64 wideCodes intCodes d x s

/-- R313: cvt.tblw writes an entry of the decode table; the follower of a pair writes its own. R164 and R11 speak of the table of
a compute core, and R345 lists none among what a context holds: DESIGN CHOICE, on a channel or gateway core each context holds
one, which begins at the placement contents (log 60). -/
def tblwOp (x y : ESrc) : Op Unit := do
  let i ← readE x
  let v ← readE y
  stopIf (128 ≤ i.toNat) (trapAt codeReserved 0x0e1 0)
  let put (s : State) (h : Nat) : State :=
    let c := ctxOf s h (curLaunch s)
    putCtx s h { c with table := SMap.set i.toNat (BitVec.ofNat 32 (v.toNat % 2 ^ 32 / 2 ^ 13 * 2 ^ 13)) c.table }
  unlessLater (64 + i.toNat) fun s => if (curSlot s).paired then put (put s (curHart s)) (curHart s + 1) else put s (curHart s)
  noteResult v

/-- R313: cvt.tblw. -/
def execCvtTblw (x y : ESrc) (s : State) : Host.Outcome State Fault Refusal := wordE .none (tblwOp x y) s

/-! ## pr (R268) -/

/-- A word that combines two masks. -/
def prOp (f : Word → Word → Word) (d x y : Fin 8) (s : State) : Host.Outcome State Fault Refusal :=
  wordE .none (do writeP d (f (← readP x) (← readP y))) s
/-- A word that compares two scalars into a mask. -/
def prCmp (f : Word → Word → Bool) (d : Fin 8) (x y : ESrc) (s : State) : Host.Outcome State Fault Refusal :=
  wordE .none (do
    let a ← readE x
    let b ← readE y
    writeP d (if f a b then ~~~0 else 0)) s
/-- A word that reads two masks into a scalar. -/
def prRead (f : Word → Word → Word) (d : EDst) (x y : Fin 8) (s : State) : Host.Outcome State Fault Refusal :=
  wordE .none (do writeE d (f (← readP x) (← readP y))) s
/-- R268: pr.and. -/
def execPrAnd (d x y : Fin 8) (s : State) : Host.Outcome State Fault Refusal := prOp (fun a b => a &&& b) d x y s
/-- R268: pr.or. -/
def execPrOr (d x y : Fin 8) (s : State) : Host.Outcome State Fault Refusal := prOp (fun a b => a ||| b) d x y s
/-- R268: pr.xor. -/
def execPrXor (d x y : Fin 8) (s : State) : Host.Outcome State Fault Refusal := prOp (fun a b => a ^^^ b) d x y s
/-- R268: pr.andn. -/
def execPrAndn (d x y : Fin 8) (s : State) : Host.Outcome State Fault Refusal := prOp (fun a b => a &&& ~~~b) d x y s
/-- R268: pr.not. -/
def execPrNot (d x : Fin 8) (s : State) : Host.Outcome State Fault Refusal := wordE .none (do writeP d (~~~(← readP x))) s
/-- R268: pr.set. -/
def execPrSet (d : Fin 8) (x : ESrc) (s : State) : Host.Outcome State Fault Refusal := wordE .none (do writeP d (← readE x)) s
/-- R268: pr.get. -/
def execPrGet (d : EDst) (x : Fin 8) (s : State) : Host.Outcome State Fault Refusal := wordE .none (do writeE d (← readP x)) s
/-- R268: pr.ceq. -/
def execPrCeq (d : Fin 8) (x y : ESrc) (s : State) : Host.Outcome State Fault Refusal := prCmp (fun a b => a == b) d x y s
/-- R268: pr.cne. -/
def execPrCne (d : Fin 8) (x y : ESrc) (s : State) : Host.Outcome State Fault Refusal := prCmp (fun a b => a != b) d x y s
/-- R268: pr.clt. -/
def execPrClt (d : Fin 8) (x y : ESrc) (s : State) : Host.Outcome State Fault Refusal := prCmp (fun a b => a.slt b) d x y s
/-- R268: pr.cle. -/
def execPrCle (d : Fin 8) (x y : ESrc) (s : State) : Host.Outcome State Fault Refusal := prCmp (fun a b => a.sle b) d x y s
/-- R268: pr.cltu. -/
def execPrCltu (d : Fin 8) (x y : ESrc) (s : State) : Host.Outcome State Fault Refusal := prCmp (fun a b => a.ult b) d x y s
/-- R268: pr.cleu. -/
def execPrCleu (d : Fin 8) (x y : ESrc) (s : State) : Host.Outcome State Fault Refusal := prCmp (fun a b => a.ule b) d x y s
/-- R268: pr.any. -/
def execPrAny (d : EDst) (x y : Fin 8) (s : State) : Host.Outcome State Fault Refusal := prRead (fun a b => flagWord (a &&& b != 0)) d x y s
/-- R268: pr.all. -/
def execPrAll (d : EDst) (x y : Fin 8) (s : State) : Host.Outcome State Fault Refusal := prRead (fun a b => flagWord (a &&& b == b)) d x y s
/-- R268: pr.popc. -/
def execPrPopc (d : EDst) (x y : Fin 8) (s : State) : Host.Outcome State Fault Refusal := prRead (fun a b => popcW (a &&& b)) d x y s

/-! ## nop.x -/

/-- R205, R106: nop.x does nothing. -/
def execNopX (s : State) : Host.Outcome State Fault Refusal := wordE .none (return ()) s

end Sys2Proof.Machine
end

