-- ==== Sys2Proof/Machine/Vector.lean ====
section
/-! DEFINITION. The vector instructions of the E-side: va (spec/16 R273 to R276), vf (R277, R278), vx (R280 to R282, R284) and
cvt with shape v (R283), with block scales (R279), and the prefix of the E-side (spec/17 R290). -/

namespace Sys2Proof.Machine

/-! ## Lanes (R270) -/

/-- Bits of a lane width. -/
def laneBits : LaneW → Nat
  | .w8 => 8 | .w16 => 16 | .w32 => 32 | .w64 => 64

/-- Lane i of W bits. -/
def lane (W : Nat) (v : Vec) (i : Nat) : Nat := v.toNat / 2 ^ (W * i) % 2 ^ W

/-- Is lane i of W bits governed by a 1 of the mask? -/
def activeLane (W : Nat) (m : Word) (i : Nat) : Bool := m.getLsbD (i * W / 8)

/-- The number whose W-bit digits, lowest first, are the given ones. -/
def joinLanes (W : Nat) : List Nat → Nat
  | [] => 0
  | x :: xs => x % 2 ^ W + 2 ^ W * joinLanes W xs

/-- The vector with the given lanes, lane 0 first. -/
def vecLanes (W : Nat) (xs : List Nat) : Vec := BitVec.ofNat 512 (joinLanes W xs)

/-- The indexes of the lanes. -/
def laneIds (W : Nat) : List Nat := upFrom 0 (512 / W)

/-- The vector whose active lanes hold f and whose other lanes hold those of old. -/
def mergeLanes (W : Nat) (m : Word) (old : Vec) (f : Nat → Nat) : Vec :=
  vecLanes W ((laneIds W).map fun i => if activeLane W m i then f i else lane W old i)

/-- The conditions of the active lanes, together. -/
def laneFlags (W : Nat) (m : Word) (f : Nat → Fl) : Fl :=
  (laneIds W).foldl (fun a i => if activeLane W m i then a.or (f i) else a) Fl.zero

/-- A result by lanes written to D, with its conditions: inactive lanes keep the register's value (R270). -/
def writeLanes (d : VDst) (W : Nat) (m : Word) (f : Nat → Nat × Fl) : Op Unit := do
  let old := (← getSlot).vdst d
  writeV d (mergeLanes W m old fun i => (f i).1)
  setFlags (laneFlags W m fun i => (f i).2)

/-- The mask of a compare (R274): the bits of each active lane that holds. -/
def laneMask (W : Nat) (m : Word) (f : Nat → Bool) : Word :=
  BitVec.ofNat 64 (joinLanes (W / 8) ((laneIds W).map fun i => if activeLane W m i && f i then 2 ^ (W / 8) - 1 else 0))

/-! ## Shapes of words -/

/-- A lane word of two vector sources. -/
def vecTwo (W : Nat) (f : Nat → Nat → Nat → Nat × Fl) (d : VDst) (x y : VSrc) (p : Fin 8) (s : State) :
    Host.Outcome State Fault Refusal :=
  wordE .none (withV x y (heldV d).1 (heldV d).2 fun a b => do
    let m ← readP p
    let rm ← roundMode
    writeLanes d W m fun i => f rm (lane W a i) (lane W b i)) s

/-- A lane word of one vector source. -/
def vecOne (W : Nat) (f : Nat → Nat → Nat × Fl) (d : VDst) (x : VSrc) (p : Fin 8) (s : State) :
    Host.Outcome State Fault Refusal :=
  wordE .none (withV1 x (heldV d).1 (heldV d).2 fun a => do
    let m ← readP p
    let rm ← roundMode
    writeLanes d W m fun i => f rm (lane W a i)) s

/-- A lane compare into a predicate, with its conditions (R274). -/
def vecCmp (W : Nat) (f : Nat → Nat → Bool × Fl) (d : Fin 8) (x y : VSrc) (p : Fin 8) (s : State) :
    Host.Outcome State Fault Refusal :=
  wordE .none (withV x y (.p d) d fun a b => do
    let m ← readP p
    writeP d (laneMask W m fun i => (f (lane W a i) (lane W b i)).1)
    setFlags (laneFlags W m fun i => (f (lane W a i) (lane W b i)).2)) s

/-! ## va (R273) -/

/-- A lane function without conditions. -/
def plainLane (f : Nat → Nat → Nat) (_ a b : Nat) : Nat × Fl := (f a b, Fl.zero)

/-- A lane result clamped as a signed integer. -/
def satLaneS (W : Nat) (v : Int) : Nat × Fl :=
  let r := clampS W v
  (patOf W r.1, { Fl.zero with sat := r.2 })

/-- A lane result clamped as an unsigned integer. -/
def satLaneU (W : Nat) (v : Int) : Nat × Fl :=
  if v < 0 then (0, { Fl.zero with sat := true })
  else if (2 ^ W : Int) ≤ v then (2 ^ W - 1, { Fl.zero with sat := true })
  else (v.toNat, Fl.zero)
/-- R273: va.add. -/
def execVaAdd (d : VDst) (x y : VSrc) (p : Fin 8) (w : LaneW) (s : State) : Host.Outcome State Fault Refusal :=
  vecTwo (laneBits w) (plainLane fun a b => a + b) d x y p s
/-- R273: va.sub. -/
def execVaSub (d : VDst) (x y : VSrc) (p : Fin 8) (w : LaneW) (s : State) : Host.Outcome State Fault Refusal :=
  vecTwo (laneBits w) (plainLane fun a b => a + (2 ^ laneBits w - b)) d x y p s
/-- R273: va.adds. -/
def execVaAdds (d : VDst) (x y : VSrc) (p : Fin 8) (w : LaneW) (s : State) : Host.Outcome State Fault Refusal :=
  vecTwo (laneBits w) (fun _ a b => satLaneS (laneBits w) (signedOf (laneBits w) a + signedOf (laneBits w) b)) d x y p s
/-- R273: va.subs. -/
def execVaSubs (d : VDst) (x y : VSrc) (p : Fin 8) (w : LaneW) (s : State) : Host.Outcome State Fault Refusal :=
  vecTwo (laneBits w) (fun _ a b => satLaneS (laneBits w) (signedOf (laneBits w) a - signedOf (laneBits w) b)) d x y p s
/-- R273: va.addus. -/
def execVaAddus (d : VDst) (x y : VSrc) (p : Fin 8) (w : LaneW) (s : State) : Host.Outcome State Fault Refusal :=
  vecTwo (laneBits w) (fun _ a b => satLaneU (laneBits w) ((a : Int) + b)) d x y p s
/-- R273: va.subus. -/
def execVaSubus (d : VDst) (x y : VSrc) (p : Fin 8) (w : LaneW) (s : State) : Host.Outcome State Fault Refusal :=
  vecTwo (laneBits w) (fun _ a b => satLaneU (laneBits w) ((a : Int) - b)) d x y p s
/-- R273: va.mul. -/
def execVaMul (d : VDst) (x y : VSrc) (p : Fin 8) (w : LaneW) (s : State) : Host.Outcome State Fault Refusal :=
  vecTwo (laneBits w) (plainLane fun a b => a * b) d x y p s
/-- R273: va.mulh. -/
def execVaMulh (d : VDst) (x y : VSrc) (p : Fin 8) (w : LaneW) (s : State) : Host.Outcome State Fault Refusal :=
  vecTwo (laneBits w) (plainLane fun a b => patOf (laneBits w) (signedOf (laneBits w) a * signedOf (laneBits w) b / 2 ^ laneBits w)) d x y p s
/-- R273: va.and. -/
def execVaAnd (d : VDst) (x y : VSrc) (p : Fin 8) (w : LaneW) (s : State) : Host.Outcome State Fault Refusal :=
  vecTwo (laneBits w) (plainLane fun a b => a &&& b) d x y p s
/-- R273: va.or. -/
def execVaOr (d : VDst) (x y : VSrc) (p : Fin 8) (w : LaneW) (s : State) : Host.Outcome State Fault Refusal :=
  vecTwo (laneBits w) (plainLane fun a b => a ||| b) d x y p s
/-- R273: va.xor. -/
def execVaXor (d : VDst) (x y : VSrc) (p : Fin 8) (w : LaneW) (s : State) : Host.Outcome State Fault Refusal :=
  vecTwo (laneBits w) (plainLane fun a b => a ^^^ b) d x y p s
/-- R273: va.sll. -/
def execVaSll (d : VDst) (x y : VSrc) (p : Fin 8) (w : LaneW) (s : State) : Host.Outcome State Fault Refusal :=
  vecTwo (laneBits w) (plainLane fun a b => a * 2 ^ (b % laneBits w)) d x y p s
/-- R273: va.srl. -/
def execVaSrl (d : VDst) (x y : VSrc) (p : Fin 8) (w : LaneW) (s : State) : Host.Outcome State Fault Refusal :=
  vecTwo (laneBits w) (plainLane fun a b => a / 2 ^ (b % laneBits w)) d x y p s
/-- R273: va.sra. -/
def execVaSra (d : VDst) (x y : VSrc) (p : Fin 8) (w : LaneW) (s : State) : Host.Outcome State Fault Refusal :=
  vecTwo (laneBits w) (plainLane fun a b => patOf (laneBits w) (signedOf (laneBits w) a / 2 ^ (b % laneBits w))) d x y p s
/-- R273: va.min. -/
def execVaMin (d : VDst) (x y : VSrc) (p : Fin 8) (w : LaneW) (s : State) : Host.Outcome State Fault Refusal :=
  vecTwo (laneBits w) (plainLane fun a b => if signedOf (laneBits w) b < signedOf (laneBits w) a then b else a) d x y p s
/-- R273: va.max. -/
def execVaMax (d : VDst) (x y : VSrc) (p : Fin 8) (w : LaneW) (s : State) : Host.Outcome State Fault Refusal :=
  vecTwo (laneBits w) (plainLane fun a b => if signedOf (laneBits w) a < signedOf (laneBits w) b then b else a) d x y p s
/-- R273: va.minu. -/
def execVaMinu (d : VDst) (x y : VSrc) (p : Fin 8) (w : LaneW) (s : State) : Host.Outcome State Fault Refusal :=
  vecTwo (laneBits w) (plainLane fun a b => if b < a then b else a) d x y p s
/-- R273: va.maxu. -/
def execVaMaxu (d : VDst) (x y : VSrc) (p : Fin 8) (w : LaneW) (s : State) : Host.Outcome State Fault Refusal :=
  vecTwo (laneBits w) (plainLane fun a b => if a < b then b else a) d x y p s
/-- R273: va.abs. -/
def execVaAbs (d : VDst) (x : VSrc) (p : Fin 8) (w : LaneW) (s : State) : Host.Outcome State Fault Refusal :=
  vecOne (laneBits w) (fun _ a => satLaneS (laneBits w) (signedOf (laneBits w) a).natAbs) d x p s
/-- R273, R274: va.ceq. -/
def execVaCeq (d : Fin 8) (x y : VSrc) (p : Fin 8) (w : LaneW) (s : State) : Host.Outcome State Fault Refusal :=
  vecCmp (laneBits w) (fun a b => (a == b, Fl.zero)) d x y p s
/-- R273, R274: va.clt. -/
def execVaClt (d : Fin 8) (x y : VSrc) (p : Fin 8) (w : LaneW) (s : State) : Host.Outcome State Fault Refusal :=
  vecCmp (laneBits w) (fun a b => (decide (signedOf (laneBits w) a < signedOf (laneBits w) b), Fl.zero)) d x y p s
/-- R273, R274: va.cltu. -/
def execVaCltu (d : Fin 8) (x y : VSrc) (p : Fin 8) (w : LaneW) (s : State) : Host.Outcome State Fault Refusal :=
  vecCmp (laneBits w) (fun a b => (decide (a < b), Fl.zero)) d x y p s
/-- R273: va.sel writes every lane. -/
def execVaSel (d : VDst) (x y : VSrc) (p : Fin 8) (w : LaneW) (s : State) : Host.Outcome State Fault Refusal :=
  wordE .none (withV x y (heldV d).1 (heldV d).2 fun a b => do
    let m ← readP p
    writeV d (mergeLanes (laneBits w) m b fun i => lane (laneBits w) a i)) s

/-- An integer element of a format code: INT8, UINT8 or INT4. -/
def intElem (code bits : Nat) : Int := if code = 1 then (bits % 256 : Nat) else if code = 5 then signedOf 4 bits else signedOf 8 bits

/-- The exact sum of the products of output lane j, g elements each (R275). -/
def dotInt (fa fb : Nat) (a b : Vec) (j : Nat) : Int :=
  let W := codeBits fa
  ((upFrom (32 / W * j) (32 / W)).map fun k => intElem fa (lane W a k) * intElem fb (lane W b k)).foldl (· + ·) 0

/-- R275: va.dot. -/
def vaDotOp (d : Fin 8) (x y : VSrc) (p : Fin 8) : Op Unit := do
  let w ← prefixE
  let fa := (w.map pfxFa).getD 0
  let fb := (w.map pfxFb).getD 0
  stopIf (!intCodes.contains fa) (trapAt codeReserved 0x0e3 0)
  stopIf (!intCodes.contains fb) (trapAt codeReserved 0x0e4 0)
  stopIf (codeBits fa ≠ codeBits fb) (trapAt codeReserved 0x0e4 0)
  withV x y (.v d) d fun a b => do
    let m ← readP p
    let acc := (← getSlot).v[d]
    writeLanes (.v d) 32 m fun j => satLaneS 32 (signedOf 32 (lane 32 acc j) + dotInt fa fb a b j)

/-- R275: va.dot. -/
def execVaDot (d : Fin 8) (x y : VSrc) (p : Fin 8) (s : State) : Host.Outcome State Fault Refusal :=
  wordE .governable (vaDotOp d x y p) s

/-- One level of the tree of R171 over f, with the conditions of its steps. -/
def treeLevel {α : Type} (f : α → α → α × Fl) : List α → List α × Fl
  | a :: b :: xs =>
    let r := f a b
    let t := treeLevel f xs
    (r.1 :: t.1, r.2.or t.2)
  | xs => (xs, Fl.zero)

/-- The tree of R171, level by level. -/
def treeReduce {α : Type} (f : α → α → α × Fl) : Nat → List α → List α × Fl
  | 0, xs => (xs, Fl.zero)
  | n + 1, xs =>
    let t := treeLevel f xs
    let r := treeReduce f n t.1
    (r.1, t.2.or r.2)

/-- The active lanes with the identity of the reduction in place of the others (R276). -/
def reduceLanes (W : Nat) (m : Word) (v : Vec) (unit : Nat) : List Nat :=
  (laneIds W).map fun i => if activeLane W m i then lane W v i else unit

/-- A reduction word: the result stands in D[63:0] and the rest is zero (R276). -/
def reduceWord (d : VDst) (x : VSrc) (p : Fin 8) (f : Nat → Word → Vec → Nat × Fl) (s : State) :
    Host.Outcome State Fault Refusal :=
  wordE .none (withV1 x (heldV d).1 (heldV d).2 fun a => do
    let m ← readP p
    let r := f (← roundMode) m a
    writeV d (BitVec.ofNat 512 (r.1 % 2 ^ 64))
    setFlags r.2) s

/-- The signed lanes of a reduction. -/
def signedLanes (W : Nat) (m : Word) (v : Vec) (unit : Int) : List Int :=
  (laneIds W).map fun i => if activeLane W m i then signedOf W (lane W v i) else unit

/-- R276: va.rsum. -/
def execVaRsum (d : VDst) (x : VSrc) (p : Fin 8) (w : LaneW) (s : State) : Host.Outcome State Fault Refusal :=
  reduceWord d x p (fun _ m a => (patOf 64 ((signedLanes (laneBits w) m a 0).foldl (· + ·) 0), Fl.zero)) s
/-- R276: va.rmin. -/
def execVaRmin (d : VDst) (x : VSrc) (p : Fin 8) (w : LaneW) (s : State) : Host.Outcome State Fault Refusal :=
  reduceWord d x p (fun _ m a =>
    let top : Int := 2 ^ (laneBits w - 1) - 1
    (patOf 64 ((signedLanes (laneBits w) m a top).foldl (fun u v => if v < u then v else u) top), Fl.zero)) s
/-- R276: va.rmax. -/
def execVaRmax (d : VDst) (x : VSrc) (p : Fin 8) (w : LaneW) (s : State) : Host.Outcome State Fault Refusal :=
  reduceWord d x p (fun _ m a =>
    let low : Int := -(2 ^ (laneBits w - 1))
    (patOf 64 ((signedLanes (laneBits w) m a low).foldl (fun u v => if u < v then v else u) low), Fl.zero)) s

/-! ## vf (R277) -/
/-- R277: vf.add. -/
def execVfAdd (d : VDst) (x y : VSrc) (p : Fin 8) (f : FpFmt) (s : State) : Host.Outcome State Fault Refusal :=
  vecTwo (fmtBits f) (addFp f) d x y p s
/-- R277: vf.sub. -/
def execVfSub (d : VDst) (x y : VSrc) (p : Fin 8) (f : FpFmt) (s : State) : Host.Outcome State Fault Refusal :=
  vecTwo (fmtBits f) (subFp f) d x y p s
/-- R277: vf.mul. -/
def execVfMul (d : VDst) (x y : VSrc) (p : Fin 8) (f : FpFmt) (s : State) : Host.Outcome State Fault Refusal :=
  vecTwo (fmtBits f) (fun rm a b => mulFp f rm (readFp f a) (readFp f b)) d x y p s
/-- R277: vf.fma. -/
def execVfFma (d : Fin 8) (x y : VSrc) (p : Fin 8) (f : FpFmt) (s : State) : Host.Outcome State Fault Refusal :=
  wordE .none (withV x y (.v d) d fun a b => do
    let m ← readP p
    let rm ← roundMode
    let c := (← getSlot).v[d]
    let W := fmtBits f
    writeLanes (.v d) W m fun i => fmaFp f rm (readFp f (lane W a i)) (readFp f (lane W b i)) (readFp f (lane W c i))) s
/-- R277: vf.min. -/
def execVfMin (d : VDst) (x y : VSrc) (p : Fin 8) (f : FpFmt) (s : State) : Host.Outcome State Fault Refusal :=
  vecTwo (fmtBits f) (fun _ a b => extremeFp f false a b) d x y p s
/-- R277: vf.max. -/
def execVfMax (d : VDst) (x y : VSrc) (p : Fin 8) (f : FpFmt) (s : State) : Host.Outcome State Fault Refusal :=
  vecTwo (fmtBits f) (fun _ a b => extremeFp f true a b) d x y p s
/-- R277: vf.abs. -/
def execVfAbs (d : VDst) (x : VSrc) (p : Fin 8) (f : FpFmt) (s : State) : Host.Outcome State Fault Refusal :=
  vecOne (fmtBits f) (fun _ a => signFp f false a) d x p s
/-- R277: vf.neg. -/
def execVfNeg (d : VDst) (x : VSrc) (p : Fin 8) (f : FpFmt) (s : State) : Host.Outcome State Fault Refusal :=
  vecOne (fmtBits f) (fun _ a => signFp f true a) d x p s
/-- R277: vf.rcpe. -/
def execVfRcpe (d : VDst) (x : VSrc) (p : Fin 8) (f : FpFmt) (s : State) : Host.Outcome State Fault Refusal :=
  vecOne (fmtBits f) (fun _ a => rcpeFp f (readFp f a)) d x p s
/-- R277, R274: vf.ceq. -/
def execVfCeq (d : Fin 8) (x y : VSrc) (p : Fin 8) (f : FpFmt) (s : State) : Host.Outcome State Fault Refusal :=
  vecCmp (fmtBits f) (ceqFp f) d x y p s
/-- R277, R274: vf.clt. -/
def execVfClt (d : Fin 8) (x y : VSrc) (p : Fin 8) (f : FpFmt) (s : State) : Host.Outcome State Fault Refusal :=
  vecCmp (fmtBits f) (cltFp f) d x y p s
/-- R277, R274: vf.cle. -/
def execVfCle (d : Fin 8) (x y : VSrc) (p : Fin 8) (f : FpFmt) (s : State) : Host.Outcome State Fault Refusal :=
  vecCmp (fmtBits f) (cleFp f) d x y p s
/-! ### Block scales (R279) -/

/-- The block scale of element i from a scalar register. -/
def regScale (r : Word) (i : Nat) : Nat := r.toNat / 2 ^ (16 * (i / 32 % 4)) % 1024

/-- Does SCL name operand A, operand B? -/
def sclA (scl : Nat) : Bool := scl % 2 == 1
def sclB (scl : Nat) : Bool := scl / 2 % 2 == 1

/-- Is the block scale a NaN? -/
def nanScale (s : Nat) : Bool := s % 1024 / 4 == 255

/-- An element times its block scale, and whether the product is invalid: a NaN scale counts so (R162, R167). -/
def scaleElem (x : FV) (s : Nat) : FV × Bool :=
  let r := mulFV x (scaleFV s)
  (r.1, r.2 || nanScale s)

/-! ### vf.dot (R278) -/

/-- The formats of a vf.dot: element codes of A and B and SCL. Without a prefix the lanes' own format. -/
def vfDotFormats (f : FpFmt) : Op (Nat × Nat × Nat) := do
  match ← prefixE with
  | none =>
    let c := match f with
      | .fp32 => 11 | .e8m10 => 10 | .fp16 => 8 | .bf16 => 9
    return (c, c, 0)
  | some w =>
    let ok : List Nat := [2, 3, 4, 6, 7, 8, 9, 10, 11]
    let fa := pfxFa w
    let fb := pfxFb w
    stopIf (f ≠ .fp32) (trapAt codeReserved 0x406 0)
    stopIf (!ok.contains fa) (trapAt codeReserved 0x0e3 0)
    stopIf (!ok.contains fb) (trapAt codeReserved 0x0e4 0)
    stopIf (codeBits fa ≠ codeBits fb) (trapAt codeReserved 0x0e4 0)
    stopIf ((isTbl fa || isTbl fb) && !tord (← curTable)) (trapAt codeReserved 0x0e0 0)
    return (fa, fb, pfxScl w)

/-- An element of an operand, scaled where SCL names the operand. -/
def dotElem (t : SMap (BitVec 32)) (c : Nat) (v : Vec) (scaled : Bool) (sr : Word) (k : Nat) : FV × Bool :=
  let x := decodeCode t c (lane (codeBits c) v k)
  if scaled then scaleElem x (regScale sr k) else (x, false)

/-- Output lane j of vf.dot: every product and the accumulator, summed exactly and rounded once. -/
def dotFp (t : SMap (BitVec 32)) (fa fb scl rm : Nat) (e14 e15 : Word) (a b : Vec) (acc j : Nat) : Nat × Fl :=
  let W := codeBits fa
  let ps := (upFrom (32 / W * j) (32 / W)).map fun k =>
    let x := dotElem t fa a (sclA scl) e14 k
    let y := dotElem t fb b (sclB scl) e15 k
    let r := mulFV x.1 y.1
    (r.1, r.2 || x.2 || y.2)
  sumFp .fp32 rm (ps.any fun q => q.2) (readFp .fp32 acc :: ps.map fun q => q.1)

/-- R278: vf.dot. -/
def vfDotOp (d : Fin 8) (x y : VSrc) (p : Fin 8) (f : FpFmt) : Op Unit := do
  let (fa, fb, scl) ← vfDotFormats f
  withV x y (.v d) d fun a b => do
    let m ← readP p
    let rm ← roundMode
    let t ← curTable
    let σ ← getSlot
    writeLanes (.v d) 32 m fun j => dotFp t fa fb scl rm σ.e[14] σ.e[15] a b (lane 32 σ.v[d] j) j

/-- R278: vf.dot. -/
def execVfDot (d : Fin 8) (x y : VSrc) (p : Fin 8) (f : FpFmt) (s : State) : Host.Outcome State Fault Refusal :=
  wordE .governable (vfDotOp d x y p f) s

/-- A floating-point reduction in the tree of R171. -/
def reduceFp (f : FpFmt) (unit : Nat) (g : Nat → Nat → Nat → Nat × Fl) (rm : Nat) (m : Word) (v : Vec) : Nat × Fl :=
  let W := fmtBits f
  let r := treeReduce (g rm) 5 (reduceLanes W m v unit)
  (r.1.headD 0, r.2)

/-- R276: vf.rsum. -/
def execVfRsum (d : VDst) (x : VSrc) (p : Fin 8) (f : FpFmt) (s : State) : Host.Outcome State Fault Refusal :=
  reduceWord d x p (reduceFp f 0 (addFp f)) s
/-- R276: vf.rmin. -/
def execVfRmin (d : VDst) (x : VSrc) (p : Fin 8) (f : FpFmt) (s : State) : Host.Outcome State Fault Refusal :=
  reduceWord d x p (reduceFp f (placeFp f (infFp (fmtSpec f) false)) fun _ a b => extremeFp f false a b) s
/-- R276: vf.rmax. -/
def execVfRmax (d : VDst) (x : VSrc) (p : Fin 8) (f : FpFmt) (s : State) : Host.Outcome State Fault Refusal :=
  reduceWord d x p (reduceFp f (placeFp f (infFp (fmtSpec f) true)) fun _ a b => extremeFp f true a b) s

/-! ## vx (R280) -/

/-- A lane word that moves lanes of its two sources: f answers lane i. -/
def moveWord (d : VDst) (x y : VSrc) (p : Fin 8) (W : Nat) (f : Vec → Vec → Nat → Nat) (s : State) :
    Host.Outcome State Fault Refusal :=
  wordE .none (withV x y (heldV d).1 (heldV d).2 fun a b => do
    let m ← readP p
    writeLanes d W m fun i => (f a b i, Fl.zero)) s

/-- A lane word of a scalar source. -/
def scalarWord (d : VDst) (x : ESrc) (p : Fin 8) (W : Nat) (f : Nat → Nat → Nat) (s : State) :
    Host.Outcome State Fault Refusal :=
  wordE .none (do
    let a ← readE x
    let m ← readP p
    writeLanes d W m fun i => (f a.toNat i, Fl.zero)) s

/-- R280: vx.mov. -/
def execVxMov (d : VDst) (x : VSrc) (p : Fin 8) (w : LaneW) (s : State) : Host.Outcome State Fault Refusal :=
  vecOne (laneBits w) (fun _ a => (a, Fl.zero)) d x p s
/-- R280: vx.bcast. -/
def execVxBcast (d : VDst) (x : ESrc) (p : Fin 8) (w : LaneW) (s : State) : Host.Outcome State Fault Refusal :=
  scalarWord d x p (laneBits w) (fun a _ => a) s
/-- R280: vx.perm. -/
def execVxPerm (d : VDst) (x y : VSrc) (p : Fin 8) (w : LaneW) (s : State) : Host.Outcome State Fault Refusal :=
  moveWord d x y p (laneBits w) (fun a b i =>
    let W := laneBits w
    let t := lane W b i
    if 2 ^ (W - 1) ≤ t then 0 else lane W a (t % (512 / W))) s
/-- R280: vx.rot. -/
def execVxRot (d : VDst) (x : VSrc) (y : ESrc) (p : Fin 8) (w : LaneW) (s : State) : Host.Outcome State Fault Refusal :=
  wordE .none (withV1 x (heldV d).1 (heldV d).2 fun a => do
    let t ← readE y
    let m ← readP p
    let W := laneBits w
    writeLanes d W m fun i => (lane W a ((i + t.toNat) % (512 / W)), Fl.zero)) s
/-- R280: vx.zip. -/
def execVxZip (d : VDst) (x y : VSrc) (p : Fin 8) (w : LaneW) (s : State) : Host.Outcome State Fault Refusal :=
  moveWord d x y p (laneBits w) (fun a b i => lane (laneBits w) (if i % 2 = 0 then a else b) (i / 2)) s
/-- R280: vx.unzip. -/
def execVxUnzip (d : VDst) (x y : VSrc) (p : Fin 8) (w : LaneW) (s : State) : Host.Outcome State Fault Refusal :=
  moveWord d x y p (laneBits w) (fun a b i =>
    let n := 512 / laneBits w
    if 2 * i < n then lane (laneBits w) a (2 * i) else lane (laneBits w) b (2 * i - n)) s
/-- R280: vx.ext. -/
def execVxExt (d : EDst) (x : VSrc) (y : ESrc) (w : LaneW) (s : State) : Host.Outcome State Fault Refusal :=
  wordE .none (withV1 x (heldE d).1 (heldE d).2 fun a => do
    let t ← readE y
    let W := laneBits w
    writeE d (BitVec.ofNat 64 (lane W a (t.toNat % (512 / W))))) s
/-- R280: vx.ins. -/
def execVxIns (d : Fin 8) (x y : ESrc) (w : LaneW) (s : State) : Host.Outcome State Fault Refusal :=
  wordE .none (do
    let a ← readE x
    let t ← readE y
    let old := (← getSlot).v[d]
    let W := laneBits w
    writeV (.v d) (vecLanes W ((laneIds W).map fun i => if i = t.toNat % (512 / W) then a.toNat else lane W old i))) s
/-- R280: vx.idx. -/
def execVxIdx (d : VDst) (x : ESrc) (p : Fin 8) (w : LaneW) (s : State) : Host.Outcome State Fault Refusal :=
  scalarWord d x p (laneBits w) (fun a i => a + i) s

/-! ### vx.amax (R281) -/

/-- The pattern of element i with its sign bit cleared; E8M10 without its LOW bits. -/
def magPattern (c : Nat) (v : Vec) (i : Nat) : Nat :=
  let W := codeBits c
  let b := lane W v i % 2 ^ (W - 1)
  if c = 10 then b / 2 ^ 13 * 2 ^ 13 else b

/-- The largest pattern of the active elements, and the elements that hold it. -/
def amaxWinners (c : Nat) (m : Word) (v : Vec) : Nat × List Nat :=
  let W := codeBits c
  let act := (laneIds W).filter (activeLane W m)
  let best := act.foldl (fun b i => if b < magPattern c v i then magPattern c v i else b) 0
  (best, act.filter fun i => magPattern c v i == best)

/-- The result of vx.amax: pick chooses among equal winners, which may stand in blocks of different scales (log 18). -/
def amaxResult (t : SMap (BitVec 32)) (c : Nat) (scaled : Bool) (sr : Word) (rm pick : Nat) (m : Word) (v : Vec) : Nat × Fl :=
  let W := codeBits c
  let win := amaxWinners c m v
  let bad := scaled && (laneIds W).any fun i => activeLane W m i && nanScale (regScale sr i)
  match win.2 with
  | [] => (0, Fl.zero)
  | w :: ws =>
    let i := (w :: ws).getD (pick % (ws.length + 1)) w
    let x := decodeCode t c win.1
    if x.isNan || bad then (specFp32.nan, Fl.invalid)
    else sumFp .fp32 rm false [if scaled then (scaleElem x (regScale sr i)).1 else x]

/-- R281: vx.amax. -/
def amaxOp (d : VDst) (x : VSrc) (p : Fin 8) : Op Unit := do
  let w ← prefixE
  let fa := (w.map pfxFa).getD 11
  let scl := (w.map pfxScl).getD 0
  let ok : List Nat := [2, 3, 4, 6, 7, 8, 9, 10, 11]
  stopIf (!ok.contains fa) (trapAt codeReserved 0x0e3 0)
  stopIf (sclB scl) (trapAt codeReserved 0x0e5 0)
  stopIf (isTbl fa && !tord (← curTable)) (trapAt codeReserved 0x0e0 0)
  withV1 x (heldV d).1 (heldV d).2 fun a => do
    let m ← readP p
    let rm ← roundMode
    let t ← curTable
    let σ ← getSlot
    let r := amaxResult t fa (sclA scl) σ.e[14] rm (Config.amaxPick fa m a) m a
    writeV d (BitVec.ofNat 512 r.1)
    setFlags r.2

/-- R281: vx.amax. -/
def execVxAmax (d : VDst) (x : VSrc) (p : Fin 8) (s : State) : Host.Outcome State Fault Refusal :=
  wordE .governable (amaxOp d x p) s

/-! ### vx.scale and vx.barq (R282, R284) -/

/-- The magnitude of a finite value as a fraction. -/
def magOf : FV → Option (Nat × Nat)
  | .fin _ m e => some (fracOf m e)
  | _ => none

/-- R282: vx.scale. Of a table format it reads one entry of the table and encodes no code: DEDUCED, while TORD is 0 it raises 0x0e0 like
the words that do (R165; log 86). -/
def scaleOp (d : VDst) (x : VSrc) : Op Unit := do
  let fd := ((← prefixE).map pfxFd).getD 2
  stopIf (10 < fd) (trapAt codeReserved 0x0e2 0)
  let t ← curTable
  stopIf (isTbl fd && !tord t) (trapAt codeReserved 0x0e0 0)
  withV1 x (heldV d).1 (heldV d).2 fun a => do
    let r := scaleRule (magOf (readFp .fp32 (lane 32 a 0))) (targetMax t fd)
    writeV d (BitVec.ofNat 512 r.1)
    setFlags r.2

/-- R282: vx.scale. -/
def execVxScale (d : VDst) (x : VSrc) (s : State) : Host.Outcome State Fault Refusal := wordE .governable (scaleOp d x) s

/-- The exact sum of two values; an exact zero takes the sign of R162. -/
def addFV (rm : Nat) (x y : FV) : FV :=
  match x, y with
  | .nan s, .nan t => .nan (s || t)
  | .nan s, _ => .nan s
  | _, .nan t => .nan t
  | .inf a, .inf b => if a == b then .inf a else .nan false
  | .inf a, _ => .inf a
  | _, .inf b => .inf b
  | .fin n m e, .fin n' m' e' =>
    let base := if e < e' then e else e'
    let v := scaled n m e base + scaled n' m' e' base
    if v = 0 then .fin (if m = 0 && m' = 0 && n == n' then n else rm == 2) 0 0 else .fin (decide (v < 0)) v.natAbs base

/-- The greatest magnitude of a list of values; none if one is infinite or a NaN. -/
def maxMag : List FV → Option (Nat × Nat)
  | [] => some (0, 1)
  | x :: xs =>
    match magOf x, maxMag xs with
    | some a, some b => some (if a.1 * b.2 < b.1 * a.2 then b else a)
    | _, _ => none

/-- The scale of a block of R284: bits [9:0] of bytes 32 and 33. -/
def blockScale (v : Vec) : Nat := v.toNat / 2 ^ 256 % 1024

/-- The block add-and-requantise of R284. -/
def barqBlock (t : SMap (BitVec 32)) (fa fd rm : Nat) (d x : Vec) : Vec × Fl :=
  let W := codeBits fa
  let s1 := blockScale d
  let s2 := blockScale x
  let xs := (upFrom 0 32).map fun i =>
    addFV rm (scaleElem (decodeCode t fa (lane W d i)) s1).1 (scaleElem (decodeCode t fa (lane W x i)) s2).1
  let build (cs : List Nat) (sc : Nat) : Vec := BitVec.ofNat 512 (joinLanes (codeBits fd) cs + sc * 2 ^ 256)
  if xs.any FV.isNan || nanScale s1 || nanScale s2 then
    (build (xs.map fun _ => (encodeCode t fd rm (.nan false) (1, 1)).1) 0x3fc, Fl.invalid)
  else
    let sc := scaleRule (maxMag xs) (targetMax t fd)
    let enc (v : FV) : Nat × Fl :=
      match scaleFV sc.1 with
      | .fin _ m e => encodeCode t fd rm v (fracOf m e)
      | _ => encodeCode t fd rm (.nan false) (1, 1)
    let cs := xs.map enc
    (build (cs.map fun c => c.1) sc.1, cs.foldl (fun f c => f.or c.2) sc.2)

/-- R284: vx.barq. -/
def barqOp (d : Fin 8) (x : VSrc) : Op Unit := do
  let w ← prefixE
  let fa := (w.map pfxFa).getD 2
  let fd := (w.map pfxFd).getD fa
  let ok : List Nat := [2, 3, 4, 6, 7]
  stopIf (!ok.contains fd) (trapAt codeReserved 0x0e2 0)
  stopIf (!ok.contains fa) (trapAt codeReserved 0x0e3 0)
  let t ← curTable
  stopIf ((isTbl fa || isTbl fd) && !tord t) (trapAt codeReserved 0x0e0 0)
  withV1 x (.v d) d fun b => do
    let r := barqBlock t fa fd (← roundMode) (← getSlot).v[d] b
    writeV (.v d) r.1
    setFlags r.2

/-- R284: vx.barq. -/
def execVxBarq (d : Fin 8) (x : VSrc) (s : State) : Host.Outcome State Fault Refusal := wordE .governable (barqOp d x) s

/-! ## cvt with shape v (R283) -/

/-- One element converted: a scale multiplies where the narrow element is the source and divides where it is the
destination (R283; of equal widths, log 19). -/
def cvtElem (t : SMap (BitVec 32)) (fa fd rm : Nat) (sc : Option Nat) (bits : Nat) : Nat × Fl :=
  let x := decodeCode t fa bits
  match sc with
  | none => encodeCode t fd rm x (1, 1)
  | some s =>
    if nanScale s then
      let r := encodeCode t fd rm (.nan false) (1, 1)
      (r.1, { r.2 with nv := true })
    else if codeBits fd < codeBits fa then
      match scaleFV s with
      | .fin _ m e => encodeCode t fd rm x (fracOf m e)
      | _ => encodeCode t fd rm x (1, 1)
    else encodeCode t fd rm (scaleElem x s).1 (1, 1)

/-- A whole vector converted: the wide side's elements pair with the narrow side's of part q (R283). Answers the elements
of D that are written, from the first one's index, and the conditions. -/
def cvtElems (t : SMap (BitVec 32)) (fa fd rm : Nat) (scaled : Bool) (sr : Word) (q : Nat) (v : Vec) : List Nat × Nat × Fl :=
  let sa := codeBits fa
  let sd := codeBits fd
  let n := 512 / max sa sd
  let base := n * (q % (max sa sd / min sa sd))
  let rs := (upFrom 0 n).map fun i =>
    cvtElem t fa fd rm (if scaled then some (regScale sr (base + i)) else none) (lane sa v (if sa < sd then base + i else i))
  (rs.map fun r => r.1, if sd < sa then base else 0, rs.foldl (fun f r => f.or r.2) Fl.zero)

/-- The elements put into a vector from element k upward. -/
def putLanes (W : Nat) (old : Vec) (k : Nat) (xs : List Nat) : Vec :=
  vecLanes W ((laneIds W).map fun i => if k ≤ i && i < k + xs.length then xs.getD (i - k) 0 else lane W old i)

/-- The formats of a vector conversion with SCL, checked as R267 and R279 say: after the codes themselves, that their sizes go
together. -/
def cvtFormatsV (dfd dfa : Nat) (okD okA : List Nat) (sizes : Nat → Nat → Bool) : Op (Nat × Nat × Nat) := do
  let w ← prefixE
  let fd := (w.map pfxFd).getD dfd
  let fa := (w.map pfxFa).getD dfa
  let scl := (w.map pfxScl).getD 0
  stopIf (w.isSome && !okD.contains fd) (trapAt codeReserved 0x0e2 0)
  stopIf (w.isSome && !okA.contains fa) (trapAt codeReserved 0x0e3 0)
  stopIf (!sizes (codeBits fd) (codeBits fa)) (trapAt codeReserved 0x0e2 0)
  stopIf (sclB scl) (trapAt codeReserved 0x0e5 0)
  stopIf ((isTbl fd || isTbl fa) && !tord (← curTable)) (trapAt codeReserved 0x0e0 0)
  return (fd, fa, scl)

/-- A vector conversion without a part number. -/
def cvtVecOp (dfd dfa : Nat) (okD okA : List Nat) (d : VDst) (x : VSrc) (s : State) : Host.Outcome State Fault Refusal :=
  wordE .governable (do
    let (fd, fa, scl) ← cvtFormatsV dfd dfa okD okA fun _ _ => true
    withV1 x (heldV d).1 (heldV d).2 fun a => do
      let t ← curTable
      let r := cvtElems t fa fd (← roundMode) (sclA scl) (← getSlot).e[14] 0 a
      writeV d (putLanes (codeBits fd) 0 r.2.1 r.1)
      setFlags r.2.2) s

/-- R283: cvt.enc, shape v. -/
def execCvtEncV (d : VDst) (x : VSrc) (s : State) : Host.Outcome State Fault Refusal := cvtVecOp 6 11 narrowCodes wideCodes d x s
/-- R283: cvt.dec, shape v. -/
def execCvtDecV (d : VDst) (x : VSrc) (s : State) : Host.Outcome State Fault Refusal := cvtVecOp 11 6 wideCodes narrowCodes d x s
/-- R283: cvt.cnv, shape v. -/
def execCvtCnvV (d : VDst) (x : VSrc) (s : State) : Host.Outcome State Fault Refusal := cvtVecOp 8 11 wideCodes wideCodes d x s
/-- R283: cvt.fti, shape v. -/
def execCvtFtiV (d : VDst) (x : VSrc) (s : State) : Host.Outcome State Fault Refusal := cvtVecOp codeInt64 11 intCodes wideCodes d x s
/-- R283: cvt.itf, shape v. -/
def execCvtItfV (d : VDst) (x : VSrc) (s : State) : Host.Outcome State Fault Refusal := cvtVecOp 11 codeInt64 wideCodes intCodes d x s

/-- R283: cvt.pack writes part q of D and keeps the rest. -/
def packOp (d : Fin 8) (x : VSrc) (y : ESrc) : Op Unit := do
  let (fd, fa, scl) ← cvtFormatsV 6 11 (narrowCodes ++ wideCodes) (narrowCodes ++ wideCodes) fun d a => decide (d < a)
  withV1 x (.v d) d fun a => do
    let q ← readE y
    let t ← curTable
    let σ ← getSlot
    let r := cvtElems t fa fd (← roundMode) (sclA scl) σ.e[14] q.toNat a
    writeV (.v d) (putLanes (codeBits fd) σ.v[d] r.2.1 r.1)
    setFlags r.2.2

/-- R283: cvt.pack. -/
def execCvtPack (d : Fin 8) (x : VSrc) (y : ESrc) (s : State) : Host.Outcome State Fault Refusal := wordE .governable (packOp d x y) s

/-- R283: cvt.unpk reads part q of S. -/
def unpkOp (d : VDst) (x : VSrc) (y : ESrc) : Op Unit := do
  let (fd, fa, scl) ← cvtFormatsV 11 6 (narrowCodes ++ wideCodes) (narrowCodes ++ wideCodes) fun d a => decide (a < d)
  withV1 x (heldV d).1 (heldV d).2 fun a => do
    let q ← readE y
    let t ← curTable
    let r := cvtElems t fa fd (← roundMode) (sclA scl) (← getSlot).e[14] q.toNat a
    writeV d (putLanes (codeBits fd) 0 r.2.1 r.1)
    setFlags r.2.2

/-- R283: cvt.unpk. -/
def execCvtUnpk (d : VDst) (x : VSrc) (y : ESrc) (s : State) : Host.Outcome State Fault Refusal := wordE .governable (unpkOp d x y) s

end Sys2Proof.Machine
end

