-- ==== Sys2Proof/Machine/Engines.lean ====
section
/-! DEFINITION. What the two engines of a cluster share: jobs and their descriptors, the operand checks, submission,
acceptance, poll and sleep, remote commands, and completion reports (spec/02 R33 to R37, spec/05 R94, spec/07 R122 to
R128, spec/17 R286 to R291, R297, R298). -/

namespace Sys2Proof.Machine

/-! ## Jobs -/

/-- Fields of a matrix job descriptor (R36). -/
def Job.id (j : Job) : Nat := j.desc.toNat / 2 ^ 56
def Job.op (j : Job) : Nat := j.desc.toNat / 2 ^ 46 % 16
def Job.acc (j : Job) : Fin 8 := Fin.ofNat 8 (j.desc.toNat / 2 ^ 43)
def Job.fmtA (j : Job) : Nat := j.desc.toNat / 2 ^ 39 % 16
def Job.fmtB (j : Job) : Nat := j.desc.toNat / 2 ^ 35 % 16
def Job.cblim (j : Job) : Nat := j.desc.toNat / 2 ^ 27 % 256
def Job.trapnow (j : Job) : Bool := j.desc.getLsbD 26
def Job.strict (j : Job) : Bool := j.desc.getLsbD 25
def Job.wide (j : Job) : Bool := j.desc.getLsbD 24

/-- Fields of a copy command's first word (R129). -/
def Job.cpId (j : Job) : Nat := j.desc.toNat % 256
def Job.cpQueue (j : Job) : Fin 4 := Fin.ofNat 4 (j.desc.toNat / 2 ^ 8)
def Job.cpOp (j : Job) : Nat := j.desc.toNat / 2 ^ 10 % 16
def Job.cpSeq (j : Job) : BitVec 16 := j.desc.extractLsb' 16 16

/-- A job that has not started. -/
def Job.make (desc : Word) (words : List Word) (fd sm : Nat) (rep : Reporter) (own : Nat) : Job :=
  { desc := desc, words := words, fd := fd, sm := sm, rep := rep, own := own, started := false, done := none, sums := [],
    fault := none, tried := none }

/-- An operand word of a job. -/
def Job.word (j : Job) (k : Nat) : Word := j.words.getD k 0

/-- The home of a scratchpad operand: space 0x0 names the own core (R289). -/
def Job.home (j : Job) (p : Word) : Nat := if spaceOf p = 0 then j.own else indexOf p

/-- The launch placed on the plat of a core. -/
def launchAt (s : State) (h : Nat) : Nat := ((platOfCore s h).bind fun p => p.2.launch).getD 0

/-- The launch of a job: its kicker's, or the one placed on the engine's plat. -/
def jobLaunch (s : State) (j : Job) : Nat :=
  match j.rep with
  | .slot src => src.launch
  | .remote _ _ _ => launchAt s j.own

/-- May a job that reads or writes memory go on? Not while its own core is one of the observers that a guard holds up (R94; log
63). -/
def engineHeld (s : State) (own : Nat) : Bool :=
  s.guards.any fun g => g.live s && observes s g.src.hart g.src.launch g.scope own

/-- Where a core's position and slot stand in a matrix job descriptor. -/
def issuerBits (h n : Nat) : Nat := posInCluster h * 2 ^ 53 + n % 8 * 2 ^ 50

/-- A job's state finished, with or without a fault; the fault reports the descriptor (R292). -/
def Job.finish (j : Job) (f : Option FaultInfo) : Job := { j with started := true, done := some f }

/-- A job that ends in a fault, whose taddr is the job descriptor (R292). -/
def Job.failed (j : Job) (code : BitVec 16) (d : BitVec 12) : Job := j.finish (some ⟨code, d, j.desc⟩)

/-! ## Operand checks (R289, R291, R292) -/

/-- The checks of an engine's operands, in order. -/
abbrev Check := Except FaultInfo Unit

/-- The check fails where b holds. -/
def failIf (b : Bool) (code : BitVec 16) (d : BitVec 12) (p : Word) : Check := if b then .error ⟨code, d, p⟩ else .ok ()

/-- Checks as part of a word: a failure is precise. -/
def checkNow (c : Check) : Op Unit := fun s =>
  match c with
  | .ok _ => .ok ((), s)
  | .error f => .error (.trap f none)

/-- The start of a scratchpad operand: its space, a core of the engine's own cluster, and its alignment (whose DETAIL is not
stated, log 4). -/
def checkPlace (s : State) (own : Nat) (p : Word) (align : Nat) : Check := do
  let home := if spaceOf p = 0 then own else indexOf p
  failIf (decide (2 < spaceOf p) || !reservedZero p) codeSpace (BitVec.ofNat 12 (spaceOf p)) p
  failIf (decide (Config.nCompute ≤ home) || clusterOfCore home != clusterOfCore own) codeBounds 0x0b7 p
  failIf (offOf p % align != 0) codeAlign (Config.freeDetail s.fresh) p

/-- A scratchpad operand of n bytes: its start, and its extent. -/
def checkScratch (s : State) (own : Nat) (p : Word) (align n : Nat) : Check := do
  checkPlace s own p align
  failIf (decide (Config.scratchBytes < offOf p + n)) codeBounds 0x0b0 p

/-- Integer mode (R170). -/
def intMode (c : Nat) : Bool := c == 0 || c == 1 || c == 5
/-- The depth of a step. -/
def stepK (c : Nat) : Nat := if c < 8 then 32 else 16
/-- The codes that a block scale may apply to. -/
def scalable (c : Nat) : Bool := c == 2 || c == 3 || c == 4 || c == 6 || c == 7

/-- Do the element sizes of two codes go together: both 2 bytes, both 4, or each 1 byte or 4 bits? -/
def sizesMeet (a b : Nat) : Bool := codeBits a == codeBits b || (decide (codeBits a ≤ 8) && decide (codeBits b ≤ 8))

/-- The decode table of the core that a job of launch L calls its own (R164, R291). -/
def tableAtCore (s : State) (L own : Nat) : SMap (BitVec 32) := (ctxOf s own L).table

/-- The formats of a step, with the decode table of launch L's context on a core: the own core of the engine's job, or the one that
issues a prefixed remote command (R291, R298). -/
def checkFormats (s : State) (L own fa fb scl : Nat) : Check := do
  failIf (decide (10 < fa)) codeReserved 0x0e3 0
  failIf (decide (10 < fb) || intMode fa != intMode fb || !sizesMeet fa fb) codeReserved 0x0e4 0
  failIf (scl != 0 && !(scalable fa && scalable fb)) codeReserved 0x0e5 0
  failIf ((isTbl fa || isTbl fb) && !tord (tableAtCore s L own)) codeReserved 0x0e0 0

/-- Fields of word 3 of a step (R289). -/
def gatherOf (w3 : Word) : Bool := w3.getLsbD 54
def bsclOf (w3 : Word) : Word := (w3.extractLsb' 36 18).zeroExtend 64
def asclOf (w3 : Word) : Word := (w3.extractLsb' 18 18).zeroExtend 64
/-- Bytes of a row of A, and of B. -/
def rowA (fa : Nat) : Nat := stepK fa * codeBits fa / 8
def rowB (fb : Nat) : Nat := 32 * codeBits fb / 8
/-- Bytes from row k of B to row k + 1. -/
def strideOf (w3 : Word) (fb : Nat) : Nat := if w3.toNat % 2 ^ 18 = 0 then rowB fb else w3.toNat % 2 ^ 18

/-- The operand words of a step (R289, R292). -/
def checkStep (s : State) (own fa fb scl : Nat) (ws : List Word) : Check := do
  let a := ws.getD 0 0
  let x := ws.getD 1 0
  let b := ws.getD 2 0
  let w3 := ws.getD 3 0
  failIf (w3.extractLsb' 55 9 != 0 || (x != 0 && !gatherOf w3)) codeReserved 0x0d5 0
  failIf (w3.toNat % 16 != 0) codeAlign 0x0d6 0
  if gatherOf w3 then checkPlace s own a 16 else checkScratch s own a 16 (32 * rowA fa)
  if gatherOf w3 then checkScratch s own x 64 64
  checkScratch s own b 16 ((stepK fa - 1) * strideOf w3 fb + rowB fb)
  if sclA scl then checkScratch s own (asclOf w3) 64 64
  if sclB scl then checkScratch s own (bsclOf w3) 64 64

/-- The destination of a drain: the widest output that it can write (R296). -/
def checkDrain (s : State) (own : Nat) (wide : Bool) (p : Word) : Check :=
  checkScratch s own p 64 (1024 * (if wide then 8 else 4) + 8)

/-- The options word of R287 for a step (steps: sparse) and a drain: no reserved bit, and no field of another form. -/
def checkOptions (o : Word) (sparse drain float : Bool) : Check := do
  failIf (o.extractLsb' 35 29 != 0 || o.extractLsb' 2 22 != 0) codeReserved 0x0d1 0
  failIf (o.getLsbD 25 && !(sparse && float)) codeReserved 0x0d1 0
  failIf (o.getLsbD 24 && !drain) codeReserved 0x0d1 0
  failIf (o.extractLsb' 0 2 != 0 && !sparse) codeReserved 0x0d1 0

/-! ## Submission and acceptance (R122, R128) -/

/-- Room in an engine for a job. -/
def roomFor (C : Cluster) (e : Engine) (j : Job) : Bool :=
  match e with
  | .mxe => decide (C.jobs.length < 16)
  | .cpe => decide ((C.cpq[j.cpQueue]).length < 8)

/-- Does a job take an identifier? -/
def takesId (e : Engine) (j : Job) : Bool :=
  match e with
  | .mxe => j.op != 9
  | .cpe => true

/-- The job queued with its identifier, from a position; cycle is that of the acceptance (R122). -/
def Cluster.accept (C : Cluster) (e : Engine) (pos cycle : Nat) (j : Job) : Cluster :=
  match e with
  | .mxe =>
    if takesId .mxe j then
      { C with
        jobs := C.jobs ++ [{ j with desc := j.desc ||| (C.nextId.zeroExtend 64 <<< 56), num := C.accepts }]
        nextId := C.nextId + 1
        lastPos := pos
        accepted := some cycle
        accepts := C.accepts + 1 }
    else
      { C with
        jobs := C.jobs ++ [{ j with num := C.accepts }]
        lastPos := pos
        accepted := some cycle
        accepts := C.accepts + 1 }
  | .cpe =>
    { C with
      cpq := C.cpq.set j.cpQueue (C.cpq[j.cpQueue] ++ [{ j with desc := j.desc ||| C.cpNextId.zeroExtend 64, num := C.accepts }])
      cpNextId := C.cpNextId + 1
      cpLastPos := pos
      cpAccepted := some cycle
      accepts := C.accepts + 1 }

/-- The identifier that the next accepted job of an engine takes. -/
def Cluster.nextOf (C : Cluster) : Engine → BitVec 8
  | .mxe => C.nextId
  | .cpe => C.cpNextId

/-- The requests that stand at an engine. -/
def Cluster.reqs (C : Cluster) : Engine → List Request
  | .mxe => C.mxReqs
  | .cpe => C.cpReqs
def Cluster.setReqs (C : Cluster) (e : Engine) (rs : List Request) : Cluster :=
  match e with
  | .mxe => { C with mxReqs := rs }
  | .cpe => { C with cpReqs := rs }

/-! ### Copy commands (R95, R129, R299) -/

/-- Does a copy operation reduce? -/
def reduces (op : Nat) : Bool := op == 1 || op == 2 || op == 3

/-- Is an engine in sequenced copy mode (R33)? -/
def sequenced (s : State) (L : Nat) : Bool := (capOf s L).any (·.cpmode)

/-- The pointers that a copy operation uses. -/
def copyPointers (op : Nat) (ws : List Word) : List Word := if op = 5 then [ws.getD 1 0] else [ws.getD 0 0, ws.getD 1 0]

/-- The checks of a copy command's block: SRC, DST, and the word with LEN and SEQ (R299). -/
def checkCopy (s : State) (L op : Nat) (ws : List Word) : Check := do
  let ps := copyPointers op ws
  let w := ws.getD 2 0
  let len := w.toNat % 2 ^ 32
  let seq := w.toNat / 2 ^ 32 % 2 ^ 16
  ps.forM fun p => failIf (!(spaceOf p == 0 || spaceOf p == 1 || spaceOf p == 2 || spaceOf p == 4) || !reservedZero p)
    codeSpace (BitVec.ofNat 12 (spaceOf p)) p
  ps.forM fun p => failIf ((spaceOf p == 1 || spaceOf p == 2) &&
    (decide (Config.nCompute ≤ indexOf p) || !inPlat s L (indexOf p))) codeBounds 0x0b1 p
  ps.forM fun p => failIf (ptrOff p % 64 != 0) codeAlign (Config.freeDetail s.fresh) p
  ps.forM fun p => failIf (spaceOf p != 4 && decide (Config.scratchBytes < offOf p + len)) codeBounds 0x0b0 p
  failIf (w.toNat / 2 ^ 48 != 0 || len == 0 || len % 64 != 0) codeReserved 0x0d2 0
  failIf (seq != 0 && !(sequenced s L && reduces op)) codeReserved 0x0d3 0
  failIf (sequenced s L && reduces op && spaceOf (ws.getD 1 0) != 4) codeReserved 0x0d4 0

/-- The destination bytes of a copy command, by the memory that they lie in. -/
def destLoc (s : State) (L : Nat) (j : Job) : Option Loc :=
  if j.cpOp = 4 then none
  else
    let p := j.word 1
    let len := (j.word 2).toNat % 2 ^ 32
    if spaceOf p = 4 then (extentOf s L p).map fun e => ⟨2 ^ 20 + (if e.host then 1 else 0), e.base + extOff p, len⟩
    else some ⟨j.home p, offOf p, len⟩

/-- How many jobs of a cluster were accepted after one that is queued, and itself. -/
def cpAge (C : Cluster) (j : Job) : Nat := C.accepts - j.num

/-- Is a copy command between two others in the order of acceptance a barrier? -/
def barrierAfter (C : Cluster) (age : Nat) : Bool :=
  C.cpq.toList.any fun q => q.any fun b => b.cpOp == 4 && decide (cpAge C b < age)

/-- Does a new copy command's destination overlap that of a command pending in another queue, with no barrier between (R95)? A
command that has finished is pending no longer. -/
def copyOverlap (s : State) (j : Job) : Bool :=
  let L := jobLaunch s j
  let C := clusterOf s (clusterOfCore j.own)
  if sequenced s L then false
  else
    match destLoc s L j with
    | none => false
    | some d =>
      C.cpq.toList.any fun q => q.any fun k =>
        k.cpQueue != j.cpQueue && k.done.isNone && (destLoc s L k).any (sameLoc d) && !barrierAfter C (cpAge C k)

/-! ### Requests -/

/-- The cluster of the current core. -/
def curCluster (s : State) : Nat := clusterOfCore (curHart s)

/-- Is the job refused for its destination? -/
def refusedOverlap (s : State) (e : Engine) (j : Job) : Bool :=
  match e with
  | .mxe => false
  | .cpe => copyOverlap s j

/-- A job of the current slot accepted: the value that it was stored with is taken, it is queued, the stream register that it
walks is held (R21), and D takes the identifier. -/
def acceptHere (e : Engine) (j : Job) (d : ADst) (data : ASrc) : Op Unit := do
  if data ≠ .z then
    let _ ← storedBytes data 8
  let s ← get
  let c := curCluster s
  let C := clusterOf s c
  stopIf (refusedOverlap s e j) (trapAt codeOverlap 0 0)
  let id := C.nextOf e
  modState fun t => putCluster t c ((clusterOf t c).accept e (posInCluster (curHart s)) t.cycle j)
  if takesId e j then writeA d (id.zeroExtend 64)
  if e == .mxe && decide (4 ≤ j.op) && decide (j.op ≤ 7) then modSlot fun σ => { σ with smBusy := Fin.ofNat 4 j.sm :: σ.smBusy }

/-- Does a request belong to an issuer? -/
def Request.from (r : Request) (src : Issuer) : Bool :=
  match r.job.rep with
  | .slot x => x == src
  | .remote _ _ _ => false

/-- A wait until a destination can be written. -/
def needDst (d : ADst) : Op Unit := do
  let σ ← getSlot
  match d with
  | .lq k => if 16 ≤ σ.lq[k].length then waitFor (.pushLq k)
  | .sm n => do
    stopIf (σ.smBusy.contains n) (waitFor .stream)
    notPending d
  | d => notPending d

/-- Is a request offered before another: it has waited longer, or as long from a lower slot? -/
def Request.before (x y : Request) : Bool :=
  let slot (r : Request) : Nat := match r.job.rep with
    | .slot i => i.slot
    | .remote _ _ _ => 8
  decide (x.since < y.since) || (x.since == y.since && decide (slot x < slot y))

/-- The position accepted last, and the cycle of that acceptance (R122). -/
def Cluster.lastAt (C : Cluster) : Engine → Nat
  | .mxe => C.lastPos
  | .cpe => C.cpLastPos
def Cluster.acceptedAt (C : Cluster) : Engine → Option Nat
  | .mxe => C.accepted
  | .cpe => C.cpAccepted

/-- The positions in the order in which the round-robin offers them (R122). -/
def Cluster.turns (C : Cluster) (e : Engine) : List Nat := (upFrom 1 9).map fun k => (C.lastAt e + k) % 9

/-- The request that an engine accepts next, of those that began to wait before a cycle: round-robin by position after the last
accepted one, and within a position the one that has waited longest (R122). -/
def Cluster.offer (C : Cluster) (e : Engine) (cycle : Nat) : Option Request :=
  let open' := (C.reqs e).filter fun r => roomFor C e r.job && decide (r.since < cycle)
  (C.turns e).findSome? fun p => firstBy Request.before (open'.filter fun r => r.pos == p)

/-- May a request from a position be accepted now beside those that stand: the engine has room and has accepted none in this
cycle, and the round-robin offers none of them before it (R122, R142)? -/
def Cluster.takes (C : Cluster) (e : Engine) (cycle pos : Nat) (j : Job) : Bool :=
  roomFor C e j && C.acceptedAt e != some cycle &&
  (match C.offer e cycle with
   | some r => (C.turns e).find? (fun p => p == pos || p == r.pos) == some pos
   | none => true)

/-- May a request that a launch's slot or the mesh brings from a position in this cycle still come before one of another position: one
of those that the round-robin offers first may yet ask in it (R122, R142)? A core may while one of its slots runs. -/
def mayComeFirst (s : State) (c : Nat) (e : Engine) (pos : Nat) (remote : Bool) : Bool :=
  let cores := coresOfCluster c
  let asks (p : Nat) : Bool :=
    if p = 8 then remote else ((cores[p]?).map fun h => (hartOf s h).slots.toList.any (·.running)).getD false
  ((clusterOf s c).turns e).find? (fun p => p == pos || asks p) != some pos

/-- Is a remote command on its way to an engine of cluster c? -/
def remoteComing (s : State) (c : Nat) (e : Engine) : Bool :=
  let lo := match e with
    | .mxe => 0xb0000
    | .cpe => 0xc4000
  s.net.any fun it => match it.op with
    | .msg dest _ _ => dest == lo + c
    | _ => false

/-- Does the current word's request win whatever else arrives in this cycle: no request stands, its position is the first that the
round-robin offers, and no lower slot of its core runs (R122)? -/
def winsNow (s : State) (e : Engine) (j : Job) : Bool :=
  let c := curCluster s
  let C := clusterOf s c
  let pos := posInCluster (curHart s)
  (C.reqs e).isEmpty && C.takes e s.cycle pos j && (C.turns e).find? (fun p => p != 8 || remoteComing s c e) == some pos &&
  (upFrom 0 (curNum s)).all fun n => !((hartOf s (curHart s)).slot n).running

/-- A job submitted by the current word: accepted at once where it wins whatever else arrives in this cycle, else standing as a
request that the word waits for (R122); data is what the value of a store to a kick register is taken from. -/
def submitJob (e : Engine) (j : Job) (d : ADst) (data : ASrc) : Op Unit := do
  needDst d
  let s ← get
  let c := curCluster s
  let C := clusterOf s c
  stopIf ((C.reqs e).any (·.from (curIssuer s))) (waitFor .room)
  if winsNow s e j then acceptHere e j d data
  else do
    stopIf (refusedOverlap s e j) (trapAt codeOverlap 0 0)
    let r : Request := { pos := posInCluster (curHart s), since := s.cycle, job := j, dst := d, data := data }
    waitWith .room (putCluster s c (C.setReqs e (C.reqs e ++ [r])))

/-- The order of a Kick: earlier operations are performed first, and the core's coalesced bytes pushed (R54, R94). -/
def kickOrder (d : OpDesc) : Op Unit := do
  inOrder d
  modState fun t => releasePush (curLaunch t) (curHart t) d t

/-- A job submitted by an mxq or cpq form: a Kick, a release at module scope (R84, R94), which a pair holds until its next
agreement point (R200). -/
def submit (e : Engine) (j : Job) (d : ADst) : Op Unit := do
  agreeFirst
  kickOrder { kinds := [.kick], scope := .module, sc := false, loc := ⟨regHome (curHart (← get)), 0, 8⟩, space2 := false }
  submitJob e j d .z

/-- A standing request accepted, one a cycle: the waiting word of its slot goes on. -/
def acceptRequest (c : Nat) (e : Engine) (s : State) : State :=
  let C := clusterOf s c
  if C.acceptedAt e == some s.cycle then s
  else
    match C.offer e s.cycle with
    | some r =>
      match r.job.rep with
      | .slot src =>
        asSlot src.hart src.slot (stepA false .governable (do
          modState fun t => putCluster t c ((clusterOf t c).setReqs e (((clusterOf t c).reqs e).filter fun q => !q.from src))
          acceptHere e r.job r.dst r.data
          return .next)) s
      | .remote _ _ _ => s
    | none => s

/-- R122: ENGINE_JOB_ACCEPT. -/
def execEngineJobAccept (c : Nat) (e : Engine) (s : State) : Host.Outcome State Fault Refusal := event (acceptRequest c e) s

/-! ## Poll and sleep (R124, R125, R297) -/

/-- The jobs of an engine that hold an identifier. -/
def Cluster.named (C : Cluster) (e : Engine) : List (Nat × Job) :=
  match e with
  | .mxe => (C.jobs.filter fun j => j.op != 9).map fun j => (j.id, j)
  | .cpe => C.cpq.toList.flatMap fun q => q.map fun j => (j.cpId, j)

/-- The entry that holds a job identifier, the newest where an older one stands yet (R124). -/
def Cluster.entryOf (C : Cluster) (e : Engine) (id : Nat) : Option (Nat × Job) :=
  firstBy (fun x y => decide (y.2.num < x.2.num)) ((C.named e).filter fun x => x.1 == id)

/-- The state code of a job identifier (R124). -/
def Cluster.stateOf (C : Cluster) (e : Engine) (id : Nat) : Nat :=
  match C.entryOf e id with
  | some x => if x.2.started then 1 else 0
  | none => if (C.nextOf e).toNat = id then 3 else 2

/-- A core without cluster engines raises SPACE (R286). -/
def needEngine : Op Unit := do
  stopIf (!isCompute (curHart (← get))) (trapAt codeSpace 0x006 0)

/-- A poll or a sleep as the matrices read it: an acquire at module scope. -/
def pollDesc (s : State) : OpDesc :=
  { kinds := [.ldA], scope := .module, sc := false, loc := ⟨regHome (curHart s), 8, 8⟩, space2 := false }

/-- The poll forms. -/
def pollOp (e : Engine) (d : ADst) (x : ARegZ) : Op Unit := do
  needEngine
  let id := (← readAReg x).toNat % 256
  inOrder (pollDesc (← get))
  let s ← get
  writeA d (BitVec.ofNat 64 ((clusterOf s (curCluster s)).stateOf e id))

/-- The sleep forms: a KIND 3 entry, behind which the A-side sleeps until the job has completed. -/
def sleepOp (e : Engine) (x : ARegZ) : Op Unit := do
  needEngine
  let id := (← readAReg x).toNat % 256
  inOrder (pollDesc (← get))
  let s ← get
  if (clusterOf s (curCluster s)).stateOf e id < 2 then do
    needSb 1
    let info := match e with
      | .mxe => id
      | .cpe => 256 + id
    modState fun t => { t with nextId := t.nextId + 1 }
    addSb (SbEntry.plain s.nextId 3 (BitVec.ofNat 50 info))

/-- R297: mxq.poll. -/
def execMxqPoll (d : ADst) (x : ARegZ) (s : State) : Host.Outcome State Fault Refusal := plainA (pollOp .mxe d x) s
/-- R297: cpq.poll. -/
def execCpqPoll (d : ADst) (x : ARegZ) (s : State) : Host.Outcome State Fault Refusal := plainA (pollOp .cpe d x) s
/-- R297: mxq.sleep. -/
def execMxqSleep (x : ARegZ) (s : State) : Host.Outcome State Fault Refusal := plainA (sleepOp .mxe x) s
/-- R297: cpq.sleep. -/
def execCpqSleep (x : ARegZ) (s : State) : Host.Outcome State Fault Refusal := plainA (sleepOp .cpe x) s

/-! ## Remote commands (R127, R298) -/

/-- The fields of a prefix of the A-side (R218). -/
def pfxFdA (w : BitVec 32) : Nat := (w.extractLsb' 20 4).toNat
def pfxFaA (w : BitVec 32) : Nat := (w.extractLsb' 15 4).toNat
def pfxFbA (w : BitVec 32) : Nat := (w.extractLsb' 10 4).toNat
def pfxSclA (w : BitVec 32) : Nat := (w.extractLsb' 5 2).toNat

/-- The pending prefix of the A-side. -/
def prefixA : Op (Option (BitVec 32)) := do return (← getSlot).aPrefix

/-- A job descriptor with a prefix's formats written in, and its SCL where OP is 0 to 3 (R298). -/
def withFormats (desc : Word) (fa fb scl : Nat) : Word :=
  let rest := desc.toNat / 2 ^ 43 * 2 ^ 43 + fa * 2 ^ 39 + fb * 2 ^ 35 + desc.toNat % 2 ^ 35
  let op := desc.toNat / 2 ^ 46 % 16
  BitVec.ofNat 64 (if op < 4 then rest - op * 2 ^ 46 + scl * 2 ^ 46 else rest)

/-- A remote command sent to an engine port of the range that begins at lo. -/
def rcmdOp (lo : Nat) (first : BitVec 5) (x : ARegZ) : Op Unit := do
  let p ← readAReg x
  stopIf (spaceOf p ≠ 7 ∨ indexOf p < lo ∨ lo + Config.nClusters ≤ indexOf p) (trapAt codeBounds 0x0b1 p)
  let dest ← portDest p
  let payload ← readBlock first.toNat 7
  match ← prefixA with
  | none => sendMessage dest 0 0 1 payload
  | some w => do
    let s ← get
    checkNow (checkFormats s (curLaunch s) (curHart s) (pfxFaA w) (pfxFbA w) (pfxSclA w))
    sendMessage dest 0 0 1 (payload.set 1 (withFormats (payload.getD 1 0) (pfxFaA w) (pfxFbA w) (pfxSclA w)))

/-- R298: mxq.rcmd. -/
def execMxqRcmd (first : BitVec 5) (x : ARegZ) (s : State) : Host.Outcome State Fault Refusal :=
  wordA false .governable (do rcmdOp 0xb0000 first x; return .next) s

/-- R298: cpq.rcmd; a prefix raises RESERVED_FIELD. -/
def cpRcmdOp (first : BitVec 5) (x : ARegZ) : Op Unit := do
  stopIf ((← prefixA).isSome) (trapAt codeReserved 0x0e6 0)
  rcmdOp 0xc4000 first x

/-- R298: cpq.rcmd. -/
def execCpqRcmd (first : BitVec 5) (x : ARegZ) (s : State) : Host.Outcome State Fault Refusal :=
  wordA false .governable (do cpRcmdOp first x; return .next) s

/-- The output format of a drain: the wide codes that R296 allows, FP32, or one that a float slot refuses. -/
def drainFormat (c : Nat) : Nat := if 8 ≤ c ∧ c ≤ 10 then c else 32

/-- A matrix job of a remote command, or the fault with which its port refuses it. -/
def remoteMatrix (s : State) (c : Nat) (rep : Reporter) (ws : List Word) : Except FaultInfo Job := do
  let desc := ws.getD 0 0
  let own := coreOfCluster c 0
  let op := desc.toNat / 2 ^ 46 % 16
  let ops := (ws.drop 1).take 4
  let bad := desc.toNat / 2 ^ 50 != 0 || desc.toNat % 2 ^ 24 != 0 || !(decide (op < 4) || op == 8)
  failIf bad codeReserved (Config.freeDetail s.fresh) 0
  let fa := desc.toNat / 2 ^ 39 % 16
  let fb := desc.toNat / 2 ^ 35 % 16
  if op = 8 then
    failIf (fb != 0) codeReserved (Config.freeDetail s.fresh) 0
    checkOptions (desc &&& (0x7ff000000 : Word)) false true false
    checkDrain s own (desc.getLsbD 24) (ops.getD 0 0)
    return Job.make (desc ||| (0x800000 : Word)) ops (if fa = 11 then 11 else drainFormat fa) 0 rep own
  else
    checkFormats s (launchAt s own) own fa fb op
    checkOptions (desc &&& (0x7ff000000 : Word)) false false false
    checkStep s own fa fb op ops
    return Job.make (desc ||| (0x800000 : Word)) ops 11 0 rep own

/-- A copy command of a remote command, or the fault with which its port refuses it: the sequence number stands in the
operand word, and in the descriptor at most the same (log 20). -/
def remoteCopy (s : State) (c L : Nat) (rep : Reporter) (ws : List Word) : Except FaultInfo Job := do
  let desc := ws.getD 0 0
  let own := coreOfCluster c 0
  let op := desc.toNat / 2 ^ 10 % 16
  let ops := (ws.drop 1).take 3
  let seq := if op = 4 then 0 else (ops.getD 2 0).toNat / 2 ^ 32 % 2 ^ 16
  let dseq := desc.toNat / 2 ^ 16 % 2 ^ 16
  let bad := desc.toNat / 2 ^ 32 != 0 || desc.toNat / 2 ^ 14 % 4 != 0 || desc.toNat % 256 != 0 || decide (5 < op) ||
    (dseq != 0 && dseq != seq)
  failIf bad codeReserved (Config.freeDetail s.fresh) 0
  if op ≠ 4 then checkCopy s L op ops
  let j := Job.make (BitVec.ofNat 64 (seq * 2 ^ 16 + desc.toNat % 2 ^ 16)) [ops.getD 0 0, ops.getD 1 0, ops.getD 2 0] 0 0 rep own
  failIf (copyOverlap s j) codeOverlap 0 0
  return j

/-- The engine and the cluster of a port. -/
def portEngine (dest : Nat) : Option (Engine × Nat) :=
  if 0xb0000 ≤ dest ∧ dest < 0xb0000 + Config.nClusters then some (.mxe, dest - 0xb0000)
  else if 0xc4000 ≤ dest ∧ dest < 0xc4000 + Config.nClusters then some (.cpe, dest - 0xc4000)
  else none

/-- A remote command at its port (R127); s is the state with it still on its way, t without it. It contends as position 8: while
the round-robin offers another request before it, or may yet in the cycle of its arrival, or the engine has accepted one in this
cycle, it goes on waiting at the port (R122, R142). A reply is discarded, since it is never nacked (R108, R255). Of a data message the
port's steps say nothing: DESIGN CHOICE, it is refused like a command with a reserved bit (log 83). -/
def commandArrive (s t : State) (it : NetItem) (e : Engine) (c : Nat) (header : Word) (payload : List Word) : State :=
  match SMap.find c t.clusters with
  | none => if kindOf header == 2 then accept t it else refusalFree t it codeCapability
  | some C =>
    if kindOf header == 2 then accept t it else
    let w1 := payload.getD 0 0
    let w7 := payload.getD 6 0
    if w1.extractLsb' 0 48 ≠ C.own then refusalFree t it codeCapability
    else if chanOf header != 0 || payload.length != 7 || kindOf header != 1 || w1.extractLsb' 48 16 != 0 || w7.toNat / 2 ^ 7 != 0 then
      refusalFree t it codeReserved
    else
      let notify := if w7.getLsbD 6 then some (w7.toNat % 64) else none
      let rep : Reporter := .remote (stampSender (stampOf header)) it.src.launch notify
      let L := launchAt s (coreOfCluster c 0)
      let made := match e with
        | .mxe => remoteMatrix t c rep (payload.drop 1)
        | .cpe => remoteCopy t c L rep (payload.drop 1)
      match made with
      | .error f => refusal { t with fresh := t.fresh + 1 } it f.code f.detail
      | .ok j =>
        if !roomFor C e j then nack t it 0 noFault
        else if !metBefore s it && mayComeFirst t c e 8 true then meets s it
        else if C.takes e s.cycle 8 j then accept (putCluster t c (C.accept e 8 s.cycle j)) it
        else s

/-- R127: REMOTE_COMMAND_ARRIVAL. -/
def execRemoteCommandArrival (k : Nat) (s : State) : Host.Outcome State Fault Refusal :=
  event (fun s =>
    match performing s k with
    | some (it, t) =>
      match it.op with
      | .msg dest header payload =>
        match portEngine dest with
        | some (e, c) => commandArrive s t it e c header payload
        | none => s
      | _ => s
    | none => s) s

/-! ## A store to a kick register (R33) -/

/-- The job that a value stored to a kick register submits: the value is the descriptor, whose issuer the engine fills in, and
the operand words are not stated (log 21). OP 4 to 7 and 9 are for other forms alone (R288). -/
def kickJob (s : State) (e : Engine) (src : Issuer) (v : Word) : Except FaultInfo Job :=
  let ws := (upFrom 0 4).map fun i => Config.freeWord (s.fresh + i)
  let refuse : FaultInfo := ⟨codeReserved, Config.freeDetail s.fresh, 0⟩
  match e with
  | .mxe =>
    let op := v.toNat / 2 ^ 46 % 16
    let fa := v.toNat / 2 ^ 39 % 16
    let fb := v.toNat / 2 ^ 35 % 16
    let desc := BitVec.ofNat 64 (issuerBits src.hart src.slot + v.toNat % 2 ^ 50 / 2 ^ 24 * 2 ^ 24)
    let j := Job.make desc ws (if fa = 11 then 11 else drainFormat fa) 0 (.slot src) src.hart
    if op = 8 then (checkDrain s src.hart (v.getLsbD 24) (ws.getD 0 0)).map fun _ => j
    else if op < 4 then
      (do checkFormats s src.launch src.hart fa fb op
          checkStep s src.hart fa fb op ws : Check).map fun _ => j
    else .error refuse
  | .cpe =>
    let op := v.toNat / 2 ^ 10 % 16
    let seq := if op = 4 then 0 else (ws.getD 2 0).toNat / 2 ^ 32 % 2 ^ 16
    let j := Job.make (BitVec.ofNat 64 (seq * 2 ^ 16 + op * 2 ^ 10 + v.toNat / 2 ^ 8 % 4 * 2 ^ 8)) (ws.take 3) 0 0 (.slot src) src.hart
    if op = 4 then .ok j
    else if op ≤ 5 then
      (do checkCopy s src.launch op ws
          failIf (copyOverlap s j) codeOverlap 0 0 : Check).map fun _ => j
    else .error refuse

/-- A store-release to a kick register as part of mem.st: its checks are precise, and its job is submitted at once; a pair holds
it until its next agreement point (R33, R200). -/
def kickStoreOp (e : Engine) (d : ASrc) (desc : OpDesc) : Op Unit := do
  let s0 ← get
  let v := BitVec.ofNat 64 (leValue (← storedBytes d 8))
  checkNow ((kickJob s0 e (curIssuer s0) v).map fun _ => ())
  if (curSlot s0).paired then do
    let _ ← issue true (.kickStore e v) desc []
  else do
    modState fun _ => s0
    kickOrder desc
    match kickJob s0 e (curIssuer s0) v with
    | .ok j => do
      modState fun t => { t with fresh := t.fresh + 4 }
      submitJob e j .z d
    | .error f => trapAt f.code f.detail f.addr

/-- R242: mem.st. -/
def execMemSt (d base : ASrc) (sz : Size) (ord : Ord) (sc : Scope) (off : BitVec 7) (s : State) : Host.Outcome State Fault Refusal :=
  plainA (storeOp kickStoreOp d base sz ord sc off) s

/-- A store-release to a kick register that a pair has released: its job is accepted when its turn comes, or refused late. -/
def kickArrive (s t : State) (it : NetItem) (e : Engine) (v : Word) : State :=
  let c := clusterOfCore it.src.hart
  let u := { t with fresh := t.fresh + 4 }
  match kickJob t e it.src v with
  | .error f => Machine.refuse u it.src it.id f
  | .ok j =>
    let C := clusterOf t c
    let pos := posInCluster it.src.hart
    let first := it.met.getD s.cycle
    let standing := (C.reqs e).any fun r => r.pos == pos && (match r.job.rep with
      | .slot x => decide (r.since < first) || (r.since == first && decide (x.slot < it.src.slot))
      | .remote _ _ _ => false)
    let lower := (upFrom 0 it.src.slot).any fun n => (slotOf t it.src.hart n).running
    if !metBefore s it && (mayComeFirst t c e pos (remoteComing t c e) || lower) then meets s it
    else if !standing && C.takes e s.cycle pos j then
      dropOut (putCluster u c ((clusterOf u c).accept e (posInCluster it.src.hart) s.cycle j)) it.src.hart it.id
    else s

/-- R33: KICK_REGISTER_STORE. -/
def execKickRegisterStore (k : Nat) (s : State) : Host.Outcome State Fault Refusal :=
  event (fun s =>
    match performing s k with
    | some (it, t) =>
      match it.op with
      | .kickStore e v => kickArrive s t it e v
      | _ => s
    | none => s) s

/-! ## Completion (R94, R126) -/

/-- The slots of a cluster that sleep on the job that info names. -/
def sleepersOn (s : State) (c : Nat) (info : BitVec 50) : List (Nat × Nat) :=
  (s.harts.filter fun p => isCompute p.1 && clusterOfCore p.1 == c).flatMap fun p =>
    ((upFrom 0 8).filter fun n =>
      (slotOf s p.1 n).sleeping && (slotOf s p.1 n).sb.any fun x => x.kind == 3 && x.info == info).map fun n => (p.1, n)

/-- Every sleep on a job of a cluster's engine settled (R125). A sleeping slot stands at a bundle boundary, so that a late fault that
has reached it is taken before it wakes (R241). -/
def wakeSleepers (s0 : State) (c : Nat) (e : Engine) (id : Nat) : State :=
  let info : BitVec 50 := BitVec.ofNat 50 (match e with
    | .mxe => id
    | .cpe => 256 + id)
  let s := (sleepersOn s0 c info).foldl (fun t p => deliverLate p.1 p.2 t) s0
  let wake (σ : Slot) : Slot := { σ with sb := σ.sb.filter fun x => !(x.kind == 3 && x.info == info) }
  { s with harts := s.harts.map fun p =>
      if isCompute p.1 && clusterOfCore p.1 == c then (p.1, { p.2 with slots := p.2.slots.map wake }) else p }

/-- The message that a remote command's completion sends: it carries the index of the core that kicked the engine, which is the
sender of the command, and takes that core's next sequence value (R107, R127); its PRI is not stated (log 4). The spec does not
say what becomes of it where that core's capsule has ended: PRESUMED, it is not sent (log 77). -/
def notifyRemote (s : State) (sender launch chan id : Nat) (code : BitVec 16) : State :=
  if (hartOf s sender).hasCtx launch then
    let c := ctxOf s sender launch
    let header := mkHeader (BitVec.ofNat 6 chan) ((Config.freeWord s.fresh).extractLsb' 56 2) 1 1 (mkStamp c.ply sender c.sseq)
    let t := putCtx { s with fresh := s.fresh + 1 } sender { c with sseq := c.sseq + 1 }
    let it : NetItem :=
      { id := t.nextId, src := { hart := sender, launch := launch, slot := 8, act := 0 },
        op := .msg sender header [BitVec.ofNat 64 (code.toNat * 2 ^ 16 + id)], prior := [], since := t.cycle }
    keepCopy { t with nextId := t.nextId + 1, net := t.net ++ [it] } it
  else s

/-- A job's completion as its kicker observes it (R126). -/
def reportJob (s : State) (c : Nat) (e : Engine) (id : Nat) (named : Bool) (j : Job) (f : Option FaultInfo) : State :=
  let t := if named then wakeSleepers s c e id else s
  match j.rep with
  | .slot src =>
    match f with
    | some x => lateFault t src none x
    | none => t
  | .remote sender launch (some chan) => notifyRemote t sender launch chan id ((f.map (·.code)).getD 0)
  | .remote _ _ none => t

/-- May a job report now? A NOTIFY needs a sequence value of the core that it carries the index of (R30). -/
def mayReport (s : State) (j : Job) : Bool :=
  match j.rep with
  | .remote sender launch (some _) => !(hartOf s sender).hasCtx launch || hasSseq s launch sender 1
  | _ => true

/-- The first entry of a queue whose job has finished and may report: reports are store-releases, which keep the order of the queue
(R90, R94, R336). -/
def firstReport (s : State) (q : List Job) : Option Job := q.find? fun j => j.done.isSome && mayReport s j

/-- The k-th entry of an engine's queues, if its job has finished and it is the first of its queue to report, leaves the queue and
reports. -/
def completeJob (c : Nat) (e : Engine) (k : Nat) (s : State) : State :=
  let C := clusterOf s c
  match e with
  | .mxe =>
    match C.jobs[k]? with
    | some j =>
      match j.done with
      | some f =>
        if firstReport s C.jobs = some j then
          reportJob (putCluster s c { C with jobs := removeAt k C.jobs }) c e j.id (j.op != 9) j f
        else s
      | none => s
    | none => s
  | .cpe =>
    match (C.cpq.toList.flatMap id)[k]? with
    | some j =>
      match j.done with
      | some f =>
        let q := j.cpQueue
        if firstReport s C.cpq[q] = some j then
          reportJob (putCluster s c { C with cpq := C.cpq.set q (C.cpq[q].erase j) }) c e j.cpId true j f
        else s
      | none => s
    | none => s

/-- R126: ENGINE_COMPLETION_REPORT. -/
def execEngineCompletionReport (c : Nat) (e : Engine) (k : Nat) (s : State) : Host.Outcome State Fault Refusal :=
  event (completeJob c e k) s

/-! ## The engine's reads and writes of scratchpads -/

/-- Every U copy of the lines of n bytes at a home recalled (R53). -/
def recallRange (s : State) (L home off n : Nat) : State :=
  (upFrom (off / 64) ((off + n + 63) / 64 - off / 64)).foldl (fun t i => recallU t L home (64 * i)) s

/-- n bytes at a home, BASE where a line is declared (R77). -/
def Ctx.readAll (c : Ctx) (home off n : Nat) : List Byte :=
  if c.unit.lines.isEmpty then Memory.bytes c.scratch off n
  else (upFrom off n).flatMap fun o => c.read home o 1

/-- The DETAIL and code with which a write of n bytes to a scratchpad is refused: a ring or future-link region, or the first
64 bytes of it that hold an empty future or a declared line (R296). -/
def writeBlocked (s : State) (L home off n : Nat) : Option (BitVec 16 × BitVec 12) :=
  if regionRefused s L home off n true then some (codeBounds, 0x0b3)
  else
    ((upFrom (off / 64) ((off + n + 63) / 64 - off / 64)).findSome? fun i =>
      let lo := max off (64 * i)
      (ctxOf s home L).writeRefused home lo (min (off + n) (64 * i + 64) - lo)).map fun d => (codeQueueMisuse, d)

/-- Bytes written at a home by an engine, and at the follower of a pair (R53, R198). -/
def engineWrite (s : State) (L home off : Nat) (bs : List Byte) : State :=
  let u := modHome (recallRange s L home off bs.length) L home fun c => c.write off bs
  (upFrom (off / 64) ((off + bs.length + 63) / 64 - off / 64)).foldl (fun t i => invalidateHome t L home (64 * i)) u

end Sys2Proof.Machine
end

