-- ==== Sys2Proof/Machine/Cpe.lean ====
section
/-! DEFINITION. The copy engine: the words that submit its commands, and its copies, fills, reducing adds and barriers in
ordered and sequenced mode (spec/05 R95 R96, spec/07 R128 R129, spec/17 R299 R300). -/

namespace Sys2Proof.Machine

/-! ## Submission (R299) -/

/-- A copy form with a block. -/
def copySubmit (op : Nat) (d : ADst) (first : BitVec 5) (q : Fin 4) : Op Unit := do
  needEngine
  let ws ← readBlock first.toNat 3
  let s ← get
  checkNow (checkCopy s (curLaunch s) op ws)
  let seq := (ws.getD 2 0).toNat / 2 ^ 32 % 2 ^ 16
  let desc := BitVec.ofNat 64 (seq * 2 ^ 16 + op * 2 ^ 10 + q * 2 ^ 8)
  submit .cpe (Job.make desc [ws.getD 0 0, ws.getD 1 0, BitVec.ofNat 64 ((ws.getD 2 0).toNat % 2 ^ 32)] 0 0
    (.slot (curIssuer s)) (curHart s)) d

/-- cpq.bar reads no block. -/
def barSubmit (d : ADst) (q : Fin 4) : Op Unit := do
  needEngine
  let s ← get
  submit .cpe (Job.make (BitVec.ofNat 64 (4 * 2 ^ 10 + q * 2 ^ 8)) [] 0 0 (.slot (curIssuer s)) (curHart s)) d

/-- R299: cpq.copy. -/
def execCpqCopy (d : ADst) (first : BitVec 5) (q : Fin 4) (s : State) : Host.Outcome State Fault Refusal :=
  plainA (copySubmit 0 d first q) s
/-- R299, R300: cpq.addf. -/
def execCpqAddf (d : ADst) (first : BitVec 5) (q : Fin 4) (s : State) : Host.Outcome State Fault Refusal :=
  plainA (copySubmit 1 d first q) s
/-- R299, R300: cpq.addb. -/
def execCpqAddb (d : ADst) (first : BitVec 5) (q : Fin 4) (s : State) : Host.Outcome State Fault Refusal :=
  plainA (copySubmit 2 d first q) s
/-- R299, R300: cpq.addi. -/
def execCpqAddi (d : ADst) (first : BitVec 5) (q : Fin 4) (s : State) : Host.Outcome State Fault Refusal :=
  plainA (copySubmit 3 d first q) s
/-- R299, R95: cpq.bar. -/
def execCpqBar (d : ADst) (q : Fin 4) (s : State) : Host.Outcome State Fault Refusal := plainA (barSubmit d q) s
/-- R299: cpq.fill. -/
def execCpqFill (d : ADst) (first : BitVec 5) (q : Fin 4) (s : State) : Host.Outcome State Fault Refusal :=
  plainA (copySubmit 5 d first q) s

/-! ## Granules -/

/-- The pointer of granule i of an operand. -/
def granAt (p : Word) (i : Nat) : Word := p + BitVec.ofNat 64 (64 * i)

/-- The channel core of an address of an extent, for memory of the module. -/
def chanOfExt (e : Extent) (off : Nat) : Nat := Config.nCompute + pseudoChannel (e.base + off)

/-- The declared line of a launch at a granule of an extent. -/
def extLine (s : State) (L : Nat) (e : Extent) (k off : Nat) : Option OrLine :=
  (ctxOf s (chanOfExt e off) L).unit.line (extLinePtr k off)

/-- The fault with which the checkers refuse a granule of an extent, if they do (R9, R244). -/
def extRefused (s : State) (L : Nat) (p : Word) (store : Bool) : Option FaultInfo :=
  match extentOf s L p with
  | none => some ⟨codeBounds, 0x0b4, p⟩
  | some e =>
    if e.len < extOff p + 64 || !e.rights.getLsbD (if store then 1 else 0) then some ⟨codeBounds, 0x0b4, p⟩
    else if !store && extentPoisoned s e (extOff p) 64 then some ⟨codeUncorrectable, Config.freeDetail s.fresh, p⟩
    else if store && (extLine s L e (extOf p) (extOff p)).isSome then some ⟨codeQueueMisuse, 0x012, p⟩
    else none

/-- The fault of a refused granule of a job: taddr holds the pointer where a checker refuses it (R299), else the job descriptor, as
for any late fault of a job (R292, R296, R301). -/
def Job.blame (j : Job) (f : FaultInfo) : FaultInfo := if f.code = codeQueueMisuse then { f with addr := j.desc } else f

/-- The fault with which a granule of a copy command is refused, if it is. -/
def granRefused (s : State) (L : Nat) (j : Job) (p : Word) (store : Bool) : Option FaultInfo :=
  if spaceOf p = 4 then (extRefused s L p store).map j.blame
  else if store then (writeBlocked s L (j.home p) (offOf p) 64).map fun f => ⟨f.1, f.2, j.desc⟩
  else none

/-- A granule read: BASE where it is a declared line (R77). -/
def granRead (s : State) (L : Nat) (j : Job) (p : Word) : List Byte :=
  if spaceOf p = 4 then
    match extentOf s L p with
    | some e =>
      match extLine s L e (extOf p) (extOff p) with
      | some l => vecBytes l.base 64
      | none => extentBytes s e (extOff p) 64
    | none => List.replicate 64 0
  else (ctxOf s (j.home p) L).readAll (j.home p) (offOf p) 64

/-- A granule written. -/
def granWrite (s : State) (L : Nat) (j : Job) (p : Word) (bs : List Byte) : State :=
  if spaceOf p = 4 then
    match extentOf s L p with
    | some e => extentWrite s e (extOff p) bs (platOfLaunch s L).tag
    | none => s
  else engineWrite s L (j.home p) (offOf p) bs

/-- What reading a granule does: the U copies of its line are recalled (R53), or its line is read through its slice (R56). -/
def granRecall (s : State) (L : Nat) (j : Job) (p : Word) : State :=
  if spaceOf p = 4 then
    match extentOf s L p with
    | some e => extentTouch s e (extOff p)
    | none => s
  else recallU s L (j.home p) (offOf p)

/-! ## Reducing (R300) -/

/-- Elements of n bytes. -/
def elemsOf (n : Nat) (bs : List Byte) : List Nat :=
  let v := leValue bs
  (upFrom 0 (bs.length / n)).map fun i => v / 2 ^ (8 * n * i) % 2 ^ (8 * n)

/-- One element of a reducing add: FP32, BF16 or INT32. -/
def reduceElem (op d x : Nat) : Nat :=
  if op = 1 then (addFp .fp32 0 d x).1
  else if op = 2 then (addFp .bf16 0 d x).1
  else (d + x) % 2 ^ 32

/-- The bytes of a reducing add. -/
def reduceBytes (op : Nat) (d x : List Byte) : List Byte :=
  let n := if op = 2 then 2 else 4
  ((elemsOf n d).zip (elemsOf n x)).flatMap fun p => leBytes (reduceElem op p.1 p.2) n

/-! ## Which command may run (R95, R123, R128) -/

/-- The command replaced in its queue. -/
def setCommand (s : State) (c : Nat) (j : Job) : State :=
  let C := clusterOf s c
  let q := j.cpQueue
  putCluster s c { C with cpq := C.cpq.set q (C.cpq[q].map fun x => if x.num == j.num then j else x) }

/-- Is a command a reducing one in sequenced mode? -/
def inSequence (s : State) (j : Job) : Bool := reduces j.cpOp && sequenced s (jobLaunch s j)

/-- The next command of a queue: the first that has not started, where those before it in the queue have finished, or are in
sequence as it is (R95, R96). -/
def nextCommand (s : State) : List Job → List Job → Option Job
  | _, [] => none
  | before, j :: js =>
    if j.started then nextCommand s (j :: before) js
    else if before.all fun b => b.done.isSome || (inSequence s b && inSequence s j) then some j else none

/-- May a command run beside the commands of the other queues? A barrier waits for every earlier command, and every command
for the earlier barriers. -/
def barred (C : Cluster) (j : Job) : Bool :=
  C.cpq.toList.any fun q => q.any fun b =>
    decide (cpAge C j < cpAge C b) && b.done.isNone && (j.cpOp == 4 || b.cpOp == 4)

/-- The command that queue q may run now. -/
def runnable (s : State) (c : Nat) (q : Fin 4) : Option Job :=
  let C := clusterOf s c
  match nextCommand s [] C.cpq[q] with
  | some j => if barred C j then none else some j
  | none => none

/-! ## Copies and fills (R299) -/

/-- The granules of a command. -/
def granCount (j : Job) : Nat := (j.word 2).toNat % 2 ^ 32 / 64

/-- The refusal of a destination granule: a reducing command reads it too (R300). One in sequence is checked by its channel core
when it is applied, but for the extent that must name that core (R96). -/
def destRefused (s : State) (L : Nat) (j : Job) (p : Word) : Option FaultInfo :=
  if inSequence s j then (if (extentOf s L p).any fun e => decide (extOff p + 64 ≤ e.len) then none else some ⟨codeBounds, 0x0b4, p⟩)
  else
    match (if reduces j.cpOp then granRefused s L j p false else none) with
    | some f => some f
    | none => granRefused s L j p true

/-- The first refusal among a command's granules; nothing is written where there is one. -/
def commandRefused (s : State) (L : Nat) (j : Job) : Option FaultInfo :=
  (upFrom 0 (granCount j)).findSome? fun i =>
    match (if j.cpOp = 5 then none else granRefused s L j (granAt (j.word 0) i) false) with
    | some f => some f
    | none => destRefused s L j (granAt (j.word 1) i)

/-- Does a granule lie in a page whose migration has its writes retried (R60)? -/
def granHeld (s : State) (L : Nat) (p : Word) : Bool :=
  spaceOf p == 4 && (extentOf s L p).any fun e => !e.host && pageHeld s (e.base + extOff p)

/-- Is a write of a command retried? -/
def commandHeld (s : State) (L : Nat) (j : Job) : Bool :=
  j.cpOp != 4 && !inSequence s j && (upFrom 0 (granCount j)).any fun i => granHeld s L (granAt (j.word 1) i)

/-- The first pointer of a command to a core that the launch's plat does not hold (R44). -/
def commandUnowned (s : State) (L : Nat) (j : Job) : Option Word :=
  if j.cpOp = 4 then none
  else (copyPointers j.cpOp j.words).find? fun p => spaceOf p != 4 && !owned s L (j.home p)

/-- A copy job ends in a fault. -/
def failCommand (s : State) (c : Nat) (j : Job) (f : FaultInfo) : State :=
  setCommand { s with fresh := s.fresh + 1 } c (j.finish (some f))

/-- One granule copied. Where the command's own writes have reached its source, the word read is one that the source held at
some time (log 7). -/
def copyGranule (s0 : State) (L : Nat) (j : Job) (s : State) (i : Nat) : State :=
  let p := granAt (j.word 0) i
  let t := granRecall s L j p
  let from' := if Config.freeChoice s.fresh % 2 = 0 then granRead s0 L j p else granRead t L j p
  granWrite { t with fresh := t.fresh + 1 } L j (granAt (j.word 1) i) from'

/-- The granules of a copy in order, upwards or downwards (log 7). -/
def copyOrder (s : State) (n : Nat) : List Nat :=
  if Config.freeChoice s.fresh % 2 = 0 then upFrom 0 n else (upFrom 0 n).reverse

/-- The U copies of every source granule recalled. -/
def recallSource (s : State) (L : Nat) (j : Job) : State :=
  (upFrom 0 (granCount j)).foldl (fun t i => granRecall t L j (granAt (j.word 0) i)) s

/-- A command against a core that is not assigned: it is retried, and fails after 65,536 cycles (R44). -/
def retryCommand (s : State) (c : Nat) (j : Job) (p : Word) : State :=
  match j.tried with
  | none => setCommand s c { j with tried := some s.cycle }
  | some since => if since + 65536 ≤ s.cycle then failCommand s c j ⟨codeBounds, 0x0b2, p⟩ else s

/-- A command of a given set of operations in queue q, run by f where it is the one that may run, nothing has it retried, and it
is not refused. -/
def runCommand (c : Nat) (q : Fin 4) (ops : Nat → Bool) (f : State → Nat → Job → State) (s : State) : State :=
  match runnable s c q with
  | some j =>
    let L := jobLaunch s j
    if !ops j.cpOp || engineHeld s j.own || commandHeld s L j then s
    else
      match commandUnowned s L j with
      | some p => retryCommand s c j p
      | none =>
        match (if j.cpOp = 4 then none else commandRefused s L j) with
        | some x => failCommand s c j x
        | none => f s L j
  | none => s

/-- A copy. -/
def runCopy (c : Nat) (s : State) (L : Nat) (j : Job) : State :=
  let s0 := recallSource s L j
  let t := (copyOrder s0 (granCount j)).foldl (copyGranule s0 L j) { s0 with fresh := s0.fresh + 1 }
  setCommand t c (j.finish none)

/-- R299: CPE_COPY_JOB. -/
def execCpeCopyJob (c : Nat) (q : Fin 4) (s : State) : Host.Outcome State Fault Refusal :=
  event (runCommand c q (fun op => op == 0) (runCopy c)) s

/-- A fill: every word of DST takes the value. -/
def runFill (c : Nat) (s : State) (L : Nat) (j : Job) : State :=
  let bs := (List.replicate 8 (leBytes (j.word 0).toNat 8)).flatten
  let t := (upFrom 0 (granCount j)).foldl (fun t i => granWrite t L j (granAt (j.word 1) i) bs) s
  setCommand t c (j.finish none)

/-- R299: CPE_FILL_JOB. -/
def execCpeFillJob (c : Nat) (q : Fin 4) (s : State) : Host.Outcome State Fault Refusal :=
  event (runCommand c q (fun op => op == 5) (runFill c)) s

/-- R95: CPE_BARRIER_JOB. -/
def execCpeBarrierJob (c : Nat) (q : Fin 4) (s : State) : Host.Outcome State Fault Refusal :=
  event (runCommand c q (fun op => op == 4) fun s _ j => setCommand s c (j.finish none)) s

/-! ## Reducing commands (R96, R300) -/

/-- One granule combined at its destination's home. -/
def reduceGranule (L : Nat) (j : Job) (s : State) (i : Nat) : State :=
  let t := granRecall (granRecall s L j (granAt (j.word 0) i)) L j (granAt (j.word 1) i)
  let p := granAt (j.word 1) i
  granWrite t L j p (reduceBytes j.cpOp (granRead t L j p) (granRead t L j (granAt (j.word 0) i)))

/-- The issuer of an engine's message to a channel core. -/
def engineIssuer (s : State) (j : Job) : Issuer := { hart := j.own, launch := jobLaunch s j, slot := 8, act := 0 }

/-- A sequenced command sent to the channel cores of its destination, each with the granules that it holds (R96). -/
def sendSequenced (c : Nat) (s0 : State) (L : Nat) (j : Job) : State :=
  let s := recallSource s0 L j
  let gs := (upFrom 0 (granCount j)).map fun i =>
    let p := granAt (j.word 1) i
    let chan := match extentOf s L p with
      | some e => chanOfExt e (extOff p)
      | none => Config.nCompute
    (chan, p, granRead s L j (granAt (j.word 0) i))
  let chans := (gs.map fun g => g.1).eraseDups
  let t := chans.foldl (fun t h =>
    post t (engineIssuer s j)
      (.seqReduce c j.num j.cpOp j.cpSeq h ((gs.filter fun g => g.1 == h).map fun g => (g.2.1, g.2.2)))) s
  setCommand t c { j with started := true }

/-- A reducing command. -/
def runReduce (c : Nat) (s : State) (L : Nat) (j : Job) : State :=
  if inSequence s j then sendSequenced c s L j
  else setCommand ((upFrom 0 (granCount j)).foldl (reduceGranule L j) s) c (j.finish none)

/-- R300: CPE_REDUCE_JOB. -/
def execCpeReduceJob (c : Nat) (q : Fin 4) (s : State) : Host.Outcome State Fault Refusal :=
  event (runCommand c q reduces (runReduce c)) s

/-- Does an item belong to a sequenced command? -/
def ofCommand (c job : Nat) (it : NetItem) : Bool :=
  match it.op with
  | .seqReduce c' j' _ _ _ _ => c' == c && j' == job
  | _ => false

/-- A sequenced command whose parts have all been acknowledged has finished. -/
def settleSequenced (s : State) (c job : Nat) : State :=
  let held := s.harts.any fun p => p.2.ctxs.any fun x => x.seqHeld.any (ofCommand c job)
  if s.net.any (ofCommand c job) || held then s
  else
    match (clusterOf s c).cpq.toList.findSome? fun q => q.find? fun j => j.num == job && j.started && j.done.isNone with
    | some j => setCommand s c (j.finish j.fault)
    | none => s

/-- One part of a sequenced command applied at its channel core. -/
def applyPiece (L op : Nat) (s : State) (g : Word × List Byte) : State :=
  match extentOf s L g.1 with
  | some e => extentWrite s e (extOff g.1) (reduceBytes op (extentBytes s e (extOff g.1) 64) g.2) (platOfLaunch s L).tag
  | none => s

/-- The refusal of a part by the checker of its channel core, which reads and writes its granules (R9, R300). -/
def partRefused (s : State) (L : Nat) (ps : List (Word × List Byte)) : Option FaultInfo :=
  ps.findSome? fun g =>
    match extRefused s L g.1 false with
    | some f => some f
    | none => extRefused s L g.1 true

/-- A command in sequence with its first refusal, which it will report. -/
def noteRefusal (s : State) (c job : Nat) (f : FaultInfo) : State :=
  match (clusterOf s c).cpq.toList.findSome? fun q => q.find? fun j => j.num == job && j.started && j.done.isNone with
  | some j => setCommand { s with fresh := s.fresh + 1 } c { j with fault := some (j.fault.getD (j.blame f)) }
  | none => s

/-- A part taken by its channel core: applied, or refused with nothing written. -/
def takePart (s : State) (L c job op : Nat) (ps : List (Word × List Byte)) : State :=
  match partRefused s L ps with
  | some f => noteRefusal s c job f
  | none => ps.foldl (applyPiece L op) s

/-- Has the migration of a page a part retried (R60)? -/
def partHeld (s : State) (L : Nat) (ps : List (Word × List Byte)) : Bool := ps.any fun g => granHeld s L g.1

/-- A part applied, with the parts held behind it that have become expected; fuel is their number and one (R96). A part that is
refused has had its number all the same: DEDUCED, since what follows it would be held for ever (log 78). One whose page is held
by a migration comes again. -/
def applySequenced (h L k : Nat) : Nat → NetItem → State → State
  | 0, _, s => s
  | fuel + 1, it, s =>
    match it.op with
    | .seqReduce c job op seq _ ps =>
      let t := takePart s L c job op ps
      let x := ctxOf t h L
      let next := (x.seqHeld.find? fun y => match y.op with
        | .seqReduce _ _ _ q _ gs => q == seq + 1 && (gs.head?.map fun g => extOf g.1) == some k
        | _ => false)
      let y : Ctx :=
        { x with
          seqNext := SMap.set k (seq + 1) x.seqNext
          seqHeld := x.seqHeld.filter fun z => some z.id != next.map (·.id) }
      let u := settleSequenced (putCtx t h y) c job
      match next with
      | some z =>
        match z.op with
        | .seqReduce _ _ _ _ _ zs => if partHeld u L zs then { u with net := u.net ++ [z] } else applySequenced h L k fuel z u
        | _ => u
      | none => u
    | _ => s

/-- A part of a sequenced command at its channel core: applied, held, or acknowledged again (R96). A page in the last pass of
its migration has it retried (R60). -/
def sequencedArrive (s t : State) (it : NetItem) : State :=
  match it.op with
  | .seqReduce c job _ seq h ps =>
    let L := it.src.launch
    let k := (ps.head?.map fun g => extOf g.1).getD 0
    let x := ctxOf t h L
    let d := (seq - SMap.getD x.seqNext k 0).toNat
    if partHeld s L ps then s
    else if d = 0 then applySequenced h L k (x.seqHeld.length + 1) it t
    else if d < 2 ^ 15 then putCtx t h { x with seqHeld := x.seqHeld ++ [it] }
    else settleSequenced t c job
  | _ => s

/-- R96: SEQUENCED_REDUCE_ARRIVAL. -/
def execSequencedReduceArrival (k : Nat) (s : State) : Host.Outcome State Fault Refusal :=
  event (fun s =>
    match takeNet s k with
    | some (it, t) => sequencedArrive s t it
    | none => s) s

end Sys2Proof.Machine
end

