-- ==== Sys2Proof/Machine/Errors.lean ====
section
/-! DEFINITION. Memory errors, poison, the retirement of pages and the zeroing of extent pages (spec/03 R58 to R61). -/

namespace Sys2Proof.Machine

/-! ## Errors (R59) -/

/-- R59: CORRECTABLE_ERROR. -/
def execCorrectableError (_place : ErrPlace) (s : State) : Host.Outcome State Fault Refusal :=
  event (fun s => { s with eccCorrectable := s.eccCorrectable + 1, gzChanged := true }) s

/-- A clean copy that has been refetched: TRANSIENT_ECC in the fault log (R184). -/
def refetched (s : State) : State := logRefusal s codeTransientEcc (Config.freeDetail s.fresh)

/-- The plat that holds core h fenced, if a launch lives there. -/
def fenceCore (s : State) (h : Nat) : State :=
  match platOfCore s h with
  | some p => fencePlat s p.1 codePlatFenced (Config.freeDetail s.fresh)
  | none => s

/-- The four granules of a last-level cache line written as poison, with a fault log record of the line's address. -/
def poisonLine (s : State) (line : Nat) (tag : BitVec 16) : State :=
  let gs := (upFrom (4 * line) 4).map fun g => physAddr s (64 * g) / 64
  let f := s.fresh
  let t := logFault { s with fresh := f + 3 } codeUncorrectable (Config.freeDetail f) (Config.freeChoice (f + 1) % 1024) tag
    (Config.freeChoice (f + 2) % 2 ^ 20) (BitVec.ofNat 64 (256 * line))
  { t with poison := gs.filter (fun g => !t.poison.contains g) ++ t.poison, llc := SMap.erase line t.llc }

/-- Does a plat hold a live capsule that an error can fence (R178; log 64)? -/
def PlatEntry.live (P : PlatEntry) : Bool := P.launch.isSome && (P.state == .running || P.state == .quiescing)

/-- A dirty last-level cache line found uncorrectable: its writer's plat is fenced while it lives, else the line is poison (R59,
R61). A clean one is refetched. -/
def errorLlc (s : State) (line : Nat) : State :=
  match SMap.find line s.llc with
  | none | some none => refetched { s with llc := SMap.erase line s.llc }
  | some (some tag) =>
    match s.plats.find? fun p => p.2.live && p.2.tag == tag with
    | some p => fencePlat s p.1 codePlatFenced (Config.freeDetail s.fresh)
    | none => poisonLine s line tag

/-- An uncorrectable error at a place. -/
def errorAt (place : ErrPlace) (s0 : State) : State :=
  let s : State := { s0 with eccUncorrectable := s0.eccUncorrectable + 1, gzChanged := true }
  match place with
  | .scratch h _ => fenceCore s h
  | .l1 h k =>
    let l := (hartOf s h).line k
    if l.dirty ≠ 0 ∨ l.ucls.isSome = true then fenceCore s h
    else refetched (putHart s h ((hartOf s h).putLine k { l with shared := none }))
  | .l2 c k =>
    if (upFrom 0 4).any fun i => l2Dirty s c (4 * l2Key k + i) then fenceCore s ((coresOfCluster c).headD 0)
    else
      match platOfCore s ((coresOfCluster c).headD 0) with
      | some p => refetched (evictL2 (p.2.launch.getD 0) c (l2Key k) s)
      | none => s
  | .llc a => errorLlc s (a / 256)
  | .hbm a =>
    let g := physAddr s a / 64
    { s with poison := if s.poison.contains g then s.poison else g :: s.poison }

/-- R59: UNCORRECTABLE_ERROR_CONSUMED. -/
def execUncorrectableErrorConsumed (place : ErrPlace) (s : State) : Host.Outcome State Fault Refusal := event (errorAt place) s

/-! ## Retirement of pages (R60) -/

/-- The physical page that holds a page. -/
def physPage (s : State) (p : Nat) : Nat := physAddr s (4096 * p) / 4096

/-- The 256 bytes of sub-block i of page p copied to the spare page, poison with them. -/
def copyBlock (p spare : Nat) (s : State) (i : Nat) : State :=
  let src := physPage s p * 4096 + 256 * i
  let dst := spare * 4096 + 256 * i
  let t : State := { s with hbm := Memory.writeBytes s.hbm dst (Memory.bytes s.hbm src 256) }
  let from' := (upFrom 0 4).filter fun g => s.poison.contains (src / 64 + g)
  let kept := t.poison.filter fun g => decide (g < dst / 64) || decide (dst / 64 + 4 ≤ g)
  { t with poison := from'.map (fun g => dst / 64 + g) ++ kept }

/-- The sub-blocks whose dirty bit is set. -/
def dirtyBlocks (m : Migration) : List Nat := (upFrom 0 16).filter fun i => m.dirty.getLsbD i

/-- The migration of a page replaced. -/
def putMigration (s : State) (m : Migration) : State :=
  { s with migrations := s.migrations.map fun x => if x.source == m.source then m else x }

/-- The remap switched in one step, and the map entry freed. -/
def switchPage (s : State) (m : Migration) : State :=
  { s with
    remap := SMap.set m.source m.target s.remap
    migrations := s.migrations.filter fun x => x.source != m.source
    retiredPages := m.source :: s.retiredPages
    gzChanged := true }

/-- The next step of a migration: a sub-block of step 2, a pass of step 3 or 4, or the switch. -/
def migrate (s : State) (m : Migration) : State :=
  if m.next < 16 then putMigration (copyBlock m.source m.target s m.next) { m with next := m.next + 1 }
  else if m.dirty = 0 then switchPage s m
  else
    let t := (dirtyBlocks m).foldl (copyBlock m.source m.target) s
    if m.passes < 4 then putMigration t { m with dirty := 0, passes := m.passes + 1 } else switchPage t m

/-- A page's migration begun, or taken one step on. The spare stands in the same pseudo-channel, in the reserved range
(R57). -/
def retirePage (page spare : Nat) (s : State) : State :=
  match s.migrations.find? fun m => m.source == page with
  | some m => migrate s m
  | none =>
    if page < 2 ^ 29 ∧ 0x1fc00000 ≤ spare ∧ spare < 2 ^ 29 ∧ pseudoChannel (spare * 4096) = pseudoChannel (physPage s page * 4096) ∧
        (s.remap.all fun r => r.2 != spare) = true ∧ (s.migrations.all fun m => m.target != spare) = true then
      { s with migrations := s.migrations ++ [⟨page, spare, 0, 0, 0⟩] }
    else s

/-- R60: PAGE_RETIREMENT. -/
def execPageRetirement (page spare : Nat) (s : State) : Host.Outcome State Fault Refusal := event (retirePage page spare) s

/-! ## Zeroing of extent pages (R58, R61) -/

/-- A migration taken to its end. -/
def finishMigration (s : State) (m : Migration) : State :=
  switchPage ((upFrom 0 16).foldl (copyBlock m.source m.target) s) m

/-- Pages lo up to lo + n of HBM zeroed: their bytes, their poison and their dirty lines. -/
def zeroPages (lo n : Nat) (s : State) : State :=
  let inside (p : Nat) : Bool := decide (lo ≤ p) && decide (p < lo + n)
  let moved := s.remap.filter fun r => inside r.1
  let held (phys : Nat) : Bool := (inside phys && !s.remap.any fun r => r.1 == phys) || moved.any fun r => r.2 == phys
  { s with
    hbm := s.hbm.filter fun c => !held (c.1 / 4096)
    poison := s.poison.filter fun g => !held (g / 64)
    llc := s.llc.filter fun x => !inside (x.1 / 16) }

/-- An owner's memory service has pages below the reserved range zeroed; migrations of them complete first. -/
def zeroExtent (base len : Nat) (s : State) : State :=
  if base % 4096 = 0 ∧ len % 4096 = 0 ∧ base + len ≤ 0x1fc00000000 then
    let ms := s.migrations.filter fun m => decide (base / 4096 ≤ m.source) && decide (m.source < (base + len) / 4096)
    zeroPages (base / 4096) (len / 4096) (ms.foldl finishMigration s)
  else s

/-- R58: EXTENT_ZEROING_REQUEST. -/
def execExtentZeroingRequest (base len : Nat) (s : State) : Host.Outcome State Fault Refusal := event (zeroExtent base len) s

end Sys2Proof.Machine
end

