-- ==== Sys2Proof/Machine/Keccak.lean ====
section
/-! DEFINITION. SHAKE256 (FIPS 202) and KMAC256 (NIST SP 800-185), which capsules are identified and sealed with
(spec/08 R143 R148 R149), and the CRC-32 of link flits (spec/07 R139). -/

namespace Sys2Proof.Machine

/-- The 25 lanes of Keccak-f[1600]; keccakLane (x, y) stands at x + 5y. -/
abbrev Lanes := List Word

/-- Lane (x, y), indexes modulo 5. -/
def keccakLane (a : Lanes) (x y : Nat) : Word := a.getD (x % 5 + 5 * (y % 5)) 0

/-- The lanes given by a function of (x, y). -/
def mkLanes (f : Nat → Nat → Word) : Lanes := (upFrom 0 25).map fun i => f (i % 5) (i / 5)

/-- Rotation offsets of step rho, by keccakLane. -/
def rhoOffsets : List Nat := [0, 1, 62, 28, 27, 36, 44, 6, 55, 20, 3, 10, 43, 25, 39, 41, 45, 15, 21, 8, 18, 2, 61, 56, 14]

/-- Round constants of step iota. -/
def roundConstants : List Word :=
  [0x0000000000000001, 0x0000000000008082, 0x800000000000808a, 0x8000000080008000, 0x000000000000808b,
   0x0000000080000001, 0x8000000080008081, 0x8000000000008009, 0x000000000000008a, 0x0000000000000088,
   0x0000000080008009, 0x000000008000000a] ++
  [0x000000008000808b, 0x800000000000008b, 0x8000000000008089, 0x8000000000008003, 0x8000000000008002,
   0x8000000000000080, 0x000000000000800a, 0x800000008000000a, 0x8000000080008081, 0x8000000000008080,
   0x0000000080000001, 0x8000000080008008]

/-- One round of Keccak-f[1600]. -/
def keccakRound (a : Lanes) (rc : Word) : Lanes :=
  let c := (upFrom 0 5).map fun x => keccakLane a x 0 ^^^ keccakLane a x 1 ^^^ keccakLane a x 2 ^^^ keccakLane a x 3 ^^^ keccakLane a x 4
  let d := (upFrom 0 5).map fun x => c.getD ((x + 4) % 5) 0 ^^^ (c.getD ((x + 1) % 5) 0).rotateLeft 1
  let t := mkLanes fun x y => keccakLane a x y ^^^ d.getD x 0
  let b := mkLanes fun x y => (keccakLane t (x + 3 * y) x).rotateLeft (rhoOffsets.getD ((x + 3 * y) % 5 + 5 * x) 0)
  let e := mkLanes fun x y => keccakLane b x y ^^^ (~~~(keccakLane b (x + 1) y) &&& keccakLane b (x + 2) y)
  match e with
  | l :: ls => (l ^^^ rc) :: ls
  | [] => []

/-- Keccak-f[1600]. -/
def keccakF (a : Lanes) : Lanes := roundConstants.foldl keccakRound a

/-- A block of 136 bytes taken into the lanes. -/
def absorb (a : Lanes) (block : List Byte) : Lanes :=
  keccakF (mkLanes fun x y =>
    let i := x + 5 * y
    keccakLane a x y ^^^ (if i < 17 then BitVec.ofNat 64 (leValue ((block.drop (8 * i)).take 8)) else 0))

/-- A message cut in blocks of 136 bytes, the last padded with a suffix byte; fuel is the number of blocks. -/
def absorbAll (suffix : Byte) : Nat → Lanes → List Byte → Lanes
  | 0, a, _ => a
  | n + 1, a, m =>
    if m.length < 136 then
      let padded := m ++ [suffix] ++ List.replicate (135 - m.length) (0 : Byte)
      absorb a (padded.set 135 (padded.getD 135 0 ||| 0x80))
    else absorbAll suffix n (absorb a (m.take 136)) (m.drop 136)

/-- The first 32 bytes of the sponge of rate 136 over a message. -/
def sponge256 (suffix : Byte) (m : List Byte) : List Byte :=
  let a := absorbAll suffix (m.length / 136 + 1) (List.replicate 25 0) m
  (a.take 4).flatMap fun w => leBytes w.toNat 8

/-- SHAKE256 with a 256-bit output. -/
def shake256 (m : List Byte) : List Byte := sponge256 0x1f m

/-- The bytes of a number, most significant first, at least one; fuel bounds their count. -/
def beBytes : Nat → Nat → List Byte
  | 0, _ => []
  | n + 1, x => (if x < 256 then [] else beBytes n (x / 256)) ++ [BitVec.ofNat 8 x]

/-- left_encode and right_encode. -/
def leftEncode (x : Nat) : List Byte :=
  let b := beBytes 8 x
  BitVec.ofNat 8 b.length :: b
def rightEncode (x : Nat) : List Byte :=
  let b := beBytes 8 x
  b ++ [BitVec.ofNat 8 b.length]

/-- encode_string and bytepad with 136. -/
def encodeString (m : List Byte) : List Byte := leftEncode (8 * m.length) ++ m
def bytepad (m : List Byte) : List Byte :=
  let x := leftEncode 136 ++ m
  x ++ List.replicate ((136 - x.length % 136) % 136) (0 : Byte)

/-- KMAC256 of a message under a key, with a 256-bit output and a customization string. -/
def kmac256 (key msg custom : List Byte) : List Byte :=
  let name : List Byte := [0x4b, 0x4d, 0x41, 0x43]
  sponge256 0x04 (bytepad (encodeString name ++ encodeString custom) ++ bytepad (encodeString key) ++ msg ++ rightEncode 256)

/-- A 256-bit digest as a number. -/
def digestOf (bs : List Byte) : BitVec 256 := BitVec.ofNat 256 (leValue bs)

/-- The text "N1 capsule" and "N1 residue". -/
def sealText : List Byte := [0x4e, 0x31, 0x20, 0x63, 0x61, 0x70, 0x73, 0x75, 0x6c, 0x65]
def residueText : List Byte := [0x4e, 0x31, 0x20, 0x72, 0x65, 0x73, 0x69, 0x64, 0x75, 0x65]

/-- One bit of the reflected CRC-32 of IEEE 802.3. -/
def crcBit (c : BitVec 32) : BitVec 32 := if c.getLsbD 0 then (c >>> 1) ^^^ 0xedb88320 else c >>> 1
/-- CRC-32 over bytes. -/
def crc32 (bs : List Byte) : BitVec 32 :=
  ~~~(bs.foldl (fun c b => (upFrom 0 8).foldl (fun x _ => crcBit x) (c ^^^ b.zeroExtend 32)) (0xffffffff : BitVec 32))

end Sys2Proof.Machine
end

