-- ==== Sys2Proof/Machine/Links.lean ====
section
/-! DEFINITION. Link ports and gateway cores: flits, exchange ticks, fallback ordering, collective blocks, the
replay buffer, and a port that goes down (spec/07 R134 R135 R139 to R142; logs 9 and 75). -/

namespace Sys2Proof.Machine

/-! ## Flits (R139) -/

/-- Word i of a flit. -/
def flitWord (f : Flit) (i : Nat) : Word := f.getD i 0

/-- Header fields. -/
def flitSeq (f : Flit) : BitVec 32 := (flitWord f 0).extractLsb' 32 32
def flitFlow (f : Flit) : Nat := ((flitWord f 0).extractLsb' 16 16).toNat
def flitBlen (f : Flit) : Nat := ((flitWord f 0).extractLsb' 8 8).toNat
def flitCells (f : Flit) : Nat := ((flitWord f 0).extractLsb' 4 4).toNat
def flitType (f : Flit) : Nat := ((flitWord f 0).extractLsb' 0 4).toNat
def flitSmod (f : Flit) : Nat := ((flitWord f 1).extractLsb' 48 16).toNat
def flitDmod (f : Flit) : BitVec 16 := (flitWord f 1).extractLsb' 32 16
def flitTick (f : Flit) : BitVec 32 := (flitWord f 1).extractLsb' 0 32

/-- The flow of a flit among those of every module, and the flit among those of its flow. -/
def flitKey (f : Flit) : Nat := flitSmod f * 2 ^ 16 + flitFlow f
def flitNumber (f : Flit) : Nat := flitKey f * 2 ^ 32 + (flitSeq f).toNat

/-- The body bytes of a flit of block data: BLEN counts their words. -/
def flitBody (f : Flit) : List Byte := ((f.drop 2).take (min (flitBlen f) 29)).flatMap fun w => leBytes w.toNat 8

/-- The CRC of a flit's first 31 words. -/
def flitCrc (f : Flit) : BitVec 32 := crc32 ((upFrom 0 31).flatMap fun i => leBytes (flitWord f i).toNat 8)

/-- Is the CRC over bytes 0 to 247 the one in the trailer, and FTYPE no reserved one? -/
def flitGood (f : Flit) : Bool :=
  flitCrc f == (flitWord f 31).extractLsb' 0 32 && decide (flitType f ≤ 4)

/-- The gateway cores of a port (R134). -/
def portCores (k : Nat) : List Nat := upFrom (Config.nChannelEnd + 16 * k) 16

def portAt (s : State) (k : Nat) : Port := SMap.getD s.ports k Port.reset
def putPort (s : State) (k : Nat) (p : Port) : State := { s with ports := SMap.set k p s.ports }

/-- The gateway core that a flit's FLOW names within its port. -/
def flitDest (k : Nat) (f : Flit) : Nat := Config.nChannelEnd + 16 * k + flitFlow f % 16

/-- gwst of a port: its gateway cores agree. -/
def portTick (s : State) (k : Nat) : BitVec 32 := (hartOf s (Config.nChannelEnd + 16 * k)).xtick
def portAligned (s : State) (k : Nat) : Bool := (hartOf s (Config.nChannelEnd + 16 * k)).aligned

/-- Every gateway core of a port changed. -/
def modPortCores (s : State) (k : Nat) (f : Hart → Hart) : State :=
  (portCores k).foldl (fun t h => putHart t h (f (hartOf t h))) s

/-! ## Delivery -/

/-- The launch of the context that a flit reaches on a gateway core. The spec does not state which capsule the sender's is
there (log 9). -/
def flitLaunch (s : State) (h : Nat) (f : Flit) : Option Nat :=
  let ctxs := (hartOf s h).ctxs
  (ctxs[Config.flitContext f % ctxs.length]?).map (·.launch)

/-- A message cell: a header word and its payload, as a ring entry lays it out (R49, R107). -/
def cellMessage (f : Flit) (j : Nat) : Word × List Word :=
  let header := flitWord f (2 + 8 * j)
  (header, (upFrom 0 (min (header.extractLsb' 52 4).toNat 7)).map fun i => flitWord f (3 + 8 * j + i))

/-- The message cells of a flit on their way to its gateway core. -/
def deliverCells (s : State) (k : Nat) (f : Flit) : State :=
  let h := flitDest k f
  match flitLaunch s h f with
  | none => s
  | some L =>
    (upFrom 0 (min (flitCells f) 3)).foldl (fun t j =>
      let m := cellMessage f j
      post t { hart := placer, launch := L, slot := 0, act := 0 } (.msg h m.1 m.2)) s

/-- The port of a gateway core. -/
def portOfCore (h : Nat) : Nat := (h - Config.nChannelEnd) / 16

/-- Where a contribution is put in its gateway core's scratchpad, a multiple of 8 (log 9). -/
def placeOf (f : Flit) : Nat := Config.flitPlace f % ((Config.ctxBytes - 232) / 8) * 8

/-- The last 64 numbers of each flow among flit numbers, newest first (R111). -/
def lastOfFlow (ns : List Nat) : List Nat :=
  ns.foldl (fun kept n => if 64 ≤ (kept.filter fun m => m / 2 ^ 32 == n / 2 ^ 32).length then kept else kept ++ [n]) []

/-- The entry of a launch's collective handler: one of those that its handler table holds, by a free choice (log 9). -/
def collectiveChan (s : State) (L n : Nat) : Nat :=
  let chans := ((((launchOf s L).map (·.handlers)).getD []).map (·.1)).filter fun c => c < 63
  chans.getD (n % chans.length) 0

/-- A block whose contributors are all present delivered to its gateway core: the contributions, in ascending order of rank, and
the tagged data that starts the core's collective handler, which folds them. Where the contributions stand, which entry is that
handler and what else the tagged data carries is not stated (log 9); it is well formed, with WAKE set (R108). -/
def startCollective (s : State) (c : Collective) : State :=
  let t := c.parts.foldl (fun t p => homeWrite t c.launch c.hart (placeOf p.2) (flitBody p.2)) s
  let x := ctxOf t c.hart c.launch
  let u := putCtx t c.hart { x with folded := lastOfFlow ((c.parts.map fun p => flitNumber p.2).reverse ++ x.folded) }
  let f := u.fresh
  let chan := collectiveChan u c.launch (Config.freeChoice f)
  let header := mkHeader (BitVec.ofNat 6 chan) 0 1 0 ((Config.freeWord (f + 1)).extractLsb' 0 48)
  let desc : Word := BitVec.ofNat 64 (2 ^ 18 + Config.freeChoice (f + 2) % (Config.ctxBytes / 8) * 8)
  post { u with fresh := f + 3 } { hart := placer, launch := c.launch, slot := 0, act := 0 } (.msg c.hart header [desc])

/-- Has the block-assignment queue of port k room for another descriptor (R134)? -/
def blockRoom (s : State) (k : Nat) : Bool := decide ((s.collectives.filter fun c => portOfCore c.hart == k).length < 256)

/-- A contribution to a collective block: the first one opens the block with its descriptor's count and timeout, and is held on
the link while the queue is full (R134); the last one completes it; one that has been folded already is dropped (R135). Where
the block's number, rank, count and timeout stand in a flit is not stated (log 9). -/
def contribute (s : State) (k : Nat) (f : Flit) : State :=
  let b := Config.flitBlock f
  let h := Config.nChannelEnd + 16 * k + b % 16
  match flitLaunch s h f with
  | none => s
  | some L =>
    let mine (c : Collective) : Bool := c.hart == h && c.launch == L && c.block == b
    let open' := s.collectives.find? mine
    if (ctxOf s h L).folded.contains (flitNumber f) then s
    else if open'.isNone && !blockRoom s k then putPort s k { portAt s k with stalled := (portAt s k).stalled ++ [f] }
    else
      let fresh : Collective :=
        { hart := h, launch := L, block := b, count := 1 + Config.flitCount f % 64, parts := []
          deadline := portTick s k + BitVec.ofNat 32 (1 + Config.flitTimeout f % 4095) }
      let c := open'.getD fresh
      let c1 : Collective := { c with parts := SMap.set (Config.flitRank f) f c.parts }
      let rest := s.collectives.filter fun x => !mine x
      if c1.count ≤ c1.parts.length then startCollective { s with collectives := rest } c1
      else { s with collectives := rest ++ [c1] }

/-- What port k holds on the link taken while its queue has room (R134); the fuel is the count of flits held there. -/
def resumeBlocks (k : Nat) : Nat → State → State
  | 0, s => s
  | n + 1, s =>
    let p := portAt s k
    match p.stalled with
    | f :: fs => if blockRoom s k then resumeBlocks k n (contribute (putPort s k { p with stalled := fs }) k f) else s
    | [] => s

/-- The blocks held on the link taken where they can be. -/
def afterBlock (k : Nat) (s : State) : State := resumeBlocks k (portAt s k).stalled.length s

/-- The expected number of a flow moved over the flits that have been delivered beyond it; the fuel is the count of those. -/
def Port.advance (key : Nat) : Nat → Port → Port
  | 0, p => p
  | n + 1, p =>
    let e := SMap.getD p.expect key 0
    let x := key * 2 ^ 32 + e.toNat
    if p.beyond.contains x then
      Port.advance key n { p with expect := SMap.set key (e + 1) p.expect, beyond := p.beyond.filter (· != x) }
    else p

/-- A port that has delivered a flit: the flow's expected number is the first of one that has not been delivered. -/
def Port.noteFlit (p : Port) (f : Flit) : Port :=
  Port.advance (flitKey f) (p.beyond.length + 1) { p with beyond := flitNumber f :: p.beyond }

/-- A flit delivered. One for another module ends here: what becomes of it is not stated (log 75). -/
def deliverFlit (k : Nat) (s : State) (f : Flit) : State :=
  let t := putPort s k ((portAt s k).noteFlit f)
  if flitDmod f ≠ s.moduleId then t
  else if flitType f = 1 then deliverCells t k f
  else if flitType f = 2 then afterBlock k (contribute t k f)
  else t

/-! ## Order (R140) -/

/-- The order of release: SMOD, then FLOW, then FSEQ, serially from the flow's expected number. -/
def flitBefore (p : Port) (f g : Flit) : Bool :=
  let seq (x : Flit) : Nat := (flitSeq x - SMap.getD p.expect (flitKey x) 0).toNat
  decide (flitKey f < flitKey g) || (flitKey f == flitKey g && decide (seq f < seq g))

/-- A flit inserted in the order of release. -/
def insertFlit (p : Port) (f : Flit) : List Flit → List Flit
  | [] => [f]
  | g :: gs => if flitBefore p f g then f :: g :: gs else g :: insertFlit p f gs

/-- Flits in the order of release. -/
def sortFlits (p : Port) (fs : List Flit) : List Flit := fs.foldr (insertFlit p) []

/-- The delay of D ticks and the length of a tick, which the survey firmware sets within their bounds (log 9). -/
def tickDelay : Nat := 1 + Config.tickDelay % 15
def tickLength : Nat := 1024 + Config.tickLength % 64513

/-- How many ticks the boundary that a flit is held for lies ahead of tick x, modulo 2^32. -/
def ahead (x : BitVec 32) (f : Flit) : BitVec 32 := flitTick f + BitVec.ofNat 32 tickDelay - x

/-- Is a flit in sequence in its flow? -/
def flitNext (p : Port) (f : Flit) : Bool := flitSeq f == SMap.getD p.expect (flitKey f) 0

/-- Flits of fallback ordering delivered while one is in sequence; the fuel is the count of flits held. -/
def drainFallback (k : Nat) : Nat → State → State
  | 0, s => s
  | n + 1, s =>
    let p := portAt s k
    match p.held.find? (flitNext p) with
    | some f => drainFallback k n (deliverFlit k (putPort s k { p with held := p.held.filter fun g => g != f }) f)
    | none => s

/-- The launches that hold a context on a gateway core of the port. -/
def portLaunches (s : State) (k : Nat) : List Nat := ((portCores k).flatMap fun h => (hartOf s h).ctxs.map (·.launch)).eraseDups

/-- A port goes over to the order of each flow: what it holds is delivered in sequence per flow, and the firmware moves the plats
that use it to REGIME 1 at their next ply boundary. -/
def fallBack (s : State) (k : Nat) : State :=
  let t := modPortCores s k fun H => { H with aligned := false, fallback := true }
  let p := portAt t k
  let u := (sortFlits p p.held).foldl (deliverFlit k) (putPort t k { p with held := [] })
  (portLaunches u k).foldl (fun v L => modLaunch v L fun l => { l with regimeNext := some true }) u

/-- A flit held by a port. -/
def holdFlit (s : State) (k : Nat) (f : Flit) : State :=
  let p := portAt s k
  putPort s k { p with held := p.held ++ [f] }

/-- Has a flit of its number been delivered already, in serial-number arithmetic (R139)? -/
def flitOld (p : Port) (f : Flit) : Bool :=
  decide (2 ^ 31 ≤ (flitSeq f - SMap.getD p.expect (flitKey f) 0).toNat) || p.beyond.contains (flitNumber f)

/-- A good flit of messages or block data: late, so that the port loses alignment; else held for its tick, or for its sequence. One
that arrives in the cycle of its boundary goes with its tick (R142); one whose number has been delivered is not delivered again. -/
def acceptFlit (s : State) (k : Nat) (f : Flit) : State :=
  let p := portAt s k
  let kept := if flitOld p f then s else holdFlit s k f
  if portAligned s k then
    let a := ahead (portTick s k) f
    if (a = 0 ∧ s.cycle ≠ p.tickAt) ∨ 2 ^ 31 ≤ a.toNat then fallBack kept k else kept
  else drainFallback k (p.held.length + 1) kept

/-! ## Sending (R139, R191; log 75) -/

/-- A flit from its header's fields, its FSEQ and its body, with its CRC. -/
def mkFlit (s : State) (k flow ftype cells blen dmod : Nat) (seq : BitVec 32) (body : List Word) : Flit :=
  let w0 := BitVec.ofNat 64 (seq.toNat * 2 ^ 32 + flow % 2 ^ 16 * 2 ^ 16 + blen % 2 ^ 8 * 2 ^ 8 + cells % 2 ^ 4 * 2 ^ 4 + ftype % 2 ^ 4)
  let w1 := BitVec.ofNat 64 (s.moduleId.toNat * 2 ^ 48 + dmod % 2 ^ 16 * 2 ^ 32 + (portTick s k).toNat)
  let front := [w0, w1] ++ (body ++ List.replicate 29 0).take 29
  front ++ [(flitCrc front).zeroExtend 64]

/-- A flit that the port sends, among those of its flows to other modules. -/
def sentNumber (f : Flit) : Nat := ((flitDmod f).toNat * 2 ^ 16 + flitFlow f) * 2 ^ 32 + (flitSeq f).toNat

/-- A flit put on the link, and into the replay buffer of 128 flits; what leaves the buffer can be requested no more. -/
def putOnLink (s : State) (k : Nat) (f : Flit) : State :=
  let p := portAt s k
  let kept := (f :: p.replay).take 128
  putPort s k
    { p with
      replay := kept
      wire := p.wire ++ [f]
      resent := p.resent.filter fun x => kept.any fun g => sentNumber g == x.1 && x.1 != sentNumber f }

/-- A flit of messages or block data sent by a gateway core's hardware under the next FSEQ of its flow. A port that is down sends
nothing. -/
def transmit (k flow ftype cells blen dmod : Nat) (body : List Word) (s : State) : State :=
  let p := portAt s k
  if 32 ≤ k ∨ p.down = true ∨ 2 ^ 13 ≤ flow ∨ 3 < cells ∨ 29 < blen ∨ ¬(ftype = 1 ∨ ftype = 2) then s
  else
    let key := dmod % 2 ^ 16 * 2 ^ 16 + flow
    let seq := SMap.getD p.fseq key 0
    putOnLink (putPort s k { p with fseq := SMap.set key (seq + 1) p.fseq }) k (mkFlit s k flow ftype cells blen dmod seq body)

/-- The retransmission of a flit requested from its sender: FTYPE 4 with the flit's FLOW and FSEQ. What names the flit in a
request is not stated: DESIGN CHOICE (log 75). -/
def requestFlit (s : State) (k : Nat) (f : Flit) : State :=
  let p := portAt s k
  putPort s k { p with wire := p.wire ++ [mkFlit s k (flitFlow f) 4 0 0 (flitSmod f) (flitSeq f) []] }

/-- A requested flit sent again, if the replay buffer still holds it. A further request for it says that its last transmission has
failed (R141). -/
def resendFlit (s : State) (k : Nat) (f : Flit) : State :=
  let p := portAt s k
  match p.replay.find? fun g => flitFlow g == flitFlow f && flitSeq g == flitSeq f && (flitDmod g).toNat == flitSmod f with
  | some g => putPort s k { p with wire := p.wire ++ [g], resent := SMap.modify p.resent (sentNumber g) 0 (· + 1) }
  | none => s

/-- A received flit: a bad one is dropped and counted, and its retransmission is requested. -/
def receiveFlit (k : Nat) (f : Flit) (s : State) : State :=
  let p := portAt s k
  if 32 ≤ k ∨ p.down = true then s
  else if !flitGood f then
    requestFlit (putPort { s with gzChanged := true } k
      { p with dropped := p.dropped + 1, retrans := p.retrans + 1, failures := SMap.modify p.failures (flitNumber f) 0 (· + 1) }) k f
  else
    let t := putPort s k { p with failures := p.failures.filter fun x => x.1 != flitNumber f }
    if flitType f = 1 ∨ flitType f = 2 then acceptFlit t k f
    else if flitType f = 4 then resendFlit t k f
    else t

/-- R139: LINK_FLIT_ARRIVAL. -/
def execLinkFlitArrival (port : Nat) (flit : List (BitVec 64)) (s : State) : Host.Outcome State Fault Refusal :=
  event (receiveFlit port flit) s

/-- The flits that an aligned port holds for the tick that has begun released in order. -/
def releaseTick (k : Nat) (s : State) : State :=
  let p := portAt s k
  if portAligned s k then
    let now := portTick s k
    let due := sortFlits p (p.held.filter fun f => ahead now f == 0)
    due.foldl (deliverFlit k) (putPort s k { p with held := p.held.filter fun f => ahead now f != 0 })
  else s

/-- An exchange tick boundary: what the last one released is released, and XTICK advances. The flits held for the new tick are released
when its cycle is over, since one that arrives in it goes with them (R142). -/
def tickPort (k : Nat) (s : State) : State :=
  if k < 32 ∧ (portAt s k).tickAt + tickLength ≤ s.cycle then
    let t := modPortCores (releaseTick k s) k fun H => { H with xtick := H.xtick + 1 }
    putPort t k { portAt t k with tickAt := s.cycle }
  else s

/-- Every port once a turn is over: the flits of a tick whose cycle is over are released, and blocks that are held on the link are
taken where there is room for them again (R134). -/
def settlePorts (s : State) : State :=
  s.ports.foldl (fun t x => afterBlock x.1 (if (portAt t x.1).tickAt < t.cycle then releaseTick x.1 t else t)) s

/-- R140: EXCHANGE_TICK. -/
def execExchangeTick (port : Nat) (s : State) : Host.Outcome State Fault Refusal := event (tickPort port) s

/-- Does every plat that uses a port stand at a ply boundary: no core has reached the next barrier or stamped anything in the
open ply? -/
def atBoundary (s : State) (k : Nat) : Bool :=
  (portLaunches s k).all fun L => s.harts.all fun x =>
    !x.2.hasCtx L || (!(x.2.ctx L).arrived && (x.2.ctx L).sseq == 0)

/-- Alignment of port k restored, at a ply boundary of every plat that uses it. -/
def restoreAlignment (k : Nat) (s : State) : State :=
  if decide (k < 32) && !portAligned s k && atBoundary s k then
    modPortCores s k fun H => { H with aligned := true, fallback := false }
  else s

/-- R140: ALIGNMENT_RESTORE. -/
def execAlignmentRestore (port : Nat) (s : State) : Host.Outcome State Fault Refusal := event (restoreAlignment port) s

/-! ## Collectives and a port that is down (R135, R141) -/

/-- The job counter of a launch records COLLECTIVE_INCOMPLETE. -/
def noteIncomplete (s : State) (L : Nat) : State :=
  match launchOf s L with
  | some l => modCounter s l.cap.jobc fun k => { k with last := codeCollective }
  | none => s

/-- A collective block given up: its partial sum is gone, its destination unchanged, and the job counter records it. -/
def failCollective (s : State) (c : Collective) : State :=
  noteIncomplete { s with collectives := s.collectives.filter fun x => x != c } c.launch

/-- The block of a flit that is held on the link of port k given up. -/
def failStalled (k : Nat) (s : State) (f : Flit) : State :=
  match flitLaunch s (Config.nChannelEnd + 16 * k + Config.flitBlock f % 16) f with
  | some L => noteIncomplete s L
  | none => s

/-- Has a collective's timeout expired? A contribution that arrives as it expires is taken first (R142), so not before the cycle of
that exchange tick is over. -/
def collectiveOver (s : State) (c : Collective) : Bool :=
  let k := portOfCore c.hart
  let late := portTick s k - c.deadline
  decide (late.toNat < 2 ^ 31) && (late != 0 || decide ((portAt s k).tickAt < s.cycle))

/-- R135: COLLECTIVE_TIMEOUT. -/
def execCollectiveTimeout (k : Nat) (s : State) : Host.Outcome State Fault Refusal :=
  event (fun s =>
    match s.collectives[k]? with
    | some c => if collectiveOver s c then afterBlock (portOfCore c.hart) (failCollective s c) else s
    | none => s) s

/-- Is an operation a send to a gateway core of port k? -/
def throughPort (k : Nat) (it : NetItem) : Bool :=
  match it.op with
  | .msg dest _ _ => (portCores k).contains dest
  | _ => false

/-- A pending send refused with LINK_TIMEOUT; its DETAIL is not stated (log 4). -/
def timeoutSend (s : State) (it : NetItem) : State := refusalFree s it codeLinkTimeout

/-- Is an operation answered already: accepted, or refused for good? -/
def answered (s : State) (it : NetItem) : Bool :=
  s.net.any fun x => x.src.hart == it.src.hart && (match x.op with
    | .accept id => id == it.id
    | .nack id reason _ => id == it.id && reason == 15
    | _ => false)

/-- Is it the nack of one of these sends? -/
def nackOf (sends : List NetItem) (x : NetItem) : Bool :=
  match x.op with
  | .nack id _ _ => sends.any fun it => it.src.hart == x.src.hart && it.id == id
  | _ => false

/-- The sends through port k that are pending: the copies that wait for an answer or a resend, and what is in flight without a
copy. -/
def pendingSends (s : State) (k : Nat) : List NetItem :=
  let kept := (allCopies s).map fun x => x.2.item
  (kept.filter fun it => throughPort k it && !answered s it) ++
    s.net.filter fun it => throughPort k it && !kept.any fun c => c.src.hart == it.src.hart && c.id == it.id

/-- Every pending send through port k refused, wherever it or a nack of it is. -/
def refusePending (s : State) (k : Nat) : State :=
  let sends := pendingSends s k
  sends.foldl timeoutSend { s with net := s.net.filter fun i => !throughPort k i && !nackOf sends i }

/-- Port k taken down after 16 failed retransmissions of one flit that it receives or sends: its collective blocks fail, those held on the link with
them. -/
def takeDown (k : Nat) (s : State) : State :=
  let p := portAt s k
  if k < 32 ∧ p.down = false ∧ ((p.failures ++ p.resent).any fun x => decide (17 ≤ x.2)) = true then
    let t := refusePending (putPort { s with gzChanged := true } k { p with down := true, stalled := [] }) k
    p.stalled.foldl (failStalled k) ((t.collectives.filter fun c => portOfCore c.hart == k).foldl failCollective t)
  else s

/-- R141: LINK_DOWN. -/
def execLinkDown (port : Nat) (s : State) : Host.Outcome State Fault Refusal := event (takeDown port) s

end Sys2Proof.Machine
end

