-- ==== Sys2Proof/Machine/Mxe.lean ====
section
/-! DEFINITION. The matrix engine: the words that submit its jobs, and its steps, drains and reclaims (spec/11 R196,
spec/17 R286 to R297). -/

namespace Sys2Proof.Machine

/-! ## Submission (R286 to R297) -/

/-- The number of a block's first register is in range for n registers (R286; the decoder has checked it). -/
def descOf (s : State) (op : Nat) (acc : Fin 8) (fa fb : Nat) (opts : Word) : Word :=
  BitVec.ofNat 64 (issuerBits (curHart s) (curNum s) + op * 2 ^ 46 + acc * 2 ^ 43 + fa * 2 ^ 39 + fb * 2 ^ 35) |||
    (opts &&& (0x7ff000000 : Word))

/-- mxq.step and mxq.steps (R292, R295). -/
def stepSubmit (sparse : Bool) (d : ADst) (first : BitVec 5) (x : ARegZ) (acc : Fin 8) : Op Unit := do
  needEngine
  let s ← get
  let w ← prefixA
  let fa := (w.map pfxFaA).getD 0
  let fb := (w.map pfxFbA).getD 0
  let scl := (w.map pfxSclA).getD 0
  let ws ← readBlock first.toNat 4
  let opts ← readAReg x
  checkNow (checkFormats s (curLaunch s) (curHart s) fa fb scl)
  checkNow (checkOptions opts sparse false (!intMode fa))
  checkNow (checkStep s (curHart s) fa fb scl ws)
  let sm := (opts.extractLsb' 0 2).toNat
  stopIf (sparse && (← getSlot).smBusy.contains (Fin.ofNat 4 sm)) (waitFor .stream)
  submit .mxe (Job.make (descOf s ((if sparse then 4 else 0) + scl) acc fa fb opts) ws 11 sm (.slot (curIssuer s)) (curHart s)) d

/-- mxq.drain (R296). -/
def drainSubmit (d : ADst) (first : BitVec 5) (x : ARegZ) (acc : Fin 8) : Op Unit := do
  needEngine
  let s ← get
  let fd := (← prefixA).map pfxFdA
  let p ← readNum first.toNat
  let opts ← readAReg x
  checkNow (checkOptions opts false true false)
  checkNow (checkDrain s (curHart s) (opts.getLsbD 24) p)
  submit .mxe (Job.make (descOf s 8 acc (fd.getD 11) 0 opts) [p] ((fd.map drainFormat).getD 11) 0 (.slot (curIssuer s)) (curHart s)) d

/-- mxq.reclaim (R297). -/
def reclaimSubmit (acc : Fin 8) : Op Unit := do
  needEngine
  let s ← get
  submit .mxe (Job.make (descOf s 9 acc 0 0 0) [] 0 0 (.slot (curIssuer s)) (curHart s)) .z

/-- R292: mxq.step. -/
def execMxqStep (d : ADst) (first : BitVec 5) (x : ARegZ) (acc : Fin 8) (s : State) : Host.Outcome State Fault Refusal :=
  wordA false .governable (do stepSubmit false d first x acc; return .next) s
/-- R292, R295: mxq.steps. -/
def execMxqSteps (d : ADst) (first : BitVec 5) (x : ARegZ) (acc : Fin 8) (s : State) : Host.Outcome State Fault Refusal :=
  wordA false .governable (do stepSubmit true d first x acc; return .next) s
/-- R296: mxq.drain. -/
def execMxqDrain (d : ADst) (first : BitVec 5) (x : ARegZ) (acc : Fin 8) (s : State) : Host.Outcome State Fault Refusal :=
  wordA false .governable (do drainSubmit d first x acc; return .next) s
/-- R297: mxq.reclaim. -/
def execMxqReclaim (acc : Fin 8) (s : State) : Host.Outcome State Fault Refusal := plainA (reclaimSubmit acc) s

/-- R290: fmt.set of the A-side makes its prefix pending. -/
def execFmtSetA (fd fa fb : BitVec 4) (scl : BitVec 2) (s : State) : Host.Outcome State Fault Refusal :=
  wordA false .isPrefix (do
    let w : BitVec 32 := BitVec.ofNat 32 (0x20 * 2 ^ 25 + fd.toNat * 2 ^ 20 + fa.toNat * 2 ^ 15 + fb.toNat * 2 ^ 10 + scl.toNat * 2 ^ 5)
    modSlot fun σ => { σ with aPrefix := some w }
    return .next) s

/-- R290: fmt.set of the E-side makes its prefix pending. -/
def execFmtSetX (fd fa fb : BitVec 4) (scl : BitVec 2) (s : State) : Host.Outcome State Fault Refusal :=
  wordE .isPrefix (modSlot fun σ =>
    { σ with ePrefix := some (BitVec.ofNat 32 (0x10 * 2 ^ 26 + fd.toNat * 2 ^ 21 + fa.toNat * 2 ^ 16 + fb.toNat * 2 ^ 11 + scl.toNat * 2 ^ 6)) }) s

/-! ## Accumulator slots (R35) -/

/-- Does the issuer of a job own an accumulator slot? -/
def owns (a : Acc) (j : Job) : Bool :=
  match j.rep with
  | .slot src => !a.port && a.ocore == posInCluster src.hart && a.oslot == src.slot
  | .remote _ _ _ => a.port

/-- The slot taken by a job's issuer: orphaned at once where the issuer's activation has ended (R303). -/
def takeAcc (s : State) (a : Acc) (j : Job) (mode : Nat) : Acc :=
  match j.rep with
  | .slot src =>
    let b := { a with ocore := posInCluster src.hart, oslot := src.slot, oact := src.act, port := false }
    { b with state := if runs s src then mode else 3 }
  | .remote _ _ _ => { a with ocore := 0, oslot := 0, oact := 0, port := true, state := mode }

/-- The cell values of a slot, which are zero where none is listed. -/
def Acc.cell (a : Acc) (i : Nat) : BitVec 32 := SMap.getD a.cells i 0

/-- Cells listed where they are not zero. -/
def cellMap (xs : List (Nat × Nat)) : SMap (BitVec 32) :=
  xs.filterMap fun x => if x.2 = 0 then none else some (x.1, BitVec.ofNat 32 x.2)

/-! ## The operands of a step (R289, R295) -/

/-- Elements of a row: n patterns of a format code. -/
def patterns (c n : Nat) (bs : List Byte) : List Nat :=
  let v := leValue bs
  (upFrom 0 n).map fun k => v / 2 ^ (codeBits c * k) % 2 ^ codeBits c

/-- A step's operands: rows of A and of B, the scales of its rows and columns, the positions along K that are present,
and the decode table. -/
structure StepData where
  a : List (List Nat)
  b : List (List Nat)
  sa : List Nat
  sb : List Nat
  present : List Nat
  table : SMap (BitVec 32)

/-- The skip list read through a stream register: the present granules, and the register advanced; or the fault (R295). The
DETAIL of an empty register is not stated, nor what a register of wider elements raises (log 4, log 22). -/
def readRuns (s : State) (L own : Nat) : Nat → Nat → Word → Except (BitVec 16 × BitVec 12) (List Bool × Word)
  | _, 0, r => .ok ([], r)
  | 0, _, _ => .error (codeQueueMisuse, 0x042)
  | fuel + 1, left, r =>
    let addr := (r.extractLsb' 0 18).toNat
    if r.extractLsb' 48 16 = 0 ∨ r.extractLsb' 46 2 ≠ 0 then .error (codeQueueMisuse, Config.freeDetail s.fresh)
    else if Config.scratchBytes < addr + 1 then .error (codeBounds, 0x0b0)
    else
      let e := leValue ((ctxOf s own L).read own addr 1)
      let len := e % 128 + 1
      if left < len then .error (codeQueueMisuse, 0x042)
      else
        let next : Word := (r.extractLsb' 48 16 - 1) ++ r.extractLsb' 18 30 ++ (r.extractLsb' 0 18 + r.extractLsb' 18 18)
        match readRuns s L own fuel (left - len) next with
        | .ok (gs, r') => .ok (List.replicate len (decide (e < 128)) ++ gs, r')
        | .error f => .error f

/-- The positions along K that a list of granules makes present. -/
def presentOf (gs : List Bool) : List Nat :=
  (upFrom 0 (8 * gs.length)).filter fun k => gs.getD (k / 8) false

/-- The stream register of a job's slot, and the slot without the register held: released slots hold zero. -/
def streamOf (s : State) (j : Job) : Word :=
  match j.rep with
  | .slot src => if runs s src then (slotOf s src.hart src.slot).sm[Fin.ofNat 4 j.sm] else 0
  | .remote _ _ _ => 0

/-- One hold of a stream register given up. -/
def dropHold (n : Fin 4) : List (Fin 4) → List (Fin 4)
  | [] => []
  | x :: xs => if x = n then xs else x :: dropHold n xs

/-- The walk of a stream register ended, at a value where it succeeded. -/
def endWalk (s : State) (j : Job) (r : Option Word) : State :=
  match j.rep with
  | .slot src =>
    if runs s src && decide (4 ≤ j.op) && decide (j.op ≤ 7) then
      let σ := slotOf s src.hart src.slot
      let n := Fin.ofNat 4 j.sm
      putSlot s src.hart src.slot { σ with smBusy := dropHold n σ.smBusy, sm := match r with
        | some w => σ.sm.set n w
        | none => σ.sm }
    else s
  | .remote _ _ _ => s

/-- The starts of the 32 rows of A: gathered, or one after another. -/
def rowsA (s : State) (L : Nat) (j : Job) : List Nat :=
  let p := j.word 0
  if gatherOf (j.word 3) then
    let x := j.word 1
    let bs := (ctxOf s (j.home x) L).readAll (j.home x) (offOf x) 64
    (patterns 8 32 bs).map fun i => offOf p + 16 * i
  else (upFrom 0 32).map fun i => offOf p + i * rowA j.fmtA

/-- The operands of a step gathered, every U copy of their lines recalled first; or the fault of a gathered row beyond the
scratchpad. -/
def gatherStep (s0 : State) (j : Job) (present : List Nat) : Except (BitVec 16 × BitVec 12) (StepData × State) :=
  let L := jobLaunch s0 j
  let w3 := j.word 3
  let ha := j.home (j.word 0)
  let hb := j.home (j.word 2)
  let K := stepK j.fmtA
  let ra := rowA j.fmtA
  let rb := rowB j.fmtB
  let st := strideOf w3 j.fmtB
  let s := if gatherOf w3 then recallRange s0 L (j.home (j.word 1)) (offOf (j.word 1)) 64 else s0
  let rows := rowsA s L j
  if rows.any fun o => decide (Config.scratchBytes < o + ra) then .error (codeBounds, 0x0b8)
  else
    let t := rows.foldl (fun t o => recallRange t L ha o ra) s
    let u := recallRange t L hb (offOf (j.word 2)) ((K - 1) * st + rb)
    let v := recallRange (recallRange u L j.own (asclOf w3).toNat 64) L j.own (bsclOf w3).toNat 64
    let ca := ctxOf v ha L
    let cb := ctxOf v hb L
    let co := ctxOf v j.own L
    .ok ({ a := rows.map fun o => patterns j.fmtA K (ca.readAll ha o ra)
           b := (upFrom 0 K).map fun k => patterns j.fmtB 32 (cb.readAll hb (offOf (j.word 2) + k * st) rb)
           sa := patterns 8 32 (co.readAll j.own (asclOf w3).toNat 64)
           sb := patterns 8 32 (co.readAll j.own (bsclOf w3).toNat 64)
           present := present, table := tableAtCore v L j.own }, v)

/-! ## Integer steps (R196, R293) -/

/-- The exact sum of a cell's products. -/
def StepData.sum (g : StepData) (fa fb : Nat) (cell : Nat) : Int :=
  let row := g.a.getD (cell / 32) []
  (g.present.map fun k => intElem fa (row.getD k 0) * intElem fb ((g.b.getD k []).getD (cell % 32) 0)).foldl (· + ·) 0

/-- A cell's 24-bit value plus a sum: the new value and the change of its count. -/
def wrapCell (acc : BitVec 32) (s : Int) : Nat × Int :=
  let t := signedOf 24 acc.toNat + s
  if 2 ^ 23 - 1 < t then (patOf 24 (t - 2 ^ 24), 1)
  else if t < -2 ^ 23 then (patOf 24 (t + 2 ^ 24), -1)
  else (patOf 24 t, 0)

/-- The count of a cell's carry entry, if it has one. -/
def Cluster.countOf (C : Cluster) (a cell : Nat) : Option Int :=
  (C.carries.find? fun x => x.slot == a && x.cell == cell).map (·.count)

/-- How an integer step commits: it writes, it stalls for a drain, or it fails with a DETAIL of CARRY_FULL. -/
inductive Commit where
  | done (C : Cluster)
  | stall
  | full (d : BitVec 12)

/-- Is a drain of another slot with carry entries queued, or on its way (R293)? -/
def drainQueued (C : Cluster) (a : Fin 8) : Bool :=
  C.jobs.any fun k => k.done.isNone && k.op == 8 && k.acc != a && decide (0 < C.carriesOf k.acc)

/-- The commit of an integer step whose cells' sums are given (R293). -/
def commitInt (C : Cluster) (j : Job) (sums : List Int) : Commit :=
  let a := j.acc
  let A := C.accs[a]
  let news := (upFrom 0 1024).map fun i => (i, wrapCell (A.cell i) (sums.getD i 0))
  let moved := news.filter fun x => x.2.2 != 0
  let count (i : Nat) : Int := (C.countOf a i).getD 0
  if moved.any fun x => decide (count x.1 + x.2.2 < -128) || decide (127 < count x.1 + x.2.2) then .full 0x002
  else
    let fresh := moved.filter fun x => (C.countOf a x.1).isNone
    let n := fresh.length
    let lim := if j.cblim = 0 then 256 else j.cblim
    let own := C.carriesOf a
    if own + n ≤ lim ∧ C.cbused + n ≤ 256 then
      let bump (x : Carry) : Carry :=
        if x.slot = a.val then
          { x with count := x.count + ((moved.find? fun y => y.1 == x.cell).map (·.2.2)).getD 0 }
        else x
      .done { C with
        carries := C.carries.map bump ++ fresh.map fun x => ⟨a, x.1, x.2.2⟩
        accs := C.accs.set a { A with cells := cellMap (news.map fun x => (x.1, x.2.1)) } }
    else if j.trapnow then .full 0x001
    else if own + n ≤ lim && drainQueued C a then .stall
    else .full 0x000

/-! ## Float steps (R294) -/

/-- Is a value finite? -/
def FV.isFin : FV → Bool
  | .fin _ _ _ => true
  | _ => false

/-- The terms of a cell: the products along K, scaled where SCL says so, and at skipped positions of a strict step zero times
the partner, where one that is not finite is invalid (R295); and whether one of them is invalid. -/
def StepData.terms (g : StepData) (fa fb scl : Nat) (strict : Bool) (cell : Nat) : List FV × Bool :=
  let i := cell / 32
  let c := cell % 32
  let row := g.a.getD i []
  let ks := if strict then upFrom 0 (stepK fa) else g.present
  let ps := ks.map fun k =>
    let present := g.present.contains k
    let b := decodeCode g.table fb ((g.b.getD k []).getD c 0)
    let y := if sclB scl then scaleElem b (g.sb.getD c 0) else (b, false)
    let a := decodeCode g.table fa (row.getD k 0)
    let x := if !present then (.fin false 0 0, !y.1.isFin) else if sclA scl then scaleElem a (g.sa.getD i 0) else (a, false)
    let r := mulFV x.1 y.1
    (r.1, r.2 || x.2 || y.2)
  (ps.map fun p => p.1, ps.any fun p => p.2)

/-- NV OF UF NX of conditions. -/
def accFlags (f : Fl) : BitVec 4 :=
  BitVec.ofNat 4 ((if f.nv then 8 else 0) + (if f.of then 4 else 0) + (if f.uf then 2 else 0) + (if f.nx then 1 else 0))

/-- A float slot after a step. -/
def floatStep (A : Acc) (g : StepData) (fa fb scl : Nat) (strict : Bool) : Acc :=
  let rs := (upFrom 0 1024).map fun i =>
    let t := g.terms fa fb scl strict i
    (i, roundSum specFp32 0 t.2 (decodeIeee specFp32 (A.cell i).toNat :: t.1))
  { A with
    cells := cellMap (rs.map fun r => (r.1, r.2.1))
    flags := rs.foldl (fun f r => f ||| accFlags r.2.2) A.flags }

/-! ## A step job (R292, R293) -/

/-- The first job of the queue that has not finished, with its place. -/
def headFrom (k : Nat) : List Job → Option (Nat × Job)
  | [] => none
  | j :: js => if j.done.isNone then some (k, j) else headFrom (k + 1) js

/-- The job at a place of the queue replaced. -/
def setJob (s : State) (c k : Nat) (j : Job) : State :=
  let C := clusterOf s c
  putCluster s c { C with jobs := modifyAt (fun _ => j) k C.jobs }

/-- An integer step commits, stalls or fails. -/
def commitStep (s : State) (c k : Nat) (j : Job) (sums : List Int) : State :=
  let C := clusterOf s c
  match commitInt C j sums with
  | .done D =>
    let E : Cluster :=
      { D with cstall := false, accs := if (C.accs[j.acc]).state = 0 then D.accs.set j.acc (takeAcc s D.accs[j.acc] j 1) else D.accs }
    setJob (putCluster s c E) c k (j.finish none)
  | .stall => setJob (putCluster s c { C with cstall := true }) c k { j with started := true, sums := sums }
  | .full d => setJob (putCluster s c { C with cstall := false }) c k (j.failed codeCarryFull d)

/-- The U copies of the lines recalled that a skip list of at most n bytes lies in (R53). -/
def recallRuns (s : State) (L own n : Nat) (r : Word) : State :=
  (upFrom 0 n).foldl (fun t i =>
    recallU t L own (r.extractLsb' 0 18 + r.extractLsb' 18 18 * BitVec.ofNat 18 i).toNat) s

/-- The granules of a step: all present, or as its skip list says, with the register advanced. -/
def stepGranules (s : State) (j : Job) : Except (BitVec 16 × BitVec 12) (List Bool × Option Word) :=
  let n := stepK j.fmtA / 8
  if j.op < 4 then .ok (List.replicate n true, none)
  else (readRuns s (jobLaunch s j) j.own n n (streamOf s j)).map fun x => (x.1, some x.2)

/-- A step job starts (R292). -/
def runStep (s0 : State) (c k : Nat) (j : Job) : State :=
  let s := if j.op < 4 then s0 else recallRuns s0 (jobLaunch s0 j) j.own 4 (streamOf s0 j)
  let A := (clusterOf s c).accs[j.acc]
  let mode := if intMode j.fmtA then 1 else 2
  let fail (code : BitVec 16) (d : BitVec 12) : State :=
    setJob (endWalk { s with fresh := s.fresh + 1 } j none) c k (j.failed code d)
  if engineHeld s0 j.own then s0
  else if A.state ≠ 0 ∧ (!owns A j ∨ 3 ≤ A.state ∨ A.draining) then fail codeQueueMisuse 0x040
  else if A.state ≠ 0 ∧ A.state ≠ mode then fail codeQueueMisuse 0x044
  else
    match stepGranules s j with
    | .error (code, d) => fail code d
    | .ok (gs, r) =>
      match gatherStep s j (presentOf gs) with
      | .error (code, d) => fail code d
      | .ok (g, t0) =>
        let t := endWalk t0 j r
        if mode = 1 then commitStep t c k j ((upFrom 0 1024).map fun i => g.sum j.fmtA j.fmtB i)
        else
          let C := clusterOf t c
          let B := floatStep A g j.fmtA j.fmtB (j.op % 4) j.strict
          setJob (putCluster t c { C with accs := C.accs.set j.acc (if A.state = 0 then takeAcc t B j 2 else B) }) c k (j.finish none)

/-- The head of the queue, if it is a step that has not started. -/
def stepJob (c : Nat) (s : State) : State :=
  match headFrom 0 (clusterOf s c).jobs with
  | some (k, j) => if !j.started && decide (j.op < 8) then runStep s c k j else s
  | none => s

/-- R293: MXE_STEP_JOB. -/
def execMxeStepJob (c : Nat) (s : State) : Host.Outcome State Fault Refusal := event (stepJob c) s

/-- R293: CARRY_STALL_RESUME. A stalled step re-checks its carries. -/
def resumeStall (c : Nat) (s : State) : State :=
  match headFrom 0 (clusterOf s c).jobs with
  | some (k, j) => if j.started && (clusterOf s c).cstall then commitStep s c k j j.sums else s
  | none => s

/-- R293: CARRY_STALL_RESUME. -/
def execCarryStallResume (c : Nat) (s : State) : Host.Outcome State Fault Refusal := event (resumeStall c) s

/-! ## Drains and reclaims (R296, R297) -/

/-- The status word of a drain. -/
def statusWord (empty satf : Bool) (flags : BitVec 4) : Word :=
  BitVec.ofNat 64 ((if empty then 512 else 0) + (if satf then 256 else 0) + (if flags.getLsbD 3 then 16 else 0) + flags.toNat % 8)

/-- Bytes of a drained cell. -/
def drainWidth (mode : Nat) (wide : Bool) (fd : Nat) : Nat :=
  if mode = 1 then (if wide then 8 else 4) else if fd = 8 || fd = 9 then 2 else 4

/-- A drained cell of an integer slot, and whether it was clamped. -/
def drainInt (acc : BitVec 32) (count : Int) (wide : Bool) : Nat × Bool :=
  let v := signedOf 24 acc.toNat + count * 2 ^ 24
  if wide then (patOf 64 v, false)
  else
    let r := clampS 32 v
    (patOf 32 r.1, r.2)

/-- A drained cell of a float slot, and the conditions of its conversion. -/
def drainFloat (x : BitVec 32) (fd : Nat) : Nat × Fl :=
  if fd = 11 then (x.toNat, Fl.zero) else encodeCode [] fd 0 (decodeIeee specFp32 x.toNat) (1, 1)

/-- The bytes that a drain writes: the cells in order, then the status word. -/
def drainBytes (C : Cluster) (j : Job) : List Byte :=
  let A := C.accs[j.acc]
  let w := drainWidth A.state j.wide j.fd
  if A.state = 1 then
    let cs := (upFrom 0 1024).map fun i => drainInt (A.cell i) ((C.countOf j.acc i).getD 0) j.wide
    cs.flatMap (fun c => leBytes c.1 w) ++ leBytes (statusWord false (cs.any fun c => c.2) A.flags).toNat 8
  else
    let cs := (upFrom 0 1024).map fun i => drainFloat (A.cell i) j.fd
    let flags := if j.fd = 8 ∨ j.fd = 9 then cs.foldl (fun f c => f ||| (accFlags c.2 &&& 7)) A.flags else A.flags
    cs.flatMap (fun c => leBytes c.1 w) ++ leBytes (statusWord false false flags).toNat 8

/-- The slot of a drain that has ended: with its mode, or orphaned where its owner has gone meanwhile (R35). -/
def drainOver (s : State) (c : Nat) (j : Job) : State :=
  let C := clusterOf s c
  let A := C.accs[j.acc]
  let gone := match j.rep with
    | .slot src => !runs s src
    | .remote _ _ _ => false
  putCluster s c { C with accs := C.accs.set j.acc { A with draining := false, state := if A.draining && gone then 3 else A.state } }

/-- What a drain of a slot writes, and where from its destination: its cells and status word, or of a free slot the status word
alone (R296). -/
def drainOutput (C : Cluster) (j : Job) : Nat × List Byte :=
  if (C.accs[j.acc]).state = 0 then (1024 * (if j.wide then 8 else 4), leBytes (statusWord true false 0).toNat 8)
  else (0, drainBytes C j)

/-- The code and DETAIL with which a drain fails, if it does: the slot of another owner or orphaned, a format that a float slot
does not take, or a destination that is refused (R296). -/
def drainRefused (s : State) (c : Nat) (j : Job) : Option (BitVec 16 × BitVec 12) :=
  let C := clusterOf s c
  let A := C.accs[j.acc]
  let p := j.word 0
  let out := drainOutput C j
  if A.state ≠ 0 ∧ (!owns A j ∨ 3 ≤ A.state) then some (codeQueueMisuse, 0x040)
  else if A.state = 2 ∧ j.fd = 32 then some (codeQueueMisuse, 0x045)
  else writeBlocked s (jobLaunch s j) (j.home p) (offOf p + out.1) out.2.length

/-- The slot freed with its carry entries (R296, R297). -/
def freeAcc (s : State) (c : Nat) (a : Fin 8) : State :=
  let C := clusterOf s c
  putCluster s c { C with carries := C.carries.filter (fun x => x.slot != a), accs := C.accs.set a Acc.reset }

/-- A drain at place k of the queue starts: it fails, ends at once on a free slot, or STATE becomes 4 (R296). -/
def startDrain (s : State) (c k : Nat) (j : Job) : State :=
  match drainRefused s c j with
  | some (code, d) => setJob s c k (j.failed code d)
  | none =>
    let C := clusterOf s c
    let A := C.accs[j.acc]
    let L := jobLaunch s j
    let p := j.word 0
    if A.state = 0 then
      let out := drainOutput C j
      setJob (engineWrite s L (j.home p) (offOf p + out.1) out.2) c k (j.finish none)
    else setJob (putCluster s c { C with accs := C.accs.set j.acc { A with draining := true } }) c k { j with started := true }

/-- A drain in STATE 4 writes its cells and status word, and frees the slot; one that is refused now leaves the slot as it was
(R296). -/
def endDrain (s : State) (c k : Nat) (j : Job) : State :=
  match drainRefused s c j with
  | some (code, d) => setJob (drainOver s c j) c k (j.failed code d)
  | none =>
    let p := j.word 0
    let out := drainOutput (clusterOf s c) j
    setJob (freeAcc (engineWrite s (jobLaunch s j) (j.home p) (offOf p + out.1) out.2) c j.acc) c k (j.finish none)

/-- The first job from place k on that satisfies a condition, with its place. -/
def findJob (ok : Job → Bool) (k : Nat) : List Job → Option (Nat × Job)
  | [] => none
  | j :: js => if ok j then some (k, j) else findJob ok (k + 1) js

/-- A drain that has started and not ended. -/
def Job.draining (j : Job) : Bool := j.started && j.done.isNone && j.op == 8

/-- May a queued drain run ahead of a step that stalls on slot a: it is another slot's, with carry entries (R123, R293)? -/
def Job.overtakes (C : Cluster) (a : Fin 8) (j : Job) : Bool :=
  !j.started && j.op == 8 && j.acc != a && decide (0 < C.carriesOf j.acc)

/-- Would a stalled step stall again? Where entries have been freed it resumes, and no drain overtakes it (R142). -/
def stallsStill (C : Cluster) (j : Job) : Bool :=
  match commitInt C j j.sums with
  | .stall => true
  | _ => false

/-- The drain that may run: the one that has started ends; else the head of the queue starts, or the oldest that overtakes a step
that stalls still (R123, R142). -/
def drainJob (c : Nat) (s : State) : State :=
  let C := clusterOf s c
  match findJob Job.draining 0 C.jobs with
  | some (k, j) => if engineHeld s j.own then s else endDrain s c k j
  | none =>
    match headFrom 0 C.jobs with
    | some (k, j) =>
      if engineHeld s j.own then s
      else if !j.started && j.op == 8 then startDrain s c k j
      else if C.cstall && stallsStill C j then
        match findJob (Job.overtakes C j.acc) 0 C.jobs with
        | some (m, d) => startDrain s c m d
        | none => s
      else s
    | none => s

/-- R296: MXE_DRAIN_JOB. -/
def execMxeDrainJob (c : Nat) (s : State) : Host.Outcome State Fault Refusal := event (drainJob c) s

/-- A reclaim taken in queue order. -/
def reclaimJob (c : Nat) (s : State) : State :=
  let C := clusterOf s c
  match headFrom 0 C.jobs with
  | some (k, j) =>
    if !j.started && j.op == 9 then
      let A := C.accs[j.acc]
      if A.state = 3 then setJob (freeAcc s c j.acc) c k (j.finish none)
      else if A.state = 0 then setJob s c k (j.finish none)
      else setJob s c k (j.failed codeQueueMisuse 0x041)
    else s
  | none => s

/-- R297: MXE_RECLAIM_JOB. -/
def execMxeReclaimJob (c : Nat) (s : State) : Host.Outcome State Fault Refusal := event (reclaimJob c) s

end Sys2Proof.Machine
end

