-- ==== Sys2Proof/Machine/Admission.lean ====
section
/-! DEFINITION. Capsule images: reading one, and the checks of admission: drain, fields, grant, seal, shape and regions, and
the checks of a chain; entering the wait list, and cancelling (spec/08 R143 to R151, spec/11 R188 to R190, spec/01 R17). -/

namespace Sys2Proof.Machine

/-! ## Reading an image (R143, R144, R146) -/

/-- n bytes of an image from an offset; bytes beyond its end read as zero. -/
def sliceOf (bs : List Byte) (off n : Nat) : List Byte :=
  let x := (bs.drop off).take n
  x ++ List.replicate (n - x.length) (0 : Byte)
/-- Image word i. -/
def imageWord (bs : List Byte) (i : Nat) : Nat := leValue (sliceOf bs (8 * i) 8)
/-- Bits [lo + len - 1 : lo] of image word i. -/
def imageBits (bs : List Byte) (i lo len : Nat) : Nat := imageWord bs i / 2 ^ lo % 2 ^ len

/-- Extent entry k of an image (R146). -/
def readExtent (bs : List Byte) (k : Nat) : Extent :=
  let w (j : Nat) : Nat := imageWord bs (48 + 4 * k + j)
  let b (j lo len : Nat) : Nat := imageBits bs (48 + 4 * k + j) lo len
  { base := w 0, len := b 1 0 48, inh := b 2 41 1 == 1, carry := b 2 40 1 == 1, spill := b 2 39 1 == 1, keep := b 2 38 1 == 1,
    host := b 2 37 1 == 1, rights := BitVec.ofNat 4 (b 2 32 4), owner := BitVec.ofNat 32 (b 2 0 32), from' := b 3 8 6,
    onward := b 3 0 6, raw := (upFrom 0 4).map fun j => BitVec.ofNat 64 (w j) }

/-- ARGLEN of an image. -/
def argLen (bs : List Byte) : Nat := imageBits bs 6 0 13

/-- The capsule that an image describes, its grant not yet read. -/
def readCapsule (bs : List Byte) (o : Origin) : Capsule :=
  { hdr := Vector.ofFn fun i => BitVec.ofNat 64 (imageWord bs i.val)
    codeId := digestOf (sliceOf bs 0x100 32)
    grantDig := digestOf (sliceOf bs 0x120 32)
    chain := Vector.ofFn fun i => BitVec.ofNat 64 (imageWord bs (40 + i.val))
    extents := (upFrom 0 64).map (readExtent bs)
    args := sliceOf bs 0x980 (argLen bs)
    origin := o, ranges := [], grantOwner := 0, bound := none, counted := false, inherited := [], replaces := [], behind := none, drained := false }

/-- The table digest of an image (R150). -/
def tableDigest (bs : List Byte) : BitVec 256 := digestOf (shake256 (sliceOf bs 0x100 32 ++ sliceOf bs 0x180 2048))

/-! ## Order 2: fields (R143, R144, R146) -/

/-- Is header word i outside its table? A DETMASK bit under PIPE is refused "at admission" without an order or a DETAIL (R116):
DEDUCED, it is a fault of word 2 among the field checks (log 73). -/
def headerBad (bs : List Byte) (i : Nat) : Bool :=
  let w := imageWord bs i
  let b (lo len : Nat) : Nat := imageBits bs i lo len
  let flag (lo : Nat) : Bool := imageBits bs 1 lo 1 == 1
  match i with
  | 0 => b 32 32 != 0x314e585a || b 16 16 != 0 || b 8 8 == 0 || decide (64 < b 8 8) || b 0 8 != 1
  | 1 =>
    b 60 4 != 0 || b 54 6 == 63 || b 48 6 == 63 || (!flag 2 && b 42 6 != 0) || b 32 4 != 0 || (!flag 3 && b 28 4 != 0) ||
    b 18 10 == 0 || b 8 10 == 0 || b 5 3 != 0
  | 2 => b 63 1 != 0 || (flag 3 && w != 0)
  | 3 => b 36 28 != 0
  | 4 => b 48 16 != 0 || (upFrom 0 4).any fun j => b (12 * j) 12 == 0
  | 5 => b 48 16 != 0 || (upFrom 0 4).any fun j => b (12 * j) 12 == 0
  | 6 =>
    b 50 14 != 0 || b 31 1 != 0 || b 13 3 != 0 || b 32 18 % 64 != 0 || b 16 15 == 0 || decide (8192 < b 16 15) ||
    decide (4096 < b 0 13) || b 0 13 % 8 != 0
  | 7 => b 7 57 != 0 || b 0 6 == 63
  | i => if i < 24 then b 40 24 != 0 else if i < 29 then !flag 4 && w != 0 else w != 0

/-- Is image word i of the chain block or the extent table outside its table? -/
def tableBad (bs : List Byte) (i : Nat) : Bool :=
  let w := imageWord bs i
  if i < 44 then false
  else if i = 44 then w / 2 != 0
  else if i < 48 then w != 0
  else
    let k := (i - 48) / 4
    if imageBits bs 0 8 8 ≤ k then w != 0
    else
      match (i - 48) % 4 with
      | 1 => w / 2 ^ 48 != 0
      | 2 => w / 2 ^ 42 != 0 || imageBits bs i 35 2 != 0
      | 3 => w / 2 ^ 14 != 0 || imageBits bs i 6 2 != 0
      | _ => false

/-- The DETAIL of order 2: a length that differs, else the lowest image word at fault. -/
def fieldsRefused (bs : List Byte) (len : Nat) : Option (BitVec 12) :=
  if len ≠ 0x9a0 + argLen bs then some 0xfff
  else ((upFrom 0 304).find? fun i => if i < 32 then headerBad bs i else tableBad bs i).map (BitVec.ofNat 12)

/-! ## Order 3: grants (R148) -/

/-- A range of a grant: base, length, rights and HOST. -/
def grantRange (g : List Byte) (i : Nat) : Nat × Nat × BitVec 4 × Bool :=
  let a := leValue (sliceOf g (0x40 + 16 * i) 8)
  let w := leValue (sliceOf g (0x48 + 16 * i) 8)
  (a, w % 2 ^ 48, BitVec.ofNat 4 (w / 2 ^ 48 % 16), w / 2 ^ 52 % 2 == 1)

/-- The count of ranges, the owner and the serial of a grant. -/
def grantCount (g : List Byte) : Nat := leValue (sliceOf g 1 1)
def grantOwnerOf (g : List Byte) : BitVec 32 := BitVec.ofNat 32 (leValue (sliceOf g 8 4))
def grantSerial (g : List Byte) : Word := BitVec.ofNat 64 (leValue (sliceOf g 16 8))

/-- Is a range of a grant allowed (check 0x006)? -/
def rangeOk (g : List Byte) (i : Nat) : Bool :=
  let r := grantRange g i
  let w := leValue (sliceOf g (0x48 + 16 * i) 8)
  r.1 % 4096 == 0 && r.2.1 % 4096 == 0 && w / 2 ^ 53 == 0 && w / 2 ^ 51 % 2 == 0 &&
  (if r.2.2.2 then decide (r.1 + r.2.1 ≤ 2 ^ 64) else decide (r.1 + r.2.1 ≤ 0x1fc00000000))

/-- Every range of a grant allowed, and those past its count zero. -/
def rangesOk (g : List Byte) : Bool :=
  leValue (sliceOf g 0 1) == 1 && decide (1 ≤ grantCount g) && decide (grantCount g ≤ 16) &&
  (upFrom 0 16).all fun i =>
    if i < grantCount g then rangeOk g i else leValue (sliceOf g (0x40 + 16 * i) 16) == 0

/-- Checks 0x002 to 0x004 of a grant under an operator root key, in order. The output length of the SHAKE256 that the operator's
endorsement signs is not given: DESIGN CHOICE, 256 bits (R148; log 85). -/
def grantSigned (root g : List Byte) : Option (BitVec 12) :=
  if !Config.mlDsaVerify root (shake256 (sliceOf g 0 0x140 ++ sliceOf g 0x580 0x7a0)) (sliceOf g 0x1a10 3309) then
    some 0x002
  else if !Config.mlDsaVerify (sliceOf g 0x580 1952) (sliceOf g 0 0xd20) (sliceOf g 0xd20 3309) then some 0x003
  else if digestOf (sliceOf g 0x20 32) ≠ Config.deviceId then some 0x004
  else none

/-- What a verified grant gives (R148). -/
def grantEntry (dig : BitVec 256) (g : List Byte) : CachedGrant :=
  { digest := dig, owner := grantOwnerOf g, serial := grantSerial g,
    ranges := (upFrom 0 (grantCount g)).map (grantRange g),
    sealKey := digestOf (shake256 (Config.mlKemSecret (sliceOf g 0x140 1088) ++ leBytes (grantOwnerOf g).toNat 8 ++
      leBytes (grantSerial g).toNat 8)) }

/-- Is a serial below its owner's minimum? -/
def serialRevoked (s : State) (owner : BitVec 32) (serial : Word) : Bool :=
  decide (serial.toNat < (SMap.getD s.minSerial owner.toNat 0).toNat)

/-- The grant of a digest checked in the order of R148; a cache hit skips all but the minimum serial. -/
def checkGrant (s : State) (dig : BitVec 256) : Except (BitVec 12) (CachedGrant × State) :=
  match s.cache.find? fun c => c.digest == dig with
  | some c => if serialRevoked s c.owner c.serial then .error 0x005 else .ok (c, s)
  | none =>
    match s.grants.find? fun g => g.digest == dig with
    | none => .error 0x001
    | some g =>
      match grantSigned (Config.operatorRootOf s.measured) g.bytes with
      | some d => .error d
      | none =>
        let c := grantEntry dig g.bytes
        if serialRevoked s c.owner c.serial then .error 0x005
        else if !rangesOk g.bytes then .error 0x006
        else .ok (c, { s with cache := (c :: s.cache).take 256 })

/-! ## Order 4: the seal (R149, R154) -/

/-- The bytes of a 256-bit key. -/
def keyBytes (k : BitVec 256) : List Byte := leBytes k.toNat 32

/-- Does an image carry the seal of a key? -/
def sealOk (key : List Byte) (custom : List Byte) (bs : List Byte) : Bool :=
  let n := 0x980 + argLen bs
  digestOf (kmac256 key (sliceOf bs 0 n) custom) == digestOf (sliceOf bs n 32)

/-- The DETAIL of order 4. -/
def sealRefused (cap : Capsule) (key : BitVec 256) (bs : List Byte) : Option (BitVec 12) :=
  if cap.residue then (if sealOk Config.residueKey residueText bs then none else some 0x003)
  else if sealOk (keyBytes key) sealText bs then none else some 0x001

/-! ## Order 5: shape, regions and argument block (R47, R49, R144, R145) -/

/-- Is region r broken by itself? -/
def regionBad (c : Capsule) (r : Nat) : Bool :=
  let k := c.regionKind r
  let n := c.regionLen r
  let b := c.regionBase r
  decide (6 ≤ k) || (k == 0 && (n != 0 || b != 0)) || n % 64 != 0 || b % 64 != 0 || decide (Config.scratchBytes < b + n)

/-- Does region r meet or repeat a region below it, or meet the default ring? -/
def regionMeets (c : Capsule) (r : Nat) : Bool :=
  let k := c.regionKind r
  let low := (upFrom 0 r).filter fun q => c.regionKind q != 0
  k != 0 &&
  (low.any (fun q => overlaps (c.regionBase q) (c.regionLen q) (c.regionBase r) (c.regionLen r)) ||
   ((k == 3 || k == 4 || k == 5) && low.any fun q => c.regionKind q == k) ||
   ((c.regions 3).isEmpty && overlaps (c.regionBase r) (c.regionLen r) 0x2e000 0x2000))

/-- Does the argument block leave the working store and the keep and carry regions? -/
def argsBad (c : Capsule) : Bool :=
  let a := c.argoff
  let n := c.arglen
  decide (0 < n) && (decide (Config.scratchBytes < a + n) || overlaps a n c.ring.1 c.ring.2 || touchesKind c 0 4 a n ||
    touchesKind c 0 5 a n)

/-- The DETAIL of order 5. -/
def shapeRefused (c : Capsule) : Option (BitVec 12) :=
  if 256 < c.w ∨ 320 < c.h then some 0x100
  else
    match (upFrom 0 16).find? fun r => regionBad c r || regionMeets c r with
    | some r => some (BitVec.ofNat 12 r)
    | none => if argsBad c then some 0x101 else none

/-! ## Admission (R149) -/

/-- Orders 2 to 5 on an image of a length: the capsule with its grant, or the fault. -/
def admitImage (s : State) (bs : List Byte) (len : Nat) (o : Origin) : Except (BitVec 16 × BitVec 12) (Capsule × State) :=
  let cap := readCapsule bs o
  match fieldsRefused bs len with
  | some d => .error (codeReserved, d)
  | none =>
    match checkGrant s cap.grantDig with
    | .error d => .error (codeGrant, d)
    | .ok (g, t) =>
      match sealRefused cap g.sealKey bs with
      | some d => .error (codeSeal, d)
      | none =>
        match shapeRefused cap with
        | some d => .error (codeBounds, d)
        | none => .ok ({ cap with ranges := g.ranges, grantOwner := g.owner }, t)

/-- A capsule that has passed check 5 is counted in LIVE and waits for a plat; under a cancel it ends at once (R188, R190). -/
def enterWait (s : State) (cap : Capsule) : State :=
  let c : Capsule := { cap with counted := true }
  let t := countLive s c
  if c.counters.any fun k => (counterOf t k).cxl then endUnplaced t c codePreempted 0x001 else { t with waitList := t.waitList ++ [c] }

/-- Is there room in the wait list of 256 (R179)? A pending chain, and an onward capsule that keeps a plat, may yet wait: each keeps
a place (log 29). -/
def waitRoom (s : State) : Bool :=
  decide (s.waitList.length + (s.launches.filter fun x => x.2.pending.isSome).length +
    (s.plats.filter fun p => p.2.onward.isSome).length < 256)

/-! ## Chains (R151) -/

/-- The extents of a chaining capsule and of the onward capsule match (check 0x003). -/
def carriesMatch (xs ys : List Extent) : Bool :=
  let at' (es : List Extent) (k : Nat) (f : Extent → Bool) : Bool :=
    match es[k]? with
    | some e => f e
    | none => false
  (upFrom 0 64).all fun k =>
    (!(at' xs k (·.carry)) || at' xs k fun e => at' ys e.onward fun f => f.inh && f.from' == k) &&
    (!(at' ys k (·.inh)) || at' ys k fun f => at' xs f.from' fun e => e.carry && e.onward == k)

/-- The DETAIL of a chain that does not match. -/
def chainRefused (l : Launch) (bs : List Byte) (cap : Capsule) : Option (BitVec 12) :=
  let next := (upFrom 0 4).foldr (fun i a => (l.cap.chain[i % 8]'(Nat.mod_lt i (by decide))).toNat + 2 ^ 64 * a) 0
  if next = 0 then some 0x001
  else if (tableDigest bs).toNat ≠ next then some 0x002
  else if !carriesMatch l.extents cap.extents then some 0x003
  else if l.pending.isSome then some 0x004
  else none

/-- The queue number that a capsule ranks with (R193). -/
def Origin.rank : Origin → Nat
  | .queue q _ _ _ => q
  | .launchBy r => r
  | .chainOf r _ _ _ _ => r

/-! ## Cancels (R17, R190) -/

/-- Does a capsule name a counter? -/
def Capsule.names (c : Capsule) (k : Nat) : Bool := c.counters.contains k

/-- A cancel on a placed launch: it starts nothing more and its chain is dropped. A running plat goes to QUIESCING; one that is
being placed, or spilled, ends at its next step (R17, R204). -/
def cancelLaunch (s : State) (L : Nat) : State :=
  match launchOf s L with
  | none => s
  | some l =>
    let t := putLaunch s L { l with cancelled := true, pending := none }
    let P := platOf t l.plat
    if P.state = .running ∨ P.state = .quiescing then putPlat t l.plat { P with state := .quiescing, quiesce := 2 } else t

/-- An unplaced capsule that a cancel ends. -/
def cancelUnplaced (s : State) (cap : Capsule) : State := endUnplaced s cap codePreempted 0x001

/-- The onward capsules that keep a plat and name a counter are cancelled. -/
def cancelOnward (k : Nat) (s : State) (p : Nat × PlatEntry) : State :=
  match p.2.onward with
  | some cap => if cap.names k then cancelUnplaced (putPlat s p.1 { platOf s p.1 with onward := none }) cap else s
  | none => s

/-- A cancel of a counter; one whose LIVE is 0 changes nothing. -/
def cancelCounter (s : State) (k : Nat) : State :=
  if (counterOf s k).live = 0 then s
  else
    let s1 := modCounter s k fun c => { c with cxl := true }
    let gone := s1.waitList.filter fun c => c.names k
    let s2 := gone.foldl cancelUnplaced { s1 with waitList := s1.waitList.filter fun c => !c.names k }
    let s3 := s2.plats.foldl (cancelOnward k) s2
    (s3.launches.filter fun x => x.2.cap.names k).foldl (fun t x => cancelLaunch t x.1) s3

end Sys2Proof.Machine
end

