-- ==== Sys2Proof/Machine/Packets.lean ====
section
/-! DEFINITION. Host user queues: notifies, the packets of each TYPE, and the release of a counter wait
(spec/07 R136 to R138, spec/11 R189 R190). -/

namespace Sys2Proof.Machine

/-! ## The queue (R136) -/

/-- The state with user queue q at u. -/
def putQueue (s : State) (q : Nat) (u : UserQueue) : State := { s with queues := SMap.set q u s.queues }

/-- A notify: a write index too far ahead puts the queue into its error state, which ignores notifies. -/
def notifyQueue (s : State) (q : Nat) (wi : BitVec 32) : State :=
  match SMap.find q s.queues with
  | some u =>
    if u.error then s
    else if 2 ^ u.log2 < (wi - u.rd).toNat then putQueue { s with gzChanged := true } q { u with error := true }
    else putQueue s q { u with wr := wi }
  | none => s

/-- R136: UQWI_NOTIFY. -/
def execUqwiNotify (q : Nat) (wi : BitVec 32) (s : State) : Host.Outcome State Fault Refusal :=
  event (fun s => notifyQueue s q wi) s

/-! ## Packets (R137) -/

/-- The eight words of the packet at the read index. -/
def packetWords (s : State) (u : UserQueue) : Vector Word 8 :=
  Vector.ofFn fun i => hostWord s (u.ring.toNat + u.rd.toNat % 2 ^ u.log2 * 64 + 8 * i.val)

/-- Fields of a packet. -/
def pktType (w : Vector Word 8) : Nat := (w[0].extractLsb' 0 8).toNat
def pktAcq (w : Vector Word 8) : Bool := w[0].getLsbD 8
def pktTag (w : Vector Word 8) : BitVec 32 := w[0].extractLsb' 32 32
def pktCounter (w : Vector Word 8) : Nat := (w[1].extractLsb' 0 12).toNat

/-- Is STATUS misaligned? -/
def statusBad (w : Vector Word 8) : Bool := w[3].toNat % 16 != 0

/-- Is word i of a packet at fault? ARG0 of TYPE 0 has no meaning and no reserved bit. -/
def packetBad (w : Vector Word 8) (i : Nat) : Bool :=
  let t := pktType w
  match i with
  | 0 => decide (4 ≤ t) || w[0].extractLsb' 10 22 != 0
  | 1 => if t = 1 then w[1].toNat % 64 != 0 else (t == 2 || t == 3) && w[1].toNat / 2 ^ 12 != 0
  | 2 => w[2].toNat / 2 ^ 32 != 0
  | 3 => statusBad w
  | 4 => w[4] != 0
  | 5 => w[5] != 0
  | 6 => w[6] != 0
  | _ => w[7] != 0

/-- The lowest packet word at fault. -/
def packetRefused (w : Vector Word 8) : Option Nat := (upFrom 0 8).find? (packetBad w)

/-- The packet at the read index presented: the read index moves on and is written back. -/
def present (s : State) (q : Nat) (u : UserQueue) : State :=
  hostPut (putQueue s q { u with rd := u.rd + 1 }) u.rdAddr.toNat ((u.rd + 1).zeroExtend 64)

/-- A packet refused: the fault log, and its status record unless STATUS itself is misaligned. Word 1 of the record is 0 for TYPE
0, 2 and 3 (R138); for a launch, which is never placed, and a reserved TYPE it is not stated (log 4). -/
def refusePacket (s : State) (w : Vector Word 8) (i : Nat) : State :=
  let t := logRefusal s codeReserved (BitVec.ofNat 12 i)
  if statusBad w then t
  else if pktType w = 0 ∨ pktType w = 2 ∨ pktType w = 3 then writeStatus t w[3] (pktTag w) codeReserved 0
  else writeStatus { t with fresh := t.fresh + 1 } w[3] (pktTag w) codeReserved (Config.freeWord t.fresh).toNat

/-- May queue q present its next packet: it is not held by a counter wait, there is one, and the wait list has room (R179)? -/
def mayPresent (s : State) (u : UserQueue) : Bool := u.wait.isNone && u.rd != u.wr && waitRoom s

/-- Does ACQ hold the packet back (R138)? -/
def acqHolds (u : UserQueue) (w : Vector Word 8) : Bool := pktAcq w && !u.open'.isEmpty

/-- The next packet of queue q presented, if it has the TYPE; a malformed packet, or one of a reserved TYPE, is refused
whichever is asked for. -/
def takePacket (kind q : Nat) (f : Vector Word 8 → State → State) (s : State) : State :=
  match SMap.find q s.queues with
  | some u =>
    let w := packetWords s u
    if !mayPresent s u || acqHolds u w then s
    else if pktType w ≠ kind ∧ pktType w < 4 then s
    else
      match packetRefused w with
      | some i => refusePacket (present s q u) w i
      | none => f w (present s q u)
  | none => s

/-- R138: PACKET_NOP. -/
def execPacketNop (q : Nat) (s : State) : Host.Outcome State Fault Refusal :=
  event (takePacket 0 q fun w s => writeStatus s w[3] (pktTag w) 0 0) s

/-- Packet number n of queue q is under way (R138). -/
def openPacket (s : State) (q n : Nat) : State :=
  match SMap.find q s.queues with
  | some u => putQueue s q { u with open' := u.open' ++ [n] }
  | none => s

/-- A launch packet from stage 2 of R7: drain, then admission, then the wait list. Out of service, it is refused with the
code of grade 4 (R186). A refusal at orders 1 to 5 moves no counter, and its status record alone reports it (R7, R189). -/
def presentLaunch (q : Nat) (w : Vector Word 8) (s0 : State) : State :=
  let n := s0.nextPacket
  let s := openPacket { s0 with nextPacket := n + 1 } q n
  let len := (w[2].extractLsb' 0 32).toNat
  let bs := hostBytes s w[1].toNat (min len 0x299f)
  let o : Origin := .queue q w[3] (pktTag w) n
  let refused (code : BitVec 16) : State := report s o none code
  if s.outOfService then refused s.grade4
  else if unplaceable s (readCapsule bs o) then refused codeDrain
  else
    match admitImage s bs len o with
    | .ok (cap, t) => enterWait t cap
    | .error (code, _) => refused code

/-- R137: PACKET_LAUNCH. -/
def execPacketLaunch (q : Nat) (s : State) : Host.Outcome State Fault Refusal := event (takePacket 1 q (presentLaunch q)) s

/-- A counter wait holds its queue. -/
def holdQueue (q : Nat) (w : Vector Word 8) (s : State) : State :=
  match SMap.find q s.queues with
  | some u => putQueue s q { u with wait := some (pktCounter w, w[2].extractLsb' 0 32, w[3], pktTag w) }
  | none => s

/-- R137: PACKET_COUNTER_WAIT. -/
def execPacketCounterWait (q : Nat) (s : State) : Host.Outcome State Fault Refusal := event (takePacket 2 q (holdQueue q)) s

/-- Has a value reached a target (R189)? -/
def reached (v t : BitVec 32) : Bool := decide ((v - t).toNat < 2 ^ 31)

/-- A counter wait whose counter has reached its target is released. -/
def releaseWait (q : Nat) (s : State) : State :=
  match SMap.find q s.queues with
  | some u =>
    match u.wait with
    | some (c, target, status, tag) =>
      if reached (counterOf s c).ended target then writeStatus (putQueue s q { u with wait := none }) status tag 0 0 else s
    | none => s
  | none => s

/-- R189: COUNTER_WAIT_RELEASE. -/
def execCounterWaitRelease (q : Nat) (s : State) : Host.Outcome State Fault Refusal := event (releaseWait q) s

/-- R190: PACKET_CANCEL. -/
def execPacketCancel (q : Nat) (s : State) : Host.Outcome State Fault Refusal :=
  event (takePacket 3 q fun w s => writeStatus (cancelCounter s (pktCounter w)) w[3] (pktTag w) 0 0) s

end Sys2Proof.Machine
end

