-- ==== Sys2Proof/Machine/Placement.lean ====
section
/-! DEFINITION. Placing a capsule on a plat, loading its extents and code, and starting it (spec/01 R7, spec/03 R47 R50,
spec/07 R131 R345, spec/08 R145 R147 R149 R156, spec/10 R173 R177 R178, spec/20 R329). -/

namespace Sys2Proof.Machine

/-! ## Extents in force (R146, R151) -/

/-- The extent table of a capsule with the ranges that it inherits. An inheriting entry without a predecessor loads
nothing. -/
def Capsule.table (c : Capsule) : List Extent :=
  (c.extents.zip (upFrom 0 64)).map fun x =>
    match c.inherited.find? fun i => i.1 == x.2 with
    | some i => i.2.1
    | none => x.1

/-- Entry k of an extent table; a table without it holds zeros. -/
def tableAt (es : List Extent) (k : Nat) : Extent := es.getD k (readExtent [] 0)

/-- Is an entry an empty slot (R146)? -/
def Extent.empty (e : Extent) : Bool := e.raw.all (· == 0)

/-- The pseudo-channels that hold pages of an extent (R56): 2,047 pages in a row reach every one. -/
def Extent.channels (e : Extent) : List Nat :=
  (upFrom (e.base / 4096) (min (e.len / 4096) 2048)).map fun p => pseudoChannel (p * 4096)

/-- Does an extent have a page on pseudo-channel q? -/
def Extent.on (e : Extent) (q : Nat) : Bool := e.channels.contains q

/-- The pseudo-channels that hold pages of a table. -/
def channelsOf (es : List Extent) : List Nat :=
  let cs := es.flatMap Extent.channels
  (upFrom 0 1024).filter fun q => cs.contains q

/-- The channel cores and gateway cores in which a capsule on plat p takes a context (R345). Which gateway cores are assigned
to a plat is not stated (log 9). -/
def contextCores (es : List Extent) (p : Nat) : List Nat :=
  (channelsOf es).map (Config.nCompute + ·) ++ (upFrom Config.nChannelEnd 512).filter fun h => Config.gatewayOf h p

/-! ## Choosing a plat (R7, R154, R177 to R180, R345) -/

/-- May capsule cap take plat p: FREE, undrained, of its shape, not behind a pre-empting capsule that still waits (R158), at its
saved origin if it is a residue, and with a context to spare on every core that needs one? Which other waiting capsule comes first is
the firmware's policy (R179, R343; log 2). -/
def mayPlace (s : State) (cap : Capsule) (p : Nat) : Bool :=
  let P := platOf s p
  P.state == .free && P.fits cap && !P.drain && !s.drain && !s.outOfService && cap.bound.all (· == p) &&
  (cap.behind.all fun q => (platOf s q).claim.all fun c => !s.waitList.contains c) &&
  (!cap.residue || (match residueOrigin s cap with
    | some o => P.x4 == o.x4 && P.y2 == o.y2
    | none => false)) &&
  decide (s.launches.length < 1024) && (contextCores cap.table p).all fun h => decide ((hartOf s h).ctxs.length < 16)

/-- The free launch table indexes. -/
def freeLaunches (s : State) : List Nat := (upFrom 0 1024).filter fun i => (launchOf s i).isNone

/-- The next placement tag after a counter value: nonzero, and of no live placement (R177). -/
def nextTag (s : State) : BitVec 16 :=
  let live := s.plats.map fun p => p.2.tag
  (((upFrom 1 1026).map fun i => s.tagCtr + BitVec.ofNat 16 i).find? fun t => t != 0 && !live.contains t).getD 1

/-! ## Handler records and code (R50, R131, R145, R173) -/

/-- The bytes of the code image that CODEX names, as they stand. -/
def codeImage (s : State) (cap : Capsule) : List Byte :=
  extentBytes s (tableAt cap.table cap.codex) 0 (1024 + 8 * cap.codelen)

/-- Word j of handler record c of a code image. -/
def recordWord (bs : List Byte) (c j : Nat) : Nat := imageWord bs (2 * c + j)

/-- Bits of it. -/
def recordBits (bs : List Byte) (c j lo len : Nat) : Nat := recordWord bs c j / 2 ^ lo % 2 ^ len

/-- Handler record c; DET comes from DETMASK. -/
def readHandler (cap : Capsule) (bs : List Byte) (c : Nat) : Handler :=
  { v := recordBits bs c 0 23 1 == 1, det := cap.bits 2 c 1 == 1, rwin := recordBits bs c 0 19 3,
    bcls := recordBits bs c 0 16 3, pri := BitVec.ofNat 2 (recordBits bs c 0 13 2), entry := recordBits bs c 0 0 13,
    stklen := recordBits bs c 1 18 18, stkbase := recordBits bs c 1 0 18 }

/-- The handler table of a code image. -/
def readHandlers (cap : Capsule) (bs : List Byte) : SMap Handler :=
  ((upFrom 0 64).map fun c => (c, readHandler cap bs c)).filter fun x => x.2.v

/-- MASK of every handler record. -/
def readMasks (bs : List Byte) : Word :=
  (upFrom 0 64).foldl (fun m c => if recordBits bs c 0 15 1 = 1 then m ||| BitVec.ofNat 64 (2 ^ c) else m) 0

/-- The bundles of a code image that are not zero. -/
def readCode (cap : Capsule) (bs : List Byte) : SMap Word :=
  ((upFrom 0 cap.codelen).map fun b => (b, BitVec.ofNat 64 (imageWord bs (128 + b)))).filter fun x => x.2 != 0

/-- Does handler record c break its table? -/
def recordBad (cap : Capsule) (bs : List Byte) (c : Nat) : Bool :=
  let b (j lo len : Nat) : Nat := recordBits bs c j lo len
  if b 0 23 1 = 0 then recordWord bs c 0 != 0 || recordWord bs c 1 != 0
  else
    b 0 24 40 != 0 || b 0 22 1 != 0 || decide (cap.codelen ≤ b 0 0 13) || b 1 36 28 != 0 || b 1 18 18 % 8 != 0 ||
    b 1 0 18 % 8 != 0 || (c == 63 && b 0 13 9 != 0)

/-- Does the stack window of a record leave the stack region (R50)? -/
def windowBad (cap : Capsule) (r : Handler) : Bool :=
  r.v && r.stklen != 0 && (match cap.regions 4 with
    | x :: _ => decide (r.stkbase < x.1) || decide (x.1 + x.2 < r.stkbase + 8 * r.stklen)
    | [] => true)

/-- Would its window for slot 7 end above the stack region of a channel or gateway core (R131)? -/
def relocatedBad (cap : Capsule) (r : Handler) : Bool :=
  r.v && r.stklen != 0 && (match cap.regions 4 with
    | x :: _ => decide (0x2000 < r.stkbase - x.1 + 8 * r.stklen)
    | [] => false)

/-! ## Placement (R7) -/

/-- A compute core's context as placement makes it: zeroed but for the carried regions of a capsule that keeps the plat (R152),
where an empty future waits for nothing (R46, R121), with the argument block (R145). That of a residue would be gone when it
resumes, its working store then reading as zero (R48; log 68). -/
def coreContext (cap : Capsule) (L p : Nat) (old : Hart) : Ctx :=
  let kept := if cap.bound == some p && old.hasCtx (carriedLaunch p) then old.ctx (carriedLaunch p) else Ctx.reset L
  let nodes := match cap.regions 5 with
    | r :: _ => min (r.2 / 16) 65535
    | [] => 0
  { Ctx.reset L with
    scratch := if cap.residue then kept.scratch else Memory.writeBytes kept.scratch cap.argoff cap.args
    empties := kept.empties
    futFree := upFrom 0 nodes }

/-- The cores of a plat taken for a launch. -/
def placeCores (cap : Capsule) (L p : Nat) (P : PlatEntry) (s : State) : State :=
  P.cores.foldl (fun t h =>
    let H := hartOf t h
    putHart t h { Hart.reset with ctxs := [coreContext cap L p H], acts := H.acts }) s

/-- The clusters of a plat taken: each gets the next owner run key (R128). -/
def placeClusters (P : PlatEntry) (s : State) : State :=
  P.clusters.foldl (fun t c => putCluster { t with ownCtr := t.ownCtr + 1 } c { Cluster.reset with own := t.ownCtr + 1 }) s

/-- The contexts of the channel and gateway cores taken, still empty (R345). -/
def placeContexts (cap : Capsule) (L p : Nat) (s : State) : State :=
  (contextCores cap.table p).foldl (fun t h => putCtx t h (Ctx.reset L)) s

/-- A placed launch, its extents not yet loaded. -/
def newLaunch (s : State) (cap : Capsule) (p : Nat) : Launch :=
  let bs := codeImage s cap
  { cap := cap, plat := p, placedAt := s.cycle, loaded := false, handlers := readHandlers cap bs, code := readCode cap bs,
    extents := [], pending := none, cancelled := false, preempting := false, units := [], regime := false,
    regimeNext := none, lastDigest := none, digests := [], halted := false, idleSince := none }

/-- Capsule cap placed on plat p: the plat is zeroed, and the code and the handler tables are loaded. Which launch table
index it takes is not stated (log 4). -/
def placeOn (s0 : State) (cap : Capsule) (p : Nat) : State :=
  let free := freeLaunches s0
  let L := free.getD (Config.freeChoice s0.fresh % free.length) 0
  let s : State := { s0 with fresh := s0.fresh + 1, tagCtr := nextTag s0, gzChanged := true }
  let P : PlatEntry := { platOf s p with state := .placing, launch := some L, tag := nextTag s0, onward := none, claim := none, quiesce := 0 }
  let t := placeContexts cap L p (placeClusters P (placeCores cap L p P (putPlat s p P)))
  putLaunch t L (newLaunch s cap p)

/-- Waiting capsule w placed on plat p. -/
def placeWaiting (w p : Nat) (s : State) : State :=
  match s.waitList[w]? with
  | some cap => if mayPlace s cap p then placeOn { s with waitList := s.waitList.eraseIdx w } cap p else s
  | none => s

/-- R7: PLACEMENT. -/
def execPlacement (w plat : Nat) (s : State) : Host.Outcome State Fault Refusal := event (placeWaiting w plat) s

/-! ## Checks of extent loading (R147, R149, R153 to R155) -/

/-- Is every page from lo to hi within a range of the grant of its kind, with rights as wide (R147)? Each turn follows the
range that reaches furthest; the fuel is the count of ranges. -/
def covered (ranges : List (Nat × Nat × BitVec 4 × Bool)) (host : Bool) (rights : BitVec 4) (hi : Nat) : Nat → Nat → Bool
  | 0, lo => decide (hi ≤ lo)
  | n + 1, lo =>
    if hi ≤ lo then true
    else
      let ends := ranges.filterMap fun r =>
        if r.2.2.2 == host && rights &&& ~~~r.2.2.1 == 0 && decide (r.1 ≤ lo) && decide (lo < r.1 + r.2.1) then some (r.1 + r.2.1)
        else none
      let far := ends.foldl max lo
      if far = lo then false else covered ranges host rights hi n far

/-- Does an entry fail the checks that it is subject to by itself? -/
def entryBad (cap : Capsule) (e : Extent) (k : Nat) : Bool :=
  (if e.inh then e.base != 0 || e.len != 0 || e.owner != 0 || e.carry || e.spill || e.host
   else
     e.base % 4096 != 0 || e.len == 0 || e.len % 4096 != 0 || e.owner != cap.grantOwner ||
     !covered cap.ranges e.host e.rights (e.base + e.len) 17 e.base) ||
  (e.spill && (!cap.preempt || k != cap.spillx))

/-- Does entry k, whose range in force is f, clash with a lower entry? -/
def entryClash (cap : Capsule) (es : List Extent) (k : Nat) : Bool :=
  let e := tableAt cap.extents k
  let f := tableAt es k
  (upFrom 0 k).any fun j =>
    let d := tableAt cap.extents j
    let g := tableAt es j
    !d.empty && ((f.host == g.host && overlaps f.base f.len g.base g.len && (f.rights.getLsbD 1 || g.rights.getLsbD 1)) ||
      (e.carry && d.carry && e.onward == d.onward) || (e.inh && d.inh && e.from' == d.from'))

/-- Is entry k refused at order 6? -/
def slotRefused (cap : Capsule) (es : List Extent) (k : Nat) : Bool :=
  let e := tableAt cap.extents k
  let f := tableAt es k
  (!e.empty && (entryBad cap e k || entryClash cap es k)) ||
  (k == cap.codex && (!f.rights.getLsbD 2 || decide (f.len < 1024 + 8 * cap.codelen))) ||
  (cap.preempt && k == cap.spillx && !(e.spill && e.rights.getLsbD 0 && e.rights.getLsbD 1 && !e.host && e.keep))

/-- K, E and G of R153. -/
def keptRegions (cap : Capsule) : List (Nat × Nat) :=
  ((upFrom 0 16).filter fun r => cap.regionKind r == 1 || cap.regionKind r == 2 || cap.regionKind r == 5).map fun r =>
    (cap.regionBase r, cap.regionLen r)
def keptBytes (cap : Capsule) : Nat := (keptRegions cap).foldl (fun a r => a + r.2) 0
def feBytes (cap : Capsule) : Nat := 8 * ((keptBytes cap + 511) / 512)

/-- The bytes of one core in the spill extent. -/
def coreBytes (cap : Capsule) : Nat := 512 + keptBytes cap + feBytes cap + cap.ring.2

/-- The spill size S (R153). -/
def spillSize (cap : Capsule) : Nat := (4096 + cap.w * cap.h * 8 * coreBytes cap + 4096 + 8355840 + 4095) / 4096 * 4096

/-- The LEN that a spill extent needs (R153, R155). -/
def spillNeeds (cap : Capsule) : Nat :=
  match cap.origin with
  | .queue _ _ _ _ => spillSize cap
  | _ => spillSize cap + 8192

/-- The words of the spill header and the digest over the rest of the spill (R346). -/
def spillHeaderWord (s : State) (e : Extent) (i : Nat) : Nat := leValue (extentBytes s e (8 * i) 8)
def spillDigestOf (s : State) (cap : Capsule) (e : Extent) : BitVec 256 :=
  digestOf (shake256 (extentBytes s e 0 8 ++ extentBytes s e 48 8 ++ extentBytes s e 4096 (spillSize cap - 4096)))

/-- The 256-bit value of four words. -/
def fourWords (f : Nat → Nat) : Nat := (upFrom 0 4).foldr (fun i a => f i + 2 ^ 64 * a) 0

/-- Is the spill header of a residue refused (R154)? -/
def residueRefused (s : State) (cap : Capsule) (e : Extent) : Bool :=
  let d := fourWords fun i => cap.word (25 + i)
  fourWords (fun i => spillHeaderWord s e (1 + i)) != d || (spillDigestOf s cap e).toNat != d ||
  spillHeaderWord s e 0 != cap.word 24 || spillHeaderWord s e 5 % 2 == 1

/-- The checks from order 6 onward, in the order of R149, on a capsule with its table in force and its code image. -/
def loadRefused (s : State) (cap : Capsule) (es : List Extent) (bs : List Byte) : Option (BitVec 16 × BitVec 12) :=
  let hs := (upFrom 0 64).map fun c => (c, readHandler cap bs c)
  match (upFrom 0 64).find? (slotRefused cap es) with
  | some k => some (codeBounds, BitVec.ofNat 12 k)
  | none =>
    if cap.preempt && decide ((tableAt es cap.spillx).len < spillNeeds cap) then some (codeBounds, BitVec.ofNat 12 cap.spillx)
    else if digestOf (shake256 bs) ≠ cap.codeId then some (codeSeal, 0x002)
    else
      match (upFrom 0 64).find? (recordBad cap bs), hs.find? (fun x => windowBad cap x.2), hs.find? (fun x => relocatedBad cap x.2) with
      | some c, _, _ => some (codeReserved, 0x200 + BitVec.ofNat 12 c)
      | none, some x, _ => some (codeBounds, 0x140 + BitVec.ofNat 12 x.1)
      | none, none, some _ => some (codeBounds, 0x102)
      | none, none, none =>
        if recordBits bs cap.startch 0 23 1 = 0 then some (codeReserved, 7)
        else if cap.residue && residueRefused s cap (tableAt es cap.spillx) then some (codeSeal, 0x004)
        else none

/-! ## Loading (R38, R145, R147) -/

/-- The checker entries of a channel core: each extent that is loaded with some right (R146) and a page there, with an inherited
cursor (R151). -/
def loadCheckers (cap : Capsule) (es : List Extent) (h : Nat) : SMap Checker :=
  (upFrom 0 64).filterMap fun k =>
    let e := tableAt es k
    if e.on (h - Config.nCompute) && e.rights != 0 then
      let cursor := match cap.inherited.find? fun i => i.1 == k with
        | some i => ((i.2.2.find? fun x => x.1 == h).map fun x => x.2.cursor).getD 0
        | none => 0
      some (k, ⟨true, e.rights, cursor⟩)
    else none

/-- A context loaded: masks and, on a channel or gateway core, the argument block and the checkers. -/
def loadCtx (cap : Capsule) (es : List Extent) (masks : Word) (h : Nat) (c : Ctx) : Ctx :=
  if isCompute h then { c with masks := masks }
  else
    { c with
      masks := masks
      scratch := Memory.writeBytes c.scratch 0 cap.args
      checkers := if isChannel h then loadCheckers cap es h else [] }

/-- Every context of launch L loaded. -/
def loadContexts (cap : Capsule) (es : List Extent) (masks : Word) (L : Nat) (s : State) : State :=
  (s.harts.filter fun x => x.2.hasCtx L).foldl (fun t x => putCtx t x.1 (loadCtx cap es masks x.1 (ctxOf t x.1 L))) s

/-! ## Starting (R156, R329) -/

/-- The header of a start on an entry: an active message of LEN 0 with the placement engine's stamp. -/
def startHeader (chan : Nat) : Word :=
  BitVec.ofNat 6 chan ++ (0 : BitVec 2) ++ (0 : BitVec 4) ++ (1 : BitVec 4) ++ mkStamp 0 placer 0

/-- A start message put into the mesh for core h. -/
def startMessage (L chan : Nat) (s : State) (h : Nat) : State :=
  { s with
    nextId := s.nextId + 1
    net := s.net ++ [{ id := s.nextId, src := { hart := placer, launch := L, slot := 0, act := 0 }
                       op := .msg h (startHeader chan) [], prior := [], since := s.cycle }] }

/-- The cores that start messages go to: every core or the origin core; of a pair, the leader takes activations (R198). -/
def startCores (cap : Capsule) (P : PlatEntry) : List Nat :=
  (if cap.startall then P.cores else P.cores.take 1).filter fun h => !(cap.paired && h % 2 == 1)

/-- The loader and storer entries of a launch made runnable on channel core h. -/
def startEntries (L : Nat) (l : Launch) (s : State) (h : Nat) : State :=
  let chans := [l.cap.loadch, l.cap.storech].eraseDups.filter fun c => (l.handler c).isSome
  select (chans.foldl (fun t c => (spill t h L (startHeader c) [] .ready).getD t) s) h

/-- Launch L begins to run: its plat is RUNNING, start messages go out unless it resumes (R154), and its loader and storer
entries are runnable. A launch that has been cancelled selects none of them (R17), and its plat then goes to QUIESCING (R178; log
64). -/
def startLaunch (s : State) (L : Nat) : State :=
  match launchOf s L with
  | none => s
  | some l =>
    let P := platOf s l.plat
    let t := putPlat { s with gzChanged := true } l.plat { P with state := .running }
    let u := if l.cap.residue then t else (startCores l.cap P).foldl (startMessage L l.cap.startch) t
    ((u.harts.filter fun x => isChannel x.1 && x.2.hasCtx L).map (·.1)).foldl (startEntries L l) u

/-! ## Extent loading -/

/-- Launch L with its extents, handlers and code loaded. RESUMED of a residue is written before anything is restored
(R154). -/
def loadLaunch (s : State) (L : Nat) (l : Launch) (es : List Extent) (bs : List Byte) : State :=
  let chain := match residueOrigin s l.cap with
    | some o => o.chain
    | none => l.cap.replaces
  let l1 : Launch :=
    { l with
      cap := { l.cap with replaces := chain }
      loaded := true, handlers := readHandlers l.cap bs, code := readCode l.cap bs, extents := es }
  let t := loadContexts l.cap es (readMasks bs) L (putLaunch s L l1)
  if l.cap.residue then
    extentWrite t (tableAt es l.cap.spillx) 40 (leBytes (spillHeaderWord t (tableAt es l.cap.spillx) 5 / 2 * 2 + 1) 8)
      (platOf t l.plat).tag
  else startLaunch t L

/-- The extents of the launch on a plat checked and loaded. -/
def loadExtents (plat : Nat) (s : State) : State :=
  let P := platOf s plat
  match P.launch with
  | none => s
  | some L =>
    match launchOf s L with
    | none => s
    | some l =>
      if P.state = .placing ∧ l.loaded = false then
        let es := l.cap.table
        let bs := codeImage s l.cap
        match loadRefused s l.cap es bs with
        | some x => endLogged s L x.1 x.2 .zeroing
        | none => loadLaunch s L l es bs
      else s

/-- R147: EXTENT_LOADING. -/
def execExtentLoading (plat : Nat) (s : State) : Host.Outcome State Fault Refusal := event (loadExtents plat) s

end Sys2Proof.Machine
end

