-- ==== Sys2Proof/Machine/System.lean ====
section
/-! DEFINITION. System words: status registers, resuming from a trap, failing, chaining and launching, masks, cancels,
digests and fingerprints, and the cycle budget (spec/18 R306 to R312, spec/02 R32, spec/11 R192). -/

namespace Sys2Proof.Machine

/-! ## Status registers (R32, R306) -/

/-- Is a number in the table of R32? -/
def regKnown (n : Nat) : Bool :=
  n == 0 || n == 1 || n == 2 || n == 0x10 || n == 0x11 || n == 0x12 || (decide (0x20 ≤ n) && decide (n ≤ 0x2f)) ||
  (decide (0x40 ≤ n) && decide (n ≤ 0x44)) || (decide (0x80 ≤ n) && decide (n ≤ 0xc0)) || n == 0xc4 || n == 0xc5

/-- Does a hart hold the register? -/
def regHeld (h n : Nat) : Bool :=
  if 0x80 ≤ n ∧ n ≤ 0xbf then isChannel h
  else if n = 0xc0 then isGateway h
  else if n = 0xc4 ∨ n = 0xc5 then !isGateway h
  else true

/-- cid of a compute core (R30). -/
def cidOf (h : Nat) : Word := BitVec.ofNat 64 (h + clusterOfCore h * 2 ^ 20 + posInCluster h * 2 ^ 37)

/-- platid of the plat of a launch (R30). -/
def platidOf (s : State) (L : Nat) : Word :=
  let P := platOfLaunch s L
  BitVec.ofNat 64 (P.x4 + P.y2 * 2 ^ 10 + P.w * 2 ^ 20 + P.h * 2 ^ 30 + P.tag.toNat * 2 ^ 40)

/-- A checker entry (R38). -/
def Checker.word (c : Checker) : Word :=
  BitVec.ofNat 64 ((if c.valid then 2 ^ 63 else 0) + c.rights.toNat * 2 ^ 59 + c.cursor)

/-- gwst of a gateway core (R38). -/
def Hart.gwst (H : Hart) : Word :=
  BitVec.ofNat 64 ((if H.aligned then 1 else 0) + (if H.fallback then 2 else 0) + H.xtick.toNat * 2 ^ 32)

/-- orcst of a unit (R39). -/
def OrUnit.orcst (u : OrUnit) : Word := BitVec.ofNat 64 ((if u.regime then 1 else 0) + u.lines.length * 2 ^ 8)

/-- The value of a status register of the current slot. The cluster fields of cid are not stated for a core outside the
mesh (log 4). -/
def readStatus (s : State) (n : Nat) : Word :=
  let σ := curSlot s
  let h := curHart s
  let c := curCtx s
  if n = 0 then σ.ast
  else if n = 1 then σ.est
  else if n = 2 then σ.swp.zeroExtend 64
  else if n = 0x10 then σ.tcause.zeroExtend 64
  else if n = 0x11 then σ.taddr
  else if n = 0x12 then σ.tpc.zeroExtend 64
  else if 0x20 ≤ n ∧ n ≤ 0x2f then σ.tsb[(n - 0x20) % 16]'(Nat.mod_lt _ (by decide))
  else if n = 0x40 then
    if isCompute h then cidOf h else (Config.freeWord h &&& 0xfffff00000) ||| BitVec.ofNat 64 h
  else if n = 0x41 then platidOf s (curLaunch s)
  else if n = 0x42 then c.ply.zeroExtend 64
  else if n = 0x43 then BitVec.ofNat 64 (c.sseq % 4096)
  else if n = 0x44 then (hartOf s h).fpr
  else if n = 0xc0 then (hartOf s h).gwst
  else if n = 0xc4 then c.unit.swm.zeroExtend 64
  else if n = 0xc5 then c.unit.orcst
  else (SMap.getD c.checkers (n - 0x80) ⟨false, 0, 0⟩).word

/-- The checks of R32 before an access. -/
def statusCheck (num : BitVec 12) (ro : Bool) : Op Unit := do
  let n := num.toNat
  stopIf (!regKnown n) (trapAt codeIllegal num 0)
  stopIf (!regHeld (curHart (← get)) n) (trapAt codeSpace num 0)
  stopIf (ro) (trapAt codeReserved num 0)

/-- An access to an E-side register waits for the E-side to retire the words of earlier bundles (R26). Which registers are the E-side
half of the trap state is not listed: DESIGN CHOICE, est alone, with its FMTSAVE and PP (log 82). -/
def waitEarlier (n : Nat) : Op Unit := do
  stopIf (n = 1 ∧ !(← getSlot).path.isEmpty) (waitFor .eEarlier)

/-- sys.rdsr. -/
def rdsrOp (d : ADst) (num : BitVec 12) : Op Unit := do
  statusCheck num false
  waitEarlier num.toNat
  let s ← get
  writeA d (readStatus s num.toNat)

/-- R306: sys.rdsr. -/
def execSysRdsr (d : ADst) (num : BitVec 12) (s : State) : Host.Outcome State Fault Refusal := plainA (rdsrOp d num) s

/-- Is a register RO to sys.wrsr at this moment? -/
def regRO (inTrap : Bool) (n : Nat) : Bool :=
  if n = 0 ∨ n = 1 then false
  else if n = 2 ∨ n = 0x10 ∨ n = 0x11 ∨ n = 0x12 then !inTrap
  else true

/-- The slot with the RW fields of a register written; a write of tpc discards the slip record (R305). -/
def Slot.writeStatus (σ : Slot) (n : Nat) (w : Word) : Slot :=
  if n = 0 then σ.setAst w
  else if n = 1 then σ.setEst w
  else if n = 2 then { σ with swp := w.extractLsb' 0 18 }
  else if n = 0x10 then { σ with tcause := w.extractLsb' 0 32 &&& 0xffff8fff }
  else if n = 0x11 then { σ with taddr := w }
  else if n = 0x12 then { σ with tpc := w.extractLsb' 0 13, slip := none }
  else σ

/-- sys.wrsr. Whether S is read before the number is checked is not stated: DESIGN CHOICE, it is, so that a pop that has to wait
waits first (log 67). -/
def wrsrOp (x : ASrc) (num : BitVec 12) : Op Unit := do
  let w ← readA x
  let σ ← getSlot
  statusCheck num (regRO σ.inTrap num.toNat)
  waitEarlier num.toNat
  modSlot fun τ => τ.writeStatus num.toNat w
  noteResult w

/-- R306: sys.wrsr. -/
def execSysWrsr (x : ASrc) (num : BitVec 12) (s : State) : Host.Outcome State Fault Refusal := plainA (wrsrOp x num) s

/-! ## Resuming from a trap (R307, R308) -/

/-- The scoreboard of an issuer's slot with some entries changed. -/
def mapSb (s : State) (src : Issuer) (f : SbEntry → SbEntry) : State :=
  let σ := slotOf s src.hart src.slot
  putSlot s src.hart src.slot { σ with sb := σ.sb.map f }

/-- An entry settled by redo: a refused operation is issued again with its original operands or stamp, ordered as if it were issued
now; an operation in flight goes on; and a held pop comes first, from its byte 0 (R104, R308). The two entries of an append that
requests a reply stand for one operation, which is sent once. -/
def redoEntry (s : State) (src : Issuer) (e : SbEntry) : State :=
  if e.kind = 1 then
    mapSb s src fun x => if x.id == e.id then { x with held := x.held.map fun p => { p with armed := true, delivered := 0 } } else x
  else
    match e.refused, e.item, e.outOp with
    | true, some it, some o =>
      let t := mapSb s src fun x => if (x.item.map (·.id)) == some it.id then { x with refused := false } else x
      let u := reissue (dropCopy t src.hart it.id) it o
      match it.op with
      | .load _ _ _ _ | .amo _ _ _ _ | .maxrd _ _ _ | .orcLdt _ | .orcLds _ _ | .extLoad _ _ _ => u
      | _ => keepCopy u it
    | _, _, _ => s

/-- Is there no room for the value that complete-with-value puts in a queue (R101)? -/
def Slot.heldFull (σ : Slot) : HeldDst → Option Wait
  | .sq q => if 16 ≤ σ.sq[q].length then some (.pushSq q) else none
  | .cq => if 8 ≤ σ.cq.length then some .pushCq else none
  | _ => none

/-- The value of complete-with-value delivered to the destination of a held pop. -/
def Slot.putHeld (σ : Slot) (d : HeldDst) (v : Word) : Slot :=
  match d with
  | .v n => { σ with v := σ.v.set n (v.zeroExtend 512) }
  | .e n => { σ with e := σ.e.set n v }
  | .p n => σ.setPred n v
  | .sq q => { σ with sq := σ.sq.set q (σ.sq[q] ++ [⟨v.zeroExtend 512, 4⟩]) }
  | .cq => { σ with cq := σ.cq ++ [v] }
  | .z => σ

/-- An entry settled by complete-with-value: DEST takes the value. -/
def completeEntry (s : State) (src : Issuer) (e : SbEntry) (v : Word) : State :=
  let σ := slotOf s src.hart src.slot
  match e.held with
  | some p => putSlot s src.hart src.slot ((σ.putHeld p.dest v).dropEntry e.id)
  | none =>
    if e.kind = 3 ∨ e.kind = 6 then discardEntry s src e
    else
      let σ1 := match e.dst with
        | some d => σ.deliver e.id d v (entryOf v)
        | none => σ
      let t := addGone (putSlot s src.hart src.slot ((σ1.unreserve e.id).dropEntry e.id)) src e
      if e.kind = 4 then dropOut t src.hart e.id else t

/-- tsb entry k cleared. -/
def clearTsb (k : Fin 16) : Op Unit := modSlot fun σ => { σ with tsb := σ.tsb.set k 0 }

/-- The live entry that a valid tsb entry stands for, if its operation has not completed. -/
def Slot.liveTsb (σ : Slot) (k : Fin 16) : Option SbEntry :=
  if σ.tsb[k].getLsbD 63 then (σ.tsbIds[k.val]?).bind fun id => σ.sb.find? fun e => e.id == id else none

/-- A valid tsb entry settled by an action on its live entry; where the operation has completed, only tsb is cleared. -/
def settleTsb (k : Fin 16) (act : State → Issuer → SbEntry → State) : Op Unit := do
  let σ ← getSlot
  match σ.liveTsb k with
  | some e => modState fun s => act s (curIssuer s) e
  | none => pure ()
  if σ.tsb[k].getLsbD 63 then clearTsb k

/-- The S operand of sys.resume checked: outside a handler, and with reserved bits, it faults. -/
def resumeWord (x y : ASrc) : Op (Fin 16 × Word) := do
  let w ← readA x
  let v ← readA y
  stopIf (!(← getSlot).inTrap) (trapAt codeQueueMisuse 0x050 0)
  stopIf (w.toNat / 2 ^ 8 ≠ 0 ∨ w.extractLsb' 2 2 ≠ 0) (trapAt codeReserved 0x0f2 0)
  return (Fin.ofNat 16 (w.toNat / 16), v)

/-- R308: sys.resume with ACT 1, redo. -/
def execSysResumeRedo (x y : ASrc) (s : State) : Host.Outcome State Fault Refusal :=
  plainA (do
    let r ← resumeWord x y
    settleTsb r.1 redoEntry) s
/-- R308: sys.resume with ACT 2, discard. -/
def execSysResumeDiscard (x y : ASrc) (s : State) : Host.Outcome State Fault Refusal :=
  plainA (do
    let r ← resumeWord x y
    settleTsb r.1 discardEntry) s
/-- R308: sys.resume with ACT 3, complete with the value of T. -/
def execSysResumeComplete (x y : ASrc) (s : State) : Host.Outcome State Fault Refusal :=
  plainA (do
    let r ← resumeWord x y
    let σ ← getSlot
    stopSome (((σ.liveTsb r.1).bind (·.held)).bind fun p => σ.heldFull p.dest) waitFor
    settleTsb r.1 fun s src e => completeEntry s src e r.2) s

/-- Every valid tsb entry redone, in issue order. -/
def redoAll : List (Fin 16) → Op Unit
  | [] => return ()
  | k :: ks => do
    settleTsb k redoEntry
    redoAll ks

/-- The return of ACT 0. A target outside the code window is a new trap, with INTRAP already 0 (R307). -/
def returnOp (x y : ASrc) : Op Flow := do
  let _ ← resumeWord x y
  let σ ← getSlot
  stopIf (!(σ.path.isEmpty && σ.eDone)) (waitFor .eSide)
  stopIf (64 ≤ σ.bq.length) (waitFor .branchFull)
  redoAll [0, 1, 2, 3, 4, 5, 6, 7, 8, 9, 10, 11, 12, 13, 14, 15]
  modSlot fun τ => τ.leaveTrap
  modState fun u => countBundle (curHart u) (curNum u) false u
  let s ← get
  let t := σ.tpc.toNat
  if codeLen s (curLaunch s) ≤ t then do
    modState fun u => trapEntry u (curHart u) (curNum u) .aSide ⟨codeCodeEnd, 0x002, BitVec.ofNat 64 t⟩
    modSlot fun τ => if τ.inTrap then { τ with tpc := σ.tpc } else τ
  return .stay

/-- R307: sys.resume with ACT 0, return. -/
def execSysResumeReturn (x y : ASrc) (s : State) : Host.Outcome State Fault Refusal := wordA false .none (returnOp x y) s

/-! ## Failing (R310) -/

/-- Is it a grade-3 code of R184? -/
def isProgramCode (c : BitVec 16) : Bool := decide (0x6001 ≤ c.toNat) && decide (c.toNat ≤ 0x6011)

/-- The late faults that wait in the slots of a launch, but for those of slot n of core h, with their cores. -/
def lateOf (s : State) (L h n : Nat) : List (Nat × FaultInfo) :=
  s.harts.flatMap fun p => (upFrom 0 8).flatMap fun k =>
    let σ := p.2.slot k
    if σ.running && σ.ctx == L && !(p.1 == h && k == n) then σ.late.map fun x => (p.1, x.2) else []

/-- A record entered as the newest, after another of its cycle whatever their codes (R314). -/
def logAfter (p : Nat) (tag : BitVec 16) (s : State) (x : Nat × FaultInfo) : State :=
  let r : FaultRec := ⟨x.2.code, x.2.detail, Config.time1588 s.cycle, p, tag, x.1, x.2.addr, s.cycle, none⟩
  { s with faultLog := (r :: s.faultLog).take 64, gzChanged := true }

/-- The plat of launch L killed by sys.fail on slot n of core h; the late faults that other slots hold are logged after it. -/
def failKill (s : State) (L h n : Nat) (f : FaultInfo) : State :=
  match launchOf s L with
  | some l => (lateOf s L h n).foldl (logAfter l.plat (platOf s l.plat).tag) (killLaunch s L h f)
  | none => s

/-- sys.fail. -/
def failOp (x : ASrc) : Op Flow := do
  let w ← readA x
  let σ ← getSlot
  let code := w.extractLsb' 16 16
  let ok := isProgramCode code || (σ.inTrap && code == σ.tcause.extractLsb' 16 16)
  let f : FaultInfo := if ok then ⟨code, w.extractLsb' 0 12, 0⟩ else ⟨codeReserved, 0x0f0, 0⟩
  modState fun s => failKill s (curLaunch s) (curHart s) (curNum s) f
  return .stay

/-- R310: sys.fail. -/
def execSysFail (x : ASrc) (s : State) : Host.Outcome State Fault Refusal := wordA false .none (failOp x) s

/-! ## Chaining and launching (R311) -/

/-- The image that sys.chain and sys.launch name: its bytes, read through the checkers. No header's length is above 0x299f, so of
a longer image no more is read. -/
def readImage (p len : Word) : Op (List Byte) := do
  let s ← get
  let n := min len.toNat 0x299f
  stopIf (spaceOf p ≠ 4 ∨ p.toNat % 2 ^ 54 / 2 ^ 48 ≠ 0) (trapAt codeSpace (BitVec.ofNat 12 (spaceOf p)) p)
  stopIf (extOff p % 64 ≠ 0) (trapAt codeAlign 4 p)
  match extentOf s (curLaunch s) p with
  | none => trapAt codeBounds 0x0b4 p
  | some e => do
    stopIf (e.len < extOff p + n ∨ e.rights.getLsbD 0 = false) (trapAt codeBounds 0x0b4 p)
    stopIf (extentPoisoned s e (extOff p) n) (trapFree codeUncorrectable p)
    modState fun t => extentTouch t e (extOff p)
    return extentBytes s e (extOff p) n

/-- The checks on an image of a length as part of a word: a failure is precise. -/
def admitOp (bs : List Byte) (len : Nat) (o : Origin) : Op Capsule := fun s =>
  match admitImage s bs len o with
  | .ok (c, t) => .ok (c, t)
  | .error (code, d) => .error (.trap ⟨code, d, 0⟩ none)

/-- The checks of sys.chain: orders 2 to 5, then those of R151. -/
def chainCheck (bs : List Byte) (len : Nat) (l : Launch) : Op Capsule := do
  let cap ← admitOp bs len (.launchBy l.cap.origin.rank)
  stopSome (chainRefused l bs cap) (fun d => trapAt codeChain d 0)
  return cap

/-- The checks of sys.launch: orders 1 to 5. -/
def launchCheck (bs : List Byte) (len : Nat) (l : Launch) : Op Capsule := do
  let o : Origin := .launchBy l.cap.origin.rank
  stopIf (unplaceable (← get) (readCapsule bs o)) (trapAt codeDrain 0 0)
  admitOp bs len o

/-- The commit of sys.chain: the onward capsule is pending, and marked where it targets a drained module or plat (R16). Where a pre-emption has been requested, selections go on (R158). -/
def chainCommit (cap : Capsule) (l : Launch) (s : State) : State :=
  let t := modLaunch s (curLaunch s) fun x => markDrained s { x with pending := some cap }
  if l.preempting then (coresOf t (curLaunch t)).foldl select t else t

/-- May slot n of core h still have the checks of a sys.chain pass in this cycle: it waits in one, or stands before one? -/
def atChain (s : State) (h n : Nat) : Bool :=
  match (slotOf s h n).aWait with
  | some (.chain isLaunch _ _ _) => !isLaunch
  | some _ => false
  | none =>
    let b := ((SMap.getD (((launchOf s (slotOf s h n).ctx).map (·.code)).getD []) (slotOf s h n).pc 0 : Word)).toNat
    !isLone b && field b 25 6 == 0x1c && (match decodeSys (b % 2 ^ 32) with
      | .ok (.sysChain _ _) => true
      | _ => false)

/-- Does a sys.chain whose checks have passed wait for the end of that cycle: a slot of a lower core, or a lower slot of this one, may
have its own pass in it, and is then taken first (R314)? -/
def yieldsChain (s : State) (passed : Option Nat) : Bool :=
  passed.all (fun c => decide (s.cycle ≤ c)) &&
  s.harts.any fun p => (decide (p.1 < curHart s) || p.1 == curHart s) && (upFrom 0 8).any fun n =>
    let σ := p.2.slot n
    (decide (p.1 < curHart s) || decide (n < curNum s)) && σ.running && σ.ctx == curLaunch s && atChain s p.1 n

/-- sys.chain and sys.launch: a fence at module scope, then the image and its checks, and the commit, which waits for room in the
wait list: the chain is pending, or an independent capsule waits for a plat. -/
def presentOp (isLaunch : Bool) (x y : ASrc) (passed : Option Nat) : Op Unit := do
  pushBytes .module
  let s ← get
  stopIf (!fenceDone s (curHart s) (curNum s) .module) (waitWith (.chain isLaunch x y passed) s)
  let p ← readA x
  let len ← readA y
  match launchOf s (curLaunch s) with
  | none => pure ()
  | some l => do
    if !l.cancelled then do
      agreeFirst
      let bs ← readImage p len
      let cap ← (if isLaunch then launchCheck bs len.toNat l else chainCheck bs len.toNat l)
      stopIf (!waitRoom s) (waitWith (.chain isLaunch x y passed) s)
      stopIf (!isLaunch && yieldsChain s passed) (waitWith (.chain isLaunch x y (some (passed.getD s.cycle))) s)
      modState fun t => if isLaunch then enterWait t cap else chainCommit cap l t

/-- R311: sys.chain. -/
def execSysChain (x y : ASrc) (s : State) : Host.Outcome State Fault Refusal := plainA (presentOp false x y none) s
/-- R311: sys.launch. -/
def execSysLaunch (x y : ASrc) (s : State) : Host.Outcome State Fault Refusal := plainA (presentOp true x y none) s

/-- R311: a waiting sys.chain or sys.launch goes on. -/
def commitChain (h n : Nat) (s : State) : State :=
  let σ := slotOf s h n
  match slotRuns s h n && σ.late.isEmpty, σ.aWait with
  | true, some (.chain isLaunch x y passed) => asSlot h n (stepA false .none (do presentOp isLaunch x y passed; return .next)) s
  | _, _ => s

/-- R311: SYS_CHAIN_COMMIT. -/
def execSysChainCommit (h n : Nat) (s : State) : Host.Outcome State Fault Refusal := event (commitChain h n) s

/-! ## Masks, cancels, digests and fingerprints (R312) -/

/-- sys.chmask. -/
def chmaskOp (x y : ASrc) : Op Unit := do
  let w ← readA x
  let m ← readA y
  let s ← get
  let ch := (w.extractLsb' 0 6).toNat
  let known := ((launchOf s (curLaunch s)).bind fun l => l.handler ch).isSome
  stopIf (w.toNat / 2 ^ 6 ≠ 0 ∨ m.toNat / 2 ≠ 0 ∨ ch = 63 ∨ known = false) (trapAt codeReserved 0x0f1 0)
  unlessLater ch fun t =>
    let c := curCtx t
    let bit : Word := BitVec.ofNat 64 (2 ^ ch)
    let u := putCurCtx t { c with masks := if m.getLsbD 0 then c.masks ||| bit else c.masks &&& ~~~bit }
    if m.getLsbD 0 then u else select u (curHart u)

/-- R312: sys.chmask. -/
def execSysChmask (x y : ASrc) (s : State) : Host.Outcome State Fault Refusal := plainA (chmaskOp x y) s

/-- sys.cancel. -/
def cancelOp (x : ASrc) : Op Unit := do
  let w ← readA x
  let s ← get
  let k := (w.extractLsb' 0 12).toNat
  stopIf (w.toNat / 2 ^ 12 ≠ 0) (trapAt codeReserved 0x0f3 0)
  stopIf (k ≠ 0 ∧ (curCap s).all (fun c => !c.names k)) (trapAt codeCapability 0x001 0)
  modState fun t => cancelCounter t k

/-- R312: sys.cancel. -/
def execSysCancel (x : ASrc) (s : State) : Host.Outcome State Fault Refusal := plainA (cancelOp x) s

/-- Is a step number above the previous post in 32-bit serial order? -/
def stepAbove (last : Option (BitVec 32)) (n : BitVec 32) : Bool :=
  match last with
  | some m => decide (1 ≤ (n - m).toNat) && decide ((n - m).toNat < 2 ^ 31)
  | none => true

/-- sys.digest. A module without a replica discards the digest. -/
def digestOp (x y : ASrc) : Op Unit := do
  let p ← readA x
  let t ← readA y
  let off ← ownOffset p 32 0x020
  let s ← get
  let step := t.extractLsb' 0 32
  match launchOf s (curLaunch s) with
  | none => pure ()
  | some l => do
    stopIf (!stepAbove l.lastDigest step) (trapAt codeQueueMisuse 0x051 0)
    inOrder { kinds := [.ld], scope := .core, sc := false, loc := ⟨curHart s, off, 32⟩, space2 := spaceOf p == 2 }
    let bs ← ownBytesAt off 32
    modState fun u => modLaunch u (curLaunch u) fun l =>
      { l with lastDigest := some step, digests := if u.replicated then l.digests ++ [(step, digestOf bs, u.cycle)] else l.digests }

/-- R312: sys.digest. -/
def execSysDigest (x y : ASrc) (s : State) : Host.Outcome State Fault Refusal := plainA (digestOp x y) s

/-- R312: sys.fpt. -/
def execSysFpt (s : State) : Host.Outcome State Fault Refusal :=
  plainA (modState fun t =>
    if (curSlot t).paired then putHart t (curHart t) { hartOf t (curHart t) with fptForced := true } else t) s

/-! ## The cycle budget (R23, R192) -/

/-- A slot with its budget counted up to a cycle: one unit for each 1,024 cycles since the start of its activation, and none below
zero (R192). -/
def Slot.countTo (cycle : Nat) (σ : Slot) : Slot :=
  let n := min ((cycle - σ.startCycle) / 1024 - σ.ticks) σ.budleft.toNat
  if σ.running then { σ with budleft := σ.budleft - BitVec.ofNat 12 n, ticks := σ.ticks + n } else σ

/-- The budget of slot n counted, but for a paired self-test, during which it pauses (R192, R201). -/
def tickBudget (h n : Nat) (s : State) : State :=
  if h < Config.nHarts ∧ n < 8 ∧ (hartOf s h).selftest = false then putSlot s h n ((slotOf s h n).countTo s.cycle) else s

/-- Every budget counted, as time has passed. -/
def countBudgets (s : State) : State :=
  { s with harts := s.harts.map fun x => (x.1, if x.2.selftest then x.2 else { x.2 with slots := x.2.slots.map (Slot.countTo s.cycle) }) }

/-- R23: BUDGET_TICK. -/
def execBudgetTick (h n : Nat) (s : State) : Host.Outcome State Fault Refusal := event (tickBudget h n) s

/-- The launch of slot n killed by BUDGET, if its budget is used up while its activation runs. -/
def endBudget (h n : Nat) (s : State) : State :=
  let σ := slotOf s h n
  if slotRuns s h n && σ.budleft == 0 then
    killLaunch { s with fresh := s.fresh + 1 } σ.ctx h ⟨codeBudget, Config.freeDetail s.fresh, 0⟩
  else s

/-- R192: BUDGET_EXHAUSTED. -/
def execBudgetExhausted (h n : Nat) (s : State) : Host.Outcome State Fault Refusal := event (endBudget h n) s

/-- The slots whose budget was used up in an earlier cycle: an activation that ends in that very cycle completes (R41, R192). -/
def overBudget (s : State) : List (Nat × Nat) :=
  s.harts.flatMap fun x => ((upFrom 0 8).filter fun n =>
    let σ := x.2.slot n
    σ.running && !x.2.selftest && decide (σ.startCycle + 1024 * (σ.ticks + σ.budleft.toNat) < s.cycle)).map fun n => (x.1, n)

/-- The launches ended whose budget was used up before this cycle, every budget being counted. -/
def endBudgets (s : State) : State := (overBudget (countBudgets s)).foldl (fun t p => endBudget p.1 p.2 t) (countBudgets s)

/-- The slots that a late fault has met in their trap handlers in an earlier cycle. -/
def handlerFaults (s : State) : List (Nat × Nat) :=
  s.harts.flatMap fun x => ((upFrom 0 8).filter fun n => ((x.2.slot n).handlerFault s.cycle).isSome).map fun n => (x.1, n)

/-- Time taken into account: the budgets, and the late faults that trap handlers have met. -/
def passTime (s : State) : State := (handlerFaults (endBudgets s)).foldl (fun t p => endHandlerFault p.1 p.2 t) (endBudgets s)

end Sys2Proof.Machine
end

