-- ==== Sys2Proof/Machine/Survey.lean ====
section
/-! DEFINITION. The survey firmware and the host: BAR0 registers, drain, the survey command ring, the gazetteer, plat
definitions, retirements, grade 4 and boot (spec/02 R18 R40, spec/08 R148, spec/10 R177 to R186). -/

namespace Sys2Proof.Machine

/-! ## BAR0 (R40, R188) -/

/-- mstat. -/
def State.mstat (s : State) : Word :=
  BitVec.ofNat 64 ((if s.ready then 1 else 0) + (if s.drain then 2 else 0) + (if s.outOfService then 4 else 0) + s.grade4.toNat * 2 ^ 16)

/-- Word j of counter c as the host reads it (R188). -/
def counterWord (s : State) (c j : Nat) : Word :=
  let k := counterOf s c
  if j = 0 then BitVec.ofNat 64 (k.ended.toNat * 2 ^ 32 + k.done.toNat)
  else BitVec.ofNat 64 (k.live % 2 ^ 13 * 2 ^ 32 + (if k.cxl then 2 ^ 16 else 0) + k.last.toNat)

/-- What the host reads at an offset of BAR0; an unoccupied one reads as zero. -/
def hostRegister (s : State) (off : Nat) : Word :=
  if off = 0 then s.mstat
  else if off = 8 then s.gzbase
  else if off = 0x10 then s.gzed
  else if 0x10000 ≤ off ∧ off < 0x20000 ∧ off % 8 = 0 then counterWord s ((off - 0x10000) / 16) (off / 8 % 2)
  else 0

/-- A write of the host to BAR0; bits [11:0] of gzbase are ignored, and RO registers and unoccupied offsets ignore all. -/
def writeHostRegister (off : Nat) (val : Word) (s : State) : State :=
  if off = 8 then { s with gzbase := val &&& ~~~(0xfff : Word) }
  else if off = 0x18 then { s with doorbells := s.doorbells ++ [val] }
  else if 0x1000 ≤ off ∧ off < 0x1800 ∧ off % 8 = 0 then notifyQueue s ((off - 0x1000) / 8) (val.extractLsb' 0 32)
  else s

/-- R40: HOST_REGISTER_WRITE. -/
def execHostRegisterWrite (off : Nat) (val : BitVec 64) (s : State) : Host.Outcome State Fault Refusal :=
  event (writeHostRegister off val) s

/-! ## Drain (R180) -/

/-- An onward capsule refused if drain makes it unplaceable. -/
def drainOnward (s : State) (p : Nat × PlatEntry) : State :=
  match p.2.onward with
  | some cap =>
    if unplaceable s cap then endUnplaced (putPlat s p.1 { platOf s p.1 with onward := none }) cap codeDrain 0 else s
  | none => s

/-- Every unplaced capsule that drain makes unplaceable refused, and the pending chains marked that it does so to (R16). -/
def refuseDrained (s : State) : State :=
  let gone := s.waitList.filter (unplaceable s)
  let t := gone.foldl (fun t c => endUnplaced t c codeDrain 0) { s with waitList := s.waitList.filter fun c => !unplaceable s c }
  let u := t.plats.foldl drainOnward t
  { u with launches := u.launches.map fun x => (x.1, markDrained u x.2) }

/-! ## The survey command ring (R181) -/

/-- The eight words of the record of a doorbell. -/
def commandWords (s : State) (d : Word) : Vector Word 8 :=
  Vector.ofFn fun i => hostWord s (d.toNat / 64 * 64 + 8 * i.val)

/-- OP of a command. -/
def cmdOp (w : Vector Word 8) : Nat := (w[0].extractLsb' 0 16).toNat

/-- The bits of words 1 to 3 that a command names. -/
def cmdMask (op : Nat) : Word × Word × Word :=
  let all : Word := 0xffffffffffffffff
  match op with
  | 0x03 | 0x04 => (0x3ff, 0, 0)
  | 0x10 => (all, all, 0)
  | 0x11 => (0xffffff, all, all)
  | 0x12 => (0xffffffff, all, 0)
  | _ => (0, 0, 0)

/-- Is an OP in the table? -/
def cmdKnown (op : Nat) : Bool := (decide (1 ≤ op) && decide (op ≤ 5)) || (decide (0x10 ≤ op) && decide (op ≤ 0x12))

/-- Is the command of a doorbell one that is not performed: bits of the doorbell or reserved bits set, an unknown OP, a queue
configuration out of range, or a grant of another length? -/
def cmdInvalid (d : Word) (w : Vector Word 8) : Bool :=
  let op := cmdOp w
  let m := cmdMask op
  d.toNat % 64 != 0 || !cmdKnown op || w[0].extractLsb' 16 16 != 0 || w[4] != 0 || w[5] != 0 || w[6] != 0 ||
  w[1] &&& ~~~m.1 != 0 || w[2] &&& ~~~m.2.1 != 0 || w[3] &&& ~~~m.2.2 != 0 ||
  (op == 0x10 && w[2].toNat != 9984) ||
  (op == 0x11 && (decide ((w[1].extractLsb' 8 16).toNat < 6) || decide (16 < (w[1].extractLsb' 8 16).toNat) ||
    w[2].toNat % 64 != 0 || w[3].toNat % 8 != 0))

/-- The status written back to word 7 of a record. -/
def commandStatus (d : Word) (w : Vector Word 8) (code : BitVec 16) (detail : BitVec 12) (s : State) : State :=
  hostPut s (d.toNat / 64 * 64 + 56)
    (BitVec.ofNat 64 (code.toNat + 2 ^ 16 + detail.toNat * 2 ^ 20 + (w[0].extractLsb' 32 32).toNat * 2 ^ 32))

/-- The oldest doorbell's command performed by f, which gives the status too, if the command has the OP and is valid. -/
def command (op : Nat) (f : Vector Word 8 → State → State × BitVec 16 × BitVec 12) (s : State) : State :=
  match s.doorbells with
  | [] => s
  | d :: ds =>
    let w := commandWords s d
    if cmdInvalid d w || cmdOp w != op then s
    else
      let r := f w { s with doorbells := ds }
      commandStatus d w r.2.1 r.2.2 r.1

/-- R181: INVALID_SURVEY_COMMAND. -/
def execInvalidSurveyCommand (s : State) : Host.Outcome State Fault Refusal :=
  event (fun s =>
    match s.doorbells with
    | [] => s
    | d :: ds =>
      let w := commandWords s d
      if cmdInvalid d w then commandStatus d w codeReserved 0 { s with doorbells := ds } else s) s

/-- R180: SET_MODULE_DRAIN. -/
def execSetModuleDrain (s : State) : Host.Outcome State Fault Refusal :=
  event (command 0x01 fun _ s => (refuseDrained { s with drain := true, gzChanged := true }, 0, 0)) s
/-- R180: CLEAR_MODULE_DRAIN. -/
def execClearModuleDrain (s : State) : Host.Outcome State Fault Refusal :=
  event (command 0x02 fun _ s => ({ s with drain := false, gzChanged := true }, 0, 0)) s

/-- The plat that a command names. -/
def cmdPlat (w : Vector Word 8) : Nat := (w[1].extractLsb' 0 10).toNat

/-- Drain of a plat set or cleared; a plat that is not defined gets BOUNDS. -/
def drainPlat (on : Bool) (w : Vector Word 8) (s : State) : State × BitVec 16 × BitVec 12 :=
  let P := platOf s (cmdPlat w)
  if !P.defd then (s, codeBounds, 0)
  else
    let t := putPlat { s with gzChanged := true } (cmdPlat w) { P with drain := on }
    (if on then refuseDrained t else t, 0, 0)

/-- R180: SET_PLAT_DRAIN. -/
def execSetPlatDrain (s : State) : Host.Outcome State Fault Refusal := event (command 0x03 (drainPlat true)) s
/-- R180: CLEAR_PLAT_DRAIN. -/
def execClearPlatDrain (s : State) : Host.Outcome State Fault Refusal := event (command 0x04 (drainPlat false)) s

/-- A grant read and checked (R148): orders 0x002 to 0x006; one that passes is registered once. -/
def registerGrant (w : Vector Word 8) (s : State) : State × BitVec 16 × BitVec 12 :=
  let g := hostBytes s w[1].toNat 9984
  match grantSigned (Config.operatorRootOf s.measured) g with
  | some d => (s, codeGrant, d)
  | none =>
    if serialRevoked s (grantOwnerOf g) (grantSerial g) then (s, codeGrant, 0x005)
    else if !rangesOk g then (s, codeGrant, 0x006)
    else
      let d := digestOf (shake256 g)
      ({ s with grants := s.grants.filter (fun x => x.digest != d) ++ [⟨d, g⟩] }, 0, 0)

/-- R148: REGISTER_GRANT. -/
def execRegisterGrant (s : State) : Host.Outcome State Fault Refusal := event (command 0x10 registerGrant) s

/-- A queue configured: both indexes 0, and the read-index word 0 (R136). A counter wait that has been presented runs on. -/
def configureQueue (w : Vector Word 8) (s : State) : State × BitVec 16 × BitVec 12 :=
  let q := (w[1].extractLsb' 0 8).toNat
  let old := SMap.find q s.queues
  let u : UserQueue :=
    { ring := w[2], log2 := (w[1].extractLsb' 8 16).toNat, rdAddr := w[3], rd := 0, wr := 0, error := false,
      wait := old.bind (·.wait), open' := (old.map (·.open')).getD [] }
  (hostPut (putQueue { s with gzChanged := true } q u) w[3].toNat 0, 0, 0)

/-- R136: CONFIGURE_USER_QUEUE. -/
def execConfigureUserQueue (s : State) : Host.Outcome State Fault Refusal := event (command 0x11 configureQueue) s

/-- An owner's minimum serial raised, and its cached grants evicted (R148). -/
def raiseSerial (w : Vector Word 8) (s : State) : State × BitVec 16 × BitVec 12 :=
  let owner := w[1].extractLsb' 0 32
  let old := SMap.getD s.minSerial owner.toNat 0
  ({ s with
     minSerial := SMap.set owner.toNat (if old.toNat < w[2].toNat then w[2] else old) s.minSerial
     cache := s.cache.filter fun c => c.owner != owner }, 0, 0)

/-- R148: RAISE_MINIMUM_SERIAL. -/
def execRaiseMinimumSerial (s : State) : Host.Outcome State Fault Refusal := event (command 0x12 raiseSerial) s

/-! ## The gazetteer (R182, R183) -/

/-- n bytes that the spec does not state, a multiple of 8 (log 4). -/
def freeBytes (f n : Nat) : List Byte := (upFrom f (n / 8)).flatMap fun i => leBytes (Config.freeWord i).toNat 8

/-- A record of four words. -/
def record4 (a b c d : Word) : List Byte := [a, b, c, d].flatMap fun w => leBytes w.toNat 8

/-- STATE codes (R178). -/
def PlatState.code : PlatState → Nat
  | .free => 0 | .placing => 1 | .running => 2 | .quiescing => 3 | .spilling => 4 | .fenced => 5 | .zeroing => 6 | .offline => 7

/-- The two words of a plat table entry (R177). -/
def PlatEntry.word0 (P : PlatEntry) : Word :=
  BitVec.ofNat 64 (P.state.code * 2 ^ 60 + (if P.drain then 2 ^ 59 else 0) + (if P.defd then 2 ^ 58 else 0) +
    P.launch.getD 0 % 2 ^ 10 * 2 ^ 48 + P.h * 2 ^ 30 + P.w * 2 ^ 20 + P.y2 * 2 ^ 10 + P.x4)
def PlatEntry.word1 (P : PlatEntry) : Word := BitVec.ofNat 64 (P.rbudget.toNat * 2 ^ 16 + P.tag.toNat)

/-- Is a plat drained-empty (R180)? -/
def drainedEmpty (s : State) (P : PlatEntry) : Bool := P.defd && (s.drain || P.drain) && P.launch.isNone

/-- The record of a plat. -/
def platRecord (s : State) (p : Nat) : List Byte :=
  let P := platOf s p
  let owner := match P.launch.bind (launchOf s) with
    | some l => l.cap.grantOwner.zeroExtend 64
    | none => 0
  record4 P.word0 P.word1 owner (if drainedEmpty s P then 1 else 0)

/-- The chiplet of a cluster: 8 columns by 5 rows of 128 by 128 cores (R2). -/
def chipletOf (c : Nat) : Nat := c / 256 / 64 * 8 + c % 256 / 32

/-- The record of port k; gwst is that of its gateway cores. -/
def linkRecord (s : State) (k : Nat) : List Byte :=
  let p := SMap.getD s.ports k Port.reset
  record4 (hartOf s (Config.nChannelEnd + 16 * k)).gwst (BitVec.ofNat 64 p.dropped) (BitVec.ofNat 64 p.retrans)
    (if p.down then 1 else 0)

/-- The record of HBM stack k. -/
def stackRecord (s : State) (k : Nat) : List Byte :=
  let on (a : Nat) : Bool := pseudoChannel a / 32 == k
  record4 (BitVec.ofNat 64 (s.retiredPages.filter fun p => on (p * 4096)).length)
    (BitVec.ofNat 64 (s.poison.filter fun g => on (g * 64)).length) (Config.temperature k s.cycle) 0

/-- The record of chiplet k: of its 4 spare rows, those that the measured repair map uses (R1, R10; log 61). -/
def chipletRecord (s : State) (k : Nat) : List Byte :=
  record4 (BitVec.ofNat 64 (s.retiredClusters.filter fun c => chipletOf c == k).length)
    (BitVec.ofNat 64 (Config.spareRowsOf s.measured k % 5))
    (Config.temperature (32 + k) s.cycle) 0

/-- A byte of a bit map. -/
def mapByte (f : Nat → Bool) (j : Nat) : Byte :=
  (upFrom 0 8).foldl (fun b i => if f (8 * j + i) then b ||| BitVec.ofNat 8 (2 ^ i) else b) (0 : Byte)

/-- A record of the fault log. -/
def faultRecord (r : FaultRec) : List Byte :=
  record4 (BitVec.ofNat 64 (r.code.toNat + r.detail.toNat * 2 ^ 16)) r.time
    (BitVec.ofNat 64 (r.plat % 2 ^ 10 + r.tag.toNat * 2 ^ 10 + r.core % 2 ^ 20 * 2 ^ 26)) r.addr

/-- The fault log as 64 records; an unused record is zero. -/
def faultSection (s : State) : List Byte := sliceOf (s.faultLog.flatMap faultRecord) 0 2048

/-- The retired pages as 512 entries, newest first. -/
def pageSection (s : State) : List Byte :=
  sliceOf ((s.retiredPages.take 512).flatMap fun p => leBytes (p * 4096) 8) 0 4096

/-- Edition n as published in a cycle: the 64 KiB of R183. What lies between its sections is not stated (log 4). -/
def snapshot (s : State) (n : Word) : List Byte :=
  leBytes 0x01545a474e 8 ++ leBytes n.toNat 8 ++ leBytes (Config.time1588 s.cycle).toNat 8 ++ leBytes s.mstat.toNat 8 ++
    List.replicate 32 (0 : Byte) ++
  sliceOf (record4 (Config.firmwareVersion ++ Config.rootPrefix (Config.operatorRootOf s.measured)) (BitVec.ofNat 64 s.eccCorrectable) (BitVec.ofNat 64 s.eccUncorrectable) s.residueSerial) 0 64 ++
  freeBytes s.fresh 128 ++
  (upFrom 0 32).flatMap (linkRecord s) ++ (upFrom 0 32).flatMap (stackRecord s) ++ (upFrom 0 40).flatMap (chipletRecord s) ++
  freeBytes (s.fresh + 16) 512 ++
  (upFrom 0 10240).map (mapByte fun c => s.retiredClusters.contains c) ++ (upFrom 0 1024).flatMap (platRecord s) ++
  pageSection s ++ faultSection s ++
  (upFrom 0 32).map (mapByte fun q => ((SMap.find q s.queues).map (·.error)).getD false) ++
  List.replicate 12248 (0 : Byte) ++ leBytes n.toNat 8

/-- The next edition published into its buffer. -/
def publish (s : State) : State :=
  let n := s.gzed + 1
  let t := hostWrite { s with fresh := s.fresh + 80 } (s.gzbase.toNat + n.toNat % 2 * 0x10000) (snapshot s n)
  { t with gzed := n, gzChanged := false, gzLast := s.cycle }

/-- R182: GAZETTEER_PUBLISH. When a change or the timer calls for it is firmware policy. -/
def execGazetteerPublish (s : State) : Host.Outcome State Fault Refusal := event publish s

/-- R182: PUBLISH_SNAPSHOT_NOW. -/
def execPublishSnapshotNow (s : State) : Host.Outcome State Fault Refusal :=
  event (command 0x05 fun _ s => (publish s, 0, 0)) s

/-! ## Definitions and retirements (R177, R178) -/

/-- Do two rectangles of clusters meet? -/
def rectsMeet (P : PlatEntry) (x4 y2 w h : Nat) : Bool := overlaps P.x4 P.w x4 w && overlaps P.y2 P.h y2 h

/-- A plat defined: FREE or OFFLINE, inside the mesh, meeting no other plat. DESIGN CHOICE: a waiting capsule that a redefinition
leaves without a plat of its shape waits until the next drain command (R180; log 87). -/
def definePlat (p x4 y2 w h rbudget : Nat) (s : State) : State :=
  let P := platOf s p
  if p < 1024 ∧ (P.state = .free ∨ P.state = .offline) ∧ 0 < w ∧ 0 < h ∧ x4 + w ≤ 256 ∧ y2 + h ≤ 320 ∧ rbudget < 65536 ∧
      (s.plats.all fun q => q.1 == p || !q.2.defd || !rectsMeet q.2 x4 y2 w h) = true then
    putPlat { s with gzChanged := true } p
      { P with state := .free, defd := true, x4 := x4, y2 := y2, w := w, h := h, rbudget := BitVec.ofNat 16 rbudget }
  else s

/-- R177: PLAT_DEFINE. -/
def execPlatDefine (plat x4 y2 w h rbudget : Nat) (s : State) : Host.Outcome State Fault Refusal :=
  event (definePlat plat x4 y2 w h rbudget) s

/-- Does a plat hold a cluster? -/
def PlatEntry.hasCluster (P : PlatEntry) (c : Nat) : Bool :=
  P.defd && decide (P.x4 ≤ c % 256) && decide (c % 256 < P.x4 + P.w) && decide (P.y2 ≤ c / 256) && decide (c / 256 < P.y2 + P.h)

/-- A cluster retired: its plat goes OFFLINE, once a running capsule has ended (R178, R187). -/
def retireCluster (s : State) (c : Nat) : State :=
  let t : State :=
    { s with retiredClusters := if s.retiredClusters.contains c then s.retiredClusters else s.retiredClusters ++ [c], gzChanged := true }
  match t.plats.find? fun p => p.2.hasCluster c with
  | some p =>
    if p.2.state = .free then putPlat t p.1 { p.2 with state := .offline }
    else if p.2.state = .offline then t
    else putPlat t p.1 { p.2 with retiring := true }
  | none => t

/-- R178: CLUSTER_RETIRE. -/
def execClusterRetire (cluster : Nat) (s : State) : Host.Outcome State Fault Refusal :=
  event (fun s => if cluster < Config.nClusters then retireCluster s cluster else s) s

/-- The targeted self-test of a fenced plat: ZEROING, or OFFLINE with SELFTEST_FAIL. -/
def endSelftest (p : Nat) (pass : Bool) (s : State) : State :=
  let P := platOf s p
  if P.state ≠ .fenced then s
  else if pass then putPlat { s with gzChanged := true } p { P with state := .zeroing }
  else
    let f := s.fresh
    let t := logFault { s with fresh := f + 3 } codeSelftest (Config.freeDetail f) p P.tag (Config.freeChoice (f + 1) % 2 ^ 20)
      (Config.freeWord (f + 2))
    clearTag (dropCarried (putPlat t p { P with state := .offline, retiring := false }) p) p

/-- R178: FENCE_SELFTEST_COMPLETE. -/
def execFenceSelftestComplete (plat : Nat) (pass : Bool) (s : State) : Host.Outcome State Fault Refusal :=
  event (endSelftest plat pass) s

/-! ## Grade 4 (R186) -/

/-- A plat fenced at grade 4, whatever its state (R186): its launch reports PLAT_FENCED, an onward capsule is refused with the
code. One that was OFFLINE goes back there when it has been zeroed (log 53). -/
def fenceGrade4 (code : BitVec 16) (s : State) (p : Nat × PlatEntry) : State :=
  let t := match (platOf s p.1).launch with
    | some L => endLogged s L codePlatFenced (Config.freeDetail s.fresh) .fenced
    | none => s
  let u := match (platOf t p.1).onward with
    | some cap => endUnplaced (putPlat t p.1 { platOf t p.1 with onward := none }) cap code (Config.freeDetail t.fresh)
    | none => t
  let P := platOf u p.1
  if P.defd then putPlat u p.1 { P with state := .fenced, retiring := P.retiring || P.state == .offline } else u

/-- Entry into grade 4: out of service, every plat fenced, every waiting capsule refused; queued packets meet the code at
their presentation. -/
def enterGrade4 (s : State) (code : BitVec 16) : State :=
  let t := s.plats.foldl (fenceGrade4 code) { s with outOfService := true, grade4 := code, gzChanged := true }
  let caps := t.waitList
  caps.foldl (fun u c => endUnplaced u c code (Config.freeDetail u.fresh)) { t with waitList := [] }

/-- R186: GRADE4_ENTRY. -/
def execGrade4Entry (code : BitVec 16) (s : State) : Host.Outcome State Fault Refusal :=
  event (fun s => if code = codeDeviceFatal ∨ code = codeThermal then enterGrade4 s code else s) s

/-! ## Boot (R18) -/

/-- The ports that the measured link set-up leaves out of use (R1; log 61). -/
def portsAtBoot (flash : Memory) : SMap Port :=
  ((upFrom 0 32).filter fun k => !Config.linkSetUp flash k).map fun k => (k, { Port.reset with down := true })

/-- Module boot: everything at its reset value but for the memories, what module flash and the reserved HBM hold, and the
retirements. The repair map, the link set-up and the operator root in flash are measured (R1). -/
def boot (s : State) : State :=
  { State.reset with
    hbm := s.hbm, poison := s.poison, remap := s.remap, retiredPages := s.retiredPages, hostMem := s.hostMem
    retiredClusters := s.retiredClusters, grants := s.grants, minSerial := s.minSerial, residueSerial := s.residueSerial
    residues := s.residues, nextId := s.nextId, nextPacket := s.nextPacket, cycle := s.cycle
    agenda := s.agenda, fresh := s.fresh, flash := s.flash, measured := s.flash, ports := portsAtBoot s.flash
    moduleId := BitVec.ofNat 16 (Config.moduleIdOf s.flash) }

/-- R18: MODULE_BOOT. -/
def execModuleBoot (s : State) : Host.Outcome State Fault Refusal := event boot s

end Sys2Proof.Machine
end

