-- ==== Sys2Proof/Machine/Pairs.lean ====
section
/-! DEFINITION. Paired execution and replicas: agreement points, rollback, the self-tests and the comparison of digests
(spec/11 R198 to R203; log 15). -/

namespace Sys2Proof.Machine

/-! ## Agreement points (R199, R200) -/

/-- Is a slot at ctl.done (R199)? One that waits for its own last agreement point stands there too. -/
def Slot.atDone (σ : Slot) : Bool := σ.aWait == some .done

/-- Does a slot wait for what the next agreement point releases: its own operation, or one that the commit buffer holds? -/
def Slot.asksAgreement (σ : Slot) : Bool :=
  match σ.aWait with
  | some .agree | some .order | some .ply | some (.fence _) => true
  | _ => false

/-- Is an agreement point due on the pair that core h leads: some condition of R199 or R312 holds, and no scoreboard entry
other than a send is pending? Where no slot of the pair can issue and one waits for what an agreement point releases, it is due too:
DEDUCED, since no bundle would ever retire (log 15). -/
def agreementDue (s : State) (h : Nat) : Bool :=
  let H := hartOf s h
  let σs := H.slots.toList.filter (·.running)
  σs.any (·.paired) && h % 2 == 0 && !H.selftest && (σs.all fun σ => σ.sb.all fun e => e.kind == 6) &&
  (decide (256 ≤ H.sinceAgree) || decide (64 ≤ H.commit.length) || H.fptForced || σs.any Slot.atDone ||
    (σs.all (fun σ => !ableAt s h σ) && σs.any Slot.asksAgreement))

/-- Is a held operation a store of core h to its own scratchpad? -/
def ownStore (H : Hart) (h : Nat) (it : NetItem) : Bool :=
  !(H.out.any fun o => o.id == it.id) && (match it.op with
    | .store p _ => homeOf h p == h
    | _ => false)

/-- A store to the own scratchpad as the matrices read it. -/
def ownStoreOut (h : Nat) (it : NetItem) : OutOp :=
  let loc : Loc := match it.op with
    | .store p bs => ⟨h, offOf p, bs.length⟩
    | _ => ⟨h, 0, 0⟩
  { id := it.id, slot := it.src.slot, act := it.src.act, kinds := [.st], scope := .core, sc := false, loc := loc, space2 := false }

/-- One held operation released, in program order of its slot (R200); gone holds those that have gone into the mesh, the newest
first. A store to the own scratchpad reaches both cores at once where nothing of its slot has gone before it and the bytes take it; one
that they refuse by now, holding a declared line or an empty future, is refused at its home like any other (R77, R98). -/
def releaseHeldOp (h : Nat) (r : State × List NetItem) (it : NetItem) : State × List NetItem :=
  let s := r.1
  let own := ownStore (hartOf s h) h it
  let taken := match it.op with
    | .store p bs => own && (homeRefuses s it.src.launch h (offOf p) bs.length p).isNone
    | _ => false
  match it.op, taken, r.2.find? (fun x => x.src == it.src) with
  | .store p bs, true, none => (homeWrite s it.src.launch h (offOf p) bs, r.2)
  | _, _, prev =>
    let H := hartOf s h
    let t := if own then putHart s h { H with out := H.out ++ [ownStoreOut h it] } else s
    ({ t with net := t.net ++ [{ it with since := s.cycle, prior := it.prior ++ (prev.map (·.id)).toList }] }, it :: r.2)

/-- A slot after an agreement point. -/
def Slot.afterAgreement (σ : Slot) : Slot :=
  match σ.aWait with
  | some .commit => { σ with aWait := none }
  | some .agree => { σ with agreed := true }
  | _ => σ

/-- fpr of a core cleared. -/
def clearFpr (s : State) (h : Nat) : State := putHart s h { hartOf s h with fpr := 0 }

/-- The pair led by core h agrees: the held operations are released, the slots checkpointed, and fpr cleared. -/
def agree (s : State) (h : Nat) : State :=
  let t := ((hartOf s h).commit.foldl (releaseHeldOp h) (s, [])).1
  let H := hartOf t h
  let slots := H.slots.map Slot.afterAgreement
  let u := putHart t h
    { H with
      slots := slots, commit := [], checkpoint := some ⟨slots⟩, sinceAgree := 0, mismatched := false, fptForced := false
      started := [] }
  clearFpr (clearFpr u h) (h + 1)

/-! ## Rollback (R201) -/

/-- A ring entry inserted by age. -/
def insertAge (e : RingEntry) : List RingEntry → List RingEntry
  | [] => [e]
  | f :: fs => if e.age < f.age then e :: f :: fs else f :: insertAge e fs

/-- What discarded operations had counted of a ply's appends counts no more (R74). -/
def uncountAll (s : State) (h : Nat) (its : List NetItem) : State :=
  its.foldl (fun t it => uncount t h it.src.launch it.op) s

/-- A slot of a checkpoint restored: its sends that have been accepted since are no longer pending. -/
def Slot.restored (σ : Slot) (copies : List SendCopy) : Slot :=
  { σ with sb := σ.sb.filter fun e => copies.any fun c => c.item.id == e.id }

/-- Both cores of a pair back at their last checkpoint, and under self-test: the held operations are discarded, and
activations started since return to the ring with their ages. -/
def rollBack (s0 : State) (h : Nat) : State :=
  let s := uncountAll s0 h (hartOf s0 h).commit
  let H := hartOf s h
  let gone (i : Nat) : Bool := H.commit.any fun it => it.id == i
  let copies := H.copies.filter fun c => !gone c.item.id
  let slots := match H.checkpoint with
    | some c => c.slots.map fun σ => σ.restored copies
    | none => Vector.replicate 8 Slot.reset
  let L := match H.ctxs with
    | c :: _ => c.launch
    | [] => 0
  let ctx := H.ctx L
  let ring := H.started.foldr insertAge ctx.ring
  let t := putHart s h
    { H.putCtx { ctx with ring := ring } with
      slots := slots, commit := [], copies := copies, out := H.out.filter (fun o => !gone o.id), sinceAgree := 0
      selftest := true, testSince := s.cycle, mismatched := true, fptForced := false, started := [] }
  clearFpr (clearFpr t h) (h + 1)

/-- The plat of a pair killed with PAIR_MISMATCH_PERSISTENT, the pair's cluster retired. DETAIL and the address of the record
are not stated (log 4). -/
def persistent (s : State) (h core : Nat) : State :=
  let t := retireCluster s (clusterOfCore h)
  match platOfCore t h with
  | some p =>
    match p.2.launch with
    | some L =>
      killLaunch { t with fresh := t.fresh + 2 } L core ⟨codePairMismatch, Config.freeDetail t.fresh, Config.freeWord (t.fresh + 1)⟩
    | none => t
  | none => t

/-- An agreement point: the two fingerprints are compared. A second mismatch before the next agreement is persistent. -/
def comparePair (h : Nat) (s : State) : State :=
  if agreementDue s h then
    if (hartOf s h).fpr = (hartOf s (h + 1)).fpr then agree s h
    else if (hartOf s h).mismatched then persistent s h h
    else rollBack s h
  else s

/-- R199: AGREEMENT_POINT. -/
def execAgreementPoint (hart : Nat) (s : State) : Host.Outcome State Fault Refusal := event (comparePair hart) s

/-- A slot whose budget has paused for a number of cycles (R192). -/
def Slot.paused (n : Nat) (σ : Slot) : Slot := { σ with startCycle := σ.startCycle + n }

/-- The self-test of a pair: TRANSIENT_ECC is logged and the pair re-executes, its budgets having paused meanwhile, or its cluster
is retired and its plat killed. -/
def endPairTest (h : Nat) (leaderOk followerOk : Bool) (s : State) : State :=
  if (hartOf s h).selftest then
    if leaderOk && followerOk then
      let P := (platOfCore s h).getD (0, PlatEntry.reset)
      let t := logFault { s with fresh := s.fresh + 2 } codeTransientEcc (Config.freeDetail s.fresh) P.1 P.2.tag h
        (Config.freeWord (s.fresh + 1))
      let H := hartOf t h
      select (putHart t h { H with selftest := false, slots := H.slots.map (Slot.paused (t.cycle - H.testSince)) }) h
    else persistent s h (if leaderOk then h + 1 else h)
  else s

/-- R201: PAIR_SELFTEST_COMPLETE. -/
def execPairSelftestComplete (hart : Nat) (leaderOk followerOk : Bool) (s : State) : Host.Outcome State Fault Refusal :=
  event (endPairTest hart leaderOk followerOk) s

/-! ## Replicas (R202, R203) -/

/-- Has an exchange tick come since a cycle, at which the gateway cores exchange what had been posted (R202)? -/
def exchangedSince (s : State) (posted : Nat) : Bool := s.ports.any fun p => decide (posted < p.2.tickAt)

/-- A digest of the launch on plat p, once exchanged, compared with another replica's, and on a rerun with a third's: a disagreement
halts the launch for a full self-test; against two that agree, it ends with SELFTEST_FAIL and module drain is set. -/
def compareDigests (p : Nat) (stepNo : BitVec 32) (digest : BitVec 256) (third : Option (BitVec 256)) (s : State) : State :=
  match (platOf s p).launch with
  | none => s
  | some L =>
    match launchOf s L with
    | none => s
    | some l =>
      match l.digests.find? fun d => d.1 == stepNo with
      | none => s
      | some (_, own, posted) =>
        if !s.replicated || !exchangedSince s posted then s
        else
        let t := putLaunch s L { l with digests := l.digests.filter fun d => d.1 != stepNo }
        if own = digest ∨ third = some own then t
        else if third = some digest then
          refuseDrained { endLogged t L codeSelftest (Config.freeDetail t.fresh) .zeroing with drain := true }
        else modLaunch t L fun l => { l with halted := true }

/-- R203: DIGEST_COMPARE. -/
def execDigestCompare (plat : Nat) (stepNo : BitVec 32) (digest : BitVec 256) (third : Option (BitVec 256)) (s : State) :
    Host.Outcome State Fault Refusal :=
  event (compareDigests plat stepNo digest third) s

/-- The full self-test of a module whose launch is halted: PREEMPTED with DETAIL 0x002, or SELFTEST_FAIL and grade 4. -/
def endFullTest (p : Nat) (pass : Bool) (s : State) : State :=
  match (platOf s p).launch with
  | none => s
  | some L =>
    match launchOf s L with
    | none => s
    | some l =>
      if l.halted then
        if pass then endLogged s L codePreempted 0x002 .zeroing
        else enterGrade4 (endLogged s L codeSelftest (Config.freeDetail s.fresh) .zeroing) codeDeviceFatal
      else s

/-- R203: FULL_SELFTEST_COMPLETE. -/
def execFullSelftestComplete (plat : Nat) (pass : Bool) (s : State) : Host.Outcome State Fault Refusal :=
  event (endFullTest plat pass) s

end Sys2Proof.Machine
end

