-- ==== Sys2Proof/Machine/Quiescence.lean ====
section
/-! DEFINITION. Quiescence, the idle network and HANG, and how a plat leaves RUNNING, QUIESCING and ZEROING
(spec/01 R14 R15 R17, spec/10 R176 R178). -/

namespace Sys2Proof.Machine

/-! ## What a launch has under way (R14, R176) -/

/-- Are the queues of a cluster's engines without a job, a command or a request? -/
def Cluster.engineIdle (C : Cluster) : Bool :=
  C.jobs.isEmpty && C.mxReqs.isEmpty && C.cpReqs.isEmpty && C.cpq.toList.all List.isEmpty

/-- Is nothing of launch L in flight, awaiting resend or held in an L1 for its home, and no engine job of its plat pending? -/
def networkIdle (s : State) (L : Nat) (l : Launch) : Bool :=
  s.net.all (fun i => i.src.launch != L) &&
  (s.harts.all fun x => x.2.copies.all (fun c => c.item.src.launch != L) &&
    x.2.ctxs.all fun c => c.launch != L || c.seqHeld.isEmpty) &&
  ((coresOf s L).all fun h => (coalesced s h).isEmpty) && (platOf s l.plat).clusters.all fun c => (clusterOf s c).engineIdle

/-- Do the contexts of launch L hold a sequenced command whose number is ahead (R96)? -/
def holdsCommand (s : State) (L : Nat) : Bool := s.harts.any fun x => x.2.ctxs.any fun c => c.launch == L && !c.seqHeld.isEmpty

/-- Are the engines of cluster c without a job but for commands in sequence that are held, and what stands behind those? -/
def engineStuck (s : State) (c : Nat) : Bool :=
  let C := clusterOf s c
  C.jobs.isEmpty && C.mxReqs.isEmpty && C.cpq.toList.all (fun q => q.all fun j => j.done.isNone) &&
  (C.offer .cpe s.cycle).isNone && (upFrom 0 4).all fun q => (runnable s c (Fin.ofNat 4 q)).isNone

/-- Is the network of launch L idle (R176)? A sequenced command that is held for a number which never comes does not keep it
busy (R96). -/
def hangIdle (s : State) (L : Nat) (l : Launch) : Bool :=
  s.net.all (fun i => i.src.launch != L) && (s.harts.all fun x => x.2.copies.all fun c => c.item.src.launch != L) &&
  ((coresOf s L).all fun h => (coalesced s h).isEmpty) && (platOf s l.plat).clusters.all fun c =>
    (clusterOf s c).engineIdle || (holdsCommand s L && engineStuck s c)

/-- Does core h run no activation of launch L? -/
def coreStill (s : State) (h L : Nat) : Bool := (slotsOf (hartOf s h) L).isEmpty

/-- Does no core run an activation of launch L? -/
def allStill (s : State) (L : Nat) : Bool := (coresOf s L).all fun h => coreStill s h L

/-- Is the plat of launch L quiescent (R14)? -/
def quiescent (s : State) (L : Nat) (l : Launch) : Bool :=
  l.loaded && networkIdle s L l && allStill s L && (coresOf s L).all fun h => (ctxOf s h L).ring.isEmpty

/-! ## HANG (R176) -/

/-- Is a ring entry parked, held, or ready on a masked channel? -/
def Ctx.stuck (c : Ctx) (e : RingEntry) : Bool := e.state != .ready || c.masks.getLsbD (chanOf e.header)

/-- Does the ring of core h hold such an entry? -/
def ringStuck (s : State) (h L : Nat) : Bool := (ctxOf s h L).ring.any fun e => (ctxOf s h L).stuck e

/-- The lowest listed slot of core h for launch L. -/
def listedSlot (s : State) (h L : Nat) : Option Slot := (slotsOf (hartOf s h) L).find? (listedAt s h)

/-- Does a slot of launch L wait at ctl.realign, which never contributes to HANG (R235)? -/
def realigning (s : State) (L : Nat) : Bool :=
  (coresOf s L).any fun h => (slotsOf (hartOf s h) L).any fun σ => match σ.aWait with
    | some (.realign _) => true
    | _ => false

/-- The three conditions of R176 together; a held command counts as what a core waits for (R96). A launch that is halted for a
self-test does not hang (R203). -/
def hangs (s : State) (L : Nat) (l : Launch) : Bool :=
  let P := platOf s l.plat
  (P.state == .running || P.state == .quiescing) && l.loaded && !l.halted && hangIdle s L l && !realigning s L &&
  (P.cores.all fun h => coreState s h L != 1) &&
  (holdsCommand s L || (P.cores.any fun h => coreState s h L == 2) || (coresOf s L).any fun h => ringStuck s h L)

/-- The hang interval of a launch: it begins when the conditions come to hold together, and ends when one fails. -/
def Launch.watch (s : State) (L : Nat) (l : Launch) : Launch :=
  { l with idleSince := if hangs s L l then some (l.idleSince.getD s.cycle) else none }

/-- Every launch watched, after each step of the module. -/
def watchIdle (s : State) : State := { s with launches := s.launches.map fun x => (x.1, x.2.watch s x.1) }

/-- Is the budget of some activation of launch L used up, or about to be in this cycle (R16)? -/
def budgetEnds (s : State) (L : Nat) : Bool :=
  (coresOf s L).any fun h => (slotsOf (hartOf s h) L).any fun σ =>
    σ.budleft == 0 || (σ.budleft == 1 && decide (σ.startCycle + 1024 * (σ.ticks + 1) ≤ s.cycle))

/-- The core that a hang is logged with, and WHY of its lowest listed slot; 0 when no slot is listed. Where no ring holds such an
entry either, a held command alone makes the hang, and its core is not stated (log 4). -/
def hangSite (s : State) (L : Nat) : Nat × Nat :=
  match (coresOf s L).find? fun h => isCompute h && (listedSlot s h L).isSome with
  | some h => (h, ((listedSlot s h L).map (whyAt s h)).getD 0)
  | none => (((coresOf s L).find? fun h => ringStuck s h L).getD (Config.freeChoice (s.fresh + 2) % 2 ^ 20), 0)

/-- The launch of plat p killed by HANG once its interval has run out, unless the budget of an activation ends it (R16), or parked
entries are released now (R187). The upper bits of DETAIL and the address of the log record are not stated (log 4). -/
def hangPlat (p : Nat) (s : State) : State :=
  match (platOf s p).launch with
  | none => s
  | some L =>
    match launchOf s L with
    | none => s
    | some l =>
      match l.idleSince with
      | some c =>
        if hangs s L l && decide (c + 8192 ≤ s.cycle) && !budgetEnds s L && !barrierReady s L l then
          let site := hangSite s L
          let d := (Config.freeDetail s.fresh &&& 0xff0) ||| BitVec.ofNat 12 (site.2 % 16)
          killLaunch { s with fresh := s.fresh + 3 } L site.1 ⟨codeHang, d, Config.freeWord (s.fresh + 1)⟩
        else s
      | none => s

/-- R176: HANG_DETECTED. -/
def execHangDetected (plat : Nat) (s : State) : Host.Outcome State Fault Refusal := event (hangPlat plat) s

/-! ## Endings (R15, R17, R158, R178) -/

/-- Does a plat end its capsule when it is quiescent: RUNNING, or QUIESCING for a pre-emption that a pending chain comes
before (R158)? -/
def endsQuiescent (P : PlatEntry) (l : Launch) : Bool :=
  P.state == .running || (P.state == .quiescing && P.quiesce == 1 && l.pending.isSome)

/-- The launch of plat p completes or chains, its plat being quiescent. -/
def completePlat (p : Nat) (s : State) : State :=
  match (platOf s p).launch with
  | none => s
  | some L =>
    match launchOf s L with
    | none => s
    | some l => if endsQuiescent (platOf s p) l && !l.halted && !l.cancelled && quiescent s L l then completeLaunch s L else s

/-- R15: LAUNCH_COMPLETE. -/
def execLaunchComplete (plat : Nat) (s : State) : Host.Outcome State Fault Refusal := event (completePlat plat) s

/-- The cancelled launch of plat p: a plat that came to run under the cancel goes to QUIESCING; there it ends once nothing is under
way. Ring entries and held commands, which start nothing more, may remain. -/
def endCancelled (p : Nat) (s : State) : State :=
  match (platOf s p).launch with
  | none => s
  | some L =>
    match launchOf s L with
    | none => s
    | some l =>
      let P := platOf s p
      if P.state = .running ∧ l.cancelled = true then putPlat { s with gzChanged := true } p { P with state := .quiescing, quiesce := 2 }
      else if P.state = .quiescing ∧ P.quiesce = 2 ∧ hangIdle s L l = true ∧ allStill s L = true then
        endLogged s L codePreempted 0x001 .zeroing
      else s

/-- R178: CANCELLED_LAUNCH_END. -/
def execCancelledLaunchEnd (plat : Nat) (s : State) : Host.Outcome State Fault Refusal := event (endCancelled plat) s

/-- Have the cores that an onward capsule needs a context to spare, and the launch table an entry? -/
def roomOnward (s : State) (cap : Capsule) (p : Nat) : Bool :=
  decide (s.launches.length < 1024) && (contextCores cap.table p).all fun h => decide ((hartOf s h).ctxs.length < 16)

/-- Zeroing of plat p is complete, its dirty lines written back and its TAG cleared (R61, R177): OFFLINE after a retirement,
PLACING for an onward capsule that keeps the plat, else FREE. An onward capsule that loses its plat waits like any other. -/
def zeroed (p : Nat) (s0 : State) : State :=
  let s := clearTag s0 p
  let P := platOf s p
  if P.state ≠ .zeroing then s0
  else if P.retiring then
    let t := dropCarried { s with gzChanged := true } p
    let u := putPlat t p { P with state := .offline, retiring := false, onward := none }
    match P.onward with
    | some cap => { u with waitList := u.waitList ++ [{ cap with bound := none }] }
    | none => u
  else
    match P.onward with
    | some cap => if roomOnward s cap p then dropCarried (placeOn s cap p) p else s0
    | none => putPlat (dropCarried { s with gzChanged := true } p) p { P with state := .free }

/-- R178: PLAT_ZEROING_COMPLETE. -/
def execPlatZeroingComplete (plat : Nat) (s : State) : Host.Outcome State Fault Refusal := event (zeroed plat) s

end Sys2Proof.Machine
end

