-- ==== Sys2Proof/Machine/Preemption.lean ====
section
/-! DEFINITION. Pre-emption: the request, the spill and the residue image, and the restoring of a residue
(spec/06 R119, spec/08 R153 to R155 R158 R346, spec/11 R193 R194, spec/24 R340 R341). -/

namespace Sys2Proof.Machine

/-! ## The request (R193, R194, R340) -/

/-- May a launch be pre-empted: its header allows it, and a packet that started it has a status address? -/
def preemptible (l : Launch) : Bool :=
  l.cap.preempt && (match l.cap.origin with
    | .queue _ st _ _ => st != 0
    | _ => true)

/-- Is a running launch a candidate for a pre-emption by a waiting capsule: its plat has the capsule's shape, it may be pre-empted,
and its queue number is higher (R193)? -/
def yields (s : State) (cap : Capsule) (l : Launch) : Bool :=
  let P := platOf s l.plat
  P.state == .running && P.fits cap && preemptible l && !l.halted && !l.cancelled && decide (cap.origin.rank < l.cap.origin.rank)

/-- Does the policy of R193 choose launch l for a waiting capsule: no free plat takes the capsule, and no candidate comes from a
queue of a higher number? -/
def chosenFor (s : State) (l : Launch) (cap : Capsule) : Bool :=
  yields s cap l && !(s.plats.any fun p => mayPlace s cap p.1) &&
  s.launches.all fun x => !yields s cap x.2 || decide (x.2.cap.origin.rank ≤ l.cap.origin.rank)

/-- Plat p goes to QUIESCING for the first waiting capsule that the policy of R193 pre-empts it for, which keeps a claim on it (R194;
log 79); selection on its compute cores ends now, or with the barrier under way. -/
def requestPreemption (p : Nat) (s : State) : State :=
  let P := platOf s p
  match P.launch with
  | none => s
  | some L =>
    match launchOf s L with
    | none => s
    | some l =>
      match s.waitList.find? (chosenFor s l) with
      | some cap =>
        putLaunch (putPlat { s with gzChanged := true } p { P with state := .quiescing, quiesce := 1, claim := some cap }) L
          { l with preempting := !barrierBegun s L }
      | none => s

/-- R194: PREEMPTION_REQUEST. -/
def execPreemptionRequest (plat : Nat) (s : State) : Host.Outcome State Fault Refusal := event (requestPreemption plat) s

/-! ## What is spilled (R153, R346) -/

/-- A word as its eight bytes. -/
def wordBytes (v : Nat) : List Byte := leBytes v 8

/-- Bytes cut or filled with zeros to a length. -/
def fit (n : Nat) (bs : List Byte) : List Byte := sliceOf bs 0 n

/-- The scratchpad of a context with the free nodes of its future-link region joined in a list, each naming the next in word
1 [47:32] (log 12). -/
def linkNodes (base : Nat) : List Nat → Memory → Memory
  | [], m => m
  | n :: ns, m =>
    let next := match ns with
      | k :: _ => k + 1
      | [] => 0
    linkNodes base ns (Memory.writeN m (base + 16 * n + 8) 8 (next * 2 ^ 32))

/-- The base of the future-link region. -/
def linkBase (cap : Capsule) : Nat :=
  match cap.regions 5 with
  | r :: _ => r.1
  | [] => 0

/-- The 512-byte record of a core. -/
def coreRecord (l : Launch) (c : Ctx) : List Byte :=
  fit 512 (wordBytes (c.sseq % 4096) ++ wordBytes 0 ++ wordBytes c.ring.length ++ wordBytes c.masks.toNat ++
    (upFrom 0 63).flatMap (fun ch => leBytes (if l.cap.pipe then (SMap.getD c.expected ch 0).toNat else 0) 4) ++ leBytes 0 4 ++
    wordBytes ((c.futFree.head?.map (· + 1)).getD 0) ++ List.replicate 88 (0 : Byte) ++
    (if l.regime then l.units.flatMap fun u => leBytes (SMap.getD c.appends u 0) 2 else []))

/-- The FE bits of the kept regions, one bit a word, packed. -/
def feRecord (cap : Capsule) (c : Ctx) : List Byte :=
  let bits := (keptRegions cap).flatMap fun r => (upFrom 0 (r.2 / 8)).map fun i => !c.isEmpty (r.1 + 8 * i)
  (upFrom 0 (feBytes cap)).map fun j =>
    (upFrom 0 8).foldl (fun b i => if bits.getD (8 * j + i) false then b ||| BitVec.ofNat 8 (2 ^ i) else b) (0 : Byte)

/-- A ring entry (R49). -/
def ringBytes (e : RingEntry) : List Byte := fit 64 (wordBytes e.header.toNat ++ e.payload.flatMap fun w => wordBytes w.toNat)

/-- The parts of one core: its record, its regions, their FE bits and its ring. -/
def coreSpill (l : Launch) (c : Ctx) : List Byte :=
  let m := linkNodes (linkBase l.cap) c.futFree c.scratch
  coreRecord l c ++ (keptRegions l.cap).flatMap (fun r => Memory.bytes m r.1 r.2) ++ feRecord l.cap c ++
    fit l.cap.ring.2 (c.ring.flatMap ringBytes)

/-- The count word of a ply under REGIME 1. -/
def countWord (u : OrUnit) (ply : BitVec 16) : Nat :=
  let p := u.counts.find? fun c => c.ply == ply
  let total := p.bind (·.total)
  (if total.isSome then 2 ^ 48 else 0) + ply.toNat * 2 ^ 32 + total.getD 0 % 2 ^ 16 * 2 ^ 16 + (p.map (·.accepted)).getD 0 % 2 ^ 16

/-- The record of a unit. -/
def unitRecord (h : Nat) (u : OrUnit) : List Byte :=
  let place := if isCompute h then h else 2 ^ 62 + (h - Config.nCompute)
  fit 64 (wordBytes u.swm.toNat ++ wordBytes u.orcst.toNat ++ wordBytes (2 ^ 63 + place) ++
    (upFrom 1 4).flatMap fun i => wordBytes (if u.regime then countWord u (stampPly u.swm + BitVec.ofNat 16 i) else 0))

/-- A history entry (R66). -/
def histBytes (e : HistEntry) : List Byte :=
  wordBytes ((e.rsb % 16) * 2 ^ 3 + (e.rslot % 8) * 2 ^ 7 + (if e.rq then 2 ^ 10 else 0) + (e.elem % 32) * 2 ^ 11 +
    e.stamp.toNat * 2 ^ 16) ++ wordBytes e.y.toNat ++ wordBytes e.x.toNat

/-- A line slot. -/
def lineSlot (x : OrLine) : List Byte :=
  fit 512 (wordBytes (2 ^ 8 + x.hist.length * 2 ^ 3 + orcCode x.cls) ++ vecBytes x.base 64 ++
    fit 384 (x.hist.flatMap histBytes) ++ wordBytes x.ptr.toNat)

/-- The spill from offset 0x1000 to S: cores, unit records and line slots. -/
def spillBody (s : State) (L : Nat) (l : Launch) : List Byte :=
  let cores := (platOf s l.plat).cores.flatMap fun h => coreSpill l (ctxOf s h L)
  let units := (l.units.take 64).map fun h => (h, (ctxOf s h L).unit)
  fit (spillSize l.cap - 4096) (cores ++ fit 4096 (units.flatMap fun u => unitRecord u.1 u.2) ++
    fit 8355840 (units.flatMap fun u => fit 130560 (u.2.lines.flatMap lineSlot)))

/-- The spill header: the serial, the digest, RESUMED clear, and the ply. -/
def spillHeader (serial : Nat) (digest : BitVec 256) (ply : Nat) : List Byte :=
  fit 4096 (wordBytes serial ++ keyBytes digest ++ wordBytes 0 ++ wordBytes ply)

/-! ## The residue image (R153, R340) -/

/-- The header of a residue: RESIDUE set, the serial and the digest in words 24 to 28. -/
def residueHeader (cap : Capsule) (serial : Nat) (digest : BitVec 256) : List Byte :=
  (upFrom 0 32).flatMap fun i =>
    wordBytes (if i = 1 then Nat.lor (cap.word 1) 16 else if i = 24 then serial
      else if 25 ≤ i ∧ i < 29 then digest.toNat / 2 ^ (64 * (i - 25)) % 2 ^ 64 else cap.word i)

/-- The residue image of a capsule, sealed with the residue key. -/
def residueImage (cap : Capsule) (serial : Nat) (digest : BitVec 256) : List Byte :=
  let body := residueHeader cap serial digest ++ keyBytes cap.codeId ++ keyBytes cap.grantDig ++
    cap.chain.toList.flatMap (fun w => wordBytes w.toNat) ++
    fit 2048 (cap.extents.flatMap fun e => if e.keep then e.raw.flatMap fun w => wordBytes w.toNat else List.replicate 32 (0 : Byte)) ++
    fit cap.arglen cap.args
  body ++ fit 32 (kmac256 Config.residueKey body residueText)

/-- The residue image handed over: to host memory behind the status record, which is written after it; or to the spill extent after
the spill, with a fault log record of its address (R155). A chain's status record waits for the chain's end. -/
def handOver (s : State) (l : Launch) (e : Extent) (image : List Byte) : State :=
  let P := platOf s l.plat
  match l.cap.origin with
  | .queue q st tag n =>
    let t := hostWrite s ((st.toNat + 16 + 63) / 64 * 64) image
    closePacket (writeStatus t st tag codePreempted (t.cycle - l.placedAt)) q n
  | _ =>
    let off := spillSize l.cap
    let t := extentWrite s e off (fit 8192 image) P.tag
    logFault { t with fresh := t.fresh + 1 } codePreempted 0 l.plat P.tag (Config.freeChoice t.fresh % 2 ^ 20)
      (BitVec.ofNat 64 (e.base + off))

/-- The chains whose status records wait for the capsule that a residue stands for. -/
def chainsOf (cap : Capsule) : List Origin :=
  match cap.origin with
  | .chainOf _ _ _ _ _ => cap.origin :: cap.replaces
  | _ => cap.replaces

/-- The spill written, the residue handed over, the counters moved, and the plat to ZEROING (R194 steps 5 and 6). -/
def writeSpill (s0 : State) (L : Nat) (l : Launch) : State :=
  let s := recallAll s0 L
  let P := platOf s l.plat
  let serial := s.residueSerial + 1
  let ply := (plyOf s L).toNat
  let body := spillBody s L l
  let digest := digestOf (shake256 (wordBytes serial.toNat ++ wordBytes ply ++ body))
  match l.extent l.cap.spillx with
  | none => s
  | some e =>
    let s1 : State :=
      { s with
        residueSerial := serial
        residues := SMap.set serial.toNat ⟨P.x4, P.y2, chainsOf l.cap⟩ s.residues }
    let s2 := extentWrite s1 e 0 (spillHeader serial.toNat digest ply ++ body) P.tag
    let s3 := handOver s2 l e (residueImage l.cap serial.toNat digest)
    clearPlat (endCounters s3 l.cap false codePreempted) L l.plat .zeroing

/-- Is a plat that is being pre-empted ready for step 5 of R194: no activation, nothing in flight, empty rings on the channel and
gateway cores, and no pair under a self-test, which comes first (R204)? -/
def spillReady (s : State) (L : Nat) (l : Launch) : Bool :=
  l.preempting && l.pending.isNone && !l.halted && networkIdle s L l && allStill s L &&
  (coresOf s L).all fun h => if isCompute h then !(hartOf s h).selftest else (ctxOf s h L).ring.isEmpty

/-- A quiesced plat goes to SPILLING, and from there, the spill once written, to ZEROING. A cancel or a disagreement of digests that
reaches it before wins: no spill is written (R17, R204). -/
def spillPlat (p : Nat) (s : State) : State :=
  let P := platOf s p
  match P.launch with
  | none => s
  | some L =>
    match launchOf s L with
    | none => s
    | some l =>
      if P.state = .spilling then
        if l.cancelled then endLogged s L codePreempted 0x001 .zeroing
        else if l.halted then s
        else writeSpill s L l
      else if P.state = .quiescing ∧ P.quiesce = 1 ∧ spillReady s L l = true then
        putPlat { s with gzChanged := true } p { P with state := .spilling }
      else s

/-- R153: PREEMPTION_SPILL. -/
def execPreemptionSpill (plat : Nat) (s : State) : Host.Outcome State Fault Refusal := event (spillPlat plat) s

/-! ## Restoring (R154, R341, R346) -/

/-- The free list of a future-link region followed from a node; the fuel is the count of nodes. -/
def followNodes (base : Nat) (m : Memory) : Nat → Nat → List Nat
  | 0, _ => []
  | _ + 1, 0 => []
  | n + 1, k + 1 => k :: followNodes base m n (Memory.readN m (base + 16 * k + 8) 8 / 2 ^ 32 % 2 ^ 16)

/-- The scratchpad with the kept regions read from bytes. -/
def readRegions (bs : List Byte) : Nat → List (Nat × Nat) → Memory → Memory
  | _, [], m => m
  | off, r :: rs, m => readRegions bs (off + r.2) rs (Memory.writeBytes m r.1 (sliceOf bs off r.2))

/-- The words whose FE bit is 0. -/
def readEmpties (cap : Capsule) (fe : List Byte) : List Nat :=
  let offs := (keptRegions cap).flatMap fun r => (upFrom 0 (r.2 / 8)).map fun i => r.1 + 8 * i
  ((offs.zip (upFrom 0 offs.length)).filter fun x => !(fe.getD (x.2 / 8) 0).getLsbD (x.2 % 8)).map (·.1)

/-- Ring entry k read back, its state from the capsule's placement, the restored expected numbers and the ply. A data wake and a
start message carry no item number (R116). -/
def readRing (l : Launch) (ply : BitVec 16) (expected : SMap (BitVec 32)) (age k : Nat) (bs : List Byte) : RingEntry :=
  let header := BitVec.ofNat 64 (imageWord bs 0)
  let n := (header.extractLsb' 52 4).toNat
  let payload := (upFrom 1 (min n 7)).map fun i => BitVec.ofNat 64 (imageWord bs i)
  let det := !l.cap.pipe && ((l.handler (chanOf header)).map (·.det)).getD false
  let item := kindOf header == 1 && stampSender (stampOf header) != placer
  let held := l.cap.pipe && item && itemOf payload != SMap.getD expected (chanOf header) 0
  let parked := det && !plyBefore (stampPly (stampOf header)) ply
  { header := header, payload := payload, state := if held then .held else if parked then .parked else .ready
    released := det && !parked, age := age, pos := k }

/-- The context of a compute core restored from its parts. -/
def readCore (l : Launch) (ply : BitVec 16) (units : List Nat) (regime : Bool) (age : Nat) (bs : List Byte) (c : Ctx) : Ctx :=
  let k := keptBytes l.cap
  let n := imageWord bs 2
  let expected : SMap (BitVec 32) :=
    ((upFrom 0 63).map fun ch => (ch, BitVec.ofNat 32 (leValue (sliceOf bs (0x20 + 4 * ch) 4)))).filter fun x => x.2 != 0
  let ring := bs.drop (512 + k + feBytes l.cap)
  let nodes := match l.cap.regions 5 with
    | r :: _ => min (r.2 / 16) 65535
    | [] => 0
  { c with
    scratch := Memory.writeBytes (readRegions bs 512 (keptRegions l.cap) c.scratch) l.cap.ring.1 (ring.take (64 * n))
    empties := readEmpties l.cap (sliceOf bs (512 + k) (feBytes l.cap))
    masks := BitVec.ofNat 64 (imageWord bs 3)
    ring := (upFrom 0 n).map fun i => readRing l ply expected (age + i) i (sliceOf ring (64 * i) 64)
    ringTail := n % max 1 (l.cap.ring.2 / 64)
    ply := ply
    sseq := imageWord bs 0 % 4096
    expected := expected
    futFree := followNodes (linkBase l.cap) (readRegions bs 512 (keptRegions l.cap) c.scratch) nodes (imageWord bs 0x24 % 2 ^ 16)
    appends := if regime then
      ((units.zip (upFrom 0 64)).foldl (fun a x => SMap.set x.1 (leValue (sliceOf bs (0x180 + 2 * x.2) 2)) a) []).filter fun x =>
        x.2 != 0
      else [] }

/-- Every compute core of the plat restored. -/
def restoreCores (L : Nat) (l : Launch) (ply : BitVec 16) (units : List Nat) (regime : Bool) (bs : List Byte) (s : State) : State :=
  let hs := (platOf s l.plat).cores
  let n := coreBytes l.cap
  (hs.zip (upFrom 0 hs.length)).foldl (fun t x =>
    let part := sliceOf bs (4096 + x.2 * n) n
    putCtx { t with nextId := t.nextId + imageWord part 2 } x.1
      (readCore l ply units regime t.nextId part (ctxOf t x.1 L))) s

/-- The hart index of a unit record, if the record holds one. -/
def recordUnit (bs : List Byte) : Option Nat :=
  let w := imageWord bs 2
  if w / 2 ^ 63 = 1 then some (if w / 2 ^ 62 % 2 = 1 then Config.nCompute + w % 2 ^ 20 else w % 2 ^ 20) else none

/-- A history entry read back (R66). -/
def readHist (bs : List Byte) : HistEntry :=
  let w := imageWord bs 0
  { stamp := BitVec.ofNat 48 (w / 2 ^ 16), x := BitVec.ofNat 64 (imageWord bs 2), y := BitVec.ofNat 64 (imageWord bs 1),
    elem := w / 2 ^ 11 % 32, rq := w / 2 ^ 10 % 2 == 1, rslot := w / 2 ^ 7 % 8, rsb := w / 2 ^ 3 % 16 }

/-- The line of a slot, if the slot holds one. -/
def readLine (bs : List Byte) : Option OrLine :=
  let w := imageWord bs 0
  if w / 2 ^ 8 % 2 = 0 then none
  else
    (orcOfCode (w % 8)).map fun cls =>
      let p := BitVec.ofNat 64 (imageWord bs 57)
      { gran := p.toNat % 2 ^ 39, ptr := p, cls := cls, base := vecOf (sliceOf bs 8 64)
        hist := (upFrom 0 (w / 2 ^ 3 % 32)).map fun i => readHist (sliceOf bs (0x48 + 24 * i) 24) }

/-- The counts of a unit record. -/
def readCounts (bs : List Byte) : List PlyCount :=
  ((upFrom 3 4).map (imageWord bs)).filterMap fun w =>
    let p : PlyCount := ⟨BitVec.ofNat 16 (w / 2 ^ 32), if w / 2 ^ 48 % 2 = 1 then some (w / 2 ^ 16 % 2 ^ 16) else none, w % 2 ^ 16⟩
    if p.total.isSome || p.accepted != 0 then some p else none

/-- Does a unit record stand under REGIME 1? -/
def recordRegime (bs : List Byte) : Bool := imageWord bs 1 % 2 == 1

/-- A unit restored from its record and its line slots. -/
def readUnit (rec : List Byte) (lines : List Byte) : OrUnit :=
  { swm := BitVec.ofNat 48 (imageWord rec 0), regime := recordRegime rec,
    lines := (upFrom 0 255).filterMap fun i => readLine (sliceOf lines (512 * i) 512)
    counts := if recordRegime rec then readCounts rec else [], waiting := [] }

/-- Every unit of the plat restored: the listed ones from their records, the others at the close of the ply before. -/
def restoreUnits (L : Nat) (ply : BitVec 16) (regime : Bool) (recs lines : List Byte) (s : State) : State :=
  let plain : OrUnit := { OrUnit.reset with swm := endOf (ply - 1), regime := regime }
  let t := (coresOf s L).foldl (fun t h => putCtx t h { ctxOf t h L with unit := plain, ply := ply }) s
  (upFrom 0 64).foldl (fun t u =>
    let rec' := sliceOf recs (64 * u) 64
    match recordUnit rec' with
    | some h => putCtx t h { ctxOf t h L with unit := readUnit rec' (sliceOf lines (130560 * u) 130560) }
    | none => t) t

/-- The residue on a plat restored, and started (R154, R341). -/
def restoreResidue (s : State) (L : Nat) (l : Launch) : State :=
  match l.extent l.cap.spillx with
  | none => s
  | some e =>
    let bs := extentBytes s e 0 (spillSize l.cap)
    let ply := BitVec.ofNat 16 (imageWord bs 6)
    let at' := 4096 + (platOf s l.plat).cores.length * coreBytes l.cap
    let recs := sliceOf bs at' 4096
    let units := (upFrom 0 64).filterMap fun u => recordUnit (sliceOf recs (64 * u) 64)
    let regime := (upFrom 0 64).any fun u => (recordUnit (sliceOf recs (64 * u) 64)).isSome && recordRegime (sliceOf recs (64 * u) 64)
    let s1 := restoreUnits L ply regime recs (bs.drop (at' + 4096)) s
    let s2 := restoreCores L l ply units regime bs s1
    let s3 := startLaunch (putLaunch s2 L { l with units := units, regime := regime }) L
    (platOf s3 l.plat).cores.foldl select s3

/-- A residue whose spill header has been checked is restored. -/
def restorePlat (p : Nat) (s : State) : State :=
  let P := platOf s p
  match P.launch with
  | none => s
  | some L =>
    match launchOf s L with
    | none => s
    | some l => if P.state = .placing ∧ l.loaded = true ∧ l.cap.residue = true then restoreResidue s L l else s

/-- R154: RESIDUE_RESTORE. -/
def execResidueRestore (plat : Nat) (s : State) : Host.Outcome State Fault Refusal := event (restorePlat plat) s

end Sys2Proof.Machine
end

