-- ==== Sys2Proof/Machine/Dispatch.lean ====
section
/-! DEFINITION. What each instruction does: one arm per constructor of Instr, each one call of its meaning. -/

namespace Sys2Proof.Machine

/-- The meaning of every instruction, on the current side of the current slot for a word, on the module for an event. -/
def exec (i : Instr) (s : State) : Host.Outcome State Fault Refusal :=
  match i with
  | .ctlNopc => Sys2Proof.Machine.execCtlNopc s
  | .ctlDone => Sys2Proof.Machine.execCtlDone s
  | .ctlRet => Sys2Proof.Machine.execCtlRet s
  | .ctlWait d src t => Sys2Proof.Machine.execCtlWait d src t s
  | .ctlRealign => Sys2Proof.Machine.execCtlRealign s
  | .ctlCallr src => Sys2Proof.Machine.execCtlCallr src s
  | .ctlJr src => Sys2Proof.Machine.execCtlJr src s
  | .brAl off => Sys2Proof.Machine.execBrAl off s
  | .brZ src off => Sys2Proof.Machine.execBrZ src off s
  | .brNz src off => Sys2Proof.Machine.execBrNz src off s
  | .brLz src off => Sys2Proof.Machine.execBrLz src off s
  | .brGez src off => Sys2Proof.Machine.execBrGez src off s
  | .brGz src off => Sys2Proof.Machine.execBrGz src off s
  | .brLez src off => Sys2Proof.Machine.execBrLez src off s
  | .ctlCall off => Sys2Proof.Machine.execCtlCall off s
  | .ctlLoop src off => Sys2Proof.Machine.execCtlLoop src off s
  | .aluAdd d src t => Sys2Proof.Machine.execAluAdd d src t s
  | .aluSub d src t => Sys2Proof.Machine.execAluSub d src t s
  | .aluAnd d src t => Sys2Proof.Machine.execAluAnd d src t s
  | .aluOr d src t => Sys2Proof.Machine.execAluOr d src t s
  | .aluXor d src t => Sys2Proof.Machine.execAluXor d src t s
  | .aluSll d src t => Sys2Proof.Machine.execAluSll d src t s
  | .aluSrl d src t => Sys2Proof.Machine.execAluSrl d src t s
  | .aluSra d src t => Sys2Proof.Machine.execAluSra d src t s
  | .aluSlt d src t => Sys2Proof.Machine.execAluSlt d src t s
  | .aluSltu d src t => Sys2Proof.Machine.execAluSltu d src t s
  | .aluSeq d src t => Sys2Proof.Machine.execAluSeq d src t s
  | .aluSne d src t => Sys2Proof.Machine.execAluSne d src t s
  | .aluMin d src t => Sys2Proof.Machine.execAluMin d src t s
  | .aluMax d src t => Sys2Proof.Machine.execAluMax d src t s
  | .aluMinu d src t => Sys2Proof.Machine.execAluMinu d src t s
  | .aluMaxu d src t => Sys2Proof.Machine.execAluMaxu d src t s
  | .aluMul d src t => Sys2Proof.Machine.execAluMul d src t s
  | .aluMulh d src t => Sys2Proof.Machine.execAluMulh d src t s
  | .aluMulhu d src t => Sys2Proof.Machine.execAluMulhu d src t s
  | .aluDiv d src t => Sys2Proof.Machine.execAluDiv d src t s
  | .aluDivu d src t => Sys2Proof.Machine.execAluDivu d src t s
  | .aluRem d src t => Sys2Proof.Machine.execAluRem d src t s
  | .aluRemu d src t => Sys2Proof.Machine.execAluRemu d src t s
  | .aluMkm d src t sp => Sys2Proof.Machine.execAluMkm d src t sp s
  | .aluMkx d src t sp => Sys2Proof.Machine.execAluMkx d src t sp s
  | .aluMks d src t sp => Sys2Proof.Machine.execAluMks d src t sp s
  | .aluiAddi d src imm => Sys2Proof.Machine.execAluiAddi d src imm s
  | .aluiAndi d src imm => Sys2Proof.Machine.execAluiAndi d src imm s
  | .aluiOri d src imm => Sys2Proof.Machine.execAluiOri d src imm s
  | .aluiXori d src imm => Sys2Proof.Machine.execAluiXori d src imm s
  | .aluiSlli d src sh => Sys2Proof.Machine.execAluiSlli d src sh s
  | .aluiSrli d src sh => Sys2Proof.Machine.execAluiSrli d src sh s
  | .aluiSrai d src sh => Sys2Proof.Machine.execAluiSrai d src sh s
  | .aluiSlti d src imm => Sys2Proof.Machine.execAluiSlti d src imm s
  | .memLd d base sz ord sc off => Sys2Proof.Machine.execMemLd d base sz ord sc off s
  | .memLdu d base sz ord sc off => Sys2Proof.Machine.execMemLdu d base sz ord sc off s
  | .memSt d base sz ord sc off => Sys2Proof.Machine.execMemSt d base sz ord sc off s
  | .memExtpage d base => Sys2Proof.Machine.execMemExtpage d base s
  | .amoAdd d src t ord sc => Sys2Proof.Machine.execAmoAdd d src t ord sc s
  | .amoAnd d src t ord sc => Sys2Proof.Machine.execAmoAnd d src t ord sc s
  | .amoOr d src t ord sc => Sys2Proof.Machine.execAmoOr d src t ord sc s
  | .amoXor d src t ord sc => Sys2Proof.Machine.execAmoXor d src t ord sc s
  | .amoMax d src t ord sc => Sys2Proof.Machine.execAmoMax d src t ord sc s
  | .amoMin d src t ord sc => Sys2Proof.Machine.execAmoMin d src t ord sc s
  | .amoMaxu d src t ord sc => Sys2Proof.Machine.execAmoMaxu d src t ord sc s
  | .amoMinu d src t ord sc => Sys2Proof.Machine.execAmoMinu d src t ord sc s
  | .amoAddw d src t ord sc => Sys2Proof.Machine.execAmoAddw d src t ord sc s
  | .amoAndw d src t ord sc => Sys2Proof.Machine.execAmoAndw d src t ord sc s
  | .amoOrw d src t ord sc => Sys2Proof.Machine.execAmoOrw d src t ord sc s
  | .amoXorw d src t ord sc => Sys2Proof.Machine.execAmoXorw d src t ord sc s
  | .amoMaxw d src t ord sc => Sys2Proof.Machine.execAmoMaxw d src t ord sc s
  | .amoMinw d src t ord sc => Sys2Proof.Machine.execAmoMinw d src t ord sc s
  | .amoMaxuw d src t ord sc => Sys2Proof.Machine.execAmoMaxuw d src t ord sc s
  | .amoMinuw d src t ord sc => Sys2Proof.Machine.execAmoMinuw d src t ord sc s
  | .amoAmax src t ord sc => Sys2Proof.Machine.execAmoAmax src t ord sc s
  | .amoAmaxb src t ord sc => Sys2Proof.Machine.execAmoAmaxb src t ord sc s
  | .amoMaxrd d src ord sc => Sys2Proof.Machine.execAmoMaxrd d src ord sc s
  | .amoMaxrdb d src ord sc => Sys2Proof.Machine.execAmoMaxrdb d src ord sc s
  | .orcDecl src cls => Sys2Proof.Machine.execOrcDecl src cls s
  | .orcApp d src t => Sys2Proof.Machine.execOrcApp d src t s
  | .orcLdt d src t => Sys2Proof.Machine.execOrcLdt d src t s
  | .orcLds d src t => Sys2Proof.Machine.execOrcLds d src t s
  | .futRd d src => Sys2Proof.Machine.execFutRd d src s
  | .futRdc d src t => Sys2Proof.Machine.execFutRdc d src t s
  | .futWr src t => Sys2Proof.Machine.execFutWr src t s
  | .futClr src => Sys2Proof.Machine.execFutClr src s
  | .msgSend d src t pri => Sys2Proof.Machine.execMsgSend d src t pri s
  | .msgSendd d src t pri => Sys2Proof.Machine.execMsgSendd d src t pri s
  | .msgReply d src t => Sys2Proof.Machine.execMsgReply d src t s
  | .msgPlyend => Sys2Proof.Machine.execMsgPlyend s
  | .fenceAll sc => Sys2Proof.Machine.execFenceAll sc s
  | .mxqStep d src t acc => Sys2Proof.Machine.execMxqStep d src t acc s
  | .mxqSteps d src t acc => Sys2Proof.Machine.execMxqSteps d src t acc s
  | .mxqDrain d src t acc => Sys2Proof.Machine.execMxqDrain d src t acc s
  | .mxqPoll d src => Sys2Proof.Machine.execMxqPoll d src s
  | .mxqSleep src => Sys2Proof.Machine.execMxqSleep src s
  | .mxqReclaim acc => Sys2Proof.Machine.execMxqReclaim acc s
  | .mxqRcmd src t => Sys2Proof.Machine.execMxqRcmd src t s
  | .cpqCopy d src q => Sys2Proof.Machine.execCpqCopy d src q s
  | .cpqAddf d src q => Sys2Proof.Machine.execCpqAddf d src q s
  | .cpqAddb d src q => Sys2Proof.Machine.execCpqAddb d src q s
  | .cpqAddi d src q => Sys2Proof.Machine.execCpqAddi d src q s
  | .cpqBar d q => Sys2Proof.Machine.execCpqBar d q s
  | .cpqFill d src q => Sys2Proof.Machine.execCpqFill d src q s
  | .cpqPoll d src => Sys2Proof.Machine.execCpqPoll d src s
  | .cpqSleep src => Sys2Proof.Machine.execCpqSleep src s
  | .cpqRcmd src t => Sys2Proof.Machine.execCpqRcmd src t s
  | .sysResumeReturn src t => Sys2Proof.Machine.execSysResumeReturn src t s
  | .sysResumeRedo src t => Sys2Proof.Machine.execSysResumeRedo src t s
  | .sysResumeDiscard src t => Sys2Proof.Machine.execSysResumeDiscard src t s
  | .sysResumeComplete src t => Sys2Proof.Machine.execSysResumeComplete src t s
  | .sysChain src t => Sys2Proof.Machine.execSysChain src t s
  | .sysLaunch src t => Sys2Proof.Machine.execSysLaunch src t s
  | .sysChmask src t => Sys2Proof.Machine.execSysChmask src t s
  | .sysCancel src => Sys2Proof.Machine.execSysCancel src s
  | .sysDigest src t => Sys2Proof.Machine.execSysDigest src t s
  | .sysFail src => Sys2Proof.Machine.execSysFail src s
  | .sysFpt => Sys2Proof.Machine.execSysFpt s
  | .sysRdsr d num => Sys2Proof.Machine.execSysRdsr d num s
  | .sysWrsr src num => Sys2Proof.Machine.execSysWrsr src num s
  | .fmtSetA fd fa fb scl => Sys2Proof.Machine.execFmtSetA fd fa fb scl s
  | .liSx d imm => Sys2Proof.Machine.execLiSx d imm s
  | .liZx d imm => Sys2Proof.Machine.execLiZx d imm s
  | .liHi d src imm => Sys2Proof.Machine.execLiHi d src imm s
  | .jmplGo src imm => Sys2Proof.Machine.execJmplGo src imm s
  | .jmplCall src imm => Sys2Proof.Machine.execJmplCall src imm s
  | .sendlAct d src imm => Sys2Proof.Machine.execSendlAct d src imm s
  | .sendlData d src imm => Sys2Proof.Machine.execSendlData d src imm s
  | .nopX => Sys2Proof.Machine.execNopX s
  | .iaAdd d src t => Sys2Proof.Machine.execIaAdd d src t s
  | .iaSub d src t => Sys2Proof.Machine.execIaSub d src t s
  | .iaAnd d src t => Sys2Proof.Machine.execIaAnd d src t s
  | .iaOr d src t => Sys2Proof.Machine.execIaOr d src t s
  | .iaXor d src t => Sys2Proof.Machine.execIaXor d src t s
  | .iaSll d src t => Sys2Proof.Machine.execIaSll d src t s
  | .iaSrl d src t => Sys2Proof.Machine.execIaSrl d src t s
  | .iaSra d src t => Sys2Proof.Machine.execIaSra d src t s
  | .iaMul d src t => Sys2Proof.Machine.execIaMul d src t s
  | .iaMulh d src t => Sys2Proof.Machine.execIaMulh d src t s
  | .iaMulhu d src t => Sys2Proof.Machine.execIaMulhu d src t s
  | .iaDiv d src t => Sys2Proof.Machine.execIaDiv d src t s
  | .iaDivu d src t => Sys2Proof.Machine.execIaDivu d src t s
  | .iaRem d src t => Sys2Proof.Machine.execIaRem d src t s
  | .iaRemu d src t => Sys2Proof.Machine.execIaRemu d src t s
  | .iaMin d src t => Sys2Proof.Machine.execIaMin d src t s
  | .iaMax d src t => Sys2Proof.Machine.execIaMax d src t s
  | .iaMinu d src t => Sys2Proof.Machine.execIaMinu d src t s
  | .iaMaxu d src t => Sys2Proof.Machine.execIaMaxu d src t s
  | .iaClz d src => Sys2Proof.Machine.execIaClz d src s
  | .iaCtz d src => Sys2Proof.Machine.execIaCtz d src s
  | .iaPopc d src => Sys2Proof.Machine.execIaPopc d src s
  | .iaSel d src t pred => Sys2Proof.Machine.execIaSel d src t pred s
  | .iaSlt d src t => Sys2Proof.Machine.execIaSlt d src t s
  | .iaSltu d src t => Sys2Proof.Machine.execIaSltu d src t s
  | .iaAdds d src t => Sys2Proof.Machine.execIaAdds d src t s
  | .iaSubs d src t => Sys2Proof.Machine.execIaSubs d src t s
  | .iaiAddi d src imm => Sys2Proof.Machine.execIaiAddi d src imm s
  | .iaiAndi d src imm => Sys2Proof.Machine.execIaiAndi d src imm s
  | .iaiOri d src imm => Sys2Proof.Machine.execIaiOri d src imm s
  | .iaiXori d src imm => Sys2Proof.Machine.execIaiXori d src imm s
  | .iaiSlli d src sh => Sys2Proof.Machine.execIaiSlli d src sh s
  | .iaiSrli d src sh => Sys2Proof.Machine.execIaiSrli d src sh s
  | .iaiSrai d src sh => Sys2Proof.Machine.execIaiSrai d src sh s
  | .iaiLui d imm => Sys2Proof.Machine.execIaiLui d imm s
  | .faAdd d src t f => Sys2Proof.Machine.execFaAdd d src t f s
  | .faSub d src t f => Sys2Proof.Machine.execFaSub d src t f s
  | .faMul d src t f => Sys2Proof.Machine.execFaMul d src t f s
  | .faFma d src t f => Sys2Proof.Machine.execFaFma d src t f s
  | .faFms d src t f => Sys2Proof.Machine.execFaFms d src t f s
  | .faFnma d src t f => Sys2Proof.Machine.execFaFnma d src t f s
  | .faMin d src t f => Sys2Proof.Machine.execFaMin d src t f s
  | .faMax d src t f => Sys2Proof.Machine.execFaMax d src t f s
  | .faAbs d src f => Sys2Proof.Machine.execFaAbs d src f s
  | .faNeg d src f => Sys2Proof.Machine.execFaNeg d src f s
  | .faRcpe d src f => Sys2Proof.Machine.execFaRcpe d src f s
  | .faRcps d src t f => Sys2Proof.Machine.execFaRcps d src t f s
  | .faRsqe d src f => Sys2Proof.Machine.execFaRsqe d src f s
  | .faSqrt d src f => Sys2Proof.Machine.execFaSqrt d src f s
  | .faClass d src f => Sys2Proof.Machine.execFaClass d src f s
  | .faCeq d src t f => Sys2Proof.Machine.execFaCeq d src t f s
  | .faClt d src t f => Sys2Proof.Machine.execFaClt d src t f s
  | .faCle d src t f => Sys2Proof.Machine.execFaCle d src t f s
  | .cvtEncS d src => Sys2Proof.Machine.execCvtEncS d src s
  | .cvtDecS d src => Sys2Proof.Machine.execCvtDecS d src s
  | .cvtCnvS d src => Sys2Proof.Machine.execCvtCnvS d src s
  | .cvtFtiS d src => Sys2Proof.Machine.execCvtFtiS d src s
  | .cvtItfS d src => Sys2Proof.Machine.execCvtItfS d src s
  | .cvtTblw src t => Sys2Proof.Machine.execCvtTblw src t s
  | .cvtEncV d src => Sys2Proof.Machine.execCvtEncV d src s
  | .cvtDecV d src => Sys2Proof.Machine.execCvtDecV d src s
  | .cvtCnvV d src => Sys2Proof.Machine.execCvtCnvV d src s
  | .cvtFtiV d src => Sys2Proof.Machine.execCvtFtiV d src s
  | .cvtItfV d src => Sys2Proof.Machine.execCvtItfV d src s
  | .cvtPack d src t => Sys2Proof.Machine.execCvtPack d src t s
  | .cvtUnpk d src t => Sys2Proof.Machine.execCvtUnpk d src t s
  | .prAnd d src t => Sys2Proof.Machine.execPrAnd d src t s
  | .prOr d src t => Sys2Proof.Machine.execPrOr d src t s
  | .prXor d src t => Sys2Proof.Machine.execPrXor d src t s
  | .prAndn d src t => Sys2Proof.Machine.execPrAndn d src t s
  | .prNot d src => Sys2Proof.Machine.execPrNot d src s
  | .prSet d src => Sys2Proof.Machine.execPrSet d src s
  | .prGet d src => Sys2Proof.Machine.execPrGet d src s
  | .prCeq d src t => Sys2Proof.Machine.execPrCeq d src t s
  | .prCne d src t => Sys2Proof.Machine.execPrCne d src t s
  | .prClt d src t => Sys2Proof.Machine.execPrClt d src t s
  | .prCle d src t => Sys2Proof.Machine.execPrCle d src t s
  | .prCltu d src t => Sys2Proof.Machine.execPrCltu d src t s
  | .prCleu d src t => Sys2Proof.Machine.execPrCleu d src t s
  | .prAny d src t => Sys2Proof.Machine.execPrAny d src t s
  | .prAll d src t => Sys2Proof.Machine.execPrAll d src t s
  | .prPopc d src t => Sys2Proof.Machine.execPrPopc d src t s
  | .vaAdd d src t pred w => Sys2Proof.Machine.execVaAdd d src t pred w s
  | .vaSub d src t pred w => Sys2Proof.Machine.execVaSub d src t pred w s
  | .vaAdds d src t pred w => Sys2Proof.Machine.execVaAdds d src t pred w s
  | .vaSubs d src t pred w => Sys2Proof.Machine.execVaSubs d src t pred w s
  | .vaAddus d src t pred w => Sys2Proof.Machine.execVaAddus d src t pred w s
  | .vaSubus d src t pred w => Sys2Proof.Machine.execVaSubus d src t pred w s
  | .vaMul d src t pred w => Sys2Proof.Machine.execVaMul d src t pred w s
  | .vaMulh d src t pred w => Sys2Proof.Machine.execVaMulh d src t pred w s
  | .vaAnd d src t pred w => Sys2Proof.Machine.execVaAnd d src t pred w s
  | .vaOr d src t pred w => Sys2Proof.Machine.execVaOr d src t pred w s
  | .vaXor d src t pred w => Sys2Proof.Machine.execVaXor d src t pred w s
  | .vaSll d src t pred w => Sys2Proof.Machine.execVaSll d src t pred w s
  | .vaSrl d src t pred w => Sys2Proof.Machine.execVaSrl d src t pred w s
  | .vaSra d src t pred w => Sys2Proof.Machine.execVaSra d src t pred w s
  | .vaMin d src t pred w => Sys2Proof.Machine.execVaMin d src t pred w s
  | .vaMax d src t pred w => Sys2Proof.Machine.execVaMax d src t pred w s
  | .vaMinu d src t pred w => Sys2Proof.Machine.execVaMinu d src t pred w s
  | .vaMaxu d src t pred w => Sys2Proof.Machine.execVaMaxu d src t pred w s
  | .vaAbs d src pred w => Sys2Proof.Machine.execVaAbs d src pred w s
  | .vaCeq d src t pred w => Sys2Proof.Machine.execVaCeq d src t pred w s
  | .vaClt d src t pred w => Sys2Proof.Machine.execVaClt d src t pred w s
  | .vaCltu d src t pred w => Sys2Proof.Machine.execVaCltu d src t pred w s
  | .vaSel d src t pred w => Sys2Proof.Machine.execVaSel d src t pred w s
  | .vaDot d src t pred => Sys2Proof.Machine.execVaDot d src t pred s
  | .vaRsum d src pred w => Sys2Proof.Machine.execVaRsum d src pred w s
  | .vaRmin d src pred w => Sys2Proof.Machine.execVaRmin d src pred w s
  | .vaRmax d src pred w => Sys2Proof.Machine.execVaRmax d src pred w s
  | .vfAdd d src t pred f => Sys2Proof.Machine.execVfAdd d src t pred f s
  | .vfSub d src t pred f => Sys2Proof.Machine.execVfSub d src t pred f s
  | .vfMul d src t pred f => Sys2Proof.Machine.execVfMul d src t pred f s
  | .vfFma d src t pred f => Sys2Proof.Machine.execVfFma d src t pred f s
  | .vfMin d src t pred f => Sys2Proof.Machine.execVfMin d src t pred f s
  | .vfMax d src t pred f => Sys2Proof.Machine.execVfMax d src t pred f s
  | .vfAbs d src pred f => Sys2Proof.Machine.execVfAbs d src pred f s
  | .vfNeg d src pred f => Sys2Proof.Machine.execVfNeg d src pred f s
  | .vfCeq d src t pred f => Sys2Proof.Machine.execVfCeq d src t pred f s
  | .vfClt d src t pred f => Sys2Proof.Machine.execVfClt d src t pred f s
  | .vfCle d src t pred f => Sys2Proof.Machine.execVfCle d src t pred f s
  | .vfDot d src t pred f => Sys2Proof.Machine.execVfDot d src t pred f s
  | .vfRsum d src pred f => Sys2Proof.Machine.execVfRsum d src pred f s
  | .vfRmin d src pred f => Sys2Proof.Machine.execVfRmin d src pred f s
  | .vfRmax d src pred f => Sys2Proof.Machine.execVfRmax d src pred f s
  | .vfRcpe d src pred f => Sys2Proof.Machine.execVfRcpe d src pred f s
  | .vxMov d src pred w => Sys2Proof.Machine.execVxMov d src pred w s
  | .vxBcast d src pred w => Sys2Proof.Machine.execVxBcast d src pred w s
  | .vxPerm d src t pred w => Sys2Proof.Machine.execVxPerm d src t pred w s
  | .vxRot d src t pred w => Sys2Proof.Machine.execVxRot d src t pred w s
  | .vxZip d src t pred w => Sys2Proof.Machine.execVxZip d src t pred w s
  | .vxUnzip d src t pred w => Sys2Proof.Machine.execVxUnzip d src t pred w s
  | .vxExt d src t w => Sys2Proof.Machine.execVxExt d src t w s
  | .vxIns d src t w => Sys2Proof.Machine.execVxIns d src t w s
  | .vxAmax d src pred => Sys2Proof.Machine.execVxAmax d src pred s
  | .vxScale d src => Sys2Proof.Machine.execVxScale d src s
  | .vxBarq d src => Sys2Proof.Machine.execVxBarq d src s
  | .vxIdx d src pred w => Sys2Proof.Machine.execVxIdx d src pred w s
  | .fmtSetX fd fa fb scl => Sys2Proof.Machine.execFmtSetX fd fa fb scl s
  | .lateFaultDelivery hart slot => Sys2Proof.Machine.execLateFaultDelivery hart slot s
  | .codeEndFallthrough hart slot => Sys2Proof.Machine.execCodeEndFallthrough hart slot s
  | .sideBlockRelease hart slot side => Sys2Proof.Machine.execSideBlockRelease hart slot side s
  | .slotRelease hart slot => Sys2Proof.Machine.execSlotRelease hart slot s
  | .fenceComplete hart slot => Sys2Proof.Machine.execFenceComplete hart slot s
  | .ctlWaitWake hart slot => Sys2Proof.Machine.execCtlWaitWake hart slot s
  | .realignRelease hart slot => Sys2Proof.Machine.execRealignRelease hart slot s
  | .realignTimeout hart slot => Sys2Proof.Machine.execRealignTimeout hart slot s
  | .sysChainCommit hart slot => Sys2Proof.Machine.execSysChainCommit hart slot s
  | .budgetTick hart slot => Sys2Proof.Machine.execBudgetTick hart slot s
  | .budgetExhausted hart slot => Sys2Proof.Machine.execBudgetExhausted hart slot s
  | .hangDetected plat => Sys2Proof.Machine.execHangDetected plat s
  | .activeMessageArrival k => Sys2Proof.Machine.execActiveMessageArrival k s
  | .dataMessageArrival k => Sys2Proof.Machine.execDataMessageArrival k s
  | .replyMessageArrival k => Sys2Proof.Machine.execReplyMessageArrival k s
  | .nackMessageArrival k => Sys2Proof.Machine.execNackMessageArrival k s
  | .messageResend k => Sys2Proof.Machine.execMessageResend k s
  | .ownershipRetryTimeout k => Sys2Proof.Machine.execOwnershipRetryTimeout k s
  | .meshLoadArrival k => Sys2Proof.Machine.execMeshLoadArrival k s
  | .meshStoreArrival k => Sys2Proof.Machine.execMeshStoreArrival k s
  | .amoArrival k => Sys2Proof.Machine.execAmoArrival k s
  | .coalesceFlushTimer hart line => Sys2Proof.Machine.execCoalesceFlushTimer hart line s
  | .futureReadArrival k => Sys2Proof.Machine.execFutureReadArrival k s
  | .futureWriteArrival k => Sys2Proof.Machine.execFutureWriteArrival k s
  | .futureClearArrival k => Sys2Proof.Machine.execFutureClearArrival k s
  | .orcDeclArrival k => Sys2Proof.Machine.execOrcDeclArrival k s
  | .orcAppendArrival k => Sys2Proof.Machine.execOrcAppendArrival k s
  | .orcTentativeLoadArrival k => Sys2Proof.Machine.execOrcTentativeLoadArrival k s
  | .orcSettledLoadArrival k => Sys2Proof.Machine.execOrcSettledLoadArrival k s
  | .orcRetryBudgetExhausted k => Sys2Proof.Machine.execOrcRetryBudgetExhausted k s
  | .sequenceWatermarkAdvance unit => Sys2Proof.Machine.execSequenceWatermarkAdvance unit s
  | .plyBarrierComplete plat => Sys2Proof.Machine.execPlyBarrierComplete plat s
  | .kickRegisterStore k => Sys2Proof.Machine.execKickRegisterStore k s
  | .engineJobAccept cluster eng => Sys2Proof.Machine.execEngineJobAccept cluster eng s
  | .remoteCommandArrival k => Sys2Proof.Machine.execRemoteCommandArrival k s
  | .mxeStepJob cluster => Sys2Proof.Machine.execMxeStepJob cluster s
  | .carryStallResume cluster => Sys2Proof.Machine.execCarryStallResume cluster s
  | .mxeDrainJob cluster => Sys2Proof.Machine.execMxeDrainJob cluster s
  | .mxeReclaimJob cluster => Sys2Proof.Machine.execMxeReclaimJob cluster s
  | .engineCompletionReport cluster eng k => Sys2Proof.Machine.execEngineCompletionReport cluster eng k s
  | .cpeCopyJob cluster q => Sys2Proof.Machine.execCpeCopyJob cluster q s
  | .cpeReduceJob cluster q => Sys2Proof.Machine.execCpeReduceJob cluster q s
  | .cpeFillJob cluster q => Sys2Proof.Machine.execCpeFillJob cluster q s
  | .cpeBarrierJob cluster q => Sys2Proof.Machine.execCpeBarrierJob cluster q s
  | .sequencedReduceArrival k => Sys2Proof.Machine.execSequencedReduceArrival k s
  | .storerWriteAck k => Sys2Proof.Machine.execStorerWriteAck k s
  | .uqwiNotify q wi => Sys2Proof.Machine.execUqwiNotify q wi s
  | .packetNop q => Sys2Proof.Machine.execPacketNop q s
  | .packetLaunch q => Sys2Proof.Machine.execPacketLaunch q s
  | .packetCounterWait q => Sys2Proof.Machine.execPacketCounterWait q s
  | .counterWaitRelease q => Sys2Proof.Machine.execCounterWaitRelease q s
  | .packetCancel q => Sys2Proof.Machine.execPacketCancel q s
  | .placement w plat => Sys2Proof.Machine.execPlacement w plat s
  | .extentLoading plat => Sys2Proof.Machine.execExtentLoading plat s
  | .launchComplete plat => Sys2Proof.Machine.execLaunchComplete plat s
  | .platZeroingComplete plat => Sys2Proof.Machine.execPlatZeroingComplete plat s
  | .preemptionRequest plat => Sys2Proof.Machine.execPreemptionRequest plat s
  | .preemptionSpill plat => Sys2Proof.Machine.execPreemptionSpill plat s
  | .residueRestore plat => Sys2Proof.Machine.execResidueRestore plat s
  | .uncorrectableErrorConsumed place => Sys2Proof.Machine.execUncorrectableErrorConsumed place s
  | .correctableError place => Sys2Proof.Machine.execCorrectableError place s
  | .fenceSelftestComplete plat pass => Sys2Proof.Machine.execFenceSelftestComplete plat pass s
  | .pageRetirement page spare => Sys2Proof.Machine.execPageRetirement page spare s
  | .extentZeroingRequest base len => Sys2Proof.Machine.execExtentZeroingRequest base len s
  | .agreementPoint hart => Sys2Proof.Machine.execAgreementPoint hart s
  | .pairSelftestComplete hart leaderOk followerOk => Sys2Proof.Machine.execPairSelftestComplete hart leaderOk followerOk s
  | .digestCompare plat stepNo digest third => Sys2Proof.Machine.execDigestCompare plat stepNo digest third s
  | .linkFlitArrival port flit => Sys2Proof.Machine.execLinkFlitArrival port flit s
  | .exchangeTick port => Sys2Proof.Machine.execExchangeTick port s
  | .linkDown port => Sys2Proof.Machine.execLinkDown port s
  | .collectiveTimeout k => Sys2Proof.Machine.execCollectiveTimeout k s
  | .alignmentRestore port => Sys2Proof.Machine.execAlignmentRestore port s
  | .regimeChange plat => Sys2Proof.Machine.execRegimeChange plat s
  | .setModuleDrain => Sys2Proof.Machine.execSetModuleDrain s
  | .clearModuleDrain => Sys2Proof.Machine.execClearModuleDrain s
  | .setPlatDrain => Sys2Proof.Machine.execSetPlatDrain s
  | .clearPlatDrain => Sys2Proof.Machine.execClearPlatDrain s
  | .publishSnapshotNow => Sys2Proof.Machine.execPublishSnapshotNow s
  | .registerGrant => Sys2Proof.Machine.execRegisterGrant s
  | .configureUserQueue => Sys2Proof.Machine.execConfigureUserQueue s
  | .raiseMinimumSerial => Sys2Proof.Machine.execRaiseMinimumSerial s
  | .invalidSurveyCommand => Sys2Proof.Machine.execInvalidSurveyCommand s
  | .hostRegisterWrite off val => Sys2Proof.Machine.execHostRegisterWrite off val s
  | .gazetteerPublish => Sys2Proof.Machine.execGazetteerPublish s
  | .platDefine plat x4 y2 w h rbudget => Sys2Proof.Machine.execPlatDefine plat x4 y2 w h rbudget s
  | .clusterRetire cluster => Sys2Proof.Machine.execClusterRetire cluster s
  | .grade4Entry code => Sys2Proof.Machine.execGrade4Entry code s
  | .moduleBoot => Sys2Proof.Machine.execModuleBoot s
  | .cancelledLaunchEnd plat => Sys2Proof.Machine.execCancelledLaunchEnd plat s
  | .fullSelftestComplete plat pass => Sys2Proof.Machine.execFullSelftestComplete plat pass s
  | .extentLoadDataReturn k => Sys2Proof.Machine.execExtentLoadDataReturn k s
  | .sendAcceptance k => Sys2Proof.Machine.execSendAcceptance k s

end Sys2Proof.Machine
end

