-- ==== Sys2Proof/Machine/Firmware.lean ====
section
/-! DEFINITION. What the survey firmware does beside the events of the opcode table (spec/00 R1, spec/02 R38, spec/03 R57,
spec/11 R202; log 61). -/

namespace Sys2Proof.Machine

/-- The order of the port of a gateway core changed at the request of plat p, which uses the port (R38): the order of each flow,
or alignment, which is restored only at a ply boundary (R140). -/
def changeOrdering (p h : Nat) (flows : Bool) (s : State) : State :=
  let k := portOfCore h
  if Config.nChannelEnd ≤ h ∧ h < Config.nHarts ∧ ((platOf s p).launch.any fun L => (portLaunches s k).contains L) = true then
    if flows then fallBack s k else restoreAlignment k s
  else s

/-- DEF of a plat that is FREE or OFFLINE cleared (R177): its rectangle may be defined anew. -/
def undefine (p : Nat) (s : State) : State :=
  let P := platOf s p
  if P.state = .free ∨ P.state = .offline then putPlat { s with gzChanged := true } p { P with defd := false } else s

/-- What the firmware does in a turn of its own: the registers of a survey core change, bytes of the 4 GiB of module flash or of
the reserved HBM are written, a port's order changes, the module is bound as a replica or no longer, or a plat is no longer
defined. -/
def runFirmware (f : Firmware) (s : State) : State :=
  match f with
  | .core k c => { s with survey := s.survey.set k c }
  | .flash a bs => if a + bs.length ≤ 2 ^ 32 then { s with flash := Memory.writeBytes s.flash a bs } else s
  | .reserved a bs => if 0x1fc00000000 ≤ a ∧ a + bs.length ≤ 0x20000000000 then hbmWrite s a bs else s
  | .ordering p h flows => changeOrdering p h flows s
  | .replica bound => { s with replicated := bound }
  | .undefine p => undefine p s

end Sys2Proof.Machine
end

