-- ==== Sys2Proof/Machine/Step.lean ====
section
/-! DEFINITION. One step of the module: the agent whose turn it is acts (log 2). -/

namespace Sys2Proof.Machine

/-- The decoded word run on the current side of the current slot. -/
noncomputable def runWord (side : Side) (d : Dec Instr) (s : State) : Host.Outcome State Fault Refusal :=
  match d with
  | .ok i => exec i s
  | .error f => .next (illegalWord side (decodeFaultInfo f) s)

/-- The A-side of the current slot: a late fault that it takes at the bundle boundary comes first (R241), then the end of the code window
(R224), then the word at pc. -/
noncomputable def stepSideA (s : State) : Host.Outcome State Fault Refusal :=
  if (curSlot s).nextLate.isNone then
    if codeLen s (curLaunch s) ≤ (curSlot s).pc then exec (.codeEndFallthrough (curHart s) (curNum s)) s
    else runWord .aSide (nextC s) s
  else exec (.lateFaultDelivery (curHart s) (curNum s)) s

/-- The E-side of the current slot: the X-word of its next bundle, if it has one (R106). -/
noncomputable def stepSideE (s : State) : Host.Outcome State Fault Refusal :=
  match (curSlot s).ePos with
  | some b => runWord .eSide (nextX s b) s
  | none => .next s

/-- May the current slot issue: it runs, and its launch is not halted (R203)? -/
def mayIssue (s : State) : Bool :=
  decide (curHart s < Config.nHarts) && (curSlot s).running && !((launchOf s (curLaunch s)).map (·.halted)).getD false

/-- The current side of the current slot; a slot that may not issue does nothing. -/
noncomputable def stepSide (s : State) : Host.Outcome State Fault Refusal :=
  if mayIssue s then
    match s.cur.2.2 with
    | .aSide => stepSideA s
    | .eSide => stepSideE s
  else .next s

/-- One cycle later. -/
def tick (s : State) : State := { s with cycle := s.cycle + 1 }

/-- The other side's turn next. -/
def flipSide (s : State) : State :=
  { s with cur := (s.cur.1, s.cur.2.1, match s.cur.2.2 with
    | .aSide => .eSide
    | .eSide => .aSide) }

/-- What follows an outcome that goes on. -/
def onNext (f : State → State) : Host.Outcome State Fault Refusal → Host.Outcome State Fault Refusal
  | .next t => .next (f t)
  | .fault e => .fault e
  | .refused r => .refused r

/-- What the agenda's first turn does, the rest of the agenda being already in place. -/
noncomputable def takeTurn (t : Turn) (s : State) : Host.Outcome State Fault Refusal :=
  match t with
  | .word h n side => stepSide { s with cur := (h, n, side) }
  | .event i => exec i s
  | .firmware f => .next (runFirmware f s)
  | .transmit port flow ftype cells blen dmod body => .next (transmit port flow ftype cells blen dmod body s)
  | .pass n => .next { s with cycle := s.cycle + n }

/-- A default turn: the current side of the current slot acts, a cycle passes, and the other side is next. -/
noncomputable def defaultTurn (s : State) : Host.Outcome State Fault Refusal := onNext (fun t => flipSide (tick t)) (stepSide s)

/-- What follows every turn: the budgets are counted, a launch whose budget was used up ends (R192), the ports release what is due
(R140), and the hang intervals are brought up to date (R176). -/
def settleTurn (s : State) : State := watchIdle (settlePorts (passTime s))

/-- One step: the first turn of the agenda, or, with an empty agenda, the current side of the current slot. -/
noncomputable def step (s : State) : Host.Outcome State Fault Refusal :=
  onNext settleTurn
    (match s.agenda with
     | [] => defaultTurn s
     | t :: ts => takeTurn t { s with agenda := ts })

/-- The state with an instruction placed where step fetches its next one. -/
noncomputable def State.withFetchWord (s : State) (_nbits w : Nat) : State := placeBundle s (bundleOf w).1 (bundleOf w).2

end Sys2Proof.Machine
end

