-- ==== Sys2Proof/Safety.lean ====
section
/-! DEFINITION. What a run of the module must keep, and the terms in which claims speak of a word: when a side of the current
slot can issue, and the state after its word retires. -/

namespace Sys2Proof.Machine

/-! ## What a run keeps -/

/-- Every memory of a core is in canonical form. -/
def Hart.memOk (H : Hart) : Bool := H.ctxs.all fun c => Memory.wf c.scratch

/-- Every memory of the module is in canonical form (log 3). -/
def State.memOk (s : State) : Bool := Memory.wf s.hbm && Memory.wf s.hostMem && Memory.wf s.flash && Memory.wf s.measured && s.harts.all fun p => p.2.memOk

/-! ## Issuing and retiring -/

/-- The A-side of the current slot issues its word and nothing stands before it: it runs on a core of the module, its slip
window has room, it does not sleep, its pair waits for nothing, and no prefix is pending. -/
def AReady (s : State) : Prop :=
  curHart s < Config.nHarts ∧ (curSlot s).running = true ∧ (curSlot s).path.length < 64 ∧ (curSlot s).sleeping = false ∧
  pairStall s = false ∧ (curSlot s).aPrefix = none

/-- The E-side of the current slot issues its word and nothing stands before it. -/
def EReady (s : State) : Prop :=
  curHart s < Config.nHarts ∧ (curSlot s).running = true ∧ (curSlot s).ePos.isSome = true ∧
  ((curSlot s).paired && (hartOf s (curHart s)).selftest) = false ∧ (curSlot s).ePrefix = none

/-- The state after an A-side word that goes on to the next bundle. -/
def endA (lone : Bool) (t : State) : State := retireAt t (curHart t) (curNum t) (curSlot t) lone .next
/-- The state after an A-side word that transfers to bundle b. -/
def endJump (lone : Bool) (b : Nat) (t : State) : State := retireAt t (curHart t) (curNum t) (curSlot t) lone (.jump b)
/-- The state after an E-side word. -/
def endE (t : State) : State := putCur t (curSlot t).retireE
/-- The state after a governable word of the A-side, or of the E-side: its prefix is consumed as it retires. -/
def endGovA (t : State) : State := retireAt t (curHart t) (curNum t) (curSlot t).consumeA false .next
def endGovE (t : State) : State := putCur t (curSlot t).consumeE.retireE

end Sys2Proof.Machine
end

