-- ==== Sys2Proof/Certificates/Slice0/Obligations.lean ====
section
/-! DEFINITION. The statements for the provers: what the rules of spec/ say that instructions and the module do. -/

namespace Sys2Proof.Claims

open Sys2Proof.Machine

/-! ## The terms of the statements -/

/-- The fingerprint of a core with a result taken in (R199). -/
def signed (h : Nat) (w : Word) (s : State) : State :=
  putHart s h { hartOf s h with fpr := (hartOf s h).fpr.rotateLeft 5 ^^^ w }

/-- The state after a result of a retiring word has entered the fingerprints of a pair (R199). -/
def noted (w : Word) (s : State) : State :=
  if (curSlot s).paired then signed (curHart s + 1) w (signed (curHart s) w s) else s

/-- Nothing of the module differs but the slot whose turn it is, and what a pair counts and signs as its words retire:
the checkpoint moves only past a word that has waited for its agreement point. -/
def OnlySlot (s t : State) : Prop :=
  t = { s with harts := t.harts } ∧
  (∀ h n, (h ≠ curHart s ∨ n % 8 ≠ curNum s % 8) → slotOf t h n = slotOf s h n) ∧
  (∀ h, hartOf t h =
    { hartOf s h with slots := (hartOf t h).slots, fpr := (hartOf t h).fpr, sinceAgree := (hartOf t h).sinceAgree,
                      checkpoint := (hartOf t h).checkpoint }) ∧
  ((curSlot s).paired = false ∨ (curSlot s).agreed = false → ∀ h, (hartOf t h).checkpoint = (hartOf s h).checkpoint) ∧
  ((curSlot s).paired = false → ∀ h, (hartOf t h).fpr = (hartOf s h).fpr ∧ (hartOf t h).sinceAgree = (hartOf s h).sinceAgree)

/-- Every byte of every memory reads as before. -/
def SameMemory (s t : State) : Prop :=
  (∀ h L a, Memory.read (ctxOf t h L).scratch a = Memory.read (ctxOf s h L).scratch a) ∧
  (∀ a, Memory.read t.hbm a = Memory.read s.hbm a) ∧ (∀ a, Memory.read t.hostMem a = Memory.read s.hostMem a)

/-- The destination d is not register n, queue k, stream n. -/
def SameA (d : ADst) (x y : ASrc) (σ τ : Slot) : Prop :=
  (∀ n : Fin 16, d ≠ .a n → τ.a[n] = σ.a[n]) ∧ (∀ k : Fin 4, d ≠ .lq k → τ.lq[k] = σ.lq[k]) ∧
  (∀ n : Fin 4, d ≠ .sm n → τ.sm[n] = σ.sm[n]) ∧
  (∀ q : Fin 2, x ≠ .sq q → y ≠ .sq q → τ.sq[q] = σ.sq[q]) ∧ (x ≠ .cq → y ≠ .cq → τ.cq = σ.cq) ∧
  τ = { σ with a := τ.a, lq := τ.lq, sm := τ.sm, sq := τ.sq, cq := τ.cq, pc := τ.pc, path := τ.path, aWait := none,
                  agreed := false }

/-- A source that is no stream register. -/
def NoStream (x : ASrc) : Prop := ∀ n, x ≠ .sm n

/-! ## The integer instructions of the A-side -/

/-- The functions of R236 on two sources. -/
def aluTable : List ((ADst → ASrc → ASrc → Instr) × (Word → Word → Word)) :=
  [(.aluAdd, fun x y => x + y), (.aluSub, fun x y => x - y), (.aluAnd, fun x y => x &&& y), (.aluOr, fun x y => x ||| y),
   (.aluXor, fun x y => x ^^^ y), (.aluSll, fun x y => x <<< (y.toNat % 64)), (.aluSrl, fun x y => x >>> (y.toNat % 64)),
   (.aluSra, fun x y => x.sshiftRight (y.toNat % 64)), (.aluSlt, fun x y => if x.toInt < y.toInt then 1 else 0),
   (.aluSltu, fun x y => if x.toNat < y.toNat then 1 else 0), (.aluSeq, fun x y => if x = y then 1 else 0),
   (.aluSne, fun x y => if x = y then 0 else 1), (.aluMin, fun x y => if y.toInt < x.toInt then y else x),
   (.aluMax, fun x y => if x.toInt < y.toInt then y else x), (.aluMinu, fun x y => if y.toNat < x.toNat then y else x),
   (.aluMaxu, fun x y => if x.toNat < y.toNat then y else x), (.aluMul, fun x y => x * y),
   (.aluMulh, fun x y => BitVec.ofInt 64 (x.toInt * y.toInt / 2 ^ 64)),
   (.aluMulhu, fun x y => BitVec.ofNat 64 (x.toNat * y.toNat / 2 ^ 64))]

/-- The functions of R239 on one source and an immediate, with li.hi of R230. -/
def aluiTable : List ((ADst → ASrc → BitVec 15 → Instr) × (Word → BitVec 15 → Word)) :=
  [(.aluiAddi, fun x i => x + i.signExtend 64), (.aluiAndi, fun x i => x &&& i.zeroExtend 64),
   (.aluiOri, fun x i => x ||| i.zeroExtend 64), (.aluiXori, fun x i => x ^^^ i.zeroExtend 64),
   (.aluiSlti, fun x i => if x.toInt < i.toInt then 1 else 0)]

/-- The shifts of R239. -/
def aluiShifts : List ((ADst → ASrc → BitVec 6 → Instr) × (Word → BitVec 6 → Word)) :=
  [(.aluiSlli, fun x i => x <<< i.toNat), (.aluiSrli, fun x i => x >>> i.toNat), (.aluiSrai, fun x i => x.sshiftRight i.toNat)]

/-- The composed pointers of R238: the instruction, the limits of S and T, and the value. -/
def composeTable : List ((ADst → ASrc → ASrc → Instr) × Nat × Nat × (Word → Word → Word)) :=
  [(fun d x y => .aluMkm d x y 1, 2 ^ 20, 2 ^ 18, fun a b => (1 : Word) <<< 60 ||| a <<< 40 ||| b),
   (fun d x y => .aluMkm d x y 2, 2 ^ 20, 2 ^ 18, fun a b => (2 : Word) <<< 60 ||| a <<< 40 ||| b),
   (fun d x y => .aluMkm d x y 5, 2 ^ 20, 2 ^ 18, fun a b => (5 : Word) <<< 60 ||| a <<< 40 ||| b),
   (fun d x y => .aluMkx d x y 4, 64, 2 ^ 48, fun a b => (4 : Word) <<< 60 ||| a <<< 54 ||| b),
   (fun d x y => .aluMkx d x y 5, 64, 2 ^ 39, fun a b => (5 : Word) <<< 60 ||| a <<< 54 ||| (1 : Word) <<< 39 ||| b),
   (fun d x y => .aluMks d x y 6, 1, 2 ^ 12, fun _ b => (6 : Word) <<< 60 ||| b),
   (fun d x y => .aluMks d x y 7, 2 ^ 20, 1, fun a _ => (7 : Word) <<< 60 ||| a <<< 40)]

/-- The word that writes w to d after the sources have been read, ending in state t. -/
def WritesA (i : Instr) (s s2 : State) (d : ADst) (w : Word) : Prop :=
  ∀ t, writeA d w s2 = .ok ((), t) → exec i s = .next (endA false t)

/-- The conditions of R226 on S. -/
def branchTable : List ((ASrc → BitVec 17 → Instr) × (Word → Bool)) :=
  [(.brZ, fun v => v == 0), (.brNz, fun v => v != 0), (.brLz, fun v => decide (v.toInt < 0)),
   (.brGez, fun v => decide (0 ≤ v.toInt)), (.brGz, fun v => decide (0 < v.toInt)), (.brLez, fun v => decide (v.toInt ≤ 0))]

/-- A transfer to bundle b of R224, from the state u: the word ends there, or waits, or faults. -/
def Transfers (i : Instr) (lone : Bool) (s u : State) (b : Int) : Prop :=
  (0 ≤ b → b < codeLen s (curLaunch s) → (curSlot s).bq.length < 64 → exec i s = .next (endJump lone b.toNat u)) ∧
  (0 ≤ b → b < codeLen s (curLaunch s) → 64 ≤ (curSlot s).bq.length → exec i s = .next (markA s .branchFull)) ∧
  (b < 0 ∨ (codeLen s (curLaunch s) : Int) ≤ b →
    exec i s = .next (takeTrap s s .aSide ⟨codeCodeEnd, 0x002, BitVec.ofInt 64 b⟩))

end Sys2Proof.Claims

open Sys2Proof Sys2Proof.Machine Sys2Proof.Claims

/-! ## A-side: integers, pointers and transfers -/

/-- R236 with R223: each alu instruction but the divisions reads S, then T, and writes its function of them to D, and the
A-side goes on to the next bundle. -/
def Obligations.AluWritesItsFunction : Prop :=
  ∀ p ∈ aluTable, ∀ (d : ADst) (x y : ASrc) (s s1 s2 : State) (a b : Word), AReady s → readA x s = .ok (a, s1) →
    readA y s1 = .ok (b, s2) → WritesA (p.1 d x y) s s2 d (p.2 a b)

/-- R237: division never faults, and its edge cases give the values of the rule's table. -/
def Obligations.DivisionNeverFaults : Prop :=
  ∀ (d : ADst) (x y : ASrc) (s s1 s2 : State) (a b : Word), AReady s → readA x s = .ok (a, s1) → readA y s1 = .ok (b, s2) →
    ∃ q r qu ru : Word,
      WritesA (.aluDiv d x y) s s2 d q ∧ WritesA (.aluRem d x y) s s2 d r ∧
      WritesA (.aluDivu d x y) s s2 d qu ∧ WritesA (.aluRemu d x y) s s2 d ru ∧
      (b = 0 → q = 0xffffffffffffffff ∧ r = a ∧ qu = 0xffffffffffffffff ∧ ru = a) ∧
      (a = 0x8000000000000000 → b = 0xffffffffffffffff → q = 0x8000000000000000 ∧ r = 0 ∧ qu = 0 ∧ ru = a) ∧
      (a = 0xfffffffffffffff9 → b = 2 → q = 0xfffffffffffffffd ∧ r = 0xffffffffffffffff ∧ qu = 0x7ffffffffffffffc ∧ ru = 1) ∧
      (b ≠ 0 → qu = BitVec.ofNat 64 (a.toNat / b.toNat) ∧ ru = BitVec.ofNat 64 (a.toNat % b.toNat)) ∧
      (b ≠ 0 → q = BitVec.ofInt 64 (a.toInt.tdiv b.toInt) ∧ r.toInt = a.toInt.tmod b.toInt) ∧
      (b ≠ 0 → a = b * q + r ∧ r.toInt.natAbs < b.toInt.natAbs)

/-- R239, R230 and R231: each alui instruction writes its function of S and the immediate to D; li.sx, li.zx and li.hi
write their constants, as lone words; ctl.nopc only goes on.
R238: the composed pointers, within their limits, and BOUNDS outside them with nothing written or consumed. -/
def Obligations.ImmediatesAndComposedPointers : Prop :=
  ((∀ p ∈ aluiTable, ∀ (d : ADst) (x : ASrc) (i : BitVec 15) (s s1 : State) (a : Word), AReady s → readA x s = .ok (a, s1) →
     WritesA (p.1 d x i) s s1 d (p.2 a i)) ∧
   (∀ p ∈ aluiShifts, ∀ (d : ADst) (x : ASrc) (i : BitVec 6) (s s1 : State) (a : Word), AReady s → readA x s = .ok (a, s1) →
     WritesA (p.1 d x i) s s1 d (p.2 a i)) ∧
   (∀ (d : ADst) (i : BitVec 32) (s t : State), AReady s → writeA d (i.signExtend 64) s = .ok ((), t) →
     exec (.liSx d i) s = .next (endA true t)) ∧
   (∀ (d : ADst) (i : BitVec 32) (s t : State), AReady s → writeA d (i.zeroExtend 64) s = .ok ((), t) →
     exec (.liZx d i) s = .next (endA true t)) ∧
   (∀ (d : ADst) (x : ASrc) (i : BitVec 32) (s s1 t : State) (a : Word), AReady s → readA x s = .ok (a, s1) →
     writeA d (BitVec.ofNat 64 (i.toNat * 2 ^ 32 + a.toNat % 2 ^ 32)) s1 = .ok ((), t) →
     exec (.liHi d x i) s = .next (endA true t)) ∧
   (∀ s : State, AReady s → exec .ctlNopc s = .next (endA false s))) ∧
  (∀ p ∈ composeTable, ∀ (d : ADst) (x y : ASrc) (s s1 s2 : State) (a b : Word), AReady s → readA x s = .ok (a, s1) →
     readA y s1 = .ok (b, s2) →
     (a.toNat < p.2.1 → b.toNat < p.2.2.1 → WritesA (p.1 d x y) s s2 d (p.2.2.2 a b)) ∧
     (p.2.1 ≤ a.toNat → exec (p.1 d x y) s = .next (takeTrap s s .aSide ⟨codeBounds, 0x0a0, 0⟩)) ∧
     (a.toNat < p.2.1 → p.2.2.1 ≤ b.toNat → exec (p.1 d x y) s = .next (takeTrap s s .aSide ⟨codeBounds, 0x0a1, 0⟩)))

/-- R226, R228 and R229: a branch whose condition holds, br.al, ctl.jr and jmpl.go transfer to their target; a target
outside the code window is CODE_END with nothing consumed; a branch whose condition fails goes on.
R227: ctl.loop decrements S, and transfers unless the result is 0.
R225, R227 and R228: a call pushes the next bundle's index and transfers in one step; ctl.ret pops and transfers. With
eight return addresses held, the oldest goes to the stack window, at swp, which rises by 8; a pop from an empty return
stack with swp above the window's base takes the address at swp - 8 from the window, and swp falls by 8.
It rests on choices of the model: log 69. -/
def Obligations.ControlTransfers : Prop :=
  ((∀ p ∈ branchTable, ∀ (x : ASrc) (off : BitVec 17) (s s1 : State) (v : Word), AReady s → readA x s = .ok (v, s1) →
     (p.2 v = true → Transfers (p.1 x off) false s s1 ((curSlot s).pc + off.toInt)) ∧
     (p.2 v = false → exec (p.1 x off) s = .next (endA false s1))) ∧
   (∀ (off : BitVec 17) (s : State), AReady s → Transfers (.brAl off) false s s ((curSlot s).pc + off.toInt)) ∧
   (∀ (x : ASrc) (s s1 : State) (v : Word), AReady s → readA x s = .ok (v, s1) → Transfers (.ctlJr x) false s s1 v.toNat) ∧
   (∀ (x : ASrc) (imm : BitVec 32) (s s1 : State) (v : Word), AReady s → readA x s = .ok (v, s1) →
     Transfers (.jmplGo x imm) true s s1 (v.toInt + imm.toInt))) ∧
  (∀ (n : Fin 16) (off : BitVec 17) (s : State) (t : State), AReady s → (curSlot s).pendingOn (.a n) = none →
     t = noted ((curSlot s).a[n] - 1) (putCur s { curSlot s with a := (curSlot s).a.set n ((curSlot s).a[n] - 1) }) →
     ((curSlot s).a[n] = 1 → exec (.ctlLoop n off) s = .next (endA false t)) ∧
     ((curSlot s).a[n] ≠ 1 → Transfers (.ctlLoop n off) false s t ((curSlot s).pc + off.toInt))) ∧
  ((∀ (off : BitVec 17) (s u : State), AReady s → pushReturn ((curSlot s).pc + 1) s = .ok ((), u) →
     Transfers (.ctlCall off) false s u ((curSlot s).pc + off.toInt)) ∧
   (∀ (x : ASrc) (s s1 u : State) (v : Word), AReady s → readA x s = .ok (v, s1) →
     pushReturn ((curSlot s).pc + 1) s1 = .ok ((), u) → Transfers (.ctlCallr x) false s u v.toNat) ∧
   (∀ (x : ASrc) (imm : BitVec 32) (s s1 u : State) (v : Word), AReady s → readA x s = .ok (v, s1) →
     pushReturn ((curSlot s).pc + 1) s1 = .ok ((), u) → Transfers (.jmplCall x imm) true s u (v.toInt + imm.toInt)) ∧
   (∀ (s u : State) (b : Nat), AReady s → popReturn s = .ok (b, u) → Transfers .ctlRet false s u b) ∧
   (∀ (s : State) (r : Nat), (curSlot s).rs.length < 8 →
     pushReturn r s = .ok ((), putCur s { curSlot s with rs := BitVec.ofNat 13 r :: (curSlot s).rs })) ∧
   (∀ (s : State) (r : BitVec 13) (rs : List (BitVec 13)), (curSlot s).rs = r :: rs →
     popReturn s = .ok (r.toNat, putCur s { curSlot s with rs := rs })) ∧
   (∀ (s : State) (r : Nat), 8 ≤ (curSlot s).rs.length → (curWindow s).2 < (curSlot s).swp.toNat + 8 →
     pushReturn r s = .error (.trap ⟨codeStack, 0x001, 0⟩ none)) ∧
   (∀ (s u : State) (r : Nat), 8 ≤ (curSlot s).rs.length → pushReturn r s = .ok ((), u) →
     (curSlot u).rs = BitVec.ofNat 13 r :: (curSlot s).rs.dropLast ∧
     (curSlot u).swp = BitVec.ofNat 18 ((curSlot s).swp.toNat + 8) ∧
     ((curSlot s).paired = false → (curCtx u).scratch =
       Memory.writeBytes (curCtx (recallU s (curLaunch s) (curHart s) (curSlot s).swp.toNat)).scratch (curSlot s).swp.toNat
         (leBytes ((curSlot s).rs.getLastD 0).toNat 8))) ∧
   (∀ s : State, (curSlot s).rs = [] → (curSlot s).swp.toNat ≤ (curWindow s).1 →
     popReturn s = .error (.trap ⟨codeStack, 0x002, 0⟩ none)) ∧
   (∀ (s u : State) (off : Nat), (curSlot s).rs = [] → off = (curSlot s).swp.toNat - 8 → (curWindow s).1 < (curSlot s).swp.toNat →
     inOrder { kinds := [.ld], scope := .core, sc := false, loc := ⟨curHart s, off, 8⟩, space2 := false } s = .ok ((), u) →
     (hartOf s (curHart s)).commit = [] →
     ∃ t : State, t = recallU u (curLaunch s) (curHart s) off ∧
       popReturn s = .ok (leValue ((curCtx t).read (curHart s) off 8) % 2 ^ 13,
         putCur t { curSlot t with swp := BitVec.ofNat 18 off })))
/-! ## Operands of the A-side -/

/-- R20, R21, R101 and R223: what a source of A class reads. A register that no operation in flight still writes gives its
value; z gives 0; a queue gives its oldest entry, and waits while it is empty; a stream register gives the next element of
the own scratchpad, zero-extended, and advances.
R4, R21, R101, R103 and R223: what a destination of A class takes. z discards; a queue takes one entry and waits while 16
are reserved or filled; a stream register takes the word but for its reserved bits [45:36], which stay 0; every result of a pair enters its fingerprint (R199).
R102: what a pop gives for each TAG.
It rests on choices of the model: log 10, log 11. -/
def Obligations.OperandsOfAClass : Prop :=
  (∀ s : State,
     (∀ n, (curSlot s).pendingOn (.a n) = none → readA (.a n) s = .ok ((curSlot s).a[n], s)) ∧
     (∀ n k, (curSlot s).pendingOn (.a n) = some k → readA (.a n) s = .error (.wait (.pending k) none)) ∧
     readA .z s = .ok (0, s) ∧
     (∀ q x xs, (curSlot s).sq[q] = x :: xs →
       readA (.sq q) s = .ok (x.scalar, putCur s { curSlot s with sq := (curSlot s).sq.set q xs })) ∧
     (∀ q, (curSlot s).sq[q] = [] → readA (.sq q) s = .error (.wait (.popSq q) none)) ∧
     (∀ w ws, (curSlot s).cq = w :: ws → readA .cq s = .ok (w, putCur s { curSlot s with cq := ws })) ∧
     ((curSlot s).cq = [] → readA .cq s = .error (.wait .popCq none)) ∧
     (∀ n, n ∉ (curSlot s).smBusy → (curSlot s).pendingOn (.sm n) = none →
       ∀ (r : Word) (addr size : Nat), r = (curSlot s).sm[n] → addr = (r.extractLsb' 0 18).toNat →
       size = 2 ^ (r.extractLsb' 46 2).toNat →
       (r.extractLsb' 48 16 = 0 →
         ∃ detail, readA (.sm n) s = .error (.trap ⟨codeQueueMisuse, detail, 0⟩ none)) ∧
       (r.extractLsb' 48 16 ≠ 0 → addr % size ≠ 0 →
         readA (.sm n) s = .error (.trap ⟨codeAlign, (r.extractLsb' 46 2).zeroExtend 12, 0⟩ none)) ∧
       (r.extractLsb' 48 16 ≠ 0 → addr % size = 0 → ownBytes (curHart s) < addr + size →
         readA (.sm n) s = .error (.trap ⟨codeBounds, 0x0b0, 0⟩ none)) ∧
       (r.extractLsb' 48 16 ≠ 0 → addr % size = 0 → addr + size ≤ ownBytes (curHart s) →
         ∀ u : State, inOrder { kinds := [.ld], scope := .core, sc := false, loc := ⟨curHart s, addr, size⟩, space2 := false } s = .ok ((), u) →
         (hartOf s (curHart s)).commit = [] →
         ∃ (t : State) (r' : Word), t = recallU u (curLaunch s) (curHart s) addr ∧
           r'.extractLsb' 48 16 = r.extractLsb' 48 16 - 1 ∧ r'.extractLsb' 18 30 = r.extractLsb' 18 30 ∧
           r'.extractLsb' 0 18 = r.extractLsb' 0 18 + r.extractLsb' 18 18 ∧
           readA (.sm n) s = .ok (BitVec.ofNat 64 (leValue ((curCtx t).read (curHart s) addr size)),
             putCur t { curSlot t with sm := (curSlot t).sm.set n r' })))) ∧
  (∀ (s : State) (w : Word),
     (∀ n, (curSlot s).pendingOn (.a n) = none →
       writeA (.a n) w s = .ok ((), noted w (putCur s { curSlot s with a := (curSlot s).a.set n w }))) ∧
     writeA .z w s = .ok ((), s) ∧
     (∀ k, (curSlot s).lq[k].length < 16 →
       writeA (.lq k) w s = .ok ((), noted w (putCur s
         { curSlot s with lq := (curSlot s).lq.set k ((curSlot s).lq[k] ++ [.filled ⟨w.zeroExtend 512, 3⟩]) }))) ∧
     (∀ k, 16 ≤ (curSlot s).lq[k].length → writeA (.lq k) w s = .error (.wait (.pushLq k) none)) ∧
     (∀ n, n ∉ (curSlot s).smBusy → (curSlot s).pendingOn (.sm n) = none →
       ∃ w' : Word, w'.extractLsb' 46 18 = w.extractLsb' 46 18 ∧ w'.extractLsb' 36 10 = 0 ∧
         w'.extractLsb' 0 36 = w.extractLsb' 0 36 ∧
         writeA (.sm n) w s = .ok ((), noted w (putCur s { curSlot s with sm := (curSlot s).sm.set n w' }))) ∧
     (∀ n, n ∈ (curSlot s).smBusy → writeA (.sm n) w s = .error (.wait .stream none) ∧
       readA (.sm n) s = .error (.wait .stream none))) ∧
  (∀ (e : QEntry),
     (4 ≤ (e.tag.extractLsb' 0 3).toNat → e.scalar = e.data.extractLsb' 0 64 ∧ e.vector = e.data) ∧
     ((e.tag.extractLsb' 0 3).toNat < 4 →
       e.vector.toNat = e.data.toNat % 2 ^ (8 * 2 ^ (e.tag.extractLsb' 0 3).toNat) ∧
       (e.tag.getLsbD 3 = false → e.scalar.toNat = e.data.toNat % 2 ^ (8 * 2 ^ (e.tag.extractLsb' 0 3).toNat)) ∧
       (e.tag.getLsbD 3 = true → e.scalar = BitVec.ofInt 64
         (BitVec.ofNat (8 * 2 ^ (e.tag.extractLsb' 0 3).toNat) e.data.toNat).toInt)))

namespace Sys2Proof.Claims

/-- What an A-side word on registers and queues leaves alone. -/
def FrameA (s t : State) (d : ADst) (x y : ASrc) : Prop :=
  OnlySlot s t ∧ SameMemory s t ∧ SameA d x y (curSlot s) (curSlot t)

/-- The divisions of R236, with the edge cases of R237. -/
def divTable : List ((ADst → ASrc → ASrc → Instr) × (Word → Word → Word)) :=
  [(.aluDiv, fun x y => if y = 0 then 0xffffffffffffffff else BitVec.ofInt 64 (x.toInt.tdiv y.toInt)),
   (.aluDivu, fun x y => if y = 0 then 0xffffffffffffffff else BitVec.ofNat 64 (x.toNat / y.toNat)),
   (.aluRem, fun x y => if y = 0 then x else BitVec.ofInt 64 (x.toInt.tmod y.toInt)),
   (.aluRemu, fun x y => if y = 0 then x else BitVec.ofNat 64 (x.toNat % y.toNat))]

/-- The constants of R230. -/
def constants : List ((ADst → BitVec 32 → Instr) × (BitVec 32 → Word)) :=
  [(.liSx, fun i => i.signExtend 64), (.liZx, fun i => i.zeroExtend 64)]

/-- The words with one source and an immediate. -/
def oneSource (i : BitVec 15) (k : BitVec 6) (m : BitVec 32) : List ((ADst → ASrc → Instr) × (Word → Word)) :=
  aluiTable.map (fun p => (fun d x => p.1 d x i, fun a => p.2 a i)) ++
  aluiShifts.map (fun p => (fun d x => p.1 d x k, fun a => p.2 a k)) ++
  [(fun d x => .liHi d x m, fun a => BitVec.ofNat 64 (m.toNat * 2 ^ 32 + a.toNat % 2 ^ 32))]

end Sys2Proof.Claims

/-- The frame of alu, alui and li, on sources that are no stream registers: when the word goes on to the next bundle, every
register but its destination, every queue but those it names, every status bit, every special register, every other slot
and core, and every byte of memory are unchanged. -/
def Obligations.FrameOfIntegerWords : Prop :=
  (∀ p ∈ aluTable ++ divTable, ∀ (d : ADst) (x y : ASrc) (s s1 s2 u t : State) (a b : Word), AReady s → NoStream x → NoStream y →
    readA x s = .ok (a, s1) → readA y s1 = .ok (b, s2) → writeA d (p.2 a b) s2 = .ok ((), u) →
    exec (p.1 d x y) s = .next t → FrameA s t d x y) ∧
  (∀ p ∈ composeTable, ∀ (d : ADst) (x y : ASrc) (s s1 s2 u t : State) (a b : Word), AReady s → NoStream x → NoStream y →
    readA x s = .ok (a, s1) → readA y s1 = .ok (b, s2) → a.toNat < p.2.1 → b.toNat < p.2.2.1 →
    writeA d (p.2.2.2 a b) s2 = .ok ((), u) → exec (p.1 d x y) s = .next t → FrameA s t d x y) ∧
  (∀ i k m, ∀ p ∈ oneSource i k m, ∀ (d : ADst) (x : ASrc) (s s1 u t : State) (a : Word), AReady s → NoStream x →
    readA x s = .ok (a, s1) → writeA d (p.2 a) s1 = .ok ((), u) → exec (p.1 d x) s = .next t → FrameA s t d x .z) ∧
  (∀ p ∈ constants, ∀ (d : ADst) (i : BitVec 32) (s u t : State), AReady s → writeA d (p.2 i) s = .ok ((), u) →
    exec (p.1 d i) s = .next t → FrameA s t d .z .z)

/-! ## Traps, prefixes and status registers -/

namespace Sys2Proof.Claims

/-- The word that tcause holds for a fault of a side (R27). -/
def causeOf (side : Side) (f : FaultInfo) (w : BitVec 32) : Prop :=
  w.extractLsb' 16 16 = f.code ∧ w.getLsbD 15 = decide (side = .eSide) ∧ w.extractLsb' 12 3 = 0 ∧ w.extractLsb' 0 12 = f.detail

/-- The log before with a record entered as the newest, but after those of its cycle with a greater code; the 64 newest stay
(R183, R187). -/
def logged (r : FaultRec) (before : List FaultRec) : List FaultRec :=
  let later (x : FaultRec) : Bool := decide (x.at' = r.at') && decide (r.code.toNat < x.code.toNat)
  (before.takeWhile later ++ r :: before.dropWhile later).take 64

/-- Launch L has been ended by fault f of core h: its fault log record, its counters, and its plat. -/
def KilledBy (s t : State) (L h : Nat) (l : Launch) (f : FaultInfo) (before : List FaultRec) : Prop :=
  launchOf t L = none ∧ (platOf t l.plat).state = .zeroing ∧ (platOf t l.plat).launch = none ∧
  (∃ r : FaultRec, r.code = f.code ∧ r.detail = f.detail ∧ r.plat = l.plat ∧ r.core = h ∧ r.addr = f.addr ∧
    r.tag = (platOf s l.plat).tag ∧ r.at' = s.cycle ∧ t.faultLog = logged r before) ∧
  (l.cap.counted = true → ∀ c ∈ l.cap.counters, (counterOf t c).last = f.code ∧
    (counterOf t c).ended = (counterOf s c).ended + 1 ∧ (counterOf t c).done = (counterOf s c).done ∧
    (counterOf t c).live = (counterOf s c).live - 1)

end Sys2Proof.Claims

/-- R29: a fault inside the trap handler, and a fault of a capsule without a trap handler, kill the plat: the launch ends
with the new code, and in the first case the earlier tcause goes to the fault log before it; the counters of the launch count its
end (R189), and the fault log keeps its 64 newest records (R183).
R187: of two faults of one cycle the lower code is logged first.
It rests on choices of the model: log 23. -/
def Obligations.FaultWithoutHandlerKillsThePlat : Prop :=
  ∀ (s : State) (h n : Nat) (side : Side) (f : FaultInfo) (l : Launch), launchOf s (slotOf s h n).ctx = some l →
    ((slotOf s h n).inTrap = true →
      ∃ r : FaultRec, r.code = (slotOf s h n).tcause.extractLsb' 16 16 ∧ r.detail = (slotOf s h n).tcause.extractLsb' 0 12 ∧
        r.at' = s.cycle ∧ KilledBy s (trapEntry s h n side f) (slotOf s h n).ctx h l f (logged r s.faultLog)) ∧
    ((slotOf s h n).inTrap = false → handlerOf s h n 63 = none →
      KilledBy s (trapEntry s h n side f) (slotOf s h n).ctx h l f s.faultLog)

/-- R27, R304 and R305: taking a trap into handler entry 63. The trap registers take the fault, the snapshot of the
scoreboard and the restart bundle; the return stack, the branch queue and the path are emptied; swp takes the base of the
handler's window; INTRAP is 1 and both sides go to ENTRY; a pending prefix goes to FMTSAVE with PP 1. The registers and
queues of the slot, every other slot and every byte of memory are unchanged, but for what a ctl.wait that is abandoned had taken,
which comes back.
R305 and R307: leaving a trap that was just taken puts both sides back where they stood, with the return stack, swp and
the pending prefixes, and clears tsb. -/
def Obligations.TrapEntryAndItsUndoing : Prop :=
  (∀ (s : State) (h n : Nat) (side : Side) (f : FaultInfo) (r : Handler),
     (slotOf s h n).inTrap = false → handlerOf s h n 63 = some r →
     let σ := slotOf s h n
     let t := trapEntry s h n side f
     let τ := slotOf t h n
     causeOf side f τ.tcause ∧ τ.taddr = f.addr ∧
     τ.tpc = BitVec.ofNat 13 (match side with
       | .aSide => σ.pc
       | .eSide => σ.ePos.getD σ.pc) ∧
     (∀ i : Fin 16, τ.tsb[i] = ((σ.sb[i.val]?).map sbWord).getD 0) ∧
     τ.inTrap = true ∧ τ.pc = r.entry ∧ τ.rs = [] ∧ τ.bq = [] ∧ τ.path = [] ∧ τ.eDone = false ∧
     τ.swp = BitVec.ofNat 18 (windowOf s h n r).1 ∧ τ.aWait = none ∧ τ.eWait = none ∧
     τ.aPrefix = none ∧ τ.ePrefix = none ∧
     (∀ w, σ.aPrefix = some w → τ.aFmtsave = w ∧ τ.aPP = true) ∧
     (σ.aPrefix = none → τ.aFmtsave = σ.aFmtsave ∧ τ.aPP = σ.aPP) ∧
     (∀ w, σ.ePrefix = some w → τ.eFmtsave = w ∧ τ.ePP = true) ∧
     (σ.ePrefix = none → τ.eFmtsave = σ.eFmtsave ∧ τ.ePP = σ.ePP) ∧
     τ.a = σ.a ∧ τ.sm = σ.abandonWait.sm ∧ τ.e = σ.e ∧ τ.v = σ.v ∧ τ.p = σ.p ∧ τ.flags = σ.flags ∧ τ.sat = σ.sat ∧ τ.rm = σ.rm ∧
     τ.lq = σ.lq ∧ τ.sq = σ.abandonWait.sq ∧ τ.cq = σ.abandonWait.cq ∧
     ((∀ d off v u, σ.aWait ≠ some (.waitWord d off v u)) → σ.abandonWait = σ) ∧ τ.pri = σ.pri ∧ τ.chan = σ.chan ∧ τ.det = σ.det ∧ τ.budleft = σ.budleft ∧
     (∀ k m, (k ≠ h ∨ m % 8 ≠ n % 8) → slotOf t k m = slotOf s k m) ∧ SameMemory s t ∧ t.launches = s.launches) ∧
  (∀ (σ : Slot) (side : Side) (f : FaultInfo) (r : Handler) (base : Nat), σ.inTrap = false → σ.pc < 2 ^ 13 →
     (σ.aPP = true → σ.aPrefix ≠ none) → (σ.ePP = true → σ.ePrefix ≠ none) →
     let τ := (σ.enterTrap side f r base).leaveTrap
     τ.pc = σ.pc ∧ τ.path = σ.path ∧ τ.bq = σ.bq ∧ τ.eDone = σ.eDone ∧ τ.rs = σ.rs ∧ τ.swp = σ.swp ∧ τ.inTrap = false ∧
     τ.aPrefix = σ.aPrefix ∧ τ.ePrefix = σ.ePrefix ∧ τ.tsb = Vector.replicate 16 0 ∧ τ.a = σ.a ∧ τ.e = σ.e ∧ τ.v = σ.v ∧
     τ.p = σ.p ∧ τ.lq = σ.lq ∧ τ.sq = σ.sq ∧ τ.cq = σ.cq)

namespace Sys2Proof.Claims

/-- The word settles tsb entry k and goes on with the next bundle of the handler. -/
def Settles (i : Instr) (s : State) (k : Fin 16) : Prop :=
  ∃ t, exec i s = .next (endA false t) ∧ (curSlot t).inTrap = true ∧
    (curSlot t).tsb = if (curSlot s).tsb[k].getLsbD 63 then (curSlot s).tsb.set k 0 else (curSlot s).tsb

/-- The words that a prefix may govern (R220), with cpq.rcmd, under which R298 has a prefix raise RESERVED_FIELD (log 40). -/
def governable : Instr → Bool
  | .mxqStep .. | .mxqSteps .. | .mxqDrain .. | .mxqRcmd .. | .cpqRcmd .. => true
  | .cvtEncS .. | .cvtEncV .. | .cvtDecS .. | .cvtDecV .. | .cvtCnvS .. | .cvtCnvV .. | .cvtFtiS .. | .cvtFtiV .. => true
  | .cvtItfS .. | .cvtItfV .. | .cvtPack .. | .cvtUnpk .. | .vaDot .. | .vfDot .. | .vxAmax .. | .vxScale .. | .vxBarq .. => true
  | _ => false

/-- An fmt.set of either side. -/
def isFmtSet : Instr → Bool
  | .fmtSetA .. | .fmtSetX .. => true
  | _ => false

end Sys2Proof.Claims

/-- R106 and R307: sys.resume with ACT 0 ends the trap once the E-side has retired the handler's words and the branch queue has room
for its target: INTRAP and tsb are cleared, the call record is restored and the slot goes on at tpc; with nothing to redo, all of it
goes on as the saved path says. Outside a handler it is QUEUE_MISUSE with DETAIL 0x050, and a reserved bit of S is RESERVED_FIELD.
R307 and R308: sys.resume with ACT 1, 2 and 3 settles the entry that ENT names, and goes on with the next bundle: an entry with
V = 0 changes nothing; a held pop is delivered again from byte 0, freed, or freed with its destination written; a pending load of a
register that the home has not answered keeps waiting, is dropped, or is dropped with its destination written. tsb of the entry is
cleared. ACT 3 waits while a queue that the value goes to is full (R101). -/
def Obligations.ResumeFromTraps : Prop :=
  (∀ (x y : ASrc) (s s1 s2 : State) (w v : Word), AReady s → readA x s = .ok (w, s1) → readA y s1 = .ok (v, s2) →
     ((curSlot s).inTrap = false →
       exec (.sysResumeReturn x y) s = .next (takeTrap s s .aSide ⟨codeQueueMisuse, 0x050, 0⟩)) ∧
     ((curSlot s).inTrap = true → (w.toNat / 2 ^ 8 ≠ 0 ∨ w.extractLsb' 2 2 ≠ 0) →
       exec (.sysResumeReturn x y) s = .next (takeTrap s s .aSide ⟨codeReserved, 0x0f2, 0⟩)) ∧
     ((curSlot s).inTrap = true → w.toNat / 2 ^ 8 = 0 → w.extractLsb' 2 2 = 0 →
       ((curSlot s).path ≠ [] ∨ (curSlot s).eDone = false →
         exec (.sysResumeReturn x y) s = .next (markA s .eSide)) ∧
       ((curSlot s).path = [] → (curSlot s).eDone = true → 64 ≤ (curSlot s).bq.length →
         exec (.sysResumeReturn x y) s = .next (markA s .branchFull)) ∧
       ((curSlot s).path = [] → (curSlot s).eDone = true → (curSlot s).bq.length < 64 →
         (curSlot s).tpc.toNat < codeLen s (curLaunch s) →
         (∃ t, exec (.sysResumeReturn x y) s = .next t ∧ (curSlot t).inTrap = false ∧ (curSlot t).tsb = Vector.replicate 16 0 ∧
           (curSlot t).a = (curSlot s).a ∧ ((curSlot s).slip = none → (curSlot t).pc = (curSlot s).tpc.toNat) ∧
           ∀ c, (curSlot s).call = some c → (curSlot t).rs = c.rs ∧ (curSlot t).swp = c.swp) ∧
         ((∀ k : Fin 16, (curSlot s).tsb[k].getLsbD 63 = false) → exec (.sysResumeReturn x y) s =
           .next (countBundle (curHart s) (curNum s) false (putCur s2 (curSlot s2).leaveTrap)))))) ∧
  (∀ (x y : ASrc) (s s1 s2 : State) (w v : Word) (k : Fin 16), AReady s → readA x s = .ok (w, s1) → readA y s1 = .ok (v, s2) →
     (curSlot s).inTrap = true → w.toNat / 2 ^ 8 = 0 → w.extractLsb' 2 2 = 0 → k = Fin.ofNat 16 (w.toNat / 16) →
     let room := ∀ e ∈ (curSlot s).sb, ∀ p, e.held = some p →
       (∀ q, p.dest = .sq q → (curSlot s).sq[q].length < 16) ∧ (p.dest = .cq → (curSlot s).cq.length < 8)
     ((∀ i ∈ [Instr.sysResumeRedo x y, .sysResumeDiscard x y], Settles i s k ∧
         ∀ t, exec i s = .next t → (curSlot t).a = (curSlot s).a) ∧
       (room → Settles (.sysResumeComplete x y) s k)) ∧
     ((curSlot s).tsb[k].getLsbD 63 = false →
       ∀ i ∈ [Instr.sysResumeRedo x y, .sysResumeDiscard x y, .sysResumeComplete x y], exec i s = .next (endA false s2)) ∧
     (∀ (id : Nat) (e : SbEntry), (curSlot s).tsb[k].getLsbD 63 = true → (curSlot s).tsbIds[k.val]? = some id →
       (curSlot s).sb.find? (fun x => x.id == id) = some e →
       let gone (t : State) : Slot := { curSlot t with sb := (curSlot t).sb.filter fun x => x.id != e.id,
                                                       tsb := (curSlot t).tsb.set k 0 }
       (∀ p, e.held = some p → e.kind = 1 →
         exec (.sysResumeRedo x y) s = .next (endA false (putCur s2 { curSlot s2 with
           sb := (curSlot s2).sb.map fun z => if z.id = e.id then
             { z with held := z.held.map fun q => { q with armed := true, delivered := 0 } } else z
           tsb := (curSlot s2).tsb.set k 0 })) ∧
         (e.num = none → exec (.sysResumeDiscard x y) s = .next (endA false (putCur s2 { gone s2 with
           lq := (curSlot s2).lq.map fun q => q.filter fun z => z != .reserved e.id }))) ∧
         (∀ n : Fin 16, p.dest = .e n →
           exec (.sysResumeComplete x y) s = .next (endA false (putCur s2 { gone s2 with e := (curSlot s2).e.set n v }))) ∧
         (∀ n : Fin 8, p.dest = .v n →
           exec (.sysResumeComplete x y) s =
             .next (endA false (putCur s2 { gone s2 with v := (curSlot s2).v.set n (v.zeroExtend 512) })))) ∧
       (∀ n : Fin 16, e.held = none → e.kind = 2 → e.dst = some (.a n) → e.refused = false →
         exec (.sysResumeRedo x y) s = .next (endA false (putCur s2 { curSlot s2 with tsb := (curSlot s2).tsb.set k 0 })) ∧
         (∃ t, exec (.sysResumeDiscard x y) s = .next t ∧ (curSlot t).a = (curSlot s).a ∧ ∀ z ∈ (curSlot t).sb, z.id ≠ e.id) ∧
         (∃ t, exec (.sysResumeComplete x y) s = .next t ∧ (curSlot t).a = (curSlot s).a.set n v ∧
           ∀ z ∈ (curSlot t).sb, z.id ≠ e.id))))

/-- R219, R220 and R309: an fmt.set retires with its own word pending as its side's prefix. On either side a word that a prefix does
not govern, a second prefix, and a governable word under a pending word that is no fmt.set raise PREFIX_MISUSE with DETAIL 0x001,
0x002 and 0x004, and the prefix is discarded before the trap. A governable word that goes on has consumed its side's prefix, and
not the other side's. An abandoning ctl.done takes no word as its prefix's misuse (R233).
It rests on choices of the model: log 40. -/
def Obligations.PrefixesGovernOneWord : Prop :=
  ((∀ (fd fa fb : BitVec 4) (scl : BitVec 2) (s : State), AReady s →
     ∃ w, encodeC (.fmtSetA fd fa fb scl) = some w ∧
       exec (.fmtSetA fd fa fb scl) s = .next (endA false (putCur s { curSlot s with aPrefix := some (BitVec.ofNat 32 w) }))) ∧
   (∀ (fd fa fb : BitVec 4) (scl : BitVec 2) (s : State), EReady s →
     ∃ w, encodeX (.fmtSetX fd fa fb scl) = some w ∧
       exec (.fmtSetX fd fa fb scl) s = .next (endE (putCur s { curSlot s with ePrefix := some (BitVec.ofNat 32 w) })))) ∧
  (∀ (s : State) (w : BitVec 32) (i : Instr), AReady (putCur s { curSlot s with aPrefix := none }) → (curSlot s).aPrefix = some w →
    (encodeC i).isSome = true →
    let misused (d : BitVec 12) :=
      exec i s = .next (takeTrap s (putCur s { curSlot s with aPrefix := none, aPP := false }) .aSide ⟨codePrefix, d, 0⟩)
    (governable i = false → isFmtSet i = false → (i = .ctlDone → (curSlot s).inTrap = false) → misused 0x001) ∧
    (isFmtSet i = true → misused 0x002) ∧ (isFmtA w = false → governable i = true → misused 0x004) ∧
    (isFmtA w = true → governable i = true → ∀ t, exec i s = .next t → (curSlot t).inTrap = (curSlot s).inTrap →
      (curSlot t).pc = (curSlot s).pc + 1 → (curSlot t).aPrefix = none)) ∧
  (∀ (s : State) (w : BitVec 32) (i : Instr), EReady (putCur s { curSlot s with ePrefix := none }) → (curSlot s).ePrefix = some w →
    (encodeX i).isSome = true →
    let misused (d : BitVec 12) :=
      exec i s = .next (takeTrap s (putCur s { curSlot s with ePrefix := none, ePP := false }) .eSide ⟨codePrefix, d, 0⟩)
    (governable i = false → isFmtSet i = false → misused 0x001) ∧ (isFmtSet i = true → misused 0x002) ∧
    (isFmtE w = false → governable i = true → misused 0x004) ∧
    (isFmtE w = true → governable i = true → ∀ t, exec i s = .next t →
      (curSlot t).path.length + 1 = (curSlot s).path.length → (curSlot t).ePrefix = none)) ∧
  (∀ t : State, curHart t < Config.nHarts → (curSlot (endGovA t)).aPrefix = none ∧ (curSlot (endGovE t)).ePrefix = none ∧
    (curSlot (endGovA t)).ePrefix = (curSlot t).ePrefix ∧ (curSlot (endGovE t)).aPrefix = (curSlot t).aPrefix)

/-- R23, R25, R27, R30, R32, R38, R39, R199 and R306: sys.rdsr writes the register that the number names, of its slot, its core, its
plat, or the checkers, the gateway or the order-repair unit beside it.
R306: sys.wrsr writes the RW fields of the register, and RESERVED_FIELD, with the number as DETAIL, answers a write to a
register that is RO at that moment. -/
def Obligations.StatusRegisters : Prop :=
  (∀ (d : ADst) (num : BitVec 12) (s : State), AReady s →
     (regKnown num.toNat = false → exec (.sysRdsr d num) s = .next (takeTrap s s .aSide ⟨codeIllegal, num, 0⟩)) ∧
     (regKnown num.toNat = true → regHeld (curHart s) num.toNat = false →
       exec (.sysRdsr d num) s = .next (takeTrap s s .aSide ⟨codeSpace, num, 0⟩)) ∧
     (num = 1 → (curSlot s).path ≠ [] → exec (.sysRdsr d num) s = .next (markA s .eEarlier)) ∧
     (regKnown num.toNat = true → regHeld (curHart s) num.toNat = true → (num = 1 → (curSlot s).path = []) →
       ∃ w : Word, WritesA (.sysRdsr d num) s s d w ∧
         (num = 0x000 → w.extractLsb' 32 32 = (curSlot s).aFmtsave ∧ w.getLsbD 31 = (curSlot s).aPP ∧
           w.getLsbD 30 = (curSlot s).inTrap ∧ w.extractLsb' 28 2 = (curSlot s).pri ∧ w.extractLsb' 22 6 = (curSlot s).chan ∧
           w.getLsbD 21 = (curSlot s).det ∧ w.getLsbD 20 = (curSlot s).paired ∧ w.extractLsb' 16 4 = BitVec.ofNat 4 (curSlot s).rs.length ∧
           w.extractLsb' 12 4 = 0 ∧
           w.extractLsb' 0 12 = (curSlot s).budleft) ∧
         (num = 0x001 → w.extractLsb' 32 32 = (curSlot s).eFmtsave ∧ w.getLsbD 31 = (curSlot s).ePP ∧
           w.extractLsb' 16 15 = 0 ∧ w.getLsbD 15 = (curSlot s).sat ∧ w.extractLsb' 12 2 = (curSlot s).rm ∧
           w.extractLsb' 5 7 = 0 ∧ w.extractLsb' 0 5 = (curSlot s).flags) ∧
         (num = 0x002 → w = (curSlot s).swp.zeroExtend 64) ∧ (num = 0x010 → w = (curSlot s).tcause.zeroExtend 64) ∧
         (num = 0x011 → w = (curSlot s).taddr) ∧ (num = 0x012 → w = (curSlot s).tpc.zeroExtend 64) ∧
         (∀ i : Fin 16, num.toNat = 0x020 + i.val → w = (curSlot s).tsb[i]) ∧
         (num = 0x040 → isCompute (curHart s) = true → w = BitVec.ofNat 64 (curHart s + clusterOfCore (curHart s) * 2 ^ 20 +
           posInCluster (curHart s) * 2 ^ 37)) ∧
         (num = 0x040 → isCompute (curHart s) = false → w.extractLsb' 0 20 = BitVec.ofNat 20 (curHart s) ∧ w.extractLsb' 40 24 = 0) ∧
         (num = 0x041 → let P := platOfLaunch s (curLaunch s)
           P.x4 < 2 ^ 10 → P.y2 < 2 ^ 10 → P.w < 2 ^ 10 → P.h < 2 ^ 10 → w.extractLsb' 0 10 = BitVec.ofNat 10 P.x4 ∧
             w.extractLsb' 10 10 = BitVec.ofNat 10 P.y2 ∧ w.extractLsb' 20 10 = BitVec.ofNat 10 P.w ∧
             w.extractLsb' 30 10 = BitVec.ofNat 10 P.h ∧ w.extractLsb' 40 16 = P.tag ∧ w.extractLsb' 56 8 = 0) ∧
         (num = 0x042 → w = (curCtx s).ply.zeroExtend 64) ∧ (num = 0x043 → w = BitVec.ofNat 64 ((curCtx s).sseq % 4096)) ∧
         (num = 0x044 → w = (hartOf s (curHart s)).fpr) ∧
         (∀ k, k < 64 → num.toNat = 0x080 + k →
           (SMap.find k (curCtx s).checkers = none → w = 0) ∧
           (∀ c, SMap.find k (curCtx s).checkers = some c → c.cursor < 2 ^ 52 → w.getLsbD 63 = c.valid ∧
             w.extractLsb' 59 4 = c.rights ∧ w.extractLsb' 52 7 = 0 ∧ w.extractLsb' 0 52 = BitVec.ofNat 52 c.cursor)) ∧
         (num = 0x0c0 → let H := hartOf s (curHart s)
           w.getLsbD 0 = H.aligned ∧ w.getLsbD 1 = H.fallback ∧ w.extractLsb' 2 30 = 0 ∧ w.extractLsb' 32 32 = H.xtick) ∧
         (num = 0x0c4 → w = (curCtx s).unit.swm.zeroExtend 64) ∧
         (num = 0x0c5 → let U := (curCtx s).unit
           w.getLsbD 0 = U.regime ∧ w.extractLsb' 1 7 = 0 ∧ w.extractLsb' 8 8 = BitVec.ofNat 8 U.lines.length ∧
             (U.lines.length < 256 → w.extractLsb' 16 48 = 0)))) ∧
  (∀ (x : ASrc) (s s1 : State) (w : Word), AReady s → readA x s = .ok (w, s1) →
     exec (.sysWrsr x 0x000) s = .next (endA false (noted w (putCur s1
       { curSlot s1 with aFmtsave := w.extractLsb' 32 32, aPP := w.getLsbD 31 }))) ∧
     ((curSlot s).path = [] → exec (.sysWrsr x 0x001) s = .next (endA false (noted w (putCur s1
       { curSlot s1 with eFmtsave := w.extractLsb' 32 32, ePP := w.getLsbD 31, sat := w.getLsbD 15, rm := w.extractLsb' 12 2,
                         flags := w.extractLsb' 0 5 })))) ∧
     ((curSlot s).inTrap = true →
       exec (.sysWrsr x 0x002) s = .next (endA false (noted w (putCur s1 { curSlot s1 with swp := w.extractLsb' 0 18 }))) ∧
       exec (.sysWrsr x 0x011) s = .next (endA false (noted w (putCur s1 { curSlot s1 with taddr := w }))) ∧
       exec (.sysWrsr x 0x012) s = .next (endA false (noted w (putCur s1
         { curSlot s1 with tpc := w.extractLsb' 0 13, slip := none }))) ∧
       (∃ c : BitVec 32, exec (.sysWrsr x 0x010) s = .next (endA false (noted w (putCur s1 { curSlot s1 with tcause := c }))) ∧
         c.extractLsb' 15 17 = w.extractLsb' 15 17 ∧ c.extractLsb' 12 3 = 0 ∧ c.extractLsb' 0 12 = w.extractLsb' 0 12)) ∧
     ((curSlot s).inTrap = false → ∀ num ∈ [(0x002 : BitVec 12), 0x010, 0x011, 0x012],
       exec (.sysWrsr x num) s = .next (takeTrap s s .aSide ⟨codeReserved, num, 0⟩)) ∧
     (∀ num : BitVec 12, num ∈ [(0x020 : BitVec 12), 0x02f, 0x040, 0x041, 0x042, 0x043, 0x044] →
       exec (.sysWrsr x num) s = .next (takeTrap s s .aSide ⟨codeReserved, num, 0⟩)))
/-! ## Activations: start, end, waiting -/

namespace Sys2Proof.Claims

/-- The state with slot n of core h in turn on its A-side. -/
def atA (h n : Nat) (s : State) : State := { s with cur := (h, n, .aSide) }

/-- The word i, which slot n of core h waits in, runs again out of turn and ends in a next state; the turn stays. -/
def RunsAgain (ev i : Instr) (h n : Nat) (s : State) : Prop :=
  ∃ t, exec i (atA h n s) = .next t ∧ exec ev s = .next { t with cur := s.cur }

end Sys2Proof.Claims

/-- R105 (its steps in the order of R232): ctl.done retires only when both sides have reached it, its prefix spent, its
operations settled and, in a pair, the last agreement made; if then every queue is empty, with no reservation open, it
releases its slot; otherwise it raises QUEUE_MISUSE with DETAIL 0x001, and the slot is not freed. -/
def Obligations.DoneNeedsEmptyQueues : Prop :=
  ∀ s : State, AReady s → (curSlot s).inTrap = false →
    let σ := curSlot s
    let H := hartOf s (curHart s)
    let empty := (∀ k : Fin 4, σ.lq[k] = []) ∧ (∀ q : Fin 2, σ.sq[q] = []) ∧ σ.cq = []
    let agreed := σ.paired = true → H.commit = [] ∧ H.sinceAgree = 0
    (σ.path ≠ [] ∨ σ.eDone = false → exec .ctlDone s = .next (markA s .done)) ∧
    (σ.path = [] → σ.eDone = true →
      (σ.ePrefix ≠ none → exec .ctlDone s = .next (takeTrap s (putCur s { σ with ePrefix := none, ePP := false }) .aSide
        ⟨codePrefix, 0x003, 0⟩)) ∧
      (σ.ePrefix = none → σ.sb ≠ [] → exec .ctlDone s = .next (markA s .done)) ∧
      (σ.ePrefix = none → σ.sb = [] → ¬ agreed → exec .ctlDone s = .next (markA s .done)) ∧
      (σ.ePrefix = none → σ.sb = [] → agreed →
        (empty → exec .ctlDone s = .next (releaseSlot s (curHart s) (curNum s))) ∧
        (¬ empty → exec .ctlDone s = .next (takeTrap s s .aSide ⟨codeQueueMisuse, 0x001, 0⟩))))

/-- R18, R20, R23 and R24: an activation that a message starts has its header in a0 and its words from a1 upward, zero in
every other register, empty queues, clear flags, its record's entry, priority and budget class, and the window of its slot.
Every other slot, and every byte of memory, is unchanged.
R35, R232 and R233: releasing a slot puts all its registers to their reset values when no activation waits, and orphans
the accumulator slots that its activation holds, has not handed to a port and does not drain; in the trap handler ctl.done waits
for its unanswered sends, and then abandons the activation: every entry is discarded, and with a send's its copy; on a pair it
waits for the final agreement point first (R200). A late fault that has met the handler comes before it (R241).
It rests on choices of the model: log 2, log 81. -/
def Obligations.ActivationsStartAndEnd : Prop :=
  (∀ (s : State) (h n L : Nat) (e : RingEntry) (l : Launch) (r : Handler), launchOf s L = some l →
     l.handler (e.header.extractLsb' 58 6).toNat = some r →
     let t := startIn s h n L e
     let τ := slotOf t h n
     τ.running = true ∧ τ.ctx = L ∧ τ.a[0] = e.header ∧
     (∀ i : Fin 16, i.val ≠ 0 → τ.a[i] = (loadedWords e.header e.payload).getD (i.val - 1) 0) ∧
     τ.e = Vector.replicate 16 0 ∧ τ.v = Vector.replicate 8 0 ∧ τ.p = Vector.replicate 8 0 ∧ τ.sm = Vector.replicate 4 0 ∧
     τ.lq = Vector.replicate 4 [] ∧ τ.sq = Vector.replicate 2 [] ∧ τ.cq = [] ∧ τ.rs = [] ∧ τ.sb = [] ∧ τ.flags = 0 ∧
     τ.sat = false ∧ τ.rm = 0 ∧ τ.inTrap = false ∧ τ.pc = r.entry ∧ τ.pri = r.pri ∧ τ.det = e.released ∧
     τ.chan = e.header.extractLsb' 58 6 ∧ τ.budleft = BitVec.ofNat 12 (l.cap.budget r.bcls) ∧
     τ.swp = BitVec.ofNat 18 (windowBase l.cap h r n) ∧ τ.paired = l.cap.paired ∧
     (∀ k m, (k ≠ h ∨ m % 8 ≠ n % 8) → slotOf t k m = slotOf s k m) ∧ SameMemory s t) ∧
  ((∀ (s : State) (h n : Nat), (∀ c ∈ (hartOf s h).ctxs, c.ring = []) →
     slotOf (releaseSlot s h n) h n = Slot.reset ∧ (releaseSlot s h n).launches = s.launches ∧
     (∀ (C : Cluster) (a : Fin 8), isCompute h = true → SMap.find (clusterOfCore h) s.clusters = some C →
       (clusterOf (releaseSlot s h n) (clusterOfCore h)).accs[a].state =
         if (C.accs[a].state = 1 ∨ C.accs[a].state = 2) ∧ C.accs[a].ocore = posInCluster h ∧ C.accs[a].oslot = n ∧
           C.accs[a].oact = (slotOf s h n).act ∧ C.accs[a].port = false ∧ C.accs[a].draining = false then 3 else C.accs[a].state)) ∧
   (∀ s : State, AReady s → (curSlot s).inTrap = true →
     ((∃ e ∈ (curSlot s).sb, e.kind = 6 ∧ e.refused = false) → exec .ctlDone s = .next (markA s .done)) ∧
     ((curSlot s).inHandler ≠ [] → exec .ctlDone s = .next (markA s .done)) ∧
     ((∀ e ∈ (curSlot s).sb, e.kind = 6 → e.refused = true) → (curSlot s).inHandler = [] →
       ((curSlot s).paired = false ∨ ((hartOf s (curHart s)).commit = [] ∧ (hartOf s (curHart s)).sinceAgree = 0) →
         ∃ t, exec .ctlDone s = .next (releaseSlot t (curHart s) (curNum s)) ∧ (curSlot t).sb = [] ∧
           (∀ e ∈ (curSlot s).sb, e.kind = 6 → ∀ c ∈ (hartOf t (curHart s)).copies, c.item.id ≠ e.id) ∧
           ((curSlot s).sb = [] → t = s)) ∧
       ((curSlot s).paired = true → (hartOf s (curHart s)).sinceAgree ≠ 0 →
         ∃ t, exec .ctlDone s = .next (markA t .done) ∧ (curSlot t).sb = []))))

/-- R234, R243: the pointers that ctl.wait and sys.digest take: spaces 0x0, and 0x1 and 0x2 of the own core, aligned, and
inside the own scratchpad.
R234: ctl.wait reads S and T once, and compares the awaited word of the own scratchpad with T: while they are equal it waits,
keeping what it has read, else it writes the word to D and goes on, once what the matrices keep before an acquire has been
performed.
It rests on choices of the model: log 25, log 63. -/
def Obligations.WaitsOnWords : Prop :=
  (∀ (p : Word) (size : Nat) (align : BitVec 12) (s : State), curHart s < Config.nCompute →
     (3 ≤ spaceOf p → ownOffset p size align s = .error (.trap ⟨codeSpace, BitVec.ofNat 12 (spaceOf p), p⟩ none)) ∧
     ((spaceOf p = 1 ∨ spaceOf p = 2) → indexOf p ≠ curHart s →
       ownOffset p size align s = .error (.trap ⟨codeSpace, BitVec.ofNat 12 (spaceOf p), p⟩ none)) ∧
     (p.toNat < 2 ^ 18 → p.toNat % size ≠ 0 → ownOffset p size align s = .error (.trap ⟨codeAlign, align, p⟩ none)) ∧
     (p.toNat < 2 ^ 18 → p.toNat % size = 0 → 196608 < p.toNat + size →
       ownOffset p size align s = .error (.trap ⟨codeBounds, 0x0b0, p⟩ none)) ∧
     (p.toNat < 2 ^ 18 → p.toNat % size = 0 → p.toNat + size ≤ 196608 → curTouchesRing s p.toNat size = false →
       ownOffset p size align s = .ok (p.toNat, s))) ∧
  (∀ (d : ADst) (x y : ASrc) (s s1 s2 s3 s4 : State) (p v : Word) (off : Nat) (bs : List Byte), AReady s →
     (∀ d' off' v' u', (curSlot s).aWait ≠ some (.waitWord d' off' v' u')) → readA x s = .ok (p, s1) → readA y s1 = .ok (v, s2) →
     ownOffset p 8 3 s2 = .ok (off, s2) → freeDst d s2 = .ok ((), s2) →
     inOrder { kinds := [.ldA], scope := .module, sc := false, loc := ⟨curHart s, off, 8⟩, space2 := false } s2 = .ok ((), s3) →
     ownBytesAt off 8 s3 = .ok (bs, s4) →
     let held := guarded s3 (curIssuer s3) s3.nextId ⟨curHart s, off, 8⟩
     (BitVec.ofNat 64 (leValue bs) = v ∨ held = true →
       exec (.ctlWait d x y) s = .next (markA s3 (.waitWord d off v (undoOf (curSlot s) (curSlot s3))))) ∧
     (BitVec.ofNat 64 (leValue bs) ≠ v → held = false → WritesA (.ctlWait d x y) s s4 d (BitVec.ofNat 64 (leValue bs)))) ∧
  (∀ (d d' : ADst) (x y : ASrc) (s t : State) (v : Word) (off : Nat) (u : Undo) (bs : List Byte), AReady s →
     (curSlot s).aWait = some (.waitWord d off v u) → ownBytesAt off 8 s = .ok (bs, t) →
     let held := guarded s (curIssuer s) s.nextId ⟨curHart s, off, 8⟩
     (BitVec.ofNat 64 (leValue bs) = v ∨ held = true →
       exec (.ctlWait d' x y) s = .next (markA s (.waitWord d off v u))) ∧
     (BitVec.ofNat 64 (leValue bs) ≠ v → held = false → WritesA (.ctlWait d' x y) s t d (BitVec.ofNat 64 (leValue bs))))

/-- R103, R232, R234, R258, R311: a waiting word goes on when its event comes: the word runs again at its slot; a side
blocked on a queue stops waiting as its entry or its room appears.
It rests on choices of the model: log 43. -/
def Obligations.WaitingWordsGoOn : Prop :=
  ∀ (s : State) (h n : Nat), slotRuns s h n = true → AReady (atA h n s) →
    (∀ d x y d' off v u, (slotOf s h n).late = [] → (slotOf s h n).aWait = some (.waitWord d' off v u) →
      RunsAgain (.ctlWaitWake h n) (.ctlWait d x y) h n s) ∧
    ((slotOf s h n).late = [] → (slotOf s h n).aWait = some .done → RunsAgain (.slotRelease h n) .ctlDone h n s) ∧
    (∀ x y, (slotOf s h n).late = [] → (slotOf s h n).aWait = some (.chain false x y none) →
      RunsAgain (.sysChainCommit h n) (.sysChain x y) h n s) ∧
    (∀ x y, (slotOf s h n).late = [] → (slotOf s h n).aWait = some (.chain true x y none) →
      RunsAgain (.sysChainCommit h n) (.sysLaunch x y) h n s) ∧
    (∀ sc, (slotOf s h n).late = [] → (slotOf s h n).aWait = some (.fence sc) → fenceDone s h n sc = true →
      exec (.fenceComplete h n) s = .next (retireAt s h n (slotOf s h n) false .next)) ∧
    (∀ w, (slotOf s h n).aWait = some w → unblocked (slotOf s h n) w = true →
      exec (.sideBlockRelease h n .aSide) s = .next (putSlot s h n { slotOf s h n with aWait := none })) ∧
    (∀ w, (slotOf s h n).eWait = some w → unblocked (slotOf s h n) w = true →
      exec (.sideBlockRelease h n .eSide) s = .next (putSlot s h n { slotOf s h n with eWait := none }))

/-- R235: ctl.realign waits until every other member of its group is listed in the wait table; then the waiting members go
on together; a member that has waited 4,096 cycles goes on, with the members whose time is over too.
R240: where the group is listed then, all of them go on. -/
def Obligations.Realign : Prop :=
  (∀ s : State, AReady s →
    (groupListed s (curHart s) (curNum s) = true →
      exec .ctlRealign s = .next (endA false (resumeMembers s (realignGroup s (curHart s) (curNum s))))) ∧
    (groupListed s (curHart s) (curNum s) = false →
      ∃ c, exec .ctlRealign s = .next (markA s (.realign c)) ∧
        ((∀ k, (curSlot s).aWait ≠ some (.realign k)) → c = s.cycle))) ∧
  (∀ (s : State) (h n c : Nat), slotRuns s h n = true → (slotOf s h n).aWait = some (.realign c) →
    (groupListed s h n = true →
      exec (.realignRelease h n) s = .next (resumeMembers s ((h, n) :: realignGroup s h n))) ∧
    (groupListed s h n = false → exec (.realignRelease h n) s = .next s) ∧
    (c + 4096 ≤ s.cycle → groupListed s h n = true →
      exec (.realignTimeout h n) s = .next (resumeMembers s ((h, n) :: realignGroup s h n))) ∧
    (c + 4096 ≤ s.cycle → groupListed s h n = false →
      exec (.realignTimeout h n) s =
        .next (resumeMembers s ((h, n) :: (realignGroup s h n).filter fun p => realignOver s p.1 p.2))) ∧
    (s.cycle < c + 4096 → exec (.realignTimeout h n) s = .next s))

/-- R224, R241 and R304: a refusal that comes back to a running slot is held there; one that a slot holds is taken as a trap of its
A-side at the bundle boundary, and leaves the list; a path that falls out of the code window is CODE_END with DETAIL 0x001, tpc
naming its last bundle.
R29, R241 and R314: one that meets the slot in its trap handler kills the plat once its cycle is over, the earlier tcause going to the
fault log before it.
R23 and R192: BUDLEFT falls by one for every 1,024 cycles of an activation, not below zero and not during a paired self-test;
an activation that runs with BUDLEFT 0 ends its launch with BUDGET, which its counters and the fault log show (R183, R189).
It rests on choices of the model: log 4, log 23. -/
def Obligations.LateFaultsAndBudgets : Prop :=
  (∀ (s : State) (h n : Nat), slotRuns s h n = true →
     (∀ (id : Option Nat) (f : FaultInfo) (fs : List (Option Nat × FaultInfo)), (slotOf s h n).late = (id, f) :: fs →
       (slotOf s h n).aWait = none → trapDeferred s h n = false →
       exec (.lateFaultDelivery h n) s = .next (trapEntry (putSlot s h n { slotOf s h n with late := fs }) h n .aSide f)) ∧
     ((slotOf s h n).late = [] → exec (.lateFaultDelivery h n) s = .next s) ∧
     (∀ r, codeLen s (slotOf s h n).ctx ≤ (slotOf s h n).pc → (slotOf s h n).path = [] → trapDeferred s h n = false →
       (slotOf s h n).sleeping = false → (slotOf s h n).paired = false → (slotOf s h n).inTrap = false → handlerOf s h n 63 = some r →
       ∃ t, exec (.codeEndFallthrough h n) s = .next t ∧ (slotOf t h n).inTrap = true ∧ (slotOf t h n).pc = r.entry ∧
         causeOf .aSide ⟨codeCodeEnd, 0x001, 0⟩ (slotOf t h n).tcause ∧
         (slotOf t h n).tpc = BitVec.ofNat 13 (codeLen s (slotOf s h n).ctx - 1)) ∧
     ((slotOf s h n).pc < codeLen s (slotOf s h n).ctx → exec (.codeEndFallthrough h n) s = .next s)) ∧
  (∀ (s : State) (src : Issuer) (id : Option Nat) (f : FaultInfo), runs s src = true →
     let σ := slotOf s src.hart src.slot
     ∃ τ : Slot, lateFault s src id f = putSlot s src.hart src.slot τ ∧ τ.a = σ.a ∧ τ.pc = σ.pc ∧
       (σ.inTrap = false → τ.late = σ.late ++ [(id, f)]) ∧
       (σ.inTrap = true → τ.late = σ.late ∧ τ.inHandler = σ.inHandler ++ [(s.cycle, id, f)])) ∧
  (∀ (s : State) (h n c : Nat) (id : Option Nat) (f : FaultInfo) (l : Launch), (slotOf s h n).running = true →
     (slotOf s h n).inTrap = true → (slotOf s h n).inHandler = [(c, id, f)] → launchOf s (slotOf s h n).ctx = some l →
     (s.cycle ≤ c → endHandlerFault h n s = s) ∧
     (c < s.cycle → ∃ r : FaultRec, r.code = (slotOf s h n).tcause.extractLsb' 16 16 ∧
       r.detail = (slotOf s h n).tcause.extractLsb' 0 12 ∧ r.at' = s.cycle ∧
       KilledBy s (endHandlerFault h n s) (slotOf s h n).ctx h l f (logged r s.faultLog))) ∧
  (∀ (s : State) (h n : Nat), slotRuns s h n = true →
     (∀ k, k = min ((s.cycle - (slotOf s h n).startCycle) / 1024 - (slotOf s h n).ticks) (slotOf s h n).budleft.toNat →
       (hartOf s h).selftest = false → ∃ τ : Slot, exec (.budgetTick h n) s = .next (putSlot s h n τ) ∧
         τ = { slotOf s h n with budleft := τ.budleft, ticks := (slotOf s h n).ticks + k } ∧
         τ.budleft.toNat + k = (slotOf s h n).budleft.toNat) ∧
     ((hartOf s h).selftest = true → exec (.budgetTick h n) s = .next s) ∧
     ((slotOf s h n).budleft ≠ 0 → exec (.budgetExhausted h n) s = .next s) ∧
     (∀ l, (slotOf s h n).budleft = 0 → launchOf s (slotOf s h n).ctx = some l →
       ∃ (t : State) (d : BitVec 12), exec (.budgetExhausted h n) s = .next t ∧
         KilledBy s t (slotOf s h n).ctx h l ⟨codeBudget, d, 0⟩ s.faultLog))
/-! ## Memory: loads, stores, the page walk and the atomics -/

namespace Sys2Proof.Claims

/-- The word goes on to the next bundle and leaves an operation of its slot in the mesh, or, where buffer says so, in the
commit buffer of a pair; no register and no byte of memory has changed since its operands were read in state s1. -/
def Sends (i : Instr) (s s1 : State) (op : NetOp) (buffer : Bool) : Prop :=
  ∃ (t : State) (it : NetItem), exec i s = .next t ∧ it.op = op ∧ it.src = curIssuer s ∧ s1.nextId ≤ it.id ∧
    (if (buffer && (curSlot s).paired) = true then it ∈ (hartOf t (curHart s)).commit else it ∈ t.net) ∧
    (curSlot t).pc = (curSlot s).pc + 1 ∧ (curSlot t).aWait = none ∧ (curSlot t).a = (curSlot s).a ∧ (curSlot t).e = (curSlot s).e ∧
    SameMemory s1 t

/-- It also leaves a scoreboard entry of a kind that the operation settles, for destination d. -/
def SendsFor (i : Instr) (s s1 : State) (op : NetOp) (kind : Nat) (d : Option ADst) (buffer : Bool) : Prop :=
  ∃ (t : State) (it : NetItem) (e : SbEntry), exec i s = .next t ∧ it.op = op ∧ it.src = curIssuer s ∧ s1.nextId ≤ it.id ∧
    (if (buffer && (curSlot s).paired) = true then it ∈ (hartOf t (curHart s)).commit else it ∈ t.net) ∧
    e ∈ (curSlot t).sb ∧ e.item = some it ∧ e.kind = kind ∧ e.dst = d ∧ e.refused = false ∧
    (curSlot t).pc = (curSlot s).pc + 1 ∧ (curSlot t).aWait = none ∧ (curSlot t).a = (curSlot s).a ∧ (curSlot t).e = (curSlot s).e ∧
    SameMemory s1 t

/-- A destination that an operation in flight can take: a register that none writes yet, a queue with room, or none. -/
def Takes (σ : Slot) (d : ADst) : Prop :=
  σ.pendingOn d = none ∧ ∀ k : Fin 4, d = .lq k → σ.lq[k].length < 16

/-- The address that mem.ld, mem.ldu and mem.st reach from base b. -/
def memPtr (b : Word) (off : BitVec 7) (sz : Size) : Word := b + off.signExtend 64 * BitVec.ofNat 64 (sizeBytes sz)

/-- The loads of R242, with the sign extension that each makes. -/
noncomputable def loadTable : List ((ADst → ASrc → Size → Ord → Scope → BitVec 7 → Instr) × Bool) := [(.memLd, true), (.memLdu, false)]

/-- The atomics of R247 with their element operations and sizes. -/
noncomputable def amoTable : List ((ADst → ASrc → ASrc → Ord → Scope → Instr) × AmoOp × Nat) :=
  [(.amoAdd, .add, 8), (.amoAnd, .and, 8), (.amoOr, .or, 8), (.amoXor, .xor, 8), (.amoMax, .max, 8), (.amoMin, .min, 8),
   (.amoMaxu, .maxu, 8), (.amoMinu, .minu, 8), (.amoAddw, .addw, 4), (.amoAndw, .andw, 4), (.amoOrw, .orw, 4),
   (.amoXorw, .xorw, 4), (.amoMaxw, .maxw, 4), (.amoMinw, .minw, 4), (.amoMaxuw, .maxuw, 4), (.amoMinuw, .minuw, 4)]

/-- The element bytes that an access code names (R243). -/
def sizeCodeOf (n : Nat) : BitVec 12 := if n = 8 then 3 else if n = 4 then 2 else 1

end Sys2Proof.Claims

/-- R242, R244 and R33 to R37: a load from the own scratchpad, or from an engine register, delivers its bytes at once: the low
bytes, sign-extended by mem.ld and zero-extended by mem.ldu, to a register or stream register, or an entry with the TAG of
its size and sign to an lq queue.
R53, R55 and R61: a load of another core's scratchpad that the core's L1, or its cluster's L2, holds is served from there in the
same way; L1's copy gives its bytes, with those of the core's own stores of the line that it still coalesces over them, and a line that L2 alone holds is
then in L1 too.
R103, R132 and R244: a load of another core's scratchpad that no cache of the core holds, and a load through an extent,
are sent and leave a KIND 2 entry that holds the destination. -/
def Obligations.Loads : Prop :=
  ((∀ p ∈ loadTable, ∀ (d : ADst) (base : ASrc) (sz : Size) (ord : Ord) (sc : Scope) (off : BitVec 7) (s s1 s1' s2 t : State)
     (b : Word) (o : Nat) (bs : List Byte), AReady s → readA base s = .ok (b, s1) →
     checkPointer s1 (memPtr b off sz) (sizeBytes sz) (sizeCode sz) false false true = .ok (.own o) →
     inOrder (accessDesc s1 (loadKind ord) ord sc (curHart s) o (sizeBytes sz) (spaceOf (memPtr b off sz))) s1 = .ok ((), s1') →
     ownBytesAt o (sizeBytes sz) s1' = .ok (bs, s2) →
     ((∀ k, d ≠ .lq k) → ∀ w : Word,
       (sizeBytes sz = 64 → w = BitVec.ofNat 64 (leValue bs)) →
       (sizeBytes sz ≠ 64 → p.2 = false → w = BitVec.ofNat 64 (leValue bs)) →
       (sizeBytes sz ≠ 64 → p.2 = true → w = BitVec.ofInt 64 (BitVec.ofNat (8 * sizeBytes sz) (leValue bs)).toInt) →
       writeA d w s2 = .ok ((), t) → exec (p.1 d base sz ord sc off) s = .next (endA false t)) ∧
     (∀ k, d = .lq k → pushLq k (.filled ⟨BitVec.ofNat 512 (leValue bs), tagOf sz p.2⟩) s2 = .ok ((), t) →
       exec (p.1 d base sz ord sc off) s = .next (endA false (noted (foldVec (BitVec.ofNat 512 (leValue bs))) t)))) ∧
   (∀ p ∈ loadTable, ∀ (d : ADst) (base : ASrc) (ord : Ord) (sc : Scope) (off : BitVec 7) (s s1 s2 t : State) (b : Word) (o : Nat),
     AReady s → readA base s = .ok (b, s1) →
     checkPointer s1 (memPtr b off .b8) 8 3 false false true = .ok (.reg o) →
     inOrder (accessDesc s1 (loadKind ord) ord sc (regHome (curHart s)) o 8 (spaceOf (memPtr b off .b8))) s1 = .ok ((), s2) →
     (∀ k, d ≠ .lq k) → writeA d (engineReg s1 o) s2 = .ok ((), t) →
     exec (p.1 d base .b8 ord sc off) s = .next (endA false t))) ∧
  (∀ p ∈ loadTable, ∀ (d : ADst) (base : ASrc) (sz : Size) (ord : Ord) (sc : Scope) (off : BitVec 7) (s s1 u t : State) (b : Word)
     (home o : Nat) (bs : List Byte), AReady s → readA base s = .ok (b, s1) →
     checkPointer s1 (memPtr b off sz) (sizeBytes sz) (sizeCode sz) false false true = .ok (.mesh home o true) →
     let k := lineKey home o
     let l := (hartOf s1 (curHart s)).line k
     let v := fillFromL2 (curLaunch s) (curHart s) home o u
     cacheHit s1 (curHart s) home o (sizeBytes sz) = some bs →
     passOrder (accessDesc s1 (loadKind ord) ord sc home o (sizeBytes sz) (spaceOf (memPtr b off sz)))
       (coalesced s1 (curHart s)) s1 = .ok ((), u) →
     (∀ c, l.shared = some c → l.stores = [] → v = u ∧
       bs = (List.range (sizeBytes sz)).map fun i => vecByte c (o % 64 + i)) ∧
     (∀ c, l.shared = none → clusterOfCore (curHart s) ≠ clusterOfCore home →
       (clusterOf u (clusterOfCore (curHart s))).sector k = some c → ((hartOf v (curHart s)).line k).shared = some c) ∧
     ((∀ q, d ≠ .lq q) → ∀ w : Word, w = loadValue p.2 bs → writeA d w v = .ok ((), t) →
       exec (p.1 d base sz ord sc off) s = .next (endA false t)) ∧
     (∀ q, d = .lq q → pushLq q (.filled (loadEntry p.2 bs)) v = .ok ((), t) →
       exec (p.1 d base sz ord sc off) s = .next (endA false (noted (foldVec (vecOf bs)) t)))) ∧
  (∀ p ∈ loadTable, ∀ (d : ADst) (base : ASrc) (sz : Size) (ord : Ord) (sc : Scope) (off : BitVec 7) (s s1 : State) (b : Word),
     AReady s → readA base s = .ok (b, s1) → Takes (curSlot s1) d → (curSlot s1).sb.length < 16 →
     (∀ (home o : Nat) (cached : Bool),
       checkPointer s1 (memPtr b off sz) (sizeBytes sz) (sizeCode sz) false false true = .ok (.mesh home o cached) →
       (cached = true → cacheHit s1 (curHart s) home o (sizeBytes sz) = none) →
       SendsFor (p.1 d base sz ord sc off) s s1 (.load (memPtr b off sz) (sizeBytes sz) p.2 (!cached)) 2 (some d) false) ∧
     (∀ (k o : Nat) (e : Extent),
       checkPointer s1 (memPtr b off sz) (sizeBytes sz) (sizeCode sz) false false true = .ok (.ext k o) →
       ((launchOf s1 (curLaunch s1)).bind fun l => l.extent k) = some e → extentPoisoned s1 e o (sizeBytes sz) = false →
       needRequest s1 = .ok ((), s1) →
       SendsFor (p.1 d base sz ord sc off) s s1 (.extLoad (memPtr b off sz) (sizeBytes sz) p.2) 2 (some d) false))

/-- R43 and R243: a pointer that fails a check stops a load, a store and an atomic before they do anything, with the fault of
the first check that fails. -/
def Obligations.PointerChecks : Prop :=
  (∀ p ∈ loadTable, ∀ (d : ADst) (base : ASrc) (sz : Size) (ord : Ord) (sc : Scope) (off : BitVec 7) (s s1 : State) (b : Word)
    (f : FaultInfo), AReady s → readA base s = .ok (b, s1) →
    checkPointer s1 (memPtr b off sz) (sizeBytes sz) (sizeCode sz) false false true = .error f →
    exec (p.1 d base sz ord sc off) s = .next (takeTrap s s .aSide f)) ∧
  (∀ (d base : ASrc) (sz : Size) (ord : Ord) (sc : Scope) (off : BitVec 7) (s s1 : State) (b : Word) (f : FaultInfo), AReady s →
    readA base s = .ok (b, s1) →
    checkPointer s1 (memPtr b off sz) (sizeBytes sz) (sizeCode sz) true (ord == .rel || ord == .sc) true = .error f →
    exec (.memSt d base sz ord sc off) s = .next (takeTrap s s .aSide f)) ∧
  (∀ p ∈ amoTable, ∀ (d : ADst) (x y : ASrc) (ord : Ord) (sc : Scope) (s s1 s2 : State) (b v : Word) (f : FaultInfo), AReady s →
    readA x s = .ok (b, s1) → readA y s1 = .ok (v, s2) →
    checkPointer s2 b p.2.2 (sizeCodeOf p.2.2) true false false = .error f →
    exec (p.1 d x y ord sc) s = .next (takeTrap s s .aSide f)) ∧
  (∀ (s : State) (p : Word) (n : Nat) (szc : BitVec 12) (store release mem : Bool), n ∈ [1, 2, 4, 8, 64] →
    (3 ≤ spaceOf p → mem = false →
      checkPointer s p n szc store release mem = .error ⟨codeSpace, BitVec.ofNat 12 (spaceOf p), p⟩) ∧
    (spaceOf p = 3 ∨ spaceOf p = 5 ∨ 7 ≤ spaceOf p →
      checkPointer s p n szc store release mem = .error ⟨codeSpace, BitVec.ofNat 12 (spaceOf p), p⟩) ∧
    (p.toNat < 2 ^ 18 → p.toNat % n ≠ 0 → checkPointer s p n szc store release mem = .error ⟨codeAlign, szc, p⟩) ∧
    (p.toNat < 2 ^ 18 → p.toNat % n = 0 → ownBytes (curHart s) < p.toNat + n →
      checkPointer s p n szc store release mem = .error ⟨codeBounds, 0x0b0, p⟩) ∧
    (p.toNat < 2 ^ 18 → p.toNat % n = 0 → p.toNat + n ≤ ownBytes (curHart s) → curTouchesRing s p.toNat n = true →
      checkPointer s p n szc store release mem = .error ⟨codeBounds, 0x0b3, p⟩) ∧
    (p.toNat < 2 ^ 18 → p.toNat % n = 0 → p.toNat + n ≤ ownBytes (curHart s) → curTouchesRing s p.toNat n = false →
      (store = true → curTouchesLinks s p.toNat n = false) →
      checkPointer s p n szc store release mem = .ok (.own p.toNat)))

/-- R242 and R244: a store to the own scratchpad writes its n low bytes at the offset of its pointer and nothing else: every
byte outside them reads as it does once the line's copies have been recalled (R53); registers but those its sources name
are unchanged.
R54, R102, R132, R200 and R244: what the other stores do: a register gives its low bytes and an sq entry its valid bytes;
a store to another core is sent, a plain store of cached space is coalesced in the L1, a store through an extent is sent; a pair
buffers its stores, also to a kick register.
That the copies in U are recalled before the store is log 69, that 64 bytes are written whole and what the order matrices keep is log 63.
It rests on choices of the model: log 15, log 63, log 69. -/
def Obligations.Stores : Prop :=
  (∀ (d base : ASrc) (sz : Size) (ord : Ord) (sc : Scope) (off : BitVec 7) (s s1 s2 s3 : State) (b : Word) (o : Nat) (bs : List Byte),
     AReady s → (curSlot s).paired = false → mirrored s (curLaunch s) (curHart s) = false → readA base s = .ok (b, s1) →
     checkPointer s1 (memPtr b off sz) (sizeBytes sz) (sizeCode sz) true (ord == .rel || ord == .sc) true = .ok (.own o) →
     storeData d (sizeBytes sz) s1 = .ok (bs, s2) → (curCtx s2).writeRefused (curHart s) o (sizeBytes sz) = none →
     let desc := accessDesc s1 (storeKind ord) ord sc (curHart s) o (sizeBytes sz) (spaceOf (memPtr b off sz))
     inOrder desc s2 = .ok ((), s3) →
     let r := recallU (releasePush (curLaunch s) (curHart s) desc s3) (curLaunch s) (curHart s) o
     Memory.wf (curCtx r).scratch = true →
     ∃ t, exec (.memSt d base sz ord sc off) s = .next t ∧ (curSlot t).pc = (curSlot s).pc + 1 ∧ (curSlot t).aWait = none ∧
       (∀ i, i < bs.length → Memory.read (curCtx t).scratch (o + i) = bs.getD i 0) ∧
       (∀ a, a < o ∨ o + bs.length ≤ a → Memory.read (curCtx t).scratch a = Memory.read (curCtx r).scratch a) ∧
       (∀ h L a, (h ≠ curHart s ∨ L ≠ curLaunch s) → Memory.read (ctxOf t h L).scratch a = Memory.read (ctxOf r h L).scratch a) ∧
       (∀ a, Memory.read t.hbm a = Memory.read s.hbm a) ∧ (∀ a, Memory.read t.hostMem a = Memory.read s.hostMem a) ∧
       (curSlot t).a = (curSlot s2).a ∧ (curSlot t).e = (curSlot s).e ∧ (curSlot t).v = (curSlot s).v ∧ (curSlot t).p = (curSlot s).p ∧
       (curSlot t).flags = (curSlot s).flags ∧ (curSlot t).sm = (curSlot s2).sm ∧ (curSlot t).lq = (curSlot s).lq ∧
       (curSlot t).sq = (curSlot s2).sq ∧ (curSlot t).cq = (curSlot s2).cq) ∧
  ((∀ (d : ASrc) (n : Nat) (s t : State) (w : Word), (∀ q, d ≠ .sq q) → readA d s = .ok (w, t) →
     storeData d n s = .ok (leBytes w.toNat n, t)) ∧
   (∀ (q : Fin 2) (n : Nat) (s : State) (e : QEntry) (es : List QEntry), (curSlot s).sq[q] = e :: es →
     storeData (.sq q) n s = .ok (leBytes e.vector.toNat n, putCur s { curSlot s with sq := (curSlot s).sq.set q es })) ∧
   (∀ (d base : ASrc) (sz : Size) (ord : Ord) (sc : Scope) (off : BitVec 7) (s s1 s2 : State) (b : Word) (bs : List Byte),
     AReady s → readA base s = .ok (b, s1) → storeData d (sizeBytes sz) s1 = .ok (bs, s2) →
     (∀ (home o : Nat) (cached : Bool),
       checkPointer s1 (memPtr b off sz) (sizeBytes sz) (sizeCode sz) true (ord == .rel || ord == .sc) true =
         .ok (.mesh home o cached) →
       (cached = false ∨ ord = .rel ∨ ord = .sc ∨ (curSlot s).paired = true →
         Sends (.memSt d base sz ord sc off) s s2 (.store (memPtr b off sz) bs) true) ∧
       (∀ s3, cached = true → ord = .plain → (curSlot s).paired = false →
         passOrder (accessDesc s1 .st ord sc home o (sizeBytes sz) (spaceOf (memPtr b off sz))) (coalesced s2 (curHart s)) s2 =
           .ok ((), s3) →
         let r := l1Alloc (curLaunch s) (curHart s) (lineKey home o) s3
         ∃ t, exec (.memSt d base sz ord sc off) s = .next t ∧ (curSlot t).pc = (curSlot s).pc + 1 ∧ SameMemory r t ∧
           (∃ id, ((hartOf t (curHart s)).line (lineKey home o)).stores =
             ((hartOf r (curHart s)).line (lineKey home o)).stores ++ [⟨id, memPtr b off sz, bs⟩]) ∧
           (∀ i < sizeBytes sz, ((hartOf t (curHart s)).line (lineKey home o)).dirty.getLsbD (o % 64 + i) = true) ∧
           ((hartOf t (curHart s)).line (lineKey home o)).shared = none)) ∧
     (∀ k o : Nat,
       checkPointer s1 (memPtr b off sz) (sizeBytes sz) (sizeCode sz) true (ord == .rel || ord == .sc) true = .ok (.ext k o) →
       (curCtx s2).unit.line (extLinePtr k o) = none → (curSlot s).paired = false → needRequest s2 = .ok ((), s2) →
       Sends (.memSt d base sz ord sc off) s s2 (.extStore (memPtr b off sz) bs) false) ∧
     (∀ (o : Nat) (j : Job),
       checkPointer s1 (memPtr b off sz) (sizeBytes sz) (sizeCode sz) true (ord == .rel || ord == .sc) true = .ok (.reg o) →
       let e : Engine := if o = 0 then .mxe else .cpe
       kickJob s1 e (curIssuer s) (BitVec.ofNat 64 (leValue bs)) = .ok j → (curSlot s).paired = true →
       Sends (.memSt d base sz ord sc off) s s2 (.kickStore e (BitVec.ofNat 64 (leValue bs))) true)))

/-- R246: mem.extpage gives the next page of the extent, from the cursor rounded up to a page, that lies on the channel core's
pseudo-channel, and moves the cursor past it; with none left it gives all ones and puts the cursor at LEN. On a hart that
is no channel core it is SPACE.
It rests on choices of the model: log 26. -/
def Obligations.ExtpageWalks : Prop :=
  ∀ (d : ADst) (base : ASrc) (s s1 : State) (p : Word), AReady s → readA base s = .ok (p, s1) →
    (isChannel (curHart s) = false → exec (.memExtpage d base) s = .next (takeTrap s s .aSide ⟨codeSpace, 0x004, p⟩)) ∧
    (∀ (l : Launch) (e : Extent) (c : Checker), isChannel (curHart s) = true → spaceOf p = 4 →
      launchOf s1 (curLaunch s1) = some l → l.extents[extOf p]? = some e → extOf p < l.cap.next →
      SMap.find (extOf p) (curCtx s1).checkers = some c → c.valid = true →
      let first := (c.cursor + 4095) / 4096 * 4096
      let mine (o : Nat) : Prop := pseudoChannel (e.base + o) = curHart s - Config.nCompute
      (∀ (o : Nat) (u : State), o % 4096 = 0 → first ≤ o → o < e.len → mine o →
        (∀ q, first ≤ q → q < o → q % 4096 = 0 → ¬ mine q) →
        writeA d (BitVec.ofNat 64 (4 * 2 ^ 60 + extOf p * 2 ^ 54 + o)) (putCurCtx s1
          { curCtx s1 with checkers := SMap.set (extOf p) { c with cursor := o + 4096 } (curCtx s1).checkers }) = .ok ((), u) →
        exec (.memExtpage d base) s = .next (endA false u)) ∧
      (∀ u : State, (∀ q, first ≤ q → q < e.len → q % 4096 = 0 → ¬ mine q) →
        writeA d 0xffffffffffffffff (putCurCtx s1
          { curCtx s1 with checkers := SMap.set (extOf p) { c with cursor := e.len } (curCtx s1).checkers }) = .ok ((), u) →
        exec (.memExtpage d base) s = .next (endA false u)))

/-- R247: the functions of the atomics on an element e and an operand t, and the value that D receives.
R53 and R247: an atomic on the own scratchpad, on a word that holds no empty future and no declared line, takes the
element as it stands once the line's copies have been recalled, puts the function of it and T in its place and gives the
old element to D; bytes outside the element are unchanged. -/
def Obligations.AtomicsAreAtHome : Prop :=
  (∀ e t : Nat,
     amoApply .add e t = (e + t) % 2 ^ 64 ∧ amoApply .addw e t = (e + t) % 2 ^ 32 ∧
     (∀ a b : BitVec 64, amoApply .and a.toNat b.toNat = (a &&& b).toNat ∧ amoApply .or a.toNat b.toNat = (a ||| b).toNat ∧
       amoApply .xor a.toNat b.toNat = (a ^^^ b).toNat ∧
       amoApply .max a.toNat b.toNat = (if a.toInt < b.toInt then b else a).toNat ∧
       amoApply .min a.toNat b.toNat = (if a.toInt < b.toInt then a else b).toNat ∧
       amoApply .maxu a.toNat b.toNat = max a.toNat b.toNat ∧ amoApply .minu a.toNat b.toNat = min a.toNat b.toNat) ∧
     (∀ a b : BitVec 32, amoApply .andw a.toNat b.toNat = (a &&& b).toNat ∧ amoApply .orw a.toNat b.toNat = (a ||| b).toNat ∧
       amoApply .xorw a.toNat b.toNat = (a ^^^ b).toNat ∧
       amoApply .maxw a.toNat b.toNat = (if a.toInt < b.toInt then b else a).toNat ∧
       amoApply .minw a.toNat b.toNat = (if a.toInt < b.toInt then a else b).toNat ∧
       amoApply .maxuw a.toNat b.toNat = max a.toNat b.toNat ∧ amoApply .minuw a.toNat b.toNat = min a.toNat b.toNat) ∧
     (∀ a : BitVec 64, ∀ op ∈ [AmoOp.add, .and, .or, .xor, .max, .min, .maxu, .minu], amoReturn op a.toNat = a) ∧
     (∀ a : BitVec 32, (∀ op ∈ [AmoOp.addw, .andw, .orw, .xorw, .maxw, .minw], amoReturn op a.toNat = a.signExtend 64) ∧
       ∀ op ∈ [AmoOp.maxuw, .minuw], amoReturn op a.toNat = a.zeroExtend 64)) ∧
  (∀ p ∈ amoTable, ∀ (d : ADst) (x y : ASrc) (ord : Ord) (sc : Scope) (s s1 s2 s3 : State) (b v : Word) (o : Nat), AReady s →
     (curSlot s).paired = false → mirrored s (curLaunch s) (curHart s) = false → readA x s = .ok (b, s1) → readA y s1 = .ok (v, s2) →
     checkPointer s2 b p.2.2 (sizeCodeOf p.2.2) true false false = .ok (.own o) →
     (curCtx s2).writeRefused (curHart s) o p.2.2 = none →
     let desc := amoDesc s2 ord sc (curHart s) o p.2.2 (spaceOf b)
     inOrder desc s2 = .ok ((), s3) →
     let r := recallU (releasePush (curLaunch s) (curHart s) desc s3) (curLaunch s) (curHart s) o
     let old := Memory.readN (curCtx r).scratch o p.2.2
     ∃ u : State,
       (∀ a, a < o ∨ o + p.2.2 ≤ a → Memory.read (curCtx u).scratch a = Memory.read (curCtx r).scratch a) ∧
       (Memory.wf (curCtx r).scratch = true → Memory.readN (curCtx u).scratch o p.2.2 = amoApply p.2.1 old v.toNat) ∧
       (∀ h L a, (h ≠ curHart s ∨ L ≠ curLaunch s) → Memory.read (ctxOf u h L).scratch a = Memory.read (ctxOf r h L).scratch a) ∧
       u.hbm = s.hbm ∧ u.hostMem = s.hostMem ∧ curSlot u = curSlot s2 ∧
       ∀ t, writeA d (amoReturn p.2.1 old) u = .ok ((), t) → exec (p.1 d x y ord sc) s = .next (endA false t))

/-- R53, R78, R103, R247 and R248: the other atomics: one on another core with a return is sent and leaves a KIND 2 entry;
one without return on uncached space, or to a core that is not assigned yet, is sent; on cached space it is combined in the core's
U copy. amo.amax and amo.amaxb
of the open ply go to the OPEN partial of the home; amo.maxrd and amo.maxrdb give the element as it stands once the copies
have been recalled, and reset it to 0.
It rests on choices of the model: log 13. -/
def Obligations.AtomicsElsewhere : Prop :=
  (∀ p ∈ amoTable, ∀ (d : ADst) (x y : ASrc) (ord : Ord) (sc : Scope) (s s1 s2 : State) (b v : Word) (home o : Nat) (cached : Bool),
    AReady s → (curSlot s).paired = false → readA x s = .ok (b, s1) → readA y s1 = .ok (v, s2) →
    checkPointer s2 b p.2.2 (sizeCodeOf p.2.2) true false false = .ok (.mesh home o cached) →
    (d ≠ .z → Takes (curSlot s2) d → (curSlot s2).sb.length < 16 →
      SendsFor (p.1 d x y ord sc) s s2 (.amo b p.2.1 v (curCtx s2).ply) 2 (some d) false) ∧
    (cached = false → Sends (p.1 .z x y ord sc) s s2 (.amo b p.2.1 v (curCtx s2).ply) true) ∧
    (cached = true → owned s2 (curLaunch s) home = false → Sends (p.1 .z x y ord sc) s s2 (.amo b p.2.1 v (curCtx s2).ply) true) ∧
    (∀ s3, cached = true → owned s2 (curLaunch s) home = true →
      inOrder (amoDesc s2 ord sc home o p.2.2 (spaceOf b)) s2 = .ok ((), s3) → homeRefuses s2 (curLaunch s) home o p.2.2 b = none →
      ∃ t, exec (p.1 .z x y ord sc) s = .next t ∧ (curSlot t).pc = (curSlot s).pc + 1 ∧
        ((hartOf t (curHart s)).line (lineKey home o)).ucls = some p.2.1 ∧
        ((hartOf t (curHart s)).line (lineKey home o)).shared = none)) ∧
  (∀ p ∈ [((.amoAmax : ASrc → ASrc → Ord → Scope → Instr), AmoOp.amax, 4), (.amoAmaxb, .amaxb, 2)],
    ∀ (x y : ASrc) (ord : Ord) (sc : Scope) (s s1 s2 s3 : State) (b v : Word) (o : Nat), AReady s →
    (curSlot s).paired = false → readA x s = .ok (b, s1) → readA y s1 = .ok (v, s2) →
    checkPointer s2 b p.2.2 (sizeCodeOf p.2.2) true false false = .ok (.own o) →
    (curCtx s2).writeRefused (curHart s) o p.2.2 = none →
    let desc := amoDesc s2 ord sc (curHart s) o p.2.2 (spaceOf b)
    inOrder desc s2 = .ok ((), s3) →
    let r := recallU (releasePush (curLaunch s) (curHart s) desc s3) (curLaunch s) (curHart s) o
    ∃ t, exec (p.1 x y ord sc) s = .next t ∧ (curSlot t).pc = (curSlot s).pc + 1 ∧
      SMap.getD (curCtx t).amaxOpen (openKey p.2.1 o) 0 = BitVec.ofNat 64 (amoApply p.2.1
        (SMap.getD (curCtx r).amaxOpen (openKey p.2.1 o) 0).toNat v.toNat) ∧
      (curCtx t).scratch = (curCtx r).scratch) ∧
  (∀ p ∈ [((.amoMaxrd : ADst → ASrc → Ord → Scope → Instr), 4), (.amoMaxrdb, 2)],
    ∀ (d : ADst) (x : ASrc) (ord : Ord) (sc : Scope) (s s1 s2 : State) (b : Word) (o : Nat), AReady s →
    (curSlot s).paired = false → readA x s = .ok (b, s1) →
    checkPointer s1 b p.2 (sizeCodeOf p.2) true false false = .ok (.own o) →
    (curCtx s1).writeRefused (curHart s) o p.2 = none →
    let desc := amoDesc s1 ord sc (curHart s) o p.2 (spaceOf b)
    inOrder desc s1 = .ok ((), s2) →
    let r := recallU (releasePush (curLaunch s) (curHart s) desc s2) (curLaunch s) (curHart s) o
    ∃ u : State, (curCtx u).scratch = Memory.writeN (curCtx r).scratch o p.2 0 ∧
      ∀ t, writeA d (BitVec.ofNat 64 (Memory.readN (curCtx r).scratch o p.2)) u = .ok ((), t) →
        exec (p.1 d x ord sc) s = .next (endA false t))

/-! ## Order-repair cells, futures, messages, fences and the ply -/

namespace Sys2Proof.Claims

/-- The word goes on, with n sequence values used, and leaves an operation on its way: a KIND 6 entry stands for it and the
message engine keeps a copy until it is accepted (R111). -/
def SendsKept (i : Instr) (s s1 : State) (op : NetOp) (n : Nat) : Prop :=
  ∃ (t : State) (it : NetItem) (e : SbEntry), exec i s = .next t ∧ it.op = op ∧ it.src = curIssuer s ∧ s1.nextId ≤ it.id ∧
    (if (curSlot s).paired = true then it ∈ (hartOf t (curHart s)).commit else it ∈ t.net) ∧
    e ∈ (curSlot t).sb ∧ e.item = some it ∧ e.kind = 6 ∧ e.refused = false ∧
    (⟨it, 0, none, 0, none⟩ : SendCopy) ∈ (hartOf t (curHart s)).copies ∧ (curCtx t).sseq = (curCtx s1).sseq + n ∧
    (curSlot t).pc = (curSlot s).pc + 1 ∧ (curSlot t).aWait = none ∧ (curSlot t).a = (curSlot s).a ∧ (curSlot t).e = (curSlot s).e ∧
    SameMemory s1 t

/-- The stamp that the next stamped operation of the current core takes (R30, R107). -/
def nextStamp (s : State) : BitVec 48 :=
  (curCtx s).ply ++ BitVec.ofNat 20 (curHart s) ++ BitVec.ofNat 12 (curCtx s).sseq

/-- A home core sends a message of a kind and payload, stamped with its ply, its index and its next sequence value (R118). -/
def HomeSends (L home dest : Nat) (kind : BitVec 4) (ws : List Word) (s t : State) (P : Word → Prop) : Prop :=
  ∃ (it : NetItem) (header : Word), t.net = s.net ++ [it] ∧ it.op = .msg dest header ws ∧ header.extractLsb' 48 4 = kind ∧
    header.extractLsb' 52 4 = BitVec.ofNat 4 ws.length ∧
    header.extractLsb' 0 48 = (ctxOf s home L).ply ++ BitVec.ofNat 20 home ++ BitVec.ofNat 12 (ctxOf s home L).sseq ∧ P header ∧
    (ctxOf t home L).sseq = (ctxOf s home L).sseq + 1

/-- A stamped operation can be sent: a sequence value is left in the ply, and a scoreboard entry is free. -/
def CanSend (s : State) : Prop :=
  (curCtx s).sseq < 4096 ∧ answerPending s (curHart s) (curLaunch s) = false ∧ (curSlot s).sb.length < 16

/-- Item k of the mesh is it, and it may be performed now; t is the state without it, and with the guards that it leaves. -/
def Arrives (s t : State) (k : Nat) (it : NetItem) : Prop :=
  s.net[k]? = some it ∧ mayPerform s it = true ∧ t = passing { s with net := removeAt k s.net } it

/-- No number of the current slot is kept for a reply that is still to come for an entry which has been given up (R308). -/
def NumsFree (s : State) : Prop := ∀ k, numGone s (curHart s) (curNum s) (curLaunch s) k = false

/-- The message words with a template in T and with an immediate. -/
noncomputable def sendTable : List ((BitVec 5 → ASrc → ASrc → BitVec 2 → Instr) × Bool) := [(.msgSend, false), (.msgSendd, true)]
noncomputable def sendlTable : List ((BitVec 5 → ASrc → BitVec 32 → Instr) × Bool) := [(.sendlAct, false), (.sendlData, true)]

/-- A pointer of space 0x5 with H = 0 that names line g of the unit beside core home. -/
def cellPtrOk (s : State) (L : Nat) (p : Word) (home : Nat) : Prop :=
  cellH p = false ∧ indexOf p = home ∧ owned s L home = true ∧ cellRefused s L p = none

end Sys2Proof.Claims

/-- R8, R63, R67 and R249 to R252: the words of repair cells run on compute cores alone, check their pointer, take a stamp where they append, and are sent: a
declaration and an append without reply are kept by the message engine; an append with a reply waits for its answer with
its sequence value not yet used; the loads leave an entry of KIND 2 and 5. A settled load names the open ply or the one before.
R63, R67, R69, R70 and R77: what the home of a repair line answers: a declaration makes the line with its 64 bytes as
BASE, or is taken if the classes agree; an append enters the history of its line at its stamp's place, once; a full history
nacks it with REASON 3; a stamp at or below the watermark is STALE; a tentative load gives the value over the accepted
history and whether none is left for its element; a settled load is served at its bound, or waits.
It rests on choices of the model: log 28, log 33, log 34, log 35, log 37. -/
def Obligations.CellOperations : Prop :=
  (∀ (x y : ASrc) (s s1 s2 : State) (p w : Word), AReady s → (curSlot s).paired = false → readA x s = .ok (p, s1) →
     readA y s1 = .ok (w, s2) →
     (∀ (cls : OrcClass), cellCheck p true s1 = .ok ((), s1) → (curSlot s1).sb.length < 16 →
       SendsKept (.orcDecl x cls) s s1 (.orcDecl p cls) 0) ∧
     (∀ low : Word, opndLow y s2 = .ok (low, s2) → cellCheck p false s2 = .ok ((), s2) → CanSend s2 →
       (curSlot s).answering = none →
       SendsKept (.orcApp .z x y) s s2 (.orcApp p (nextStamp s2) w low none) 1 ∧
       (∀ d : ADst, d ≠ .z → Takes (curSlot s2) d → (curSlot s2).sb.length < 15 → NumsFree s2 →
         ∃ (t : State) (it : NetItem) (num : Nat) (u : Undo) (e : SbEntry), exec (.orcApp d x y) s = .next t ∧
           it.op = .orcApp p (nextStamp s2) w low (some num) ∧ it ∈ t.net ∧ (curSlot t).aWait = some (.answer it.id u) ∧
           (curSlot t).pc = (curSlot s).pc ∧ (curCtx t).sseq = (curCtx s2).sseq ∧
           e ∈ (curSlot t).sb ∧ e.kind = 5 ∧ e.dst = some d ∧ e.num = some num)) ∧
     (∀ d t : ADst, cellCheck p false s1 = .ok ((), s1) → Takes (curSlot s1) d → Takes (curSlot s1) t →
       (∀ k, d = .lq k → t = .lq k → (curSlot s1).lq[k].length < 15) → (curSlot s1).sb.length < 16 →
       SendsFor (.orcLdt d x t) s s1 (.orcLdt p) 2 (some d) false) ∧
     (∀ d : ADst, cellCheck p false s2 = .ok ((), s2) →
       (w.extractLsb' 0 16 = (curCtx s2).ply ∨ w.extractLsb' 0 16 = (curCtx s2).ply - 1 → Takes (curSlot s2) d →
         (curSlot s2).sb.length < 16 → SendsFor (.orcLds d x y) s s2 (.orcLds p (w.extractLsb' 0 16)) 5 (some d) false) ∧
       (w.extractLsb' 0 16 ≠ (curCtx s2).ply → w.extractLsb' 0 16 ≠ (curCtx s2).ply - 1 →
         exec (.orcLds d x y) s = .next (takeTrap s s .aSide ⟨codeQueueMisuse, 0x014, p⟩))) ∧
     (spaceOf p ≠ 5 ∨ isCompute (curHart s) = false → ∀ cls, exec (.orcDecl x cls) s = .next (takeTrap s s .aSide ⟨codeSpace, BitVec.ofNat 12 (spaceOf p), p⟩))) ∧
  (∀ (s t : State) (k : Nat) (it : NetItem) (p : Word) (home : Nat), Arrives s t k it →
     cellPtrOk t it.src.launch p home →
     let U := (ctxOf t home it.src.launch).unit
     (∀ (cls : OrcClass) (l : Launch), it.op = .orcDecl p cls → launchOf t it.src.launch = some l →
       (∀ x, U.line (granulePtr p) = some x → x.cls = cls → exec (.orcDeclArrival k) s = .next (accept t it)) ∧
       (∀ x, U.line (granulePtr p) = some x → x.cls ≠ cls →
         exec (.orcDeclArrival k) s = .next (refusal t it codeQueueMisuse 0x011)) ∧
       (U.line (granulePtr p) = none → 255 ≤ U.lines.length →
         exec (.orcDeclArrival k) s = .next (refusal t it codeQueueMisuse 0x015)) ∧
       (U.line (granulePtr p) = none → U.lines.length < 255 → home ∈ l.units ∨ l.units.length < 64 →
         sureAt t it.src.launch (lineLoc home p) = false →
         ∃ (u : State) (x : OrLine), exec (.orcDeclArrival k) s = .next u ∧
           (ctxOf u home it.src.launch).unit.line (granulePtr p) = some x ∧ x.cls = cls ∧ x.hist = [] ∧
           x.base = vecOf (Memory.bytes (ctxOf (recallU t it.src.launch home (offOf p)) home it.src.launch).scratch
             (offOf p / 64 * 64) 64))) ∧
     (∀ (stamp : BitVec 48) (x y : Word) (l : OrLine), it.op = .orcApp p stamp x y none → U.line (granulePtr p) = some l →
       cellOff p % orcSize l.cls = 0 →
       ((ctxOf t home it.src.launch).seen stamp = true → exec (.orcAppendArrival k) s = .next (accept t it)) ∧
       ((ctxOf t home it.src.launch).seen stamp = false → stampLE stamp U.swm = true →
         ∃ (u : State) (d : BitVec 12), exec (.orcAppendArrival k) s = .next (refusal u it codeStale d) ∧ u.harts = t.harts) ∧
       ((ctxOf t home it.src.launch).seen stamp = false → stampLE stamp U.swm = false →
         (∀ e ∈ l.hist, e.stamp ≠ stamp) →
         (16 ≤ l.hist.length → exec (.orcAppendArrival k) s = .next (nack t it 3 noFault)) ∧
         (l.hist.length < 16 → ∃ (u : State) (m : OrLine) (e : HistEntry), exec (.orcAppendArrival k) s = .next u ∧
           e ∈ m.hist ∧ e.stamp = stamp ∧ e.x = x ∧ e.y = y ∧ e.elem = cellOff p % 64 / orcSize l.cls ∧ e.rq = false ∧
           (∀ f ∈ l.hist, f ∈ m.hist) ∧ m.base = l.base ∧ m.hist.length = l.hist.length + 1 ∧
           m ∈ (ctxOf u home it.src.launch).unit.lines ∧ (ctxOf u home it.src.launch).seen stamp = true))) ∧
     (∀ l : OrLine, U.line (granulePtr p) = some l → cellOff p % orcSize l.cls = 0 →
       let e := cellOff p % 64 / orcSize l.cls
       (it.op = .orcLdt p → exec (.orcTentativeLoadArrival k) s = .next (dropOut (settleSb t it.src it.id
         (BitVec.ofNat 64 (l.value e none)) (entryOf (BitVec.ofNat 64 (l.value e none)))
         (if l.hist.any (fun h => h.elem == e) then 0 else 1)) it.src.hart it.id)) ∧
       (∀ b : BitVec 16, it.op = .orcLds p b →
         (U.swm = endOf b → exec (.orcSettledLoadArrival k) s = .next (served t it (BitVec.ofNat 64 (l.value e (some (endOf b))))
           (entryOf (BitVec.ofNat 64 (l.value e (some (endOf b))))))) ∧
         (U.swm ≠ endOf b → ∃ u, exec (.orcSettledLoadArrival k) s = .next u ∧
           it ∈ (ctxOf u home it.src.launch).unit.waiting))))

/-- R72, R74 and R78: a unit under REGIME 1 that has accepted its total advances by one ply; the barrier of a plat, once every
core has arrived, closes the ply; at a core the close moves the ply on, resets the sequence, and makes the ply's parked
messages ready, and the slots that wait for it go on.
It rests on choices of the model: log 17, log 34. -/
def Obligations.PlyCloses : Prop :=
  (∀ (s : State) (unit : Nat) (c : Ctx), (hartOf s unit).ctxs = [c] →
    (caughtUp c.unit = true → ∃ t, exec (.sequenceWatermarkAdvance unit) s = .next t ∧
      (ctxOf t unit c.launch).unit.swm = endOf (stampPly c.unit.swm + 1)) ∧
    (caughtUp c.unit = false → exec (.sequenceWatermarkAdvance unit) s = .next s)) ∧
  (∀ (s : State) (p L : Nat) (l : Launch), (platOf s p).launch = some L → launchOf s L = some l →
    (barrierReady s L l = true → exec (.plyBarrierComplete p) s = .next (closePly s L l)) ∧
    (barrierReady s L l = false → exec (.plyBarrierComplete p) s = .next s) ∧
    exec (.regimeChange p) s = .next (putLaunch s L { l with regimeNext := some (!l.regime) })) ∧
  (∀ (s : State) (L h : Nat) (n : BitVec 16),
    let c := ctxOf (closeCore L n s h) h L
    c.ply = n + 1 ∧ c.sseq = 0 ∧ c.arrived = false ∧ ((ctxOf s h L).amaxHeld = [] → c.amaxOpen = []) ∧ c.appends = [] ∧
    (∀ e ∈ c.ring, ¬ (e.state = .parked ∧ (e.header.extractLsb' 32 16) = n)) ∧
    c.ring.length = (ctxOf s h L).ring.length) ∧
  (∀ (s : State) (L h n : Nat), (slotOf s h n).running = true → (slotOf s h n).ctx = L → (slotOf s h n).aWait = some .ply →
    (slotOf (resumePly L s h) h n).aWait = none ∧ (slotOf (resumePly L s h) h n).pc = (slotOf s h n).pc + 1)

/-- R90, R257 and R258: fence.all pushes the coalesced bytes of its scope and goes on once every earlier operation of the slot is
performed, else it waits; msg.plyend waits for KIND 6 entries, and for what the matrices keep before it, then pushes its bytes,
arrives and waits for the barrier.
It rests on choices of the model: log 63. -/
def Obligations.FencesAndPlyEnds : Prop :=
  ∀ (s : State), AReady s →
    (∀ sc : Scope, let t := flushScope (curLaunch s) (curHart s) sc s
      (fenceDone t (curHart s) (curNum s) sc = true → exec (.fenceAll sc) s = .next (endA false t)) ∧
      (fenceDone t (curHart s) (curNum s) sc = false → exec (.fenceAll sc) s = .next (markA t (.fence sc)))) ∧
    ((∃ e ∈ (curSlot s).sb, e.kind = 6) → exec .msgPlyend s = .next (markA s (.pending 6))) ∧
    ((∀ e ∈ (curSlot s).sb, e.kind ≠ 6) → priorsOf s plyDesc ≠ [] →
      ∃ ids, exec .msgPlyend s = .next (markA (flushIds (curLaunch s) (curHart s) ids s) .order)) ∧
    (curEarlier s = [] → plyOrder s = .ok ((), s)) ∧
    (∀ u : State, (∀ e ∈ (curSlot s).sb, e.kind ≠ 6) → plyOrder s = .ok ((), u) →
      ∃ t, exec .msgPlyend s = .next t ∧ (curCtx t).arrived = true ∧ (curSlot t).aWait = some .ply ∧
        (curSlot t).pc = (curSlot s).pc ∧ (curCtx t).ply = (curCtx s).ply ∧ SameMemory s t)

/-- R46, R117 and R253: the future words. On a word of the own scratchpad a read of a full word gives its value once the copies
have been recalled, and a read of an empty one is linked as its waiter; a write fills an empty word; a clear empties a full
one. A write to a full word is QUEUE_MISUSE with DETAIL 0x031, a clear of an empty word with waiters 0x032. On another core the
operations are sent. A continuation read of a full word sends its message at once.
R117, R118 and R253: a future operation at its home: a read of a full word is served with it, a continuation read with an active
message of the value and the tag; a read of an empty word is linked, or nacked with REASON 5 while no node is free; a write to an
empty word fills it, a clear of a full word empties it, and both are accepted; else they are refused.
R51 and R118: a write walks the list of waiters from its head, newest first: each gets a message of the home, with its next sequence
value, a reply for channel 63 and else an active message, and its node is free again.
That a clear recalls the copies in U is log 69, and that it waits for an access accepted before is log 63.
It rests on choices of the model: log 12, log 31, log 63, log 69. -/
def Obligations.Futures : Prop :=
  (∀ (x y : ASrc) (s s1 s2 : State) (p w : Word), AReady s → (curSlot s).paired = false → readA x s = .ok (p, s1) →
     readA y s1 = .ok (w, s2) →
     (∀ off : Nat, inLine s1 (curLaunch s) (curHart s) off = false →
       let r (u : State) := recallU u (curLaunch s) (curHart s) off
       (checkPointer s1 p 8 3 false false false = .ok (.own off) →
         ((curCtx s1).isEmpty off = false → ∀ (d : ADst) (u t : State),
             inOrder (futDesc .ldA (curHart s) off (spaceOf p)) s1 = .ok ((), u) →
             writeA d (BitVec.ofNat 64 (leValue ((curCtx (r u)).read (curHart s) off 8))) (r u) = .ok ((), t) →
             exec (.futRd d x) s = .next (endA false t)) ∧
         ((curCtx s1).isEmpty off = true → isCompute (curHart s) = true →
           (curSlot s1).sb.length < 16 → NumsFree s1 →
           ∀ (d : ADst) (n : Nat) (ns : List Nat) (u : State),
             inOrder (futDesc .ldA (curHart s) off (spaceOf p)) s1 = .ok ((), u) → (curCtx s1).futFree = n :: ns → Takes (curSlot s1) d →
             ∃ (t : State) (e : SbEntry) (num : Nat), exec (.futRd d x) s = .next t ∧ (curSlot t).pc = (curSlot s).pc + 1 ∧
               e ∈ (curSlot t).sb ∧ e.kind = 4 ∧ e.dst = some d ∧ e.num = some num ∧ (curCtx t).futFree = ns)) ∧
       (checkPointer s1 p 8 3 true false false = .ok (.own off) →
         ((curCtx s1).isEmpty off = true → Memory.readN (curCtx s1).scratch off 2 ≠ 0 →
           exec (.futClr x) s = .next (takeTrap s s .aSide ⟨codeQueueMisuse, 0x032, p⟩)) ∧
         ((curCtx s1).isEmpty off = false → ∀ u, inOrder (futDesc .st (curHart s) off (spaceOf p)) s1 = .ok ((), u) →
           sureAt u (curLaunch s) ⟨curHart s, off, 8⟩ = false →
           ∃ t, exec (.futClr x) s = .next (endA false t) ∧ (curCtx t).isEmpty off = true ∧
             (∀ a, a < off ∨ off + 8 ≤ a → Memory.read (curCtx t).scratch a = Memory.read (curCtx (r u)).scratch a)))) ∧
     (∀ off : Nat, inLine s2 (curLaunch s) (curHart s) off = false →
       checkPointer s2 p 8 3 true false false = .ok (.own off) →
       ((curCtx s2).isEmpty off = false → exec (.futWr x y) s = .next (takeTrap s s .aSide ⟨codeQueueMisuse, 0x031, p⟩)) ∧
       (let u := flushScope (curLaunch s) (curHart s) .module s2
        ∀ v, (curCtx s2).isEmpty off = true → inOrder (futDesc .stR (curHart s) off (spaceOf p)) u = .ok ((), v) →
         hasSseq s2 (curLaunch s) (curHart s) (waitersOf s2 (curLaunch s) (curHart s) off).length = true →
         ∃ t, exec (.futWr x y) s = .next (endA false t) ∧ (curCtx t).isEmpty off = false ∧
           (Memory.wf (curCtx s2).scratch = true → ∀ i, i < 8 → Memory.read (curCtx t).scratch (off + i) = (leBytes w.toNat 8).getD i 0) ∧
           (∀ a, a < off ∨ off + 8 ≤ a → Memory.read (curCtx t).scratch a = Memory.read (curCtx s2).scratch a))) ∧
     (∀ (home off : Nat) (c : Bool),
       (checkPointer s1 p 8 3 false false false = .ok (.mesh home off c) → (curSlot s1).sb.length < 16 → NumsFree s1 →
         ∀ d : ADst, Takes (curSlot s1) d → ∃ tag : Word, tag.extractLsb' 0 3 = BitVec.ofNat 3 (curNum s) ∧
           SendsFor (.futRd d x) s s1 (.futRd p tag) 4 (some d) false) ∧
       (∀ n : Fin 16, checkPointer s2 p 8 3 false false false = .ok (.mesh home off c) → (curSlot s2).sb.length < 16 →
         (curSlot s2).pendingOn (.a n) = none →
         ((curSlot s2).a[n].extractLsb' 0 6 ≠ 63 →
           SendsKept (.futRdc n x y) s s2 (.futRdc p ((curSlot s2).a[n].extractLsb' 0 6).toNat w) 0) ∧
         ((curSlot s2).a[n].extractLsb' 0 6 = 63 → exec (.futRdc n x y) s = .next (takeTrap s s .aSide ⟨codeQueueMisuse, 0x030, p⟩))) ∧
       (∀ (n : Fin 16) (u : State), checkPointer s2 p 8 3 false false false = .ok (.own off) → (curSlot s2).pendingOn (.a n) = none →
         (curSlot s2).a[n].extractLsb' 0 6 ≠ 63 → inLine s2 (curLaunch s) (curHart s) off = false → (curCtx s2).isEmpty off = false →
         inOrder (futDesc .ldA (curHart s) off (spaceOf p)) s2 = .ok ((), u) → hasSseq s2 (curLaunch s) (curHart s) 1 = true →
         let r := recallU u (curLaunch s) (curHart s) off
         exec (.futRdc n x y) s = .next (endA false (sendContinuation r (curLaunch s) (curHart s) (curHart s)
           ((curSlot s2).a[n].extractLsb' 0 6).toNat (BitVec.ofNat 64 (leValue ((curCtx r).read (curHart s) off 8))) w))) ∧
       (checkPointer s2 p 8 3 true false false = .ok (.mesh home off c) → (curSlot s2).sb.length < 16 →
         SendsKept (.futWr x y) s s2 (.futWr p w) 0) ∧
       (checkPointer s1 p 8 3 true false false = .ok (.mesh home off c) → (curSlot s1).sb.length < 16 →
         SendsKept (.futClr x) s s1 (.futClr p) 0))) ∧
  (∀ (s t : State) (k : Nat) (it : NetItem) (p : Word), Arrives s t k it →
     let home := homeOf it.src.hart p
     let L := it.src.launch
     let off := offOf p
     owned t L home = true → inLine t L home off = false →
     (∀ tag : Word, it.op = .futRd p tag → regionRefused t L home off 8 false = false →
       ((ctxOf t home L).isEmpty off = false → ∀ w : Word,
         w = BitVec.ofNat 64 (leValue ((ctxOf (recallU t L home off) home L).read home off 8)) →
         exec (.futureReadArrival k) s =
           .next (served (dropCopy (recallU t L home off) it.src.hart it.id) it w (entryOf w))) ∧
       ((ctxOf t home L).isEmpty off = true → (ctxOf t home L).futFree = [] →
         exec (.futureReadArrival k) s = .next (nack t it 5 noFault)) ∧
       (∀ u, (ctxOf t home L).isEmpty off = true → linkWaiter t L home off 63 it.src.hart tag = some u →
         exec (.futureReadArrival k) s = .next (dropCopy u it.src.hart it.id))) ∧
     (∀ (chan : Nat) (tag : Word), it.op = .futRdc p chan tag → regionRefused t L home off 8 false = false →
       ((ctxOf t home L).isEmpty off = false → hasSseq t L home 1 = true →
         let r := recallU t L home off
         exec (.futureReadArrival k) s = .next (accept (sendContinuation r L home it.src.hart chan
           (BitVec.ofNat 64 (leValue ((ctxOf r home L).read home off 8))) tag) it)) ∧
       ((ctxOf t home L).isEmpty off = true → (ctxOf t home L).futFree = [] →
         exec (.futureReadArrival k) s = .next (nack t it 5 noFault)) ∧
       (∀ u, (ctxOf t home L).isEmpty off = true → linkWaiter t L home off chan it.src.hart tag = some u →
         exec (.futureReadArrival k) s = .next (accept u it))) ∧
     (∀ v : Word, it.op = .futWr p v → regionRefused t L home off 8 true = false →
       ((ctxOf t home L).isEmpty off = false →
         exec (.futureWriteArrival k) s = .next (refusal t it codeQueueMisuse 0x031)) ∧
       ((ctxOf t home L).isEmpty off = true → hasSseq t L home (waitersOf t L home off).length = true →
         ∃ u, u = fillFuture t L home off v ∧ exec (.futureWriteArrival k) s = .next (accept u it) ∧
           (ctxOf u home L).isEmpty off = false ∧
           (∀ a, a < off ∨ off + 8 ≤ a → Memory.read (ctxOf u home L).scratch a = Memory.read (ctxOf t home L).scratch a))) ∧
     (it.op = .futClr p → regionRefused t L home off 8 true = false → sureAt t L ⟨home, off, 8⟩ = false →
       ((ctxOf t home L).isEmpty off = false → ∃ u, exec (.futureClearArrival k) s = .next (accept u it) ∧
         (ctxOf u home L).isEmpty off = true) ∧
       ((ctxOf t home L).isEmpty off = true → Memory.readN (ctxOf t home L).scratch off 2 ≠ 0 →
         exec (.futureClearArrival k) s = .next (refusal t it codeQueueMisuse 0x032)))) ∧
  (∀ (s : State) (L home dest chan : Nat) (value tag : Word), HomeSends L home dest 1 [value, tag] s
     (sendContinuation s L home dest chan value tag) (fun header => header.extractLsb' 58 6 = BitVec.ofNat 6 chan)) ∧
  (∀ (s : State) (L home off : Nat) (v : Word), let t := fillFuture s L home off v
     let ws := waitersOf s L home off
     t.net.length = s.net.length + ws.length ∧ (ctxOf t home L).sseq = (ctxOf s home L).sseq + ws.length ∧
     (ctxOf t home L).futFree = (ws.map (·.1)).reverse ++ (ctxOf s home L).futFree ∧
     ∀ i node chan sender tag, ws[i]? = some (node, chan, sender, tag) → ∃ (it : NetItem) (header : Word),
       t.net[s.net.length + i]? = some it ∧
       header.extractLsb' 0 48 = (ctxOf s home L).ply ++ BitVec.ofNat 20 home ++ BitVec.ofNat 12 ((ctxOf s home L).sseq + i) ∧
       (chan = 63 → it.op = .msg sender header [tag, v] ∧ header.extractLsb' 48 4 = 2) ∧
       (chan ≠ 63 → it.op = .msg sender header [v, tag] ∧ header.extractLsb' 48 4 = 1 ∧
         header.extractLsb' 58 6 = BitVec.ofNat 6 chan)) ∧
  (∀ (m : Memory) (base fuel n : Nat), waiters m base fuel 0 = [] ∧ (0 < n → let w := Memory.readN m (base + 16 * (n - 1) + 8) 8
     waiters m base (fuel + 1) n = (n - 1, w / 2 ^ 20 % 64, w % 2 ^ 20, Memory.word m (base + 16 * (n - 1))) ::
       waiters m base fuel (w / 2 ^ 32 % 2 ^ 16)))

/-- R107, R111 and R254 to R256: the message words: they check the port pointer and the header fields, stamp the message with
the ply, the sender and the next sequence value, and send it with the registers that D names as its payload. -/
def Obligations.MessagesAreSent : Prop :=
  (∀ p ∈ sendTable, ∀ (d : BitVec 5) (x y : ASrc) (pri : BitVec 2) (s s1 s2 s3 : State) (port tm : Word) (dest : Nat) (ws : List Word),
    AReady s → readA x s = .ok (port, s1) → readA y s1 = .ok (tm, s2) → portDest port s2 = .ok (dest, s2) →
    let len := (tm.extractLsb' 52 4).toNat
    (tm.extractLsb' 56 2 ≠ 0 ∨ tm.extractLsb' 0 52 ≠ 0 →
      exec (p.1 d x y pri) s = .next (takeTrap s s .aSide ⟨codeReserved, 0x0c0, 0⟩)) ∧
    (tm.extractLsb' 56 2 = 0 → tm.extractLsb' 0 52 = 0 → 7 < len ∨ (0 < len ∧ 16 < d.toNat + len) ∨ (p.2 = true ∧ len = 0) →
      exec (p.1 d x y pri) s = .next (takeTrap s s .aSide ⟨codeReserved, 0x0c1, 0⟩)) ∧
    (tm.extractLsb' 56 2 = 0 → tm.extractLsb' 0 52 = 0 → len ≤ 7 → (len = 0 ∨ d.toNat + len ≤ 16) → (p.2 = true → len ≠ 0) →
      readBlock d.toNat len s2 = .ok (ws, s3) → CanSend s3 → ∀ header : Word,
      header = tm.extractLsb' 58 6 ++ pri ++ tm.extractLsb' 52 4 ++ (if p.2 then (0 : BitVec 4) else 1) ++ nextStamp s3 →
      SendsKept (p.1 d x y pri) s s3 (.msg dest header ws) 1)) ∧
  (∀ p ∈ sendlTable, ∀ (d : BitVec 5) (x : ASrc) (imm : BitVec 32) (s s1 s2 : State) (port : Word) (dest : Nat) (ws : List Word),
    AReady s → readA x s = .ok (port, s1) → portDest port s1 = .ok (dest, s1) →
    let len := (imm.extractLsb' 20 4).toNat
    (imm.extractLsb' 0 20 ≠ 0 → exec (p.1 d x imm) s = .next (takeTrap s s .aSide ⟨codeReserved, 0x0c3, 0⟩)) ∧
    (imm.extractLsb' 0 20 = 0 → len ≤ 7 → (len = 0 ∨ d.toNat + len ≤ 16) → (p.2 = true → len ≠ 0) →
      readBlock d.toNat len s1 = .ok (ws, s2) → CanSend s2 → ∀ header : Word,
      header = imm.extractLsb' 26 6 ++ imm.extractLsb' 24 2 ++ imm.extractLsb' 20 4 ++ (if p.2 then (0 : BitVec 4) else 1) ++ nextStamp s2 →
      SendsKept (p.1 d x imm) s s2 (.msg dest header ws) 1)) ∧
  (∀ (d x y : ASrc) (s s1 s2 s3 : State) (port v w : Word) (dest : Nat), AReady s → readA x s = .ok (port, s1) →
    readA y s1 = .ok (v, s2) → readA d s2 = .ok (w, s3) → portDest port s3 = .ok (dest, s3) →
    (2 ^ 7 ≤ w.toNat → exec (.msgReply d x y) s = .next (takeTrap s s .aSide ⟨codeReserved, 0x0c2, 0⟩)) ∧
    (w.toNat < 2 ^ 7 → CanSend s3 → ∀ header : Word, header = (0x0322 : BitVec 16) ++ nextStamp s3 →
      SendsKept (.msgReply d x y) s s3 (.msg dest header [w, v]) 1)) ∧
  (∀ (s : State) (port : Word),
    (spaceOf port ≠ 7 → portDest port s = .error (.trap ⟨codeSpace, BitVec.ofNat 12 (spaceOf port), port⟩ none)) ∧
    (∀ d, d < Config.nCompute → port = BitVec.ofNat 64 (7 * 2 ^ 60 + d * 2 ^ 40) → inPlat s (curLaunch s) d = false →
      portDest port s = .error (.trap ⟨codeBounds, 0x0b1, port⟩ none)) ∧
    (∀ d, d < Config.nCompute → port = BitVec.ofNat 64 (7 * 2 ^ 60 + d * 2 ^ 40) → inPlat s (curLaunch s) d = true →
      portDest port s = .ok (d, s)) ∧
    (∀ d, Config.nCompute ≤ d → d < Config.nHarts → port = BitVec.ofNat 64 (7 * 2 ^ 60 + d * 2 ^ 40) → portDest port s = .ok (d, s)))

/-- R108, R109, R111, R113, R174 and R187: a message at its destination core. A message seen before is only accepted; one for an
entry that may not be started is refused with RESERVED_FIELD; a message for a DET entry is parked in the ring; another starts
an activation at once where a slot is free, else enters the ring as ready, and is nacked with REASON 0 when the ring is full; where
only the mask of its channel keeps it from a slot, it is met by the core until the cycle is over; a data
message writes its words; a reply settles the entry that it names.
It rests on choices of the model: log 31, log 32, log 44. -/
def Obligations.MessageArrivals : Prop :=
  ∀ (s t : State) (k : Nat) (it : NetItem) (h : Nat) (header : Word) (ws : List Word), Arrives s t k it →
    it.op = .msg h header ws → h < Config.nHarts → it.src.hart ≠ placer →
    let L := it.src.launch
    let c := ctxOf t h L
    (turnedAway t L h = .no → c.seen (header.extractLsb' 0 48) = true →
      (header.extractLsb' 48 4 = 1 → exec (.activeMessageArrival k) s = .next (accept t it)) ∧
      (header.extractLsb' 48 4 = 0 → exec (.dataMessageArrival k) s = .next (accept t it))) ∧
    (turnedAway t L h = .no → c.seen (header.extractLsb' 0 48) = false → header.extractLsb' 48 4 = 1 →
      (entryRefused t L header ws.length = true → exec (.activeMessageArrival k) s =
        .next (refusal t it codeReserved (0x300 + (header.extractLsb' 58 6).zeroExtend 12))) ∧
      (∀ cap : Capsule, entryRefused t L header ws.length = false → capOf t L = some cap → cap.pipe = false →
        let det := isDet t L (header.extractLsb' 58 6).toNat
        let starts := !det && takesSlot t h L (header.extractLsb' 58 6).toNat
        (starts = false → ringEntries cap h ≤ c.ring.length → maskHolds t it h L header = false →
          exec (.activeMessageArrival k) s = .next (nack t it 0 noFault)) ∧
        (c.masks.getLsbD (header.extractLsb' 58 6).toNat = false ∨ metBefore t it = true → maskHolds t it h L header = false) ∧
        (starts = false → ringEntries cap h ≤ c.ring.length → maskHolds t it h L header = true →
          exec (.activeMessageArrival k) s = .next (meets s it)) ∧
        (det = false → c.ring.length < ringEntries cap h → metBefore t it = false → freeSlot (hartOf t h) = none →
          ∃ (u : State) (e : RingEntry), exec (.activeMessageArrival k) s = .next u ∧ (ctxOf u h L).ring = c.ring ++ [e] ∧
            e.header = header ∧ e.payload = ws ∧ e.state = .ready ∧ (ctxOf u h L).seen (header.extractLsb' 0 48) = true) ∧
        (starts = true → metBefore t it = false → ∀ n, freeSlot (hartOf t h) = some n → ∃ u, exec (.activeMessageArrival k) s = .next u ∧
          (slotOf u h n).running = true ∧ (slotOf u h n).a[0] = header ∧ (slotOf u h n).ctx = L ∧
          (ctxOf u h L).seen (header.extractLsb' 0 48) = true) ∧
        (det = true → c.ring.length < ringEntries cap h → metBefore t it = false → ∃ (u : State) (e : RingEntry),
          exec (.activeMessageArrival k) s = .next u ∧ (ctxOf u h L).ring = c.ring ++ [e] ∧ e.header = header ∧
          e.payload = ws ∧ e.state = .parked ∧ e.released = false))) ∧
    (∀ (w0 : Word) (rest : List Word), turnedAway t L h = .no → c.seen (header.extractLsb' 0 48) = false →
      header.extractLsb' 48 4 = 0 → ws = w0 :: rest →
      (∀ d, dataRefused t L h ws = some d → exec (.dataMessageArrival k) s = .next (refusal t it codeBounds d)) ∧
      (dataRefused t L h ws = none → rest ≠ [] → c.writeRefused h (w0.extractLsb' 0 18).toNat (8 * rest.length) = none →
        w0.getLsbD 18 = false → exec (.dataMessageArrival k) s =
          .next (takenBy (writeMessage t L h (w0.extractLsb' 0 18).toNat rest) it L h (header.extractLsb' 0 48)))) ∧
    (∀ e : SbEntry, header.extractLsb' 48 4 = 2 →
      let n := ((ws.headD 0).extractLsb' 0 3).toNat
      namedEntry t L h n ((ws.headD 0).extractLsb' 3 4).toNat 4 = some e →
      ((slotOf t h n).paired = false → exec (.replyMessageArrival k) s = .next (accept (dropOut (putSlot t h n
        ((slotOf t h n).settle e.id (ws.getD 1 0) (entryOf (ws.getD 1 0)) 0)) h e.id) it)) ∧
      ((slotOf t h n).paired = true → exec (.replyMessageArrival k) s = .next (accept (dropOut (settleSb t
        ⟨h, L, n, (slotOf t h n).act⟩ e.id (ws.getD 1 0) (entryOf (ws.getD 1 0)) 0) h e.id) it)))

/-- R75 and R111: what answers do at the sender's message engine: an acceptance drops the copy and its KIND 6 entry; a nack
schedules the resend 64 x 2^min(k, 10) cycles later, for the k-th nack of the copy counted from 0; REASON 15 is a late fault; a
resend puts the operation on its way again, unless REASON 2 has refused it for 65,536 cycles; an append nacked with REASON 3
past its retry budget is refused with ORC_OVERFLOW, and its copy stays while its slot goes on.
It rests on choices of the model: log 27, log 44. -/
def Obligations.AnswersToSenders : Prop :=
  (∀ (s t : State) (k : Nat) (it : NetItem), s.net[k]? = some it → t = { s with net := removeAt k s.net } →
    (∀ id : Nat, it.op = .accept id → (awaits s it.src id = false) →
      ∃ u, exec (.sendAcceptance k) s = .next u ∧ (∀ c ∈ (hartOf u it.src.hart).copies, c.item.id ≠ id) ∧
        (∀ o ∈ (hartOf u it.src.hart).out, o.id ≠ id) ∧
        (runs s it.src = true → ∀ e ∈ (slotOf u it.src.hart it.src.slot).sb, e.id ≠ id)) ∧
    (∀ (id reason : Nat) (f : FaultInfo) (c : SendCopy), it.op = .nack id reason f → copyOf t it.src.hart id = some c →
      (reason = 15 → awaits s it.src id = false → exec (.nackMessageArrival k) s =
        .next (refuse (dropCopy t it.src.hart id) it.src id f)) ∧
      (reason < 15 → reason ≠ 3 → answerHeld s it.src id = false → ∃ u d, exec (.nackMessageArrival k) s = .next u ∧ copyOf u it.src.hart id = some d ∧
        d.item = c.item ∧ d.nacks = c.nacks + 1 ∧ d.due = some (s.cycle + 64 * 2 ^ min c.nacks 10) ∧ d.retries = c.retries) ∧
      (reason = 3 → c.retries < retryBudget s it.src.launch → answerHeld s it.src id = false → ∃ u d, exec (.nackMessageArrival k) s = .next u ∧
        copyOf u it.src.hart id = some d ∧ d.retries = c.retries + 1 ∧ d.due = some (s.cycle + 64 * 2 ^ min c.nacks 10)) ∧
      (reason = 3 → retryBudget s it.src.launch ≤ c.retries → awaits s it.src id = false →
        ∃ (detail : BitVec 12) (v : State), v.harts = t.harts ∧
          let r := refuse (dropCopy v it.src.hart id) it.src id ⟨codeOrcOverflow, detail, portOf c.item⟩
          let H := hartOf r it.src.hart
          exec (.orcRetryBudgetExhausted k) s =
            .next (if runs r it.src then putHart r it.src.hart { H with copies := H.copies ++ [{ c with due := none }] } else r)))) ∧
  (∀ (s : State) (k h : Nat) (c : SendCopy) (d : Nat), (allCopies s)[k]? = some (h, c) → c.due = some d →
    let ovr := ∃ since, c.firstOwn = some since ∧ since + 65536 ≤ s.cycle
    (ovr → awaits s c.item.src c.item.id = false → exec (.messageResend k) s =
      .next (refuse (dropCopy s c.item.src.hart c.item.id) c.item.src c.item.id ⟨codeBounds, 0x0b2, portOf c.item⟩)) ∧
    (¬ ovr → d ≤ s.cycle → ∃ u, exec (.messageResend k) s = .next u ∧ { c.item with since := s.cycle } ∈ u.net) ∧
    (¬ ovr → s.cycle < d → exec (.messageResend k) s = .next s))

/-- R44, R53, R54, R78, R82, R133, R244 and R247: operations at their homes: a load is served with the bytes of its home, once the
copies have been recalled; a store writes its bytes; an access of 64 bytes reads or writes some of its words, whole words each, and
waits with the rest; an atomic applies its function; the timer sends a line's coalesced
bytes; an access through a checker reads or writes its extent; an operation retried for 65,536 cycles ends in BOUNDS.
That a store which arrives recalls the copies in U is log 69, and which words of 64 bytes a turn performs is log 63.
It rests on choices of the model: log 37, log 44, log 63, log 69. -/
def Obligations.MeshArrivals : Prop :=
  (∀ (s t : State) (k : Nat) (it : NetItem), arriving s k = some (it, t) →
    let L := it.src.launch
    (∀ (p : Word) (n : Nat) (sg : Bool), it.op = .load p n sg true →
      let home := homeOf it.src.hart p
      let r := recallU t L home (offOf p)
      let bs := (ctxOf r home L).read home (offOf p) n
      (regionRefused t L home (offOf p) n false = false → n ∈ [1, 2, 4, 8] → offOf p % n = 0 → exec (.meshLoadArrival k) s =
        .next (served r it (loadValue sg bs) (loadEntry sg bs))) ∧
      (regionRefused t L home (offOf p) n false = false → n = 64 → offOf p % n = 0 → it.part = 0 →
        ∃ (m : BitVec 8) (u : State), m ≠ 0 ∧ u.harts = r.harts ∧
          (m = 0xff → exec (.meshLoadArrival k) s = .next (served u it (loadValue sg bs) (loadEntry sg bs))) ∧
          (m ≠ 0xff → ∃ data : Vec, exec (.meshLoadArrival k) s = .next (backInNet u { it with part := m, data := data } [it.id]) ∧
            ∀ i < 64, m.getLsbD (i / 8) = true → vecByte data i = bs.getD i 0)) ∧
      (regionRefused t L home (offOf p) n false = true → exec (.meshLoadArrival k) s =
        .next (refuse t it.src it.id ⟨codeBounds, 0x0b3, p⟩))) ∧
    (∀ (p : Word) (bs : List Byte), it.op = .store p bs →
      let home := homeOf it.src.hart p
      (∀ f, homeRefuses t L home (offOf p) bs.length p = some f → isSure t it.src.hart it.id = false →
        exec (.meshStoreArrival k) s = .next (refuse t it.src it.id f)) ∧
      (homeRefuses t L home (offOf p) bs.length p = none → bs.length ≠ 64 →
        exec (.meshStoreArrival k) s = .next (dropOut (homeWrite t L home (offOf p) bs) it.src.hart it.id)) ∧
      (homeRefuses t L home (offOf p) bs.length p = none → bs.length = 64 → offOf p % 64 = 0 → it.part = 0 →
        let r := recallU t L home (offOf p)
        ∃ (m : BitVec 8) (u : State), m ≠ 0 ∧ exec (.meshStoreArrival k) s = .next u ∧
          (m ≠ 0xff → { it with part := m } ∈ u.net) ∧ (m = 0xff → ∀ o ∈ (hartOf u it.src.hart).out, o.id ≠ it.id) ∧
          (∀ a, a < offOf p ∨ offOf p + 64 ≤ a →
            Memory.read (ctxOf u home L).scratch a = Memory.read (ctxOf r home L).scratch a) ∧
          (Memory.wf (ctxOf r home L).scratch = true → ∀ i, i < 64 → Memory.read (ctxOf u home L).scratch (offOf p + i) =
            if m.getLsbD (i / 8) then bs.getD i 0 else Memory.read (ctxOf r home L).scratch (offOf p + i)))) ∧
    (∀ (home off : Nat) (ps : List PendStore), it.op = .flush home off ps → (∀ q ∈ ps, q.bytes.length ≠ 64) →
      (∃ u, exec (.meshStoreArrival k) s = .next u ∧ ∀ o ∈ (hartOf u it.src.hart).out, ∀ q ∈ ps, o.id ≠ q.id) ∧
      (∀ q, ps = [q] → it.part = 0 → off = offOf q.ptr / 64 * 64 → homeRefuses t L home (offOf q.ptr) q.bytes.length q.ptr = none → exec (.meshStoreArrival k) s =
        .next (dropOuts (homeWrite t L home (offOf q.ptr) q.bytes) it.src.hart [q.id]))) ∧
    (∀ (p : Word) (op : AmoOp) (x : Word) (ply : BitVec 16) (old : Nat) (u : State), it.op = .amo p op x ply →
      homeRefuses t L (homeOf it.src.hart p) (offOf p) (amoSize op) p = none →
      amoAtHome t L (homeOf it.src.hart p) (offOf p) op x.toNat ply = some (old, u) →
      exec (.amoArrival k) s = .next (served u it (amoReturn op old) (entryOf (amoReturn op old)))) ∧
    (∀ (p : Word) (e : Extent), extentOf s L p = some e →
      (∀ (n : Nat) (sg : Bool), it.op = .extLoad p n sg →
        (ctxOf s it.src.hart L).unit.line (extLinePtr (extOf p) (extOff p)) = none →
        let bs := extentBytes s e (extOff p) n
        (n ≠ 64 → exec (.extentLoadDataReturn k) s =
          .next (served (extentTouch t e (extOff p)) it (loadValue sg bs) (loadEntry sg bs))) ∧
        (n = 64 → it.part = 0 → ∃ (m : BitVec 8) (u : State), m ≠ 0 ∧ u.harts = t.harts ∧
          (m = 0xff → exec (.extentLoadDataReturn k) s =
            .next (served (extentTouch u e (extOff p)) it (loadValue sg bs) (loadEntry sg bs))) ∧
          (m ≠ 0xff → ∃ data : Vec, exec (.extentLoadDataReturn k) s =
              .next (backInNet u { it with part := m, data := data } [it.id]) ∧
            ∀ i < 64, m.getLsbD (i / 8) = true → vecByte data i = bs.getD i 0))) ∧
      (∀ bs : List Byte, it.op = .extStore p bs → e.host = true ∨ pageHeld s (e.base + extOff p) = false →
        (ctxOf s it.src.hart L).unit.line (extLinePtr (extOf p) (extOff p)) = none →
        (bs.length ≠ 64 → exec (.storerWriteAck k) s =
          .next (dropOut (extentWrite t e (extOff p) bs (platOfLaunch s L).tag) it.src.hart it.id)) ∧
        (bs.length = 64 → it.part = 0 → ∃ (m : BitVec 8) (f : Nat), m ≠ 0 ∧
          let v := ((List.range 8).filter fun j => m.getLsbD j).foldl (fun v j => extentWrite v e (extOff p + 8 * j)
            ((bs.drop (8 * j)).take 8) (platOfLaunch s L).tag) { t with fresh := f }
          exec (.storerWriteAck k) s = .next (if m = 0xff then dropOut (extentClean v e (extOff p)) it.src.hart it.id
            else backInNet v { it with part := m } [it.id]))))) ∧
  (∀ (s : State) (h L off : Nat) (bs : List Byte), let r := recallU s L h off
    let t := homeWrite s L h off bs
    (∀ a, a < off ∨ off + bs.length ≤ a → Memory.read (ctxOf t h L).scratch a = Memory.read (ctxOf r h L).scratch a) ∧
    (Memory.wf (ctxOf r h L).scratch = true → ∀ i, i < bs.length →
      Memory.read (ctxOf t h L).scratch (off + i) = bs.getD i 0)) ∧
  (∀ (s : State) (h k : Nat) (c : Ctx) (cs : List Ctx), (hartOf s h).ctxs = c :: cs → ((hartOf s h).line k).stores ≠ [] →
    (((hartOf s h).line k).since + 64 ≤ s.cycle → ∃ (t : State) (it : NetItem), exec (.coalesceFlushTimer h k) s = .next t ∧
      t.net = s.net ++ [it] ∧ it.op = .flush (keyHome k) (keyOff k) ((hartOf s h).line k).stores ∧
      ((hartOf t h).line k).stores = []) ∧
    (s.cycle < ((hartOf s h).line k).since + 64 → exec (.coalesceFlushTimer h k) s = .next s)) ∧
  (∀ (s t : State) (k : Nat) (it : NetItem) (p : Word) (n : Nat) (sg un : Bool), s.net[k]? = some it →
    t = { s with net := removeAt k s.net } → it.op = .load p n sg un → owned s it.src.launch (homeOf it.src.hart p) = false →
    (it.since + 65536 ≤ s.cycle → exec (.ownershipRetryTimeout k) s =
      .next (refuse t it.src it.id ⟨codeBounds, 0x0b2, p⟩)) ∧
    (s.cycle < it.since + 65536 → exec (.ownershipRetryTimeout k) s = .next s))

/-! ## The E-side -/

namespace Sys2Proof.Claims

/-- The E-side issues a word that a prefix may govern. -/
def EGov (s : State) : Prop :=
  curHart s < Config.nHarts ∧ (curSlot s).running = true ∧ (curSlot s).ePos.isSome = true ∧
  ((curSlot s).paired && (hartOf s (curHart s)).selftest) = false ∧ ∀ w, (curSlot s).ePrefix = some w → isFmtE w = true

/-- The word that writes w to a destination of E scalar class after its sources have been read, ending in state s2. -/
def WritesE (i : Instr) (s s2 : State) (d : EDst) (w : Word) : Prop :=
  ∀ t, writeE d w s2 = .ok ((), t) → exec i s = .next (endE t)

/-- The same for a word with conditions, which est takes (R25); a governable word consumes its prefix. -/
def WritesEF (gov : Bool) (i : Instr) (s s2 : State) (d : EDst) (w : Word) (f : Fl) : Prop :=
  ∀ t, writeE d w s2 = .ok ((), t) →
    exec i s = .next ((if gov then endGovE else endE) (putCur t ((curSlot t).raise f)))

/-- The end of a vector word: its conditions enter est, the entries that it held are freed, and it retires. -/
def endV (gov : Bool) (ids : List Nat) (f : Fl) (t : State) : State :=
  let u := putCur t ((curSlot t).raise f)
  (if gov then endGovE else endE) (putCur u { curSlot u with sb := (curSlot u).sb.filter fun e => !ids.contains e.id })

/-- The vector word that writes w to D, having held the entries ids, with conditions f. -/
def WritesV (gov : Bool) (i : Instr) (s t2 : State) (ids : List Nat) (d : VDst) (w : Vec) (f : Fl) : Prop :=
  ∀ t, writeV d w t2 = .ok ((), t) → exec i s = .next (endV gov ids f t)

/-- Both vector sources of a word read: a and b, with the entries that it holds. -/
def ReadsV (s t2 : State) (x y : VSrc) (dest : HeldDst × Nat) (a b : Vec) (ids : List Nat) : Prop :=
  ∃ u1 u2 t1, grabV x dest.1 dest.2 s = .ok ((a, u1), t1) ∧ grabV y dest.1 dest.2 t1 = .ok ((b, u2), t2) ∧ ids = u1 ++ u2

/-- The signed value of a lane, and the lane of an integer. -/
def sgn (W a : Nat) : Int := if 2 * a < 2 ^ W then a else (a : Int) - 2 ^ W
def pat (W : Nat) (v : Int) : Nat := (v % 2 ^ W).toNat

/-- Is the lane governed by its predicate? -/
def on (s : State) (W : Nat) (p : Fin 8) (i : Nat) : Bool := ((curSlot s).pred p).getLsbD (i * W / 8)

/-- The vector with g in the governed lanes and D's own lanes elsewhere (R270). -/
def LanesAre (s : State) (d : VDst) (W : Nat) (p : Fin 8) (w : Vec) (g : Nat → Nat) : Prop :=
  ∀ i, i < 512 / W → lane W w i = if on s W p i = true then g i else lane W ((curSlot s).vdst d) i

/-- R262 on two sources. -/
noncomputable def iaTable : List ((EDst → ESrc → ESrc → Instr) × (Word → Word → Word)) :=
  [(.iaAdd, fun x y => x + y), (.iaSub, fun x y => x - y), (.iaAnd, fun x y => x &&& y), (.iaOr, fun x y => x ||| y),
   (.iaXor, fun x y => x ^^^ y), (.iaSll, fun x y => x <<< (y.toNat % 64)), (.iaSrl, fun x y => x >>> (y.toNat % 64)),
   (.iaSra, fun x y => x.sshiftRight (y.toNat % 64)), (.iaMul, fun x y => x * y),
   (.iaMulh, fun x y => BitVec.ofInt 64 (x.toInt * y.toInt / 2 ^ 64)),
   (.iaMulhu, fun x y => BitVec.ofNat 64 (x.toNat * y.toNat / 2 ^ 64)),
   (.iaDiv, fun x y => if y = 0 then 0xffffffffffffffff else BitVec.ofInt 64 (x.toInt.tdiv y.toInt)),
   (.iaDivu, fun x y => if y = 0 then 0xffffffffffffffff else BitVec.ofNat 64 (x.toNat / y.toNat)),
   (.iaRem, fun x y => if y = 0 then x else BitVec.ofInt 64 (x.toInt.tmod y.toInt)),
   (.iaRemu, fun x y => if y = 0 then x else BitVec.ofNat 64 (x.toNat % y.toNat)),
   (.iaMin, fun x y => if y.toInt < x.toInt then y else x), (.iaMax, fun x y => if x.toInt < y.toInt then y else x),
   (.iaMinu, fun x y => if y.toNat < x.toNat then y else x), (.iaMaxu, fun x y => if x.toNat < y.toNat then y else x),
   (.iaSlt, fun x y => if x.toInt < y.toInt then 1 else 0), (.iaSltu, fun x y => if x.toNat < y.toNat then 1 else 0)]

/-- R263 with an immediate. -/
noncomputable def iaiTable : List ((EDst → ESrc → BitVec 16 → Instr) × (Word → BitVec 16 → Word)) :=
  [(.iaiAddi, fun x i => x + i.signExtend 64), (.iaiAndi, fun x i => x &&& i.zeroExtend 64),
   (.iaiOri, fun x i => x ||| i.zeroExtend 64), (.iaiXori, fun x i => x ^^^ i.zeroExtend 64)]
noncomputable def iaiShifts : List ((EDst → ESrc → BitVec 6 → Instr) × (Word → BitVec 6 → Word)) :=
  [(.iaiSlli, fun x i => x <<< i.toNat), (.iaiSrli, fun x i => x >>> i.toNat), (.iaiSrai, fun x i => x.sshiftRight i.toNat)]

/-- R264 and R265 on two sources, on one source, and fused, where D is the addend. -/
noncomputable def faTable (f : FpFmt) : List ((EDst → ESrc → ESrc → FpFmt → Instr) × (Nat → Nat → Nat → Nat × Fl)) :=
  [(.faAdd, fun rm a b => sumFp f rm false [readFp f a, readFp f b]),
   (.faSub, fun rm a b => sumFp f rm false [readFp f a, (readFp f b).negate]),
   (.faMul, fun rm a b => mulFp f rm (readFp f a) (readFp f b)), (.faMin, fun _ a b => extremeFp f false a b),
   (.faMax, fun _ a b => extremeFp f true a b),
   (.faRcps, fun rm a b => fmaFp f rm (readFp f a).negate (readFp f b) (.fin false 2 0)),
   (.faCeq, fun _ a b => (if (ceqFp f a b).1 then 1 else 0, (ceqFp f a b).2)),
   (.faClt, fun _ a b => (if (cltFp f a b).1 then 1 else 0, (cltFp f a b).2)),
   (.faCle, fun _ a b => (if (cleFp f a b).1 then 1 else 0, (cleFp f a b).2))]
noncomputable def faOneTable (f : FpFmt) : List ((EDst → ESrc → FpFmt → Instr) × (Nat → Nat → Nat × Fl)) :=
  [(.faAbs, fun _ a => signFp f false a), (.faNeg, fun _ a => signFp f true a), (.faRcpe, fun _ a => rcpeFp f (readFp f a)),
   (.faRsqe, fun _ a => rsqeFp f (readFp f a)), (.faSqrt, fun rm a => sqrtFp f rm (readFp f a)),
   (.faClass, fun _ a => (classFp f a, Fl.zero))]
noncomputable def fusedTable (f : FpFmt) : List ((Fin 16 → ESrc → ESrc → FpFmt → Instr) × (Nat → FV → FV → FV → Nat × Fl)) :=
  [(.faFma, fun rm a b c => fmaFp f rm a b c), (.faFms, fun rm a b c => fmaFp f rm a b c.negate),
   (.faFnma, fun rm a b c => fmaFp f rm a.negate b c)]

/-- R268 on masks, on scalars into a mask, and on masks into a scalar. -/
noncomputable def prTable : List ((Fin 8 → Fin 8 → Fin 8 → Instr) × (Word → Word → Word)) :=
  [(.prAnd, fun a b => a &&& b), (.prOr, fun a b => a ||| b), (.prXor, fun a b => a ^^^ b), (.prAndn, fun a b => a &&& ~~~b)]
noncomputable def prCmpTable : List ((Fin 8 → ESrc → ESrc → Instr) × (Word → Word → Bool)) :=
  [(.prCeq, fun a b => decide (a = b)), (.prCne, fun a b => decide (a ≠ b)), (.prClt, fun a b => decide (a.toInt < b.toInt)),
   (.prCle, fun a b => decide (a.toInt ≤ b.toInt)), (.prCltu, fun a b => decide (a.toNat < b.toNat)),
   (.prCleu, fun a b => decide (a.toNat ≤ b.toNat))]
noncomputable def prReadTable : List ((EDst → Fin 8 → Fin 8 → Instr) × (Word → Word → Word)) :=
  [(.prAny, fun a b => if a &&& b = 0 then 0 else 1), (.prAll, fun a b => if a &&& b = b then 1 else 0),
   (.prPopc, fun a b => BitVec.ofNat 64 ((List.range 64).filter fun i => (a &&& b).getLsbD i).length)]

/-- R273: lanes as exact integers that wrap. -/
noncomputable def vaTable : List ((VDst → VSrc → VSrc → Fin 8 → LaneW → Instr) × (Nat → Nat → Nat → Int)) :=
  [(.vaAdd, fun _ a b => a + b), (.vaSub, fun _ a b => (a : Int) - b), (.vaMul, fun _ a b => a * b),
   (.vaMulh, fun W a b => sgn W a * sgn W b / 2 ^ W), (.vaAnd, fun _ a b => (a &&& b : Nat)), (.vaOr, fun _ a b => (a ||| b : Nat)),
   (.vaXor, fun _ a b => (a ^^^ b : Nat)), (.vaSll, fun W a b => a * 2 ^ (b % W)), (.vaSrl, fun W a b => (a / 2 ^ (b % W) : Nat)),
   (.vaSra, fun W a b => sgn W a / 2 ^ (b % W)), (.vaMin, fun W a b => min (sgn W a) (sgn W b)),
   (.vaMax, fun W a b => max (sgn W a) (sgn W b)), (.vaMinu, fun _ a b => (min a b : Nat)), (.vaMaxu, fun _ a b => (max a b : Nat))]
/-- Lanes as exact integers that clamp, with their limits. -/
noncomputable def vaSatTable :
    List ((VDst → VSrc → VSrc → Fin 8 → LaneW → Instr) × (Nat → Nat → Nat → Int) × (Nat → Int) × (Nat → Int)) :=
  [(.vaAdds, fun W a b => sgn W a + sgn W b, fun W => -2 ^ (W - 1), fun W => 2 ^ (W - 1) - 1),
   (.vaSubs, fun W a b => sgn W a - sgn W b, fun W => -2 ^ (W - 1), fun W => 2 ^ (W - 1) - 1),
   (.vaAddus, fun _ a b => a + b, fun _ => 0, fun W => 2 ^ W - 1), (.vaSubus, fun _ a b => (a : Int) - b, fun _ => 0, fun W => 2 ^ W - 1)]
/-- R274: integer compares. -/
noncomputable def vaCmpTable : List ((Fin 8 → VSrc → VSrc → Fin 8 → LaneW → Instr) × (Nat → Nat → Nat → Bool)) :=
  [(.vaCeq, fun _ a b => decide (a = b)), (.vaClt, fun W a b => decide (sgn W a < sgn W b)), (.vaCltu, fun _ a b => decide (a < b))]

/-- R277: lanes of a floating-point format. -/
noncomputable def vfTable (f : FpFmt) : List ((VDst → VSrc → VSrc → Fin 8 → FpFmt → Instr) × (Nat → Nat → Nat → Nat × Fl)) :=
  [(.vfAdd, fun rm a b => sumFp f rm false [readFp f a, readFp f b]),
   (.vfSub, fun rm a b => sumFp f rm false [readFp f a, (readFp f b).negate]),
   (.vfMul, fun rm a b => mulFp f rm (readFp f a) (readFp f b)), (.vfMin, fun _ a b => extremeFp f false a b),
   (.vfMax, fun _ a b => extremeFp f true a b)]
noncomputable def vfOneTable (f : FpFmt) : List ((VDst → VSrc → Fin 8 → FpFmt → Instr) × (Nat → Nat × Fl)) :=
  [(.vfAbs, signFp f false), (.vfNeg, signFp f true), (.vfRcpe, fun a => rcpeFp f (readFp f a))]
noncomputable def vfCmpTable (f : FpFmt) : List ((Fin 8 → VSrc → VSrc → Fin 8 → FpFmt → Instr) × (Nat → Nat → Bool × Fl)) :=
  [(.vfCeq, ceqFp f), (.vfClt, cltFp f), (.vfCle, cleFp f)]
noncomputable def vfReduceTable (f : FpFmt) : List ((VDst → VSrc → Fin 8 → FpFmt → Instr) × (Nat → Word → Vec → Nat × Fl)) :=
  [(.vfRsum, reduceFp f 0 fun rm a b => sumFp f rm false [readFp f a, readFp f b]),
   (.vfRmin, reduceFp f (placeFp f (infFp (fmtSpec f) false)) fun _ a b => extremeFp f false a b),
   (.vfRmax, reduceFp f (placeFp f (infFp (fmtSpec f) true)) fun _ a b => extremeFp f true a b)]

/-- R280: moves of lanes of two vector sources; lane i of n lanes of W bits. -/
noncomputable def vxTable : List ((VDst → VSrc → VSrc → Fin 8 → LaneW → Instr) × (Nat → Vec → Vec → Nat → Nat)) :=
  [(.vxPerm, fun W a b i => if 2 ^ (W - 1) ≤ lane W b i then 0 else lane W a (lane W b i % (512 / W))),
   (.vxZip, fun W a b i => if i % 2 = 0 then lane W a (i / 2) else lane W b (i / 2)),
   (.vxUnzip, fun W a b i => if 2 * i < 512 / W then lane W a (2 * i) else lane W b (2 * i - 512 / W))]

/-- R267 and R283: the conversions of both shapes, with the default codes of D and S, the allowed codes, and whether the
scalar result is sign-extended. -/
noncomputable def cvtTable :
    List ((EDst → ESrc → Instr) × (VDst → VSrc → Instr) × Nat × Nat × List Nat × List Nat × Bool) :=
  [(.cvtEncS, .cvtEncV, 6, 11, [0, 1, 2, 3, 4, 5, 6, 7], [8, 9, 10, 11], false),
   (.cvtDecS, .cvtDecV, 11, 6, [8, 9, 10, 11], [0, 1, 2, 3, 4, 5, 6, 7], false),
   (.cvtCnvS, .cvtCnvV, 8, 11, [8, 9, 10, 11], [8, 9, 10, 11], false),
   (.cvtFtiS, .cvtFtiV, codeInt64, 11, [0, 1, 5], [8, 9, 10, 11], true),
   (.cvtItfS, .cvtItfV, 11, codeInt64, [8, 9, 10, 11], [0, 1, 5], false)]

/-- The prefix's fields that the E-side word reads, or a default. -/
def pfx (s : State) (g : BitVec 32 → Nat) (d : Nat) : Nat := ((curSlot s).ePrefix.map g).getD d

/-- Is the decode table that the current word works with ordered (R165)? -/
def tableOk (s : State) : Bool := tord (tableNow s)

end Sys2Proof.Claims

/-- R104, R223, R260 and R271: what the E-side's fields read and write: a register, the oldest entry of a queue, and z; a
scalar pop waits while its entry is empty or reserved, a push while its queue is full; a vector pop moves its entry to the
scoreboard until the word retires; p0 reads as all ones and discards writes. -/
def Obligations.OperandsOfESide : Prop :=
  ∀ s : State,
    (∀ n, readE (.e n) s = .ok ((curSlot s).e[n], s)) ∧ readE .z s = .ok (0, s) ∧
    ((∀ x ∈ (curSlot s).sb, x.held = none) →
      (∀ k e es, (curSlot s).lq[k] = .filled e :: es →
        readE (.lq k) s = .ok (e.scalar, putCur s { curSlot s with lq := (curSlot s).lq.set k es })) ∧
      (∀ k id es, (curSlot s).lq[k] = [] ∨ (curSlot s).lq[k] = .reserved id :: es →
        readE (.lq k) s = .error (.wait (.popLq k) none)) ∧
      (∀ k e es dst code, (curSlot s).lq[k] = .filled e :: es → (curSlot s).sb.length < 16 →
        ∃ (t : State) (x : SbEntry) (p : HeldPop), grabV (.lq k) dst code s = .ok ((e.vector, [s.nextId]), t) ∧
          (curSlot t).sb = (curSlot s).sb ++ [x] ∧ x.id = s.nextId ∧ x.kind = 1 ∧ x.held = some p ∧ p.queue = k ∧ p.entry = e ∧
          (curSlot t).lq = (curSlot s).lq.set k es)) ∧
    (∀ n dst code, grabV (.v n) dst code s = .ok (((curSlot s).v[n], []), s)) ∧
    (∀ n w, writeE (.e n) w s = .ok ((), noted w (putCur s { curSlot s with e := (curSlot s).e.set n w }))) ∧
    (∀ q w, (curSlot s).sq[q].length < 16 → writeE (.sq q) w s = .ok ((), noted w (putCur s
      { curSlot s with sq := (curSlot s).sq.set q ((curSlot s).sq[q] ++ [⟨w.zeroExtend 512, 3⟩]) }))) ∧
    (∀ q w, 16 ≤ (curSlot s).sq[q].length → writeE (.sq q) w s = .error (.wait (.pushSq q) none)) ∧
    (∀ w, (curSlot s).cq.length < 8 → writeE .cq w s = .ok ((), noted w (putCur s { curSlot s with cq := (curSlot s).cq ++ [w] }))) ∧
    (∀ w, 8 ≤ (curSlot s).cq.length → writeE .cq w s = .error (.wait .pushCq none)) ∧
    (∀ w, writeE .z w s = .ok ((), s)) ∧
    ((curSlot s).paired = false → (∀ n w, writeV (.v n) w s = .ok ((), putCur s { curSlot s with v := (curSlot s).v.set n w })) ∧
      (∀ q w, (curSlot s).sq[q].length < 16 → writeV (.sq q) w s = .ok ((), putCur s
        { curSlot s with sq := (curSlot s).sq.set q ((curSlot s).sq[q] ++ [⟨w, 4⟩]) }))) ∧
    (curSlot s).pred 0 = 0xffffffffffffffff ∧ (∀ w, (curSlot s).setPred 0 w = curSlot s) ∧
    (∀ n : Fin 8, n ≠ 0 → (curSlot s).pred n = (curSlot s).p[n] ∧ ∀ w, ((curSlot s).setPred n w).pred n = w)

/-- R262 and R263: the integer words of the E-side; nop.x only retires. -/
def Obligations.IntegersOfESide : Prop :=
  (∀ s : State, EReady s → exec .nopX s = .next (endE s)) ∧
  (∀ p ∈ iaTable, ∀ (d : EDst) (x y : ESrc) (s s1 s2 : State) (a b : Word), EReady s → readE x s = .ok (a, s1) →
    readE y s1 = .ok (b, s2) → WritesE (p.1 d x y) s s2 d (p.2 a b)) ∧
  (∀ p ∈ iaiTable, ∀ (d : EDst) (x : ESrc) (i : BitVec 16) (s s1 : State) (a : Word), EReady s → readE x s = .ok (a, s1) →
    WritesE (p.1 d x i) s s1 d (p.2 a i)) ∧
  (∀ p ∈ iaiShifts, ∀ (d : EDst) (x : ESrc) (i : BitVec 6) (s s1 : State) (a : Word), EReady s → readE x s = .ok (a, s1) →
    WritesE (p.1 d x i) s s1 d (p.2 a i)) ∧
  (∀ (d : EDst) (i : BitVec 16) (s : State), EReady s → WritesE (.iaiLui d i) s s d ((i ++ (0 : BitVec 16)).signExtend 64)) ∧
  (∀ (d : EDst) (x : ESrc) (s s1 : State) (a : Word) (n : Nat), EReady s → readE x s = .ok (a, s1) → n ≤ 64 →
    (a.toNat < 2 ^ (64 - n) → (n < 64 → 2 ^ (63 - n) ≤ a.toNat) → WritesE (.iaClz d x) s s1 d (BitVec.ofNat 64 n)) ∧
    ((∀ i, i < n → a.getLsbD i = false) → (n < 64 → a.getLsbD n = true) → WritesE (.iaCtz d x) s s1 d (BitVec.ofNat 64 n)) ∧
    (n = ((List.range 64).filter fun i => a.getLsbD i).length → WritesE (.iaPopc d x) s s1 d (BitVec.ofNat 64 n))) ∧
  (∀ (d : EDst) (x y : ESrc) (s s1 s2 : State) (a b : Word), EReady s → readE x s = .ok (a, s1) → readE y s1 = .ok (b, s2) →
    (∀ p : Fin 8, WritesE (.iaSel d x y p) s s2 d (if ((curSlot s2).pred p).getLsbD 0 then a else b)) ∧
    (∀ q ∈ [((.iaAdds : EDst → ESrc → ESrc → Instr), a.toInt + b.toInt), (.iaSubs, a.toInt - b.toInt)],
      WritesEF false (q.1 d x y) s s2 d (BitVec.ofInt 64 (max (-2 ^ 63) (min (2 ^ 63 - 1) q.2)))
        { Fl.zero with sat := decide (q.2 < -2 ^ 63 ∨ 2 ^ 63 - 1 < q.2) }))

/-- R24, R25, R264, R265 and R268: the floating-point words of the E-side write the result of their format's function in the
rounding mode of est and set its conditions, which are sticky; the predicate words combine, compare, and read masks. -/
def Obligations.FloatsAndPredicates : Prop :=
  (∀ (f : FpFmt) (s s1 s2 : State) (x y : ESrc) (a b : Word), EReady s → readE x s = .ok (a, s1) → readE y s1 = .ok (b, s2) →
    (∀ p ∈ faTable f, ∀ d : EDst, ∀ r, r = p.2 (curSlot s).rm.toNat a.toNat b.toNat →
      WritesEF false (p.1 d x y f) s s2 d (BitVec.ofNat 64 r.1) r.2) ∧
    (∀ p ∈ faOneTable f, ∀ d : EDst, ∀ r, r = p.2 (curSlot s).rm.toNat a.toNat →
      WritesEF false (p.1 d x f) s s1 d (BitVec.ofNat 64 r.1) r.2) ∧
    (∀ p ∈ fusedTable f, ∀ d : Fin 16, ∀ r, r = p.2 (curSlot s).rm.toNat (readFp f a.toNat) (readFp f b.toNat)
        (readFp f (curSlot s).e[d].toNat) → WritesEF false (p.1 d x y f) s s2 (.e d) (BitVec.ofNat 64 r.1) r.2) ∧
    (∀ p ∈ prCmpTable, ∀ d : Fin 8, ∀ t, writeP d (if p.2 a b then 0xffffffffffffffff else 0) s2 = .ok ((), t) →
      exec (p.1 d x y) s = .next (endE t)) ∧
    (∀ (d : Fin 8) t, writeP d a s1 = .ok ((), t) → exec (.prSet d x) s = .next (endE t))) ∧
  (∀ (s : State) (x y : Fin 8), EReady s → let a := (curSlot s).pred x; let b := (curSlot s).pred y
    (∀ p ∈ prTable, ∀ (d : Fin 8) t, writeP d (p.2 a b) s = .ok ((), t) → exec (p.1 d x y) s = .next (endE t)) ∧
    (∀ (d : Fin 8) t, writeP d (~~~a) s = .ok ((), t) → exec (.prNot d x) s = .next (endE t)) ∧
    (∀ d : EDst, WritesE (.prGet d x) s s d a) ∧ (∀ p ∈ prReadTable, ∀ d : EDst, WritesE (p.1 d x y) s s d (p.2 a b))) ∧
  (∀ (σ : Slot) (f : Fl), (σ.raise f).flags = σ.flags ||| (BitVec.ofBool f.nv ++ BitVec.ofBool f.dz ++ BitVec.ofBool f.of ++
    BitVec.ofBool f.uf ++ BitVec.ofBool f.nx) ∧ (σ.raise f).sat = (σ.sat || f.sat))

/-- R160, R162, R168: the rounding of an exact value to an integer number of units: nearest with ties to even, toward zero,
down, and up; the patterns of the formats; and what NaNs do in sums, products and compares. -/
def Obligations.RoundingIsCorrect : Prop :=
  (∀ (neg : Bool) (m sh : Nat), let r := roundShift 0 neg m sh false
    2 * (r.1 * 2 ^ sh) ≤ 2 * m + 2 ^ sh ∧ 2 * m ≤ 2 * (r.1 * 2 ^ sh) + 2 ^ sh ∧
    (2 * m = 2 * (r.1 * 2 ^ sh) + 2 ^ sh ∨ 2 * (r.1 * 2 ^ sh) = 2 * m + 2 ^ sh → r.1 % 2 = 0) ∧
    (r.2 = true ↔ r.1 * 2 ^ sh ≠ m)) ∧
  (∀ (neg : Bool) (m sh : Nat), (roundShift 1 neg m sh false).1 = m / 2 ^ sh ∧
    (roundShift 2 neg m sh false).1 = (if neg then (m + 2 ^ sh - 1) / 2 ^ sh else m / 2 ^ sh) ∧
    (roundShift 3 neg m sh false).1 = (if neg then m / 2 ^ sh else (m + 2 ^ sh - 1) / 2 ^ sh)) ∧
  readFp .fp32 0x3f800000 = .fin false (2 ^ 23) (-23) ∧ readFp .fp32 0x7f800000 = .inf false ∧
  readFp .fp32 0x7fc00000 = .nan false ∧ readFp .fp32 0x7f800001 = .nan true ∧ readFp .fp16 0x3c00 = .fin false (2 ^ 10) (-10) ∧
  readFp .bf16 0x3f80 = .fin false (2 ^ 7) (-7) ∧ readFp .fp32 0x80000001 = .fin true 1 (-149) ∧
  (∀ (f : FpFmt) (rm : Nat) (a b : Nat) (sg : Bool), readFp f a = .nan sg →
    (sumFp f rm false [readFp f a, readFp f b]).1 = nanFp f ∧ (mulFp f rm (readFp f a) (readFp f b)).1 = nanFp f ∧
    (ceqFp f a b).1 = false ∧ (cltFp f a b).1 = false ∧ (cleFp f a b).1 = false ∧ (cltFp f a b).2.nv = true ∧
    (sg = true → (ceqFp f a b).2.nv = true)) ∧
  nanFp .fp32 = 0x7fc00000 ∧ nanFp .fp16 = 0x7e00 ∧ nanFp .bf16 = 0x7fc0

/-- R270 and R273 to R276: the integer vector words: each governed lane takes its function of the lanes of S and T, wrapped or
clamped, and the other lanes keep D's; compares set the bits of the lanes that hold; reductions give their value in D[63:0]. -/
def Obligations.IntegerVectors : Prop :=
  ∀ (s t2 : State) (x y : VSrc) (a b : Vec) (ids : List Nat) (p : Fin 8) (lw : LaneW), EReady s →
    let W := laneBits lw
    (∀ d : VDst, ReadsV s t2 x y (heldV d) a b ids →
      (∀ q ∈ vaTable, ∃ w : Vec, WritesV false (q.1 d x y p lw) s t2 ids d w Fl.zero ∧
        LanesAre s d W p w fun i => pat W (q.2 W (lane W a i) (lane W b i))) ∧
      (∀ q ∈ vaSatTable, ∃ (w : Vec) (f : Fl), WritesV false (q.1 d x y p lw) s t2 ids d w f ∧
        LanesAre s d W p w (fun i =>
          pat W (max (q.2.2.1 W) (min (q.2.2.2 W) (q.2.1 W (lane W a i) (lane W b i))))) ∧
        f = { Fl.zero with sat := f.sat } ∧
        (f.sat = true ↔ ∃ i, i < 512 / W ∧ on s W p i = true ∧ (q.2.1 W (lane W a i) (lane W b i) < q.2.2.1 W ∨
          q.2.2.2 W < q.2.1 W (lane W a i) (lane W b i)))) ∧
      (∃ w : Vec, (∀ i, i < 512 / W → lane W w i = if on s W p i = true then lane W a i else lane W b i) ∧
        ∀ t, writeV d w t2 = .ok ((), t) → exec (.vaSel d x y p lw) s =
          .next (endE (putCur t { curSlot t with sb := (curSlot t).sb.filter fun e => !ids.contains e.id })))) ∧
    (∀ d : VDst, ReadsV s t2 x .z (heldV d) a b ids →
      (∃ (w : Vec) (f : Fl), WritesV false (.vaAbs d x p lw) s t2 ids d w f ∧
        LanesAre s d W p w fun i => pat W (min (2 ^ (W - 1) - 1) (sgn W (lane W a i)).natAbs)) ∧
      (WritesV false (.vaRsum d x p lw) s t2 ids d (BitVec.ofNat 512 (pat 64
        (((List.range (512 / W)).filter fun i => on s W p i).map fun i => sgn W (lane W a i)).sum)) Fl.zero) ∧
      (∀ v : Int, v ≤ 2 ^ (W - 1) - 1 → (∀ i, i < 512 / W → on s W p i = true → v ≤ sgn W (lane W a i)) →
        (v = 2 ^ (W - 1) - 1 ∨ ∃ i, i < 512 / W ∧ on s W p i = true ∧ v = sgn W (lane W a i)) →
        WritesV false (.vaRmin d x p lw) s t2 ids d (BitVec.ofNat 512 (pat 64 v)) Fl.zero) ∧
      (∀ v : Int, -2 ^ (W - 1) ≤ v → (∀ i, i < 512 / W → on s W p i = true → sgn W (lane W a i) ≤ v) →
        (v = -2 ^ (W - 1) ∨ ∃ i, i < 512 / W ∧ on s W p i = true ∧ v = sgn W (lane W a i)) →
        WritesV false (.vaRmax d x p lw) s t2 ids d (BitVec.ofNat 512 (pat 64 v)) Fl.zero)) ∧
    (∀ d : Fin 8, ReadsV s t2 x y (.p d, d) a b ids → ∀ q ∈ vaCmpTable, ∃ m : Word,
      (∀ t, writeP d m t2 = .ok ((), t) → exec (q.1 d x y p lw) s = .next (endV false ids Fl.zero t)) ∧
      ∀ j, j < 64 → m.getLsbD j = (on s W p (j / (W / 8)) && q.2 W (lane W a (j / (W / 8))) (lane W b (j / (W / 8)))))

/-- R270, R274, R276 and R277: the floating-point vector words: each governed lane takes its format's function of its lanes, and
est takes the conditions of the governed lanes together. -/
def Obligations.FloatVectors : Prop :=
  ∀ (s t2 : State) (x y : VSrc) (a b : Vec) (ids : List Nat) (p : Fin 8) (f : FpFmt), EReady s →
    let W := fmtBits f
    let rm := (curSlot s).rm.toNat
    (∀ d : VDst, ReadsV s t2 x y (heldV d) a b ids → ∀ q ∈ vfTable f,
      ∃ w : Vec, WritesV false (q.1 d x y p f) s t2 ids d w
          (laneFlags W ((curSlot s).pred p) fun i => (q.2 rm (lane W a i) (lane W b i)).2) ∧
        LanesAre s d W p w fun i => (q.2 rm (lane W a i) (lane W b i)).1 % 2 ^ W) ∧
    (∀ d : Fin 8, ReadsV s t2 x y (.v d, d) a b ids →
      let r (i : Nat) := fmaFp f rm (readFp f (lane W a i)) (readFp f (lane W b i)) (readFp f (lane W (curSlot s).v[d] i))
      ∃ w : Vec, WritesV false (.vfFma d x y p f) s t2 ids (.v d) w (laneFlags W ((curSlot s).pred p) fun i => (r i).2) ∧
        LanesAre s (.v d) W p w fun i => (r i).1 % 2 ^ W) ∧
    (∀ d : VDst, ReadsV s t2 x .z (heldV d) a b ids →
      (∀ q ∈ vfOneTable f, ∃ w : Vec,
        WritesV false (q.1 d x p f) s t2 ids d w (laneFlags W ((curSlot s).pred p) fun i => (q.2 (lane W a i)).2) ∧
        LanesAre s d W p w fun i => (q.2 (lane W a i)).1 % 2 ^ W) ∧
      (∀ q ∈ vfReduceTable f, ∀ r, r = q.2 rm ((curSlot s).pred p) a →
        WritesV false (q.1 d x p f) s t2 ids d (BitVec.ofNat 512 (r.1 % 2 ^ 64)) r.2)) ∧
    (∀ d : Fin 8, ReadsV s t2 x y (.p d, d) a b ids → ∀ q ∈ vfCmpTable f, ∃ m : Word,
      (∀ t, writeP d m t2 = .ok ((), t) → exec (q.1 d x y p f) s =
        .next (endV false ids (laneFlags W ((curSlot s).pred p) fun i => (q.2 (lane W a i) (lane W b i)).2) t)) ∧
      ∀ j, j < 64 → m.getLsbD j = (on s W p (j / (W / 8)) && (q.2 (lane W a (j / (W / 8))) (lane W b (j / (W / 8)))).1)) ∧
    (∀ (g : Nat → Fl) (m : Word), (laneFlags W m g).nv = true ↔ ∃ i, i < 512 / W ∧ activeLane W m i = true ∧ (g i).nv = true)

/-- R280: the words that move lanes. -/
def Obligations.LaneMoves : Prop :=
  ∀ (s t2 : State) (p : Fin 8) (lw : LaneW), EReady s → let W := laneBits lw
    (∀ (d : VDst) (x y : VSrc) (a b : Vec) (ids : List Nat), ReadsV s t2 x y (heldV d) a b ids → ∀ q ∈ vxTable,
      ∃ w : Vec, WritesV false (q.1 d x y p lw) s t2 ids d w Fl.zero ∧ LanesAre s d W p w fun i => q.2 W a b i) ∧
    (∀ (d : VDst) (x : VSrc) (a b : Vec) (ids : List Nat), ReadsV s t2 x .z (heldV d) a b ids →
      (∃ w : Vec, WritesV false (.vxMov d x p lw) s t2 ids d w Fl.zero ∧ LanesAre s d W p w fun i => lane W a i) ∧
      (∀ (y : ESrc) (c : Word) (t3 : State), readE y t2 = .ok (c, t3) →
        ∃ w : Vec, WritesV false (.vxRot d x y p lw) s t3 ids d w Fl.zero ∧
          LanesAre s d W p w fun i => lane W a ((i + c.toNat) % (512 / W)))) ∧
    (∀ (d : VDst) (x : ESrc) (c : Word), readE x s = .ok (c, t2) →
      (∃ w : Vec, (∀ t, writeV d w t2 = .ok ((), t) →
        exec (.vxBcast d x p lw) s = .next (endE (putCur t ((curSlot t).raise Fl.zero)))) ∧
        LanesAre s d W p w fun _ => c.toNat % 2 ^ W) ∧
      (∃ w : Vec, (∀ t, writeV d w t2 = .ok ((), t) →
        exec (.vxIdx d x p lw) s = .next (endE (putCur t ((curSlot t).raise Fl.zero)))) ∧
        LanesAre s d W p w fun i => (c.toNat + i) % 2 ^ W)) ∧
    (∀ (d : EDst) (x : VSrc) (y : ESrc) (a b : Vec) (ids : List Nat) (c : Word) (t3 t : State),
      ReadsV s t2 x .z (heldE d) a b ids → readE y t2 = .ok (c, t3) →
      writeE d (BitVec.ofNat 64 (lane W a (c.toNat % (512 / W)))) t3 = .ok ((), t) →
      exec (.vxExt d x y lw) s =
        .next (endE (putCur t { curSlot t with sb := (curSlot t).sb.filter fun e => !ids.contains e.id }))) ∧
    (∀ (d : Fin 8) (x y : ESrc) (c k : Word) (t3 : State), readE x s = .ok (c, t2) → readE y t2 = .ok (k, t3) →
      ∃ w : Vec, (∀ t, writeV (.v d) w t3 = .ok ((), t) → exec (.vxIns d x y lw) s = .next (endE t)) ∧
        ∀ i, i < 512 / W → lane W w i = if i = k.toNat % (512 / W) then c.toNat % 2 ^ W else lane W (curSlot s).v[d] i)

/-- R164, R267, R279, R283 and R313: the conversions: FD and FA of the prefix, or the defaults, are checked in order, with
DETAIL 0x0e2, 0x0e3, 0x0e5 and 0x0e0; the scalar shape converts one element, the vector shape each element of its part;
cvt.tblw writes an entry of the decode table of its capsule's context, in both cores of a pair, but where a higher slot has written
that entry in the same cycle, whose write stands (R314).
It rests on choices of the model: log 19, log 24, log 40, log 60. -/
def Obligations.Conversions : Prop :=
  (∀ c ∈ cvtTable, ∀ s : State, EGov s →
    let fd := pfx s pfxFd c.2.2.1
    let fa := pfx s pfxFa c.2.2.2.1
    let scl := pfx s pfxScl 0
    let has := (curSlot s).ePrefix.isSome
    let okD := !has || c.2.2.2.2.1.contains fd
    let okA := !has || c.2.2.2.2.2.1.contains fa
    let okT := !(fd == 6 || fd == 7 || fa == 6 || fa == 7) || tableOk s
    (∀ (d : EDst) (x : ESrc) (dv : VDst) (xv : VSrc),
      (okD = false → exec (c.1 d x) s = .next (takeTrap s s .eSide ⟨codeReserved, 0x0e2, 0⟩) ∧
        exec (c.2.1 dv xv) s = .next (takeTrap s s .eSide ⟨codeReserved, 0x0e2, 0⟩)) ∧
      (okD = true → okA = false → exec (c.1 d x) s = .next (takeTrap s s .eSide ⟨codeReserved, 0x0e3, 0⟩)) ∧
      (okD = true → okA = true → okT = false → exec (c.1 d x) s = .next (takeTrap s s .eSide ⟨codeReserved, 0x0e0, 0⟩)) ∧
      (okD = true → okA = true → scl / 2 % 2 = 1 →
        exec (c.2.1 dv xv) s = .next (takeTrap s s .eSide ⟨codeReserved, 0x0e5, 0⟩))) ∧
    (okD = true → okA = true → okT = true →
      (∀ (d : EDst) (x : ESrc) (a : Word) (s1 : State) (r : Nat × Fl), readE x s = .ok (a, s1) →
        r = encodeCode (tableNow s) fd (curSlot s).rm.toNat
          (decodeCode (tableNow s) fa a.toNat) (1, 1) →
        WritesEF true (c.1 d x) s s1 d (if c.2.2.2.2.2.2 && (fd == 0 || fd == 5) then
          BitVec.ofInt 64 (sgn (if fd = 0 then 8 else 4) (r.1 % 2 ^ (if fd = 0 then 8 else 4))) else BitVec.ofNat 64 r.1) r.2) ∧
      (scl / 2 % 2 = 0 → ∀ (d : VDst) (x : VSrc) (a b : Vec) (ids : List Nat) (t2 : State), ReadsV s t2 x .z (heldV d) a b ids →
        ∀ r, r = cvtElems (tableNow s) fa fd (curSlot s).rm.toNat (scl % 2 == 1) (curSlot s).e[14] 0 a →
        WritesV true (c.2.1 d x) s t2 ids d (putLanes (codeBits fd) 0 r.2.1 r.1) r.2.2))) ∧
  (∀ s : State, EGov s →
    let fd := pfx s pfxFd 6
    let fa := pfx s pfxFa 11
    let scl := pfx s pfxScl 0
    ((curSlot s).ePrefix.isSome = true → fd < 12 ∧ fa < 12) →
    (∀ (d : Fin 8) (x : VSrc) (y : ESrc),
      (codeBits fa ≤ codeBits fd → exec (.cvtPack d x y) s = .next (takeTrap s s .eSide ⟨codeReserved, 0x0e2, 0⟩)) ∧
      (codeBits fd < codeBits fa → scl / 2 % 2 = 1 →
        exec (.cvtPack d x y) s = .next (takeTrap s s .eSide ⟨codeReserved, 0x0e5, 0⟩))) ∧
    (scl / 2 % 2 = 0 → (!(fd == 6 || fd == 7 || fa == 6 || fa == 7) || tableOk s) = true → codeBits fd < codeBits fa →
    ∀ (d : Fin 8) (x : VSrc) (y : ESrc) (a b : Vec) (ids : List Nat) (q : Word) (t2 t3 : State),
      ReadsV s t2 x .z (.v d, d) a b ids → readE y t2 = .ok (q, t3) →
      ∀ r, r = cvtElems (tableNow s) fa fd (curSlot s).rm.toNat (scl % 2 == 1) (curSlot s).e[14] q.toNat a →
      WritesV true (.cvtPack d x y) s t3 ids (.v d) (putLanes (codeBits fd) (curSlot s).v[d] r.2.1 r.1) r.2.2)) ∧
  (∀ s : State, EGov s →
    let fd := pfx s pfxFd 11
    let fa := pfx s pfxFa 6
    let scl := pfx s pfxScl 0
    ((curSlot s).ePrefix.isSome = true → fd < 12 ∧ fa < 12) →
    (∀ (d : VDst) (x : VSrc) (y : ESrc),
      (codeBits fd ≤ codeBits fa → exec (.cvtUnpk d x y) s = .next (takeTrap s s .eSide ⟨codeReserved, 0x0e2, 0⟩)) ∧
      (codeBits fa < codeBits fd → scl / 2 % 2 = 1 →
        exec (.cvtUnpk d x y) s = .next (takeTrap s s .eSide ⟨codeReserved, 0x0e5, 0⟩))) ∧
    (scl / 2 % 2 = 0 → (!(fd == 6 || fd == 7 || fa == 6 || fa == 7) || tableOk s) = true → codeBits fa < codeBits fd →
    ∀ (d : VDst) (x : VSrc) (y : ESrc) (a b : Vec) (ids : List Nat) (q : Word) (t2 t3 : State),
      ReadsV s t2 x .z (heldV d) a b ids → readE y t2 = .ok (q, t3) →
      ∀ r, r = cvtElems (tableNow s) fa fd (curSlot s).rm.toNat (scl % 2 == 1) (curSlot s).e[14] q.toNat a →
      WritesV true (.cvtUnpk d x y) s t3 ids d (putLanes (codeBits fd) 0 r.2.1 r.1) r.2.2)) ∧
  (∀ (x y : ESrc) (s s1 s2 : State) (i v : Word), EReady s → readE x s = .ok (i, s1) → readE y s1 = .ok (v, s2) →
    (128 ≤ i.toNat → exec (.cvtTblw x y) s = .next (takeTrap s s .eSide ⟨codeReserved, 0x0e1, 0⟩)) ∧
    (i.toNat < 128 → laterWrote (64 + i.toNat) s2 = true → exec (.cvtTblw x y) s = .next (endE (noted v s2))) ∧
    (i.toNat < 128 → laterWrote (64 + i.toNat) s2 = false → ∃ t, exec (.cvtTblw x y) s = .next t ∧
      (∀ h, h = curHart s ∨ ((curSlot s).paired = true ∧ h = curHart s + 1) →
        SMap.find i.toNat (ctxOf t h (curLaunch s)).table = some (BitVec.ofNat 32 (v.toNat % 2 ^ 32 / 2 ^ 13 * 2 ^ 13)) ∧
        ∀ j, j ≠ i.toNat → SMap.find j (ctxOf t h (curLaunch s)).table = SMap.find j (ctxOf s h (curLaunch s)).table) ∧
      (curSlot t).e = (curSlot s).e ∧ SameMemory s t))

/-- R275, R278, R281, R282 and R284: the dot products, the largest magnitude, the block scale and the block requantisation
write the functions of their rules, in the formats of the prefix or the defaults, which they check. The element that vx.amax
takes among equal ones of different scales is free (log 18). -/
def Obligations.DotsAndBlocks : Prop :=
  ∀ s : State, EGov s →
    let T := (tableNow s)
    let rm := (curSlot s).rm.toNat
    let m (p : Fin 8) := (curSlot s).pred p
    (∀ (d : Fin 8) (x y : VSrc) (p : Fin 8) (a b : Vec) (ids : List Nat) (t2 : State), ReadsV s t2 x y (.v d, d) a b ids →
      let fa := pfx s pfxFa 0
      let fb := pfx s pfxFb 0
      (fa ∉ [0, 1, 5] → exec (.vaDot d x y p) s = .next (takeTrap s s .eSide ⟨codeReserved, 0x0e3, 0⟩)) ∧
      (fa ∈ [0, 1, 5] → (fb ∉ [0, 1, 5] ∨ codeBits fa ≠ codeBits fb) →
        exec (.vaDot d x y p) s = .next (takeTrap s s .eSide ⟨codeReserved, 0x0e4, 0⟩)) ∧
      (fa ∈ [0, 1, 5] → fb ∈ [0, 1, 5] → codeBits fa = codeBits fb → ∃ (w : Vec) (f : Fl),
        WritesV true (.vaDot d x y p) s t2 ids (.v d) w f ∧
        LanesAre s (.v d) 32 p w fun j => pat 32 (max (-2 ^ 31) (min (2 ^ 31 - 1) (sgn 32 (lane 32 (curSlot s).v[d] j) +
          ((List.range (32 / codeBits fa)).map fun k => intElem fa (lane (codeBits fa) a (32 / codeBits fa * j + k)) *
            intElem fb (lane (codeBits fa) b (32 / codeBits fa * j + k))).sum))))) ∧
    (∀ (d : Fin 8) (x y : VSrc) (p : Fin 8) (f : FpFmt) (a b : Vec) (ids : List Nat) (t2 : State),
      ReadsV s t2 x y (.v d, d) a b ids →
      ((curSlot s).ePrefix = none → ∀ c, c = (match f with
          | .fp32 => 11
          | .e8m10 => 10
          | .fp16 => 8
          | .bf16 => 9) →
        let r (j : Nat) := dotFp T c c 0 rm (curSlot s).e[14] (curSlot s).e[15] a b (lane 32 (curSlot s).v[d] j) j
        ∃ w : Vec, WritesV true (.vfDot d x y p f) s t2 ids (.v d) w (laneFlags 32 (m p) fun j => (r j).2) ∧
          LanesAre s (.v d) 32 p w fun j => (r j).1 % 2 ^ 32) ∧
      ((curSlot s).ePrefix.isSome = true → f ≠ .fp32 → exec (.vfDot d x y p f) s = .next (takeTrap s s .eSide ⟨codeReserved, 0x406, 0⟩))) ∧
    (∀ (d : VDst) (x : VSrc) (p : Fin 8) (a b : Vec) (ids : List Nat) (t2 : State), ReadsV s t2 x .z (heldV d) a b ids →
      let fa := pfx s pfxFa 11
      let scl := pfx s pfxScl 0
      let fd := pfx s pfxFd 2
      (fa ∈ [2, 3, 4, 6, 7, 8, 9, 10, 11] → scl / 2 % 2 = 0 → (!(fa == 6 || fa == 7) || tableOk s) = true →
        ∃ pick : Nat, ∀ r, r = amaxResult T fa (scl % 2 == 1) (curSlot s).e[14] rm pick (m p) a →
          WritesV true (.vxAmax d x p) s t2 ids d (BitVec.ofNat 512 r.1) r.2) ∧
      (fd ≤ 10 → (!(fd == 6 || fd == 7) || tableOk s) = true →
        ∀ r, r = scaleRule (magOf (readFp .fp32 (lane 32 a 0))) (targetMax T fd) →
          WritesV true (.vxScale d x) s t2 ids d (BitVec.ofNat 512 r.1) r.2) ∧
      (10 < fd → exec (.vxScale d x) s = .next (takeTrap s s .eSide ⟨codeReserved, 0x0e2, 0⟩))) ∧
    (∀ (d : Fin 8) (x : VSrc) (a b : Vec) (ids : List Nat) (t2 : State), ReadsV s t2 x .z (.v d, d) a b ids →
      let fa := pfx s pfxFa 2
      let fd := pfx s pfxFd fa
      fd ∈ [2, 3, 4, 6, 7] → fa ∈ [2, 3, 4, 6, 7] → (!(fd == 6 || fd == 7 || fa == 6 || fa == 7) || tableOk s) = true →
        ∀ r, r = barqBlock T fa fd rm (curSlot s).v[d] a → WritesV true (.vxBarq d x) s t2 ids (.v d) r.1 r.2) ∧
    (∀ (t : SMap (BitVec 32)) (c : Nat) (v : Vec) (sr w : Word) (k k' : Nat), amaxResult t c false sr rm k w v = amaxResult t c false sr rm k' w v)

namespace Sys2Proof.Claims

/-- What an E-side word may change: registers, queues and status of its side of its slot, and the numbers that the model
gives to new operations and free values. -/
def FrameE (s t : State) : Prop :=
  t = { s with harts := t.harts, nextId := t.nextId, fresh := t.fresh } ∧ SameMemory s t ∧
  (∀ h n, (h ≠ curHart s ∨ n % 8 ≠ curNum s % 8) → slotOf t h n = slotOf s h n) ∧
  (∀ h, hartOf t h = { hartOf s h with slots := (hartOf t h).slots, fpr := (hartOf t h).fpr, ctxs := (hartOf t h).ctxs,
                                       wroteAt := (hartOf t h).wroteAt, wrote := (hartOf t h).wrote }) ∧
  (∀ h L, ctxOf t h L = { ctxOf s h L with table := (ctxOf t h L).table }) ∧
  ∃ τ : Slot, τ = curSlot t ∧
    τ = { curSlot s with e := τ.e, v := τ.v, p := τ.p, lq := τ.lq, sq := τ.sq, cq := τ.cq, sb := τ.sb, flags := τ.flags, sat := τ.sat,
                         ePrefix := τ.ePrefix, ePP := τ.ePP, eFmtsave := τ.eFmtsave, path := τ.path, bq := τ.bq, eDone := τ.eDone,
                         eWait := τ.eWait, eTable := τ.eTable }

end Sys2Proof.Claims

/-- R18, R106, R205: every X-word that takes no trap leaves every memory, every other slot and core, and the A-side's registers,
status and position as they were; only cvt.tblw changes a decode table. -/
def Obligations.FrameOfEWords : Prop :=
  ∀ (i : Instr) (s t : State), (encodeX i).isSome = true → exec i s = .next t → (curSlot t).inTrap = (curSlot s).inTrap →
    launchOf t (curLaunch s) ≠ none →
    FrameE s t ∧ ((∀ x y, i ≠ .cvtTblw x y) → ∀ h, (hartOf t h).ctxs = (hartOf s h).ctxs ∧
      (hartOf t h).wroteAt = (hartOf s h).wroteAt ∧ (hartOf t h).wrote = (hartOf s h).wrote)

/-! ## The engines of a cluster -/

namespace Sys2Proof.Claims

/-- The A-side issues a word that a prefix may govern. -/
def AGov (s : State) : Prop :=
  curHart s < Config.nHarts ∧ (curSlot s).running = true ∧ (curSlot s).path.length < 64 ∧ (curSlot s).sleeping = false ∧
  pairStall s = false ∧ ∀ w, (curSlot s).aPrefix = some w → isFmtA w = true

/-- A field of the A-side's pending prefix, or a default. -/
def apfx (s : State) (g : BitVec 32 → Nat) (d : Nat) : Nat := ((curSlot s).aPrefix.map g).getD d

/-- The cluster of the current core. -/
def mine (s : State) : Cluster := clusterOf s (curCluster s)

/-- A Kick as the matrices read it: a release at module scope (R94). -/
def kickDesc (s : State) : OpDesc :=
  { kinds := [.kick], scope := .module, sc := false, loc := ⟨regHome (curHart s), 0, 8⟩, space2 := false }

/-- The state with job j taken by an engine of the current cluster from the current core. -/
def accepted (s : State) (e : Engine) (j : Job) : State :=
  putCluster s (curCluster s) ((mine s).accept e (posInCluster (curHart s)) s.cycle j)

/-- A Kick is in order in state s, and leaves u: the core's coalesced bytes have been pushed (R54, R94). -/
def KickOrdered (d : OpDesc) (s u : State) : Prop :=
  ∃ s1, inOrder d s = .ok ((), s1) ∧ u = releasePush (curLaunch s) (curHart s) d s1

/-- No request of the current slot stands at an engine. -/
def NoRequest (s : State) (e : Engine) : Prop := ∀ r ∈ (mine s).reqs e, r.from (curIssuer s) = false

/-- The word submits j: where it wins whatever else comes in this cycle it is accepted at once, D taking the identifier; else it
stands as a request, for which the word waits (R122). A stream register that the job walks is held. A command whose destination
overlaps is refused. -/
def Submits (gov : Bool) (i : Instr) (s : State) (e : Engine) (j : Job) (d : ADst) (hold : Option (Fin 4)) : Prop :=
  ∀ u, (curSlot s).paired = false ∨ (curSlot s).agreed = true → KickOrdered (kickDesc s) s u → needDst d u = .ok ((), u) →
  NoRequest u e →
  (refusedOverlap u e j = false → winsNow u e j = true →
    ∀ t, writeA d (((mine u).nextOf e).zeroExtend 64) (accepted u e j) = .ok ((), t) →
    exec i s = .next ((if gov then endGovA else endA false) (match hold with
      | some n => putCur t { curSlot t with smBusy := n :: (curSlot t).smBusy }
      | none => t))) ∧
  (refusedOverlap u e j = false → winsNow u e j = false →
    exec i s = .next (markA (putCluster u (curCluster u) ((mine u).setReqs e
      ((mine u).reqs e ++ [⟨posInCluster (curHart u), u.cycle, j, d, .z⟩]))) .room)) ∧
  (refusedOverlap u e j = true → exec i s = .next (takeTrap s s .aSide ⟨codeOverlap, 0, 0⟩))

/-- A job not yet started, of the current slot. -/
def NewJob (s : State) (j : Job) : Prop :=
  j.rep = .slot (curIssuer s) ∧ j.own = curHart s ∧ j.started = false ∧ j.done = none ∧ j.sums = []

noncomputable def stepTable : List ((ADst → BitVec 5 → ARegZ → Fin 8 → Instr) × Bool) := [(.mxqStep, false), (.mxqSteps, true)]
noncomputable def copyTable : List ((ADst → BitVec 5 → Fin 4 → Instr) × Nat) :=
  [(.cpqCopy, 0), (.cpqAddf, 1), (.cpqAddb, 2), (.cpqAddi, 3), (.cpqFill, 5)]

/-- The values of a cell and of its carry count as one exact number (R196, R293). -/
def exactCell (C : Cluster) (a : Fin 8) (i : Nat) : Int :=
  sgn 24 ((C.accs[a].cell i).toNat % 2 ^ 24) + 2 ^ 24 * (C.countOf a i).getD 0

/-- How an integer step moves the count of cell i (R293). -/
def moveOf (C : Cluster) (j : Job) (sums : List Int) (i : Nat) : Int := (wrapCell (C.accs[j.acc].cell i) (sums.getD i 0)).2

/-- How many new carry entries an integer step needs (R293). -/
def newEntries (C : Cluster) (j : Job) (sums : List Int) : Nat :=
  ((List.range 1024).filter fun i => moveOf C j sums i ≠ 0 ∧ C.countOf j.acc i = none).length

/-- An integer step would take a count beyond its eight bits (R293). -/
def CountOverflows (C : Cluster) (j : Job) (sums : List Int) : Prop :=
  ∃ i, i < 1024 ∧ moveOf C j sums i ≠ 0 ∧ ((C.countOf j.acc i).getD 0 + moveOf C j sums i < -128 ∨
    127 < (C.countOf j.acc i).getD 0 + moveOf C j sums i)

end Sys2Proof.Claims

/-- R94, R122, R218, R286, R287, R289, R291, R292 and R295 to R297: the words that submit matrix jobs check the operand block, the options
and the formats of the prefix, or the defaults, and submit a job that holds them; on a core without engines they are SPACE. -/
def Obligations.MatrixJobsAreSubmitted : Prop :=
  ∀ s : State, AGov s →
    (isCompute (curHart s) = false → ∀ d first x acc, ∀ i ∈ [Instr.mxqStep d first x acc, .mxqSteps d first x acc, .mxqDrain d first x acc],
      exec i s = .next (takeTrap s s .aSide ⟨codeSpace, 0x006, 0⟩)) ∧
    (isCompute (curHart s) = true → ∀ (d : ADst) (first : BitVec 5) (x : ARegZ) (acc : Fin 8) (opts : Word), readAReg x s = .ok (opts, s) →
      (∀ q ∈ stepTable, ∀ ws : List Word, readBlock first.toNat 4 s = .ok (ws, s) →
        let fa := apfx s pfxFaA 0
        let fb := apfx s pfxFbA 0
        let scl := apfx s pfxSclA 0
        (∀ f, checkFormats s (curLaunch s) (curHart s) fa fb scl = .error f → exec (q.1 d first x acc) s = .next (takeTrap s s .aSide f)) ∧
        (checkFormats s (curLaunch s) (curHart s) fa fb scl = .ok () → checkOptions opts q.2 false (!intMode fa) = .ok () →
          (∀ f, checkStep s (curHart s) fa fb scl ws = .error f → exec (q.1 d first x acc) s = .next (takeTrap s s .aSide f)) ∧
          (checkStep s (curHart s) fa fb scl ws = .ok () → (q.2 = true → Fin.ofNat 4 (opts.extractLsb' 0 2).toNat ∉ (curSlot s).smBusy) →
            ∃ j : Job, NewJob s j ∧ j.words = ws ∧ j.op = scl + (if q.2 then 4 else 0) ∧ j.acc = acc ∧ j.fmtA = fa ∧ j.fmtB = fb ∧
              j.cblim = (opts.extractLsb' 27 8).toNat ∧ j.trapnow = opts.getLsbD 26 ∧ j.strict = opts.getLsbD 25 ∧
              Submits true (q.1 d first x acc) s .mxe j d (if q.2 then some (Fin.ofNat 4 (opts.extractLsb' 0 2).toNat) else none)))) ∧
      (∀ p : Word, readNum first.toNat s = .ok (p, s) → checkOptions opts false true false = .ok () →
        (∀ f, checkDrain s (curHart s) (opts.getLsbD 24) p = .error f → exec (.mxqDrain d first x acc) s = .next (takeTrap s s .aSide f)) ∧
        (checkDrain s (curHart s) (opts.getLsbD 24) p = .ok () → ∃ j : Job, NewJob s j ∧ j.words = [p] ∧ j.op = 8 ∧ j.acc = acc ∧
          j.wide = opts.getLsbD 24 ∧ ((curSlot s).aPrefix = none → j.fd = 11) ∧ Submits true (.mxqDrain d first x acc) s .mxe j d none)) ∧
      ((curSlot s).aPrefix = none → ∃ j : Job, NewJob s j ∧ j.op = 9 ∧ j.acc = acc ∧ Submits false (.mxqReclaim acc) s .mxe j .z none)) ∧
    (∀ (C : Cluster) (pos n : Nat) (j : Job), j.desc.toNat < 2 ^ 56 → j.op ≠ 9 → ∃ k : Job,
      (C.accept .mxe pos n j).jobs = C.jobs ++ [k] ∧ k.id = C.nextId.toNat ∧ k.words = j.words ∧ k.op = j.op ∧ k.acc = j.acc ∧
      (C.accept .mxe pos n j).nextId = C.nextId + 1 ∧ (C.accept .mxe pos n j).accs = C.accs ∧ (C.accept .mxe pos n j).lastPos = pos)

/-- R95, R129 and R299: the copy words check their block and submit a command of their operation to queue q; cpq.bar has none.
R33: a store-release to a kick register submits the job of the descriptor that it stores, or is refused as that job is.
It rests on choices of the model: log 21. -/
def Obligations.CopyJobsAreSubmitted : Prop :=
  ∀ s : State, AReady s → isCompute (curHart s) = true →
    (∀ q ∈ copyTable, ∀ (d : ADst) (first : BitVec 5) (k : Fin 4) (ws : List Word), readBlock first.toNat 3 s = .ok (ws, s) →
      (∀ f, checkCopy s (curLaunch s) q.2 ws = .error f → exec (q.1 d first k) s = .next (takeTrap s s .aSide f)) ∧
      (checkCopy s (curLaunch s) q.2 ws = .ok () → ∃ j : Job, NewJob s j ∧ j.cpOp = q.2 ∧ j.cpQueue = k ∧
        j.cpSeq = (ws.getD 2 0).extractLsb' 32 16 ∧ j.word 0 = ws.getD 0 0 ∧ j.word 1 = ws.getD 1 0 ∧
        j.word 2 = ((ws.getD 2 0).extractLsb' 0 32).zeroExtend 64 ∧ Submits false (q.1 d first k) s .cpe j d none)) ∧
    (∀ (d : ADst) (k : Fin 4), ∃ j : Job, NewJob s j ∧ j.cpOp = 4 ∧ j.cpQueue = k ∧ Submits false (.cpqBar d k) s .cpe j d none) ∧
    (∀ (L op : Nat) (ws : List Word), op ∈ [0, 1, 2, 3, 5] → checkCopy s L op ws = .ok () →
      let len := ((ws.getD 2 0).extractLsb' 0 32).toNat
      len ≠ 0 ∧ len % 64 = 0 ∧ (ws.getD 2 0).extractLsb' 48 16 = 0 ∧ ptrOff (ws.getD 1 0) % 64 = 0 ∧ spaceOf (ws.getD 1 0) ∈ [0, 1, 2, 4] ∧
      ((ws.getD 2 0).extractLsb' 32 16 ≠ 0 → sequenced s L = true ∧ op ∈ [1, 2, 3]) ∧
      (op ∈ [1, 2, 3] → sequenced s L = true → spaceOf (ws.getD 1 0) = 4)) ∧
    (∀ (d base : ASrc) (ord : Ord) (sc : Scope) (off : BitVec 7) (s1 s2 : State) (b : Word) (o : Nat) (bs : List Byte),
      readA base s = .ok (b, s1) → storeData d 8 s1 = .ok (bs, s2) → (curSlot s).paired = false →
      checkPointer s1 (memPtr b off .b8) 8 3 true (ord == .rel || ord == .sc) true = .ok (.reg o) →
      let e : Engine := if o = 0 then .mxe else .cpe
      (∀ f, kickJob s1 e (curIssuer s) (BitVec.ofNat 64 (leValue bs)) = .error f →
        exec (.memSt d base .b8 ord sc off) s = .next (takeTrap s s .aSide f)) ∧
      (∀ (j : Job) (u v w : State) (bs' : List Byte), kickJob s1 e (curIssuer s) (BitVec.ofNat 64 (leValue bs)) = .ok j →
        KickOrdered (accessDesc s1 .stR ord sc (regHome (curHart s)) o 8 (spaceOf (memPtr b off .b8))) s1 u →
        v = { u with fresh := u.fresh + 4 } → NoRequest v e → winsNow v e j = true → storeData d 8 v = .ok (bs', w) →
        refusedOverlap w e j = false →
        exec (.memSt d base .b8 ord sc off) s = .next (endA false (accepted w e j))))

/-- R36, R124, R125, R127, R297 and R298: a poll gives the state code of the job that S[7:0] names: 0 queued, 1 started, 3 the next
identifier, not yet given, 2 otherwise; a sleep goes on at once for a completed job, and else leaves a KIND 3 entry; a remote
command is a message of seven words to an engine port, and a prefix before cpq.rcmd is RESERVED_FIELD with DETAIL 0x0e6.
It rests on choices of the model: log 40. -/
def Obligations.PollsSleepsAndRemoteCommands : Prop :=
  ∀ s : State, AReady s →
    (∀ (e : Engine) (u : State), isCompute (curHart s) = true → inOrder (pollDesc s) s = .ok ((), u) →
      ∀ (x : ARegZ) (v : Word), readAReg x s = .ok (v, s) →
      let poll (d : ADst) : Instr := match e with
        | .mxe => .mxqPoll d x
        | .cpe => .cpqPoll d x
      let sleep : Instr := match e with
        | .mxe => .mxqSleep x
        | .cpe => .cpqSleep x
      let named (j : Job) : Prop := ((v.extractLsb' 0 8).toNat, j) ∈ (mine s).named e
      (∀ d : ADst, ∃ k : Word, WritesA (poll d) s u d k ∧
        ((∀ j, ¬ named j) → k = if (mine s).nextOf e = v.extractLsb' 0 8 then 3 else 2) ∧
        (∀ j, named j → (∀ j', named j' → j' = j ∨ j'.num < j.num) → k = if j.started then 1 else 0)) ∧
      ((∀ j, ¬ named j) → exec sleep s = .next (endA false u)) ∧
      (∀ j, named j → (curSlot s).sb.length < 16 → ∃ (t : State) (b : SbEntry), exec sleep s = .next t ∧
        (curSlot t).sb = (curSlot s).sb ++ [b] ∧ b.kind = 3 ∧ b.refused = false ∧
        b.info = BitVec.ofNat 50 ((match e with
          | .mxe => 0
          | .cpe => 256) + (v.extractLsb' 0 8).toNat) ∧ (curSlot t).pc = (curSlot s).pc + 1 ∧ SameMemory s t)) ∧
    (∀ (e : Engine) (first : BitVec 5) (x : ARegZ) (p : Word) (dest : Nat) (ws : List Word), readAReg x s = .ok (p, s) →
      let lo := match e with
        | .mxe => 0xb0000
        | .cpe => 0xc4000
      let rcmd : Instr := match e with
        | .mxe => .mxqRcmd first x
        | .cpe => .cpqRcmd first x
      (spaceOf p ≠ 7 ∨ indexOf p < lo ∨ lo + Config.nClusters ≤ indexOf p →
        exec rcmd s = .next (takeTrap s s .aSide ⟨codeBounds, 0x0b1, p⟩)) ∧
      (spaceOf p = 7 → lo ≤ indexOf p → indexOf p < lo + Config.nClusters → portDest p s = .ok (dest, s) →
        readBlock first.toNat 7 s = .ok (ws, s) → CanSend s → ∀ header : Word, header = (0x0071 : BitVec 16) ++ nextStamp s →
        SendsKept rcmd s s (.msg dest header ws) 1)) ∧
    (∀ (first : BitVec 5) (x : ARegZ) (w : BitVec 32) (t : State), isFmtA w = true → t = putCur s { curSlot s with aPrefix := some w } →
      exec (.cpqRcmd first x) t = .next (takeTrap t t .aSide ⟨codeReserved, 0x0e6, 0⟩))

/-- R35, R36, R196 and R292 to R297: what matrix jobs do. An integer step that commits adds each cell's exact sum to the number that the
cell and its carry count hold; a job on a slot that its issuer does not own fails with DETAIL 0x040; a drain that starts sets
STATE 4, and ends by writing the slot's cells and its status word and freeing the slot; a drain of a free slot writes its status
word alone; a reclaim frees an orphaned slot. A step of mxq.steps walks its skip list, each element of which is a run of granules
that are present or skipped. A step for whose carries no entry is free stalls for a drain, or fails with CARRY_FULL.
It rests on choices of the model: log 22, log 45, log 63. -/
def Obligations.MatrixJobsRun : Prop :=
  (∀ (C D : Cluster) (j : Job) (sums : List Int), (∀ i, (sums.getD i 0).natAbs ≤ 2 ^ 23) → commitInt C j sums = .done D →
    ∀ i, i < 1024 → exactCell D j.acc i = exactCell C j.acc i + sums.getD i 0) ∧
  (∀ (s : State) (c k : Nat) (j : Job), headFrom 0 (clusterOf s c).jobs = some (k, j) → j.started = false →
    let A := (clusterOf s c).accs[j.acc]
    let L := jobLaunch s j
    let h := j.home (j.word 0)
    (j.op < 4 → engineHeld s j.own = false → A.state ≠ 0 → owns A j = false ∨ 3 ≤ A.state ∨ A.draining = true → ∃ t, exec (.mxeStepJob c) s = .next t ∧
      (clusterOf t c).jobs[k]? = some (j.failed codeQueueMisuse 0x040) ∧ (clusterOf t c).accs = (clusterOf s c).accs) ∧
    (∀ (g : StepData) (u : State), j.op < 4 → engineHeld s j.own = false →
      A.state = 0 ∨ (owns A j = true ∧ A.draining = false ∧ A.state = if intMode j.fmtA then 1 else 2) →
      gatherStep s j (List.range (8 * (stepK j.fmtA / 8))) = .ok (g, u) →
      (∀ D : Cluster, intMode j.fmtA = true →
        commitInt (clusterOf u c) j ((List.range 1024).map fun i => g.sum j.fmtA j.fmtB i) = .done D →
        ∃ t, exec (.mxeStepJob c) s = .next t ∧ (clusterOf t c).jobs[k]? = some (j.finish none) ∧
          (clusterOf t c).carries = D.carries ∧ ∀ i, (clusterOf t c).accs[j.acc].cell i = D.accs[j.acc].cell i) ∧
      (intMode j.fmtA = false → ∃ t, exec (.mxeStepJob c) s = .next t ∧ (clusterOf t c).jobs[k]? = some (j.finish none) ∧
        ∀ i, i < 1024 → ((clusterOf t c).accs[j.acc].cell i).toNat = (roundSum specFp32 0
          (g.terms j.fmtA j.fmtB (j.op % 4) j.strict i).2 (decodeIeee specFp32 (A.cell i).toNat ::
            (g.terms j.fmtA j.fmtB (j.op % 4) j.strict i).1)).1 % 2 ^ 32) ∧
      (intMode j.fmtA = true → let sums := (List.range 1024).map fun i => g.sum j.fmtA j.fmtB i
        (∀ d, commitInt (clusterOf u c) j sums = .full d → ∃ t, exec (.mxeStepJob c) s = .next t ∧
          (clusterOf t c).jobs[k]? = some (j.failed codeCarryFull d) ∧ (clusterOf t c).cstall = false ∧
          (clusterOf t c).accs = (clusterOf u c).accs ∧ (clusterOf t c).carries = (clusterOf u c).carries) ∧
        (commitInt (clusterOf u c) j sums = .stall → ∃ t, exec (.mxeStepJob c) s = .next t ∧
          (clusterOf t c).jobs[k]? = some { j with started := true, sums := sums } ∧ (clusterOf t c).cstall = true ∧
          (clusterOf t c).accs = (clusterOf u c).accs ∧ (clusterOf t c).carries = (clusterOf u c).carries))) ∧
    (∀ s1 : State, 4 ≤ j.op → j.op < 8 → engineHeld s j.own = false → s1 = recallRuns s L j.own 4 (streamOf s j) →
      let B := (clusterOf s1 c).accs[j.acc]
      let n := stepK j.fmtA / 8
      B.state = 0 ∨ (owns B j = true ∧ B.draining = false ∧ B.state = if intMode j.fmtA then 1 else 2) →
      (∀ code d, readRuns s1 (jobLaunch s1 j) j.own n n (streamOf s1 j) = .error (code, d) →
        exec (.mxeStepJob c) s = .next (setJob (endWalk { s1 with fresh := s1.fresh + 1 } j none) c k (j.failed code d))) ∧
      (∀ (gs : List Bool) (r : Word) (g : StepData) (u : State) (D : Cluster),
        readRuns s1 (jobLaunch s1 j) j.own n n (streamOf s1 j) = .ok (gs, r) → gatherStep s1 j (presentOf gs) = .ok (g, u) →
        intMode j.fmtA = true →
        commitInt (clusterOf (endWalk u j (some r)) c) j ((List.range 1024).map fun i => g.sum j.fmtA j.fmtB i) = .done D →
        ∃ t, exec (.mxeStepJob c) s = .next t ∧ (clusterOf t c).jobs[k]? = some (j.finish none) ∧
          (clusterOf t c).carries = D.carries ∧ (∀ i, (clusterOf t c).accs[j.acc].cell i = D.accs[j.acc].cell i) ∧
          ∀ src, j.rep = .slot src → runs u src = true → (slotOf t src.hart src.slot).sm[Fin.ofNat 4 j.sm] = r)) ∧
    (j.op = 8 → engineHeld s j.own = false → (∀ x ∈ (clusterOf s c).jobs, x.draining = false) →
      (A.state = 1 ∨ (A.state = 2 ∧ j.fd ≠ 32) → owns A j = true →
        writeBlocked s L h (offOf (j.word 0)) (drainBytes (clusterOf s c) j).length = none →
        ∃ t, exec (.mxeDrainJob c) s = .next t ∧ (clusterOf t c).jobs[k]? = some { j with started := true } ∧
          ((clusterOf t c).mxslot j.acc).extractLsb' 0 3 = 4 ∧ SameMemory s t) ∧
      (A.state = 2 → owns A j = true → j.fd = 32 → exec (.mxeDrainJob c) s = .next (setJob s c k (j.failed codeQueueMisuse 0x045))) ∧
      (A.state = 0 → let off := offOf (j.word 0) + 1024 * (if j.wide then 8 else 4)
        writeBlocked s L h off 8 = none → ∃ t, exec (.mxeDrainJob c) s = .next t ∧
          (clusterOf t c).jobs[k]? = some (j.finish none) ∧ (clusterOf t c).accs = (clusterOf s c).accs ∧
          (Memory.wf (ctxOf (recallRange s L h off 8) h L).scratch = true →
            ∀ i, i < 8 → Memory.read (ctxOf t h L).scratch (off + i) = (leBytes 512 8).getD i 0))) ∧
    (j.op = 9 → (A.state = 3 → ∃ t, exec (.mxeReclaimJob c) s = .next t ∧ (clusterOf t c).accs[j.acc] = Acc.reset ∧
        (clusterOf t c).jobs[k]? = some (j.finish none)) ∧
      (A.state = 0 → exec (.mxeReclaimJob c) s = .next (setJob s c k (j.finish none))) ∧
      (A.state = 1 ∨ A.state = 2 → exec (.mxeReclaimJob c) s = .next (setJob s c k (j.failed codeQueueMisuse 0x041)))) ∧
    (8 ≤ j.op → exec (.mxeStepJob c) s = .next s) ∧ (j.op ≠ 9 → exec (.mxeReclaimJob c) s = .next s)) ∧
  (∀ (s : State) (L own fuel left : Nat) (r : Word), 0 < left → r.extractLsb' 48 16 ≠ 0 → r.extractLsb' 46 2 = 0 →
    (r.extractLsb' 0 18).toNat < Config.scratchBytes →
    let e := leValue ((ctxOf s own L).read own (r.extractLsb' 0 18).toNat 1)
    let n := e % 128 + 1
    let next : Word := (r.extractLsb' 48 16 - 1) ++ r.extractLsb' 18 30 ++ (r.extractLsb' 0 18 + r.extractLsb' 18 18)
    (left < n → readRuns s L own (fuel + 1) left r = .error (codeQueueMisuse, 0x042)) ∧
    (∀ gs r', n ≤ left → readRuns s L own fuel (left - n) next = .ok (gs, r') →
      readRuns s L own (fuel + 1) left r = .ok (List.replicate n (decide (e < 128)) ++ gs, r'))) ∧
  (∀ (C : Cluster) (j : Job) (sums : List Int), (CountOverflows C j sums → commitInt C j sums = .full 0x002) ∧
    (¬ CountOverflows C j sums →
      let n := newEntries C j sums
      let lim := if j.cblim = 0 then 256 else j.cblim
      (C.carriesOf j.acc + n ≤ lim → C.cbused + n ≤ 256 → ∃ D, commitInt C j sums = .done D) ∧
      (lim < C.carriesOf j.acc + n ∨ 256 < C.cbused + n →
        (j.trapnow = true → commitInt C j sums = .full 0x001) ∧
        (j.trapnow = false → C.carriesOf j.acc + n ≤ lim → drainQueued C j.acc = true → commitInt C j sums = .stall) ∧
        (j.trapnow = false → lim < C.carriesOf j.acc + n ∨ drainQueued C j.acc = false → commitInt C j sums = .full 0x000)))) ∧
  (∀ (s : State) (c k : Nat) (j : Job), findJob Job.draining 0 (clusterOf s c).jobs = some (k, j) → engineHeld s j.own = false →
    let A := (clusterOf s c).accs[j.acc]
    let L := jobLaunch s j
    let h := j.home (j.word 0)
    let off := offOf (j.word 0)
    let bs := drainBytes (clusterOf s c) j
    A.state = 1 ∨ (A.state = 2 ∧ j.fd ≠ 32) → owns A j = true → writeBlocked s L h off bs.length = none →
      ∃ t, exec (.mxeDrainJob c) s = .next t ∧ (clusterOf t c).jobs[k]? = some (j.finish none) ∧
        (clusterOf t c).accs[j.acc] = Acc.reset ∧ (∀ x ∈ (clusterOf t c).carries, x.slot ≠ j.acc.val) ∧
        (Memory.wf (ctxOf (recallRange s L h off bs.length) h L).scratch = true →
          ∀ i, i < bs.length → Memory.read (ctxOf t h L).scratch (off + i) = bs.getD i 0)) ∧
  (∀ (s : State) (c k : Nat) (j : Job), headFrom 0 (clusterOf s c).jobs = some (k, j) → j.started = true →
    ((clusterOf s c).cstall = true → exec (.carryStallResume c) s = .next (commitStep s c k j j.sums)) ∧
    ((clusterOf s c).cstall = false → exec (.carryStallResume c) s = .next s) ∧
    (∀ D : Cluster, (clusterOf s c).cstall = true → commitInt (clusterOf s c) j j.sums = .done D →
      (clusterOf (commitStep s c k j j.sums) c).cstall = false ∧
      (clusterOf (commitStep s c k j j.sums) c).jobs[k]? = some (j.finish none))) ∧
  (∀ (acc : BitVec 32) (n : Int), drainInt acc n true = (pat 64 (sgn 24 (acc.toNat % 2 ^ 24) + n * 2 ^ 24), false) ∧
    (drainInt acc n false).1 = pat 32 (max (-2 ^ 31) (min (2 ^ 31 - 1) (sgn 24 (acc.toNat % 2 ^ 24) + n * 2 ^ 24))) ∧
    ((drainInt acc n false).2 = true ↔ sgn 24 (acc.toNat % 2 ^ 24) + n * 2 ^ 24 < -2 ^ 31 ∨
      2 ^ 31 - 1 < sgn 24 (acc.toNat % 2 ^ 24) + n * 2 ^ 24))

/-- R33, R94 to R96, R122, R126 to R128, R299 and R300: the command that may run in a queue is refused whole at its first refused granule,
or runs and finishes; one against a core that is not assigned is retried for 65,536 cycles; a reducing command in sequenced mode is applied at its channel core in its sequence; a request is accepted in
the engine's turn; a job that has finished leaves its queue and reports, in the order of its queue (R90, R336); a remote command and a kick-register store are taken where
the engine's turn comes to them.
It rests on choices of the model: log 41, log 42, log 45, log 63, log 78. -/
def Obligations.CopyJobsRunAndJobsReport : Prop :=
  (∀ (s : State) (c : Nat) (q : Fin 4) (j : Job), runnable s c q = some j → engineHeld s j.own = false → let L := jobLaunch s j
    commandHeld s L j = false →
    (j.cpOp = 4 → exec (.cpeBarrierJob c q) s = .next (setCommand s c (j.finish none))) ∧
    (∀ p, commandUnowned s L j = some p →
      ∀ i, (j.cpOp = 0 ∧ i = Instr.cpeCopyJob c q) ∨ (j.cpOp = 5 ∧ i = .cpeFillJob c q) ∨ (j.cpOp ∈ [1, 2, 3] ∧ i = .cpeReduceJob c q) →
      (j.tried = none → exec i s = .next (setCommand s c { j with tried := some s.cycle })) ∧
      (∀ since, j.tried = some since → (s.cycle < since + 65536 → exec i s = .next s) ∧
        (since + 65536 ≤ s.cycle → exec i s = .next (failCommand s c j ⟨codeBounds, 0x0b2, p⟩)))) ∧
    (∀ f, commandUnowned s L j = none → commandRefused s L j = some f → (j.cpOp = 0 → exec (.cpeCopyJob c q) s = .next (failCommand s c j f)) ∧
      (j.cpOp = 5 → exec (.cpeFillJob c q) s = .next (failCommand s c j f)) ∧
      (j.cpOp ∈ [1, 2, 3] → exec (.cpeReduceJob c q) s = .next (failCommand s c j f))) ∧
    (commandUnowned s L j = none → commandRefused s L j = none →
      (j.cpOp = 0 → exec (.cpeCopyJob c q) s = .next (runCopy c s L j)) ∧
      (j.cpOp = 5 → exec (.cpeFillJob c q) s = .next (setCommand ((List.range (granCount j)).foldl (fun t i =>
        granWrite t L j (granAt (j.word 1) i) (List.replicate 8 (leBytes (j.word 0).toNat 8)).flatten) s) c (j.finish none))) ∧
      (j.cpOp ∈ [1, 2, 3] → inSequence s j = false → exec (.cpeReduceJob c q) s =
        .next (setCommand ((List.range (granCount j)).foldl (reduceGranule L j) s) c (j.finish none))) ∧
      (j.cpOp ∈ [1, 2, 3] → inSequence s j = true → exec (.cpeReduceJob c q) s = .next (sendSequenced c s L j))) ∧
    (j.cpOp ≠ 0 → exec (.cpeCopyJob c q) s = .next s)) ∧
  (∀ (s : State) (c : Nat) (q : Fin 4), runnable s c q = none →
    ∀ i ∈ [Instr.cpeCopyJob c q, .cpeFillJob c q, .cpeBarrierJob c q, .cpeReduceJob c q], exec i s = .next s) ∧
  (∀ (s t : State) (k : Nat) (it : NetItem) (c job op h : Nat) (seq : BitVec 16) (g : Word × List Byte), s.net[k]? = some it →
    t = { s with net := removeAt k s.net } → it.op = .seqReduce c job op seq h [g] →
    (∀ e, extentOf s it.src.launch g.1 = some e → e.host = true ∨ pageHeld s (e.base + extOff g.1) = false) →
    let x := ctxOf t h it.src.launch
    let want := SMap.getD x.seqNext (extOf g.1) 0
    (seq ≠ want → (seq - want).toNat < 2 ^ 15 →
      exec (.sequencedReduceArrival k) s = .next (putCtx t h { x with seqHeld := x.seqHeld ++ [it] })) ∧
    (2 ^ 15 ≤ (seq - want).toNat → exec (.sequencedReduceArrival k) s = .next (settleSequenced t c job)) ∧
    (seq = want → x.seqHeld = [] → ∃ u, exec (.sequencedReduceArrival k) s = .next u ∧
      SMap.getD (ctxOf u h it.src.launch).seqNext (extOf g.1) 0 = want + 1 ∧
      (partRefused t it.src.launch [g] = none → u.hbm = (applyPiece it.src.launch op t g).hbm) ∧
      (partRefused t it.src.launch [g] ≠ none → u.hbm = t.hbm))) ∧
  (∀ (a b : BitVec 32), reduceElem 3 a.toNat b.toNat = (a + b).toNat) ∧
  (∀ (s : State) (c : Nat) (e : Engine), (clusterOf s c).offer e s.cycle = none ∨ (clusterOf s c).acceptedAt e = some s.cycle →
    exec (.engineJobAccept c e) s = .next s) ∧
  (∀ (s : State) (c : Nat) (e : Engine) (r : Request) (src : Issuer) (t : State), (clusterOf s c).offer e s.cycle = some r →
    (clusterOf s c).acceptedAt e ≠ some s.cycle → r.data = .z → r.job.rep = .slot src → clusterOfCore src.hart = c → AGov { s with cur := (src.hart, src.slot, .aSide) } → curIssuer { s with cur := (src.hart, src.slot, .aSide) } = src →
    refusedOverlap s e r.job = false → (e = .mxe → r.job.op < 4 ∨ r.job.op = 8) →
    let v := putCluster { s with cur := (src.hart, src.slot, .aSide) } c
      ((clusterOf s c).setReqs e (((clusterOf s c).reqs e).filter fun q => !q.from src))
    writeA r.dst (((clusterOf s c).nextOf e).zeroExtend 64)
      (putCluster v c ((clusterOf v c).accept e (posInCluster src.hart) s.cycle r.job)) = .ok ((), t) →
    exec (.engineJobAccept c e) s = .next { endGovA t with cur := s.cur }) ∧
  (∀ (s : State) (c k : Nat) (j : Job) (f : Option FaultInfo) (src : Issuer), (clusterOf s c).jobs[k]? = some j → j.done = some f →
    j.rep = .slot src → firstReport s (clusterOf s c).jobs = some j →
    let u := putCluster s c { clusterOf s c with jobs := removeAt k (clusterOf s c).jobs }
    let w := if j.op ≠ 9 then wakeSleepers u c .mxe j.id else u
    exec (.engineCompletionReport c .mxe k) s = .next (match f with
      | some x => lateFault w src none x
      | none => w)) ∧
  (∀ (s : State) (c k : Nat) (j : Job), (clusterOf s c).jobs[k]? = some j → firstReport s (clusterOf s c).jobs ≠ some j →
    exec (.engineCompletionReport c .mxe k) s = .next s) ∧
  (∀ (s : State) (c k : Nat) (j : Job) (f : Option FaultInfo) (src : Issuer), ((clusterOf s c).cpq.toList.flatMap id)[k]? = some j →
    j.done = some f → j.rep = .slot src → firstReport s (clusterOf s c).cpq[j.cpQueue] = some j →
    let u := putCluster s c { clusterOf s c with cpq := (clusterOf s c).cpq.set j.cpQueue ((clusterOf s c).cpq[j.cpQueue].erase j) }
    let w := wakeSleepers u c .cpe j.cpId
    exec (.engineCompletionReport c .cpe k) s = .next (match f with
      | some x => lateFault w src none x
      | none => w)) ∧
  (∀ (s : State) (c h n : Nat) (id : Nat) (x : SbEntry), isCompute h = true → clusterOfCore h = c → id < 256 →
    x ∈ (slotOf (wakeSleepers s c .mxe id) h n).sb → x.kind = 3 → x.info ≠ BitVec.ofNat 50 id) ∧
  (∀ (s t : State) (k : Nat) (it : NetItem) (dest c : Nat) (e : Engine) (header : Word) (ws : List Word), Arrives s t k it →
    it.op = .msg dest header ws → portEngine dest = some (e, c) →
    (header.extractLsb' 48 4 = 2 → exec (.remoteCommandArrival k) s = .next (accept t it)) ∧
    (∀ C, SMap.find c t.clusters = some C → header.extractLsb' 48 4 ≠ 2 → (ws.getD 0 0).extractLsb' 0 48 ≠ C.own →
      ∃ (u : State) (d : BitVec 12), u.harts = t.harts ∧ exec (.remoteCommandArrival k) s = .next (refusal u it codeCapability d)) ∧
    exec (.remoteCommandArrival k) s = .next (commandArrive s t it e c header ws)) ∧
  (∀ (s t : State) (k : Nat) (it : NetItem) (e : Engine) (v : Word) (j : Job), Arrives s t k it → it.op = .kickStore e v →
    kickJob t e it.src v = .ok j →
    let C := clusterOf t (clusterOfCore it.src.hart)
    let pos := posInCluster it.src.hart
    (it.met = none → mayComeFirst t (clusterOfCore it.src.hart) e pos (remoteComing t (clusterOfCore it.src.hart) e) = true →
      exec (.kickRegisterStore k) s = .next (meets s it)) ∧
    (metBefore s it = true → C.takes e s.cycle pos j = false → exec (.kickRegisterStore k) s = .next s) ∧
    (metBefore s it = true → (∀ r ∈ C.reqs e, r.pos ≠ pos) → C.takes e s.cycle pos j = true → ∃ u, exec (.kickRegisterStore k) s = .next u ∧
      clusterOf u (clusterOfCore it.src.hart) = C.accept e pos s.cycle j ∧
      ∀ o ∈ (hartOf u it.src.hart).out, o.id ≠ it.id))

/-! ## System words -/

namespace Sys2Proof.Claims

/-- The step number of sys.digest lies above the last post in serial order. -/
def NewStep (last : Option (BitVec 32)) (n : BitVec 32) : Prop :=
  ∀ m, last = some m → 1 ≤ (n - m).toNat ∧ (n - m).toNat < 2 ^ 31

end Sys2Proof.Claims

/-- R17, R151, R190 and R310 to R314: sys.fail ends the launch with the code and DETAIL that S names, or with RESERVED_FIELD
where S names none, and the late faults that its other slots hold are logged after it; sys.chmask, sys.cancel, sys.digest and sys.fpt check their operands and have their effect;
sys.chain records the onward capsule as pending, and sys.launch enters an independent capsule in the wait list, once the bytes of
the slot have been pushed and its operations performed, the image has passed its checks, and the wait list has room; of two slots
that commit a chain, or write a mask, in one cycle, the lower comes first.
It rests on choices of the model: log 2, log 4, log 15, log 29, log 76. -/
def Obligations.SystemWords : Prop :=
  ∀ (s : State) (l : Launch), AReady s → launchOf s (curLaunch s) = some l →
    (∀ (x : ASrc) (s1 : State) (w : Word), readA x s = .ok (w, s1) →
      let code := w.extractLsb' 16 16
      let named := (0x6001 ≤ code.toNat ∧ code.toNat ≤ 0x6011) ∨
        ((curSlot s).inTrap = true ∧ code = (curSlot s).tcause.extractLsb' 16 16)
      let late := lateOf s1 (curLaunch s) (curHart s) (curNum s)
      (∃ (t : State) (log rs : List FaultRec), exec (.sysFail x) s = .next t ∧
        (named → KilledBy s { t with faultLog := log } (curLaunch s) (curHart s) l ⟨code, w.extractLsb' 0 12, 0⟩ s.faultLog) ∧
        (¬ named → KilledBy s { t with faultLog := log } (curLaunch s) (curHart s) l ⟨codeReserved, 0x0f0, 0⟩ s.faultLog) ∧
        t.faultLog = (rs ++ log).take 64 ∧ rs.length = late.length ∧
        ∀ q ∈ late, ∃ r ∈ rs, r.core = q.1 ∧ r.code = q.2.code ∧ r.detail = q.2.detail ∧ r.addr = q.2.addr) ∧
      (2 ^ 12 ≤ w.toNat → exec (.sysCancel x) s = .next (takeTrap s s .aSide ⟨codeReserved, 0x0f3, 0⟩)) ∧
      (w.toNat < 2 ^ 12 → w ≠ 0 → w.toNat ∉ l.cap.counters →
        exec (.sysCancel x) s = .next (takeTrap s s .aSide ⟨codeCapability, 0x001, 0⟩)) ∧
      (w.toNat < 2 ^ 12 → w = 0 ∨ w.toNat ∈ l.cap.counters →
        exec (.sysCancel x) s = .next (endA false (cancelCounter s1 w.toNat)))) ∧
    (∀ (x y : ASrc) (s1 s2 : State) (w m : Word), readA x s = .ok (w, s1) → readA y s1 = .ok (m, s2) →
      let ch := (w.extractLsb' 0 6).toNat
      let bad := 2 ^ 6 ≤ w.toNat ∨ 2 ≤ m.toNat ∨ ch = 63 ∨ l.handler ch = none
      let put (k : Word) : State := putCurCtx s2 { curCtx s2 with masks := k }
      (bad → exec (.sysChmask x y) s = .next (takeTrap s s .aSide ⟨codeReserved, 0x0f1, 0⟩)) ∧
      (¬ bad → laterWrote ch s2 = true → exec (.sysChmask x y) s = .next (endA false s2)) ∧
      (¬ bad → laterWrote ch s2 = false → m = 1 →
        exec (.sysChmask x y) s = .next (endA false (noteWrite ch (put ((curCtx s2).masks ||| BitVec.ofNat 64 (2 ^ ch)))))) ∧
      (¬ bad → laterWrote ch s2 = false → m = 0 → exec (.sysChmask x y) s =
        .next (endA false (noteWrite ch (select (put ((curCtx s2).masks &&& ~~~BitVec.ofNat 64 (2 ^ ch))) (curHart s))))) ∧
      (∀ off, ownOffset w 32 0x020 s2 = .ok (off, s2) →
        (¬ NewStep l.lastDigest (m.extractLsb' 0 32) →
          exec (.sysDigest x y) s = .next (takeTrap s s .aSide ⟨codeQueueMisuse, 0x051, 0⟩)) ∧
        (∀ u bs s3, NewStep l.lastDigest (m.extractLsb' 0 32) →
          inOrder { kinds := [.ld], scope := .core, sc := false, loc := ⟨curHart s, off, 32⟩, space2 := spaceOf w == 2 } s2 =
            .ok ((), u) → ownBytesAt off 32 u = .ok (bs, s3) →
          exec (.sysDigest x y) s = .next (endA false (modLaunch s3 (curLaunch s) fun k =>
            { k with
              lastDigest := some (m.extractLsb' 0 32)
              digests := if s.replicated then k.digests ++ [(m.extractLsb' 0 32, digestOf bs, s.cycle)] else k.digests }))))) ∧
    ((curSlot s).paired = false → exec .sysFpt s = .next (endA false s)) ∧
    ((curSlot s).paired = true →
      exec .sysFpt s = .next (endA false (putHart s (curHart s) { hartOf s (curHart s) with fptForced := true }))) ∧
    (∀ x y : ASrc,
      let u := flushScope (curLaunch s) (curHart s) .module s
      let o : Origin := .launchBy l.cap.origin.rank
      let chain := exec (.sysChain x y) s
      let launch := exec (.sysLaunch x y) s
      (fenceDone u (curHart s) (curNum s) .module = false →
        chain = .next (markA u (.chain false x y none)) ∧ launch = .next (markA u (.chain true x y none))) ∧
      (∀ (u1 u2 : State) (p n : Word), fenceDone u (curHart s) (curNum s) .module = true → readA x u = .ok (p, u1) →
        readA y u1 = .ok (n, u2) →
        (l.cancelled = true → chain = .next (endA false u2) ∧ launch = .next (endA false u2)) ∧
        (l.cancelled = false → (curSlot s).paired = true → (curSlot s).agreed = false →
          chain = .next (markA s .agree) ∧ launch = .next (markA s .agree)) ∧
        (l.cancelled = false → (curSlot s).paired = false ∨ (curSlot s).agreed = true →
          (spaceOf p ≠ 4 → ∀ r ∈ [chain, launch], r = .next (takeTrap s s .aSide ⟨codeSpace, BitVec.ofNat 12 (spaceOf p), p⟩)) ∧
          (∀ bs u3, readImage p n u2 = .ok (bs, u3) →
            (unplaceable u3 (readCapsule bs o) = true → launch = .next (takeTrap s s .aSide ⟨codeDrain, 0, 0⟩)) ∧
            (∀ code d, admitImage u3 bs n.toNat o = .error (code, d) →
              chain = .next (takeTrap s s .aSide ⟨code, d, 0⟩) ∧
              (unplaceable u3 (readCapsule bs o) = false → launch = .next (takeTrap s s .aSide ⟨code, d, 0⟩))) ∧
            (∀ cap t, admitImage u3 bs n.toNat o = .ok (cap, t) →
              (∀ d, chainRefused l bs cap = some d → chain = .next (takeTrap s s .aSide ⟨codeChain, d, 0⟩)) ∧
              (chainRefused l bs cap = none →
                (waitRoom u = false → chain = .next (markA u (.chain false x y none))) ∧
                (waitRoom u = true → yieldsChain u none = true → chain = .next (markA u (.chain false x y (some s.cycle)))) ∧
                (waitRoom u = true → yieldsChain u none = false → l.preempting = true → chain = .next (endA false (chainCommit cap l t))) ∧
                (waitRoom u = true → yieldsChain u none = false → l.preempting = false →
                  chain = .next (endA false (modLaunch t (curLaunch s) fun k => markDrained t { k with pending := some cap })))) ∧
              (unplaceable u3 (readCapsule bs o) = false →
                (waitRoom u = false → launch = .next (markA u (.chain true x y none))) ∧
                (waitRoom u = true → launch = .next (endA false (enterWait t cap)))))))))

/-! ## Queues, launches and plats -/

namespace Sys2Proof.Claims

/-- Launch L has ended with a code and DETAIL that the module gave: its fault log record, its counters, and its plat's state. -/
def EndedBy (s t : State) (L : Nat) (l : Launch) (code : BitVec 16) (d : BitVec 12) (state : PlatState) : Prop :=
  launchOf t L = none ∧ (platOf t l.plat).state = state ∧ (platOf t l.plat).launch = none ∧
  (∃ r : FaultRec, r.code = code ∧ r.detail = d ∧ r.plat = l.plat ∧ r.tag = (platOf s l.plat).tag ∧ r.at' = s.cycle ∧
    t.faultLog = logged r s.faultLog) ∧
  (l.cap.counted = true → ∀ c ∈ l.cap.counters, (counterOf t c).last = code ∧
    (counterOf t c).ended = (counterOf s c).ended + 1 ∧ (counterOf t c).done = (counterOf s c).done ∧
    (counterOf t c).live = (counterOf s c).live - 1)

/-- Launch l, at index L of the launch table, stands on plat p. -/
def OnPlat (s : State) (p L : Nat) (l : Launch) : Prop :=
  (platOf s p).launch = some L ∧ launchOf s L = some l ∧ l.plat = p

/-- Nothing keeps queue u from presenting the packet w: a packet is there, no counter wait holds the queue, the wait list has
room (log 29), and ACQ does not hold it back. -/
def CanPresent (s : State) (u : UserQueue) (w : Vector Word 8) : Prop :=
  u.wait = none ∧ u.rd ≠ u.wr ∧ waitRoom s = true ∧ (w[0].getLsbD 8 = true → u.open' = [])

/-- The events that present packets, with the TYPE that each presents. -/
noncomputable def packetEvents (q : Nat) : List (Instr × Nat) :=
  [(.packetNop q, 0), (.packetLaunch q, 1), (.packetCounterWait q, 2), (.packetCancel q, 3)]

end Sys2Proof.Claims

/-- R136 to R138, R189 and R190: a notify moves the write index, or puts the queue into its error state where it lies more than
the ring ahead; a packet is presented when nothing holds it, and the read index is written back; a malformed packet is refused with
RESERVED_FIELD and the lowest word at fault, and a good one has the effect of its TYPE; a launch that is refused at orders 1 to 5
enters nothing in the fault log and moves no counter; a counter wait holds its queue until its
counter reaches the target; a cancel of a counter that counts live launches ends the waiting ones and stops the placed ones.
It rests on choices of the model: log 4, log 29, log 43, log 49, log 53, log 64. -/
def Obligations.PacketsOfHostQueues : Prop :=
  (∀ (s : State) (q : Nat) (u : UserQueue), SMap.find q s.queues = some u →
    let w := packetWords s u
    let tag := w[0].extractLsb' 32 32
    let counter := (w[1].extractLsb' 0 12).toNat
    let P := present s q u
    (∀ wi : BitVec 32,
      (u.error = true → exec (.uqwiNotify q wi) s = .next s) ∧
      (u.error = false → 2 ^ u.log2 < (wi - u.rd).toNat →
        ∃ t, exec (.uqwiNotify q wi) s = .next t ∧ SMap.find q t.queues = some { u with error := true }) ∧
      (u.error = false → (wi - u.rd).toNat ≤ 2 ^ u.log2 →
        exec (.uqwiNotify q wi) s = .next { s with queues := SMap.set q { u with wr := wi } s.queues })) ∧
    (¬ CanPresent s u w → ∀ i ∈ packetEvents q, exec i.1 s = .next s) ∧
    (SMap.find q P.queues = some { u with rd := u.rd + 1 } ∧
      (Memory.wf s.hostMem = true → hostWord P u.rdAddr.toNat = (u.rd + 1).zeroExtend 64)) ∧
    (CanPresent s u w →
      (∀ k, ∀ i ∈ packetEvents q, packetRefused w = some k → pktType w = i.2 ∨ 4 ≤ pktType w → ∃ t, exec i.1 s = .next t ∧
        (∃ r : FaultRec, r.code = codeReserved ∧ r.detail = BitVec.ofNat 12 k ∧ r.at' = s.cycle ∧ t.faultLog = logged r s.faultLog) ∧
        SMap.find q t.queues = some { u with rd := u.rd + 1 }) ∧
      (packetRefused w = none →
        (pktType w = 0 → exec (.packetNop q) s = .next (writeStatus P w[3] tag 0 0)) ∧
        (pktType w = 2 → ∃ t, exec (.packetCounterWait q) s = .next t ∧
          SMap.find q t.queues = some { u with rd := u.rd + 1, wait := some (counter, w[2].extractLsb' 0 32, w[3], tag) }) ∧
        (pktType w = 3 → exec (.packetCancel q) s = .next (writeStatus (cancelCounter P counter) w[3] tag 0 0)) ∧
        (pktType w = 1 →
          let o : Origin := .queue q w[3] tag s.nextPacket
          let bs := hostBytes P w[1].toNat (min (w[2].extractLsb' 0 32).toNat 0x299f)
          let A := openPacket { P with nextPacket := s.nextPacket + 1 } q s.nextPacket
          (∀ code : BitVec 16, let t := report A o none code
            t.faultLog = s.faultLog ∧ t.waitList = s.waitList ∧ t.counters = s.counters ∧
            (∃ v : Word, (writeStatus A w[3] tag code v.toNat).hostMem = t.hostMem)) ∧
          (∀ code d, s.outOfService = false → unplaceable A (readCapsule bs o) = false →
            admitImage A bs (w[2].extractLsb' 0 32).toNat o = .error (code, d) →
            exec (.packetLaunch q) s = .next (report A o none code)) ∧
          (s.outOfService = false → unplaceable A (readCapsule bs o) = true →
            exec (.packetLaunch q) s = .next (report A o none codeDrain)) ∧
          (s.outOfService = true → exec (.packetLaunch q) s = .next (report A o none s.grade4)) ∧
          (∀ cap C, s.outOfService = false → unplaceable A (readCapsule bs o) = false →
            admitImage A bs (w[2].extractLsb' 0 32).toNat o = .ok (cap, C) → (∀ c ∈ cap.counters, (counterOf C c).cxl = false) →
            ∃ t, exec (.packetLaunch q) s = .next t ∧ t.waitList = C.waitList ++ [{ cap with counted := true }] ∧
              ∀ c ∈ cap.counters, (counterOf t c).live = (counterOf C c).live + 1)))) ∧
    (∀ c target st g, u.wait = some (c, target, st, g) →
      (((counterOf s c).ended - target).toNat < 2 ^ 31 → exec (.counterWaitRelease q) s =
        .next (writeStatus { s with queues := SMap.set q { u with wait := none } s.queues } st g 0 0)) ∧
      (2 ^ 31 ≤ ((counterOf s c).ended - target).toNat → exec (.counterWaitRelease q) s = .next s)) ∧
    (u.wait = none → exec (.counterWaitRelease q) s = .next s)) ∧
  (∀ (s : State) (st : Word) (g : BitVec 32) (code : BitVec 16) (n : Nat), Memory.wf s.hostMem = true → st ≠ 0 →
    hostWord (writeStatus s st g code n) st.toNat = BitVec.ofNat 64 (code.toNat + 2 ^ 16 + g.toNat * 2 ^ 32) ∧
    hostWord (writeStatus s st g code n) (st.toNat + 8) = BitVec.ofNat 64 n ∧ writeStatus s 0 g code n = s) ∧
  (∀ (s : State) (k : Nat), ((counterOf s k).live = 0 → cancelCounter s k = s) ∧
    ((counterOf s k).live ≠ 0 → (∀ cap ∈ s.waitList, k ∉ cap.counters) →
      (∀ p ∈ s.plats, ∀ cap, p.2.onward = some cap → k ∉ cap.counters) → (counterOf (cancelCounter s k) k).cxl = true) ∧
    ((counterOf s k).live ≠ 0 → (∀ cap ∈ (cancelCounter s k).waitList, k ∉ cap.counters) ∧
      ∀ L l, launchOf s L = some l → k ∈ l.cap.counters → ∃ m, launchOf (cancelCounter s k) L = some m ∧ m.cancelled = true ∧
        m.pending = none ∧ ((platOf s l.plat).state = .running ∨ (platOf s l.plat).state = .quiescing →
          (platOf (cancelCounter s k) l.plat).state = .quiescing ∧ (platOf (cancelCounter s k) l.plat).quiesce = 2) ∧
        ((platOf s l.plat).state = .placing ∨ (platOf s l.plat).state = .spilling →
          (platOf (cancelCounter s k) l.plat).state = (platOf s l.plat).state)))

/-- R7, R14, R15, R17, R147, R176 and R178: a waiting capsule takes a plat that is free, not drained and of its shape, whose
cores are zeroed; its extents are then checked and loaded, and it starts; it completes when its plat is quiescent, goes to
QUIESCING and ends when cancelled and still, and is killed by HANG after 8,192 cycles in which nothing could go on, unless a budget
or a barrier ends the wait; a zeroed plat is FREE again with TAG 0, and its cores keep no carried bytes, OFFLINE after a retirement, or PLACING for the onward capsule
that keeps it.
It rests on choices of the model: log 4, log 23, log 29, log 47, log 48, log 55, log 64, log 68. -/
def Obligations.LaunchesArePlacedAndEnd : Prop :=
  (∀ (s : State) (w p : Nat) (cap : Capsule), s.waitList[w]? = some cap →
    (mayPlace s cap p = false → exec (.placement w p) s = .next s) ∧
    (mayPlace s cap p = true →
      (platOf s p).state = .free ∧ (platOf s p).defd = true ∧ (platOf s p).h = cap.h ∧ (platOf s p).w = cap.w ∧
      (platOf s p).drain = false ∧ s.drain = false ∧ s.outOfService = false ∧
      ∃ (t : State) (L : Nat) (l : Launch), exec (.placement w p) s = .next t ∧ t.waitList = s.waitList.eraseIdx w ∧
        (platOf t p).state = .placing ∧ OnPlat t p L l ∧ (platOf t p).tag ≠ 0 ∧ launchOf s L = none ∧ l.cap = cap ∧ l.loaded = false ∧
        (∀ h ∈ (platOf s p).cores, ∀ n, slotOf t h n = Slot.reset) ∧
        (∀ h ∈ (platOf s p).cores, h < Config.nCompute → (∀ c ∈ (hartOf s h).ctxs, c.launch ≠ carriedLaunch p) →
          ∀ a, cap.residue = true ∨ a < cap.argoff ∨ cap.argoff + cap.args.length ≤ a → Memory.read (ctxOf t h L).scratch a = 0))) ∧
  (∀ (s : State) (p L : Nat) (l : Launch), OnPlat s p L l →
    ((platOf s p).state ≠ .placing ∨ l.loaded = true → exec (.extentLoading p) s = .next s) ∧
    ((platOf s p).state = .placing → l.loaded = false →
      (∀ code d, loadRefused s l.cap l.cap.table (codeImage s l.cap) = some (code, d) →
        ∃ t, exec (.extentLoading p) s = .next t ∧ EndedBy s t L l code d .zeroing) ∧
      (loadRefused s l.cap l.cap.table (codeImage s l.cap) = none → l.cap.residue = false →
        ∃ (t : State) (k : Launch), exec (.extentLoading p) s = .next t ∧ launchOf t L = some k ∧ k.loaded = true ∧
          k.extents = l.cap.table ∧ (platOf t p).state = .running ∧
          ∀ h ∈ startCores l.cap (platOf s p), ∃ it ∈ t.net, it.op = .msg h (startHeader l.cap.startch) [] ∧ it.src.launch = L) ∧
      (loadRefused s l.cap l.cap.table (codeImage s l.cap) = none → l.cap.residue = true →
        ∃ (t : State) (k : Launch), exec (.extentLoading p) s = .next t ∧ launchOf t L = some k ∧ k.loaded = true ∧
          k.extents = l.cap.table ∧ (platOf t p).state = .placing)) ∧
    (quiescent s L l = false ∨ l.halted = true ∨ l.cancelled = true → exec (.launchComplete p) s = .next s) ∧
    ((platOf s p).state = .running → l.halted = false → l.cancelled = false → quiescent s L l = true →
      ∃ t, exec (.launchComplete p) s = .next t ∧ launchOf t L = none ∧ (platOf t p).state = .zeroing ∧
        (l.pending = none → l.cap.counted = true → ∀ c ∈ l.cap.counters, (counterOf t c).ended = (counterOf s c).ended + 1 ∧
          (counterOf t c).done = (counterOf s c).done + 1 ∧ (counterOf t c).live = (counterOf s c).live - 1 ∧
          (counterOf t c).last = (counterOf s c).last)) ∧
    ((platOf s p).state = .running → l.cancelled = true → exec (.cancelledLaunchEnd p) s =
      .next (putPlat { s with gzChanged := true } p { platOf s p with state := .quiescing, quiesce := 2 })) ∧
    ((platOf s p).state = .quiescing → (platOf s p).quiesce = 2 → hangIdle s L l = true → allStill s L = true →
      ∃ t, exec (.cancelledLaunchEnd p) s = .next t ∧ EndedBy s t L l codePreempted 0x001 .zeroing) ∧
    ((platOf s p).state ≠ .running ∨ l.cancelled = false → (platOf s p).state ≠ .quiescing ∨ (platOf s p).quiesce ≠ 2 ∨
      hangIdle s L l = false ∨ allStill s L = false → exec (.cancelledLaunchEnd p) s = .next s) ∧
    (l.idleSince = none ∨ hangs s L l = false ∨ budgetEnds s L = true ∨ barrierReady s L l = true →
      exec (.hangDetected p) s = .next s) ∧
    (∀ c, l.idleSince = some c →
      (s.cycle < c + 8192 → exec (.hangDetected p) s = .next s) ∧
      (c + 8192 ≤ s.cycle → hangs s L l = true → budgetEnds s L = false → barrierReady s L l = false →
        ∃ (t : State) (h : Nat) (d : BitVec 12) (a : Word),
        exec (.hangDetected p) s = .next t ∧ KilledBy s t L h l ⟨codeHang, d, a⟩ s.faultLog ∧
        d.toNat % 16 = (hangSite s L).2 % 16 ∧ h = (hangSite s L).1))) ∧
  (∀ (s : State) (p : Nat), let P := platOf s p
    (P.state ≠ .zeroing → exec (.platZeroingComplete p) s = .next s) ∧
    (P.state = .zeroing → P.retiring = false → P.onward = none → ∃ t, exec (.platZeroingComplete p) s = .next t ∧
      platOf t p = { P with state := .free, tag := 0 } ∧
      t = { s with plats := t.plats, harts := t.harts, llc := t.llc, gzChanged := true } ∧
      t.harts = s.harts.map (fun x => (x.1, { x.2 with ctxs := x.2.ctxs.filter fun c => c.launch ≠ carriedLaunch p })) ∧
      t.llc = s.llc.map fun x => if x.2 = some P.tag then (x.1, none) else x) ∧
    (P.state = .zeroing → P.retiring = true → ∃ t, exec (.platZeroingComplete p) s = .next t ∧ (platOf t p).state = .offline ∧
      (platOf t p).retiring = false ∧ (∀ cap, P.onward = some cap → t.waitList = s.waitList ++ [{ cap with bound := none }])) ∧
    (∀ cap, P.state = .zeroing → P.retiring = false → P.onward = some cap → roomOnward s cap p = false →
      exec (.platZeroingComplete p) s = .next s) ∧
    (∀ cap, P.state = .zeroing → P.retiring = false → P.onward = some cap → roomOnward s cap p = true →
      ∃ (t : State) (L : Nat) (l : Launch), exec (.platZeroingComplete p) s = .next t ∧ (platOf t p).state = .placing ∧
        OnPlat t p L l ∧ l.cap = cap))

/-- R154, R193, R194, R204 and R340: a running capsule that allows it goes to QUIESCING for a waiting capsule of its shape with a lower
queue number, which no free plat takes, where no other such capsule has a higher number; once still it goes to SPILLING; the
spill is written with the next serial, its counters take PREEMPTED, and its plat goes to ZEROING, but a cancel that comes before ends it
without a spill; a residue whose header has been checked is restored at the ply of its spill, and runs without a start message.
It rests on choices of the model: log 14, log 23, log 46, log 47, log 64, log 79. -/
def Obligations.PreemptionAndResidues : Prop :=
  ∀ (s : State) (p L : Nat) (l : Launch), OnPlat s p L l →
    ((platOf s p).state ≠ .running ∨ l.cap.preempt = false ∨ l.halted = true ∨ l.cancelled = true ∨
      (∀ cap ∈ s.waitList, (platOf s p).fits cap = false ∨ l.cap.origin.rank ≤ cap.origin.rank ∨ ∃ q ∈ s.plats, mayPlace s cap q.1 = true) →
      exec (.preemptionRequest p) s = .next s) ∧
    (∀ cap, s.waitList.find? (chosenFor s l) = some cap →
      (platOf s p).fits cap = true ∧ cap.origin.rank < l.cap.origin.rank ∧ (∀ q ∈ s.plats, mayPlace s cap q.1 = false) ∧
      (∀ x ∈ s.launches, yields s cap x.2 = true → x.2.cap.origin.rank ≤ l.cap.origin.rank) ∧
      ∃ t, exec (.preemptionRequest p) s = .next t ∧ (platOf t p).state = .quiescing ∧ (platOf t p).quiesce = 1 ∧
        (platOf t p).claim = some cap ∧ launchOf t L = some { l with preempting := !barrierBegun s L }) ∧
    ((platOf s p).state = .quiescing → (platOf s p).quiesce = 1 → spillReady s L l = true →
      exec (.preemptionSpill p) s = .next (putPlat { s with gzChanged := true } p { platOf s p with state := .spilling })) ∧
    ((platOf s p).state ≠ .spilling → spillReady s L l = false → exec (.preemptionSpill p) s = .next s) ∧
    ((platOf s p).state = .spilling → l.cancelled = true →
      ∃ t, exec (.preemptionSpill p) s = .next t ∧ EndedBy s t L l codePreempted 0x001 .zeroing) ∧
    ((platOf s p).state = .spilling → l.cancelled = false → l.halted = true → exec (.preemptionSpill p) s = .next s) ∧
    (∀ e, (platOf s p).state = .spilling → l.cancelled = false → l.halted = false → l.extent l.cap.spillx = some e →
      ∃ t, exec (.preemptionSpill p) s = .next t ∧ launchOf t L = none ∧ (platOf t p).state = .zeroing ∧
        t.residueSerial = s.residueSerial + 1 ∧
        (l.cap.counted = true → ∀ c ∈ l.cap.counters, (counterOf t c).last = codePreempted ∧
          (counterOf t c).ended = (counterOf s c).ended + 1 ∧ (counterOf t c).done = (counterOf s c).done) ∧
        (∀ q st tag n, l.cap.origin = .queue q st tag n → e.host = false → s.remap = [] → Memory.wf s.hbm = true →
          spillHeaderWord t e 0 = (s.residueSerial + 1).toNat)) ∧
    ((platOf s p).state ≠ .placing ∨ l.loaded = false ∨ l.cap.residue = false → exec (.residueRestore p) s = .next s) ∧
    (∀ e, (platOf s p).state = .placing → l.loaded = true → l.cap.residue = true →
      l.extent l.cap.spillx = some e → ∃ t, exec (.residueRestore p) s = .next t ∧ (platOf t p).state = .running ∧ t.net = s.net ∧
        ∀ h ∈ (platOf s p).cores, (ctxOf t h L).ply =
          BitVec.ofNat 16 (imageWord (extentBytes s e 0 (spillSize l.cap)) 6))

/-! ## Errors, pages, self-tests, pairs and replicas -/

/-- R58 to R61 and R178: a correctable error is counted; an uncorrectable one makes an HBM granule poison, refetches a clean copy, and
fences the plat of a dirty one, or of a scratchpad, that is RUNNING or QUIESCING; a line without such a plat becomes poison; a page's migration copies its sub-blocks and switches the remap; a zeroed range reads as zero;
a fenced plat goes to ZEROING or OFFLINE by its self-test.
It rests on choices of the model: log 3, log 23, log 54, log 62, log 64. -/
def Obligations.ErrorsPagesAndFences : Prop :=
  (∀ (s : State) (place : ErrPlace), exec (.correctableError place) s =
    .next { s with eccCorrectable := s.eccCorrectable + 1, gzChanged := true }) ∧
  (∀ (s : State) (place : ErrPlace), ∃ t, exec (.uncorrectableErrorConsumed place) s = .next t ∧
    t.eccUncorrectable = s.eccUncorrectable + 1 ∧
    (∀ a, place = .hbm a → physAddr s a / 64 ∈ t.poison) ∧
    (∀ c k p, place = .l2 c k → (∀ i, i < 4 → l2Dirty s c (4 * l2Key k + i) = false) →
      platOfCore s ((coresOfCluster c).headD 0) = some p → (clusterOf t c).l2 = SMap.erase (l2Key k) (clusterOf s c).l2 ∧
      ∃ r : FaultRec, r.code = codeTransientEcc ∧ r.at' = s.cycle ∧ t.faultLog = logged r s.faultLog) ∧
    (∀ h k, place = .l1 h k → ((hartOf s h).line k).dirty = 0 → ((hartOf s h).line k).ucls = none →
      ((hartOf t h).line k).shared = none ∧
      (∃ r : FaultRec, r.code = codeTransientEcc ∧ r.at' = s.cycle ∧ t.faultLog = logged r s.faultLog)) ∧
    (∀ h p P, (place = .scratch h 0 ∨
        (∃ k, place = .l1 h k ∧ (((hartOf s h).line k).dirty ≠ 0 ∨ ((hartOf s h).line k).ucls ≠ none)) ∨
        ∃ c k i, place = .l2 c k ∧ i < 4 ∧ l2Dirty s c (4 * l2Key k + i) = true ∧ h = (coresOfCluster c).headD 0) →
      platOfCore s h = some (p, P) →
      (∀ L l, (platOf s p).state = .running ∨ (platOf s p).state = .quiescing → OnPlat s p L l →
        ∃ d, EndedBy s t L l codePlatFenced d .fenced) ∧
      ((platOf s p).state ≠ .running → (platOf s p).state ≠ .quiescing →
        t = { s with eccUncorrectable := s.eccUncorrectable + 1, gzChanged := true })) ∧
    (∀ a tag, place = .llc a → SMap.find (a / 256) s.llc = some (some tag) →
      (∀ p P L l, s.plats.find? (fun x => x.2.live && x.2.tag == tag) = some (p, P) → OnPlat s p L l →
        (platOf s p).state = .running ∨ (platOf s p).state = .quiescing → ∃ d, EndedBy s t L l codePlatFenced d .fenced) ∧
      (s.plats.find? (fun x => x.2.live && x.2.tag == tag) = none →
        (∃ r : FaultRec, r.code = codeUncorrectable ∧ r.addr = BitVec.ofNat 64 (256 * (a / 256)) ∧ r.at' = s.cycle ∧
          t.faultLog = logged r s.faultLog) ∧ t.llc = SMap.erase (a / 256) s.llc ∧
        ∀ i, i < 4 → physAddr s (64 * (4 * (a / 256) + i)) / 64 ∈ t.poison)) ∧
    (∀ a, place = .llc a → (SMap.find (a / 256) s.llc = none ∨ SMap.find (a / 256) s.llc = some none) →
      t.llc = SMap.erase (a / 256) s.llc ∧
      ∃ r : FaultRec, r.code = codeTransientEcc ∧ r.at' = s.cycle ∧ t.faultLog = logged r s.faultLog)) ∧
  (∀ (s : State) (page spare : Nat),
    (∀ m, s.migrations.find? (fun x => x.source == page) = some m →
      (m.next < 16 → exec (.pageRetirement page spare) s =
        .next (putMigration (copyBlock page m.target s m.next) { m with next := m.next + 1 })) ∧
      (16 ≤ m.next → m.dirty = 0 → ∃ t, exec (.pageRetirement page spare) s = .next t ∧ SMap.find page t.remap = some m.target ∧
        (∀ x ∈ t.migrations, x.source ≠ page) ∧ page ∈ t.retiredPages ∧ t.hbm = s.hbm)) ∧
    ((∀ m ∈ s.migrations, m.source ≠ page ∧ m.target ≠ spare) → page < 2 ^ 29 → 0x1fc00000 ≤ spare → spare < 2 ^ 29 →
      pseudoChannel (spare * 4096) = pseudoChannel (physAddr s (4096 * page) / 4096 * 4096) → (∀ r ∈ s.remap, r.2 ≠ spare) →
      exec (.pageRetirement page spare) s = .next { s with migrations := s.migrations ++ [⟨page, spare, 0, 0, 0⟩] }) ∧
    ((∀ m ∈ s.migrations, m.source ≠ page) → spare < 0x1fc00000 → exec (.pageRetirement page spare) s = .next s)) ∧
  (∀ (s : State) (p spare i : Nat), s.remap = [] → Memory.wf s.hbm = true → spare ≠ p → i < 16 → ∀ j, j < 256 →
    Memory.read (copyBlock p spare s i).hbm (spare * 4096 + 256 * i + j) = Memory.read s.hbm (p * 4096 + 256 * i + j)) ∧
  (∀ (s : State) (base len : Nat), base % 4096 = 0 → len % 4096 = 0 →
    (base + len ≤ 0x1fc00000000 → (∀ m ∈ s.migrations, m.source < base / 4096 ∨ (base + len) / 4096 ≤ m.source) →
      ∃ t, exec (.extentZeroingRequest base len) s = .next t ∧
        (∀ a, base ≤ a → a < base + len → Memory.read t.hbm (physAddr t a) = 0) ∧
        (s.remap = [] → ∀ a, a < base ∨ base + len ≤ a → Memory.read t.hbm a = Memory.read s.hbm a)) ∧
    (0x1fc00000000 < base + len → exec (.extentZeroingRequest base len) s = .next s)) ∧
  (∀ (s : State) (p : Nat) (pass : Bool), let P := platOf s p
    (P.state ≠ .fenced → exec (.fenceSelftestComplete p pass) s = .next s) ∧
    (P.state = .fenced → exec (.fenceSelftestComplete p true) s =
      .next (putPlat { s with gzChanged := true } p { P with state := .zeroing })) ∧
    (P.state = .fenced → ∃ (t : State) (r : FaultRec), exec (.fenceSelftestComplete p false) s = .next t ∧
      platOf t p = { P with state := .offline, retiring := false, tag := 0 } ∧ r.code = codeSelftest ∧ r.plat = p ∧
      r.at' = s.cycle ∧ t.faultLog = logged r s.faultLog))

namespace Sys2Proof.Claims

/-- The A-side word waits for the next agreement point of its pair, with nothing of it performed. -/
def WaitsToAgree (i : Instr) (s : State) : Prop := exec i s = .next (markA s .agree)

end Sys2Proof.Claims

/-- R198 to R203: a pair agrees at a point of agreement, which releases what it held and clears fpr; a mismatch puts its slots back
to their checkpoint, under self-test, during which no budget counts; a second one, and a failed self-test, retire the cluster and
end the launch; a digest is compared once an exchange tick has come since it was posted, on a module bound as a replica; one that
differs halts the launch, and one that differs from two others ends it and sets module drain; a full self-test ends the
halted launch. R200: in a pair, an atomic on the own scratchpad or with a return, a load of a repair cell, an append that requests a
reply and a read of a future wait for the next agreement point, with nothing of them performed.
It rests on choices of the model: log 15, log 23, log 56, log 76. -/
def Obligations.PairsAndReplicas : Prop :=
  (∀ s : State, AReady s → (curSlot s).paired = true → (curSlot s).agreed = false →
    (∀ p ∈ amoTable, ∀ (d : ADst) (x y : ASrc) (ord : Ord) (sc : Scope) (s1 s2 : State) (b v : Word), readA x s = .ok (b, s1) →
      readA y s1 = .ok (v, s2) →
      (∀ o, checkPointer s2 b p.2.2 (sizeCodeOf p.2.2) true false false = .ok (.own o) →
        (curCtx s2).writeRefused (curHart s) o p.2.2 = none → WaitsToAgree (p.1 d x y ord sc) s) ∧
      (∀ home o cached, checkPointer s2 b p.2.2 (sizeCodeOf p.2.2) true false false = .ok (.mesh home o cached) → d ≠ .z →
        WaitsToAgree (p.1 d x y ord sc) s)) ∧
    (∀ (d t : ADst) (x : ASrc) (s1 : State) (p : Word), readA x s = .ok (p, s1) → cellCheck p false s1 = .ok ((), s1) →
      WaitsToAgree (.orcLdt d x t) s) ∧
    (∀ (d : ADst) (x y : ASrc) (s1 s2 : State) (p w low : Word), readA x s = .ok (p, s1) → readA y s1 = .ok (w, s2) →
      cellCheck p false s2 = .ok ((), s2) →
      (w.extractLsb' 0 16 = (curCtx s2).ply ∨ w.extractLsb' 0 16 = (curCtx s2).ply - 1 → WaitsToAgree (.orcLds d x y) s) ∧
      (opndLow y s2 = .ok (low, s2) → (curSlot s).answering = none → d ≠ .z → WaitsToAgree (.orcApp d x y) s)) ∧
    (∀ (d : ADst) (x : ASrc) (s1 : State) (p : Word) (home o : Nat) (cached : Bool), readA x s = .ok (p, s1) →
      checkPointer s1 p 8 3 false false false = .ok (.mesh home o cached) → WaitsToAgree (.futRd d x) s)) ∧
  (∀ (s : State) (h : Nat),
    (agreementDue s h = false → exec (.agreementPoint h) s = .next s) ∧
    (agreementDue s h = true → (hartOf s h).fpr = (hartOf s (h + 1)).fpr → ∃ t, exec (.agreementPoint h) s = .next t ∧
      (hartOf t h).commit = [] ∧ (hartOf t h).sinceAgree = 0 ∧ (hartOf t h).fpr = 0 ∧ (hartOf t (h + 1)).fpr = 0 ∧
      (hartOf t h).mismatched = false ∧ (hartOf t h).checkpoint = some ⟨(hartOf t h).slots⟩ ∧
      (∀ n, slotOf t h n = (match (slotOf s h n).aWait with
        | some .commit => { slotOf s h n with aWait := none }
        | some .agree => { slotOf s h n with agreed := true }
        | _ => slotOf s h n)) ∧
      ∀ it ∈ (hartOf s h).commit, (∃ o ∈ (hartOf s h).out, o.id = it.id) → ∃ k ∈ t.net, k.id = it.id ∧ k.op = it.op) ∧
    (agreementDue s h = true → (hartOf s h).fpr ≠ (hartOf s (h + 1)).fpr → (hartOf s h).mismatched = false →
      ∃ t, exec (.agreementPoint h) s = .next t ∧ (hartOf t h).commit = [] ∧ (hartOf t h).selftest = true ∧
        (hartOf t h).testSince = s.cycle ∧ (hartOf t h).mismatched = true ∧ t.net = s.net ∧
        (∀ c, (hartOf s h).checkpoint = some c → ∀ n : Fin 8, (slotOf t h n) = { c.slots[n] with sb := (slotOf t h n).sb })) ∧
    (agreementDue s h = true → (hartOf s h).fpr ≠ (hartOf s (h + 1)).fpr → (hartOf s h).mismatched = true →
      exec (.agreementPoint h) s = .next (persistent s h h)) ∧
    (∀ a b, (hartOf s h).selftest = false → exec (.pairSelftestComplete h a b) s = .next s) ∧
    ((hartOf s h).selftest = true →
      (∃ t, exec (.pairSelftestComplete h true true) s = .next t ∧ (hartOf t h).selftest = false ∧
        (∀ n, (slotOf s h n).running = true →
          (slotOf t h n).startCycle = (slotOf s h n).startCycle + (s.cycle - (hartOf s h).testSince)) ∧
        ∃ r : FaultRec, r.code = codeTransientEcc ∧ r.core = h ∧ r.at' = s.cycle ∧ t.faultLog = logged r s.faultLog) ∧
      (∀ b, exec (.pairSelftestComplete h false b) s = .next (persistent s h h)) ∧
      exec (.pairSelftestComplete h true false) s = .next (persistent s h (h + 1))) ∧
    (∀ (core p L : Nat) (P : PlatEntry) (l : Launch), let u := retireCluster s (clusterOfCore h)
      clusterOfCore h ∈ u.retiredClusters ∧
      (platOfCore u h = some (p, P) → P.launch = some L → launchOf s L = some l →
        ∃ (d : BitVec 12) (a : Word), KilledBy u (persistent s h core) L core l ⟨codePairMismatch, d, a⟩ u.faultLog))) ∧
  (∀ (s : State) (p L : Nat) (l : Launch) (n : BitVec 32) (x : BitVec 256), OnPlat s p L l →
    ((∀ d ∈ l.digests, d.1 ≠ n) → ∀ third, exec (.digestCompare p n x third) s = .next s) ∧
    (∀ own third, l.digests.find? (fun d => d.1 == n) = some own →
      s.replicated = false ∨ (∀ q ∈ s.ports, q.2.tickAt ≤ own.2.2) → exec (.digestCompare p n x third) s = .next s) ∧
    (∀ own, l.digests.find? (fun d => d.1 == n) = some own → s.replicated = true → (∃ q ∈ s.ports, own.2.2 < q.2.tickAt) →
      let t := putLaunch s L { l with digests := l.digests.filter fun d => d.1 != n }
      (∀ third, own.2.1 = x ∨ third = some own.2.1 → exec (.digestCompare p n x third) s = .next t) ∧
      (∀ third, own.2.1 ≠ x → third ≠ some own.2.1 → third ≠ some x → exec (.digestCompare p n x third) s =
        .next (putLaunch t L { l with digests := l.digests.filter fun d => d.1 != n, halted := true })) ∧
      (own.2.1 ≠ x → ∃ u, exec (.digestCompare p n x (some x)) s = .next u ∧ launchOf u L = none ∧ u.drain = true)) ∧
    (∀ pass, l.halted = false → exec (.fullSelftestComplete p pass) s = .next s) ∧
    (l.halted = true →
      (∃ t, exec (.fullSelftestComplete p true) s = .next t ∧ EndedBy s t L l codePreempted 0x002 .zeroing) ∧
      (∃ t, exec (.fullSelftestComplete p false) s = .next t ∧ launchOf t L = none ∧ t.outOfService = true ∧
        t.grade4 = codeDeviceFatal)))

/-! ## Survey firmware, host registers and links -/

namespace Sys2Proof.Claims

/-- The events that perform the commands of the survey ring, with their OP. -/
noncomputable def commandTable : List (Instr × Nat) :=
  [(.setModuleDrain, 0x01), (.clearModuleDrain, 0x02), (.setPlatDrain, 0x03), (.clearPlatDrain, 0x04), (.publishSnapshotNow, 0x05),
   (.registerGrant, 0x10), (.configureUserQueue, 0x11), (.raiseMinimumSerial, 0x12)]

end Sys2Proof.Claims

/-- R136, R148 and R180 to R182: the command of the oldest doorbell is performed by the event of its OP, and its status is written
back; an invalid one gets RESERVED_FIELD.
It rests on choices of the model: log 29, log 43, log 50, log 61. -/
def Obligations.SurveyCommands : Prop :=
  (∀ (s : State) (d : Word) (ds : List Word), s.doorbells = d :: ds →
    let w := commandWords s d
    let u : State := { s with doorbells := ds }
    (cmdInvalid d w = true → exec .invalidSurveyCommand s = .next (commandStatus d w codeReserved 0 u) ∧
      ∀ c ∈ commandTable, exec c.1 s = .next s) ∧
    (cmdInvalid d w = false → exec .invalidSurveyCommand s = .next s ∧
      (∀ c ∈ commandTable, cmdOp w ≠ c.2 → exec c.1 s = .next s) ∧
      (cmdOp w = 0x01 → ∃ t, exec .setModuleDrain s = .next t ∧ t.drain = true ∧ t.waitList = [] ∧ t.doorbells = ds) ∧
      (cmdOp w = 0x02 → exec .clearModuleDrain s = .next (commandStatus d w 0 0 { u with drain := false, gzChanged := true })) ∧
      (∀ i ∈ [Instr.setPlatDrain, .clearPlatDrain], cmdOp w = (if i = .setPlatDrain then 0x03 else 0x04) →
        (platOf s (w[1].extractLsb' 0 10).toNat).defd = false → exec i s = .next (commandStatus d w codeBounds 0 u)) ∧
      (cmdOp w = 0x03 → (platOf s (w[1].extractLsb' 0 10).toNat).defd = true →
        ∃ t, exec .setPlatDrain s = .next t ∧ (platOf t (w[1].extractLsb' 0 10).toNat).drain = true) ∧
      (cmdOp w = 0x04 → (platOf s (w[1].extractLsb' 0 10).toNat).defd = true →
        ∃ t, exec .clearPlatDrain s = .next t ∧ (platOf t (w[1].extractLsb' 0 10).toNat).drain = false) ∧
      (cmdOp w = 0x05 → ∃ t, exec .publishSnapshotNow s = .next t ∧ t.gzed = s.gzed + 1 ∧ t.doorbells = ds) ∧
      (cmdOp w = 0x10 → let g := hostBytes s w[1].toNat 9984
        let root := Config.operatorRootOf s.measured
        (∀ x, grantSigned root g = some x → exec .registerGrant s = .next (commandStatus d w codeGrant x u)) ∧
        (grantSigned root g = none → serialRevoked s (grantOwnerOf g) (grantSerial g) = true →
          exec .registerGrant s = .next (commandStatus d w codeGrant 0x005 u)) ∧
        (grantSigned root g = none → serialRevoked s (grantOwnerOf g) (grantSerial g) = false → rangesOk g = false →
          exec .registerGrant s = .next (commandStatus d w codeGrant 0x006 u)) ∧
        (grantSigned root g = none → serialRevoked s (grantOwnerOf g) (grantSerial g) = false → rangesOk g = true →
          ∃ t, exec .registerGrant s = .next t ∧ ∃ x ∈ t.grants, x.bytes = g)) ∧
      (cmdOp w = 0x11 → ∃ (t : State) (q : UserQueue), exec .configureUserQueue s = .next t ∧
        SMap.find (w[1].extractLsb' 0 8).toNat t.queues = some q ∧ q.ring = w[2] ∧ q.log2 = (w[1].extractLsb' 8 16).toNat ∧
        q.rdAddr = w[3] ∧ q.rd = 0 ∧ q.wr = 0 ∧ q.error = false) ∧
      (cmdOp w = 0x12 → let owner := w[1].extractLsb' 0 32
        ∃ t, exec .raiseMinimumSerial s = .next t ∧ (∀ c ∈ t.cache, c.owner ≠ owner) ∧
          (SMap.getD t.minSerial owner.toNat 0).toNat = max (SMap.getD s.minSerial owner.toNat 0).toNat w[2].toNat))) ∧
  (∀ (s : State) (d : Word) (w : Vector Word 8) (code : BitVec 16) (detail : BitVec 12), Memory.wf s.hostMem = true →
    hostWord (commandStatus d w code detail s) (d.toNat / 64 * 64 + 56) =
      BitVec.ofNat 64 (code.toNat + 2 ^ 16 + detail.toNat * 2 ^ 20 + (w[0].extractLsb' 32 32).toNat * 2 ^ 32)) ∧
  (∀ s : State, s.doorbells = [] → exec .invalidSurveyCommand s = .next s ∧ ∀ c ∈ commandTable, exec c.1 s = .next s)

/-- R1, R18, R40, R177, R178, R182, R183, R186 and R188: host writes to BAR0, the publication of the gazetteer, the definition of a plat,
the retirement of a cluster, the entry into grade 4, which ends the launches of every plat, and boot, which measures module flash.
It rests on choices of the model: log 50, log 52, log 53, log 61. -/
def Obligations.SurveyAndBoot : Prop :=
  (∀ (s : State) (off : Nat) (v : BitVec 64),
    (off = 8 → exec (.hostRegisterWrite off v) s = .next { s with gzbase := v &&& ~~~(0xfff : Word) }) ∧
    (off = 0x18 → exec (.hostRegisterWrite off v) s = .next { s with doorbells := s.doorbells ++ [v] }) ∧
    (∀ q, q < 256 → off = 0x1000 + 8 * q → exec (.hostRegisterWrite off v) s = exec (.uqwiNotify q (v.extractLsb' 0 32)) s) ∧
    (off ≠ 8 → off ≠ 0x18 → off < 0x1000 ∨ 0x1800 ≤ off ∨ off % 8 ≠ 0 → exec (.hostRegisterWrite off v) s = .next s)) ∧
  (∀ s : State, ∃ t, exec .gazetteerPublish s = .next t ∧ t.gzed = s.gzed + 1 ∧ t.gzChanged = false ∧
    (Memory.wf s.hostMem = true → let a := s.gzbase.toNat + (s.gzed + 1).toNat % 2 * 0x10000
      hostWord t a = 0x01545a474e ∧ hostWord t (a + 8) = s.gzed + 1 ∧ hostWord t (a + 24) = s.mstat)) ∧
  (∀ (s : State) (p x4 y2 w h r : Nat), let P := platOf s p
    (p < 1024 → P.state = .free ∨ P.state = .offline → 0 < w → 0 < h → x4 + w ≤ 256 → y2 + h ≤ 320 → r < 65536 →
      (∀ q ∈ s.plats, q.1 ≠ p → q.2.defd = true → rectsMeet q.2 x4 y2 w h = false) →
      ∃ t, exec (.platDefine p x4 y2 w h r) s = .next t ∧ platOf t p =
        { P with state := .free, defd := true, x4 := x4, y2 := y2, w := w, h := h, rbudget := BitVec.ofNat 16 r }) ∧
    (1024 ≤ p ∨ (P.state ≠ .free ∧ P.state ≠ .offline) ∨ w = 0 ∨ h = 0 ∨ 256 < x4 + w ∨ 320 < y2 + h →
      exec (.platDefine p x4 y2 w h r) s = .next s)) ∧
  (∀ (s : State) (c : Nat),
    (Config.nClusters ≤ c → exec (.clusterRetire c) s = .next s) ∧
    (c < Config.nClusters → ∃ t, exec (.clusterRetire c) s = .next t ∧ c ∈ t.retiredClusters ∧
      ∀ p P, s.plats.find? (fun x => x.2.hasCluster c) = some (p, P) →
        (P.state = .free → platOf t p = { P with state := .offline }) ∧
        (P.state ≠ .free → P.state ≠ .offline → platOf t p = { P with retiring := true }))) ∧
  (∀ (s : State) (code : BitVec 16),
    (code = codeDeviceFatal ∨ code = codeThermal → ∃ t, exec (.grade4Entry code) s = .next t ∧ t.outOfService = true ∧
      t.grade4 = code ∧ t.waitList = [] ∧
      (∀ p, (platOf s p).defd = true → (platOf t p).state = .fenced)) ∧
    (code ≠ codeDeviceFatal → code ≠ codeThermal → exec (.grade4Entry code) s = .next s)) ∧
  (∀ s : State, ∃ t, exec .moduleBoot s = .next t ∧ t.harts = [] ∧ t.clusters = [] ∧ t.plats = [] ∧ t.launches = [] ∧
    t.waitList = [] ∧ t.counters = [] ∧ t.queues = [] ∧ t.net = [] ∧ t.drain = false ∧ t.outOfService = false ∧ t.tagCtr = 0 ∧
    t.hbm = s.hbm ∧ t.retiredClusters = s.retiredClusters ∧ t.grants = s.grants ∧ t.flash = s.flash ∧ t.measured = s.flash ∧
    ∀ k, k < 32 → (portAt t k).down = !Config.linkSetUp s.flash k)

/-- R134, R135 and R139 to R142: a bad flit is dropped and counted, and its retransmission requested; a requested flit is sent again from the
replay buffer; a good one of an aligned port is held for its tick, and a late one loses
the alignment; without alignment a flit in sequence is delivered, and one that has been delivered is dropped; a tick advances XTICK,
and what it releases is released once its cycle is over; a port is down
after 16 failed retransmissions of one flit that it receives or sends, and its blocks fail with it, those held on the link too; a
collective block times out; alignment is restored between plies.
It rests on choices of the model: log 9, log 56, log 75. -/
def Obligations.LinkPorts : Prop :=
  (∀ (s : State) (k : Nat) (f : Flit), let p := portAt s k
    (32 ≤ k ∨ p.down = true → exec (.linkFlitArrival k f) s = .next s) ∧
    (k < 32 → p.down = false → flitGood f = false → ∃ (t : State) (q : Flit), exec (.linkFlitArrival k f) s = .next t ∧
      t = putPort { s with gzChanged := true } k { p with dropped := p.dropped + 1, retrans := p.retrans + 1,
                                                          failures := (portAt t k).failures, wire := p.wire ++ [q] } ∧
      SMap.getD (portAt t k).failures (flitNumber f) 0 = SMap.getD p.failures (flitNumber f) 0 + 1 ∧
      flitGood q = true ∧ flitType q = 4 ∧ flitFlow q = flitFlow f ∧ flitSeq q = flitSeq f ∧ (flitDmod q).toNat = flitSmod f) ∧
    (k < 32 → p.down = false → flitGood f = true →
      let p' : Port := { p with failures := p.failures.filter fun x => x.1 != flitNumber f }
      (flitType f ≠ 1 → flitType f ≠ 2 → flitType f ≠ 4 → exec (.linkFlitArrival k f) s = .next (putPort s k p')) ∧
      (flitType f = 4 → ∀ g, g ∈ p.replay → flitFlow g = flitFlow f → flitSeq g = flitSeq f → (flitDmod g).toNat = flitSmod f →
        ∃ q ∈ p.replay, flitSeq q = flitSeq f ∧ flitFlow q = flitFlow f ∧
          exec (.linkFlitArrival k f) s = .next (putPort s k { p' with wire := p.wire ++ [q],
                                                                       resent := SMap.modify p.resent (sentNumber q) 0 (· + 1) })) ∧
      (flitType f = 1 ∨ flitType f = 2 →
        let a := flitTick f + BitVec.ofNat 32 tickDelay - portTick s k
        let late := 2 ^ 31 ≤ a.toNat ∨ (a = 0 ∧ s.cycle ≠ p.tickAt)
        (portAligned s k = true → ¬ late → flitOld p f = true → exec (.linkFlitArrival k f) s = .next (putPort s k p')) ∧
        (portAligned s k = true → ¬ late → flitOld p f = false →
          ∃ t, exec (.linkFlitArrival k f) s = .next t ∧ portAt t k = { p' with held := p.held ++ [f] }) ∧
        (portAligned s k = true → late →
          ∃ t, exec (.linkFlitArrival k f) s = .next t ∧ (portAt t k).held = [] ∧
            ∀ h ∈ portCores k, (hartOf t h).aligned = false ∧ (hartOf t h).fallback = true) ∧
        (portAligned s k = false → p.held = [] → flitOld p f = true → exec (.linkFlitArrival k f) s = .next (putPort s k p')) ∧
        (portAligned s k = false → p.held = [] → flitSeq f = SMap.getD p.expect (flitKey f) 0 →
          (∀ n ∈ p.beyond, n / 2 ^ 32 ≠ flitKey f) → ∃ t, exec (.linkFlitArrival k f) s = .next t ∧ (portAt t k).held = [] ∧
            SMap.getD (portAt t k).expect (flitKey f) 0 = flitSeq f + 1)))) ∧
  (∀ (s : State) (k : Nat),
    (k < 32 → (portAt s k).tickAt + tickLength ≤ s.cycle → ∃ t, exec (.exchangeTick k) s = .next t ∧
      (∀ h ∈ portCores k, (hartOf t h).xtick = (hartOf s h).xtick + 1) ∧ (portAt t k).tickAt = s.cycle ∧
      (portAligned s k = true → (portAt t k).held = (portAt s k).held.filter fun f => ahead (portTick s k) f != 0)) ∧
    (∀ p, SMap.find k s.ports = some p → portAligned s k = true → p.tickAt < s.cycle →
      ∀ f ∈ (portAt (settlePorts s) k).held, ahead (portTick s k) f ≠ 0) ∧
    (32 ≤ k ∨ s.cycle < (portAt s k).tickAt + tickLength → exec (.exchangeTick k) s = .next s) ∧
    (k < 32 → (portAt s k).down = false → (∃ x ∈ (portAt s k).failures ++ (portAt s k).resent, 17 ≤ x.2) →
      ∃ t, exec (.linkDown k) s = .next t ∧ (portAt t k).down = true ∧ (∀ c ∈ t.collectives, portOfCore c.hart ≠ k) ∧
        (portAt t k).stalled = [] ∧ ∀ f ∈ (portAt s k).stalled, ∀ L l,
          flitLaunch s (Config.nChannelEnd + 16 * k + Config.flitBlock f % 16) f = some L → launchOf s L = some l → l.cap.jobc ≠ 0 →
          (counterOf t l.cap.jobc).last = codeCollective) ∧
    (32 ≤ k ∨ (portAt s k).down = true ∨ (∀ x ∈ (portAt s k).failures ++ (portAt s k).resent, x.2 < 17) → exec (.linkDown k) s = .next s) ∧
    (k < 32 → portAligned s k = false → atBoundary s k = true → ∃ t, exec (.alignmentRestore k) s = .next t ∧
      ∀ h ∈ portCores k, (hartOf t h).aligned = true ∧ (hartOf t h).fallback = false) ∧
    (portAligned s k = true ∨ atBoundary s k = false → exec (.alignmentRestore k) s = .next s)) ∧
  (∀ (s : State) (k : Nat) (c : Collective), s.collectives[k]? = some c →
    let j := portOfCore c.hart
    let late := portTick s j - c.deadline
    (late.toNat < 2 ^ 31 → late ≠ 0 ∨ (portAt s j).tickAt < s.cycle → ∃ t, exec (.collectiveTimeout k) s = .next t ∧
      ((portAt s j).stalled = [] → t.collectives = s.collectives.filter (fun x => x != c)) ∧
      ∀ l, launchOf s c.launch = some l → l.cap.jobc ≠ 0 → (counterOf t l.cap.jobc).last = codeCollective) ∧
    (2 ^ 31 ≤ late.toNat ∨ (late = 0 ∧ s.cycle ≤ (portAt s j).tickAt) → exec (.collectiveTimeout k) s = .next s))

/-! ## A step, decoding, reset and the memories -/

namespace Sys2Proof.Claims

/-- What a default turn adds around a word: one cycle passes, the other side is next, and the budgets and the hang intervals are
brought up to date (R16, R176, R192). -/
def around (o : Host.Outcome State Fault Refusal) : Host.Outcome State Fault Refusal :=
  onNext settleTurn (onNext (fun t => flipSide (tick t)) o)

/-- The current slot may issue: it exists, it runs, and its launch is not halted. -/
def MayIssue (s : State) : Prop :=
  curHart s < Config.nHarts ∧ (curSlot s).running = true ∧ ∀ l, launchOf s (curLaunch s) = some l → l.halted = false

end Sys2Proof.Claims

/-- R106, R205, R206, R221, R224, R241 and R307: with an empty agenda a step runs the instruction that the word of the current side
decodes to: the C-word at pc, or the X-word of the next bundle of the path; a lone bundle's other word acts as nop.x; the row of
sys.resume is the one that ACT of S selects; a word that decodes to nothing raises its fault; a late fault, and the end of the code
window, come first. Which agent's turn it is, is the model's choice (log 2): an agenda of turns takes them in order. -/
def Obligations.StepRunsDecodedWord : Prop :=
  (∀ s : State, s.agenda = [] → MayIssue s → s.cur.2.2 = .aSide →
    let w := (bundleAt s (curLaunch s) (curSlot s).pc).toNat
    ((curSlot s).nextLate ≠ none → step s = around (exec (.lateFaultDelivery (curHart s) (curNum s)) s)) ∧
    ((curSlot s).nextLate = none → codeLen s (curLaunch s) ≤ (curSlot s).pc →
      step s = around (exec (.codeEndFallthrough (curHart s) (curNum s)) s)) ∧
    ((curSlot s).nextLate = none → (curSlot s).pc < codeLen s (curLaunch s) →
      (∀ i, decodeC w = .ok i → (∀ x y, i ≠ .sysResumeReturn x y) → step s = around (exec i s)) ∧
      (∀ x y v t, decodeC w = .ok (.sysResumeReturn x y) → readA x s = .ok (v, t) →
        step s = around (exec (match (v.extractLsb' 0 2).toNat with
          | 0 => .sysResumeReturn x y
          | 1 => .sysResumeRedo x y
          | 2 => .sysResumeDiscard x y
          | _ => .sysResumeComplete x y) s)) ∧
      (∀ f, decodeC w = .error f → (curSlot s).path.length < 64 → (curSlot s).sleeping = false → pairStall s = false →
        step s = around (.next (takeTrap s s .aSide (decodeFaultInfo f)))))) ∧
  (∀ (s : State) (b : Nat), s.agenda = [] → MayIssue s → s.cur.2.2 = .eSide → (curSlot s).ePos = some b →
    let w := (bundleAt s (curLaunch s) b).toNat
    (isLone w = true → step s = around (exec .nopX s)) ∧
    (∀ i, isLone w = false → decodeX (w / 2 ^ 32) = .ok i → step s = around (exec i s)) ∧
    (∀ f, isLone w = false → decodeX (w / 2 ^ 32) = .error f → (curSlot s).paired = false →
      step s = around (.next (takeTrap s s .eSide (decodeFaultInfo f))))) ∧
  (∀ (s : State) (ts : List Turn), let u : State := { s with agenda := ts }
    (∀ i, s.agenda = .event i :: ts → step s = onNext settleTurn (exec i u)) ∧
    (∀ n, s.agenda = .pass n :: ts → step s = .next (settleTurn { u with cycle := s.cycle + n })) ∧
    (∀ f, s.agenda = .firmware f :: ts → step s = .next (settleTurn (runFirmware f u))) ∧
    (∀ k flow ftype cells blen dmod body, s.agenda = .transmit k flow ftype cells blen dmod body :: ts →
      step s = .next (settleTurn (transmit k flow ftype cells blen dmod body u))) ∧
    (∀ h n side i, s.agenda = .word h n side :: ts → let t : State := { u with cur := (h, n, side) }
      MayIssue t → (slotOf s h n).nextLate = none → (slotOf s h n).pc < codeLen s (slotOf s h n).ctx → side = .aSide →
      decodeC (bundleAt s (slotOf s h n).ctx (slotOf s h n).pc).toNat = .ok i → (∀ x y, i ≠ .sysResumeReturn x y) →
      step s = onNext settleTurn (exec i t)))

/-- R205 to R211 and R344: the word that the encoder gives a well-formed instruction decodes to that instruction, with every operand at
every value that the encoding admits; the four acts of sys.resume share one word. -/
def Obligations.EncodeDecode : Prop :=
  ∀ i : Instr, WellFormed i = true →
    (∀ b, encodeC i = some b → b < 2 ^ 64 ∧
      decodeC b = .ok (match i with
        | .sysResumeRedo x y => .sysResumeReturn x y
        | .sysResumeDiscard x y => .sysResumeReturn x y
        | .sysResumeComplete x y => .sysResumeReturn x y
        | j => j)) ∧
    (∀ w, encodeX i = some w → w < 2 ^ 32 ∧ decodeX w = .ok i)

/-- R205, R206, R208, R209, R211 to R216: words written out from their encodings decode to the instructions that they stand for. -/
def Obligations.DecodedWords : Prop :=
  decodeC 0x0433fffc = .ok (.ctlLoop 3 (-4)) ∧ decodeC 0x04000014 = .ok (.ctlCall 20) ∧
  decodeC 0x03640005 = .ok (.brNz .cq 5) ∧ decodeC 0x00408803 = .ok (.ctlWait (.a 4) (.a 1) (.a 2)) ∧
  decodeC 0x1010ffff = .ok (.aluiAddi (.a 1) (.a 1) (-1)) ∧ decodeC 0x18210003 = .ok (.aluiSlli (.a 2) (.a 2) 3) ∧
  decodeC 0x80000000e0500001 = .ok (.liZx (.a 5) 0x80000000) ∧ decodeC 0x00000001e0528002 = .ok (.liHi (.a 5) (.a 5) 1) ∧
  decodeX 0x06c11017 = .ok (.iaSlt .cq (.e 1) (.e 2)) ∧ decodeC 0x3af00010 = .ok (.sysRdsr (.a 15) 0x010) ∧
  decodeC 0x3c018001 = .ok (.sysWrsr (.a 3) 1) ∧ decodeC 0x38078006 = .ok (.sysFail (.a 15)) ∧
  decodeC 0x380ffc00 = .ok (.sysResumeReturn .z .z)

/-- R18, R177, R180, R183 and R188: right after reset nothing is placed, every counter, table and queue is empty, nothing is drained or
out of service, and the fault log is empty; every memory is in canonical form.
It rests on choices of the model: log 1, log 3. -/
def Obligations.ResetValues : Prop :=
  let s := State.reset
  (∀ L, launchOf s L = none) ∧ (∀ p, (platOf s p).state = .free ∧ (platOf s p).defd = false ∧ (platOf s p).launch = none) ∧
  (∀ c, (counterOf s c).ended = 0 ∧ (counterOf s c).done = 0 ∧ (counterOf s c).live = 0 ∧ (counterOf s c).last = 0) ∧
  (∀ h n, (slotOf s h n).running = false) ∧ s.waitList = [] ∧ s.grants = [] ∧ s.cache = [] ∧ s.faultLog = [] ∧ s.drain = false ∧
  s.outOfService = false ∧ s.grade4 = 0 ∧ s.tagCtr = 0 ∧ s.net = [] ∧ s.memOk = true

/-- The model's own invariant (log 3): a step keeps every memory, each core's scratchpads, HBM and host memory, in canonical form. -/
def Obligations.MemoriesStayCanonical : Prop :=
  ∀ s t : State, s.memOk = true → step s = .next t → t.memOk = true
end

