-- ==== Sys2Proof/Laws/Encoding.lean ====
section
/-! SUPPORT. Encoding and decoding agree: the fields of an encoded word of each layout (spec/12 R205 to R209), each operand
code decoded (R211, R344), and each decoder shape on the fields that it reads. -/

namespace Sys2Proof

/-! ## Operand codes -/

@[simp] theorem decASrc_enc (x : ASrc) : decASrc (encASrc x) = some x := by
  cases x with
  | a n => simp [decASrc, encASrc]
  | sq n => revert n; decide
  | sm n => revert n; decide
  | cq => rfl
  | z => rfl
theorem encASrc_lt (x : ASrc) : encASrc x < 32 := by cases x <;> simp [encASrc] <;> omega

@[simp] theorem decADst_enc (x : ADst) : decADst (encADst x) = some x := by
  cases x with
  | a n => simp [decADst, encADst]
  | lq n => revert n; decide
  | sm n => revert n; decide
  | z => rfl
theorem encADst_lt (x : ADst) : encADst x < 32 := by cases x <;> simp [encADst] <;> omega

@[simp] theorem decESrc_enc (x : ESrc) : decESrc (encESrc x) = some x := by
  cases x with
  | e n => simp [decESrc, encESrc]
  | lq n => revert n; decide
  | z => rfl
theorem encESrc_lt (x : ESrc) : encESrc x < 32 := by cases x <;> simp [encESrc] <;> omega

@[simp] theorem decEDst_enc (x : EDst) : decEDst (encEDst x) = some x := by
  cases x with
  | e n => simp [decEDst, encEDst]
  | sq n => revert n; decide
  | cq => rfl
  | z => rfl
theorem encEDst_lt (x : EDst) : encEDst x < 32 := by cases x <;> simp [encEDst] <;> omega

@[simp] theorem decVSrc_enc (x : VSrc) : decVSrc (encVSrc x) = some x := by
  cases x with
  | v n => simp [decVSrc, encVSrc]
  | lq n => revert n; decide
  | z => rfl
theorem encVSrc_lt (x : VSrc) : encVSrc x < 32 := by cases x <;> simp [encVSrc] <;> omega

@[simp] theorem decVDst_enc (x : VDst) : decVDst (encVDst x) = some x := by
  cases x with
  | v n => simp [decVDst, encVDst]
  | sq n => revert n; decide
  | cq => rfl
  | z => rfl
theorem encVDst_lt (x : VDst) : encVDst x < 32 := by cases x <;> simp [encVDst] <;> omega

@[simp] theorem decARegZ_enc (x : ARegZ) : decARegZ (encARegZ x) = some x := by
  cases x with
  | a n => simp [decARegZ, encARegZ]
  | z => rfl
theorem encARegZ_lt (x : ARegZ) : encARegZ x < 32 := by cases x <;> simp [encARegZ]; omega

@[simp] theorem decPred_val (x : Fin 8) : decPred x.val = some x := by simp [decPred]
@[simp] theorem decAReg_val (x : Fin 16) : decAReg x.val = some x := by simp [decAReg]
@[simp] theorem decSize_enc (x : Size) : decSize (encSize x) = some x := by cases x <;> rfl
theorem encSize_lt (x : Size) : encSize x < 8 := by cases x <;> decide
@[simp] theorem decOrd_enc (x : Ord) : decOrd (encOrd x) = x := by cases x <;> rfl
theorem encOrd_lt (x : Ord) : encOrd x < 4 := by cases x <;> decide
@[simp] theorem decScope_enc (x : Scope) : decScope (encScope x) = some x := by cases x <;> rfl
theorem encScope_lt (x : Scope) : encScope x < 8 := by cases x <;> decide
@[simp] theorem decClass_enc (x : OrcClass) : decClass (encClass x) = some x := by cases x <;> rfl
theorem encClass_lt (x : OrcClass) : encClass x < 8 := by cases x <;> decide
@[simp] theorem decFp_enc (x : FpFmt) : decFp (encFp x) = x := by cases x <;> rfl
theorem encFp_lt (x : FpFmt) : encFp x < 4 := by cases x <;> decide
@[simp] theorem decLane_enc (x : LaneW) : decLane (encLane x) = x := by cases x <;> rfl
theorem encLane_lt (x : LaneW) : encLane x < 4 := by cases x <;> decide
/-- A d field that holds a vector register, or a scalar one. -/
theorem decVDst_val (x : Fin 8) : decVDst x.val = some (.v x) := by simp [decVDst]
theorem decEDst_val (x : Fin 16) : decEDst x.val = some (.e x) := by simp [decEDst]

/-! ## Layouts -/

/-- The fields of a C.R word. -/
structure IsCR (w op d s t md mn : Nat) : Prop where
  lt : w < 2 ^ 31
  op : field w 25 6 = op
  d : field w 20 5 = d
  s : field w 15 5 = s
  t : field w 10 5 = t
  md : field w 5 5 = md
  mn : field w 0 5 = mn
theorem cR_is (op d s t md mn : Nat) (h0 : op < 64) (h1 : d < 32) (h2 : s < 32) (h3 : t < 32) (h4 : md < 32) (h5 : mn < 32) :
    IsCR (cR op d s t md mn) op d s t md mn := by constructor <;> simp only [cR, field] <;> omega

/-- The fields of a C.I word. -/
structure IsCI (w op d s imm : Nat) : Prop where
  lt : w < 2 ^ 31
  op : field w 25 6 = op
  d : field w 20 5 = d
  s : field w 15 5 = s
  imm : field w 0 15 = imm
theorem cI_is (op d s imm : Nat) (h0 : op < 64) (h1 : d < 32) (h2 : s < 32) (h3 : imm < 32768) :
    IsCI (cI op d s imm) op d s imm := by constructor <;> simp only [cI, field] <;> omega

/-- The fields of a C.M word. -/
structure IsCM (w op d b sz ord sc off : Nat) : Prop where
  lt : w < 2 ^ 31
  op : field w 25 6 = op
  d : field w 20 5 = d
  s : field w 15 5 = b
  sz : field w 12 3 = sz
  ord : field w 10 2 = ord
  sc : field w 7 3 = sc
  off : field w 0 7 = off
theorem cM_is (op d b sz ord sc off : Nat) (h0 : op < 64) (h1 : d < 32) (h2 : b < 32) (h3 : sz < 8) (h4 : ord < 4) (h5 : sc < 8)
    (h6 : off < 128) : IsCM (cM op d b sz ord sc off) op d b sz ord sc off := by
  constructor <;> simp only [cM, field] <;> omega

/-- The fields of a C.B word. -/
structure IsCB (w op s cnd off : Nat) : Prop where
  lt : w < 2 ^ 31
  op : field w 25 6 = op
  s : field w 20 5 = s
  cnd : field w 17 3 = cnd
  off : field w 0 17 = off
theorem cB_is (op s cnd off : Nat) (h0 : op < 64) (h1 : s < 32) (h2 : cnd < 8) (h3 : off < 131072) :
    IsCB (cB op s cnd off) op s cnd off := by constructor <;> simp only [cB, field] <;> omega

theorem isLone_of_lt {w : Nat} (h : w < 2 ^ 31) : isLone w = false := by
  simp only [isLone, field, beq_eq_false_iff_ne, ne_eq]; omega
theorem decodeC_of_lt {w : Nat} (h : w < 2 ^ 31) : decodeC w = decodeCMajor w := by
  simp only [decodeC, isLone_of_lt h]
  rw [Nat.mod_eq_of_lt (by omega)]; simp

/-- The fields of a lone bundle and of its C-word. -/
structure IsLone (b w op d s mn imm : Nat) : Prop where
  lt : b < 2 ^ 64
  lone : decodeC b = decodeLone w imm
  op : field w 25 6 = op
  d : field w 20 5 = d
  s : field w 15 5 = s
  t : field w 10 5 = 0
  md : field w 5 5 = 0
  mn : field w 0 5 = mn
theorem lone_is (op d s mn imm : Nat) (h0 : op < 64) (h1 : d < 32) (h2 : s < 32) (h3 : mn < 32) (h4 : imm < 4294967296) :
    IsLone (lone op d s mn imm) (lone op d s mn imm % 2 ^ 32) op d s mn imm := by
  have hl : isLone (lone op d s mn imm) = true := by simp only [isLone, lone, cR, field, beq_iff_eq]; omega
  have hi : field (lone op d s mn imm) 32 32 = imm := by simp only [lone, cR, field]; omega
  constructor
  case lone => simp only [decodeC, hl, if_true, hi]
  all_goals (simp only [lone, cR, field]; omega)

/-- The fields of an X.R word. -/
structure IsXR (w op d s t pred md mn : Nat) : Prop where
  lt : w < 2 ^ 32
  op : field w 26 6 = op
  d : field w 21 5 = d
  s : field w 16 5 = s
  t : field w 11 5 = t
  pred : field w 8 3 = pred
  md : field w 6 2 = md
  mn : field w 0 6 = mn
theorem xR_is (op d s t pred md mn : Nat) (h0 : op < 64) (h1 : d < 32) (h2 : s < 32) (h3 : t < 32) (h4 : pred < 8) (h5 : md < 4)
    (h6 : mn < 64) : IsXR (xR op d s t pred md mn) op d s t pred md mn := by
  constructor <;> simp only [xR, field] <;> omega

/-- The fields of an X.I word. -/
structure IsXI (w op d s imm : Nat) : Prop where
  lt : w < 2 ^ 32
  op : field w 26 6 = op
  d : field w 21 5 = d
  s : field w 16 5 = s
  imm : field w 0 16 = imm
theorem xI_is (op d s imm : Nat) (h0 : op < 64) (h1 : d < 32) (h2 : s < 32) (h3 : imm < 65536) :
    IsXI (xI op d s imm) op d s imm := by constructor <;> simp only [xI, field] <;> omega

/-! ## Decoder shapes -/

theorem decC0_of {w op mn : Nat} {i : Instr} (h : IsCR w op 0 0 0 0 mn) :
    decC0 i w = .ok (i) := by
  simp [decC0, cD, cS, cT, cMod, h.d, h.s, h.t, h.md, mbz, bind, Except.bind, pure, Except.pure]

theorem decCS_of {w op mn : Nat} {mk : ASrc → Instr} {s : ASrc} (h : IsCR w op 0 (encASrc s) 0 0 mn) :
    decCS mk w = .ok (mk s) := by
  simp [decCS, cD, cS, cT, cMod, h.d, h.s, h.t, h.md, opnd, mbz, bind, Except.bind, pure, Except.pure]

theorem decCST_of {w op mn : Nat} {mk : ASrc → ASrc → Instr} {s : ASrc} {t : ASrc} (h : IsCR w op 0 (encASrc s) (encASrc t) 0 mn) :
    decCST mk w = .ok (mk s t) := by
  simp [decCST, cD, cS, cT, cMod, h.d, h.s, h.t, h.md, opnd, mbz, bind, Except.bind, pure, Except.pure]

theorem decCDS_of {w op mn : Nat} {mk : ADst → ASrc → Instr} {d : ADst} {s : ASrc} (h : IsCR w op (encADst d) (encASrc s) 0 0 mn) :
    decCDS mk w = .ok (mk d s) := by
  simp [decCDS, cD, cS, cT, cMod, h.d, h.s, h.t, h.md, opnd, mbz, bind, Except.bind, pure, Except.pure]

theorem decC3_of {w op mn : Nat} {mk : ADst → ASrc → ASrc → Instr} {d : ADst} {s : ASrc} {t : ASrc} (h : IsCR w op (encADst d) (encASrc s) (encASrc t) 0 mn) :
    decC3 mk w = .ok (mk d s t) := by
  simp [decC3, cD, cS, cT, cMod, h.d, h.s, h.t, h.md, opnd, mbz, bind, Except.bind, pure, Except.pure]

theorem decMk_of {w op mn : Nat} {mk : ADst → ASrc → ASrc → BitVec 4 → Instr} {d : ADst} {s : ASrc} {t : ASrc} {sp : BitVec 4} {ok : BitVec 4 → Bool} (h : IsCR w op (encADst d) (encASrc s) (encASrc t) sp.toNat mn) (g : ok sp = true) :
    decMk mk ok w = .ok (mk d s t sp) := by
  have a0 : field w 5 4 = field w 5 5 % 16 := by simp only [field]; omega
  have a1 : field w 9 1 = field w 5 5 / 16 := by simp only [field]; omega
  have b0 : sp.toNat % 16 = sp.toNat := by have := sp.isLt; omega
  have b1 : sp.toNat / 16 = 0 := by have := sp.isLt; omega
  simp [decMk, cD, cS, cT, a0, a1, h.d, h.s, h.t, h.md, b0, b1, opnd, mbz, coded, bind, Except.bind, pure, Except.pure, g]

theorem decAlui_of {w op : Nat} {mk : ADst → ASrc → BitVec 15 → Instr} {d : ADst} {s : ASrc} {imm : BitVec 15} (h : IsCI w op (encADst d) (encASrc s) imm.toNat) :
    decAlui mk w = .ok (mk d s imm) := by
  simp [decAlui, cD, cS, h.d, h.s, h.imm, opnd, bind, Except.bind, pure, Except.pure]

theorem decAluiSh_of {w op : Nat} {mk : ADst → ASrc → BitVec 6 → Instr} {d : ADst} {s : ASrc} {sh : BitVec 6} (h : IsCI w op (encADst d) (encASrc s) sh.toNat) :
    decAluiSh mk w = .ok (mk d s sh) := by
  have a0 : field w 6 9 = field w 0 15 / 64 := by simp only [field]; omega
  have a1 : field w 0 6 = field w 0 15 % 64 := by simp only [field]; omega
  have b0 : sh.toNat / 64 = 0 := by have := sh.isLt; omega
  have b1 : sh.toNat % 64 = sh.toNat := by have := sh.isLt; omega
  simp [decAluiSh, cD, cS, a0, a1, h.d, h.s, h.imm, b0, b1, opnd, mbz, bind, Except.bind, pure, Except.pure]

theorem decBr_of {w op cnd : Nat} {mk : ASrc → BitVec 17 → Instr} {s : ASrc} {off : BitVec 17} (h : IsCB w op (encASrc s) cnd off.toNat) :
    decBr mk w = .ok (mk s off) := by
  simp [decBr, cD, h.s, h.off, opnd, bind, Except.bind, pure, Except.pure]

theorem decBr0_of {w op cnd : Nat} {mk : BitVec 17 → Instr} {off : BitVec 17} (h : IsCB w op 0 cnd off.toNat) :
    decBr0 mk w = .ok (mk off) := by
  simp [decBr0, cD, h.s, h.off, mbz, bind, Except.bind, pure, Except.pure]

theorem decLoop_of {w op cnd : Nat} {s : Fin 16} {off : BitVec 17} (h : IsCB w op s.val cnd off.toNat) :
    decLoop w = .ok (.ctlLoop s off) := by
  simp [decLoop, cD, h.s, h.off, opnd, bind, Except.bind, pure, Except.pure]

theorem decLoad_of {w op : Nat} {mk : ADst → ASrc → Size → Ord → Scope → BitVec 7 → Instr} {d : ADst} {b : ASrc} {sz : Size} {ord : Ord} {sc : Scope} {off : BitVec 7} (h : IsCM w op (encADst d) (encASrc b) (encSize sz) (encOrd ord) (encScope sc) off.toNat) (g : loadLegal d (some sz) ord = true) :
    decLoad mk w = .ok (mk d b sz ord sc off) := by
  simp [decLoad, cD, cS, h.d, h.s, h.sz, h.ord, h.sc, h.off, opnd, coded, legal, bind, Except.bind, pure, Except.pure, g]

theorem decStore_of {w op : Nat} {d : ASrc} {b : ASrc} {sz : Size} {ord : Ord} {sc : Scope} {off : BitVec 7} (h : IsCM w op (encASrc d) (encASrc b) (encSize sz) (encOrd ord) (encScope sc) off.toNat) (g : storeLegal d (some sz) ord = true) :
    decStore w = .ok (.memSt d b sz ord sc off) := by
  simp [decStore, cD, cS, h.d, h.s, h.sz, h.ord, h.sc, h.off, opnd, coded, legal, bind, Except.bind, pure, Except.pure, g]

theorem decExtpage_of {w op : Nat} {d : ADst} {b : ASrc} (h : IsCM w op (encADst d) (encASrc b) 3 0 0 0) :
    decExtpage w = .ok (.memExtpage d b) := by
  simp [decExtpage, cD, cS, h.d, h.s, h.sz, h.ord, h.sc, h.off, opnd, mbz, coded, bind, Except.bind, pure, Except.pure]

theorem decAmo_of {w op mn : Nat} {mk : ADst → ASrc → ASrc → Ord → Scope → Instr} {d : ADst} {s : ASrc} {t : ASrc} {ord : Ord} {sc : Scope} (h : IsCR w op (encADst d) (encASrc s) (encASrc t) (encOrd ord * 8 + encScope sc) mn) :
    decAmo mk w = .ok (mk d s t ord sc) := by
  have a0 : field w 5 3 = field w 5 5 % 8 := by simp only [field]; omega
  have a1 : field w 8 2 = field w 5 5 / 8 := by simp only [field]; omega
  have b0 : (encOrd ord * 8 + encScope sc) % 8 = encScope sc := by have := encOrd_lt ord; have := encScope_lt sc; omega
  have b1 : (encOrd ord * 8 + encScope sc) / 8 = encOrd ord := by have := encOrd_lt ord; have := encScope_lt sc; omega
  simp [decAmo, cD, cS, cT, a0, a1, h.d, h.s, h.t, h.md, b0, b1, opnd, coded, bind, Except.bind, pure, Except.pure]

theorem decAmax_of {w op mn : Nat} {mk : ASrc → ASrc → Ord → Scope → Instr} {s : ASrc} {t : ASrc} {ord : Ord} {sc : Scope} (h : IsCR w op 31 (encASrc s) (encASrc t) (encOrd ord * 8 + encScope sc) mn) :
    decAmax mk w = .ok (mk s t ord sc) := by
  have a0 : field w 5 3 = field w 5 5 % 8 := by simp only [field]; omega
  have a1 : field w 8 2 = field w 5 5 / 8 := by simp only [field]; omega
  have b0 : (encOrd ord * 8 + encScope sc) % 8 = encScope sc := by have := encOrd_lt ord; have := encScope_lt sc; omega
  have b1 : (encOrd ord * 8 + encScope sc) / 8 = encOrd ord := by have := encOrd_lt ord; have := encScope_lt sc; omega
  simp [decAmax, cD, cS, cT, a0, a1, h.d, h.s, h.t, h.md, b0, b1, show decADst 31 = some .z from rfl, opnd, coded, legal, bind, Except.bind, pure, Except.pure]

theorem decMaxrd_of {w op mn : Nat} {mk : ADst → ASrc → Ord → Scope → Instr} {d : ADst} {s : ASrc} {ord : Ord} {sc : Scope} (h : IsCR w op (encADst d) (encASrc s) 0 (encOrd ord * 8 + encScope sc) mn) :
    decMaxrd mk w = .ok (mk d s ord sc) := by
  have a0 : field w 5 3 = field w 5 5 % 8 := by simp only [field]; omega
  have a1 : field w 8 2 = field w 5 5 / 8 := by simp only [field]; omega
  have b0 : (encOrd ord * 8 + encScope sc) % 8 = encScope sc := by have := encOrd_lt ord; have := encScope_lt sc; omega
  have b1 : (encOrd ord * 8 + encScope sc) / 8 = encOrd ord := by have := encOrd_lt ord; have := encScope_lt sc; omega
  simp [decMaxrd, cD, cS, cT, a0, a1, h.d, h.s, h.t, h.md, b0, b1, opnd, mbz, coded, bind, Except.bind, pure, Except.pure]

theorem decOrcDecl_of {w op mn : Nat} {s : ASrc} {cls : OrcClass} (h : IsCR w op 0 (encASrc s) 0 (encClass cls) mn) :
    decOrcDecl w = .ok (.orcDecl s cls) := by
  have a0 : field w 5 3 = field w 5 5 % 8 := by simp only [field]; omega
  have a1 : field w 8 2 = field w 5 5 / 8 := by simp only [field]; omega
  have b0 : encClass cls % 8 = encClass cls := by have := encClass_lt cls; omega
  have b1 : encClass cls / 8 = 0 := by have := encClass_lt cls; omega
  simp [decOrcDecl, cD, cS, cT, a0, a1, h.d, h.s, h.t, h.md, b0, b1, opnd, mbz, coded, bind, Except.bind, pure, Except.pure]

theorem decLdt_of {w op mn : Nat} {d : ADst} {s : ASrc} {t : ADst} (h : IsCR w op (encADst d) (encASrc s) (encADst t) 0 mn) :
    decLdt w = .ok (.orcLdt d s t) := by
  simp [decLdt, cD, cS, cT, cMod, h.d, h.s, h.t, h.md, opnd, mbz, bind, Except.bind, pure, Except.pure]

theorem decRdc_of {w op mn : Nat} {d : Fin 16} {s : ASrc} {t : ASrc} (h : IsCR w op d.val (encASrc s) (encASrc t) 0 mn) :
    decRdc w = .ok (.futRdc d s t) := by
  simp [decRdc, cD, cS, cT, cMod, h.d, h.s, h.t, h.md, opnd, mbz, bind, Except.bind, pure, Except.pure]

theorem decSend_of {w op mn : Nat} {mk : BitVec 5 → ASrc → ASrc → BitVec 2 → Instr} {d : BitVec 5} {s : ASrc} {t : ASrc} {pri : BitVec 2} (h : IsCR w op d.toNat (encASrc s) (encASrc t) (pri.toNat * 8) mn) :
    decSend mk w = .ok (mk d s t pri) := by
  have a0 : field w 5 3 = field w 5 5 % 8 := by simp only [field]; omega
  have a1 : field w 8 2 = field w 5 5 / 8 := by simp only [field]; omega
  have b0 : pri.toNat * 8 % 8 = 0 := by have := pri.isLt; omega
  have b1 : pri.toNat * 8 / 8 = pri.toNat := by have := pri.isLt; omega
  simp [decSend, cD, cS, cT, a0, a1, h.d, h.s, h.t, h.md, b0, b1, opnd, mbz, bind, Except.bind, pure, Except.pure]

theorem decReply_of {w op mn : Nat} {d : ASrc} {s : ASrc} {t : ASrc} (h : IsCR w op (encASrc d) (encASrc s) (encASrc t) 0 mn) :
    decReply w = .ok (.msgReply d s t) := by
  simp [decReply, cD, cS, cT, cMod, h.d, h.s, h.t, h.md, opnd, mbz, bind, Except.bind, pure, Except.pure]

theorem decFence_of {w op mn : Nat} {sc : Scope} (h : IsCR w op 0 0 0 (encScope sc) mn) :
    decFence w = .ok (.fenceAll sc) := by
  have a0 : field w 5 3 = field w 5 5 % 8 := by simp only [field]; omega
  have a1 : field w 8 2 = field w 5 5 / 8 := by simp only [field]; omega
  have b0 : encScope sc % 8 = encScope sc := by have := encScope_lt sc; omega
  have b1 : encScope sc / 8 = 0 := by have := encScope_lt sc; omega
  simp [decFence, cD, cS, cT, a0, a1, h.d, h.s, h.t, h.md, b0, b1, mbz, coded, bind, Except.bind, pure, Except.pure]

theorem decMxq_of {w op mn : Nat} {mk : ADst → BitVec 5 → ARegZ → Fin 8 → Instr} {d : ADst} {s : BitVec 5} {t : ARegZ} {acc : Fin 8} {max : Nat} (h : IsCR w op (encADst d) s.toNat (encARegZ t) acc.val mn) (g : decide (s.toNat ≤ max) = true) :
    decMxq mk max w = .ok (mk d s t acc) := by
  have a0 : field w 5 3 = field w 5 5 % 8 := by simp only [field]; omega
  have a1 : field w 8 2 = field w 5 5 / 8 := by simp only [field]; omega
  have b0 : acc.val % 8 = acc.val := by have := acc.isLt; omega
  have b1 : acc.val / 8 = 0 := by have := acc.isLt; omega
  simp [decMxq, cD, cS, cT, a0, a1, h.d, h.s, h.t, h.md, b0, b1, opnd, mbz, legal, bind, Except.bind, pure, Except.pure, of_decide_eq_true g]

theorem decPoll_of {w op mn : Nat} {mk : ADst → ARegZ → Instr} {d : ADst} {s : ARegZ} (h : IsCR w op (encADst d) (encARegZ s) 0 0 mn) :
    decPoll mk w = .ok (mk d s) := by
  simp [decPoll, cD, cS, cT, cMod, h.d, h.s, h.t, h.md, opnd, mbz, bind, Except.bind, pure, Except.pure]

theorem decSleep_of {w op mn : Nat} {mk : ARegZ → Instr} {s : ARegZ} (h : IsCR w op 0 (encARegZ s) 0 0 mn) :
    decSleep mk w = .ok (mk s) := by
  simp [decSleep, cD, cS, cT, cMod, h.d, h.s, h.t, h.md, opnd, mbz, bind, Except.bind, pure, Except.pure]

theorem decReclaim_of {w op mn : Nat} {acc : Fin 8} (h : IsCR w op 0 0 0 acc.val mn) :
    decReclaim w = .ok (.mxqReclaim acc) := by
  have a0 : field w 5 3 = field w 5 5 % 8 := by simp only [field]; omega
  have a1 : field w 8 2 = field w 5 5 / 8 := by simp only [field]; omega
  have b0 : acc.val % 8 = acc.val := by have := acc.isLt; omega
  have b1 : acc.val / 8 = 0 := by have := acc.isLt; omega
  simp [decReclaim, cD, cS, cT, a0, a1, h.d, h.s, h.t, h.md, b0, b1, mbz, bind, Except.bind, pure, Except.pure]

theorem decRcmd_of {w op mn : Nat} {mk : BitVec 5 → ARegZ → Instr} {s : BitVec 5} {t : ARegZ} (h : IsCR w op 0 s.toNat (encARegZ t) 0 mn) (g : decide (s.toNat ≤ 9) = true) :
    decRcmd mk w = .ok (mk s t) := by
  simp [decRcmd, cD, cS, cT, cMod, h.d, h.s, h.t, h.md, opnd, mbz, legal, bind, Except.bind, pure, Except.pure, of_decide_eq_true g]

theorem decCpq_of {w op mn : Nat} {mk : ADst → BitVec 5 → Fin 4 → Instr} {d : ADst} {s : BitVec 5} {q : Fin 4} (h : IsCR w op (encADst d) s.toNat 0 q.val mn) (g : decide (s.toNat ≤ 13) = true) :
    decCpq mk w = .ok (mk d s q) := by
  have a0 : field w 5 2 = field w 5 5 % 4 := by simp only [field]; omega
  have a1 : field w 7 3 = field w 5 5 / 4 := by simp only [field]; omega
  have b0 : q.val % 4 = q.val := by have := q.isLt; omega
  have b1 : q.val / 4 = 0 := by have := q.isLt; omega
  simp [decCpq, cD, cS, cT, a0, a1, h.d, h.s, h.t, h.md, b0, b1, opnd, mbz, legal, bind, Except.bind, pure, Except.pure, of_decide_eq_true g]

theorem decCpqBar_of {w op mn : Nat} {d : ADst} {q : Fin 4} (h : IsCR w op (encADst d) 0 0 q.val mn) :
    decCpqBar w = .ok (.cpqBar d q) := by
  have a0 : field w 5 2 = field w 5 5 % 4 := by simp only [field]; omega
  have a1 : field w 7 3 = field w 5 5 / 4 := by simp only [field]; omega
  have b0 : q.val % 4 = q.val := by have := q.isLt; omega
  have b1 : q.val / 4 = 0 := by have := q.isLt; omega
  simp [decCpqBar, cD, cS, cT, a0, a1, h.d, h.s, h.t, h.md, b0, b1, opnd, mbz, bind, Except.bind, pure, Except.pure]

theorem decRdsr_of {w op : Nat} {d : ADst} {num : BitVec 12} (h : IsCI w op (encADst d) 0 num.toNat) :
    decRdsr w = .ok (.sysRdsr d num) := by
  have a0 : field w 12 3 = field w 0 15 / 4096 := by simp only [field]; omega
  have a1 : field w 0 12 = field w 0 15 % 4096 := by simp only [field]; omega
  have b0 : num.toNat / 4096 = 0 := by have := num.isLt; omega
  have b1 : num.toNat % 4096 = num.toNat := by have := num.isLt; omega
  simp [decRdsr, cD, cS, a0, a1, h.d, h.s, h.imm, b0, b1, opnd, mbz, bind, Except.bind, pure, Except.pure]

theorem decWrsr_of {w op : Nat} {s : ASrc} {num : BitVec 12} (h : IsCI w op 0 (encASrc s) num.toNat) :
    decWrsr w = .ok (.sysWrsr s num) := by
  have a0 : field w 12 3 = field w 0 15 / 4096 := by simp only [field]; omega
  have a1 : field w 0 12 = field w 0 15 % 4096 := by simp only [field]; omega
  have b0 : num.toNat / 4096 = 0 := by have := num.isLt; omega
  have b1 : num.toNat % 4096 = num.toNat := by have := num.isLt; omega
  simp [decWrsr, cD, cS, a0, a1, h.d, h.s, h.imm, b0, b1, opnd, mbz, bind, Except.bind, pure, Except.pure]

theorem decFmtA_of {w op mn : Nat} {fd : BitVec 4} {fa : BitVec 4} {fb : BitVec 4} {scl : BitVec 2} (h : IsCR w op fd.toNat fa.toNat fb.toNat scl.toNat mn) :
    decFmtA w = .ok (.fmtSetA fd fa fb scl) := by
  have a0 : field w 7 3 = field w 5 5 / 4 := by simp only [field]; omega
  have a1 : field w 5 2 = field w 5 5 % 4 := by simp only [field]; omega
  have a2 : field w 14 1 = field w 10 5 / 16 := by simp only [field]; omega
  have a3 : field w 10 4 = field w 10 5 % 16 := by simp only [field]; omega
  have a4 : field w 19 1 = field w 15 5 / 16 := by simp only [field]; omega
  have a5 : field w 15 4 = field w 15 5 % 16 := by simp only [field]; omega
  have a6 : field w 24 1 = field w 20 5 / 16 := by simp only [field]; omega
  have a7 : field w 20 4 = field w 20 5 % 16 := by simp only [field]; omega
  have b0 : scl.toNat / 4 = 0 := by have := scl.isLt; have := fd.isLt; have := fa.isLt; have := fb.isLt; omega
  have b1 : scl.toNat % 4 = scl.toNat := by have := scl.isLt; have := fd.isLt; have := fa.isLt; have := fb.isLt; omega
  have b2 : fd.toNat / 16 = 0 := by have := scl.isLt; have := fd.isLt; have := fa.isLt; have := fb.isLt; omega
  have b3 : fa.toNat / 16 = 0 := by have := scl.isLt; have := fd.isLt; have := fa.isLt; have := fb.isLt; omega
  have b4 : fb.toNat / 16 = 0 := by have := scl.isLt; have := fd.isLt; have := fa.isLt; have := fb.isLt; omega
  have b5 : fd.toNat % 16 = fd.toNat := by have := scl.isLt; have := fd.isLt; have := fa.isLt; have := fb.isLt; omega
  have b6 : fa.toNat % 16 = fa.toNat := by have := scl.isLt; have := fd.isLt; have := fa.isLt; have := fb.isLt; omega
  have b7 : fb.toNat % 16 = fb.toNat := by have := scl.isLt; have := fd.isLt; have := fa.isLt; have := fb.isLt; omega
  simp [decFmtA, a0, a1, a2, a3, a4, a5, a6, a7, h.d, h.s, h.t, h.md, b0, b1, b2, b3, b4, b5, b6, b7, mbz, bind, Except.bind, pure, Except.pure]

theorem decLi_of {b w op mn : Nat} {mk : ADst → BitVec 32 → Instr} {d : ADst} {imm : BitVec 32} (h : IsLone b w op (encADst d) 0 mn imm.toNat) :
    decLi mk w imm.toNat = .ok (mk d imm) := by
  simp [decLi, cD, cS, cT, cMod, h.d, h.s, h.t, h.md, opnd, mbz, bind, Except.bind, pure, Except.pure]

theorem decLiHi_of {b w op mn : Nat} {d : ADst} {s : ASrc} {imm : BitVec 32} (h : IsLone b w op (encADst d) (encASrc s) mn imm.toNat) :
    decLiHi w imm.toNat = .ok (.liHi d s imm) := by
  simp [decLiHi, cD, cS, cT, cMod, h.d, h.s, h.t, h.md, opnd, mbz, bind, Except.bind, pure, Except.pure]

theorem decJmpl_of {b w op mn : Nat} {mk : ASrc → BitVec 32 → Instr} {s : ASrc} {imm : BitVec 32} (h : IsLone b w op 0 (encASrc s) mn imm.toNat) :
    decJmpl mk w imm.toNat = .ok (mk s imm) := by
  simp [decJmpl, cD, cS, cT, cMod, h.d, h.s, h.t, h.md, opnd, mbz, bind, Except.bind, pure, Except.pure]

theorem decSendl_of {b w op mn : Nat} {mk : BitVec 5 → ASrc → BitVec 32 → Instr} {d : BitVec 5} {s : ASrc} {imm : BitVec 32} (h : IsLone b w op d.toNat (encASrc s) mn imm.toNat) :
    decSendl mk w imm.toNat = .ok (mk d s imm) := by
  simp [decSendl, cD, cS, cT, cMod, h.d, h.s, h.t, h.md, opnd, mbz, bind, Except.bind, pure, Except.pure]

theorem decNopX_of {w op mn : Nat} (h : IsXR w op 0 0 0 0 0 mn) :
    decNopX w = .ok (.nopX) := by
  simp [decNopX, xD, xS, xT, xPred, xMod, h.d, h.s, h.t, h.pred, h.md, mbz, bind, Except.bind, pure, Except.pure]

theorem decIa_of {w op mn : Nat} {mk : EDst → ESrc → ESrc → Instr} {d : EDst} {s : ESrc} {t : ESrc} (h : IsXR w op (encEDst d) (encESrc s) (encESrc t) 0 0 mn) :
    decIa mk w = .ok (mk d s t) := by
  simp [decIa, xD, xS, xT, xPred, xMod, h.d, h.s, h.t, h.pred, h.md, opnd, mbz, bind, Except.bind, pure, Except.pure]

theorem decIa2_of {w op mn : Nat} {mk : EDst → ESrc → Instr} {d : EDst} {s : ESrc} (h : IsXR w op (encEDst d) (encESrc s) 0 0 0 mn) :
    decIa2 mk w = .ok (mk d s) := by
  simp [decIa2, xD, xS, xT, xPred, xMod, h.d, h.s, h.t, h.pred, h.md, opnd, mbz, bind, Except.bind, pure, Except.pure]

theorem decIaSel_of {w op mn : Nat} {d : EDst} {s : ESrc} {t : ESrc} {pred : Fin 8} (h : IsXR w op (encEDst d) (encESrc s) (encESrc t) pred.val 0 mn) :
    decIaSel w = .ok (.iaSel d s t pred) := by
  simp [decIaSel, xD, xS, xT, xPred, xMod, h.d, h.s, h.t, h.pred, h.md, opnd, mbz, bind, Except.bind, pure, Except.pure]

theorem decIai_of {w op : Nat} {mk : EDst → ESrc → BitVec 16 → Instr} {d : EDst} {s : ESrc} {imm : BitVec 16} (h : IsXI w op (encEDst d) (encESrc s) imm.toNat) :
    decIai mk w = .ok (mk d s imm) := by
  simp [decIai, xD, xS, h.d, h.s, h.imm, opnd, bind, Except.bind, pure, Except.pure]

theorem decIaiSh_of {w op : Nat} {mk : EDst → ESrc → BitVec 6 → Instr} {d : EDst} {s : ESrc} {sh : BitVec 6} (h : IsXI w op (encEDst d) (encESrc s) sh.toNat) :
    decIaiSh mk w = .ok (mk d s sh) := by
  have a0 : field w 6 10 = field w 0 16 / 64 := by simp only [field]; omega
  have a1 : field w 0 6 = field w 0 16 % 64 := by simp only [field]; omega
  have b0 : sh.toNat / 64 = 0 := by have := sh.isLt; omega
  have b1 : sh.toNat % 64 = sh.toNat := by have := sh.isLt; omega
  simp [decIaiSh, xD, xS, a0, a1, h.d, h.s, h.imm, b0, b1, opnd, mbz, bind, Except.bind, pure, Except.pure]

theorem decLui_of {w op : Nat} {d : EDst} {imm : BitVec 16} (h : IsXI w op (encEDst d) 0 imm.toNat) :
    decLui w = .ok (.iaiLui d imm) := by
  simp [decLui, xD, xS, h.d, h.s, h.imm, opnd, mbz, bind, Except.bind, pure, Except.pure]

theorem decFa_of {w op mn : Nat} {mk : EDst → ESrc → ESrc → FpFmt → Instr} {d : EDst} {s : ESrc} {t : ESrc} {f : FpFmt} (h : IsXR w op (encEDst d) (encESrc s) (encESrc t) 0 (encFp f) mn) :
    decFa mk w = .ok (mk d s t f) := by
  simp [decFa, xD, xS, xT, xPred, xMod, h.d, h.s, h.t, h.pred, h.md, opnd, mbz, bind, Except.bind, pure, Except.pure]

theorem decFaF_of {w op mn : Nat} {mk : Fin 16 → ESrc → ESrc → FpFmt → Instr} {d : Fin 16} {s : ESrc} {t : ESrc} {f : FpFmt} (h : IsXR w op d.val (encESrc s) (encESrc t) 0 (encFp f) mn) :
    decFaF mk w = .ok (mk d s t f) := by
  simp [decFaF, xD, xS, xT, xPred, xMod, h.d, h.s, h.t, h.pred, h.md, decEDst_val, opnd, mbz, eOnly, bind, Except.bind, pure, Except.pure]

theorem decFa2_of {w op mn : Nat} {mk : EDst → ESrc → FpFmt → Instr} {d : EDst} {s : ESrc} {f : FpFmt} (h : IsXR w op (encEDst d) (encESrc s) 0 0 (encFp f) mn) :
    decFa2 mk w = .ok (mk d s f) := by
  simp [decFa2, xD, xS, xT, xPred, xMod, h.d, h.s, h.t, h.pred, h.md, opnd, mbz, bind, Except.bind, pure, Except.pure]

theorem decTblw_of {w op mn : Nat} {s : ESrc} {t : ESrc} (h : IsXR w op 0 (encESrc s) (encESrc t) 0 0 mn) :
    decTblw w = .ok (.cvtTblw s t) := by
  simp [decTblw, xD, xS, xT, xPred, xMod, h.d, h.s, h.t, h.pred, h.md, opnd, mbz, bind, Except.bind, pure, Except.pure]

theorem decPack_of {w op mn : Nat} {d : Fin 8} {s : VSrc} {t : ESrc} (h : IsXR w op d.val (encVSrc s) (encESrc t) 0 1 mn) :
    decPack w = .ok (.cvtPack d s t) := by
  simp [decPack, xD, xS, xT, xPred, xMod, h.d, h.s, h.t, h.pred, h.md, decVDst_val, opnd, mbz, vecOnly, bind, Except.bind, pure, Except.pure]

theorem decUnpk_of {w op mn : Nat} {d : VDst} {s : VSrc} {t : ESrc} (h : IsXR w op (encVDst d) (encVSrc s) (encESrc t) 0 1 mn) :
    decUnpk w = .ok (.cvtUnpk d s t) := by
  simp [decUnpk, xD, xS, xT, xPred, xMod, h.d, h.s, h.t, h.pred, h.md, opnd, mbz, bind, Except.bind, pure, Except.pure]

theorem decPPP_of {w op mn : Nat} {mk : Fin 8 → Fin 8 → Fin 8 → Instr} {d : Fin 8} {s : Fin 8} {t : Fin 8} (h : IsXR w op d.val s.val t.val 0 0 mn) :
    decPPP mk w = .ok (mk d s t) := by
  simp [decPPP, xD, xS, xT, xPred, xMod, h.d, h.s, h.t, h.pred, h.md, opnd, mbz, bind, Except.bind, pure, Except.pure]

theorem decPP_of {w op mn : Nat} {d : Fin 8} {s : Fin 8} (h : IsXR w op d.val s.val 0 0 0 mn) :
    decPP w = .ok (.prNot d s) := by
  simp [decPP, xD, xS, xT, xPred, xMod, h.d, h.s, h.t, h.pred, h.md, opnd, mbz, bind, Except.bind, pure, Except.pure]

theorem decPE_of {w op mn : Nat} {d : Fin 8} {s : ESrc} (h : IsXR w op d.val (encESrc s) 0 0 0 mn) :
    decPE w = .ok (.prSet d s) := by
  simp [decPE, xD, xS, xT, xPred, xMod, h.d, h.s, h.t, h.pred, h.md, opnd, mbz, bind, Except.bind, pure, Except.pure]

theorem decEP_of {w op mn : Nat} {d : EDst} {s : Fin 8} (h : IsXR w op (encEDst d) s.val 0 0 0 mn) :
    decEP w = .ok (.prGet d s) := by
  simp [decEP, xD, xS, xT, xPred, xMod, h.d, h.s, h.t, h.pred, h.md, opnd, mbz, bind, Except.bind, pure, Except.pure]

theorem decPEE_of {w op mn : Nat} {mk : Fin 8 → ESrc → ESrc → Instr} {d : Fin 8} {s : ESrc} {t : ESrc} (h : IsXR w op d.val (encESrc s) (encESrc t) 0 0 mn) :
    decPEE mk w = .ok (mk d s t) := by
  simp [decPEE, xD, xS, xT, xPred, xMod, h.d, h.s, h.t, h.pred, h.md, opnd, mbz, bind, Except.bind, pure, Except.pure]

theorem decEPP_of {w op mn : Nat} {mk : EDst → Fin 8 → Fin 8 → Instr} {d : EDst} {s : Fin 8} {t : Fin 8} (h : IsXR w op (encEDst d) s.val t.val 0 0 mn) :
    decEPP mk w = .ok (mk d s t) := by
  simp [decEPP, xD, xS, xT, xPred, xMod, h.d, h.s, h.t, h.pred, h.md, opnd, mbz, bind, Except.bind, pure, Except.pure]

theorem decVa_of {w op mn : Nat} {mk : VDst → VSrc → VSrc → Fin 8 → LaneW → Instr} {d : VDst} {s : VSrc} {t : VSrc} {pred : Fin 8} {f : LaneW} (h : IsXR w op (encVDst d) (encVSrc s) (encVSrc t) pred.val (encLane f) mn) :
    decVa mk w = .ok (mk d s t pred f) := by
  simp [decVa, xD, xS, xT, xPred, xMod, h.d, h.s, h.t, h.pred, h.md, opnd, bind, Except.bind, pure, Except.pure]

theorem decVa2_of {w op mn : Nat} {mk : VDst → VSrc → Fin 8 → LaneW → Instr} {d : VDst} {s : VSrc} {pred : Fin 8} {f : LaneW} (h : IsXR w op (encVDst d) (encVSrc s) 0 pred.val (encLane f) mn) :
    decVa2 mk w = .ok (mk d s pred f) := by
  simp [decVa2, xD, xS, xT, xPred, xMod, h.d, h.s, h.t, h.pred, h.md, opnd, mbz, bind, Except.bind, pure, Except.pure]

theorem decVaP_of {w op mn : Nat} {mk : Fin 8 → VSrc → VSrc → Fin 8 → LaneW → Instr} {d : Fin 8} {s : VSrc} {t : VSrc} {pred : Fin 8} {f : LaneW} (h : IsXR w op d.val (encVSrc s) (encVSrc t) pred.val (encLane f) mn) :
    decVaP mk w = .ok (mk d s t pred f) := by
  simp [decVaP, xD, xS, xT, xPred, xMod, h.d, h.s, h.t, h.pred, h.md, opnd, bind, Except.bind, pure, Except.pure]

theorem decVaDot_of {w op mn : Nat} {d : Fin 8} {s : VSrc} {t : VSrc} {pred : Fin 8} (h : IsXR w op d.val (encVSrc s) (encVSrc t) pred.val 0 mn) :
    decVaDot w = .ok (.vaDot d s t pred) := by
  simp [decVaDot, xD, xS, xT, xPred, xMod, h.d, h.s, h.t, h.pred, h.md, decVDst_val, opnd, legal, vecOnly, bind, Except.bind, pure, Except.pure]

theorem decVf_of {w op mn : Nat} {mk : VDst → VSrc → VSrc → Fin 8 → FpFmt → Instr} {d : VDst} {s : VSrc} {t : VSrc} {pred : Fin 8} {f : FpFmt} (h : IsXR w op (encVDst d) (encVSrc s) (encVSrc t) pred.val (encFp f) mn) :
    decVf mk w = .ok (mk d s t pred f) := by
  simp [decVf, xD, xS, xT, xPred, xMod, h.d, h.s, h.t, h.pred, h.md, opnd, bind, Except.bind, pure, Except.pure]

theorem decVfF_of {w op mn : Nat} {mk : Fin 8 → VSrc → VSrc → Fin 8 → FpFmt → Instr} {d : Fin 8} {s : VSrc} {t : VSrc} {pred : Fin 8} {f : FpFmt} (h : IsXR w op d.val (encVSrc s) (encVSrc t) pred.val (encFp f) mn) :
    decVfF mk w = .ok (mk d s t pred f) := by
  simp [decVfF, xD, xS, xT, xPred, xMod, h.d, h.s, h.t, h.pred, h.md, decVDst_val, opnd, vecOnly, bind, Except.bind, pure, Except.pure]

theorem decVfP_of {w op mn : Nat} {mk : Fin 8 → VSrc → VSrc → Fin 8 → FpFmt → Instr} {d : Fin 8} {s : VSrc} {t : VSrc} {pred : Fin 8} {f : FpFmt} (h : IsXR w op d.val (encVSrc s) (encVSrc t) pred.val (encFp f) mn) :
    decVfP mk w = .ok (mk d s t pred f) := by
  simp [decVfP, xD, xS, xT, xPred, xMod, h.d, h.s, h.t, h.pred, h.md, opnd, bind, Except.bind, pure, Except.pure]

theorem decVf2_of {w op mn : Nat} {mk : VDst → VSrc → Fin 8 → FpFmt → Instr} {d : VDst} {s : VSrc} {pred : Fin 8} {f : FpFmt} (h : IsXR w op (encVDst d) (encVSrc s) 0 pred.val (encFp f) mn) :
    decVf2 mk w = .ok (mk d s pred f) := by
  simp [decVf2, xD, xS, xT, xPred, xMod, h.d, h.s, h.t, h.pred, h.md, opnd, mbz, bind, Except.bind, pure, Except.pure]

theorem decVxE_of {w op mn : Nat} {mk : VDst → ESrc → Fin 8 → LaneW → Instr} {d : VDst} {s : ESrc} {pred : Fin 8} {f : LaneW} (h : IsXR w op (encVDst d) (encESrc s) 0 pred.val (encLane f) mn) :
    decVxE mk w = .ok (mk d s pred f) := by
  simp [decVxE, xD, xS, xT, xPred, xMod, h.d, h.s, h.t, h.pred, h.md, opnd, mbz, bind, Except.bind, pure, Except.pure]

theorem decRot_of {w op mn : Nat} {d : VDst} {s : VSrc} {t : ESrc} {pred : Fin 8} {f : LaneW} (h : IsXR w op (encVDst d) (encVSrc s) (encESrc t) pred.val (encLane f) mn) :
    decRot w = .ok (.vxRot d s t pred f) := by
  simp [decRot, xD, xS, xT, xPred, xMod, h.d, h.s, h.t, h.pred, h.md, opnd, bind, Except.bind, pure, Except.pure]

theorem decExt_of {w op mn : Nat} {d : EDst} {s : VSrc} {t : ESrc} {f : LaneW} (h : IsXR w op (encEDst d) (encVSrc s) (encESrc t) 0 (encLane f) mn) :
    decExt w = .ok (.vxExt d s t f) := by
  simp [decExt, xD, xS, xT, xPred, xMod, h.d, h.s, h.t, h.pred, h.md, opnd, mbz, bind, Except.bind, pure, Except.pure]

theorem decIns_of {w op mn : Nat} {d : Fin 8} {s : ESrc} {t : ESrc} {f : LaneW} (h : IsXR w op d.val (encESrc s) (encESrc t) 0 (encLane f) mn) :
    decIns w = .ok (.vxIns d s t f) := by
  simp [decIns, xD, xS, xT, xPred, xMod, h.d, h.s, h.t, h.pred, h.md, decVDst_val, opnd, mbz, vecOnly, bind, Except.bind, pure, Except.pure]

theorem decVxAmax_of {w op mn : Nat} {d : VDst} {s : VSrc} {pred : Fin 8} (h : IsXR w op (encVDst d) (encVSrc s) 0 pred.val 0 mn) :
    decVxAmax w = .ok (.vxAmax d s pred) := by
  simp [decVxAmax, xD, xS, xT, xPred, xMod, h.d, h.s, h.t, h.pred, h.md, opnd, mbz, bind, Except.bind, pure, Except.pure]

theorem decScale_of {w op mn : Nat} {d : VDst} {s : VSrc} (h : IsXR w op (encVDst d) (encVSrc s) 0 0 0 mn) :
    decScale w = .ok (.vxScale d s) := by
  simp [decScale, xD, xS, xT, xPred, xMod, h.d, h.s, h.t, h.pred, h.md, opnd, mbz, bind, Except.bind, pure, Except.pure]

theorem decBarq_of {w op mn : Nat} {d : Fin 8} {s : VSrc} (h : IsXR w op d.val (encVSrc s) 0 0 0 mn) :
    decBarq w = .ok (.vxBarq d s) := by
  simp [decBarq, xD, xS, xT, xPred, xMod, h.d, h.s, h.t, h.pred, h.md, decVDst_val, opnd, mbz, vecOnly, bind, Except.bind, pure, Except.pure]

theorem decFmtX_of {w op mn : Nat} {fd : BitVec 4} {fa : BitVec 4} {fb : BitVec 4} {scl : BitVec 2} (h : IsXR w op fd.toNat fa.toNat fb.toNat 0 scl.toNat mn) :
    decFmtX w = .ok (.fmtSetX fd fa fb scl) := by
  have a0 : field w 15 1 = field w 11 5 / 16 := by simp only [field]; omega
  have a1 : field w 11 4 = field w 11 5 % 16 := by simp only [field]; omega
  have a2 : field w 20 1 = field w 16 5 / 16 := by simp only [field]; omega
  have a3 : field w 16 4 = field w 16 5 % 16 := by simp only [field]; omega
  have a4 : field w 25 1 = field w 21 5 / 16 := by simp only [field]; omega
  have a5 : field w 21 4 = field w 21 5 % 16 := by simp only [field]; omega
  have b0 : fd.toNat / 16 = 0 := by have := scl.isLt; have := fd.isLt; have := fa.isLt; have := fb.isLt; omega
  have b1 : fa.toNat / 16 = 0 := by have := scl.isLt; have := fd.isLt; have := fa.isLt; have := fb.isLt; omega
  have b2 : fb.toNat / 16 = 0 := by have := scl.isLt; have := fd.isLt; have := fa.isLt; have := fb.isLt; omega
  have b3 : fd.toNat % 16 = fd.toNat := by have := scl.isLt; have := fd.isLt; have := fa.isLt; have := fb.isLt; omega
  have b4 : fa.toNat % 16 = fa.toNat := by have := scl.isLt; have := fd.isLt; have := fa.isLt; have := fb.isLt; omega
  have b5 : fb.toNat % 16 = fb.toNat := by have := scl.isLt; have := fd.isLt; have := fa.isLt; have := fb.isLt; omega
  simp [decFmtX, xPred, a0, a1, a2, a3, a4, a5, h.d, h.s, h.t, h.pred, h.md, b0, b1, b2, b3, b4, b5, mbz, bind, Except.bind, pure, Except.pure]

theorem decCvt_of {w op mn : Nat} {mkS : EDst → ESrc → Instr} {mkV : VDst → VSrc → Instr} {d : EDst} {s : ESrc}
    (h : IsXR w op (encEDst d) (encESrc s) 0 0 0 mn) : decCvt mkS mkV w = .ok (mkS d s) := by
  simp [decCvt, decCvtS, xD, xS, xT, xPred, xMod, h.d, h.s, h.t, h.pred, h.md, opnd, mbz, bind, Except.bind, pure, Except.pure]
theorem decCvtV_of {w op mn : Nat} {mkS : EDst → ESrc → Instr} {mkV : VDst → VSrc → Instr} {d : VDst} {s : VSrc}
    (h : IsXR w op (encVDst d) (encVSrc s) 0 0 1 mn) : decCvt mkS mkV w = .ok (mkV d s) := by
  simp [decCvt, decCvtV, xD, xS, xT, xPred, xMod, h.d, h.s, h.t, h.pred, h.md, opnd, mbz, bind, Except.bind, pure, Except.pure]

end Sys2Proof
end

