-- ==== Sys2Proof/Laws/Keccak.lean ====
section
/-! SUPPORT. Keccak-f[1600] on named lanes, which the kernel evaluates fast, equal to the definition of the model. -/

namespace Sys2Proof.Machine

/-- One round of Keccak-f on twenty-five named lanes. -/
def laneRound (a : Lanes) (rc : Word) : Lanes :=
  match a with
  | [a0, a1, a2, a3, a4, a5, a6, a7, a8, a9, a10, a11, a12, a13, a14, a15, a16, a17, a18, a19, a20, a21, a22, a23,
     a24] =>
    let c0 := a0 ^^^ a5 ^^^ a10 ^^^ a15 ^^^ a20
    let c1 := a1 ^^^ a6 ^^^ a11 ^^^ a16 ^^^ a21
    let c2 := a2 ^^^ a7 ^^^ a12 ^^^ a17 ^^^ a22
    let c3 := a3 ^^^ a8 ^^^ a13 ^^^ a18 ^^^ a23
    let c4 := a4 ^^^ a9 ^^^ a14 ^^^ a19 ^^^ a24
    let d0 := c4 ^^^ c1.rotateLeft 1
    let d1 := c0 ^^^ c2.rotateLeft 1
    let d2 := c1 ^^^ c3.rotateLeft 1
    let d3 := c2 ^^^ c4.rotateLeft 1
    let d4 := c3 ^^^ c0.rotateLeft 1
    let b0 := (a0 ^^^ d0).rotateLeft 0
    let b1 := (a6 ^^^ d1).rotateLeft 44
    let b2 := (a12 ^^^ d2).rotateLeft 43
    let b3 := (a18 ^^^ d3).rotateLeft 21
    let b4 := (a24 ^^^ d4).rotateLeft 14
    let b5 := (a3 ^^^ d3).rotateLeft 28
    let b6 := (a9 ^^^ d4).rotateLeft 20
    let b7 := (a10 ^^^ d0).rotateLeft 3
    let b8 := (a16 ^^^ d1).rotateLeft 45
    let b9 := (a22 ^^^ d2).rotateLeft 61
    let b10 := (a1 ^^^ d1).rotateLeft 1
    let b11 := (a7 ^^^ d2).rotateLeft 6
    let b12 := (a13 ^^^ d3).rotateLeft 25
    let b13 := (a19 ^^^ d4).rotateLeft 8
    let b14 := (a20 ^^^ d0).rotateLeft 18
    let b15 := (a4 ^^^ d4).rotateLeft 27
    let b16 := (a5 ^^^ d0).rotateLeft 36
    let b17 := (a11 ^^^ d1).rotateLeft 10
    let b18 := (a17 ^^^ d2).rotateLeft 15
    let b19 := (a23 ^^^ d3).rotateLeft 56
    let b20 := (a2 ^^^ d2).rotateLeft 62
    let b21 := (a8 ^^^ d3).rotateLeft 55
    let b22 := (a14 ^^^ d4).rotateLeft 39
    let b23 := (a15 ^^^ d0).rotateLeft 41
    let b24 := (a21 ^^^ d1).rotateLeft 2
    [b0 ^^^ (~~~b1 &&& b2) ^^^ rc, b1 ^^^ (~~~b2 &&& b3), b2 ^^^ (~~~b3 &&& b4), b3 ^^^ (~~~b4 &&& b0),
     b4 ^^^ (~~~b0 &&& b1), b5 ^^^ (~~~b6 &&& b7), b6 ^^^ (~~~b7 &&& b8), b7 ^^^ (~~~b8 &&& b9), b8 ^^^ (~~~b9 &&& b5),
     b9 ^^^ (~~~b5 &&& b6), b10 ^^^ (~~~b11 &&& b12), b11 ^^^ (~~~b12 &&& b13), b12 ^^^ (~~~b13 &&& b14),
     b13 ^^^ (~~~b14 &&& b10), b14 ^^^ (~~~b10 &&& b11), b15 ^^^ (~~~b16 &&& b17), b16 ^^^ (~~~b17 &&& b18),
     b17 ^^^ (~~~b18 &&& b19), b18 ^^^ (~~~b19 &&& b15), b19 ^^^ (~~~b15 &&& b16), b20 ^^^ (~~~b21 &&& b22),
     b21 ^^^ (~~~b22 &&& b23), b22 ^^^ (~~~b23 &&& b24), b23 ^^^ (~~~b24 &&& b20), b24 ^^^ (~~~b20 &&& b21)]
  | _ => []

theorem keccakRound_eq (a : Lanes) (rc : Word) (h : a.length = 25) : keccakRound a rc = laneRound a rc := by
  match a, h with
  | [a0, a1, a2, a3, a4, a5, a6, a7, a8, a9, a10, a11, a12, a13, a14, a15, a16, a17, a18, a19, a20,
    a21, a22, a23, a24], _ => rfl

theorem laneRound_length (a : Lanes) (rc : Word) (h : a.length = 25) : (laneRound a rc).length = 25 := by
  match a, h with
  | [a0, a1, a2, a3, a4, a5, a6, a7, a8, a9, a10, a11, a12, a13, a14, a15, a16, a17, a18, a19, a20,
    a21, a22, a23, a24], _ => rfl

theorem foldl_round (rcs : List Word) (a : Lanes) (h : a.length = 25) : rcs.foldl keccakRound a = rcs.foldl laneRound a := by
  induction rcs generalizing a with
  | nil => rfl
  | cons r rs ih =>
    simp only [List.foldl_cons, keccakRound_eq a r h]
    exact ih _ (laneRound_length a r h)

/-- A block taken into the lanes. -/
def laneAbsorb (a : Lanes) (block : List Byte) : Lanes :=
  roundConstants.foldl laneRound (mkLanes fun x y =>
    let i := x + 5 * y
    keccakLane a x y ^^^ (if i < 17 then BitVec.ofNat 64 (leValue ((block.drop (8 * i)).take 8)) else 0))

theorem absorb_eq (a : Lanes) (block : List Byte) : absorb a block = laneAbsorb a block := foldl_round _ _ rfl

/-- A message taken into the lanes. -/
def laneAbsorbAll (suffix : Byte) : Nat → Lanes → List Byte → Lanes
  | 0, a, _ => a
  | n + 1, a, m =>
    if m.length < 136 then
      let padded := m ++ [suffix] ++ List.replicate (135 - m.length) (0 : Byte)
      laneAbsorb a (padded.set 135 (padded.getD 135 0 ||| 0x80))
    else laneAbsorbAll suffix n (laneAbsorb a (m.take 136)) (m.drop 136)

theorem absorbAll_eq (suffix : Byte) (n : Nat) (a : Lanes) (m : List Byte) : absorbAll suffix n a m = laneAbsorbAll suffix n a m := by
  induction n generalizing a m with
  | zero => rfl
  | succ n ih => simp only [absorbAll, laneAbsorbAll, absorb_eq, ih]

theorem sponge256_eq (suffix : Byte) (m : List Byte) : sponge256 suffix m =
    ((laneAbsorbAll suffix (m.length / 136 + 1) (List.replicate 25 0) m).take 4).flatMap fun w => leBytes w.toNat 8 := by
  simp only [sponge256, absorbAll_eq]

end Sys2Proof.Machine
end

