-- ==== Sys2Proof/Laws/Store.lean ====
section
/-! SUPPORT. Laws of sparse maps and byte memories: reading after a write, what a write leaves alone, and that every memory
operation keeps the canonical form. -/

namespace Sys2Proof.Machine

/-! ## Sparse maps -/

theorem SMap.find_set_same {α : Type} (k : Nat) (a : α) (m : SMap α) : SMap.find k (SMap.set k a m) = some a := by
  induction m with
  | nil => simp [SMap.set, SMap.find]
  | cons x m ih =>
    obtain ⟨j, b⟩ := x
    simp only [SMap.set]
    split
    · simp [SMap.find]
    · split
      · simp [SMap.find]
      · simp [SMap.find, *]

theorem SMap.find_set_other {α : Type} (k j : Nat) (a : α) (m : SMap α) (h : k ≠ j) :
    SMap.find k (SMap.set j a m) = SMap.find k m := by
  induction m with
  | nil => simp [SMap.set, SMap.find, Ne.symm h]
  | cons x m ih =>
    obtain ⟨i, b⟩ := x
    simp only [SMap.set]
    split
    · simp [SMap.find, Ne.symm h]
    · split
      · subst i; simp [SMap.find, Ne.symm h]
      · simp only [SMap.find]; split <;> simp_all

@[simp] theorem SMap.getD_set_same {α : Type} (k : Nat) (a d : α) (m : SMap α) : SMap.getD (SMap.set k a m) k d = a := by
  simp [SMap.getD, SMap.find_set_same]

theorem SMap.getD_set_other {α : Type} (k j : Nat) (a d : α) (m : SMap α) (h : k ≠ j) :
    SMap.getD (SMap.set j a m) k d = SMap.getD m k d := by
  simp [SMap.getD, SMap.find_set_other k j a m h]

theorem SMap.set_set {α : Type} (k : Nat) (a b : α) (m : SMap α) : SMap.set k a (SMap.set k b m) = SMap.set k a m := by
  induction m with
  | nil => simp [SMap.set]
  | cons x m ih =>
    obtain ⟨j, c⟩ := x
    simp only [SMap.set]
    split
    · simp [SMap.set]
    · split
      · simp [SMap.set, *]
      · simp [SMap.set, *]

/-! ## The canonical form -/

theorem Memory.wfFrom_mono (m : Memory) (lo lo' : Nat) (h : lo' ≤ lo) (w : Memory.wfFrom lo m = true) :
    Memory.wfFrom lo' m = true := by
  cases m with
  | nil => rfl
  | cons x m =>
    obtain ⟨a, b⟩ := x
    simp only [Memory.wfFrom, Bool.and_eq_true, decide_eq_true_eq] at w ⊢
    exact ⟨⟨by omega, w.1.2⟩, w.2⟩

theorem Memory.wfFrom_set (m : Memory) (lo a : Nat) (b : Byte) (hb : b ≠ 0) (ha : lo ≤ a) (w : Memory.wfFrom lo m = true) :
    Memory.wfFrom lo (SMap.set a b m) = true := by
  induction m generalizing lo with
  | nil =>
    simp only [SMap.set, Memory.wfFrom, Bool.and_eq_true, decide_eq_true_eq]
    exact ⟨⟨ha, hb⟩, trivial⟩
  | cons x m ih =>
    obtain ⟨j, c⟩ := x
    simp only [Memory.wfFrom, Bool.and_eq_true, decide_eq_true_eq] at w
    simp only [SMap.set]
    split
    · simp only [Memory.wfFrom, Bool.and_eq_true, decide_eq_true_eq]
      exact ⟨⟨ha, hb⟩, ⟨by omega, w.1.2⟩, w.2⟩
    · split
      · simp only [Memory.wfFrom, Bool.and_eq_true, decide_eq_true_eq]
        exact ⟨⟨ha, hb⟩, by simp_all⟩
      · simp only [Memory.wfFrom, Bool.and_eq_true, decide_eq_true_eq]
        exact ⟨w.1, ih (j + 1) (by omega) w.2⟩

theorem Memory.wfFrom_erase (m : Memory) (lo a : Nat) (w : Memory.wfFrom lo m = true) :
    Memory.wfFrom lo (SMap.erase a m) = true := by
  induction m generalizing lo with
  | nil => simp [SMap.erase, Memory.wfFrom]
  | cons x m ih =>
    obtain ⟨j, c⟩ := x
    simp only [Memory.wfFrom, Bool.and_eq_true, decide_eq_true_eq] at w
    simp only [SMap.erase]
    split
    · exact Memory.wfFrom_mono m (j + 1) lo (by omega) w.2
    · simp only [Memory.wfFrom, Bool.and_eq_true, decide_eq_true_eq]
      exact ⟨w.1, ih (j + 1) w.2⟩

theorem Memory.wfFrom_filter (m : Memory) (lo : Nat) (f : Nat × Byte → Bool) (w : Memory.wfFrom lo m = true) :
    Memory.wfFrom lo (m.filter f) = true := by
  induction m generalizing lo with
  | nil => simp [Memory.wfFrom]
  | cons x m ih =>
    obtain ⟨j, c⟩ := x
    simp only [Memory.wfFrom, Bool.and_eq_true, decide_eq_true_eq] at w
    simp only [List.filter]
    split
    · simp only [Memory.wfFrom, Bool.and_eq_true, decide_eq_true_eq]
      exact ⟨w.1, ih (j + 1) w.2⟩
    · exact ih lo (Memory.wfFrom_mono m (j + 1) lo (by omega) w.2)

theorem Memory.wf_write (m : Memory) (a : Nat) (b : Byte) (w : Memory.wf m = true) : Memory.wf (Memory.write m a b) = true := by
  unfold Memory.wf Memory.write at *
  split
  · exact Memory.wfFrom_erase m 0 a w
  · exact Memory.wfFrom_set m 0 a b ‹_› (Nat.zero_le a) w

theorem Memory.wf_writeBytes (m : Memory) (a : Nat) (bs : List Byte) (w : Memory.wf m = true) :
    Memory.wf (Memory.writeBytes m a bs) = true := by
  induction bs generalizing m a with
  | nil => exact w
  | cons b bs ih => exact ih _ _ (Memory.wf_write m a b w)

theorem Memory.wf_writeN (m : Memory) (a n v : Nat) (w : Memory.wf m = true) : Memory.wf (Memory.writeN m a n v) = true :=
  Memory.wf_writeBytes m a _ w

theorem Memory.wf_filter (m : Memory) (f : Nat × Byte → Bool) (w : Memory.wf m = true) : Memory.wf (m.filter f) = true :=
  Memory.wfFrom_filter m 0 f w

theorem Memory.wf_zero (m : Memory) (a n : Nat) (w : Memory.wf m = true) : Memory.wf (Memory.zero m a n) = true :=
  Memory.wf_filter m _ w

/-! ## Reading after a write -/

theorem Memory.find_of_wfFrom (m : Memory) (lo a : Nat) (h : a < lo) (w : Memory.wfFrom lo m = true) : SMap.find a m = none := by
  induction m generalizing lo with
  | nil => rfl
  | cons x m ih =>
    obtain ⟨j, c⟩ := x
    simp only [Memory.wfFrom, Bool.and_eq_true, decide_eq_true_eq] at w
    simp only [SMap.find]
    split
    · omega
    · exact ih (j + 1) (by omega) w.2

theorem Memory.find_erase_same (m : Memory) (lo a : Nat) (w : Memory.wfFrom lo m = true) : SMap.find a (SMap.erase a m) = none := by
  induction m generalizing lo with
  | nil => rfl
  | cons x m ih =>
    obtain ⟨j, c⟩ := x
    simp only [Memory.wfFrom, Bool.and_eq_true, decide_eq_true_eq] at w
    simp only [SMap.erase]
    split
    · exact Memory.find_of_wfFrom m (j + 1) a (by omega) w.2
    · simp only [SMap.find]
      rw [if_neg ‹_›]
      exact ih (j + 1) w.2

theorem SMap.find_erase_other {α : Type} (k j : Nat) (m : SMap α) (h : k ≠ j) : SMap.find k (SMap.erase j m) = SMap.find k m := by
  induction m with
  | nil => rfl
  | cons x m ih =>
    obtain ⟨i, c⟩ := x
    simp only [SMap.erase]
    split
    · subst i; simp [SMap.find, Ne.symm h]
    · simp only [SMap.find]; split <;> simp_all

theorem Memory.read_write_same (m : Memory) (a : Nat) (b : Byte) (w : Memory.wf m = true) :
    Memory.read (Memory.write m a b) a = b := by
  unfold Memory.read Memory.write
  split
  · rw [Memory.find_erase_same m 0 a w]; simp_all
  · rw [SMap.find_set_same]; rfl

theorem Memory.read_write_other (m : Memory) (a c : Nat) (b : Byte) (h : c ≠ a) :
    Memory.read (Memory.write m a b) c = Memory.read m c := by
  unfold Memory.read Memory.write
  split
  · rw [SMap.find_erase_other c a m h]
  · rw [SMap.find_set_other c a b m h]

theorem Memory.read_writeBytes_outside (m : Memory) (a c : Nat) (bs : List Byte) (h : c < a ∨ a + bs.length ≤ c) :
    Memory.read (Memory.writeBytes m a bs) c = Memory.read m c := by
  induction bs generalizing m a with
  | nil => rfl
  | cons b bs ih =>
    simp only [List.length_cons] at h
    simp only [Memory.writeBytes]
    rw [ih _ _ (by omega), Memory.read_write_other _ _ _ _ (by omega)]

theorem Memory.read_writeBytes_inside (m : Memory) (a i : Nat) (bs : List Byte) (h : i < bs.length) (w : Memory.wf m = true) :
    Memory.read (Memory.writeBytes m a bs) (a + i) = bs.getD i 0 := by
  induction bs generalizing m a i with
  | nil => simp at h
  | cons b bs ih =>
    simp only [Memory.writeBytes]
    cases i with
    | zero =>
      rw [Memory.read_writeBytes_outside _ _ _ _ (by omega)]
      simpa using Memory.read_write_same m a b w
    | succ i =>
      have h' : i < bs.length := by simpa using h
      have e : a + (i + 1) = a + 1 + i := by omega
      rw [e, ih _ _ _ h' (Memory.wf_write m a b w)]
      simp

theorem leBytes_length (v n : Nat) : (leBytes v n).length = n := by
  induction n generalizing v with
  | zero => rfl
  | succ n ih => simp [leBytes, ih]

theorem Memory.read_writeN_outside (m : Memory) (a n v c : Nat) (h : c < a ∨ a + n ≤ c) :
    Memory.read (Memory.writeN m a n v) c = Memory.read m c :=
  Memory.read_writeBytes_outside m a c _ (by rw [leBytes_length]; exact h)

theorem Memory.bytes_length (m : Memory) (a n : Nat) : (Memory.bytes m a n).length = n := by
  induction n generalizing a with
  | zero => rfl
  | succ n ih => simp [Memory.bytes, ih]

theorem Memory.bytes_getD (m : Memory) (a n i : Nat) (h : i < n) : (Memory.bytes m a n).getD i 0 = Memory.read m (a + i) := by
  induction n generalizing a i with
  | zero => omega
  | succ n ih =>
    cases i with
    | zero => rfl
    | succ i =>
      simp only [Memory.bytes, List.getD_cons_succ]
      rw [ih _ _ (by omega), show a + 1 + i = a + (i + 1) by omega]

/-- Bytes just written are read back. -/
theorem Memory.bytes_writeBytes (m : Memory) (a : Nat) (bs : List Byte) (w : Memory.wf m = true) :
    Memory.bytes (Memory.writeBytes m a bs) a bs.length = bs := by
  apply List.ext_getElem (Memory.bytes_length _ _ _)
  intro i h k
  have e := (Memory.bytes_getD (Memory.writeBytes m a bs) a bs.length i k).trans (Memory.read_writeBytes_inside m a i bs k w)
  simpa [List.getD_eq_getElem?_getD, h, k] using e

/-- Bytes beside those written stay. -/
theorem Memory.bytes_writeBytes_outside (m : Memory) (a c n : Nat) (bs : List Byte) (h : a + n ≤ c ∨ c + bs.length ≤ a) :
    Memory.bytes (Memory.writeBytes m c bs) a n = Memory.bytes m a n := by
  induction n generalizing a with
  | zero => rfl
  | succ n ih =>
    simp only [Memory.bytes]
    rw [Memory.read_writeBytes_outside _ _ _ _ (by omega), ih _ (by omega)]

theorem Memory.bytes_append (m : Memory) (a n k : Nat) :
    Memory.bytes m a (n + k) = Memory.bytes m a n ++ Memory.bytes m (a + n) k := by
  induction n generalizing a with
  | zero => simp [Memory.bytes]
  | succ n ih => rw [Nat.succ_add]; simp [Memory.bytes, ih, Nat.add_assoc, Nat.add_comm 1 n]

/-- An empty memory reads as zeros. -/
theorem Memory.bytes_nil (a n : Nat) : Memory.bytes [] a n = List.replicate n 0 := by
  induction n generalizing a with
  | zero => rfl
  | succ n ih => simp [Memory.bytes, ih, List.replicate_succ, Memory.read, SMap.find]

end Sys2Proof.Machine
end

