-- ==== Sys2Proof/Laws/State.lean ====
section
/-! SUPPORT. Laws of the state's updates: what each leaves alone, and what is read after it. -/

namespace Sys2Proof.Machine

/-! ## Fields that an update leaves alone -/

@[simp] theorem putHart_clusters (s : State) (h : Nat) (H : Hart) : (putHart s h H).clusters = s.clusters := rfl
@[simp] theorem putHart_plats (s : State) (h : Nat) (H : Hart) : (putHart s h H).plats = s.plats := rfl
@[simp] theorem putHart_launches (s : State) (h : Nat) (H : Hart) : (putHart s h H).launches = s.launches := rfl
@[simp] theorem putHart_waitList (s : State) (h : Nat) (H : Hart) : (putHart s h H).waitList = s.waitList := rfl
@[simp] theorem putHart_counters (s : State) (h : Nat) (H : Hart) : (putHart s h H).counters = s.counters := rfl
@[simp] theorem putHart_queues (s : State) (h : Nat) (H : Hart) : (putHart s h H).queues = s.queues := rfl
@[simp] theorem putHart_grants (s : State) (h : Nat) (H : Hart) : (putHart s h H).grants = s.grants := rfl
@[simp] theorem putHart_cache (s : State) (h : Nat) (H : Hart) : (putHart s h H).cache = s.cache := rfl
@[simp] theorem putHart_minSerial (s : State) (h : Nat) (H : Hart) : (putHart s h H).minSerial = s.minSerial := rfl
@[simp] theorem putHart_tagCtr (s : State) (h : Nat) (H : Hart) : (putHart s h H).tagCtr = s.tagCtr := rfl
@[simp] theorem putHart_ownCtr (s : State) (h : Nat) (H : Hart) : (putHart s h H).ownCtr = s.ownCtr := rfl
@[simp] theorem putHart_residueSerial (s : State) (h : Nat) (H : Hart) : (putHart s h H).residueSerial = s.residueSerial := rfl
@[simp] theorem putHart_residues (s : State) (h : Nat) (H : Hart) : (putHart s h H).residues = s.residues := rfl
@[simp] theorem putHart_hbm (s : State) (h : Nat) (H : Hart) : (putHart s h H).hbm = s.hbm := rfl
@[simp] theorem putHart_poison (s : State) (h : Nat) (H : Hart) : (putHart s h H).poison = s.poison := rfl
@[simp] theorem putHart_remap (s : State) (h : Nat) (H : Hart) : (putHart s h H).remap = s.remap := rfl
@[simp] theorem putHart_migrations (s : State) (h : Nat) (H : Hart) : (putHart s h H).migrations = s.migrations := rfl
@[simp] theorem putHart_retiredPages (s : State) (h : Nat) (H : Hart) : (putHart s h H).retiredPages = s.retiredPages := rfl
@[simp] theorem putHart_llc (s : State) (h : Nat) (H : Hart) : (putHart s h H).llc = s.llc := rfl
@[simp] theorem putHart_hostMem (s : State) (h : Nat) (H : Hart) : (putHart s h H).hostMem = s.hostMem := rfl
@[simp] theorem putHart_retiredClusters (s : State) (h : Nat) (H : Hart) : (putHart s h H).retiredClusters = s.retiredClusters := rfl
@[simp] theorem putHart_eccCorrectable (s : State) (h : Nat) (H : Hart) : (putHart s h H).eccCorrectable = s.eccCorrectable := rfl
@[simp] theorem putHart_eccUncorrectable (s : State) (h : Nat) (H : Hart) : (putHart s h H).eccUncorrectable = s.eccUncorrectable := rfl
@[simp] theorem putHart_faultLog (s : State) (h : Nat) (H : Hart) : (putHart s h H).faultLog = s.faultLog := rfl
@[simp] theorem putHart_ready (s : State) (h : Nat) (H : Hart) : (putHart s h H).ready = s.ready := rfl
@[simp] theorem putHart_drain (s : State) (h : Nat) (H : Hart) : (putHart s h H).drain = s.drain := rfl
@[simp] theorem putHart_outOfService (s : State) (h : Nat) (H : Hart) : (putHart s h H).outOfService = s.outOfService := rfl
@[simp] theorem putHart_grade4 (s : State) (h : Nat) (H : Hart) : (putHart s h H).grade4 = s.grade4 := rfl
@[simp] theorem putHart_gzbase (s : State) (h : Nat) (H : Hart) : (putHart s h H).gzbase = s.gzbase := rfl
@[simp] theorem putHart_gzed (s : State) (h : Nat) (H : Hart) : (putHart s h H).gzed = s.gzed := rfl
@[simp] theorem putHart_gzChanged (s : State) (h : Nat) (H : Hart) : (putHart s h H).gzChanged = s.gzChanged := rfl
@[simp] theorem putHart_gzLast (s : State) (h : Nat) (H : Hart) : (putHart s h H).gzLast = s.gzLast := rfl
@[simp] theorem putHart_doorbells (s : State) (h : Nat) (H : Hart) : (putHart s h H).doorbells = s.doorbells := rfl
@[simp] theorem putHart_ports (s : State) (h : Nat) (H : Hart) : (putHart s h H).ports = s.ports := rfl
@[simp] theorem putHart_collectives (s : State) (h : Nat) (H : Hart) : (putHart s h H).collectives = s.collectives := rfl
@[simp] theorem putHart_net (s : State) (h : Nat) (H : Hart) : (putHart s h H).net = s.net := rfl
@[simp] theorem putHart_guards (s : State) (h : Nat) (H : Hart) : (putHart s h H).guards = s.guards := rfl
@[simp] theorem putHart_survey (s : State) (h : Nat) (H : Hart) : (putHart s h H).survey = s.survey := rfl
@[simp] theorem putHart_moduleId (s : State) (h : Nat) (H : Hart) : (putHart s h H).moduleId = s.moduleId := rfl
@[simp] theorem putHart_replicated (s : State) (h : Nat) (H : Hart) : (putHart s h H).replicated = s.replicated := rfl
@[simp] theorem putHart_flash (s : State) (h : Nat) (H : Hart) : (putHart s h H).flash = s.flash := rfl
@[simp] theorem putHart_measured (s : State) (h : Nat) (H : Hart) : (putHart s h H).measured = s.measured := rfl
@[simp] theorem putHart_nextId (s : State) (h : Nat) (H : Hart) : (putHart s h H).nextId = s.nextId := rfl
@[simp] theorem putHart_nextPacket (s : State) (h : Nat) (H : Hart) : (putHart s h H).nextPacket = s.nextPacket := rfl
@[simp] theorem putHart_cycle (s : State) (h : Nat) (H : Hart) : (putHart s h H).cycle = s.cycle := rfl
@[simp] theorem putHart_cur (s : State) (h : Nat) (H : Hart) : (putHart s h H).cur = s.cur := rfl
@[simp] theorem putHart_agenda (s : State) (h : Nat) (H : Hart) : (putHart s h H).agenda = s.agenda := rfl
@[simp] theorem putHart_fresh (s : State) (h : Nat) (H : Hart) : (putHart s h H).fresh = s.fresh := rfl
@[simp] theorem putSlot_clusters (s : State) (h n : Nat) (σ : Slot) : (putSlot s h n σ).clusters = s.clusters := rfl
@[simp] theorem putSlot_plats (s : State) (h n : Nat) (σ : Slot) : (putSlot s h n σ).plats = s.plats := rfl
@[simp] theorem putSlot_launches (s : State) (h n : Nat) (σ : Slot) : (putSlot s h n σ).launches = s.launches := rfl
@[simp] theorem putSlot_waitList (s : State) (h n : Nat) (σ : Slot) : (putSlot s h n σ).waitList = s.waitList := rfl
@[simp] theorem putSlot_counters (s : State) (h n : Nat) (σ : Slot) : (putSlot s h n σ).counters = s.counters := rfl
@[simp] theorem putSlot_queues (s : State) (h n : Nat) (σ : Slot) : (putSlot s h n σ).queues = s.queues := rfl
@[simp] theorem putSlot_grants (s : State) (h n : Nat) (σ : Slot) : (putSlot s h n σ).grants = s.grants := rfl
@[simp] theorem putSlot_cache (s : State) (h n : Nat) (σ : Slot) : (putSlot s h n σ).cache = s.cache := rfl
@[simp] theorem putSlot_minSerial (s : State) (h n : Nat) (σ : Slot) : (putSlot s h n σ).minSerial = s.minSerial := rfl
@[simp] theorem putSlot_tagCtr (s : State) (h n : Nat) (σ : Slot) : (putSlot s h n σ).tagCtr = s.tagCtr := rfl
@[simp] theorem putSlot_ownCtr (s : State) (h n : Nat) (σ : Slot) : (putSlot s h n σ).ownCtr = s.ownCtr := rfl
@[simp] theorem putSlot_residueSerial (s : State) (h n : Nat) (σ : Slot) : (putSlot s h n σ).residueSerial = s.residueSerial := rfl
@[simp] theorem putSlot_residues (s : State) (h n : Nat) (σ : Slot) : (putSlot s h n σ).residues = s.residues := rfl
@[simp] theorem putSlot_hbm (s : State) (h n : Nat) (σ : Slot) : (putSlot s h n σ).hbm = s.hbm := rfl
@[simp] theorem putSlot_poison (s : State) (h n : Nat) (σ : Slot) : (putSlot s h n σ).poison = s.poison := rfl
@[simp] theorem putSlot_remap (s : State) (h n : Nat) (σ : Slot) : (putSlot s h n σ).remap = s.remap := rfl
@[simp] theorem putSlot_migrations (s : State) (h n : Nat) (σ : Slot) : (putSlot s h n σ).migrations = s.migrations := rfl
@[simp] theorem putSlot_retiredPages (s : State) (h n : Nat) (σ : Slot) : (putSlot s h n σ).retiredPages = s.retiredPages := rfl
@[simp] theorem putSlot_llc (s : State) (h n : Nat) (σ : Slot) : (putSlot s h n σ).llc = s.llc := rfl
@[simp] theorem putSlot_hostMem (s : State) (h n : Nat) (σ : Slot) : (putSlot s h n σ).hostMem = s.hostMem := rfl
@[simp] theorem putSlot_retiredClusters (s : State) (h n : Nat) (σ : Slot) : (putSlot s h n σ).retiredClusters = s.retiredClusters := rfl
@[simp] theorem putSlot_eccCorrectable (s : State) (h n : Nat) (σ : Slot) : (putSlot s h n σ).eccCorrectable = s.eccCorrectable := rfl
@[simp] theorem putSlot_eccUncorrectable (s : State) (h n : Nat) (σ : Slot) : (putSlot s h n σ).eccUncorrectable = s.eccUncorrectable := rfl
@[simp] theorem putSlot_faultLog (s : State) (h n : Nat) (σ : Slot) : (putSlot s h n σ).faultLog = s.faultLog := rfl
@[simp] theorem putSlot_ready (s : State) (h n : Nat) (σ : Slot) : (putSlot s h n σ).ready = s.ready := rfl
@[simp] theorem putSlot_drain (s : State) (h n : Nat) (σ : Slot) : (putSlot s h n σ).drain = s.drain := rfl
@[simp] theorem putSlot_outOfService (s : State) (h n : Nat) (σ : Slot) : (putSlot s h n σ).outOfService = s.outOfService := rfl
@[simp] theorem putSlot_grade4 (s : State) (h n : Nat) (σ : Slot) : (putSlot s h n σ).grade4 = s.grade4 := rfl
@[simp] theorem putSlot_gzbase (s : State) (h n : Nat) (σ : Slot) : (putSlot s h n σ).gzbase = s.gzbase := rfl
@[simp] theorem putSlot_gzed (s : State) (h n : Nat) (σ : Slot) : (putSlot s h n σ).gzed = s.gzed := rfl
@[simp] theorem putSlot_gzChanged (s : State) (h n : Nat) (σ : Slot) : (putSlot s h n σ).gzChanged = s.gzChanged := rfl
@[simp] theorem putSlot_gzLast (s : State) (h n : Nat) (σ : Slot) : (putSlot s h n σ).gzLast = s.gzLast := rfl
@[simp] theorem putSlot_doorbells (s : State) (h n : Nat) (σ : Slot) : (putSlot s h n σ).doorbells = s.doorbells := rfl
@[simp] theorem putSlot_ports (s : State) (h n : Nat) (σ : Slot) : (putSlot s h n σ).ports = s.ports := rfl
@[simp] theorem putSlot_collectives (s : State) (h n : Nat) (σ : Slot) : (putSlot s h n σ).collectives = s.collectives := rfl
@[simp] theorem putSlot_net (s : State) (h n : Nat) (σ : Slot) : (putSlot s h n σ).net = s.net := rfl
@[simp] theorem putSlot_guards (s : State) (h n : Nat) (σ : Slot) : (putSlot s h n σ).guards = s.guards := rfl
@[simp] theorem putSlot_survey (s : State) (h n : Nat) (σ : Slot) : (putSlot s h n σ).survey = s.survey := rfl
@[simp] theorem putSlot_moduleId (s : State) (h n : Nat) (σ : Slot) : (putSlot s h n σ).moduleId = s.moduleId := rfl
@[simp] theorem putSlot_replicated (s : State) (h n : Nat) (σ : Slot) : (putSlot s h n σ).replicated = s.replicated := rfl
@[simp] theorem putSlot_flash (s : State) (h n : Nat) (σ : Slot) : (putSlot s h n σ).flash = s.flash := rfl
@[simp] theorem putSlot_measured (s : State) (h n : Nat) (σ : Slot) : (putSlot s h n σ).measured = s.measured := rfl
@[simp] theorem putSlot_nextId (s : State) (h n : Nat) (σ : Slot) : (putSlot s h n σ).nextId = s.nextId := rfl
@[simp] theorem putSlot_nextPacket (s : State) (h n : Nat) (σ : Slot) : (putSlot s h n σ).nextPacket = s.nextPacket := rfl
@[simp] theorem putSlot_cycle (s : State) (h n : Nat) (σ : Slot) : (putSlot s h n σ).cycle = s.cycle := rfl
@[simp] theorem putSlot_cur (s : State) (h n : Nat) (σ : Slot) : (putSlot s h n σ).cur = s.cur := rfl
@[simp] theorem putSlot_agenda (s : State) (h n : Nat) (σ : Slot) : (putSlot s h n σ).agenda = s.agenda := rfl
@[simp] theorem putSlot_fresh (s : State) (h n : Nat) (σ : Slot) : (putSlot s h n σ).fresh = s.fresh := rfl
@[simp] theorem putCur_clusters (s : State) (σ : Slot) : (putCur s σ).clusters = s.clusters := rfl
@[simp] theorem putCur_plats (s : State) (σ : Slot) : (putCur s σ).plats = s.plats := rfl
@[simp] theorem putCur_launches (s : State) (σ : Slot) : (putCur s σ).launches = s.launches := rfl
@[simp] theorem putCur_waitList (s : State) (σ : Slot) : (putCur s σ).waitList = s.waitList := rfl
@[simp] theorem putCur_counters (s : State) (σ : Slot) : (putCur s σ).counters = s.counters := rfl
@[simp] theorem putCur_queues (s : State) (σ : Slot) : (putCur s σ).queues = s.queues := rfl
@[simp] theorem putCur_grants (s : State) (σ : Slot) : (putCur s σ).grants = s.grants := rfl
@[simp] theorem putCur_cache (s : State) (σ : Slot) : (putCur s σ).cache = s.cache := rfl
@[simp] theorem putCur_minSerial (s : State) (σ : Slot) : (putCur s σ).minSerial = s.minSerial := rfl
@[simp] theorem putCur_tagCtr (s : State) (σ : Slot) : (putCur s σ).tagCtr = s.tagCtr := rfl
@[simp] theorem putCur_ownCtr (s : State) (σ : Slot) : (putCur s σ).ownCtr = s.ownCtr := rfl
@[simp] theorem putCur_residueSerial (s : State) (σ : Slot) : (putCur s σ).residueSerial = s.residueSerial := rfl
@[simp] theorem putCur_residues (s : State) (σ : Slot) : (putCur s σ).residues = s.residues := rfl
@[simp] theorem putCur_hbm (s : State) (σ : Slot) : (putCur s σ).hbm = s.hbm := rfl
@[simp] theorem putCur_poison (s : State) (σ : Slot) : (putCur s σ).poison = s.poison := rfl
@[simp] theorem putCur_remap (s : State) (σ : Slot) : (putCur s σ).remap = s.remap := rfl
@[simp] theorem putCur_migrations (s : State) (σ : Slot) : (putCur s σ).migrations = s.migrations := rfl
@[simp] theorem putCur_retiredPages (s : State) (σ : Slot) : (putCur s σ).retiredPages = s.retiredPages := rfl
@[simp] theorem putCur_llc (s : State) (σ : Slot) : (putCur s σ).llc = s.llc := rfl
@[simp] theorem putCur_hostMem (s : State) (σ : Slot) : (putCur s σ).hostMem = s.hostMem := rfl
@[simp] theorem putCur_retiredClusters (s : State) (σ : Slot) : (putCur s σ).retiredClusters = s.retiredClusters := rfl
@[simp] theorem putCur_eccCorrectable (s : State) (σ : Slot) : (putCur s σ).eccCorrectable = s.eccCorrectable := rfl
@[simp] theorem putCur_eccUncorrectable (s : State) (σ : Slot) : (putCur s σ).eccUncorrectable = s.eccUncorrectable := rfl
@[simp] theorem putCur_faultLog (s : State) (σ : Slot) : (putCur s σ).faultLog = s.faultLog := rfl
@[simp] theorem putCur_ready (s : State) (σ : Slot) : (putCur s σ).ready = s.ready := rfl
@[simp] theorem putCur_drain (s : State) (σ : Slot) : (putCur s σ).drain = s.drain := rfl
@[simp] theorem putCur_outOfService (s : State) (σ : Slot) : (putCur s σ).outOfService = s.outOfService := rfl
@[simp] theorem putCur_grade4 (s : State) (σ : Slot) : (putCur s σ).grade4 = s.grade4 := rfl
@[simp] theorem putCur_gzbase (s : State) (σ : Slot) : (putCur s σ).gzbase = s.gzbase := rfl
@[simp] theorem putCur_gzed (s : State) (σ : Slot) : (putCur s σ).gzed = s.gzed := rfl
@[simp] theorem putCur_gzChanged (s : State) (σ : Slot) : (putCur s σ).gzChanged = s.gzChanged := rfl
@[simp] theorem putCur_gzLast (s : State) (σ : Slot) : (putCur s σ).gzLast = s.gzLast := rfl
@[simp] theorem putCur_doorbells (s : State) (σ : Slot) : (putCur s σ).doorbells = s.doorbells := rfl
@[simp] theorem putCur_ports (s : State) (σ : Slot) : (putCur s σ).ports = s.ports := rfl
@[simp] theorem putCur_collectives (s : State) (σ : Slot) : (putCur s σ).collectives = s.collectives := rfl
@[simp] theorem putCur_net (s : State) (σ : Slot) : (putCur s σ).net = s.net := rfl
@[simp] theorem putCur_guards (s : State) (σ : Slot) : (putCur s σ).guards = s.guards := rfl
@[simp] theorem putCur_survey (s : State) (σ : Slot) : (putCur s σ).survey = s.survey := rfl
@[simp] theorem putCur_moduleId (s : State) (σ : Slot) : (putCur s σ).moduleId = s.moduleId := rfl
@[simp] theorem putCur_replicated (s : State) (σ : Slot) : (putCur s σ).replicated = s.replicated := rfl
@[simp] theorem putCur_flash (s : State) (σ : Slot) : (putCur s σ).flash = s.flash := rfl
@[simp] theorem putCur_measured (s : State) (σ : Slot) : (putCur s σ).measured = s.measured := rfl
@[simp] theorem putCur_nextId (s : State) (σ : Slot) : (putCur s σ).nextId = s.nextId := rfl
@[simp] theorem putCur_nextPacket (s : State) (σ : Slot) : (putCur s σ).nextPacket = s.nextPacket := rfl
@[simp] theorem putCur_cycle (s : State) (σ : Slot) : (putCur s σ).cycle = s.cycle := rfl
@[simp] theorem putCur_cur (s : State) (σ : Slot) : (putCur s σ).cur = s.cur := rfl
@[simp] theorem putCur_agenda (s : State) (σ : Slot) : (putCur s σ).agenda = s.agenda := rfl
@[simp] theorem putCur_fresh (s : State) (σ : Slot) : (putCur s σ).fresh = s.fresh := rfl
@[simp] theorem putCtx_clusters (s : State) (h : Nat) (c : Ctx) : (putCtx s h c).clusters = s.clusters := rfl
@[simp] theorem putCtx_plats (s : State) (h : Nat) (c : Ctx) : (putCtx s h c).plats = s.plats := rfl
@[simp] theorem putCtx_launches (s : State) (h : Nat) (c : Ctx) : (putCtx s h c).launches = s.launches := rfl
@[simp] theorem putCtx_waitList (s : State) (h : Nat) (c : Ctx) : (putCtx s h c).waitList = s.waitList := rfl
@[simp] theorem putCtx_counters (s : State) (h : Nat) (c : Ctx) : (putCtx s h c).counters = s.counters := rfl
@[simp] theorem putCtx_queues (s : State) (h : Nat) (c : Ctx) : (putCtx s h c).queues = s.queues := rfl
@[simp] theorem putCtx_grants (s : State) (h : Nat) (c : Ctx) : (putCtx s h c).grants = s.grants := rfl
@[simp] theorem putCtx_cache (s : State) (h : Nat) (c : Ctx) : (putCtx s h c).cache = s.cache := rfl
@[simp] theorem putCtx_minSerial (s : State) (h : Nat) (c : Ctx) : (putCtx s h c).minSerial = s.minSerial := rfl
@[simp] theorem putCtx_tagCtr (s : State) (h : Nat) (c : Ctx) : (putCtx s h c).tagCtr = s.tagCtr := rfl
@[simp] theorem putCtx_ownCtr (s : State) (h : Nat) (c : Ctx) : (putCtx s h c).ownCtr = s.ownCtr := rfl
@[simp] theorem putCtx_residueSerial (s : State) (h : Nat) (c : Ctx) : (putCtx s h c).residueSerial = s.residueSerial := rfl
@[simp] theorem putCtx_residues (s : State) (h : Nat) (c : Ctx) : (putCtx s h c).residues = s.residues := rfl
@[simp] theorem putCtx_hbm (s : State) (h : Nat) (c : Ctx) : (putCtx s h c).hbm = s.hbm := rfl
@[simp] theorem putCtx_poison (s : State) (h : Nat) (c : Ctx) : (putCtx s h c).poison = s.poison := rfl
@[simp] theorem putCtx_remap (s : State) (h : Nat) (c : Ctx) : (putCtx s h c).remap = s.remap := rfl
@[simp] theorem putCtx_migrations (s : State) (h : Nat) (c : Ctx) : (putCtx s h c).migrations = s.migrations := rfl
@[simp] theorem putCtx_retiredPages (s : State) (h : Nat) (c : Ctx) : (putCtx s h c).retiredPages = s.retiredPages := rfl
@[simp] theorem putCtx_llc (s : State) (h : Nat) (c : Ctx) : (putCtx s h c).llc = s.llc := rfl
@[simp] theorem putCtx_hostMem (s : State) (h : Nat) (c : Ctx) : (putCtx s h c).hostMem = s.hostMem := rfl
@[simp] theorem putCtx_retiredClusters (s : State) (h : Nat) (c : Ctx) : (putCtx s h c).retiredClusters = s.retiredClusters := rfl
@[simp] theorem putCtx_eccCorrectable (s : State) (h : Nat) (c : Ctx) : (putCtx s h c).eccCorrectable = s.eccCorrectable := rfl
@[simp] theorem putCtx_eccUncorrectable (s : State) (h : Nat) (c : Ctx) : (putCtx s h c).eccUncorrectable = s.eccUncorrectable := rfl
@[simp] theorem putCtx_faultLog (s : State) (h : Nat) (c : Ctx) : (putCtx s h c).faultLog = s.faultLog := rfl
@[simp] theorem putCtx_ready (s : State) (h : Nat) (c : Ctx) : (putCtx s h c).ready = s.ready := rfl
@[simp] theorem putCtx_drain (s : State) (h : Nat) (c : Ctx) : (putCtx s h c).drain = s.drain := rfl
@[simp] theorem putCtx_outOfService (s : State) (h : Nat) (c : Ctx) : (putCtx s h c).outOfService = s.outOfService := rfl
@[simp] theorem putCtx_grade4 (s : State) (h : Nat) (c : Ctx) : (putCtx s h c).grade4 = s.grade4 := rfl
@[simp] theorem putCtx_gzbase (s : State) (h : Nat) (c : Ctx) : (putCtx s h c).gzbase = s.gzbase := rfl
@[simp] theorem putCtx_gzed (s : State) (h : Nat) (c : Ctx) : (putCtx s h c).gzed = s.gzed := rfl
@[simp] theorem putCtx_gzChanged (s : State) (h : Nat) (c : Ctx) : (putCtx s h c).gzChanged = s.gzChanged := rfl
@[simp] theorem putCtx_gzLast (s : State) (h : Nat) (c : Ctx) : (putCtx s h c).gzLast = s.gzLast := rfl
@[simp] theorem putCtx_doorbells (s : State) (h : Nat) (c : Ctx) : (putCtx s h c).doorbells = s.doorbells := rfl
@[simp] theorem putCtx_ports (s : State) (h : Nat) (c : Ctx) : (putCtx s h c).ports = s.ports := rfl
@[simp] theorem putCtx_collectives (s : State) (h : Nat) (c : Ctx) : (putCtx s h c).collectives = s.collectives := rfl
@[simp] theorem putCtx_net (s : State) (h : Nat) (c : Ctx) : (putCtx s h c).net = s.net := rfl
@[simp] theorem putCtx_guards (s : State) (h : Nat) (c : Ctx) : (putCtx s h c).guards = s.guards := rfl
@[simp] theorem putCtx_survey (s : State) (h : Nat) (c : Ctx) : (putCtx s h c).survey = s.survey := rfl
@[simp] theorem putCtx_moduleId (s : State) (h : Nat) (c : Ctx) : (putCtx s h c).moduleId = s.moduleId := rfl
@[simp] theorem putCtx_replicated (s : State) (h : Nat) (c : Ctx) : (putCtx s h c).replicated = s.replicated := rfl
@[simp] theorem putCtx_flash (s : State) (h : Nat) (c : Ctx) : (putCtx s h c).flash = s.flash := rfl
@[simp] theorem putCtx_measured (s : State) (h : Nat) (c : Ctx) : (putCtx s h c).measured = s.measured := rfl
@[simp] theorem putCtx_nextId (s : State) (h : Nat) (c : Ctx) : (putCtx s h c).nextId = s.nextId := rfl
@[simp] theorem putCtx_nextPacket (s : State) (h : Nat) (c : Ctx) : (putCtx s h c).nextPacket = s.nextPacket := rfl
@[simp] theorem putCtx_cycle (s : State) (h : Nat) (c : Ctx) : (putCtx s h c).cycle = s.cycle := rfl
@[simp] theorem putCtx_cur (s : State) (h : Nat) (c : Ctx) : (putCtx s h c).cur = s.cur := rfl
@[simp] theorem putCtx_agenda (s : State) (h : Nat) (c : Ctx) : (putCtx s h c).agenda = s.agenda := rfl
@[simp] theorem putCtx_fresh (s : State) (h : Nat) (c : Ctx) : (putCtx s h c).fresh = s.fresh := rfl
@[simp] theorem putCurCtx_clusters (s : State) (c : Ctx) : (putCurCtx s c).clusters = s.clusters := rfl
@[simp] theorem putCurCtx_plats (s : State) (c : Ctx) : (putCurCtx s c).plats = s.plats := rfl
@[simp] theorem putCurCtx_launches (s : State) (c : Ctx) : (putCurCtx s c).launches = s.launches := rfl
@[simp] theorem putCurCtx_waitList (s : State) (c : Ctx) : (putCurCtx s c).waitList = s.waitList := rfl
@[simp] theorem putCurCtx_counters (s : State) (c : Ctx) : (putCurCtx s c).counters = s.counters := rfl
@[simp] theorem putCurCtx_queues (s : State) (c : Ctx) : (putCurCtx s c).queues = s.queues := rfl
@[simp] theorem putCurCtx_grants (s : State) (c : Ctx) : (putCurCtx s c).grants = s.grants := rfl
@[simp] theorem putCurCtx_cache (s : State) (c : Ctx) : (putCurCtx s c).cache = s.cache := rfl
@[simp] theorem putCurCtx_minSerial (s : State) (c : Ctx) : (putCurCtx s c).minSerial = s.minSerial := rfl
@[simp] theorem putCurCtx_tagCtr (s : State) (c : Ctx) : (putCurCtx s c).tagCtr = s.tagCtr := rfl
@[simp] theorem putCurCtx_ownCtr (s : State) (c : Ctx) : (putCurCtx s c).ownCtr = s.ownCtr := rfl
@[simp] theorem putCurCtx_residueSerial (s : State) (c : Ctx) : (putCurCtx s c).residueSerial = s.residueSerial := rfl
@[simp] theorem putCurCtx_residues (s : State) (c : Ctx) : (putCurCtx s c).residues = s.residues := rfl
@[simp] theorem putCurCtx_hbm (s : State) (c : Ctx) : (putCurCtx s c).hbm = s.hbm := rfl
@[simp] theorem putCurCtx_poison (s : State) (c : Ctx) : (putCurCtx s c).poison = s.poison := rfl
@[simp] theorem putCurCtx_remap (s : State) (c : Ctx) : (putCurCtx s c).remap = s.remap := rfl
@[simp] theorem putCurCtx_migrations (s : State) (c : Ctx) : (putCurCtx s c).migrations = s.migrations := rfl
@[simp] theorem putCurCtx_retiredPages (s : State) (c : Ctx) : (putCurCtx s c).retiredPages = s.retiredPages := rfl
@[simp] theorem putCurCtx_llc (s : State) (c : Ctx) : (putCurCtx s c).llc = s.llc := rfl
@[simp] theorem putCurCtx_hostMem (s : State) (c : Ctx) : (putCurCtx s c).hostMem = s.hostMem := rfl
@[simp] theorem putCurCtx_retiredClusters (s : State) (c : Ctx) : (putCurCtx s c).retiredClusters = s.retiredClusters := rfl
@[simp] theorem putCurCtx_eccCorrectable (s : State) (c : Ctx) : (putCurCtx s c).eccCorrectable = s.eccCorrectable := rfl
@[simp] theorem putCurCtx_eccUncorrectable (s : State) (c : Ctx) : (putCurCtx s c).eccUncorrectable = s.eccUncorrectable := rfl
@[simp] theorem putCurCtx_faultLog (s : State) (c : Ctx) : (putCurCtx s c).faultLog = s.faultLog := rfl
@[simp] theorem putCurCtx_ready (s : State) (c : Ctx) : (putCurCtx s c).ready = s.ready := rfl
@[simp] theorem putCurCtx_drain (s : State) (c : Ctx) : (putCurCtx s c).drain = s.drain := rfl
@[simp] theorem putCurCtx_outOfService (s : State) (c : Ctx) : (putCurCtx s c).outOfService = s.outOfService := rfl
@[simp] theorem putCurCtx_grade4 (s : State) (c : Ctx) : (putCurCtx s c).grade4 = s.grade4 := rfl
@[simp] theorem putCurCtx_gzbase (s : State) (c : Ctx) : (putCurCtx s c).gzbase = s.gzbase := rfl
@[simp] theorem putCurCtx_gzed (s : State) (c : Ctx) : (putCurCtx s c).gzed = s.gzed := rfl
@[simp] theorem putCurCtx_gzChanged (s : State) (c : Ctx) : (putCurCtx s c).gzChanged = s.gzChanged := rfl
@[simp] theorem putCurCtx_gzLast (s : State) (c : Ctx) : (putCurCtx s c).gzLast = s.gzLast := rfl
@[simp] theorem putCurCtx_doorbells (s : State) (c : Ctx) : (putCurCtx s c).doorbells = s.doorbells := rfl
@[simp] theorem putCurCtx_ports (s : State) (c : Ctx) : (putCurCtx s c).ports = s.ports := rfl
@[simp] theorem putCurCtx_collectives (s : State) (c : Ctx) : (putCurCtx s c).collectives = s.collectives := rfl
@[simp] theorem putCurCtx_net (s : State) (c : Ctx) : (putCurCtx s c).net = s.net := rfl
@[simp] theorem putCurCtx_guards (s : State) (c : Ctx) : (putCurCtx s c).guards = s.guards := rfl
@[simp] theorem putCurCtx_survey (s : State) (c : Ctx) : (putCurCtx s c).survey = s.survey := rfl
@[simp] theorem putCurCtx_moduleId (s : State) (c : Ctx) : (putCurCtx s c).moduleId = s.moduleId := rfl
@[simp] theorem putCurCtx_replicated (s : State) (c : Ctx) : (putCurCtx s c).replicated = s.replicated := rfl
@[simp] theorem putCurCtx_flash (s : State) (c : Ctx) : (putCurCtx s c).flash = s.flash := rfl
@[simp] theorem putCurCtx_measured (s : State) (c : Ctx) : (putCurCtx s c).measured = s.measured := rfl
@[simp] theorem putCurCtx_nextId (s : State) (c : Ctx) : (putCurCtx s c).nextId = s.nextId := rfl
@[simp] theorem putCurCtx_nextPacket (s : State) (c : Ctx) : (putCurCtx s c).nextPacket = s.nextPacket := rfl
@[simp] theorem putCurCtx_cycle (s : State) (c : Ctx) : (putCurCtx s c).cycle = s.cycle := rfl
@[simp] theorem putCurCtx_cur (s : State) (c : Ctx) : (putCurCtx s c).cur = s.cur := rfl
@[simp] theorem putCurCtx_agenda (s : State) (c : Ctx) : (putCurCtx s c).agenda = s.agenda := rfl
@[simp] theorem putCurCtx_fresh (s : State) (c : Ctx) : (putCurCtx s c).fresh = s.fresh := rfl
@[simp] theorem putCluster_harts (s : State) (k : Nat) (C : Cluster) : (putCluster s k C).harts = s.harts := rfl
@[simp] theorem putCluster_plats (s : State) (k : Nat) (C : Cluster) : (putCluster s k C).plats = s.plats := rfl
@[simp] theorem putCluster_launches (s : State) (k : Nat) (C : Cluster) : (putCluster s k C).launches = s.launches := rfl
@[simp] theorem putCluster_waitList (s : State) (k : Nat) (C : Cluster) : (putCluster s k C).waitList = s.waitList := rfl
@[simp] theorem putCluster_counters (s : State) (k : Nat) (C : Cluster) : (putCluster s k C).counters = s.counters := rfl
@[simp] theorem putCluster_queues (s : State) (k : Nat) (C : Cluster) : (putCluster s k C).queues = s.queues := rfl
@[simp] theorem putCluster_grants (s : State) (k : Nat) (C : Cluster) : (putCluster s k C).grants = s.grants := rfl
@[simp] theorem putCluster_cache (s : State) (k : Nat) (C : Cluster) : (putCluster s k C).cache = s.cache := rfl
@[simp] theorem putCluster_minSerial (s : State) (k : Nat) (C : Cluster) : (putCluster s k C).minSerial = s.minSerial := rfl
@[simp] theorem putCluster_tagCtr (s : State) (k : Nat) (C : Cluster) : (putCluster s k C).tagCtr = s.tagCtr := rfl
@[simp] theorem putCluster_ownCtr (s : State) (k : Nat) (C : Cluster) : (putCluster s k C).ownCtr = s.ownCtr := rfl
@[simp] theorem putCluster_residueSerial (s : State) (k : Nat) (C : Cluster) : (putCluster s k C).residueSerial = s.residueSerial := rfl
@[simp] theorem putCluster_residues (s : State) (k : Nat) (C : Cluster) : (putCluster s k C).residues = s.residues := rfl
@[simp] theorem putCluster_hbm (s : State) (k : Nat) (C : Cluster) : (putCluster s k C).hbm = s.hbm := rfl
@[simp] theorem putCluster_poison (s : State) (k : Nat) (C : Cluster) : (putCluster s k C).poison = s.poison := rfl
@[simp] theorem putCluster_remap (s : State) (k : Nat) (C : Cluster) : (putCluster s k C).remap = s.remap := rfl
@[simp] theorem putCluster_migrations (s : State) (k : Nat) (C : Cluster) : (putCluster s k C).migrations = s.migrations := rfl
@[simp] theorem putCluster_retiredPages (s : State) (k : Nat) (C : Cluster) : (putCluster s k C).retiredPages = s.retiredPages := rfl
@[simp] theorem putCluster_llc (s : State) (k : Nat) (C : Cluster) : (putCluster s k C).llc = s.llc := rfl
@[simp] theorem putCluster_hostMem (s : State) (k : Nat) (C : Cluster) : (putCluster s k C).hostMem = s.hostMem := rfl
@[simp] theorem putCluster_retiredClusters (s : State) (k : Nat) (C : Cluster) : (putCluster s k C).retiredClusters = s.retiredClusters := rfl
@[simp] theorem putCluster_eccCorrectable (s : State) (k : Nat) (C : Cluster) : (putCluster s k C).eccCorrectable = s.eccCorrectable := rfl
@[simp] theorem putCluster_eccUncorrectable (s : State) (k : Nat) (C : Cluster) : (putCluster s k C).eccUncorrectable = s.eccUncorrectable := rfl
@[simp] theorem putCluster_faultLog (s : State) (k : Nat) (C : Cluster) : (putCluster s k C).faultLog = s.faultLog := rfl
@[simp] theorem putCluster_ready (s : State) (k : Nat) (C : Cluster) : (putCluster s k C).ready = s.ready := rfl
@[simp] theorem putCluster_drain (s : State) (k : Nat) (C : Cluster) : (putCluster s k C).drain = s.drain := rfl
@[simp] theorem putCluster_outOfService (s : State) (k : Nat) (C : Cluster) : (putCluster s k C).outOfService = s.outOfService := rfl
@[simp] theorem putCluster_grade4 (s : State) (k : Nat) (C : Cluster) : (putCluster s k C).grade4 = s.grade4 := rfl
@[simp] theorem putCluster_gzbase (s : State) (k : Nat) (C : Cluster) : (putCluster s k C).gzbase = s.gzbase := rfl
@[simp] theorem putCluster_gzed (s : State) (k : Nat) (C : Cluster) : (putCluster s k C).gzed = s.gzed := rfl
@[simp] theorem putCluster_gzChanged (s : State) (k : Nat) (C : Cluster) : (putCluster s k C).gzChanged = s.gzChanged := rfl
@[simp] theorem putCluster_gzLast (s : State) (k : Nat) (C : Cluster) : (putCluster s k C).gzLast = s.gzLast := rfl
@[simp] theorem putCluster_doorbells (s : State) (k : Nat) (C : Cluster) : (putCluster s k C).doorbells = s.doorbells := rfl
@[simp] theorem putCluster_ports (s : State) (k : Nat) (C : Cluster) : (putCluster s k C).ports = s.ports := rfl
@[simp] theorem putCluster_collectives (s : State) (k : Nat) (C : Cluster) : (putCluster s k C).collectives = s.collectives := rfl
@[simp] theorem putCluster_net (s : State) (k : Nat) (C : Cluster) : (putCluster s k C).net = s.net := rfl
@[simp] theorem putCluster_guards (s : State) (k : Nat) (C : Cluster) : (putCluster s k C).guards = s.guards := rfl
@[simp] theorem putCluster_survey (s : State) (k : Nat) (C : Cluster) : (putCluster s k C).survey = s.survey := rfl
@[simp] theorem putCluster_moduleId (s : State) (k : Nat) (C : Cluster) : (putCluster s k C).moduleId = s.moduleId := rfl
@[simp] theorem putCluster_replicated (s : State) (k : Nat) (C : Cluster) : (putCluster s k C).replicated = s.replicated := rfl
@[simp] theorem putCluster_flash (s : State) (k : Nat) (C : Cluster) : (putCluster s k C).flash = s.flash := rfl
@[simp] theorem putCluster_measured (s : State) (k : Nat) (C : Cluster) : (putCluster s k C).measured = s.measured := rfl
@[simp] theorem putCluster_nextId (s : State) (k : Nat) (C : Cluster) : (putCluster s k C).nextId = s.nextId := rfl
@[simp] theorem putCluster_nextPacket (s : State) (k : Nat) (C : Cluster) : (putCluster s k C).nextPacket = s.nextPacket := rfl
@[simp] theorem putCluster_cycle (s : State) (k : Nat) (C : Cluster) : (putCluster s k C).cycle = s.cycle := rfl
@[simp] theorem putCluster_cur (s : State) (k : Nat) (C : Cluster) : (putCluster s k C).cur = s.cur := rfl
@[simp] theorem putCluster_agenda (s : State) (k : Nat) (C : Cluster) : (putCluster s k C).agenda = s.agenda := rfl
@[simp] theorem putCluster_fresh (s : State) (k : Nat) (C : Cluster) : (putCluster s k C).fresh = s.fresh := rfl
@[simp] theorem putPlat_harts (s : State) (p : Nat) (P : PlatEntry) : (putPlat s p P).harts = s.harts := rfl
@[simp] theorem putPlat_clusters (s : State) (p : Nat) (P : PlatEntry) : (putPlat s p P).clusters = s.clusters := rfl
@[simp] theorem putPlat_launches (s : State) (p : Nat) (P : PlatEntry) : (putPlat s p P).launches = s.launches := rfl
@[simp] theorem putPlat_waitList (s : State) (p : Nat) (P : PlatEntry) : (putPlat s p P).waitList = s.waitList := rfl
@[simp] theorem putPlat_counters (s : State) (p : Nat) (P : PlatEntry) : (putPlat s p P).counters = s.counters := rfl
@[simp] theorem putPlat_queues (s : State) (p : Nat) (P : PlatEntry) : (putPlat s p P).queues = s.queues := rfl
@[simp] theorem putPlat_grants (s : State) (p : Nat) (P : PlatEntry) : (putPlat s p P).grants = s.grants := rfl
@[simp] theorem putPlat_cache (s : State) (p : Nat) (P : PlatEntry) : (putPlat s p P).cache = s.cache := rfl
@[simp] theorem putPlat_minSerial (s : State) (p : Nat) (P : PlatEntry) : (putPlat s p P).minSerial = s.minSerial := rfl
@[simp] theorem putPlat_tagCtr (s : State) (p : Nat) (P : PlatEntry) : (putPlat s p P).tagCtr = s.tagCtr := rfl
@[simp] theorem putPlat_ownCtr (s : State) (p : Nat) (P : PlatEntry) : (putPlat s p P).ownCtr = s.ownCtr := rfl
@[simp] theorem putPlat_residueSerial (s : State) (p : Nat) (P : PlatEntry) : (putPlat s p P).residueSerial = s.residueSerial := rfl
@[simp] theorem putPlat_residues (s : State) (p : Nat) (P : PlatEntry) : (putPlat s p P).residues = s.residues := rfl
@[simp] theorem putPlat_hbm (s : State) (p : Nat) (P : PlatEntry) : (putPlat s p P).hbm = s.hbm := rfl
@[simp] theorem putPlat_poison (s : State) (p : Nat) (P : PlatEntry) : (putPlat s p P).poison = s.poison := rfl
@[simp] theorem putPlat_remap (s : State) (p : Nat) (P : PlatEntry) : (putPlat s p P).remap = s.remap := rfl
@[simp] theorem putPlat_migrations (s : State) (p : Nat) (P : PlatEntry) : (putPlat s p P).migrations = s.migrations := rfl
@[simp] theorem putPlat_retiredPages (s : State) (p : Nat) (P : PlatEntry) : (putPlat s p P).retiredPages = s.retiredPages := rfl
@[simp] theorem putPlat_llc (s : State) (p : Nat) (P : PlatEntry) : (putPlat s p P).llc = s.llc := rfl
@[simp] theorem putPlat_hostMem (s : State) (p : Nat) (P : PlatEntry) : (putPlat s p P).hostMem = s.hostMem := rfl
@[simp] theorem putPlat_retiredClusters (s : State) (p : Nat) (P : PlatEntry) : (putPlat s p P).retiredClusters = s.retiredClusters := rfl
@[simp] theorem putPlat_eccCorrectable (s : State) (p : Nat) (P : PlatEntry) : (putPlat s p P).eccCorrectable = s.eccCorrectable := rfl
@[simp] theorem putPlat_eccUncorrectable (s : State) (p : Nat) (P : PlatEntry) : (putPlat s p P).eccUncorrectable = s.eccUncorrectable := rfl
@[simp] theorem putPlat_faultLog (s : State) (p : Nat) (P : PlatEntry) : (putPlat s p P).faultLog = s.faultLog := rfl
@[simp] theorem putPlat_ready (s : State) (p : Nat) (P : PlatEntry) : (putPlat s p P).ready = s.ready := rfl
@[simp] theorem putPlat_drain (s : State) (p : Nat) (P : PlatEntry) : (putPlat s p P).drain = s.drain := rfl
@[simp] theorem putPlat_outOfService (s : State) (p : Nat) (P : PlatEntry) : (putPlat s p P).outOfService = s.outOfService := rfl
@[simp] theorem putPlat_grade4 (s : State) (p : Nat) (P : PlatEntry) : (putPlat s p P).grade4 = s.grade4 := rfl
@[simp] theorem putPlat_gzbase (s : State) (p : Nat) (P : PlatEntry) : (putPlat s p P).gzbase = s.gzbase := rfl
@[simp] theorem putPlat_gzed (s : State) (p : Nat) (P : PlatEntry) : (putPlat s p P).gzed = s.gzed := rfl
@[simp] theorem putPlat_gzChanged (s : State) (p : Nat) (P : PlatEntry) : (putPlat s p P).gzChanged = s.gzChanged := rfl
@[simp] theorem putPlat_gzLast (s : State) (p : Nat) (P : PlatEntry) : (putPlat s p P).gzLast = s.gzLast := rfl
@[simp] theorem putPlat_doorbells (s : State) (p : Nat) (P : PlatEntry) : (putPlat s p P).doorbells = s.doorbells := rfl
@[simp] theorem putPlat_ports (s : State) (p : Nat) (P : PlatEntry) : (putPlat s p P).ports = s.ports := rfl
@[simp] theorem putPlat_collectives (s : State) (p : Nat) (P : PlatEntry) : (putPlat s p P).collectives = s.collectives := rfl
@[simp] theorem putPlat_net (s : State) (p : Nat) (P : PlatEntry) : (putPlat s p P).net = s.net := rfl
@[simp] theorem putPlat_guards (s : State) (p : Nat) (P : PlatEntry) : (putPlat s p P).guards = s.guards := rfl
@[simp] theorem putPlat_survey (s : State) (p : Nat) (P : PlatEntry) : (putPlat s p P).survey = s.survey := rfl
@[simp] theorem putPlat_moduleId (s : State) (p : Nat) (P : PlatEntry) : (putPlat s p P).moduleId = s.moduleId := rfl
@[simp] theorem putPlat_replicated (s : State) (p : Nat) (P : PlatEntry) : (putPlat s p P).replicated = s.replicated := rfl
@[simp] theorem putPlat_flash (s : State) (p : Nat) (P : PlatEntry) : (putPlat s p P).flash = s.flash := rfl
@[simp] theorem putPlat_measured (s : State) (p : Nat) (P : PlatEntry) : (putPlat s p P).measured = s.measured := rfl
@[simp] theorem putPlat_nextId (s : State) (p : Nat) (P : PlatEntry) : (putPlat s p P).nextId = s.nextId := rfl
@[simp] theorem putPlat_nextPacket (s : State) (p : Nat) (P : PlatEntry) : (putPlat s p P).nextPacket = s.nextPacket := rfl
@[simp] theorem putPlat_cycle (s : State) (p : Nat) (P : PlatEntry) : (putPlat s p P).cycle = s.cycle := rfl
@[simp] theorem putPlat_cur (s : State) (p : Nat) (P : PlatEntry) : (putPlat s p P).cur = s.cur := rfl
@[simp] theorem putPlat_agenda (s : State) (p : Nat) (P : PlatEntry) : (putPlat s p P).agenda = s.agenda := rfl
@[simp] theorem putPlat_fresh (s : State) (p : Nat) (P : PlatEntry) : (putPlat s p P).fresh = s.fresh := rfl
@[simp] theorem putLaunch_harts (s : State) (L : Nat) (l : Launch) : (putLaunch s L l).harts = s.harts := rfl
@[simp] theorem putLaunch_clusters (s : State) (L : Nat) (l : Launch) : (putLaunch s L l).clusters = s.clusters := rfl
@[simp] theorem putLaunch_plats (s : State) (L : Nat) (l : Launch) : (putLaunch s L l).plats = s.plats := rfl
@[simp] theorem putLaunch_waitList (s : State) (L : Nat) (l : Launch) : (putLaunch s L l).waitList = s.waitList := rfl
@[simp] theorem putLaunch_counters (s : State) (L : Nat) (l : Launch) : (putLaunch s L l).counters = s.counters := rfl
@[simp] theorem putLaunch_queues (s : State) (L : Nat) (l : Launch) : (putLaunch s L l).queues = s.queues := rfl
@[simp] theorem putLaunch_grants (s : State) (L : Nat) (l : Launch) : (putLaunch s L l).grants = s.grants := rfl
@[simp] theorem putLaunch_cache (s : State) (L : Nat) (l : Launch) : (putLaunch s L l).cache = s.cache := rfl
@[simp] theorem putLaunch_minSerial (s : State) (L : Nat) (l : Launch) : (putLaunch s L l).minSerial = s.minSerial := rfl
@[simp] theorem putLaunch_tagCtr (s : State) (L : Nat) (l : Launch) : (putLaunch s L l).tagCtr = s.tagCtr := rfl
@[simp] theorem putLaunch_ownCtr (s : State) (L : Nat) (l : Launch) : (putLaunch s L l).ownCtr = s.ownCtr := rfl
@[simp] theorem putLaunch_residueSerial (s : State) (L : Nat) (l : Launch) : (putLaunch s L l).residueSerial = s.residueSerial := rfl
@[simp] theorem putLaunch_residues (s : State) (L : Nat) (l : Launch) : (putLaunch s L l).residues = s.residues := rfl
@[simp] theorem putLaunch_hbm (s : State) (L : Nat) (l : Launch) : (putLaunch s L l).hbm = s.hbm := rfl
@[simp] theorem putLaunch_poison (s : State) (L : Nat) (l : Launch) : (putLaunch s L l).poison = s.poison := rfl
@[simp] theorem putLaunch_remap (s : State) (L : Nat) (l : Launch) : (putLaunch s L l).remap = s.remap := rfl
@[simp] theorem putLaunch_migrations (s : State) (L : Nat) (l : Launch) : (putLaunch s L l).migrations = s.migrations := rfl
@[simp] theorem putLaunch_retiredPages (s : State) (L : Nat) (l : Launch) : (putLaunch s L l).retiredPages = s.retiredPages := rfl
@[simp] theorem putLaunch_llc (s : State) (L : Nat) (l : Launch) : (putLaunch s L l).llc = s.llc := rfl
@[simp] theorem putLaunch_hostMem (s : State) (L : Nat) (l : Launch) : (putLaunch s L l).hostMem = s.hostMem := rfl
@[simp] theorem putLaunch_retiredClusters (s : State) (L : Nat) (l : Launch) : (putLaunch s L l).retiredClusters = s.retiredClusters := rfl
@[simp] theorem putLaunch_eccCorrectable (s : State) (L : Nat) (l : Launch) : (putLaunch s L l).eccCorrectable = s.eccCorrectable := rfl
@[simp] theorem putLaunch_eccUncorrectable (s : State) (L : Nat) (l : Launch) : (putLaunch s L l).eccUncorrectable = s.eccUncorrectable := rfl
@[simp] theorem putLaunch_faultLog (s : State) (L : Nat) (l : Launch) : (putLaunch s L l).faultLog = s.faultLog := rfl
@[simp] theorem putLaunch_ready (s : State) (L : Nat) (l : Launch) : (putLaunch s L l).ready = s.ready := rfl
@[simp] theorem putLaunch_drain (s : State) (L : Nat) (l : Launch) : (putLaunch s L l).drain = s.drain := rfl
@[simp] theorem putLaunch_outOfService (s : State) (L : Nat) (l : Launch) : (putLaunch s L l).outOfService = s.outOfService := rfl
@[simp] theorem putLaunch_grade4 (s : State) (L : Nat) (l : Launch) : (putLaunch s L l).grade4 = s.grade4 := rfl
@[simp] theorem putLaunch_gzbase (s : State) (L : Nat) (l : Launch) : (putLaunch s L l).gzbase = s.gzbase := rfl
@[simp] theorem putLaunch_gzed (s : State) (L : Nat) (l : Launch) : (putLaunch s L l).gzed = s.gzed := rfl
@[simp] theorem putLaunch_gzChanged (s : State) (L : Nat) (l : Launch) : (putLaunch s L l).gzChanged = s.gzChanged := rfl
@[simp] theorem putLaunch_gzLast (s : State) (L : Nat) (l : Launch) : (putLaunch s L l).gzLast = s.gzLast := rfl
@[simp] theorem putLaunch_doorbells (s : State) (L : Nat) (l : Launch) : (putLaunch s L l).doorbells = s.doorbells := rfl
@[simp] theorem putLaunch_ports (s : State) (L : Nat) (l : Launch) : (putLaunch s L l).ports = s.ports := rfl
@[simp] theorem putLaunch_collectives (s : State) (L : Nat) (l : Launch) : (putLaunch s L l).collectives = s.collectives := rfl
@[simp] theorem putLaunch_net (s : State) (L : Nat) (l : Launch) : (putLaunch s L l).net = s.net := rfl
@[simp] theorem putLaunch_guards (s : State) (L : Nat) (l : Launch) : (putLaunch s L l).guards = s.guards := rfl
@[simp] theorem putLaunch_survey (s : State) (L : Nat) (l : Launch) : (putLaunch s L l).survey = s.survey := rfl
@[simp] theorem putLaunch_moduleId (s : State) (L : Nat) (l : Launch) : (putLaunch s L l).moduleId = s.moduleId := rfl
@[simp] theorem putLaunch_replicated (s : State) (L : Nat) (l : Launch) : (putLaunch s L l).replicated = s.replicated := rfl
@[simp] theorem putLaunch_flash (s : State) (L : Nat) (l : Launch) : (putLaunch s L l).flash = s.flash := rfl
@[simp] theorem putLaunch_measured (s : State) (L : Nat) (l : Launch) : (putLaunch s L l).measured = s.measured := rfl
@[simp] theorem putLaunch_nextId (s : State) (L : Nat) (l : Launch) : (putLaunch s L l).nextId = s.nextId := rfl
@[simp] theorem putLaunch_nextPacket (s : State) (L : Nat) (l : Launch) : (putLaunch s L l).nextPacket = s.nextPacket := rfl
@[simp] theorem putLaunch_cycle (s : State) (L : Nat) (l : Launch) : (putLaunch s L l).cycle = s.cycle := rfl
@[simp] theorem putLaunch_cur (s : State) (L : Nat) (l : Launch) : (putLaunch s L l).cur = s.cur := rfl
@[simp] theorem putLaunch_agenda (s : State) (L : Nat) (l : Launch) : (putLaunch s L l).agenda = s.agenda := rfl
@[simp] theorem putLaunch_fresh (s : State) (L : Nat) (l : Launch) : (putLaunch s L l).fresh = s.fresh := rfl

/-! ## Harts, slots and contexts after an update -/

@[simp] theorem hartOf_putHart_same (s : State) (h : Nat) (H : Hart) : hartOf (putHart s h H) h = H := by
  simp [hartOf, putHart]
theorem hartOf_putHart_other (s : State) (h k : Nat) (H : Hart) (n : k ≠ h) : hartOf (putHart s h H) k = hartOf s k := by
  simp [hartOf, putHart, SMap.getD_set_other _ _ _ _ _ n]
theorem putHart_putHart (s : State) (h : Nat) (H K : Hart) : putHart (putHart s h H) h K = putHart s h K := by
  simp [putHart, SMap.set_set]
@[simp] theorem Hart.slot_putSlot_same (H : Hart) (n : Nat) (σ : Slot) : (H.putSlot n σ).slot n = σ := by
  simp [Hart.slot, Hart.putSlot]
theorem Hart.slot_putSlot_other (H : Hart) (n k : Nat) (σ : Slot) (d : k % 8 ≠ n % 8) : (H.putSlot n σ).slot k = H.slot k := by
  simp only [Hart.slot, Hart.putSlot]
  exact Vector.getElem_set_ne _ _ (by omega)
@[simp] theorem Hart.putSlot_putSlot (H : Hart) (n : Nat) (σ τ : Slot) : (H.putSlot n σ).putSlot n τ = H.putSlot n τ := by
  simp [Hart.putSlot]
@[simp] theorem slotOf_putSlot_same (s : State) (h n : Nat) (σ : Slot) : slotOf (putSlot s h n σ) h n = σ := by
  simp [slotOf, putSlot]
theorem slotOf_putSlot_otherHart (s : State) (h n k m : Nat) (σ : Slot) (d : k ≠ h) :
    slotOf (putSlot s h n σ) k m = slotOf s k m := by
  simp [slotOf, putSlot, hartOf_putHart_other _ _ _ _ d]
theorem slotOf_putSlot_otherSlot (s : State) (h n m : Nat) (σ : Slot) (d : m % 8 ≠ n % 8) :
    slotOf (putSlot s h n σ) h m = slotOf s h m := by
  simp [slotOf, putSlot, Hart.slot_putSlot_other _ _ _ _ d]
@[simp] theorem putSlot_putSlot (s : State) (h n : Nat) (σ τ : Slot) : putSlot (putSlot s h n σ) h n τ = putSlot s h n τ := by
  simp [putSlot, putHart_putHart]
@[simp] theorem curHart_putHart (s : State) (h : Nat) (H : Hart) : curHart (putHart s h H) = curHart s := rfl
@[simp] theorem curNum_putHart (s : State) (h : Nat) (H : Hart) : curNum (putHart s h H) = curNum s := rfl
@[simp] theorem curHart_putCur (s : State) (σ : Slot) : curHart (putCur s σ) = curHart s := rfl
@[simp] theorem curNum_putCur (s : State) (σ : Slot) : curNum (putCur s σ) = curNum s := rfl
@[simp] theorem curSlot_putCur (s : State) (σ : Slot) : curSlot (putCur s σ) = σ := by simp [curSlot, putCur, putSlot, slotOf, curHart, curNum]
@[simp] theorem putCur_putCur (s : State) (σ τ : Slot) : putCur (putCur s σ) τ = putCur s τ := by
  show putSlot (putSlot s (curHart s) (curNum s) σ) (curHart s) (curNum s) τ = _
  rw [putSlot_putSlot]
  rfl

/-- What core a hart index names after a change of the current slot, as a whole. -/
theorem hartOf_putCur (s : State) (σ : Slot) : hartOf (putCur s σ) (curHart s) = (hartOf s (curHart s)).putSlot (curNum s) σ := by
  simp [putCur, putSlot]
theorem hartOf_putCur_other (s : State) (σ : Slot) (k : Nat) (d : k ≠ curHart s) : hartOf (putCur s σ) k = hartOf s k := by
  simp [putCur, putSlot, hartOf_putHart_other _ _ _ _ d]

@[simp] theorem Hart.putSlot_ctxs (H : Hart) (n : Nat) (σ : Slot) : (H.putSlot n σ).ctxs = H.ctxs := rfl
@[simp] theorem Hart.putSlot_l1 (H : Hart) (n : Nat) (σ : Slot) : (H.putSlot n σ).l1 = H.l1 := rfl
@[simp] theorem Hart.putSlot_out (H : Hart) (n : Nat) (σ : Slot) : (H.putSlot n σ).out = H.out := rfl
@[simp] theorem Hart.putSlot_commit (H : Hart) (n : Nat) (σ : Slot) : (H.putSlot n σ).commit = H.commit := rfl
@[simp] theorem Hart.putSlot_copies (H : Hart) (n : Nat) (σ : Slot) : (H.putSlot n σ).copies = H.copies := rfl
@[simp] theorem Hart.putSlot_fpr (H : Hart) (n : Nat) (σ : Slot) : (H.putSlot n σ).fpr = H.fpr := rfl

/-- The contexts of every core stay where only a slot changes. -/
@[simp] theorem ctxOf_putCur (s : State) (σ : Slot) (h L : Nat) : ctxOf (putCur s σ) h L = ctxOf s h L := by
  by_cases d : h = curHart s
  · subst d; simp [ctxOf, hartOf_putCur, Hart.ctx]
  · simp [ctxOf, hartOf_putCur_other _ _ _ d]

@[simp] theorem launchOf_putHart (s : State) (h : Nat) (H : Hart) (L : Nat) : launchOf (putHart s h H) L = launchOf s L := rfl
@[simp] theorem launchOf_putCur (s : State) (σ : Slot) (L : Nat) : launchOf (putCur s σ) L = launchOf s L := rfl

theorem clusterOf_putCluster_same (s : State) (k : Nat) (C : Cluster) : clusterOf (putCluster s k C) k = C := by
  simp [clusterOf, putCluster]
theorem clusterOf_putCluster_other (s : State) (k j : Nat) (C : Cluster) (d : j ≠ k) :
    clusterOf (putCluster s k C) j = clusterOf s j := by
  simp [clusterOf, putCluster, SMap.getD_set_other _ _ _ _ _ d]
theorem platOf_putPlat_same (s : State) (k : Nat) (P : PlatEntry) : platOf (putPlat s k P) k = P := by simp [platOf, putPlat]
theorem platOf_putPlat_other (s : State) (k j : Nat) (P : PlatEntry) (d : j ≠ k) : platOf (putPlat s k P) j = platOf s j := by
  simp [platOf, putPlat, SMap.getD_set_other _ _ _ _ _ d]
theorem launchOf_putLaunch_same (s : State) (k : Nat) (l : Launch) : launchOf (putLaunch s k l) k = some l := by
  simp [launchOf, putLaunch, SMap.find_set_same]
theorem launchOf_putLaunch_other (s : State) (k j : Nat) (l : Launch) (d : j ≠ k) :
    launchOf (putLaunch s k l) j = launchOf s j := by
  simp [launchOf, putLaunch, SMap.find_set_other _ _ _ _ d]

/-! ## Contexts -/

theorem putCtxIn_find_same (c : Ctx) (cs : List Ctx) :
    (putCtxIn c cs).find? (fun d => d.launch == c.launch) = some c := by
  induction cs with
  | nil => simp [putCtxIn]
  | cons d ds ih =>
    simp only [putCtxIn]
    split
    · simp
    · simp [*]
theorem putCtxIn_find_other (c : Ctx) (cs : List Ctx) (L : Nat) (n : L ≠ c.launch) :
    (putCtxIn c cs).find? (fun d => d.launch == L) = cs.find? (fun d => d.launch == L) := by
  induction cs with
  | nil => simp [putCtxIn, Ne.symm n]
  | cons d ds ih =>
    simp only [putCtxIn]
    split
    · rename_i e; simp [e, Ne.symm n]
    · simp only [List.find?]; split <;> simp_all
@[simp] theorem Hart.ctx_putCtx_same (H : Hart) (c : Ctx) : (H.putCtx c).ctx c.launch = c := by
  simp [Hart.ctx, Hart.putCtx, putCtxIn_find_same]
theorem Hart.ctx_putCtx_other (H : Hart) (c : Ctx) (L : Nat) (n : L ≠ c.launch) : (H.putCtx c).ctx L = H.ctx L := by
  simp [Hart.ctx, Hart.putCtx, putCtxIn_find_other _ _ _ n]

end Sys2Proof.Machine
end

