-- ==== Sys2Proof/Laws/Words.lean ====
section
/-! SUPPORT. Laws of words: what stepping a side does, said once for every word. -/

namespace Sys2Proof.Machine

/-! ## The A-side -/

theorem misuse_bind_none {σ : Slot} (g : Gov) (h : σ.aPrefix = none) :
    (σ.aPrefix.bind fun p => misuse (isFmtA p) g) = none := by simp [h]

theorem onSlot_next {s : State} (f : State → State) (h : curHart s < Config.nHarts) (r : (curSlot s).running = true) :
    onSlot f s = .next (f s) := by
  unfold onSlot
  rw [if_neg (by omega), if_pos r]

/-- Nothing holds a ready A-side. -/
theorem holdA_ready {s : State} (h : AReady s) : holdA s = none := by
  obtain ⟨-, -, h3, h4, h5, -⟩ := h
  simp [holdA, h4, h5]
  omega

/-- A ready A-side whose operation succeeds retires its word. -/
theorem wordA_ok {s t : State} {fl : Flow} {op : Op Flow} (lone : Bool) (h : AReady s) (e : op s = .ok (fl, t)) (n : fl ≠ .stay) :
    wordA lone .none op s = .next (retireAt t (curHart t) (curNum t) (curSlot t) lone fl) := by
  unfold wordA stepA
  rw [onSlot_next _ h.1 h.2.1]
  simp only [holdA_ready h, h.2.2.2.2.2, e, Option.bind_none]
  rw [if_neg n]
  rfl

/-- A word that leaves the slot where it is to be. -/
theorem wordA_stay {s t : State} {op : Op Flow} (lone : Bool) (h : AReady s) (e : op s = .ok (.stay, t)) :
    wordA lone .none op s = .next t := by
  unfold wordA stepA
  rw [onSlot_next _ h.1 h.2.1]
  simp only [holdA_ready h, h.2.2.2.2.2, e, Option.bind_none, if_true]

/-- A ready A-side whose operation waits is marked as waiting. -/
theorem wordA_wait {s : State} {op : Op Flow} {w : Wait} {k : Option State} (lone : Bool) (h : AReady s)
    (e : op s = .error (.wait w k)) : wordA lone .none op s = .next (markA (k.getD s) w) := by
  unfold wordA stepA
  rw [onSlot_next _ h.1 h.2.1]
  simp only [holdA_ready h, h.2.2.2.2.2, e, Option.bind_none]

/-- A ready A-side whose operation waits for earlier ones keeps nothing of the word, and sends on the coalesced bytes that it waits
for. -/
theorem wordA_order {s : State} {op : Op Flow} {ids : List Nat} (lone : Bool) (h : AReady s) (e : op s = .error (.order ids)) :
    wordA lone .none op s = .next (markA (flushIds (curLaunch s) (curHart s) ids s) .order) := by
  unfold wordA stepA
  rw [onSlot_next _ h.1 h.2.1]
  simp only [holdA_ready h, h.2.2.2.2.2, e, Option.bind_none]

/-- A ready A-side whose operation faults takes its trap. -/
theorem wordA_trap {s : State} {op : Op Flow} {f : FaultInfo} {k : Option State} (lone : Bool) (h : AReady s)
    (e : op s = .error (.trap f k)) : wordA lone .none op s = .next (takeTrap s (k.getD s) .aSide f) := by
  unfold wordA stepA
  rw [onSlot_next _ h.1 h.2.1]
  simp only [holdA_ready h, h.2.2.2.2.2, e, Option.bind_none]

theorem bind_ok {α β : Type} {op : Op α} {k : α → Op β} {s t : State} {a : α} (e : op s = .ok (a, t)) :
    (op >>= k) s = k a t := by
  simp only [bind, StateT.bind, Except.bind, e]

theorem bind_error {α β : Type} {op : Op α} {k : α → Op β} {s : State} {x : Stop} (e : op s = .error x) :
    (op >>= k) s = .error x := by
  simp only [bind, StateT.bind, Except.bind, e]

/-- An ordinary C-word whose operation succeeds goes on to the next bundle. -/
theorem plainA_ok {s t : State} {op : Op Unit} (h : AReady s) (e : op s = .ok ((), t)) : plainA op s = .next (endA false t) := by
  unfold plainA
  exact wordA_ok false h (fl := .next) (bind_ok e) (by simp)

theorem plainA_trap {s : State} {op : Op Unit} {f : FaultInfo} {k : Option State} (h : AReady s) (e : op s = .error (.trap f k)) :
    plainA op s = .next (takeTrap s (k.getD s) .aSide f) := by
  unfold plainA
  exact wordA_trap false h (bind_error e)

theorem plainA_wait {s : State} {op : Op Unit} {w : Wait} {k : Option State} (h : AReady s) (e : op s = .error (.wait w k)) :
    plainA op s = .next (markA (k.getD s) w) := by
  unfold plainA
  exact wordA_wait false h (bind_error e)

theorem loneA_ok {s t : State} {op : Op Unit} (h : AReady s) (e : op s = .ok ((), t)) : loneA op s = .next (endA true t) := by
  unfold loneA
  exact wordA_ok true h (fl := .next) (bind_ok e) (by simp)

/-! ## The E-side -/

/-- A ready E-side whose operation succeeds retires its word. -/
theorem wordE_ok {s t : State} {op : Op Unit} (h : EReady s) (e : op s = .ok ((), t)) : wordE .none op s = .next (endE t) := by
  obtain ⟨h1, h2, h3, h4, h5⟩ := h
  unfold wordE
  rw [onSlot_next _ h1 h2]
  unfold stepE
  have n : (curSlot s).ePos.isNone = false := by
    cases q : (curSlot s).ePos <;> simp_all
  simp only [h4, h5, e, n, Option.bind_none, Bool.false_eq_true, if_false]
  rfl

theorem wordE_trap {s : State} {op : Op Unit} {f : FaultInfo} {k : Option State} (h : EReady s) (e : op s = .error (.trap f k)) :
    wordE .none op s = .next (takeTrap s (k.getD s) .eSide f) := by
  obtain ⟨h1, h2, h3, h4, h5⟩ := h
  unfold wordE
  rw [onSlot_next _ h1 h2]
  unfold stepE
  have n : (curSlot s).ePos.isNone = false := by
    cases q : (curSlot s).ePos <;> simp_all
  simp only [h4, h5, e, n, Option.bind_none, Bool.false_eq_true, if_false]

theorem wordE_wait {s : State} {op : Op Unit} {w : Wait} {k : Option State} (h : EReady s) (e : op s = .error (.wait w k)) :
    wordE .none op s = .next (markE (keepTable w (k.getD s)) w) := by
  obtain ⟨h1, h2, h3, h4, h5⟩ := h
  unfold wordE
  rw [onSlot_next _ h1 h2]
  unfold stepE
  have n : (curSlot s).ePos.isNone = false := by
    cases q : (curSlot s).ePos <;> simp_all
  simp only [h4, h5, e, n, Option.bind_none, Bool.false_eq_true, if_false]

end Sys2Proof.Machine
end

