-- ==== Sys2Proof/Laws/Operands.lean ====
section
/-! SUPPORT. Laws of operands: everything that reading a source or writing a destination can do. -/

namespace Sys2Proof.Machine

/-! ## What leaves every slot alone -/

/-- The slots, the launches and the turn are the same. -/
def SlotsKept (s t : State) : Prop := t.cur = s.cur ∧ t.launches = s.launches ∧ ∀ h n, slotOf t h n = slotOf s h n

theorem SlotsKept.refl (s : State) : SlotsKept s s := ⟨rfl, rfl, fun _ _ => rfl⟩
theorem SlotsKept.trans {s t u : State} (a : SlotsKept s t) (b : SlotsKept t u) : SlotsKept s u :=
  ⟨b.1.trans a.1, b.2.1.trans a.2.1, fun h n => (b.2.2 h n).trans (a.2.2 h n)⟩
theorem SlotsKept.curHart {s t : State} (a : SlotsKept s t) : curHart t = curHart s := by simp [Machine.curHart, a.1]
theorem SlotsKept.curNum {s t : State} (a : SlotsKept s t) : curNum t = curNum s := by simp [Machine.curNum, a.1]
theorem SlotsKept.curSlot {s t : State} (a : SlotsKept s t) : curSlot t = curSlot s := by
  simp [Machine.curSlot, a.curHart, a.curNum, a.2.2]
theorem SlotsKept.curLaunch {s t : State} (a : SlotsKept s t) : curLaunch t = curLaunch s := by
  simp [Machine.curLaunch, a.curSlot]
theorem SlotsKept.codeLen {s t : State} (a : SlotsKept s t) (L : Nat) : codeLen t L = codeLen s L := by
  simp [Machine.codeLen, launchOf, a.2.1]

theorem slot_congr {H K : Hart} (e : H.slots = K.slots) (n : Nat) : H.slot n = K.slot n := by simp [Hart.slot, e]

theorem slotsKept_putHart (s : State) (h : Nat) (H : Hart) (e : H.slots = (hartOf s h).slots) : SlotsKept s (putHart s h H) := by
  refine ⟨rfl, rfl, fun k n => ?_⟩
  by_cases d : k = h
  · subst d; simp [slotOf, Hart.slot, e]
  · simp [slotOf, hartOf_putHart_other _ _ _ _ d]

theorem slotsKept_putCtx (s : State) (h : Nat) (c : Ctx) : SlotsKept s (putCtx s h c) := slotsKept_putHart _ _ _ rfl

theorem SMap.find_map {α : Type} (f : Nat × α → α) (k : Nat) (m : SMap α) :
    SMap.find k (m.map fun p => (p.1, f p)) = (SMap.find k m).map fun a => f (k, a) := by
  induction m with
  | nil => rfl
  | cons x m ih =>
    obtain ⟨j, a⟩ := x
    simp only [List.map, SMap.find]
    split
    · subst j; rfl
    · exact ih

/-- A change of every core that leaves its slots alone. -/
theorem slotsKept_mapHarts (s : State) (f : Nat × Hart → Hart) (e : ∀ p, (f p).slots = p.2.slots) :
    SlotsKept s { s with harts := s.harts.map fun p => (p.1, f p) } := by
  refine ⟨rfl, rfl, fun k n => ?_⟩
  refine slot_congr ?_ n
  simp only [hartOf, SMap.getD, SMap.find_map]
  cases SMap.find k s.harts with
  | none => rfl
  | some H => exact e (k, H)

theorem putLine_slots (H : Hart) (k : Nat) (l : L1Line) : (H.putLine k l).slots = H.slots := rfl

theorem slotsKept_invalidate (s : State) (home off : Nat) : SlotsKept s (invalidate s home off) := by
  have := slotsKept_mapHarts s (fun p => p.2.putLine (lineKey home off) { p.2.line (lineKey home off) with shared := none })
    (fun _ => rfl)
  exact ⟨rfl, rfl, this.2.2⟩

/-- A change of the memories of a home, and of its follower where it leads a pair, leaves every slot alone. -/
theorem slotsKept_modHome (s : State) (L home : Nat) (f : Ctx → Ctx) : SlotsKept s (modHome s L home f) := by
  unfold modHome
  simp only
  split
  · exact (slotsKept_putCtx _ _ _).trans (slotsKept_putCtx _ _ _)
  · exact slotsKept_putCtx _ _ _

theorem slotsKept_recallU (s : State) (L home off : Nat) : SlotsKept s (recallU s L home off) := by
  unfold recallU recallWhere
  simp only
  split
  · exact SlotsKept.refl s
  · refine SlotsKept.trans ?_ (slotsKept_modHome _ _ _ _)
    let put (p : Nat × Hart) : Hart := p.2.putLine (lineKey home off) (p.2.line (lineKey home off)).dropU
    have e : (fun p : Nat × Hart => if ((p.2.line (lineKey home off)).ucls.any (fun _ => true) && p.2.hasCtx L) = true then
        (p.1, put p) else p) = fun p : Nat × Hart => (p.1, if ((p.2.line (lineKey home off)).ucls.any (fun _ => true) &&
          p.2.hasCtx L) = true then put p else p.2) := by
      funext p; split <;> rfl
    have k := slotsKept_mapHarts s (fun p => if ((p.2.line (lineKey home off)).ucls.any (fun _ => true) && p.2.hasCtx L) = true
      then put p else p.2) (fun p => by split <;> rfl)
    rw [← e] at k
    exact k

/-- An access that is performed at issue passes the earlier ones, and changes nothing but the guards and which of the core's
operations their homes have accepted. -/
theorem inOrder_ok {d : OpDesc} {s t : State} (e : inOrder d s = .ok ((), t)) :
    ∃ ids gs, t = { makeSure s (curHart s) ids with guards := gs } := by
  unfold inOrder passOrder at e
  simp only at e
  split at e
  · cases e
  · split at e
    · cases e
    · split at e
      · injection e with e; injection e with _ e
        subst e
        unfold addGuards
        split
        · exact ⟨_, _, rfl⟩
        · exact ⟨_, _, rfl⟩
      · cases e

theorem slotsKept_makeSure (s : State) (h : Nat) (ids : List Nat) : SlotsKept s (makeSure s h ids) := by
  unfold makeSure
  split
  · exact SlotsKept.refl s
  · exact slotsKept_putHart _ _ _ rfl

theorem slotsKept_guards (s : State) (gs : List Guard) : SlotsKept s { s with guards := gs } := ⟨rfl, rfl, fun _ _ => rfl⟩

/-- Reading the own scratchpad recalls the copies of the line and changes no slot. -/
theorem ownBytesAt_ok {off n : Nat} {s t : State} {bs : List Byte} (e : ownBytesAt off n s = .ok (bs, t)) :
    t = recallU s (curLaunch s) (curHart s) off := by
  unfold ownBytesAt at e
  injection e with e; injection e with _ e; exact e.symm

/-! ## Taking a computation apart -/

theorem bind_inv {α β : Type} {op : Op α} {k : α → Op β} {s u : State} {b : β} (e : (op >>= k) s = .ok (b, u)) :
    ∃ a t, op s = .ok (a, t) ∧ k a t = .ok (b, u) := by
  simp only [bind, StateT.bind, Except.bind] at e
  split at e
  · cases e
  · rename_i r q
    exact ⟨r.1, r.2, q, e⟩

theorem stopIf_inv {s t : State} {c : Prop} [Decidable c] {x : Op Unit} {y : Unit} (n : ∀ r, x s ≠ .ok r)
    (e : stopIf c x s = .ok (y, t)) : ¬c ∧ s = t := by
  unfold stopIf at e
  split at e
  · exact absurd e (n _)
  · injection e with e; injection e with _ e; exact ⟨‹_›, e⟩

theorem stopIf_ok {s : State} {c : Prop} [Decidable c] {x : Op Unit} (h : ¬c) : stopIf c x s = .ok ((), s) := by
  unfold stopIf; rw [if_neg h]; rfl

theorem stopIf_stop {s : State} {c : Prop} [Decidable c] {x : Op Unit} (h : c) : stopIf c x s = x s := by
  unfold stopIf; rw [if_pos h]

theorem stopSome_inv {α : Type} {s t : State} {o : Option α} {x : α → Op Unit} {y : Unit} (n : ∀ a r, x a s ≠ .ok r)
    (e : stopSome o x s = .ok (y, t)) : o = none ∧ s = t := by
  cases o with
  | none => injection e with e; injection e with _ e; exact ⟨rfl, e⟩
  | some a => exact absurd e (n a _)

theorem pure_inv {α : Type} {s t : State} {a b : α} (e : (pure a : Op α) s = .ok (b, t)) : b = a ∧ s = t := by
  injection e with e; injection e with e1 e2; exact ⟨e1.symm, e2⟩

theorem getSlot_inv {s t : State} {σ : Slot} (e : getSlot s = .ok (σ, t)) : σ = curSlot s ∧ s = t := by
  injection e with e; injection e with e1 e2; exact ⟨e1.symm, e2⟩

theorem get_inv {s t u : State} (e : (get : Op State) s = .ok (u, t)) : u = s ∧ s = t := by
  injection e with e; injection e with e1 e2; exact ⟨e1.symm, e2⟩

theorem modSlot_inv {s t : State} {f : Slot → Slot} {y : Unit} (e : modSlot f s = .ok (y, t)) : t = putCur s (f (curSlot s)) := by
  injection e with e; injection e with _ e; exact e.symm

theorem modState_inv {s t : State} {f : State → State} {y : Unit} (e : modState f s = .ok (y, t)) : t = f s := by
  injection e with e; injection e with _ e; exact e.symm

theorem notPending_inv {s t : State} {d : ADst} {y : Unit} (e : notPending d s = .ok (y, t)) :
    (curSlot s).pendingOn d = none ∧ s = t := by
  unfold notPending at e
  split at e
  · cases e
  · injection e with e; injection e with _ e; exact ⟨‹_›, e⟩

theorem notPending_ok {s : State} {d : ADst} (h : (curSlot s).pendingOn d = none) : notPending d s = .ok ((), s) := by
  simp [notPending, h]

/-! ## Changes of the current slot -/

/-- Beside the current slot every slot, the launches and the turn are the same. -/
def CurSlotOnly (s t : State) : Prop :=
  t.cur = s.cur ∧ t.launches = s.launches ∧
  ∀ h n, (h ≠ curHart s ∨ n % 8 ≠ curNum s % 8) → slotOf t h n = slotOf s h n

theorem CurSlotOnly.refl (s : State) : CurSlotOnly s s := ⟨rfl, rfl, fun _ _ _ => rfl⟩
theorem CurSlotOnly.trans {s t u : State} (a : CurSlotOnly s t) (b : CurSlotOnly t u) : CurSlotOnly s u := by
  refine ⟨b.1.trans a.1, b.2.1.trans a.2.1, fun h n d => (b.2.2 h n ?_).trans (a.2.2 h n d)⟩
  simpa [curHart, curNum, a.1] using d
theorem SlotsKept.only {s t : State} (a : SlotsKept s t) : CurSlotOnly s t := ⟨a.1, a.2.1, fun h n _ => a.2.2 h n⟩
theorem curSlotOnly_putCur (s : State) (σ : Slot) : CurSlotOnly s (putCur s σ) := by
  refine ⟨rfl, rfl, fun h n d => ?_⟩
  by_cases e : h = curHart s
  · subst e
    exact slotOf_putSlot_otherSlot _ _ _ _ _ (by simpa using d)
  · exact slotOf_putSlot_otherHart _ _ _ _ _ _ e
theorem CurSlotOnly.curHart {s t : State} (a : CurSlotOnly s t) : curHart t = curHart s := by simp [Machine.curHart, a.1]
theorem CurSlotOnly.curNum {s t : State} (a : CurSlotOnly s t) : curNum t = curNum s := by simp [Machine.curNum, a.1]
theorem CurSlotOnly.codeLen {s t : State} (a : CurSlotOnly s t) (L : Nat) : codeLen t L = codeLen s L := by
  simp [Machine.codeLen, launchOf, a.2.1]

/-! ## Reading a source of A class -/

/-- A read of a stream register leaves the slots alone but for the register, which it advances (R21). -/
theorem readStream_ok {n : Fin 4} {s t : State} {w : Word} (e : readStream n s = .ok (w, t)) :
    ∃ r u, SlotsKept s u ∧ t = putCur u { curSlot s with sm := (curSlot s).sm.set n r } := by
  unfold readStream at e
  obtain ⟨σ, _, h0, e⟩ := bind_inv e
  obtain ⟨rfl, rfl⟩ := getSlot_inv h0
  obtain ⟨_, _, h1, e⟩ := bind_inv e
  obtain ⟨_, rfl⟩ := stopIf_inv (by simp [waitFor]) h1
  obtain ⟨_, _, h2, e⟩ := bind_inv e
  obtain ⟨_, rfl⟩ := notPending_inv h2
  obtain ⟨_, _, h3, e⟩ := bind_inv e
  obtain ⟨_, rfl⟩ := stopIf_inv (by simp [trapFree]) h3
  obtain ⟨_, _, h4, e⟩ := bind_inv e
  obtain ⟨_, rfl⟩ := stopIf_inv (by simp [trapAt]) h4
  obtain ⟨_, _, h5, e⟩ := bind_inv e
  obtain ⟨rfl, rfl⟩ := get_inv h5
  obtain ⟨_, _, h6, e⟩ := bind_inv e
  obtain ⟨_, rfl⟩ := stopIf_inv (by simp [trapAt]) h6
  obtain ⟨_, _, h7, e⟩ := bind_inv e
  obtain ⟨ids, gs, rfl⟩ := inOrder_ok h7
  obtain ⟨_, _, h8, e⟩ := bind_inv e
  have q := ownBytesAt_ok h8; subst q
  obtain ⟨_, _, h9, e⟩ := bind_inv e
  have q := modSlot_inv h9; subst q
  obtain ⟨_, rfl⟩ := pure_inv e
  have k := fun (s : State) a b c => ((slotsKept_makeSure s (curHart s) ids).trans (slotsKept_guards _ gs)).trans
    (slotsKept_recallU { makeSure s (curHart s) ids with guards := gs } a b c)
  exact ⟨_, _, k _ _ _ _, by rw [(k _ _ _ _).curSlot]⟩

theorem readA_a_inv {n : Fin 16} {s t : State} {w : Word} (e : readA (.a n) s = .ok (w, t)) :
    (curSlot s).pendingOn (.a n) = none ∧ w = (curSlot s).a[n] ∧ s = t := by
  simp only [readA] at e
  obtain ⟨_, _, h, e1⟩ := bind_inv e
  obtain ⟨p, rfl⟩ := notPending_inv h
  obtain ⟨_, _, h, e2⟩ := bind_inv e1
  obtain ⟨rfl, rfl⟩ := getSlot_inv h
  obtain ⟨q, rfl⟩ := pure_inv e2
  exact ⟨p, q, rfl⟩

theorem readA_a {n : Fin 16} {s : State} (h : (curSlot s).pendingOn (.a n) = none) : readA (.a n) s = .ok ((curSlot s).a[n], s) := by
  simp only [readA]
  rw [bind_ok (notPending_ok h)]
  rfl

theorem readA_sq_inv {q : Fin 2} {s t : State} {w : Word} (e : readA (.sq q) s = .ok (w, t)) :
    ∃ x xs, (curSlot s).sq[q] = x :: xs ∧ w = x.scalar ∧ t = putCur s { curSlot s with sq := (curSlot s).sq.set q xs } := by
  simp only [readA] at e
  obtain ⟨_, _, h, e1⟩ := bind_inv e
  obtain ⟨rfl, rfl⟩ := getSlot_inv h
  cases hq : (curSlot s).sq[q] with
  | nil => simp only [hq] at e1; cases e1
  | cons x xs =>
    simp only [hq] at e1
    obtain ⟨_, _, h, e2⟩ := bind_inv e1
    have r := modSlot_inv h; subst r
    obtain ⟨r, rfl⟩ := pure_inv e2
    exact ⟨x, xs, rfl, r, rfl⟩

theorem readA_sq {q : Fin 2} {s : State} {x : QEntry} {xs : List QEntry} (h : (curSlot s).sq[q] = x :: xs) :
    readA (.sq q) s = .ok (x.scalar, putCur s { curSlot s with sq := (curSlot s).sq.set q xs }) := by
  simp only [readA, bind, StateT.bind, Except.bind, getSlot, h]
  rfl

theorem readA_cq_inv {s t : State} {w : Word} (e : readA .cq s = .ok (w, t)) :
    ∃ ws, (curSlot s).cq = w :: ws ∧ t = putCur s { curSlot s with cq := ws } := by
  simp only [readA] at e
  obtain ⟨_, _, h, e1⟩ := bind_inv e
  obtain ⟨rfl, rfl⟩ := getSlot_inv h
  cases hq : (curSlot s).cq with
  | nil => simp only [hq] at e1; cases e1
  | cons x xs =>
    simp only [hq] at e1
    obtain ⟨_, _, h, e2⟩ := bind_inv e1
    have r := modSlot_inv h; subst r
    obtain ⟨r, rfl⟩ := pure_inv e2
    exact ⟨xs, by rw [r], rfl⟩

theorem readA_z_inv {s t : State} {w : Word} (e : readA .z s = .ok (w, t)) : w = 0 ∧ s = t := pure_inv (a := (0 : Word)) e

/-- A read of a source changes at most the queue or the stream register that it names. -/
theorem readA_slot {x : ASrc} {s t : State} {w : Word} (e : readA x s = .ok (w, t)) :
    CurSlotOnly s t ∧ curSlot t = { curSlot s with sq := (curSlot t).sq, cq := (curSlot t).cq, sm := (curSlot t).sm } := by
  cases x with
  | a n =>
    obtain ⟨_, _, rfl⟩ := readA_a_inv e
    exact ⟨CurSlotOnly.refl _, rfl⟩
  | sq q =>
    obtain ⟨_, _, _, _, rfl⟩ := readA_sq_inv e
    exact ⟨curSlotOnly_putCur _ _, by simp⟩
  | cq =>
    obtain ⟨_, _, rfl⟩ := readA_cq_inv e
    exact ⟨curSlotOnly_putCur _ _, by simp⟩
  | sm n =>
    obtain ⟨r, u, k, rfl⟩ := readStream_ok (n := n) e
    exact ⟨k.only.trans (curSlotOnly_putCur _ _), by simp⟩
  | z =>
    obtain ⟨_, rfl⟩ := readA_z_inv e
    exact ⟨CurSlotOnly.refl _, rfl⟩

/-! ## Writing a destination of A class -/

theorem slotsKept_noteFpr (s : State) (h : Nat) (w : Word) : SlotsKept s (noteFpr s h w) :=
  (slotsKept_putHart s h { hartOf s h with fpr := fprStep (hartOf s h).fpr w } rfl).trans (slotsKept_putHart _ _ _ rfl)

theorem noteResult_ok (w : Word) (s : State) : ∃ t, noteResult w s = .ok ((), t) ∧ SlotsKept s t := by
  unfold noteResult
  split
  · exact ⟨_, rfl, slotsKept_noteFpr _ _ _⟩
  · exact ⟨s, rfl, SlotsKept.refl s⟩

theorem noteResult_unpaired {w : Word} {s : State} (h : (curSlot s).paired = false) : noteResult w s = .ok ((), s) := by
  simp [noteResult, h]

/-- A write of a destination changes at most the register or the queue that it names. -/
theorem writeA_slot {d : ADst} {w : Word} {s t : State} {y : Unit} (e : writeA d w s = .ok (y, t)) :
    CurSlotOnly s t ∧ curSlot t = { curSlot s with a := (curSlot t).a, lq := (curSlot t).lq, sm := (curSlot t).sm } := by
  cases d with
  | a n =>
    simp only [writeA] at e
    obtain ⟨_, _, h, e1⟩ := bind_inv e
    obtain ⟨_, rfl⟩ := notPending_inv h
    obtain ⟨_, _, h, e2⟩ := bind_inv e1
    have r := modSlot_inv h; subst r
    obtain ⟨u, q, k⟩ := noteResult_ok w (putCur s { curSlot s with a := (curSlot s).a.set n w })
    rw [q] at e2
    injection e2 with e2; injection e2 with _ e2; subst e2
    refine ⟨(curSlotOnly_putCur _ _).trans k.only, ?_⟩
    rw [k.curSlot]; simp
  | lq n =>
    simp only [writeA] at e
    obtain ⟨_, _, h, e1⟩ := bind_inv e
    unfold pushLq at h
    simp only at h
    split at h
    · cases h
    · injection h with h; injection h with _ h; subst h
      obtain ⟨u, q, k⟩ := noteResult_ok w (putCur s { curSlot s with lq := (curSlot s).lq.set n ((curSlot s).lq[n] ++ [.filled (entryOf w)]) })
      rw [q] at e1
      injection e1 with e1; injection e1 with _ e1; subst e1
      refine ⟨(curSlotOnly_putCur _ _).trans k.only, ?_⟩
      rw [k.curSlot]; simp
  | sm n =>
    simp only [writeA] at e
    obtain ⟨_, _, h, e1⟩ := bind_inv e
    obtain ⟨rfl, rfl⟩ := getSlot_inv h
    obtain ⟨_, _, h, e2⟩ := bind_inv e1
    obtain ⟨_, rfl⟩ := stopIf_inv (by simp [waitFor]) h
    obtain ⟨_, _, h, e3⟩ := bind_inv e2
    obtain ⟨_, rfl⟩ := notPending_inv h
    obtain ⟨_, _, h, e4⟩ := bind_inv e3
    have r := modSlot_inv h; subst r
    obtain ⟨u, q, k⟩ := noteResult_ok w (putCur s { curSlot s with sm := (curSlot s).sm.set n (smWord w) })
    rw [q] at e4
    injection e4 with e4; injection e4 with _ e4; subst e4
    refine ⟨(curSlotOnly_putCur _ _).trans k.only, ?_⟩
    rw [k.curSlot]; simp
  | z =>
    obtain ⟨_, rfl⟩ := pure_inv (a := ()) e
    exact ⟨CurSlotOnly.refl _, rfl⟩

end Sys2Proof.Machine
end

