-- ==== Sys2Proof/Laws/PerInstr.lean ====
section
/-! SUPPORT. Per instruction: the word of a well-formed instruction decodes to it, with every operand (spec/12 R205 to
R216, R344). -/

namespace Sys2Proof.Laws.Encoding

/-- The bundle bits, or the X-word, that the encoder gives a well-formed instruction decode to it. An event has no word. -/
def Statement (i : Instr) : Prop :=
  WellFormed i = true →
    (∀ b, encodeC i = some b → b < 2 ^ 64 ∧ decodeC b = .ok (canonical i)) ∧
    (∀ w, encodeX i = some w → w < 2 ^ 32 ∧ decodeX w = .ok (canonical i))

theorem ofCR {i : Instr} {op d s t md mn : Nat} (hc : encodeC i = some (cR op d s t md mn)) (hx : encodeX i = none) (h0 : op < 64) (h1 : d < 32) (h2 : s < 32) (h3 : t < 32) (h4 : md < 32) (h5 : mn < 32)
    (k : ∀ w, IsCR w op d s t md mn → WellFormed i = true → decodeCMajor w = .ok (canonical i)) : Statement i := by
  intro wf
  refine ⟨fun c q => ?_, fun w q => ?_⟩
  · rw [hc] at q; cases q
    have h := cR_is op d s t md mn h0 h1 h2 h3 h4 h5
    exact ⟨Nat.lt_trans h.lt (by decide), (decodeC_of_lt h.lt).trans (k _ h wf)⟩
  · rw [hx] at q; cases q

theorem ofCI {i : Instr} {op d s imm : Nat} (hc : encodeC i = some (cI op d s imm)) (hx : encodeX i = none) (h0 : op < 64) (h1 : d < 32) (h2 : s < 32) (h3 : imm < 32768)
    (k : ∀ w, IsCI w op d s imm → WellFormed i = true → decodeCMajor w = .ok (canonical i)) : Statement i := by
  intro wf
  refine ⟨fun c q => ?_, fun w q => ?_⟩
  · rw [hc] at q; cases q
    have h := cI_is op d s imm h0 h1 h2 h3
    exact ⟨Nat.lt_trans h.lt (by decide), (decodeC_of_lt h.lt).trans (k _ h wf)⟩
  · rw [hx] at q; cases q

theorem ofCM {i : Instr} {op d b sz ord sc off : Nat} (hc : encodeC i = some (cM op d b sz ord sc off)) (hx : encodeX i = none) (h0 : op < 64) (h1 : d < 32) (h2 : b < 32) (h3 : sz < 8) (h4 : ord < 4) (h5 : sc < 8) (h6 : off < 128)
    (k : ∀ w, IsCM w op d b sz ord sc off → WellFormed i = true → decodeCMajor w = .ok (canonical i)) : Statement i := by
  intro wf
  refine ⟨fun c q => ?_, fun w q => ?_⟩
  · rw [hc] at q; cases q
    have h := cM_is op d b sz ord sc off h0 h1 h2 h3 h4 h5 h6
    exact ⟨Nat.lt_trans h.lt (by decide), (decodeC_of_lt h.lt).trans (k _ h wf)⟩
  · rw [hx] at q; cases q

theorem ofCB {i : Instr} {op s cnd off : Nat} (hc : encodeC i = some (cB op s cnd off)) (hx : encodeX i = none) (h0 : op < 64) (h1 : s < 32) (h2 : cnd < 8) (h3 : off < 131072)
    (k : ∀ w, IsCB w op s cnd off → WellFormed i = true → decodeCMajor w = .ok (canonical i)) : Statement i := by
  intro wf
  refine ⟨fun c q => ?_, fun w q => ?_⟩
  · rw [hc] at q; cases q
    have h := cB_is op s cnd off h0 h1 h2 h3
    exact ⟨Nat.lt_trans h.lt (by decide), (decodeC_of_lt h.lt).trans (k _ h wf)⟩
  · rw [hx] at q; cases q

theorem ofXR {i : Instr} {op d s t pred md mn : Nat} (hc : encodeC i = none) (hx : encodeX i = some (xR op d s t pred md mn)) (h0 : op < 64) (h1 : d < 32) (h2 : s < 32) (h3 : t < 32) (h4 : pred < 8) (h5 : md < 4) (h6 : mn < 64)
    (k : ∀ w, IsXR w op d s t pred md mn → WellFormed i = true → decodeX w = .ok (canonical i)) : Statement i := by
  intro wf
  refine ⟨fun c q => ?_, fun w q => ?_⟩
  · rw [hc] at q; cases q
  · rw [hx] at q; cases q
    have h := xR_is op d s t pred md mn h0 h1 h2 h3 h4 h5 h6
    exact ⟨h.lt, k _ h wf⟩

theorem ofXI {i : Instr} {op d s imm : Nat} (hc : encodeC i = none) (hx : encodeX i = some (xI op d s imm)) (h0 : op < 64) (h1 : d < 32) (h2 : s < 32) (h3 : imm < 65536)
    (k : ∀ w, IsXI w op d s imm → WellFormed i = true → decodeX w = .ok (canonical i)) : Statement i := by
  intro wf
  refine ⟨fun c q => ?_, fun w q => ?_⟩
  · rw [hc] at q; cases q
  · rw [hx] at q; cases q
    have h := xI_is op d s imm h0 h1 h2 h3
    exact ⟨h.lt, k _ h wf⟩

theorem ofLone {i : Instr} {op d s mn imm : Nat} (hc : encodeC i = some (lone op d s mn imm)) (hx : encodeX i = none) (h0 : op < 64)
    (h1 : d < 32) (h2 : s < 32) (h3 : mn < 32) (h4 : imm < 4294967296)
    (k : ∀ b w, IsLone b w op d s mn imm → WellFormed i = true → decodeLone w imm = .ok (canonical i)) : Statement i := by
  intro wf
  refine ⟨fun c q => ?_, fun w q => ?_⟩
  · rw [hc] at q; cases q
    have h := lone_is op d s mn imm h0 h1 h2 h3 h4
    exact ⟨h.lt, h.lone.trans (k _ _ h wf)⟩
  · rw [hx] at q; cases q

theorem ofNone {i : Instr} (hc : encodeC i = none) (hx : encodeX i = none) : Statement i := by
  intro _
  refine ⟨fun c e => ?_, fun v e => ?_⟩
  · rw [hc] at e; cases e
  · rw [hx] at e; cases e

theorem ctlWait (d : ADst) (s : ASrc) (t : ASrc) : Statement (Instr.ctlWait d s t) :=
  ofCR rfl rfl (by decide) (encADst_lt d) (encASrc_lt s) (encASrc_lt t) (by decide) (by decide) fun _ h _ => by
    unfold decodeCMajor; rw [h.op]; show decodeCtl _ = _; unfold decodeCtl cMin; rw [h.mn]
    exact decC3_of h
theorem ctlCallr (s : ASrc) : Statement (Instr.ctlCallr s) :=
  ofCR rfl rfl (by decide) (by decide) (encASrc_lt s) (by decide) (by decide) (by decide) fun _ h _ => by
    unfold decodeCMajor; rw [h.op]; show decodeCtl _ = _; unfold decodeCtl cMin; rw [h.mn]
    exact decCS_of h
theorem ctlJr (s : ASrc) : Statement (Instr.ctlJr s) :=
  ofCR rfl rfl (by decide) (by decide) (encASrc_lt s) (by decide) (by decide) (by decide) fun _ h _ => by
    unfold decodeCMajor; rw [h.op]; show decodeCtl _ = _; unfold decodeCtl cMin; rw [h.mn]
    exact decCS_of h
theorem brAl (off : BitVec 17) : Statement (Instr.brAl off) :=
  ofCB rfl rfl (by decide) (by decide) (by decide) (by have := off.isLt; omega) fun _ h _ => by
    unfold decodeCMajor; rw [h.op]; show decodeBr _ = _; unfold decodeBr; rw [h.cnd]
    exact decBr0_of h
theorem brZ (s : ASrc) (off : BitVec 17) : Statement (Instr.brZ s off) :=
  ofCB rfl rfl (by decide) (encASrc_lt s) (by decide) (by have := off.isLt; omega) fun _ h _ => by
    unfold decodeCMajor; rw [h.op]; show decodeBr _ = _; unfold decodeBr; rw [h.cnd]
    exact decBr_of h
theorem brNz (s : ASrc) (off : BitVec 17) : Statement (Instr.brNz s off) :=
  ofCB rfl rfl (by decide) (encASrc_lt s) (by decide) (by have := off.isLt; omega) fun _ h _ => by
    unfold decodeCMajor; rw [h.op]; show decodeBr _ = _; unfold decodeBr; rw [h.cnd]
    exact decBr_of h
theorem brLz (s : ASrc) (off : BitVec 17) : Statement (Instr.brLz s off) :=
  ofCB rfl rfl (by decide) (encASrc_lt s) (by decide) (by have := off.isLt; omega) fun _ h _ => by
    unfold decodeCMajor; rw [h.op]; show decodeBr _ = _; unfold decodeBr; rw [h.cnd]
    exact decBr_of h
theorem brGez (s : ASrc) (off : BitVec 17) : Statement (Instr.brGez s off) :=
  ofCB rfl rfl (by decide) (encASrc_lt s) (by decide) (by have := off.isLt; omega) fun _ h _ => by
    unfold decodeCMajor; rw [h.op]; show decodeBr _ = _; unfold decodeBr; rw [h.cnd]
    exact decBr_of h
theorem brGz (s : ASrc) (off : BitVec 17) : Statement (Instr.brGz s off) :=
  ofCB rfl rfl (by decide) (encASrc_lt s) (by decide) (by have := off.isLt; omega) fun _ h _ => by
    unfold decodeCMajor; rw [h.op]; show decodeBr _ = _; unfold decodeBr; rw [h.cnd]
    exact decBr_of h
theorem brLez (s : ASrc) (off : BitVec 17) : Statement (Instr.brLez s off) :=
  ofCB rfl rfl (by decide) (encASrc_lt s) (by decide) (by have := off.isLt; omega) fun _ h _ => by
    unfold decodeCMajor; rw [h.op]; show decodeBr _ = _; unfold decodeBr; rw [h.cnd]
    exact decBr_of h
theorem ctlCall (off : BitVec 17) : Statement (Instr.ctlCall off) :=
  ofCB rfl rfl (by decide) (by decide) (by decide) (by have := off.isLt; omega) fun _ h _ => by
    unfold decodeCMajor; rw [h.op]; show decodeCtlB _ = _; unfold decodeCtlB; rw [h.cnd]
    exact decBr0_of h
theorem ctlLoop (s : Fin 16) (off : BitVec 17) : Statement (Instr.ctlLoop s off) :=
  ofCB rfl rfl (by decide) (by have := s.isLt; omega) (by decide) (by have := off.isLt; omega) fun _ h _ => by
    unfold decodeCMajor; rw [h.op]; show decodeCtlB _ = _; unfold decodeCtlB; rw [h.cnd]
    exact decLoop_of h
theorem aluAdd (d : ADst) (s : ASrc) (t : ASrc) : Statement (Instr.aluAdd d s t) :=
  ofCR rfl rfl (by decide) (encADst_lt d) (encASrc_lt s) (encASrc_lt t) (by decide) (by decide) fun _ h _ => by
    unfold decodeCMajor; rw [h.op]; show decodeAlu _ = _; unfold decodeAlu cMin; rw [h.mn]
    exact decC3_of h
theorem aluSub (d : ADst) (s : ASrc) (t : ASrc) : Statement (Instr.aluSub d s t) :=
  ofCR rfl rfl (by decide) (encADst_lt d) (encASrc_lt s) (encASrc_lt t) (by decide) (by decide) fun _ h _ => by
    unfold decodeCMajor; rw [h.op]; show decodeAlu _ = _; unfold decodeAlu cMin; rw [h.mn]
    exact decC3_of h
theorem aluAnd (d : ADst) (s : ASrc) (t : ASrc) : Statement (Instr.aluAnd d s t) :=
  ofCR rfl rfl (by decide) (encADst_lt d) (encASrc_lt s) (encASrc_lt t) (by decide) (by decide) fun _ h _ => by
    unfold decodeCMajor; rw [h.op]; show decodeAlu _ = _; unfold decodeAlu cMin; rw [h.mn]
    exact decC3_of h
theorem aluOr (d : ADst) (s : ASrc) (t : ASrc) : Statement (Instr.aluOr d s t) :=
  ofCR rfl rfl (by decide) (encADst_lt d) (encASrc_lt s) (encASrc_lt t) (by decide) (by decide) fun _ h _ => by
    unfold decodeCMajor; rw [h.op]; show decodeAlu _ = _; unfold decodeAlu cMin; rw [h.mn]
    exact decC3_of h
theorem aluXor (d : ADst) (s : ASrc) (t : ASrc) : Statement (Instr.aluXor d s t) :=
  ofCR rfl rfl (by decide) (encADst_lt d) (encASrc_lt s) (encASrc_lt t) (by decide) (by decide) fun _ h _ => by
    unfold decodeCMajor; rw [h.op]; show decodeAlu _ = _; unfold decodeAlu cMin; rw [h.mn]
    exact decC3_of h
theorem aluSll (d : ADst) (s : ASrc) (t : ASrc) : Statement (Instr.aluSll d s t) :=
  ofCR rfl rfl (by decide) (encADst_lt d) (encASrc_lt s) (encASrc_lt t) (by decide) (by decide) fun _ h _ => by
    unfold decodeCMajor; rw [h.op]; show decodeAlu _ = _; unfold decodeAlu cMin; rw [h.mn]
    exact decC3_of h
theorem aluSrl (d : ADst) (s : ASrc) (t : ASrc) : Statement (Instr.aluSrl d s t) :=
  ofCR rfl rfl (by decide) (encADst_lt d) (encASrc_lt s) (encASrc_lt t) (by decide) (by decide) fun _ h _ => by
    unfold decodeCMajor; rw [h.op]; show decodeAlu _ = _; unfold decodeAlu cMin; rw [h.mn]
    exact decC3_of h
theorem aluSra (d : ADst) (s : ASrc) (t : ASrc) : Statement (Instr.aluSra d s t) :=
  ofCR rfl rfl (by decide) (encADst_lt d) (encASrc_lt s) (encASrc_lt t) (by decide) (by decide) fun _ h _ => by
    unfold decodeCMajor; rw [h.op]; show decodeAlu _ = _; unfold decodeAlu cMin; rw [h.mn]
    exact decC3_of h
theorem aluSlt (d : ADst) (s : ASrc) (t : ASrc) : Statement (Instr.aluSlt d s t) :=
  ofCR rfl rfl (by decide) (encADst_lt d) (encASrc_lt s) (encASrc_lt t) (by decide) (by decide) fun _ h _ => by
    unfold decodeCMajor; rw [h.op]; show decodeAlu _ = _; unfold decodeAlu cMin; rw [h.mn]
    exact decC3_of h
theorem aluSltu (d : ADst) (s : ASrc) (t : ASrc) : Statement (Instr.aluSltu d s t) :=
  ofCR rfl rfl (by decide) (encADst_lt d) (encASrc_lt s) (encASrc_lt t) (by decide) (by decide) fun _ h _ => by
    unfold decodeCMajor; rw [h.op]; show decodeAlu _ = _; unfold decodeAlu cMin; rw [h.mn]
    exact decC3_of h
theorem aluSeq (d : ADst) (s : ASrc) (t : ASrc) : Statement (Instr.aluSeq d s t) :=
  ofCR rfl rfl (by decide) (encADst_lt d) (encASrc_lt s) (encASrc_lt t) (by decide) (by decide) fun _ h _ => by
    unfold decodeCMajor; rw [h.op]; show decodeAlu _ = _; unfold decodeAlu cMin; rw [h.mn]
    exact decC3_of h
theorem aluSne (d : ADst) (s : ASrc) (t : ASrc) : Statement (Instr.aluSne d s t) :=
  ofCR rfl rfl (by decide) (encADst_lt d) (encASrc_lt s) (encASrc_lt t) (by decide) (by decide) fun _ h _ => by
    unfold decodeCMajor; rw [h.op]; show decodeAlu _ = _; unfold decodeAlu cMin; rw [h.mn]
    exact decC3_of h
theorem aluMin (d : ADst) (s : ASrc) (t : ASrc) : Statement (Instr.aluMin d s t) :=
  ofCR rfl rfl (by decide) (encADst_lt d) (encASrc_lt s) (encASrc_lt t) (by decide) (by decide) fun _ h _ => by
    unfold decodeCMajor; rw [h.op]; show decodeAlu _ = _; unfold decodeAlu cMin; rw [h.mn]
    exact decC3_of h
theorem aluMax (d : ADst) (s : ASrc) (t : ASrc) : Statement (Instr.aluMax d s t) :=
  ofCR rfl rfl (by decide) (encADst_lt d) (encASrc_lt s) (encASrc_lt t) (by decide) (by decide) fun _ h _ => by
    unfold decodeCMajor; rw [h.op]; show decodeAlu _ = _; unfold decodeAlu cMin; rw [h.mn]
    exact decC3_of h
theorem aluMinu (d : ADst) (s : ASrc) (t : ASrc) : Statement (Instr.aluMinu d s t) :=
  ofCR rfl rfl (by decide) (encADst_lt d) (encASrc_lt s) (encASrc_lt t) (by decide) (by decide) fun _ h _ => by
    unfold decodeCMajor; rw [h.op]; show decodeAlu _ = _; unfold decodeAlu cMin; rw [h.mn]
    exact decC3_of h
theorem aluMaxu (d : ADst) (s : ASrc) (t : ASrc) : Statement (Instr.aluMaxu d s t) :=
  ofCR rfl rfl (by decide) (encADst_lt d) (encASrc_lt s) (encASrc_lt t) (by decide) (by decide) fun _ h _ => by
    unfold decodeCMajor; rw [h.op]; show decodeAlu _ = _; unfold decodeAlu cMin; rw [h.mn]
    exact decC3_of h
theorem aluMul (d : ADst) (s : ASrc) (t : ASrc) : Statement (Instr.aluMul d s t) :=
  ofCR rfl rfl (by decide) (encADst_lt d) (encASrc_lt s) (encASrc_lt t) (by decide) (by decide) fun _ h _ => by
    unfold decodeCMajor; rw [h.op]; show decodeAlu _ = _; unfold decodeAlu cMin; rw [h.mn]
    exact decC3_of h
theorem aluMulh (d : ADst) (s : ASrc) (t : ASrc) : Statement (Instr.aluMulh d s t) :=
  ofCR rfl rfl (by decide) (encADst_lt d) (encASrc_lt s) (encASrc_lt t) (by decide) (by decide) fun _ h _ => by
    unfold decodeCMajor; rw [h.op]; show decodeAlu _ = _; unfold decodeAlu cMin; rw [h.mn]
    exact decC3_of h
theorem aluMulhu (d : ADst) (s : ASrc) (t : ASrc) : Statement (Instr.aluMulhu d s t) :=
  ofCR rfl rfl (by decide) (encADst_lt d) (encASrc_lt s) (encASrc_lt t) (by decide) (by decide) fun _ h _ => by
    unfold decodeCMajor; rw [h.op]; show decodeAlu _ = _; unfold decodeAlu cMin; rw [h.mn]
    exact decC3_of h
theorem aluDiv (d : ADst) (s : ASrc) (t : ASrc) : Statement (Instr.aluDiv d s t) :=
  ofCR rfl rfl (by decide) (encADst_lt d) (encASrc_lt s) (encASrc_lt t) (by decide) (by decide) fun _ h _ => by
    unfold decodeCMajor; rw [h.op]; show decodeAlu _ = _; unfold decodeAlu cMin; rw [h.mn]
    exact decC3_of h
theorem aluDivu (d : ADst) (s : ASrc) (t : ASrc) : Statement (Instr.aluDivu d s t) :=
  ofCR rfl rfl (by decide) (encADst_lt d) (encASrc_lt s) (encASrc_lt t) (by decide) (by decide) fun _ h _ => by
    unfold decodeCMajor; rw [h.op]; show decodeAlu _ = _; unfold decodeAlu cMin; rw [h.mn]
    exact decC3_of h
theorem aluRem (d : ADst) (s : ASrc) (t : ASrc) : Statement (Instr.aluRem d s t) :=
  ofCR rfl rfl (by decide) (encADst_lt d) (encASrc_lt s) (encASrc_lt t) (by decide) (by decide) fun _ h _ => by
    unfold decodeCMajor; rw [h.op]; show decodeAlu _ = _; unfold decodeAlu cMin; rw [h.mn]
    exact decC3_of h
theorem aluRemu (d : ADst) (s : ASrc) (t : ASrc) : Statement (Instr.aluRemu d s t) :=
  ofCR rfl rfl (by decide) (encADst_lt d) (encASrc_lt s) (encASrc_lt t) (by decide) (by decide) fun _ h _ => by
    unfold decodeCMajor; rw [h.op]; show decodeAlu _ = _; unfold decodeAlu cMin; rw [h.mn]
    exact decC3_of h
theorem aluMkm (d : ADst) (s : ASrc) (t : ASrc) (sp : BitVec 4) : Statement (Instr.aluMkm d s t sp) :=
  ofCR rfl rfl (by decide) (encADst_lt d) (encASrc_lt s) (encASrc_lt t) (by have := sp.isLt; omega) (by decide) fun _ h g => by
    unfold decodeCMajor; rw [h.op]; show decodeAlu _ = _; unfold decodeAlu cMin; rw [h.mn]
    exact decMk_of h g
theorem aluMkx (d : ADst) (s : ASrc) (t : ASrc) (sp : BitVec 4) : Statement (Instr.aluMkx d s t sp) :=
  ofCR rfl rfl (by decide) (encADst_lt d) (encASrc_lt s) (encASrc_lt t) (by have := sp.isLt; omega) (by decide) fun _ h g => by
    unfold decodeCMajor; rw [h.op]; show decodeAlu _ = _; unfold decodeAlu cMin; rw [h.mn]
    exact decMk_of h g
theorem aluMks (d : ADst) (s : ASrc) (t : ASrc) (sp : BitVec 4) : Statement (Instr.aluMks d s t sp) :=
  ofCR rfl rfl (by decide) (encADst_lt d) (encASrc_lt s) (encASrc_lt t) (by have := sp.isLt; omega) (by decide) fun _ h g => by
    unfold decodeCMajor; rw [h.op]; show decodeAlu _ = _; unfold decodeAlu cMin; rw [h.mn]
    exact decMk_of h g
theorem aluiAddi (d : ADst) (s : ASrc) (imm : BitVec 15) : Statement (Instr.aluiAddi d s imm) :=
  ofCI rfl rfl (by decide) (encADst_lt d) (encASrc_lt s) (by have := imm.isLt; omega) fun _ h _ => by
    unfold decodeCMajor; rw [h.op]
    exact decAlui_of h
theorem aluiAndi (d : ADst) (s : ASrc) (imm : BitVec 15) : Statement (Instr.aluiAndi d s imm) :=
  ofCI rfl rfl (by decide) (encADst_lt d) (encASrc_lt s) (by have := imm.isLt; omega) fun _ h _ => by
    unfold decodeCMajor; rw [h.op]
    exact decAlui_of h
theorem aluiOri (d : ADst) (s : ASrc) (imm : BitVec 15) : Statement (Instr.aluiOri d s imm) :=
  ofCI rfl rfl (by decide) (encADst_lt d) (encASrc_lt s) (by have := imm.isLt; omega) fun _ h _ => by
    unfold decodeCMajor; rw [h.op]
    exact decAlui_of h
theorem aluiXori (d : ADst) (s : ASrc) (imm : BitVec 15) : Statement (Instr.aluiXori d s imm) :=
  ofCI rfl rfl (by decide) (encADst_lt d) (encASrc_lt s) (by have := imm.isLt; omega) fun _ h _ => by
    unfold decodeCMajor; rw [h.op]
    exact decAlui_of h
theorem aluiSlli (d : ADst) (s : ASrc) (sh : BitVec 6) : Statement (Instr.aluiSlli d s sh) :=
  ofCI rfl rfl (by decide) (encADst_lt d) (encASrc_lt s) (by have := sh.isLt; omega) fun _ h _ => by
    unfold decodeCMajor; rw [h.op]
    exact decAluiSh_of h
theorem aluiSrli (d : ADst) (s : ASrc) (sh : BitVec 6) : Statement (Instr.aluiSrli d s sh) :=
  ofCI rfl rfl (by decide) (encADst_lt d) (encASrc_lt s) (by have := sh.isLt; omega) fun _ h _ => by
    unfold decodeCMajor; rw [h.op]
    exact decAluiSh_of h
theorem aluiSrai (d : ADst) (s : ASrc) (sh : BitVec 6) : Statement (Instr.aluiSrai d s sh) :=
  ofCI rfl rfl (by decide) (encADst_lt d) (encASrc_lt s) (by have := sh.isLt; omega) fun _ h _ => by
    unfold decodeCMajor; rw [h.op]
    exact decAluiSh_of h
theorem aluiSlti (d : ADst) (s : ASrc) (imm : BitVec 15) : Statement (Instr.aluiSlti d s imm) :=
  ofCI rfl rfl (by decide) (encADst_lt d) (encASrc_lt s) (by have := imm.isLt; omega) fun _ h _ => by
    unfold decodeCMajor; rw [h.op]
    exact decAlui_of h
theorem memLd (d : ADst) (base : ASrc) (sz : Size) (ord : Ord) (sc : Scope) (off : BitVec 7) : Statement (Instr.memLd d base sz ord sc off) :=
  ofCM rfl rfl (by decide) (encADst_lt d) (encASrc_lt base) (by have := encSize_lt sz; omega) (by have := encOrd_lt ord; omega) (by have := encScope_lt sc; omega) (by have := off.isLt; omega) fun _ h g => by
    unfold decodeCMajor; rw [h.op]
    exact decLoad_of h g
theorem memLdu (d : ADst) (base : ASrc) (sz : Size) (ord : Ord) (sc : Scope) (off : BitVec 7) : Statement (Instr.memLdu d base sz ord sc off) :=
  ofCM rfl rfl (by decide) (encADst_lt d) (encASrc_lt base) (by have := encSize_lt sz; omega) (by have := encOrd_lt ord; omega) (by have := encScope_lt sc; omega) (by have := off.isLt; omega) fun _ h g => by
    unfold decodeCMajor; rw [h.op]
    exact decLoad_of h g
theorem memSt (d : ASrc) (base : ASrc) (sz : Size) (ord : Ord) (sc : Scope) (off : BitVec 7) : Statement (Instr.memSt d base sz ord sc off) :=
  ofCM rfl rfl (by decide) (encASrc_lt d) (encASrc_lt base) (by have := encSize_lt sz; omega) (by have := encOrd_lt ord; omega) (by have := encScope_lt sc; omega) (by have := off.isLt; omega) fun _ h g => by
    unfold decodeCMajor; rw [h.op]
    exact decStore_of h g
theorem memExtpage (d : ADst) (base : ASrc) : Statement (Instr.memExtpage d base) :=
  ofCM rfl rfl (by decide) (encADst_lt d) (encASrc_lt base) (by decide) (by decide) (by decide) (by decide) fun _ h _ => by
    unfold decodeCMajor; rw [h.op]
    exact decExtpage_of h
theorem amoAdd (d : ADst) (s : ASrc) (t : ASrc) (ord : Ord) (sc : Scope) : Statement (Instr.amoAdd d s t ord sc) :=
  ofCR rfl rfl (by decide) (encADst_lt d) (encASrc_lt s) (encASrc_lt t) (by have := encOrd_lt ord; have := encScope_lt sc; omega) (by decide) fun _ h _ => by
    unfold decodeCMajor; rw [h.op]; show decodeAmo8 _ = _; unfold decodeAmo8 cMin; rw [h.mn]
    exact decAmo_of h
theorem amoAnd (d : ADst) (s : ASrc) (t : ASrc) (ord : Ord) (sc : Scope) : Statement (Instr.amoAnd d s t ord sc) :=
  ofCR rfl rfl (by decide) (encADst_lt d) (encASrc_lt s) (encASrc_lt t) (by have := encOrd_lt ord; have := encScope_lt sc; omega) (by decide) fun _ h _ => by
    unfold decodeCMajor; rw [h.op]; show decodeAmo8 _ = _; unfold decodeAmo8 cMin; rw [h.mn]
    exact decAmo_of h
theorem amoOr (d : ADst) (s : ASrc) (t : ASrc) (ord : Ord) (sc : Scope) : Statement (Instr.amoOr d s t ord sc) :=
  ofCR rfl rfl (by decide) (encADst_lt d) (encASrc_lt s) (encASrc_lt t) (by have := encOrd_lt ord; have := encScope_lt sc; omega) (by decide) fun _ h _ => by
    unfold decodeCMajor; rw [h.op]; show decodeAmo8 _ = _; unfold decodeAmo8 cMin; rw [h.mn]
    exact decAmo_of h
theorem amoXor (d : ADst) (s : ASrc) (t : ASrc) (ord : Ord) (sc : Scope) : Statement (Instr.amoXor d s t ord sc) :=
  ofCR rfl rfl (by decide) (encADst_lt d) (encASrc_lt s) (encASrc_lt t) (by have := encOrd_lt ord; have := encScope_lt sc; omega) (by decide) fun _ h _ => by
    unfold decodeCMajor; rw [h.op]; show decodeAmo8 _ = _; unfold decodeAmo8 cMin; rw [h.mn]
    exact decAmo_of h
theorem amoMax (d : ADst) (s : ASrc) (t : ASrc) (ord : Ord) (sc : Scope) : Statement (Instr.amoMax d s t ord sc) :=
  ofCR rfl rfl (by decide) (encADst_lt d) (encASrc_lt s) (encASrc_lt t) (by have := encOrd_lt ord; have := encScope_lt sc; omega) (by decide) fun _ h _ => by
    unfold decodeCMajor; rw [h.op]; show decodeAmo8 _ = _; unfold decodeAmo8 cMin; rw [h.mn]
    exact decAmo_of h
theorem amoMin (d : ADst) (s : ASrc) (t : ASrc) (ord : Ord) (sc : Scope) : Statement (Instr.amoMin d s t ord sc) :=
  ofCR rfl rfl (by decide) (encADst_lt d) (encASrc_lt s) (encASrc_lt t) (by have := encOrd_lt ord; have := encScope_lt sc; omega) (by decide) fun _ h _ => by
    unfold decodeCMajor; rw [h.op]; show decodeAmo8 _ = _; unfold decodeAmo8 cMin; rw [h.mn]
    exact decAmo_of h
theorem amoMaxu (d : ADst) (s : ASrc) (t : ASrc) (ord : Ord) (sc : Scope) : Statement (Instr.amoMaxu d s t ord sc) :=
  ofCR rfl rfl (by decide) (encADst_lt d) (encASrc_lt s) (encASrc_lt t) (by have := encOrd_lt ord; have := encScope_lt sc; omega) (by decide) fun _ h _ => by
    unfold decodeCMajor; rw [h.op]; show decodeAmo8 _ = _; unfold decodeAmo8 cMin; rw [h.mn]
    exact decAmo_of h
theorem amoMinu (d : ADst) (s : ASrc) (t : ASrc) (ord : Ord) (sc : Scope) : Statement (Instr.amoMinu d s t ord sc) :=
  ofCR rfl rfl (by decide) (encADst_lt d) (encASrc_lt s) (encASrc_lt t) (by have := encOrd_lt ord; have := encScope_lt sc; omega) (by decide) fun _ h _ => by
    unfold decodeCMajor; rw [h.op]; show decodeAmo8 _ = _; unfold decodeAmo8 cMin; rw [h.mn]
    exact decAmo_of h
theorem amoAmax (s : ASrc) (t : ASrc) (ord : Ord) (sc : Scope) : Statement (Instr.amoAmax s t ord sc) :=
  ofCR rfl rfl (by decide) (by decide) (encASrc_lt s) (encASrc_lt t) (by have := encOrd_lt ord; have := encScope_lt sc; omega) (by decide) fun _ h _ => by
    unfold decodeCMajor; rw [h.op]; show decodeAmo4 _ = _; unfold decodeAmo4 cMin; rw [h.mn]
    exact decAmax_of h
theorem amoAmaxb (s : ASrc) (t : ASrc) (ord : Ord) (sc : Scope) : Statement (Instr.amoAmaxb s t ord sc) :=
  ofCR rfl rfl (by decide) (by decide) (encASrc_lt s) (encASrc_lt t) (by have := encOrd_lt ord; have := encScope_lt sc; omega) (by decide) fun _ h _ => by
    unfold decodeCMajor; rw [h.op]; show decodeAmo4 _ = _; unfold decodeAmo4 cMin; rw [h.mn]
    exact decAmax_of h
theorem amoMaxrd (d : ADst) (s : ASrc) (ord : Ord) (sc : Scope) : Statement (Instr.amoMaxrd d s ord sc) :=
  ofCR rfl rfl (by decide) (encADst_lt d) (encASrc_lt s) (by decide) (by have := encOrd_lt ord; have := encScope_lt sc; omega) (by decide) fun _ h _ => by
    unfold decodeCMajor; rw [h.op]; show decodeAmo4 _ = _; unfold decodeAmo4 cMin; rw [h.mn]
    exact decMaxrd_of h
theorem orcDecl (s : ASrc) (cls : OrcClass) : Statement (Instr.orcDecl s cls) :=
  ofCR rfl rfl (by decide) (by decide) (encASrc_lt s) (by decide) (by have := encClass_lt cls; omega) (by decide) fun _ h _ => by
    unfold decodeCMajor; rw [h.op]; show decodeOrc _ = _; unfold decodeOrc cMin; rw [h.mn]
    exact decOrcDecl_of h
theorem orcApp (d : ADst) (s : ASrc) (t : ASrc) : Statement (Instr.orcApp d s t) :=
  ofCR rfl rfl (by decide) (encADst_lt d) (encASrc_lt s) (encASrc_lt t) (by decide) (by decide) fun _ h _ => by
    unfold decodeCMajor; rw [h.op]; show decodeOrc _ = _; unfold decodeOrc cMin; rw [h.mn]
    exact decC3_of h
theorem orcLdt (d : ADst) (s : ASrc) (t : ADst) : Statement (Instr.orcLdt d s t) :=
  ofCR rfl rfl (by decide) (encADst_lt d) (encASrc_lt s) (encADst_lt t) (by decide) (by decide) fun _ h _ => by
    unfold decodeCMajor; rw [h.op]; show decodeOrc _ = _; unfold decodeOrc cMin; rw [h.mn]
    exact decLdt_of h
theorem orcLds (d : ADst) (s : ASrc) (t : ASrc) : Statement (Instr.orcLds d s t) :=
  ofCR rfl rfl (by decide) (encADst_lt d) (encASrc_lt s) (encASrc_lt t) (by decide) (by decide) fun _ h _ => by
    unfold decodeCMajor; rw [h.op]; show decodeOrc _ = _; unfold decodeOrc cMin; rw [h.mn]
    exact decC3_of h
theorem futRd (d : ADst) (s : ASrc) : Statement (Instr.futRd d s) :=
  ofCR rfl rfl (by decide) (encADst_lt d) (encASrc_lt s) (by decide) (by decide) (by decide) fun _ h _ => by
    unfold decodeCMajor; rw [h.op]; show decodeFut _ = _; unfold decodeFut cMin; rw [h.mn]
    exact decCDS_of h
theorem futRdc (d : Fin 16) (s : ASrc) (t : ASrc) : Statement (Instr.futRdc d s t) :=
  ofCR rfl rfl (by decide) (by have := d.isLt; omega) (encASrc_lt s) (encASrc_lt t) (by decide) (by decide) fun _ h _ => by
    unfold decodeCMajor; rw [h.op]; show decodeFut _ = _; unfold decodeFut cMin; rw [h.mn]
    exact decRdc_of h
theorem futWr (s : ASrc) (t : ASrc) : Statement (Instr.futWr s t) :=
  ofCR rfl rfl (by decide) (by decide) (encASrc_lt s) (encASrc_lt t) (by decide) (by decide) fun _ h _ => by
    unfold decodeCMajor; rw [h.op]; show decodeFut _ = _; unfold decodeFut cMin; rw [h.mn]
    exact decCST_of h
theorem futClr (s : ASrc) : Statement (Instr.futClr s) :=
  ofCR rfl rfl (by decide) (by decide) (encASrc_lt s) (by decide) (by decide) (by decide) fun _ h _ => by
    unfold decodeCMajor; rw [h.op]; show decodeFut _ = _; unfold decodeFut cMin; rw [h.mn]
    exact decCS_of h
theorem msgSend (d : BitVec 5) (s : ASrc) (t : ASrc) (pri : BitVec 2) : Statement (Instr.msgSend d s t pri) :=
  ofCR rfl rfl (by decide) (by have := d.isLt; omega) (encASrc_lt s) (encASrc_lt t) (by have := pri.isLt; omega) (by decide) fun _ h _ => by
    unfold decodeCMajor; rw [h.op]; show decodeMsg _ = _; unfold decodeMsg cMin; rw [h.mn]
    exact decSend_of h
theorem msgSendd (d : BitVec 5) (s : ASrc) (t : ASrc) (pri : BitVec 2) : Statement (Instr.msgSendd d s t pri) :=
  ofCR rfl rfl (by decide) (by have := d.isLt; omega) (encASrc_lt s) (encASrc_lt t) (by have := pri.isLt; omega) (by decide) fun _ h _ => by
    unfold decodeCMajor; rw [h.op]; show decodeMsg _ = _; unfold decodeMsg cMin; rw [h.mn]
    exact decSend_of h
theorem msgReply (d : ASrc) (s : ASrc) (t : ASrc) : Statement (Instr.msgReply d s t) :=
  ofCR rfl rfl (by decide) (encASrc_lt d) (encASrc_lt s) (encASrc_lt t) (by decide) (by decide) fun _ h _ => by
    unfold decodeCMajor; rw [h.op]; show decodeMsg _ = _; unfold decodeMsg cMin; rw [h.mn]
    exact decReply_of h
theorem fenceAll (sc : Scope) : Statement (Instr.fenceAll sc) :=
  ofCR rfl rfl (by decide) (by decide) (by decide) (by decide) (by have := encScope_lt sc; omega) (by decide) fun _ h _ => by
    unfold decodeCMajor; rw [h.op]; show decodeFence _ = _; unfold decodeFence cMin; rw [h.mn]
    exact decFence_of h
theorem mxqStep (d : ADst) (s : BitVec 5) (t : ARegZ) (acc : Fin 8) : Statement (Instr.mxqStep d s t acc) :=
  ofCR rfl rfl (by decide) (encADst_lt d) (by have := s.isLt; omega) (encARegZ_lt t) (by have := acc.isLt; omega) (by decide) fun _ h g => by
    unfold decodeCMajor; rw [h.op]; show decodeMxq _ = _; unfold decodeMxq cMin; rw [h.mn]
    exact decMxq_of h g
theorem mxqSteps (d : ADst) (s : BitVec 5) (t : ARegZ) (acc : Fin 8) : Statement (Instr.mxqSteps d s t acc) :=
  ofCR rfl rfl (by decide) (encADst_lt d) (by have := s.isLt; omega) (encARegZ_lt t) (by have := acc.isLt; omega) (by decide) fun _ h g => by
    unfold decodeCMajor; rw [h.op]; show decodeMxq _ = _; unfold decodeMxq cMin; rw [h.mn]
    exact decMxq_of h g
theorem mxqDrain (d : ADst) (s : BitVec 5) (t : ARegZ) (acc : Fin 8) : Statement (Instr.mxqDrain d s t acc) :=
  ofCR rfl rfl (by decide) (encADst_lt d) (by have := s.isLt; omega) (encARegZ_lt t) (by have := acc.isLt; omega) (by decide) fun _ h g => by
    unfold decodeCMajor; rw [h.op]; show decodeMxq _ = _; unfold decodeMxq cMin; rw [h.mn]
    exact decMxq_of h g
theorem mxqPoll (d : ADst) (s : ARegZ) : Statement (Instr.mxqPoll d s) :=
  ofCR rfl rfl (by decide) (encADst_lt d) (encARegZ_lt s) (by decide) (by decide) (by decide) fun _ h _ => by
    unfold decodeCMajor; rw [h.op]; show decodeMxq _ = _; unfold decodeMxq cMin; rw [h.mn]
    exact decPoll_of h
theorem mxqSleep (s : ARegZ) : Statement (Instr.mxqSleep s) :=
  ofCR rfl rfl (by decide) (by decide) (encARegZ_lt s) (by decide) (by decide) (by decide) fun _ h _ => by
    unfold decodeCMajor; rw [h.op]; show decodeMxq _ = _; unfold decodeMxq cMin; rw [h.mn]
    exact decSleep_of h
theorem mxqReclaim (acc : Fin 8) : Statement (Instr.mxqReclaim acc) :=
  ofCR rfl rfl (by decide) (by decide) (by decide) (by decide) (by have := acc.isLt; omega) (by decide) fun _ h _ => by
    unfold decodeCMajor; rw [h.op]; show decodeMxq _ = _; unfold decodeMxq cMin; rw [h.mn]
    exact decReclaim_of h
theorem mxqRcmd (s : BitVec 5) (t : ARegZ) : Statement (Instr.mxqRcmd s t) :=
  ofCR rfl rfl (by decide) (by decide) (by have := s.isLt; omega) (encARegZ_lt t) (by decide) (by decide) fun _ h g => by
    unfold decodeCMajor; rw [h.op]; show decodeMxq _ = _; unfold decodeMxq cMin; rw [h.mn]
    exact decRcmd_of h g
theorem cpqCopy (d : ADst) (s : BitVec 5) (q : Fin 4) : Statement (Instr.cpqCopy d s q) :=
  ofCR rfl rfl (by decide) (encADst_lt d) (by have := s.isLt; omega) (by decide) (by have := q.isLt; omega) (by decide) fun _ h g => by
    unfold decodeCMajor; rw [h.op]; show decodeCpq _ = _; unfold decodeCpq cMin; rw [h.mn]
    exact decCpq_of h g
theorem cpqAddf (d : ADst) (s : BitVec 5) (q : Fin 4) : Statement (Instr.cpqAddf d s q) :=
  ofCR rfl rfl (by decide) (encADst_lt d) (by have := s.isLt; omega) (by decide) (by have := q.isLt; omega) (by decide) fun _ h g => by
    unfold decodeCMajor; rw [h.op]; show decodeCpq _ = _; unfold decodeCpq cMin; rw [h.mn]
    exact decCpq_of h g
theorem cpqAddb (d : ADst) (s : BitVec 5) (q : Fin 4) : Statement (Instr.cpqAddb d s q) :=
  ofCR rfl rfl (by decide) (encADst_lt d) (by have := s.isLt; omega) (by decide) (by have := q.isLt; omega) (by decide) fun _ h g => by
    unfold decodeCMajor; rw [h.op]; show decodeCpq _ = _; unfold decodeCpq cMin; rw [h.mn]
    exact decCpq_of h g
theorem cpqAddi (d : ADst) (s : BitVec 5) (q : Fin 4) : Statement (Instr.cpqAddi d s q) :=
  ofCR rfl rfl (by decide) (encADst_lt d) (by have := s.isLt; omega) (by decide) (by have := q.isLt; omega) (by decide) fun _ h g => by
    unfold decodeCMajor; rw [h.op]; show decodeCpq _ = _; unfold decodeCpq cMin; rw [h.mn]
    exact decCpq_of h g
theorem cpqBar (d : ADst) (q : Fin 4) : Statement (Instr.cpqBar d q) :=
  ofCR rfl rfl (by decide) (encADst_lt d) (by decide) (by decide) (by have := q.isLt; omega) (by decide) fun _ h _ => by
    unfold decodeCMajor; rw [h.op]; show decodeCpq _ = _; unfold decodeCpq cMin; rw [h.mn]
    exact decCpqBar_of h
theorem cpqFill (d : ADst) (s : BitVec 5) (q : Fin 4) : Statement (Instr.cpqFill d s q) :=
  ofCR rfl rfl (by decide) (encADst_lt d) (by have := s.isLt; omega) (by decide) (by have := q.isLt; omega) (by decide) fun _ h g => by
    unfold decodeCMajor; rw [h.op]; show decodeCpq _ = _; unfold decodeCpq cMin; rw [h.mn]
    exact decCpq_of h g
theorem cpqPoll (d : ADst) (s : ARegZ) : Statement (Instr.cpqPoll d s) :=
  ofCR rfl rfl (by decide) (encADst_lt d) (encARegZ_lt s) (by decide) (by decide) (by decide) fun _ h _ => by
    unfold decodeCMajor; rw [h.op]; show decodeCpq _ = _; unfold decodeCpq cMin; rw [h.mn]
    exact decPoll_of h
theorem cpqSleep (s : ARegZ) : Statement (Instr.cpqSleep s) :=
  ofCR rfl rfl (by decide) (by decide) (encARegZ_lt s) (by decide) (by decide) (by decide) fun _ h _ => by
    unfold decodeCMajor; rw [h.op]; show decodeCpq _ = _; unfold decodeCpq cMin; rw [h.mn]
    exact decSleep_of h
theorem cpqRcmd (s : BitVec 5) (t : ARegZ) : Statement (Instr.cpqRcmd s t) :=
  ofCR rfl rfl (by decide) (by decide) (by have := s.isLt; omega) (encARegZ_lt t) (by decide) (by decide) fun _ h g => by
    unfold decodeCMajor; rw [h.op]; show decodeCpq _ = _; unfold decodeCpq cMin; rw [h.mn]
    exact decRcmd_of h g
theorem sysResumeReturn (s : ASrc) (t : ASrc) : Statement (Instr.sysResumeReturn s t) :=
  ofCR rfl rfl (by decide) (by decide) (encASrc_lt s) (encASrc_lt t) (by decide) (by decide) fun _ h _ => by
    unfold decodeCMajor; rw [h.op]; show decodeSys _ = _; unfold decodeSys cMin; rw [h.mn]
    exact decCST_of h
theorem sysChain (s : ASrc) (t : ASrc) : Statement (Instr.sysChain s t) :=
  ofCR rfl rfl (by decide) (by decide) (encASrc_lt s) (encASrc_lt t) (by decide) (by decide) fun _ h _ => by
    unfold decodeCMajor; rw [h.op]; show decodeSys _ = _; unfold decodeSys cMin; rw [h.mn]
    exact decCST_of h
theorem sysLaunch (s : ASrc) (t : ASrc) : Statement (Instr.sysLaunch s t) :=
  ofCR rfl rfl (by decide) (by decide) (encASrc_lt s) (encASrc_lt t) (by decide) (by decide) fun _ h _ => by
    unfold decodeCMajor; rw [h.op]; show decodeSys _ = _; unfold decodeSys cMin; rw [h.mn]
    exact decCST_of h
theorem sysChmask (s : ASrc) (t : ASrc) : Statement (Instr.sysChmask s t) :=
  ofCR rfl rfl (by decide) (by decide) (encASrc_lt s) (encASrc_lt t) (by decide) (by decide) fun _ h _ => by
    unfold decodeCMajor; rw [h.op]; show decodeSys _ = _; unfold decodeSys cMin; rw [h.mn]
    exact decCST_of h
theorem sysCancel (s : ASrc) : Statement (Instr.sysCancel s) :=
  ofCR rfl rfl (by decide) (by decide) (encASrc_lt s) (by decide) (by decide) (by decide) fun _ h _ => by
    unfold decodeCMajor; rw [h.op]; show decodeSys _ = _; unfold decodeSys cMin; rw [h.mn]
    exact decCS_of h
theorem sysDigest (s : ASrc) (t : ASrc) : Statement (Instr.sysDigest s t) :=
  ofCR rfl rfl (by decide) (by decide) (encASrc_lt s) (encASrc_lt t) (by decide) (by decide) fun _ h _ => by
    unfold decodeCMajor; rw [h.op]; show decodeSys _ = _; unfold decodeSys cMin; rw [h.mn]
    exact decCST_of h
theorem sysFail (s : ASrc) : Statement (Instr.sysFail s) :=
  ofCR rfl rfl (by decide) (by decide) (encASrc_lt s) (by decide) (by decide) (by decide) fun _ h _ => by
    unfold decodeCMajor; rw [h.op]; show decodeSys _ = _; unfold decodeSys cMin; rw [h.mn]
    exact decCS_of h
theorem sysRdsr (d : ADst) (num : BitVec 12) : Statement (Instr.sysRdsr d num) :=
  ofCI rfl rfl (by decide) (encADst_lt d) (by decide) (by have := num.isLt; omega) fun _ h _ => by
    unfold decodeCMajor; rw [h.op]
    exact decRdsr_of h
theorem sysWrsr (s : ASrc) (num : BitVec 12) : Statement (Instr.sysWrsr s num) :=
  ofCI rfl rfl (by decide) (by decide) (encASrc_lt s) (by have := num.isLt; omega) fun _ h _ => by
    unfold decodeCMajor; rw [h.op]
    exact decWrsr_of h
theorem fmtSetA (fd : BitVec 4) (fa : BitVec 4) (fb : BitVec 4) (scl : BitVec 2) : Statement (Instr.fmtSetA fd fa fb scl) :=
  ofCR rfl rfl (by decide) (by have := fd.isLt; omega) (by have := fa.isLt; omega) (by have := fb.isLt; omega) (by have := scl.isLt; omega) (by decide) fun _ h _ => by
    unfold decodeCMajor; rw [h.op]; show decodeFmtC _ = _; unfold decodeFmtC cMin; rw [h.mn]
    exact decFmtA_of h
theorem liSx (d : ADst) (imm : BitVec 32) : Statement (Instr.liSx d imm) :=
  ofLone rfl rfl (by decide) (encADst_lt d) (by decide) (by decide) (by have := imm.isLt; omega) fun _ _ h _ => by
    unfold decodeLone; rw [h.op]; show decodeLi _ _ = _; unfold decodeLi cMin; rw [h.mn]
    exact decLi_of h
theorem liZx (d : ADst) (imm : BitVec 32) : Statement (Instr.liZx d imm) :=
  ofLone rfl rfl (by decide) (encADst_lt d) (by decide) (by decide) (by have := imm.isLt; omega) fun _ _ h _ => by
    unfold decodeLone; rw [h.op]; show decodeLi _ _ = _; unfold decodeLi cMin; rw [h.mn]
    exact decLi_of h
theorem liHi (d : ADst) (s : ASrc) (imm : BitVec 32) : Statement (Instr.liHi d s imm) :=
  ofLone rfl rfl (by decide) (encADst_lt d) (encASrc_lt s) (by decide) (by have := imm.isLt; omega) fun _ _ h _ => by
    unfold decodeLone; rw [h.op]; show decodeLi _ _ = _; unfold decodeLi cMin; rw [h.mn]
    exact decLiHi_of h
theorem jmplGo (s : ASrc) (imm : BitVec 32) : Statement (Instr.jmplGo s imm) :=
  ofLone rfl rfl (by decide) (by decide) (encASrc_lt s) (by decide) (by have := imm.isLt; omega) fun _ _ h _ => by
    unfold decodeLone; rw [h.op]; show decodeJmpl _ _ = _; unfold decodeJmpl cMin; rw [h.mn]
    exact decJmpl_of h
theorem jmplCall (s : ASrc) (imm : BitVec 32) : Statement (Instr.jmplCall s imm) :=
  ofLone rfl rfl (by decide) (by decide) (encASrc_lt s) (by decide) (by have := imm.isLt; omega) fun _ _ h _ => by
    unfold decodeLone; rw [h.op]; show decodeJmpl _ _ = _; unfold decodeJmpl cMin; rw [h.mn]
    exact decJmpl_of h
theorem sendlAct (d : BitVec 5) (s : ASrc) (imm : BitVec 32) : Statement (Instr.sendlAct d s imm) :=
  ofLone rfl rfl (by decide) (by have := d.isLt; omega) (encASrc_lt s) (by decide) (by have := imm.isLt; omega) fun _ _ h _ => by
    unfold decodeLone; rw [h.op]; show decodeSendl _ _ = _; unfold decodeSendl cMin; rw [h.mn]
    exact decSendl_of h
theorem sendlData (d : BitVec 5) (s : ASrc) (imm : BitVec 32) : Statement (Instr.sendlData d s imm) :=
  ofLone rfl rfl (by decide) (by have := d.isLt; omega) (encASrc_lt s) (by decide) (by have := imm.isLt; omega) fun _ _ h _ => by
    unfold decodeLone; rw [h.op]; show decodeSendl _ _ = _; unfold decodeSendl cMin; rw [h.mn]
    exact decSendl_of h
theorem iaAdd (d : EDst) (s : ESrc) (t : ESrc) : Statement (Instr.iaAdd d s t) :=
  ofXR rfl rfl (by decide) (encEDst_lt d) (encESrc_lt s) (encESrc_lt t) (by decide) (by decide) (by decide) fun _ h _ => by
    unfold decodeX; rw [h.op]; show decodeIa _ = _; unfold decodeIa xMin; rw [h.mn]
    exact decIa_of h
theorem iaSub (d : EDst) (s : ESrc) (t : ESrc) : Statement (Instr.iaSub d s t) :=
  ofXR rfl rfl (by decide) (encEDst_lt d) (encESrc_lt s) (encESrc_lt t) (by decide) (by decide) (by decide) fun _ h _ => by
    unfold decodeX; rw [h.op]; show decodeIa _ = _; unfold decodeIa xMin; rw [h.mn]
    exact decIa_of h
theorem iaAnd (d : EDst) (s : ESrc) (t : ESrc) : Statement (Instr.iaAnd d s t) :=
  ofXR rfl rfl (by decide) (encEDst_lt d) (encESrc_lt s) (encESrc_lt t) (by decide) (by decide) (by decide) fun _ h _ => by
    unfold decodeX; rw [h.op]; show decodeIa _ = _; unfold decodeIa xMin; rw [h.mn]
    exact decIa_of h
theorem iaOr (d : EDst) (s : ESrc) (t : ESrc) : Statement (Instr.iaOr d s t) :=
  ofXR rfl rfl (by decide) (encEDst_lt d) (encESrc_lt s) (encESrc_lt t) (by decide) (by decide) (by decide) fun _ h _ => by
    unfold decodeX; rw [h.op]; show decodeIa _ = _; unfold decodeIa xMin; rw [h.mn]
    exact decIa_of h
theorem iaXor (d : EDst) (s : ESrc) (t : ESrc) : Statement (Instr.iaXor d s t) :=
  ofXR rfl rfl (by decide) (encEDst_lt d) (encESrc_lt s) (encESrc_lt t) (by decide) (by decide) (by decide) fun _ h _ => by
    unfold decodeX; rw [h.op]; show decodeIa _ = _; unfold decodeIa xMin; rw [h.mn]
    exact decIa_of h
theorem iaSll (d : EDst) (s : ESrc) (t : ESrc) : Statement (Instr.iaSll d s t) :=
  ofXR rfl rfl (by decide) (encEDst_lt d) (encESrc_lt s) (encESrc_lt t) (by decide) (by decide) (by decide) fun _ h _ => by
    unfold decodeX; rw [h.op]; show decodeIa _ = _; unfold decodeIa xMin; rw [h.mn]
    exact decIa_of h
theorem iaSrl (d : EDst) (s : ESrc) (t : ESrc) : Statement (Instr.iaSrl d s t) :=
  ofXR rfl rfl (by decide) (encEDst_lt d) (encESrc_lt s) (encESrc_lt t) (by decide) (by decide) (by decide) fun _ h _ => by
    unfold decodeX; rw [h.op]; show decodeIa _ = _; unfold decodeIa xMin; rw [h.mn]
    exact decIa_of h
theorem iaSra (d : EDst) (s : ESrc) (t : ESrc) : Statement (Instr.iaSra d s t) :=
  ofXR rfl rfl (by decide) (encEDst_lt d) (encESrc_lt s) (encESrc_lt t) (by decide) (by decide) (by decide) fun _ h _ => by
    unfold decodeX; rw [h.op]; show decodeIa _ = _; unfold decodeIa xMin; rw [h.mn]
    exact decIa_of h
theorem iaMul (d : EDst) (s : ESrc) (t : ESrc) : Statement (Instr.iaMul d s t) :=
  ofXR rfl rfl (by decide) (encEDst_lt d) (encESrc_lt s) (encESrc_lt t) (by decide) (by decide) (by decide) fun _ h _ => by
    unfold decodeX; rw [h.op]; show decodeIa _ = _; unfold decodeIa xMin; rw [h.mn]
    exact decIa_of h
theorem iaMulh (d : EDst) (s : ESrc) (t : ESrc) : Statement (Instr.iaMulh d s t) :=
  ofXR rfl rfl (by decide) (encEDst_lt d) (encESrc_lt s) (encESrc_lt t) (by decide) (by decide) (by decide) fun _ h _ => by
    unfold decodeX; rw [h.op]; show decodeIa _ = _; unfold decodeIa xMin; rw [h.mn]
    exact decIa_of h
theorem iaMulhu (d : EDst) (s : ESrc) (t : ESrc) : Statement (Instr.iaMulhu d s t) :=
  ofXR rfl rfl (by decide) (encEDst_lt d) (encESrc_lt s) (encESrc_lt t) (by decide) (by decide) (by decide) fun _ h _ => by
    unfold decodeX; rw [h.op]; show decodeIa _ = _; unfold decodeIa xMin; rw [h.mn]
    exact decIa_of h
theorem iaDiv (d : EDst) (s : ESrc) (t : ESrc) : Statement (Instr.iaDiv d s t) :=
  ofXR rfl rfl (by decide) (encEDst_lt d) (encESrc_lt s) (encESrc_lt t) (by decide) (by decide) (by decide) fun _ h _ => by
    unfold decodeX; rw [h.op]; show decodeIa _ = _; unfold decodeIa xMin; rw [h.mn]
    exact decIa_of h
theorem iaDivu (d : EDst) (s : ESrc) (t : ESrc) : Statement (Instr.iaDivu d s t) :=
  ofXR rfl rfl (by decide) (encEDst_lt d) (encESrc_lt s) (encESrc_lt t) (by decide) (by decide) (by decide) fun _ h _ => by
    unfold decodeX; rw [h.op]; show decodeIa _ = _; unfold decodeIa xMin; rw [h.mn]
    exact decIa_of h
theorem iaRem (d : EDst) (s : ESrc) (t : ESrc) : Statement (Instr.iaRem d s t) :=
  ofXR rfl rfl (by decide) (encEDst_lt d) (encESrc_lt s) (encESrc_lt t) (by decide) (by decide) (by decide) fun _ h _ => by
    unfold decodeX; rw [h.op]; show decodeIa _ = _; unfold decodeIa xMin; rw [h.mn]
    exact decIa_of h
theorem iaRemu (d : EDst) (s : ESrc) (t : ESrc) : Statement (Instr.iaRemu d s t) :=
  ofXR rfl rfl (by decide) (encEDst_lt d) (encESrc_lt s) (encESrc_lt t) (by decide) (by decide) (by decide) fun _ h _ => by
    unfold decodeX; rw [h.op]; show decodeIa _ = _; unfold decodeIa xMin; rw [h.mn]
    exact decIa_of h
theorem iaMin (d : EDst) (s : ESrc) (t : ESrc) : Statement (Instr.iaMin d s t) :=
  ofXR rfl rfl (by decide) (encEDst_lt d) (encESrc_lt s) (encESrc_lt t) (by decide) (by decide) (by decide) fun _ h _ => by
    unfold decodeX; rw [h.op]; show decodeIa _ = _; unfold decodeIa xMin; rw [h.mn]
    exact decIa_of h
theorem iaMax (d : EDst) (s : ESrc) (t : ESrc) : Statement (Instr.iaMax d s t) :=
  ofXR rfl rfl (by decide) (encEDst_lt d) (encESrc_lt s) (encESrc_lt t) (by decide) (by decide) (by decide) fun _ h _ => by
    unfold decodeX; rw [h.op]; show decodeIa _ = _; unfold decodeIa xMin; rw [h.mn]
    exact decIa_of h
theorem iaMinu (d : EDst) (s : ESrc) (t : ESrc) : Statement (Instr.iaMinu d s t) :=
  ofXR rfl rfl (by decide) (encEDst_lt d) (encESrc_lt s) (encESrc_lt t) (by decide) (by decide) (by decide) fun _ h _ => by
    unfold decodeX; rw [h.op]; show decodeIa _ = _; unfold decodeIa xMin; rw [h.mn]
    exact decIa_of h
theorem iaMaxu (d : EDst) (s : ESrc) (t : ESrc) : Statement (Instr.iaMaxu d s t) :=
  ofXR rfl rfl (by decide) (encEDst_lt d) (encESrc_lt s) (encESrc_lt t) (by decide) (by decide) (by decide) fun _ h _ => by
    unfold decodeX; rw [h.op]; show decodeIa _ = _; unfold decodeIa xMin; rw [h.mn]
    exact decIa_of h
theorem iaClz (d : EDst) (s : ESrc) : Statement (Instr.iaClz d s) :=
  ofXR rfl rfl (by decide) (encEDst_lt d) (encESrc_lt s) (by decide) (by decide) (by decide) (by decide) fun _ h _ => by
    unfold decodeX; rw [h.op]; show decodeIa _ = _; unfold decodeIa xMin; rw [h.mn]
    exact decIa2_of h
theorem iaCtz (d : EDst) (s : ESrc) : Statement (Instr.iaCtz d s) :=
  ofXR rfl rfl (by decide) (encEDst_lt d) (encESrc_lt s) (by decide) (by decide) (by decide) (by decide) fun _ h _ => by
    unfold decodeX; rw [h.op]; show decodeIa _ = _; unfold decodeIa xMin; rw [h.mn]
    exact decIa2_of h
theorem iaPopc (d : EDst) (s : ESrc) : Statement (Instr.iaPopc d s) :=
  ofXR rfl rfl (by decide) (encEDst_lt d) (encESrc_lt s) (by decide) (by decide) (by decide) (by decide) fun _ h _ => by
    unfold decodeX; rw [h.op]; show decodeIa _ = _; unfold decodeIa xMin; rw [h.mn]
    exact decIa2_of h
theorem iaSel (d : EDst) (s : ESrc) (t : ESrc) (pred : Fin 8) : Statement (Instr.iaSel d s t pred) :=
  ofXR rfl rfl (by decide) (encEDst_lt d) (encESrc_lt s) (encESrc_lt t) (by have := pred.isLt; omega) (by decide) (by decide) fun _ h _ => by
    unfold decodeX; rw [h.op]; show decodeIa _ = _; unfold decodeIa xMin; rw [h.mn]
    exact decIaSel_of h
theorem iaSlt (d : EDst) (s : ESrc) (t : ESrc) : Statement (Instr.iaSlt d s t) :=
  ofXR rfl rfl (by decide) (encEDst_lt d) (encESrc_lt s) (encESrc_lt t) (by decide) (by decide) (by decide) fun _ h _ => by
    unfold decodeX; rw [h.op]; show decodeIa _ = _; unfold decodeIa xMin; rw [h.mn]
    exact decIa_of h
theorem iaSltu (d : EDst) (s : ESrc) (t : ESrc) : Statement (Instr.iaSltu d s t) :=
  ofXR rfl rfl (by decide) (encEDst_lt d) (encESrc_lt s) (encESrc_lt t) (by decide) (by decide) (by decide) fun _ h _ => by
    unfold decodeX; rw [h.op]; show decodeIa _ = _; unfold decodeIa xMin; rw [h.mn]
    exact decIa_of h
theorem iaAdds (d : EDst) (s : ESrc) (t : ESrc) : Statement (Instr.iaAdds d s t) :=
  ofXR rfl rfl (by decide) (encEDst_lt d) (encESrc_lt s) (encESrc_lt t) (by decide) (by decide) (by decide) fun _ h _ => by
    unfold decodeX; rw [h.op]; show decodeIa _ = _; unfold decodeIa xMin; rw [h.mn]
    exact decIa_of h
theorem iaSubs (d : EDst) (s : ESrc) (t : ESrc) : Statement (Instr.iaSubs d s t) :=
  ofXR rfl rfl (by decide) (encEDst_lt d) (encESrc_lt s) (encESrc_lt t) (by decide) (by decide) (by decide) fun _ h _ => by
    unfold decodeX; rw [h.op]; show decodeIa _ = _; unfold decodeIa xMin; rw [h.mn]
    exact decIa_of h
theorem iaiAddi (d : EDst) (s : ESrc) (imm : BitVec 16) : Statement (Instr.iaiAddi d s imm) :=
  ofXI rfl rfl (by decide) (encEDst_lt d) (encESrc_lt s) (by have := imm.isLt; omega) fun _ h _ => by
    unfold decodeX; rw [h.op]
    exact decIai_of h
theorem iaiAndi (d : EDst) (s : ESrc) (imm : BitVec 16) : Statement (Instr.iaiAndi d s imm) :=
  ofXI rfl rfl (by decide) (encEDst_lt d) (encESrc_lt s) (by have := imm.isLt; omega) fun _ h _ => by
    unfold decodeX; rw [h.op]
    exact decIai_of h
theorem iaiOri (d : EDst) (s : ESrc) (imm : BitVec 16) : Statement (Instr.iaiOri d s imm) :=
  ofXI rfl rfl (by decide) (encEDst_lt d) (encESrc_lt s) (by have := imm.isLt; omega) fun _ h _ => by
    unfold decodeX; rw [h.op]
    exact decIai_of h
theorem iaiXori (d : EDst) (s : ESrc) (imm : BitVec 16) : Statement (Instr.iaiXori d s imm) :=
  ofXI rfl rfl (by decide) (encEDst_lt d) (encESrc_lt s) (by have := imm.isLt; omega) fun _ h _ => by
    unfold decodeX; rw [h.op]
    exact decIai_of h
theorem iaiSlli (d : EDst) (s : ESrc) (sh : BitVec 6) : Statement (Instr.iaiSlli d s sh) :=
  ofXI rfl rfl (by decide) (encEDst_lt d) (encESrc_lt s) (by have := sh.isLt; omega) fun _ h _ => by
    unfold decodeX; rw [h.op]
    exact decIaiSh_of h
theorem iaiSrli (d : EDst) (s : ESrc) (sh : BitVec 6) : Statement (Instr.iaiSrli d s sh) :=
  ofXI rfl rfl (by decide) (encEDst_lt d) (encESrc_lt s) (by have := sh.isLt; omega) fun _ h _ => by
    unfold decodeX; rw [h.op]
    exact decIaiSh_of h
theorem iaiSrai (d : EDst) (s : ESrc) (sh : BitVec 6) : Statement (Instr.iaiSrai d s sh) :=
  ofXI rfl rfl (by decide) (encEDst_lt d) (encESrc_lt s) (by have := sh.isLt; omega) fun _ h _ => by
    unfold decodeX; rw [h.op]
    exact decIaiSh_of h
theorem iaiLui (d : EDst) (imm : BitVec 16) : Statement (Instr.iaiLui d imm) :=
  ofXI rfl rfl (by decide) (encEDst_lt d) (by decide) (by have := imm.isLt; omega) fun _ h _ => by
    unfold decodeX; rw [h.op]
    exact decLui_of h
theorem faAdd (d : EDst) (s : ESrc) (t : ESrc) (f : FpFmt) : Statement (Instr.faAdd d s t f) :=
  ofXR rfl rfl (by decide) (encEDst_lt d) (encESrc_lt s) (encESrc_lt t) (by decide) (by have := encFp_lt f; omega) (by decide) fun _ h _ => by
    unfold decodeX; rw [h.op]; show decodeFa _ = _; unfold decodeFa xMin; rw [h.mn]
    exact decFa_of h
theorem faSub (d : EDst) (s : ESrc) (t : ESrc) (f : FpFmt) : Statement (Instr.faSub d s t f) :=
  ofXR rfl rfl (by decide) (encEDst_lt d) (encESrc_lt s) (encESrc_lt t) (by decide) (by have := encFp_lt f; omega) (by decide) fun _ h _ => by
    unfold decodeX; rw [h.op]; show decodeFa _ = _; unfold decodeFa xMin; rw [h.mn]
    exact decFa_of h
theorem faMul (d : EDst) (s : ESrc) (t : ESrc) (f : FpFmt) : Statement (Instr.faMul d s t f) :=
  ofXR rfl rfl (by decide) (encEDst_lt d) (encESrc_lt s) (encESrc_lt t) (by decide) (by have := encFp_lt f; omega) (by decide) fun _ h _ => by
    unfold decodeX; rw [h.op]; show decodeFa _ = _; unfold decodeFa xMin; rw [h.mn]
    exact decFa_of h
theorem faFma (d : Fin 16) (s : ESrc) (t : ESrc) (f : FpFmt) : Statement (Instr.faFma d s t f) :=
  ofXR rfl rfl (by decide) (by have := d.isLt; omega) (encESrc_lt s) (encESrc_lt t) (by decide) (by have := encFp_lt f; omega) (by decide) fun _ h _ => by
    unfold decodeX; rw [h.op]; show decodeFa _ = _; unfold decodeFa xMin; rw [h.mn]
    exact decFaF_of h
theorem faFms (d : Fin 16) (s : ESrc) (t : ESrc) (f : FpFmt) : Statement (Instr.faFms d s t f) :=
  ofXR rfl rfl (by decide) (by have := d.isLt; omega) (encESrc_lt s) (encESrc_lt t) (by decide) (by have := encFp_lt f; omega) (by decide) fun _ h _ => by
    unfold decodeX; rw [h.op]; show decodeFa _ = _; unfold decodeFa xMin; rw [h.mn]
    exact decFaF_of h
theorem faFnma (d : Fin 16) (s : ESrc) (t : ESrc) (f : FpFmt) : Statement (Instr.faFnma d s t f) :=
  ofXR rfl rfl (by decide) (by have := d.isLt; omega) (encESrc_lt s) (encESrc_lt t) (by decide) (by have := encFp_lt f; omega) (by decide) fun _ h _ => by
    unfold decodeX; rw [h.op]; show decodeFa _ = _; unfold decodeFa xMin; rw [h.mn]
    exact decFaF_of h
theorem faMin (d : EDst) (s : ESrc) (t : ESrc) (f : FpFmt) : Statement (Instr.faMin d s t f) :=
  ofXR rfl rfl (by decide) (encEDst_lt d) (encESrc_lt s) (encESrc_lt t) (by decide) (by have := encFp_lt f; omega) (by decide) fun _ h _ => by
    unfold decodeX; rw [h.op]; show decodeFa _ = _; unfold decodeFa xMin; rw [h.mn]
    exact decFa_of h
theorem faMax (d : EDst) (s : ESrc) (t : ESrc) (f : FpFmt) : Statement (Instr.faMax d s t f) :=
  ofXR rfl rfl (by decide) (encEDst_lt d) (encESrc_lt s) (encESrc_lt t) (by decide) (by have := encFp_lt f; omega) (by decide) fun _ h _ => by
    unfold decodeX; rw [h.op]; show decodeFa _ = _; unfold decodeFa xMin; rw [h.mn]
    exact decFa_of h
theorem faAbs (d : EDst) (s : ESrc) (f : FpFmt) : Statement (Instr.faAbs d s f) :=
  ofXR rfl rfl (by decide) (encEDst_lt d) (encESrc_lt s) (by decide) (by decide) (by have := encFp_lt f; omega) (by decide) fun _ h _ => by
    unfold decodeX; rw [h.op]; show decodeFa _ = _; unfold decodeFa xMin; rw [h.mn]
    exact decFa2_of h
theorem faNeg (d : EDst) (s : ESrc) (f : FpFmt) : Statement (Instr.faNeg d s f) :=
  ofXR rfl rfl (by decide) (encEDst_lt d) (encESrc_lt s) (by decide) (by decide) (by have := encFp_lt f; omega) (by decide) fun _ h _ => by
    unfold decodeX; rw [h.op]; show decodeFa _ = _; unfold decodeFa xMin; rw [h.mn]
    exact decFa2_of h
theorem faRcpe (d : EDst) (s : ESrc) (f : FpFmt) : Statement (Instr.faRcpe d s f) :=
  ofXR rfl rfl (by decide) (encEDst_lt d) (encESrc_lt s) (by decide) (by decide) (by have := encFp_lt f; omega) (by decide) fun _ h _ => by
    unfold decodeX; rw [h.op]; show decodeFa _ = _; unfold decodeFa xMin; rw [h.mn]
    exact decFa2_of h
theorem faRcps (d : EDst) (s : ESrc) (t : ESrc) (f : FpFmt) : Statement (Instr.faRcps d s t f) :=
  ofXR rfl rfl (by decide) (encEDst_lt d) (encESrc_lt s) (encESrc_lt t) (by decide) (by have := encFp_lt f; omega) (by decide) fun _ h _ => by
    unfold decodeX; rw [h.op]; show decodeFa _ = _; unfold decodeFa xMin; rw [h.mn]
    exact decFa_of h
theorem faRsqe (d : EDst) (s : ESrc) (f : FpFmt) : Statement (Instr.faRsqe d s f) :=
  ofXR rfl rfl (by decide) (encEDst_lt d) (encESrc_lt s) (by decide) (by decide) (by have := encFp_lt f; omega) (by decide) fun _ h _ => by
    unfold decodeX; rw [h.op]; show decodeFa _ = _; unfold decodeFa xMin; rw [h.mn]
    exact decFa2_of h
theorem faSqrt (d : EDst) (s : ESrc) (f : FpFmt) : Statement (Instr.faSqrt d s f) :=
  ofXR rfl rfl (by decide) (encEDst_lt d) (encESrc_lt s) (by decide) (by decide) (by have := encFp_lt f; omega) (by decide) fun _ h _ => by
    unfold decodeX; rw [h.op]; show decodeFa _ = _; unfold decodeFa xMin; rw [h.mn]
    exact decFa2_of h
theorem faClass (d : EDst) (s : ESrc) (f : FpFmt) : Statement (Instr.faClass d s f) :=
  ofXR rfl rfl (by decide) (encEDst_lt d) (encESrc_lt s) (by decide) (by decide) (by have := encFp_lt f; omega) (by decide) fun _ h _ => by
    unfold decodeX; rw [h.op]; show decodeFa _ = _; unfold decodeFa xMin; rw [h.mn]
    exact decFa2_of h
theorem faCeq (d : EDst) (s : ESrc) (t : ESrc) (f : FpFmt) : Statement (Instr.faCeq d s t f) :=
  ofXR rfl rfl (by decide) (encEDst_lt d) (encESrc_lt s) (encESrc_lt t) (by decide) (by have := encFp_lt f; omega) (by decide) fun _ h _ => by
    unfold decodeX; rw [h.op]; show decodeFa _ = _; unfold decodeFa xMin; rw [h.mn]
    exact decFa_of h
theorem faClt (d : EDst) (s : ESrc) (t : ESrc) (f : FpFmt) : Statement (Instr.faClt d s t f) :=
  ofXR rfl rfl (by decide) (encEDst_lt d) (encESrc_lt s) (encESrc_lt t) (by decide) (by have := encFp_lt f; omega) (by decide) fun _ h _ => by
    unfold decodeX; rw [h.op]; show decodeFa _ = _; unfold decodeFa xMin; rw [h.mn]
    exact decFa_of h
theorem faCle (d : EDst) (s : ESrc) (t : ESrc) (f : FpFmt) : Statement (Instr.faCle d s t f) :=
  ofXR rfl rfl (by decide) (encEDst_lt d) (encESrc_lt s) (encESrc_lt t) (by decide) (by have := encFp_lt f; omega) (by decide) fun _ h _ => by
    unfold decodeX; rw [h.op]; show decodeFa _ = _; unfold decodeFa xMin; rw [h.mn]
    exact decFa_of h
theorem cvtEncS (d : EDst) (s : ESrc) : Statement (Instr.cvtEncS d s) :=
  ofXR rfl rfl (by decide) (encEDst_lt d) (encESrc_lt s) (by decide) (by decide) (by decide) (by decide) fun _ h _ => by
    unfold decodeX; rw [h.op]; show decodeCvt _ = _; unfold decodeCvt xMin; rw [h.mn]
    exact decCvt_of h
theorem cvtDecS (d : EDst) (s : ESrc) : Statement (Instr.cvtDecS d s) :=
  ofXR rfl rfl (by decide) (encEDst_lt d) (encESrc_lt s) (by decide) (by decide) (by decide) (by decide) fun _ h _ => by
    unfold decodeX; rw [h.op]; show decodeCvt _ = _; unfold decodeCvt xMin; rw [h.mn]
    exact decCvt_of h
theorem cvtCnvS (d : EDst) (s : ESrc) : Statement (Instr.cvtCnvS d s) :=
  ofXR rfl rfl (by decide) (encEDst_lt d) (encESrc_lt s) (by decide) (by decide) (by decide) (by decide) fun _ h _ => by
    unfold decodeX; rw [h.op]; show decodeCvt _ = _; unfold decodeCvt xMin; rw [h.mn]
    exact decCvt_of h
theorem cvtFtiS (d : EDst) (s : ESrc) : Statement (Instr.cvtFtiS d s) :=
  ofXR rfl rfl (by decide) (encEDst_lt d) (encESrc_lt s) (by decide) (by decide) (by decide) (by decide) fun _ h _ => by
    unfold decodeX; rw [h.op]; show decodeCvt _ = _; unfold decodeCvt xMin; rw [h.mn]
    exact decCvt_of h
theorem cvtItfS (d : EDst) (s : ESrc) : Statement (Instr.cvtItfS d s) :=
  ofXR rfl rfl (by decide) (encEDst_lt d) (encESrc_lt s) (by decide) (by decide) (by decide) (by decide) fun _ h _ => by
    unfold decodeX; rw [h.op]; show decodeCvt _ = _; unfold decodeCvt xMin; rw [h.mn]
    exact decCvt_of h
theorem cvtTblw (s : ESrc) (t : ESrc) : Statement (Instr.cvtTblw s t) :=
  ofXR rfl rfl (by decide) (by decide) (encESrc_lt s) (encESrc_lt t) (by decide) (by decide) (by decide) fun _ h _ => by
    unfold decodeX; rw [h.op]; show decodeCvt _ = _; unfold decodeCvt xMin; rw [h.mn]
    exact decTblw_of h
theorem cvtEncV (d : VDst) (s : VSrc) : Statement (Instr.cvtEncV d s) :=
  ofXR rfl rfl (by decide) (encVDst_lt d) (encVSrc_lt s) (by decide) (by decide) (by decide) (by decide) fun _ h _ => by
    unfold decodeX; rw [h.op]; show decodeCvt _ = _; unfold decodeCvt xMin; rw [h.mn]
    exact decCvtV_of h
theorem cvtDecV (d : VDst) (s : VSrc) : Statement (Instr.cvtDecV d s) :=
  ofXR rfl rfl (by decide) (encVDst_lt d) (encVSrc_lt s) (by decide) (by decide) (by decide) (by decide) fun _ h _ => by
    unfold decodeX; rw [h.op]; show decodeCvt _ = _; unfold decodeCvt xMin; rw [h.mn]
    exact decCvtV_of h
theorem cvtCnvV (d : VDst) (s : VSrc) : Statement (Instr.cvtCnvV d s) :=
  ofXR rfl rfl (by decide) (encVDst_lt d) (encVSrc_lt s) (by decide) (by decide) (by decide) (by decide) fun _ h _ => by
    unfold decodeX; rw [h.op]; show decodeCvt _ = _; unfold decodeCvt xMin; rw [h.mn]
    exact decCvtV_of h
theorem cvtFtiV (d : VDst) (s : VSrc) : Statement (Instr.cvtFtiV d s) :=
  ofXR rfl rfl (by decide) (encVDst_lt d) (encVSrc_lt s) (by decide) (by decide) (by decide) (by decide) fun _ h _ => by
    unfold decodeX; rw [h.op]; show decodeCvt _ = _; unfold decodeCvt xMin; rw [h.mn]
    exact decCvtV_of h
theorem cvtItfV (d : VDst) (s : VSrc) : Statement (Instr.cvtItfV d s) :=
  ofXR rfl rfl (by decide) (encVDst_lt d) (encVSrc_lt s) (by decide) (by decide) (by decide) (by decide) fun _ h _ => by
    unfold decodeX; rw [h.op]; show decodeCvt _ = _; unfold decodeCvt xMin; rw [h.mn]
    exact decCvtV_of h
theorem cvtPack (d : Fin 8) (s : VSrc) (t : ESrc) : Statement (Instr.cvtPack d s t) :=
  ofXR rfl rfl (by decide) (by have := d.isLt; omega) (encVSrc_lt s) (encESrc_lt t) (by decide) (by decide) (by decide) fun _ h _ => by
    unfold decodeX; rw [h.op]; show decodeCvt _ = _; unfold decodeCvt xMin; rw [h.mn]
    exact decPack_of h
theorem cvtUnpk (d : VDst) (s : VSrc) (t : ESrc) : Statement (Instr.cvtUnpk d s t) :=
  ofXR rfl rfl (by decide) (encVDst_lt d) (encVSrc_lt s) (encESrc_lt t) (by decide) (by decide) (by decide) fun _ h _ => by
    unfold decodeX; rw [h.op]; show decodeCvt _ = _; unfold decodeCvt xMin; rw [h.mn]
    exact decUnpk_of h
theorem prAnd (d : Fin 8) (s : Fin 8) (t : Fin 8) : Statement (Instr.prAnd d s t) :=
  ofXR rfl rfl (by decide) (by have := d.isLt; omega) (by have := s.isLt; omega) (by have := t.isLt; omega) (by decide) (by decide) (by decide) fun _ h _ => by
    unfold decodeX; rw [h.op]; show decodePr _ = _; unfold decodePr xMin; rw [h.mn]
    exact decPPP_of h
theorem prOr (d : Fin 8) (s : Fin 8) (t : Fin 8) : Statement (Instr.prOr d s t) :=
  ofXR rfl rfl (by decide) (by have := d.isLt; omega) (by have := s.isLt; omega) (by have := t.isLt; omega) (by decide) (by decide) (by decide) fun _ h _ => by
    unfold decodeX; rw [h.op]; show decodePr _ = _; unfold decodePr xMin; rw [h.mn]
    exact decPPP_of h
theorem prXor (d : Fin 8) (s : Fin 8) (t : Fin 8) : Statement (Instr.prXor d s t) :=
  ofXR rfl rfl (by decide) (by have := d.isLt; omega) (by have := s.isLt; omega) (by have := t.isLt; omega) (by decide) (by decide) (by decide) fun _ h _ => by
    unfold decodeX; rw [h.op]; show decodePr _ = _; unfold decodePr xMin; rw [h.mn]
    exact decPPP_of h
theorem prAndn (d : Fin 8) (s : Fin 8) (t : Fin 8) : Statement (Instr.prAndn d s t) :=
  ofXR rfl rfl (by decide) (by have := d.isLt; omega) (by have := s.isLt; omega) (by have := t.isLt; omega) (by decide) (by decide) (by decide) fun _ h _ => by
    unfold decodeX; rw [h.op]; show decodePr _ = _; unfold decodePr xMin; rw [h.mn]
    exact decPPP_of h
theorem prNot (d : Fin 8) (s : Fin 8) : Statement (Instr.prNot d s) :=
  ofXR rfl rfl (by decide) (by have := d.isLt; omega) (by have := s.isLt; omega) (by decide) (by decide) (by decide) (by decide) fun _ h _ => by
    unfold decodeX; rw [h.op]; show decodePr _ = _; unfold decodePr xMin; rw [h.mn]
    exact decPP_of h
theorem prSet (d : Fin 8) (s : ESrc) : Statement (Instr.prSet d s) :=
  ofXR rfl rfl (by decide) (by have := d.isLt; omega) (encESrc_lt s) (by decide) (by decide) (by decide) (by decide) fun _ h _ => by
    unfold decodeX; rw [h.op]; show decodePr _ = _; unfold decodePr xMin; rw [h.mn]
    exact decPE_of h
theorem prGet (d : EDst) (s : Fin 8) : Statement (Instr.prGet d s) :=
  ofXR rfl rfl (by decide) (encEDst_lt d) (by have := s.isLt; omega) (by decide) (by decide) (by decide) (by decide) fun _ h _ => by
    unfold decodeX; rw [h.op]; show decodePr _ = _; unfold decodePr xMin; rw [h.mn]
    exact decEP_of h
theorem prCeq (d : Fin 8) (s : ESrc) (t : ESrc) : Statement (Instr.prCeq d s t) :=
  ofXR rfl rfl (by decide) (by have := d.isLt; omega) (encESrc_lt s) (encESrc_lt t) (by decide) (by decide) (by decide) fun _ h _ => by
    unfold decodeX; rw [h.op]; show decodePr _ = _; unfold decodePr xMin; rw [h.mn]
    exact decPEE_of h
theorem prCne (d : Fin 8) (s : ESrc) (t : ESrc) : Statement (Instr.prCne d s t) :=
  ofXR rfl rfl (by decide) (by have := d.isLt; omega) (encESrc_lt s) (encESrc_lt t) (by decide) (by decide) (by decide) fun _ h _ => by
    unfold decodeX; rw [h.op]; show decodePr _ = _; unfold decodePr xMin; rw [h.mn]
    exact decPEE_of h
theorem prClt (d : Fin 8) (s : ESrc) (t : ESrc) : Statement (Instr.prClt d s t) :=
  ofXR rfl rfl (by decide) (by have := d.isLt; omega) (encESrc_lt s) (encESrc_lt t) (by decide) (by decide) (by decide) fun _ h _ => by
    unfold decodeX; rw [h.op]; show decodePr _ = _; unfold decodePr xMin; rw [h.mn]
    exact decPEE_of h
theorem prCle (d : Fin 8) (s : ESrc) (t : ESrc) : Statement (Instr.prCle d s t) :=
  ofXR rfl rfl (by decide) (by have := d.isLt; omega) (encESrc_lt s) (encESrc_lt t) (by decide) (by decide) (by decide) fun _ h _ => by
    unfold decodeX; rw [h.op]; show decodePr _ = _; unfold decodePr xMin; rw [h.mn]
    exact decPEE_of h
theorem prCltu (d : Fin 8) (s : ESrc) (t : ESrc) : Statement (Instr.prCltu d s t) :=
  ofXR rfl rfl (by decide) (by have := d.isLt; omega) (encESrc_lt s) (encESrc_lt t) (by decide) (by decide) (by decide) fun _ h _ => by
    unfold decodeX; rw [h.op]; show decodePr _ = _; unfold decodePr xMin; rw [h.mn]
    exact decPEE_of h
theorem prCleu (d : Fin 8) (s : ESrc) (t : ESrc) : Statement (Instr.prCleu d s t) :=
  ofXR rfl rfl (by decide) (by have := d.isLt; omega) (encESrc_lt s) (encESrc_lt t) (by decide) (by decide) (by decide) fun _ h _ => by
    unfold decodeX; rw [h.op]; show decodePr _ = _; unfold decodePr xMin; rw [h.mn]
    exact decPEE_of h
theorem prAny (d : EDst) (s : Fin 8) (t : Fin 8) : Statement (Instr.prAny d s t) :=
  ofXR rfl rfl (by decide) (encEDst_lt d) (by have := s.isLt; omega) (by have := t.isLt; omega) (by decide) (by decide) (by decide) fun _ h _ => by
    unfold decodeX; rw [h.op]; show decodePr _ = _; unfold decodePr xMin; rw [h.mn]
    exact decEPP_of h
theorem prAll (d : EDst) (s : Fin 8) (t : Fin 8) : Statement (Instr.prAll d s t) :=
  ofXR rfl rfl (by decide) (encEDst_lt d) (by have := s.isLt; omega) (by have := t.isLt; omega) (by decide) (by decide) (by decide) fun _ h _ => by
    unfold decodeX; rw [h.op]; show decodePr _ = _; unfold decodePr xMin; rw [h.mn]
    exact decEPP_of h
theorem prPopc (d : EDst) (s : Fin 8) (t : Fin 8) : Statement (Instr.prPopc d s t) :=
  ofXR rfl rfl (by decide) (encEDst_lt d) (by have := s.isLt; omega) (by have := t.isLt; omega) (by decide) (by decide) (by decide) fun _ h _ => by
    unfold decodeX; rw [h.op]; show decodePr _ = _; unfold decodePr xMin; rw [h.mn]
    exact decEPP_of h
theorem vaAdd (d : VDst) (s : VSrc) (t : VSrc) (pred : Fin 8) (w : LaneW) : Statement (Instr.vaAdd d s t pred w) :=
  ofXR rfl rfl (by decide) (encVDst_lt d) (encVSrc_lt s) (encVSrc_lt t) (by have := pred.isLt; omega) (by have := encLane_lt w; omega) (by decide) fun _ h _ => by
    unfold decodeX; rw [h.op]; show decodeVa _ = _; unfold decodeVa xMin; rw [h.mn]
    exact decVa_of h
theorem vaSub (d : VDst) (s : VSrc) (t : VSrc) (pred : Fin 8) (w : LaneW) : Statement (Instr.vaSub d s t pred w) :=
  ofXR rfl rfl (by decide) (encVDst_lt d) (encVSrc_lt s) (encVSrc_lt t) (by have := pred.isLt; omega) (by have := encLane_lt w; omega) (by decide) fun _ h _ => by
    unfold decodeX; rw [h.op]; show decodeVa _ = _; unfold decodeVa xMin; rw [h.mn]
    exact decVa_of h
theorem vaAdds (d : VDst) (s : VSrc) (t : VSrc) (pred : Fin 8) (w : LaneW) : Statement (Instr.vaAdds d s t pred w) :=
  ofXR rfl rfl (by decide) (encVDst_lt d) (encVSrc_lt s) (encVSrc_lt t) (by have := pred.isLt; omega) (by have := encLane_lt w; omega) (by decide) fun _ h _ => by
    unfold decodeX; rw [h.op]; show decodeVa _ = _; unfold decodeVa xMin; rw [h.mn]
    exact decVa_of h
theorem vaSubs (d : VDst) (s : VSrc) (t : VSrc) (pred : Fin 8) (w : LaneW) : Statement (Instr.vaSubs d s t pred w) :=
  ofXR rfl rfl (by decide) (encVDst_lt d) (encVSrc_lt s) (encVSrc_lt t) (by have := pred.isLt; omega) (by have := encLane_lt w; omega) (by decide) fun _ h _ => by
    unfold decodeX; rw [h.op]; show decodeVa _ = _; unfold decodeVa xMin; rw [h.mn]
    exact decVa_of h
theorem vaAddus (d : VDst) (s : VSrc) (t : VSrc) (pred : Fin 8) (w : LaneW) : Statement (Instr.vaAddus d s t pred w) :=
  ofXR rfl rfl (by decide) (encVDst_lt d) (encVSrc_lt s) (encVSrc_lt t) (by have := pred.isLt; omega) (by have := encLane_lt w; omega) (by decide) fun _ h _ => by
    unfold decodeX; rw [h.op]; show decodeVa _ = _; unfold decodeVa xMin; rw [h.mn]
    exact decVa_of h
theorem vaSubus (d : VDst) (s : VSrc) (t : VSrc) (pred : Fin 8) (w : LaneW) : Statement (Instr.vaSubus d s t pred w) :=
  ofXR rfl rfl (by decide) (encVDst_lt d) (encVSrc_lt s) (encVSrc_lt t) (by have := pred.isLt; omega) (by have := encLane_lt w; omega) (by decide) fun _ h _ => by
    unfold decodeX; rw [h.op]; show decodeVa _ = _; unfold decodeVa xMin; rw [h.mn]
    exact decVa_of h
theorem vaMul (d : VDst) (s : VSrc) (t : VSrc) (pred : Fin 8) (w : LaneW) : Statement (Instr.vaMul d s t pred w) :=
  ofXR rfl rfl (by decide) (encVDst_lt d) (encVSrc_lt s) (encVSrc_lt t) (by have := pred.isLt; omega) (by have := encLane_lt w; omega) (by decide) fun _ h _ => by
    unfold decodeX; rw [h.op]; show decodeVa _ = _; unfold decodeVa xMin; rw [h.mn]
    exact decVa_of h
theorem vaMulh (d : VDst) (s : VSrc) (t : VSrc) (pred : Fin 8) (w : LaneW) : Statement (Instr.vaMulh d s t pred w) :=
  ofXR rfl rfl (by decide) (encVDst_lt d) (encVSrc_lt s) (encVSrc_lt t) (by have := pred.isLt; omega) (by have := encLane_lt w; omega) (by decide) fun _ h _ => by
    unfold decodeX; rw [h.op]; show decodeVa _ = _; unfold decodeVa xMin; rw [h.mn]
    exact decVa_of h
theorem vaAnd (d : VDst) (s : VSrc) (t : VSrc) (pred : Fin 8) (w : LaneW) : Statement (Instr.vaAnd d s t pred w) :=
  ofXR rfl rfl (by decide) (encVDst_lt d) (encVSrc_lt s) (encVSrc_lt t) (by have := pred.isLt; omega) (by have := encLane_lt w; omega) (by decide) fun _ h _ => by
    unfold decodeX; rw [h.op]; show decodeVa _ = _; unfold decodeVa xMin; rw [h.mn]
    exact decVa_of h
theorem vaOr (d : VDst) (s : VSrc) (t : VSrc) (pred : Fin 8) (w : LaneW) : Statement (Instr.vaOr d s t pred w) :=
  ofXR rfl rfl (by decide) (encVDst_lt d) (encVSrc_lt s) (encVSrc_lt t) (by have := pred.isLt; omega) (by have := encLane_lt w; omega) (by decide) fun _ h _ => by
    unfold decodeX; rw [h.op]; show decodeVa _ = _; unfold decodeVa xMin; rw [h.mn]
    exact decVa_of h
theorem vaXor (d : VDst) (s : VSrc) (t : VSrc) (pred : Fin 8) (w : LaneW) : Statement (Instr.vaXor d s t pred w) :=
  ofXR rfl rfl (by decide) (encVDst_lt d) (encVSrc_lt s) (encVSrc_lt t) (by have := pred.isLt; omega) (by have := encLane_lt w; omega) (by decide) fun _ h _ => by
    unfold decodeX; rw [h.op]; show decodeVa _ = _; unfold decodeVa xMin; rw [h.mn]
    exact decVa_of h
theorem vaSll (d : VDst) (s : VSrc) (t : VSrc) (pred : Fin 8) (w : LaneW) : Statement (Instr.vaSll d s t pred w) :=
  ofXR rfl rfl (by decide) (encVDst_lt d) (encVSrc_lt s) (encVSrc_lt t) (by have := pred.isLt; omega) (by have := encLane_lt w; omega) (by decide) fun _ h _ => by
    unfold decodeX; rw [h.op]; show decodeVa _ = _; unfold decodeVa xMin; rw [h.mn]
    exact decVa_of h
theorem vaSrl (d : VDst) (s : VSrc) (t : VSrc) (pred : Fin 8) (w : LaneW) : Statement (Instr.vaSrl d s t pred w) :=
  ofXR rfl rfl (by decide) (encVDst_lt d) (encVSrc_lt s) (encVSrc_lt t) (by have := pred.isLt; omega) (by have := encLane_lt w; omega) (by decide) fun _ h _ => by
    unfold decodeX; rw [h.op]; show decodeVa _ = _; unfold decodeVa xMin; rw [h.mn]
    exact decVa_of h
theorem vaSra (d : VDst) (s : VSrc) (t : VSrc) (pred : Fin 8) (w : LaneW) : Statement (Instr.vaSra d s t pred w) :=
  ofXR rfl rfl (by decide) (encVDst_lt d) (encVSrc_lt s) (encVSrc_lt t) (by have := pred.isLt; omega) (by have := encLane_lt w; omega) (by decide) fun _ h _ => by
    unfold decodeX; rw [h.op]; show decodeVa _ = _; unfold decodeVa xMin; rw [h.mn]
    exact decVa_of h
theorem vaMin (d : VDst) (s : VSrc) (t : VSrc) (pred : Fin 8) (w : LaneW) : Statement (Instr.vaMin d s t pred w) :=
  ofXR rfl rfl (by decide) (encVDst_lt d) (encVSrc_lt s) (encVSrc_lt t) (by have := pred.isLt; omega) (by have := encLane_lt w; omega) (by decide) fun _ h _ => by
    unfold decodeX; rw [h.op]; show decodeVa _ = _; unfold decodeVa xMin; rw [h.mn]
    exact decVa_of h
theorem vaMax (d : VDst) (s : VSrc) (t : VSrc) (pred : Fin 8) (w : LaneW) : Statement (Instr.vaMax d s t pred w) :=
  ofXR rfl rfl (by decide) (encVDst_lt d) (encVSrc_lt s) (encVSrc_lt t) (by have := pred.isLt; omega) (by have := encLane_lt w; omega) (by decide) fun _ h _ => by
    unfold decodeX; rw [h.op]; show decodeVa _ = _; unfold decodeVa xMin; rw [h.mn]
    exact decVa_of h
theorem vaMinu (d : VDst) (s : VSrc) (t : VSrc) (pred : Fin 8) (w : LaneW) : Statement (Instr.vaMinu d s t pred w) :=
  ofXR rfl rfl (by decide) (encVDst_lt d) (encVSrc_lt s) (encVSrc_lt t) (by have := pred.isLt; omega) (by have := encLane_lt w; omega) (by decide) fun _ h _ => by
    unfold decodeX; rw [h.op]; show decodeVa _ = _; unfold decodeVa xMin; rw [h.mn]
    exact decVa_of h
theorem vaMaxu (d : VDst) (s : VSrc) (t : VSrc) (pred : Fin 8) (w : LaneW) : Statement (Instr.vaMaxu d s t pred w) :=
  ofXR rfl rfl (by decide) (encVDst_lt d) (encVSrc_lt s) (encVSrc_lt t) (by have := pred.isLt; omega) (by have := encLane_lt w; omega) (by decide) fun _ h _ => by
    unfold decodeX; rw [h.op]; show decodeVa _ = _; unfold decodeVa xMin; rw [h.mn]
    exact decVa_of h
theorem vaAbs (d : VDst) (s : VSrc) (pred : Fin 8) (w : LaneW) : Statement (Instr.vaAbs d s pred w) :=
  ofXR rfl rfl (by decide) (encVDst_lt d) (encVSrc_lt s) (by decide) (by have := pred.isLt; omega) (by have := encLane_lt w; omega) (by decide) fun _ h _ => by
    unfold decodeX; rw [h.op]; show decodeVa _ = _; unfold decodeVa xMin; rw [h.mn]
    exact decVa2_of h
theorem vaCeq (d : Fin 8) (s : VSrc) (t : VSrc) (pred : Fin 8) (w : LaneW) : Statement (Instr.vaCeq d s t pred w) :=
  ofXR rfl rfl (by decide) (by have := d.isLt; omega) (encVSrc_lt s) (encVSrc_lt t) (by have := pred.isLt; omega) (by have := encLane_lt w; omega) (by decide) fun _ h _ => by
    unfold decodeX; rw [h.op]; show decodeVa _ = _; unfold decodeVa xMin; rw [h.mn]
    exact decVaP_of h
theorem vaClt (d : Fin 8) (s : VSrc) (t : VSrc) (pred : Fin 8) (w : LaneW) : Statement (Instr.vaClt d s t pred w) :=
  ofXR rfl rfl (by decide) (by have := d.isLt; omega) (encVSrc_lt s) (encVSrc_lt t) (by have := pred.isLt; omega) (by have := encLane_lt w; omega) (by decide) fun _ h _ => by
    unfold decodeX; rw [h.op]; show decodeVa _ = _; unfold decodeVa xMin; rw [h.mn]
    exact decVaP_of h
theorem vaCltu (d : Fin 8) (s : VSrc) (t : VSrc) (pred : Fin 8) (w : LaneW) : Statement (Instr.vaCltu d s t pred w) :=
  ofXR rfl rfl (by decide) (by have := d.isLt; omega) (encVSrc_lt s) (encVSrc_lt t) (by have := pred.isLt; omega) (by have := encLane_lt w; omega) (by decide) fun _ h _ => by
    unfold decodeX; rw [h.op]; show decodeVa _ = _; unfold decodeVa xMin; rw [h.mn]
    exact decVaP_of h
theorem vaSel (d : VDst) (s : VSrc) (t : VSrc) (pred : Fin 8) (w : LaneW) : Statement (Instr.vaSel d s t pred w) :=
  ofXR rfl rfl (by decide) (encVDst_lt d) (encVSrc_lt s) (encVSrc_lt t) (by have := pred.isLt; omega) (by have := encLane_lt w; omega) (by decide) fun _ h _ => by
    unfold decodeX; rw [h.op]; show decodeVa _ = _; unfold decodeVa xMin; rw [h.mn]
    exact decVa_of h
theorem vaDot (d : Fin 8) (s : VSrc) (t : VSrc) (pred : Fin 8) : Statement (Instr.vaDot d s t pred) :=
  ofXR rfl rfl (by decide) (by have := d.isLt; omega) (encVSrc_lt s) (encVSrc_lt t) (by have := pred.isLt; omega) (by decide) (by decide) fun _ h _ => by
    unfold decodeX; rw [h.op]; show decodeVa _ = _; unfold decodeVa xMin; rw [h.mn]
    exact decVaDot_of h
theorem vaRsum (d : VDst) (s : VSrc) (pred : Fin 8) (w : LaneW) : Statement (Instr.vaRsum d s pred w) :=
  ofXR rfl rfl (by decide) (encVDst_lt d) (encVSrc_lt s) (by decide) (by have := pred.isLt; omega) (by have := encLane_lt w; omega) (by decide) fun _ h _ => by
    unfold decodeX; rw [h.op]; show decodeVa _ = _; unfold decodeVa xMin; rw [h.mn]
    exact decVa2_of h
theorem vaRmin (d : VDst) (s : VSrc) (pred : Fin 8) (w : LaneW) : Statement (Instr.vaRmin d s pred w) :=
  ofXR rfl rfl (by decide) (encVDst_lt d) (encVSrc_lt s) (by decide) (by have := pred.isLt; omega) (by have := encLane_lt w; omega) (by decide) fun _ h _ => by
    unfold decodeX; rw [h.op]; show decodeVa _ = _; unfold decodeVa xMin; rw [h.mn]
    exact decVa2_of h
theorem vaRmax (d : VDst) (s : VSrc) (pred : Fin 8) (w : LaneW) : Statement (Instr.vaRmax d s pred w) :=
  ofXR rfl rfl (by decide) (encVDst_lt d) (encVSrc_lt s) (by decide) (by have := pred.isLt; omega) (by have := encLane_lt w; omega) (by decide) fun _ h _ => by
    unfold decodeX; rw [h.op]; show decodeVa _ = _; unfold decodeVa xMin; rw [h.mn]
    exact decVa2_of h
theorem vfAdd (d : VDst) (s : VSrc) (t : VSrc) (pred : Fin 8) (f : FpFmt) : Statement (Instr.vfAdd d s t pred f) :=
  ofXR rfl rfl (by decide) (encVDst_lt d) (encVSrc_lt s) (encVSrc_lt t) (by have := pred.isLt; omega) (by have := encFp_lt f; omega) (by decide) fun _ h _ => by
    unfold decodeX; rw [h.op]; show decodeVf _ = _; unfold decodeVf xMin; rw [h.mn]
    exact decVf_of h
theorem vfSub (d : VDst) (s : VSrc) (t : VSrc) (pred : Fin 8) (f : FpFmt) : Statement (Instr.vfSub d s t pred f) :=
  ofXR rfl rfl (by decide) (encVDst_lt d) (encVSrc_lt s) (encVSrc_lt t) (by have := pred.isLt; omega) (by have := encFp_lt f; omega) (by decide) fun _ h _ => by
    unfold decodeX; rw [h.op]; show decodeVf _ = _; unfold decodeVf xMin; rw [h.mn]
    exact decVf_of h
theorem vfMul (d : VDst) (s : VSrc) (t : VSrc) (pred : Fin 8) (f : FpFmt) : Statement (Instr.vfMul d s t pred f) :=
  ofXR rfl rfl (by decide) (encVDst_lt d) (encVSrc_lt s) (encVSrc_lt t) (by have := pred.isLt; omega) (by have := encFp_lt f; omega) (by decide) fun _ h _ => by
    unfold decodeX; rw [h.op]; show decodeVf _ = _; unfold decodeVf xMin; rw [h.mn]
    exact decVf_of h
theorem vfFma (d : Fin 8) (s : VSrc) (t : VSrc) (pred : Fin 8) (f : FpFmt) : Statement (Instr.vfFma d s t pred f) :=
  ofXR rfl rfl (by decide) (by have := d.isLt; omega) (encVSrc_lt s) (encVSrc_lt t) (by have := pred.isLt; omega) (by have := encFp_lt f; omega) (by decide) fun _ h _ => by
    unfold decodeX; rw [h.op]; show decodeVf _ = _; unfold decodeVf xMin; rw [h.mn]
    exact decVfF_of h
theorem vfMin (d : VDst) (s : VSrc) (t : VSrc) (pred : Fin 8) (f : FpFmt) : Statement (Instr.vfMin d s t pred f) :=
  ofXR rfl rfl (by decide) (encVDst_lt d) (encVSrc_lt s) (encVSrc_lt t) (by have := pred.isLt; omega) (by have := encFp_lt f; omega) (by decide) fun _ h _ => by
    unfold decodeX; rw [h.op]; show decodeVf _ = _; unfold decodeVf xMin; rw [h.mn]
    exact decVf_of h
theorem vfMax (d : VDst) (s : VSrc) (t : VSrc) (pred : Fin 8) (f : FpFmt) : Statement (Instr.vfMax d s t pred f) :=
  ofXR rfl rfl (by decide) (encVDst_lt d) (encVSrc_lt s) (encVSrc_lt t) (by have := pred.isLt; omega) (by have := encFp_lt f; omega) (by decide) fun _ h _ => by
    unfold decodeX; rw [h.op]; show decodeVf _ = _; unfold decodeVf xMin; rw [h.mn]
    exact decVf_of h
theorem vfAbs (d : VDst) (s : VSrc) (pred : Fin 8) (f : FpFmt) : Statement (Instr.vfAbs d s pred f) :=
  ofXR rfl rfl (by decide) (encVDst_lt d) (encVSrc_lt s) (by decide) (by have := pred.isLt; omega) (by have := encFp_lt f; omega) (by decide) fun _ h _ => by
    unfold decodeX; rw [h.op]; show decodeVf _ = _; unfold decodeVf xMin; rw [h.mn]
    exact decVf2_of h
theorem vfNeg (d : VDst) (s : VSrc) (pred : Fin 8) (f : FpFmt) : Statement (Instr.vfNeg d s pred f) :=
  ofXR rfl rfl (by decide) (encVDst_lt d) (encVSrc_lt s) (by decide) (by have := pred.isLt; omega) (by have := encFp_lt f; omega) (by decide) fun _ h _ => by
    unfold decodeX; rw [h.op]; show decodeVf _ = _; unfold decodeVf xMin; rw [h.mn]
    exact decVf2_of h
theorem vfCeq (d : Fin 8) (s : VSrc) (t : VSrc) (pred : Fin 8) (f : FpFmt) : Statement (Instr.vfCeq d s t pred f) :=
  ofXR rfl rfl (by decide) (by have := d.isLt; omega) (encVSrc_lt s) (encVSrc_lt t) (by have := pred.isLt; omega) (by have := encFp_lt f; omega) (by decide) fun _ h _ => by
    unfold decodeX; rw [h.op]; show decodeVf _ = _; unfold decodeVf xMin; rw [h.mn]
    exact decVfP_of h
theorem vfClt (d : Fin 8) (s : VSrc) (t : VSrc) (pred : Fin 8) (f : FpFmt) : Statement (Instr.vfClt d s t pred f) :=
  ofXR rfl rfl (by decide) (by have := d.isLt; omega) (encVSrc_lt s) (encVSrc_lt t) (by have := pred.isLt; omega) (by have := encFp_lt f; omega) (by decide) fun _ h _ => by
    unfold decodeX; rw [h.op]; show decodeVf _ = _; unfold decodeVf xMin; rw [h.mn]
    exact decVfP_of h
theorem vfCle (d : Fin 8) (s : VSrc) (t : VSrc) (pred : Fin 8) (f : FpFmt) : Statement (Instr.vfCle d s t pred f) :=
  ofXR rfl rfl (by decide) (by have := d.isLt; omega) (encVSrc_lt s) (encVSrc_lt t) (by have := pred.isLt; omega) (by have := encFp_lt f; omega) (by decide) fun _ h _ => by
    unfold decodeX; rw [h.op]; show decodeVf _ = _; unfold decodeVf xMin; rw [h.mn]
    exact decVfP_of h
theorem vfDot (d : Fin 8) (s : VSrc) (t : VSrc) (pred : Fin 8) (f : FpFmt) : Statement (Instr.vfDot d s t pred f) :=
  ofXR rfl rfl (by decide) (by have := d.isLt; omega) (encVSrc_lt s) (encVSrc_lt t) (by have := pred.isLt; omega) (by have := encFp_lt f; omega) (by decide) fun _ h _ => by
    unfold decodeX; rw [h.op]; show decodeVf _ = _; unfold decodeVf xMin; rw [h.mn]
    exact decVfF_of h
theorem vfRsum (d : VDst) (s : VSrc) (pred : Fin 8) (f : FpFmt) : Statement (Instr.vfRsum d s pred f) :=
  ofXR rfl rfl (by decide) (encVDst_lt d) (encVSrc_lt s) (by decide) (by have := pred.isLt; omega) (by have := encFp_lt f; omega) (by decide) fun _ h _ => by
    unfold decodeX; rw [h.op]; show decodeVf _ = _; unfold decodeVf xMin; rw [h.mn]
    exact decVf2_of h
theorem vfRmin (d : VDst) (s : VSrc) (pred : Fin 8) (f : FpFmt) : Statement (Instr.vfRmin d s pred f) :=
  ofXR rfl rfl (by decide) (encVDst_lt d) (encVSrc_lt s) (by decide) (by have := pred.isLt; omega) (by have := encFp_lt f; omega) (by decide) fun _ h _ => by
    unfold decodeX; rw [h.op]; show decodeVf _ = _; unfold decodeVf xMin; rw [h.mn]
    exact decVf2_of h
theorem vfRmax (d : VDst) (s : VSrc) (pred : Fin 8) (f : FpFmt) : Statement (Instr.vfRmax d s pred f) :=
  ofXR rfl rfl (by decide) (encVDst_lt d) (encVSrc_lt s) (by decide) (by have := pred.isLt; omega) (by have := encFp_lt f; omega) (by decide) fun _ h _ => by
    unfold decodeX; rw [h.op]; show decodeVf _ = _; unfold decodeVf xMin; rw [h.mn]
    exact decVf2_of h
theorem vfRcpe (d : VDst) (s : VSrc) (pred : Fin 8) (f : FpFmt) : Statement (Instr.vfRcpe d s pred f) :=
  ofXR rfl rfl (by decide) (encVDst_lt d) (encVSrc_lt s) (by decide) (by have := pred.isLt; omega) (by have := encFp_lt f; omega) (by decide) fun _ h _ => by
    unfold decodeX; rw [h.op]; show decodeVf _ = _; unfold decodeVf xMin; rw [h.mn]
    exact decVf2_of h
theorem vxMov (d : VDst) (s : VSrc) (pred : Fin 8) (w : LaneW) : Statement (Instr.vxMov d s pred w) :=
  ofXR rfl rfl (by decide) (encVDst_lt d) (encVSrc_lt s) (by decide) (by have := pred.isLt; omega) (by have := encLane_lt w; omega) (by decide) fun _ h _ => by
    unfold decodeX; rw [h.op]; show decodeVx _ = _; unfold decodeVx xMin; rw [h.mn]
    exact decVa2_of h
theorem vxBcast (d : VDst) (s : ESrc) (pred : Fin 8) (w : LaneW) : Statement (Instr.vxBcast d s pred w) :=
  ofXR rfl rfl (by decide) (encVDst_lt d) (encESrc_lt s) (by decide) (by have := pred.isLt; omega) (by have := encLane_lt w; omega) (by decide) fun _ h _ => by
    unfold decodeX; rw [h.op]; show decodeVx _ = _; unfold decodeVx xMin; rw [h.mn]
    exact decVxE_of h
theorem vxPerm (d : VDst) (s : VSrc) (t : VSrc) (pred : Fin 8) (w : LaneW) : Statement (Instr.vxPerm d s t pred w) :=
  ofXR rfl rfl (by decide) (encVDst_lt d) (encVSrc_lt s) (encVSrc_lt t) (by have := pred.isLt; omega) (by have := encLane_lt w; omega) (by decide) fun _ h _ => by
    unfold decodeX; rw [h.op]; show decodeVx _ = _; unfold decodeVx xMin; rw [h.mn]
    exact decVa_of h
theorem vxRot (d : VDst) (s : VSrc) (t : ESrc) (pred : Fin 8) (w : LaneW) : Statement (Instr.vxRot d s t pred w) :=
  ofXR rfl rfl (by decide) (encVDst_lt d) (encVSrc_lt s) (encESrc_lt t) (by have := pred.isLt; omega) (by have := encLane_lt w; omega) (by decide) fun _ h _ => by
    unfold decodeX; rw [h.op]; show decodeVx _ = _; unfold decodeVx xMin; rw [h.mn]
    exact decRot_of h
theorem vxZip (d : VDst) (s : VSrc) (t : VSrc) (pred : Fin 8) (w : LaneW) : Statement (Instr.vxZip d s t pred w) :=
  ofXR rfl rfl (by decide) (encVDst_lt d) (encVSrc_lt s) (encVSrc_lt t) (by have := pred.isLt; omega) (by have := encLane_lt w; omega) (by decide) fun _ h _ => by
    unfold decodeX; rw [h.op]; show decodeVx _ = _; unfold decodeVx xMin; rw [h.mn]
    exact decVa_of h
theorem vxUnzip (d : VDst) (s : VSrc) (t : VSrc) (pred : Fin 8) (w : LaneW) : Statement (Instr.vxUnzip d s t pred w) :=
  ofXR rfl rfl (by decide) (encVDst_lt d) (encVSrc_lt s) (encVSrc_lt t) (by have := pred.isLt; omega) (by have := encLane_lt w; omega) (by decide) fun _ h _ => by
    unfold decodeX; rw [h.op]; show decodeVx _ = _; unfold decodeVx xMin; rw [h.mn]
    exact decVa_of h
theorem vxExt (d : EDst) (s : VSrc) (t : ESrc) (w : LaneW) : Statement (Instr.vxExt d s t w) :=
  ofXR rfl rfl (by decide) (encEDst_lt d) (encVSrc_lt s) (encESrc_lt t) (by decide) (by have := encLane_lt w; omega) (by decide) fun _ h _ => by
    unfold decodeX; rw [h.op]; show decodeVx _ = _; unfold decodeVx xMin; rw [h.mn]
    exact decExt_of h
theorem vxIns (d : Fin 8) (s : ESrc) (t : ESrc) (w : LaneW) : Statement (Instr.vxIns d s t w) :=
  ofXR rfl rfl (by decide) (by have := d.isLt; omega) (encESrc_lt s) (encESrc_lt t) (by decide) (by have := encLane_lt w; omega) (by decide) fun _ h _ => by
    unfold decodeX; rw [h.op]; show decodeVx _ = _; unfold decodeVx xMin; rw [h.mn]
    exact decIns_of h
theorem vxAmax (d : VDst) (s : VSrc) (pred : Fin 8) : Statement (Instr.vxAmax d s pred) :=
  ofXR rfl rfl (by decide) (encVDst_lt d) (encVSrc_lt s) (by decide) (by have := pred.isLt; omega) (by decide) (by decide) fun _ h _ => by
    unfold decodeX; rw [h.op]; show decodeVx _ = _; unfold decodeVx xMin; rw [h.mn]
    exact decVxAmax_of h
theorem vxScale (d : VDst) (s : VSrc) : Statement (Instr.vxScale d s) :=
  ofXR rfl rfl (by decide) (encVDst_lt d) (encVSrc_lt s) (by decide) (by decide) (by decide) (by decide) fun _ h _ => by
    unfold decodeX; rw [h.op]; show decodeVx _ = _; unfold decodeVx xMin; rw [h.mn]
    exact decScale_of h
theorem vxBarq (d : Fin 8) (s : VSrc) : Statement (Instr.vxBarq d s) :=
  ofXR rfl rfl (by decide) (by have := d.isLt; omega) (encVSrc_lt s) (by decide) (by decide) (by decide) (by decide) fun _ h _ => by
    unfold decodeX; rw [h.op]; show decodeVx _ = _; unfold decodeVx xMin; rw [h.mn]
    exact decBarq_of h
theorem vxIdx (d : VDst) (s : ESrc) (pred : Fin 8) (w : LaneW) : Statement (Instr.vxIdx d s pred w) :=
  ofXR rfl rfl (by decide) (encVDst_lt d) (encESrc_lt s) (by decide) (by have := pred.isLt; omega) (by have := encLane_lt w; omega) (by decide) fun _ h _ => by
    unfold decodeX; rw [h.op]; show decodeVx _ = _; unfold decodeVx xMin; rw [h.mn]
    exact decVxE_of h
theorem fmtSetX (fd : BitVec 4) (fa : BitVec 4) (fb : BitVec 4) (scl : BitVec 2) : Statement (Instr.fmtSetX fd fa fb scl) :=
  ofXR rfl rfl (by decide) (by have := fd.isLt; omega) (by have := fa.isLt; omega) (by have := fb.isLt; omega) (by decide) (by have := scl.isLt; omega) (by decide) fun _ h _ => by
    unfold decodeX; rw [h.op]; show decodeFmtXw _ = _; unfold decodeFmtXw xMin; rw [h.mn]
    exact decFmtX_of h
theorem amoAddw (d : ADst) (s : ASrc) (t : ASrc) (ord : Ord) (sc : Scope) : Statement (Instr.amoAddw d s t ord sc) :=
  ofCR rfl rfl (by decide) (encADst_lt d) (encASrc_lt s) (encASrc_lt t) (by have := encOrd_lt ord; have := encScope_lt sc; omega) (by decide) fun _ h _ => by
    unfold decodeCMajor; rw [h.op]; show decodeAmo4 _ = _; unfold decodeAmo4 cMin; rw [h.mn]
    exact decAmo_of h
theorem amoAndw (d : ADst) (s : ASrc) (t : ASrc) (ord : Ord) (sc : Scope) : Statement (Instr.amoAndw d s t ord sc) :=
  ofCR rfl rfl (by decide) (encADst_lt d) (encASrc_lt s) (encASrc_lt t) (by have := encOrd_lt ord; have := encScope_lt sc; omega) (by decide) fun _ h _ => by
    unfold decodeCMajor; rw [h.op]; show decodeAmo4 _ = _; unfold decodeAmo4 cMin; rw [h.mn]
    exact decAmo_of h
theorem amoOrw (d : ADst) (s : ASrc) (t : ASrc) (ord : Ord) (sc : Scope) : Statement (Instr.amoOrw d s t ord sc) :=
  ofCR rfl rfl (by decide) (encADst_lt d) (encASrc_lt s) (encASrc_lt t) (by have := encOrd_lt ord; have := encScope_lt sc; omega) (by decide) fun _ h _ => by
    unfold decodeCMajor; rw [h.op]; show decodeAmo4 _ = _; unfold decodeAmo4 cMin; rw [h.mn]
    exact decAmo_of h
theorem amoXorw (d : ADst) (s : ASrc) (t : ASrc) (ord : Ord) (sc : Scope) : Statement (Instr.amoXorw d s t ord sc) :=
  ofCR rfl rfl (by decide) (encADst_lt d) (encASrc_lt s) (encASrc_lt t) (by have := encOrd_lt ord; have := encScope_lt sc; omega) (by decide) fun _ h _ => by
    unfold decodeCMajor; rw [h.op]; show decodeAmo4 _ = _; unfold decodeAmo4 cMin; rw [h.mn]
    exact decAmo_of h
theorem amoMaxw (d : ADst) (s : ASrc) (t : ASrc) (ord : Ord) (sc : Scope) : Statement (Instr.amoMaxw d s t ord sc) :=
  ofCR rfl rfl (by decide) (encADst_lt d) (encASrc_lt s) (encASrc_lt t) (by have := encOrd_lt ord; have := encScope_lt sc; omega) (by decide) fun _ h _ => by
    unfold decodeCMajor; rw [h.op]; show decodeAmo4 _ = _; unfold decodeAmo4 cMin; rw [h.mn]
    exact decAmo_of h
theorem amoMinw (d : ADst) (s : ASrc) (t : ASrc) (ord : Ord) (sc : Scope) : Statement (Instr.amoMinw d s t ord sc) :=
  ofCR rfl rfl (by decide) (encADst_lt d) (encASrc_lt s) (encASrc_lt t) (by have := encOrd_lt ord; have := encScope_lt sc; omega) (by decide) fun _ h _ => by
    unfold decodeCMajor; rw [h.op]; show decodeAmo4 _ = _; unfold decodeAmo4 cMin; rw [h.mn]
    exact decAmo_of h
theorem amoMaxuw (d : ADst) (s : ASrc) (t : ASrc) (ord : Ord) (sc : Scope) : Statement (Instr.amoMaxuw d s t ord sc) :=
  ofCR rfl rfl (by decide) (encADst_lt d) (encASrc_lt s) (encASrc_lt t) (by have := encOrd_lt ord; have := encScope_lt sc; omega) (by decide) fun _ h _ => by
    unfold decodeCMajor; rw [h.op]; show decodeAmo4 _ = _; unfold decodeAmo4 cMin; rw [h.mn]
    exact decAmo_of h
theorem amoMinuw (d : ADst) (s : ASrc) (t : ASrc) (ord : Ord) (sc : Scope) : Statement (Instr.amoMinuw d s t ord sc) :=
  ofCR rfl rfl (by decide) (encADst_lt d) (encASrc_lt s) (encASrc_lt t) (by have := encOrd_lt ord; have := encScope_lt sc; omega) (by decide) fun _ h _ => by
    unfold decodeCMajor; rw [h.op]; show decodeAmo4 _ = _; unfold decodeAmo4 cMin; rw [h.mn]
    exact decAmo_of h
theorem amoMaxrdb (d : ADst) (s : ASrc) (ord : Ord) (sc : Scope) : Statement (Instr.amoMaxrdb d s ord sc) :=
  ofCR rfl rfl (by decide) (encADst_lt d) (encASrc_lt s) (by decide) (by have := encOrd_lt ord; have := encScope_lt sc; omega) (by decide) fun _ h _ => by
    unfold decodeCMajor; rw [h.op]; show decodeAmo4 _ = _; unfold decodeAmo4 cMin; rw [h.mn]
    exact decMaxrd_of h
theorem sysResumeRedo (s : ASrc) (t : ASrc) : Statement (Instr.sysResumeRedo s t) :=
  ofCR rfl rfl (by decide) (by decide) (encASrc_lt s) (encASrc_lt t) (by decide) (by decide) fun _ h _ => by
    unfold decodeCMajor; rw [h.op]; show decodeSys _ = _; unfold decodeSys cMin; rw [h.mn]
    exact decCST_of h
theorem sysResumeDiscard (s : ASrc) (t : ASrc) : Statement (Instr.sysResumeDiscard s t) :=
  ofCR rfl rfl (by decide) (by decide) (encASrc_lt s) (encASrc_lt t) (by decide) (by decide) fun _ h _ => by
    unfold decodeCMajor; rw [h.op]; show decodeSys _ = _; unfold decodeSys cMin; rw [h.mn]
    exact decCST_of h
theorem sysResumeComplete (s : ASrc) (t : ASrc) : Statement (Instr.sysResumeComplete s t) :=
  ofCR rfl rfl (by decide) (by decide) (encASrc_lt s) (encASrc_lt t) (by decide) (by decide) fun _ h _ => by
    unfold decodeCMajor; rw [h.op]; show decodeSys _ = _; unfold decodeSys cMin; rw [h.mn]
    exact decCST_of h
theorem ctlNopc : Statement Instr.ctlNopc :=
  ofCR rfl rfl (by decide) (by decide) (by decide) (by decide) (by decide) (by decide) fun _ h _ => by
    unfold decodeCMajor; rw [h.op]; show decodeCtl _ = _; unfold decodeCtl cMin; rw [h.mn]
    exact decC0_of h
theorem ctlDone : Statement Instr.ctlDone :=
  ofCR rfl rfl (by decide) (by decide) (by decide) (by decide) (by decide) (by decide) fun _ h _ => by
    unfold decodeCMajor; rw [h.op]; show decodeCtl _ = _; unfold decodeCtl cMin; rw [h.mn]
    exact decC0_of h
theorem ctlRet : Statement Instr.ctlRet :=
  ofCR rfl rfl (by decide) (by decide) (by decide) (by decide) (by decide) (by decide) fun _ h _ => by
    unfold decodeCMajor; rw [h.op]; show decodeCtl _ = _; unfold decodeCtl cMin; rw [h.mn]
    exact decC0_of h
theorem ctlRealign : Statement Instr.ctlRealign :=
  ofCR rfl rfl (by decide) (by decide) (by decide) (by decide) (by decide) (by decide) fun _ h _ => by
    unfold decodeCMajor; rw [h.op]; show decodeCtl _ = _; unfold decodeCtl cMin; rw [h.mn]
    exact decC0_of h
theorem msgPlyend : Statement Instr.msgPlyend :=
  ofCR rfl rfl (by decide) (by decide) (by decide) (by decide) (by decide) (by decide) fun _ h _ => by
    unfold decodeCMajor; rw [h.op]; show decodeMsg _ = _; unfold decodeMsg cMin; rw [h.mn]
    exact decC0_of h
theorem sysFpt : Statement Instr.sysFpt :=
  ofCR rfl rfl (by decide) (by decide) (by decide) (by decide) (by decide) (by decide) fun _ h _ => by
    unfold decodeCMajor; rw [h.op]; show decodeSys _ = _; unfold decodeSys cMin; rw [h.mn]
    exact decC0_of h
theorem nopX : Statement Instr.nopX :=
  ofXR rfl rfl (by decide) (by decide) (by decide) (by decide) (by decide) (by decide) (by decide) fun _ h _ => by
    unfold decodeX; rw [h.op]; show decodeNop _ = _; unfold decodeNop xMin; rw [h.mn]
    exact decNopX_of h
theorem lateFaultDelivery (hart : Nat) (slot : Nat) : Statement (Instr.lateFaultDelivery hart slot) := ofNone rfl rfl
theorem codeEndFallthrough (hart : Nat) (slot : Nat) : Statement (Instr.codeEndFallthrough hart slot) := ofNone rfl rfl
theorem sideBlockRelease (hart : Nat) (slot : Nat) (side : Side) : Statement (Instr.sideBlockRelease hart slot side) := ofNone rfl rfl
theorem slotRelease (hart : Nat) (slot : Nat) : Statement (Instr.slotRelease hart slot) := ofNone rfl rfl
theorem fenceComplete (hart : Nat) (slot : Nat) : Statement (Instr.fenceComplete hart slot) := ofNone rfl rfl
theorem ctlWaitWake (hart : Nat) (slot : Nat) : Statement (Instr.ctlWaitWake hart slot) := ofNone rfl rfl
theorem realignRelease (hart : Nat) (slot : Nat) : Statement (Instr.realignRelease hart slot) := ofNone rfl rfl
theorem realignTimeout (hart : Nat) (slot : Nat) : Statement (Instr.realignTimeout hart slot) := ofNone rfl rfl
theorem sysChainCommit (hart : Nat) (slot : Nat) : Statement (Instr.sysChainCommit hart slot) := ofNone rfl rfl
theorem budgetTick (hart : Nat) (slot : Nat) : Statement (Instr.budgetTick hart slot) := ofNone rfl rfl
theorem budgetExhausted (hart : Nat) (slot : Nat) : Statement (Instr.budgetExhausted hart slot) := ofNone rfl rfl
theorem hangDetected (plat : Nat) : Statement (Instr.hangDetected plat) := ofNone rfl rfl
theorem activeMessageArrival (k : Nat) : Statement (Instr.activeMessageArrival k) := ofNone rfl rfl
theorem dataMessageArrival (k : Nat) : Statement (Instr.dataMessageArrival k) := ofNone rfl rfl
theorem replyMessageArrival (k : Nat) : Statement (Instr.replyMessageArrival k) := ofNone rfl rfl
theorem nackMessageArrival (k : Nat) : Statement (Instr.nackMessageArrival k) := ofNone rfl rfl
theorem messageResend (k : Nat) : Statement (Instr.messageResend k) := ofNone rfl rfl
theorem ownershipRetryTimeout (k : Nat) : Statement (Instr.ownershipRetryTimeout k) := ofNone rfl rfl
theorem meshLoadArrival (k : Nat) : Statement (Instr.meshLoadArrival k) := ofNone rfl rfl
theorem meshStoreArrival (k : Nat) : Statement (Instr.meshStoreArrival k) := ofNone rfl rfl
theorem amoArrival (k : Nat) : Statement (Instr.amoArrival k) := ofNone rfl rfl
theorem coalesceFlushTimer (hart : Nat) (line : Nat) : Statement (Instr.coalesceFlushTimer hart line) := ofNone rfl rfl
theorem futureReadArrival (k : Nat) : Statement (Instr.futureReadArrival k) := ofNone rfl rfl
theorem futureWriteArrival (k : Nat) : Statement (Instr.futureWriteArrival k) := ofNone rfl rfl
theorem futureClearArrival (k : Nat) : Statement (Instr.futureClearArrival k) := ofNone rfl rfl
theorem orcDeclArrival (k : Nat) : Statement (Instr.orcDeclArrival k) := ofNone rfl rfl
theorem orcAppendArrival (k : Nat) : Statement (Instr.orcAppendArrival k) := ofNone rfl rfl
theorem orcTentativeLoadArrival (k : Nat) : Statement (Instr.orcTentativeLoadArrival k) := ofNone rfl rfl
theorem orcSettledLoadArrival (k : Nat) : Statement (Instr.orcSettledLoadArrival k) := ofNone rfl rfl
theorem orcRetryBudgetExhausted (k : Nat) : Statement (Instr.orcRetryBudgetExhausted k) := ofNone rfl rfl
theorem sequenceWatermarkAdvance (unit : Nat) : Statement (Instr.sequenceWatermarkAdvance unit) := ofNone rfl rfl
theorem plyBarrierComplete (plat : Nat) : Statement (Instr.plyBarrierComplete plat) := ofNone rfl rfl
theorem kickRegisterStore (k : Nat) : Statement (Instr.kickRegisterStore k) := ofNone rfl rfl
theorem engineJobAccept (cluster : Nat) (eng : Engine) : Statement (Instr.engineJobAccept cluster eng) := ofNone rfl rfl
theorem remoteCommandArrival (k : Nat) : Statement (Instr.remoteCommandArrival k) := ofNone rfl rfl
theorem mxeStepJob (cluster : Nat) : Statement (Instr.mxeStepJob cluster) := ofNone rfl rfl
theorem carryStallResume (cluster : Nat) : Statement (Instr.carryStallResume cluster) := ofNone rfl rfl
theorem mxeDrainJob (cluster : Nat) : Statement (Instr.mxeDrainJob cluster) := ofNone rfl rfl
theorem mxeReclaimJob (cluster : Nat) : Statement (Instr.mxeReclaimJob cluster) := ofNone rfl rfl
theorem engineCompletionReport (cluster : Nat) (eng : Engine) (k : Nat) : Statement (Instr.engineCompletionReport cluster eng k) := ofNone rfl rfl
theorem cpeCopyJob (cluster : Nat) (q : Fin 4) : Statement (Instr.cpeCopyJob cluster q) := ofNone rfl rfl
theorem cpeReduceJob (cluster : Nat) (q : Fin 4) : Statement (Instr.cpeReduceJob cluster q) := ofNone rfl rfl
theorem cpeFillJob (cluster : Nat) (q : Fin 4) : Statement (Instr.cpeFillJob cluster q) := ofNone rfl rfl
theorem cpeBarrierJob (cluster : Nat) (q : Fin 4) : Statement (Instr.cpeBarrierJob cluster q) := ofNone rfl rfl
theorem sequencedReduceArrival (k : Nat) : Statement (Instr.sequencedReduceArrival k) := ofNone rfl rfl
theorem storerWriteAck (k : Nat) : Statement (Instr.storerWriteAck k) := ofNone rfl rfl
theorem uqwiNotify (q : Nat) (wi : BitVec 32) : Statement (Instr.uqwiNotify q wi) := ofNone rfl rfl
theorem packetNop (q : Nat) : Statement (Instr.packetNop q) := ofNone rfl rfl
theorem packetLaunch (q : Nat) : Statement (Instr.packetLaunch q) := ofNone rfl rfl
theorem packetCounterWait (q : Nat) : Statement (Instr.packetCounterWait q) := ofNone rfl rfl
theorem counterWaitRelease (q : Nat) : Statement (Instr.counterWaitRelease q) := ofNone rfl rfl
theorem packetCancel (q : Nat) : Statement (Instr.packetCancel q) := ofNone rfl rfl
theorem placement (w : Nat) (plat : Nat) : Statement (Instr.placement w plat) := ofNone rfl rfl
theorem extentLoading (plat : Nat) : Statement (Instr.extentLoading plat) := ofNone rfl rfl
theorem launchComplete (plat : Nat) : Statement (Instr.launchComplete plat) := ofNone rfl rfl
theorem platZeroingComplete (plat : Nat) : Statement (Instr.platZeroingComplete plat) := ofNone rfl rfl
theorem preemptionRequest (plat : Nat) : Statement (Instr.preemptionRequest plat) := ofNone rfl rfl
theorem preemptionSpill (plat : Nat) : Statement (Instr.preemptionSpill plat) := ofNone rfl rfl
theorem residueRestore (plat : Nat) : Statement (Instr.residueRestore plat) := ofNone rfl rfl
theorem uncorrectableErrorConsumed (place : ErrPlace) : Statement (Instr.uncorrectableErrorConsumed place) := ofNone rfl rfl
theorem correctableError (place : ErrPlace) : Statement (Instr.correctableError place) := ofNone rfl rfl
theorem fenceSelftestComplete (plat : Nat) (pass : Bool) : Statement (Instr.fenceSelftestComplete plat pass) := ofNone rfl rfl
theorem pageRetirement (page : Nat) (spare : Nat) : Statement (Instr.pageRetirement page spare) := ofNone rfl rfl
theorem extentZeroingRequest (base : Nat) (len : Nat) : Statement (Instr.extentZeroingRequest base len) := ofNone rfl rfl
theorem agreementPoint (hart : Nat) : Statement (Instr.agreementPoint hart) := ofNone rfl rfl
theorem pairSelftestComplete (hart : Nat) (leaderOk : Bool) (followerOk : Bool) : Statement (Instr.pairSelftestComplete hart leaderOk followerOk) := ofNone rfl rfl
theorem digestCompare (plat : Nat) (stepNo : BitVec 32) (digest : BitVec 256) (third : Option (BitVec 256)) : Statement (Instr.digestCompare plat stepNo digest third) := ofNone rfl rfl
theorem linkFlitArrival (port : Nat) (flit : List (BitVec 64)) : Statement (Instr.linkFlitArrival port flit) := ofNone rfl rfl
theorem exchangeTick (port : Nat) : Statement (Instr.exchangeTick port) := ofNone rfl rfl
theorem linkDown (port : Nat) : Statement (Instr.linkDown port) := ofNone rfl rfl
theorem collectiveTimeout (k : Nat) : Statement (Instr.collectiveTimeout k) := ofNone rfl rfl
theorem alignmentRestore (port : Nat) : Statement (Instr.alignmentRestore port) := ofNone rfl rfl
theorem regimeChange (plat : Nat) : Statement (Instr.regimeChange plat) := ofNone rfl rfl
theorem setModuleDrain : Statement Instr.setModuleDrain := ofNone rfl rfl
theorem clearModuleDrain : Statement Instr.clearModuleDrain := ofNone rfl rfl
theorem setPlatDrain : Statement Instr.setPlatDrain := ofNone rfl rfl
theorem clearPlatDrain : Statement Instr.clearPlatDrain := ofNone rfl rfl
theorem publishSnapshotNow : Statement Instr.publishSnapshotNow := ofNone rfl rfl
theorem registerGrant : Statement Instr.registerGrant := ofNone rfl rfl
theorem configureUserQueue : Statement Instr.configureUserQueue := ofNone rfl rfl
theorem raiseMinimumSerial : Statement Instr.raiseMinimumSerial := ofNone rfl rfl
theorem invalidSurveyCommand : Statement Instr.invalidSurveyCommand := ofNone rfl rfl
theorem hostRegisterWrite (off : Nat) (val : BitVec 64) : Statement (Instr.hostRegisterWrite off val) := ofNone rfl rfl
theorem gazetteerPublish : Statement Instr.gazetteerPublish := ofNone rfl rfl
theorem platDefine (plat : Nat) (x4 : Nat) (y2 : Nat) (w : Nat) (h : Nat) (rbudget : Nat) : Statement (Instr.platDefine plat x4 y2 w h rbudget) := ofNone rfl rfl
theorem clusterRetire (cluster : Nat) : Statement (Instr.clusterRetire cluster) := ofNone rfl rfl
theorem grade4Entry (code : BitVec 16) : Statement (Instr.grade4Entry code) := ofNone rfl rfl
theorem moduleBoot : Statement Instr.moduleBoot := ofNone rfl rfl
theorem cancelledLaunchEnd (plat : Nat) : Statement (Instr.cancelledLaunchEnd plat) := ofNone rfl rfl
theorem fullSelftestComplete (plat : Nat) (pass : Bool) : Statement (Instr.fullSelftestComplete plat pass) := ofNone rfl rfl
theorem extentLoadDataReturn (k : Nat) : Statement (Instr.extentLoadDataReturn k) := ofNone rfl rfl
theorem sendAcceptance (k : Nat) : Statement (Instr.sendAcceptance k) := ofNone rfl rfl

end Sys2Proof.Laws.Encoding
end

