-- ==== Sys2Proof/Tests/Slice0.lean ====
section
/-! SUPPORT. Tests: ill-formed terms that the checks refuse, words written out from spec/12 to spec/18, small steps with
results worked by hand from the rules, and for every statement a state and operands that meet its hypotheses. -/

namespace Sys2Proof.Tests

open Sys2Proof Sys2Proof.Machine

set_option Elab.async false

/-! ## Small states -/

/-- A plat of one cluster; slot 0 of core 0 runs at bundle 0 of its launch. -/
def demo : State := placeBundle State.reset 0 .aSide
/-- The same, the A-side having retired bundle 0. -/
def demoX : State := placeBundle State.reset 0 .eSide
/-- Slot 0 of core 0 changed. -/
def slot (f : Slot → Slot) (s : State) : State := putSlot s 0 0 (f (slotOf s 0 0))
/-- A core changed. -/
def hart (h : Nat) (f : Hart → Hart) (s : State) : State := putHart s h (f (hartOf s h))
/-- A core's context of launch 0 changed. -/
def ctx (h : Nat) (f : Ctx → Ctx) (s : State) : State := putCtx s h (f (ctxOf s h 0))
/-- Launch 0 changed. -/
def launch (f : Launch → Launch) (s : State) : State :=
  match launchOf s 0 with
  | some l => putLaunch s 0 (f l)
  | none => s
/-- Register a<n> of the slot. -/
def setA (n : Fin 16) (w : Word) : State → State := slot fun σ => { σ with a := σ.a.set n w }
/-- Register e<n> of the slot. -/
def setE (n : Fin 16) (w : Word) : State → State := slot fun σ => { σ with e := σ.e.set n w }
/-- Register v<n> of the slot. -/
def setV (n : Fin 8) (w : Vec) : State → State := slot fun σ => { σ with v := σ.v.set n w }
/-- Register p<n> of the slot. -/
def setP (n : Fin 8) (w : Word) : State → State := slot fun σ => { σ with p := σ.p.set n w }
/-- In the trap handler, or not. -/
def trapped (b : Bool) : State → State := slot fun σ => { σ with inTrap := b }
/-- The next state of an instruction. -/
def after (i : Instr) (s : State) : Option State :=
  match exec i s with
  | .next t => some t
  | _ => none
/-- A part of the next state. -/
def seen {α : Type} (i : Instr) (s : State) (f : State → α) : Option α := (after i s).map f
/-- Register a<n> after an instruction. -/
def aAfter (i : Instr) (s : State) (n : Fin 16) : Option Word := seen i s fun t => (slotOf t 0 0).a[n]
/-- Register e<n> after an instruction. -/
def eAfter (i : Instr) (s : State) (n : Fin 16) : Option Word := seen i s fun t => (slotOf t 0 0).e[n]
/-- Register v<n> after an instruction. -/
def vAfter (i : Instr) (s : State) (n : Fin 8) : Option Vec := seen i s fun t => (slotOf t 0 0).v[n]
/-- The trap's code and DETAIL after an instruction. -/
def cause (i : Instr) (s : State) : Option (BitVec 16 × BitVec 12) :=
  seen i s fun t => ((slotOf t 0 0).tcause.extractLsb' 16 16, (slotOf t 0 0).tcause.extractLsb' 0 12)
/-- What a computation of a word gives. -/
def got {α : Type} (r : Except Stop (α × State)) : Option α := r.toOption.map (·.1)
/-- Does it give something? -/
def runs {α : Type} (r : Except Stop (α × State)) : Bool := r.toOption.isSome
/-- The state it ends in, the given one where it stops. -/
def rest {α : Type} (r : Except Stop (α × State)) (s : State) : State := (r.toOption.map (·.2)).getD s

/-! ## Ill-formed terms (R221) -/

theorem ill_aluMkm : WellFormed (.aluMkm (.a 0) (.a 1) (.a 2) 3) = false ∧ WellFormed (.aluMkm (.a 0) (.a 1) (.a 2) 5) = true := by
  decide
theorem ill_aluMkx : WellFormed (.aluMkx (.a 0) (.a 1) (.a 2) 6) = false ∧ WellFormed (.aluMkx (.a 0) (.a 1) (.a 2) 4) = true := by
  decide
theorem ill_aluMks : WellFormed (.aluMks (.a 0) (.a 1) (.a 2) 5) = false ∧ WellFormed (.aluMks (.a 0) (.a 1) (.a 2) 7) = true := by
  decide
theorem ill_memLd : WellFormed (.memLd (.a 0) (.a 1) .b64 .plain .core 0) = false ∧
    WellFormed (.memLd (.a 0) (.a 1) .b8 .rel .core 0) = false ∧ WellFormed (.memLd (.sm 0) (.a 1) .b4 .plain .core 0) = false ∧
    WellFormed (.memLd (.lq 0) (.a 1) .b64 .acq .core 0) = true := by decide
theorem ill_memLdu : WellFormed (.memLdu (.a 0) (.a 1) .b64 .plain .core 0) = false ∧
    WellFormed (.memLdu .z (.a 1) .b64 .rel .core 0) = false ∧ WellFormed (.memLdu .z (.a 1) .b64 .plain .core 0) = true := by decide
theorem ill_memSt : WellFormed (.memSt (.a 0) (.a 1) .b64 .plain .core 0) = false ∧
    WellFormed (.memSt (.a 0) (.a 1) .b8 .acq .core 0) = false ∧ WellFormed (.memSt (.sq 1) (.a 1) .b64 .rel .core 0) = true := by decide
theorem ill_mxq : WellFormed (.mxqStep (.a 0) 13 .z 0) = false ∧ WellFormed (.mxqSteps (.a 0) 13 .z 0) = false ∧
    WellFormed (.mxqDrain (.a 0) 16 .z 0) = false ∧ WellFormed (.mxqRcmd 10 .z) = false ∧
    WellFormed (.mxqStep (.a 0) 12 .z 0) = true := by decide
theorem ill_cpq : WellFormed (.cpqCopy (.a 0) 14 0) = false ∧ WellFormed (.cpqAddf (.a 0) 14 0) = false ∧
    WellFormed (.cpqAddb (.a 0) 14 0) = false ∧ WellFormed (.cpqAddi (.a 0) 14 0) = false ∧ WellFormed (.cpqFill (.a 0) 14 0) = false ∧
    WellFormed (.cpqRcmd 10 .z) = false ∧ WellFormed (.cpqCopy (.a 0) 13 0) = true := by decide

/-! ## Words written out from their encodings (R205 to R216, R218, R344) -/

theorem word_ctl : decodeC 0b0_000000_00000_00000_00000_00000_00001 = .ok (.ctlDone) := by decide +kernel
theorem word_ctl_call : decodeC 0b0_000010_00000_000_00000000000010100 = .ok (.ctlCall 20) := by decide +kernel
theorem word_br : decodeC 0b0_000001_00010_010_11111111111111101 = .ok (.brNz (.a 2) (-3)) := by decide +kernel
theorem word_alu : decodeC 0b0_000100_00011_00001_00010_00000_00000 = .ok (.aluAdd (.a 3) (.a 1) (.a 2)) := by decide +kernel
theorem word_alui : decodeC 0b0_001111_10111_10110_111111111111111 = .ok (.aluiSlti (.sm 0) .cq (-1)) := by decide +kernel
theorem word_alui_shift : decodeC 0b0_001110_00010_00011_000000000111111 = .ok (.aluiSrai (.a 2) (.a 3) 63) := by decide +kernel
theorem word_mem : decodeC 0b0_010000_10000_00001_100_00_000_0000010 = .ok (.memLd (.lq 0) (.a 1) .b64 .plain .core 2) := by decide +kernel
theorem word_mem_st : decodeC 0b0_010010_10100_01111_100_10_010_1111111 = .ok (.memSt (.sq 0) (.a 15) .b64 .rel .plat (-1)) := by decide +kernel
theorem word_amo : decodeC 0b0_010100_11111_00110_00111_10010_00000 = .ok (.amoAdd .z (.a 6) (.a 7) .rel .plat) := by decide +kernel
theorem word_amo_narrow : decodeC 0b0_010101_01001_01000_00000_11100_01011 = .ok (.amoMaxrdb (.a 9) (.a 8) .sc .system) := by decide +kernel
theorem word_orc : decodeC 0b0_010110_00000_00101_00000_00110_00000 = .ok (.orcDecl (.a 5) .fma) := by decide +kernel
theorem word_orc_ldt : decodeC 0b0_010110_00011_00101_10011_00000_00010 = .ok (.orcLdt (.a 3) (.a 5) (.lq 3)) := by decide +kernel
theorem word_fut : decodeC 0b0_010111_01100_00101_00110_00000_00001 = .ok (.futRdc 12 (.a 5) (.a 6)) := by decide +kernel
theorem word_msg : decodeC 0b0_011000_01000_00101_00110_01000_00000 = .ok (.msgSend 8 (.a 5) (.a 6) 1) := by decide +kernel
theorem word_fence : decodeC 0b0_011001_00000_00000_00000_00011_00000 = .ok (.fenceAll .module) := by decide +kernel
theorem word_mxq : decodeC 0b0_011010_00100_01000_01001_00101_00010 = .ok (.mxqDrain (.a 4) 8 (.a 9) 5) := by decide +kernel
theorem word_cpq : decodeC 0b0_011011_00100_01000_00000_00011_00011 = .ok (.cpqAddi (.a 4) 8 3) := by decide +kernel
theorem word_sys : decodeC 0b0_011100_00000_00001_00010_00000_00010 = .ok (.sysLaunch (.a 1) (.a 2)) := by decide +kernel
theorem word_sys_rdsr : decodeC 0b0_011101_01111_00000_000000001000010 = .ok (.sysRdsr (.a 15) 0x042) := by decide +kernel
theorem word_sys_wrsr : decodeC 0b0_011110_00000_00011_000000000010000 = .ok (.sysWrsr (.a 3) 0x010) := by decide +kernel
theorem word_fmt : decodeC 0b0_100000_00110_01011_00011_00011_00000 = .ok (.fmtSetA 6 11 3 3) := by decide +kernel
theorem word_li : decodeC 0b11111111111111111111111111111110_1_110000_00101_00000_00000_00000_00000 = .ok (.liSx (.a 5) 0xfffffffe) := by decide +kernel
theorem word_jmpl : decodeC 0b10000000000000000000000000000001_1_110001_00000_00111_00000_00000_00001 = .ok (.jmplCall (.a 7) 0x80000001) := by decide +kernel
theorem word_sendl : decodeC 0b00010010001101000101011001111000_1_110010_00100_00111_00000_00000_00001 = .ok (.sendlData 4 (.a 7) 0x12345678) := by decide +kernel
theorem word_x_nop : decodeX 0b000000_00000_00000_00000_000_00_000000 = .ok (.nopX) := by decide +kernel
theorem word_ia : decodeX 0b000001_10110_00001_00010_000_00_010111 = .ok (.iaSlt .cq (.e 1) (.e 2)) := by decide +kernel
theorem word_ia_sel : decodeX 0b000001_10101_10000_11111_111_00_010110 = .ok (.iaSel (.sq 1) (.lq 0) .z 7) := by decide +kernel
theorem word_iai : decodeX 0b001111_01001_00000_1000000000000000 = .ok (.iaiLui (.e 9) 0x8000) := by decide +kernel
theorem word_fa : decodeX 0b000010_00011_00001_00010_000_11_000100 = .ok (.faFms 3 (.e 1) (.e 2) .e8m10) := by decide +kernel
theorem word_cvt : decodeX 0b000011_00010_00001_00000_000_00_000000 = .ok (.cvtEncS (.e 2) (.e 1)) := by decide +kernel
theorem word_cvt_v : decodeX 0b000011_00111_10011_00000_000_01_000001 = .ok (.cvtDecV (.v 7) (.lq 3)) := by decide +kernel
theorem word_pr : decodeX 0b000100_00111_00110_00101_000_00_000011 = .ok (.prAndn 7 6 5) := by decide +kernel
theorem word_va : decodeX 0b000101_00001_00010_00011_100_10_010001 = .ok (.vaMaxu (.v 1) (.v 2) (.v 3) 4 .w32) := by decide +kernel
theorem word_vf : decodeX 0b000110_00001_10000_00010_000_00_000000 = .ok (.vfAdd (.v 1) (.lq 0) (.v 2) 0 .fp32) := by decide +kernel
theorem word_vx : decodeX 0b000111_01100_00011_00100_000_11_000110 = .ok (.vxExt (.e 12) (.v 3) (.e 4) .w64) := by decide +kernel
theorem word_fmt_x : decodeX 0b010000_00110_01011_00000_000_00_000000 = .ok (.fmtSetX 6 11 0 0) := by decide +kernel
theorem word_mkx : decodeC 0b0_000100_00000_10100_11111_00101_11000 = .ok (.aluMkx (.a 0) (.sq 0) .z 5) := by decide +kernel

/-- The examples of R221. -/
theorem word_refused : decodeC 0x08308820 = .error (.reserved 0x405) ∧ decodeC 0x0830881a = .error (.illegal 2) ∧
    decodeC 0x0830883a = .error (.illegal 2) ∧ decodeC 0x88308800 = .error (.illegal 7) := by decide +kernel
/-- A reserved shape (R221): D, S and T in order, then the shape. -/
theorem word_shape : decodeX 0b000011_00000_00000_10100_000_10_000111 = .error (.illegal 5) ∧
    decodeX 0b000011_01001_00000_01111_000_10_000110 = .error (.reserved 0x406) ∧
    decodeX 0b000011_10000_00000_00000_000_11_000000 = .error (.illegal 3) := by decide +kernel
/-- The bundle examples of R217: the two words of a bundle. -/
theorem word_bundle : decodeC 0x183010002100c002 = .ok (.memLd (.lq 0) (.a 1) .b64 .plain .core 2) ∧
    decodeX 0x18301000 = .ok (.vfAdd (.v 1) (.lq 0) (.v 2) 0 .fp32) ∧
    decodeC 0xfffffffee0500000 = .ok (.liSx (.a 5) 0xfffffffe) := by decide +kernel
/-- A word of no row: OP 0x03, a block base that is no register, a load with ORD release. -/
theorem word_of_no_row : decodeC 0x06000000 = .error (.illegal 1) ∧ decodeC 0x340d7c00 = .error (.illegal 6) ∧
    decodeC 0x20108800 = .error (.illegal 6) := by decide +kernel

/-! ## A-side integers, pointers and transfers -/

/-- a1 = -7, a2 = 2. -/
def nums : State := setA 1 0xfffffffffffffff9 (setA 2 2 demo)

/-- R236 worked by hand for -7 and 2. -/
theorem test_alu_logic :
    [aAfter (.aluAdd (.a 3) (.a 1) (.a 2)) nums 3, aAfter (.aluSub (.a 3) (.a 1) (.a 2)) nums 3,
     aAfter (.aluAnd (.a 3) (.a 1) (.a 2)) nums 3, aAfter (.aluOr (.a 3) (.a 1) (.a 2)) nums 3,
     aAfter (.aluXor (.a 3) (.a 1) (.a 2)) nums 3, aAfter (.aluSll (.a 3) (.a 1) (.a 2)) nums 3,
     aAfter (.aluSrl (.a 3) (.a 1) (.a 2)) nums 3, aAfter (.aluSra (.a 3) (.a 1) (.a 2)) nums 3] =
    [some 0xfffffffffffffffb, some 0xfffffffffffffff7, some 0, some 0xfffffffffffffffb, some 0xfffffffffffffffb,
     some 0xffffffffffffffe4, some 0x3ffffffffffffffe, some 0xfffffffffffffffe] := by decide +kernel
/-- R236 worked by hand for -7 and 2. -/
theorem test_alu_order :
    [aAfter (.aluSlt (.a 3) (.a 1) (.a 2)) nums 3, aAfter (.aluSltu (.a 3) (.a 1) (.a 2)) nums 3,
     aAfter (.aluSeq (.a 3) (.a 1) (.a 2)) nums 3, aAfter (.aluSne (.a 3) (.a 1) (.a 2)) nums 3,
     aAfter (.aluMin (.a 3) (.a 1) (.a 2)) nums 3, aAfter (.aluMax (.a 3) (.a 1) (.a 2)) nums 3,
     aAfter (.aluMinu (.a 3) (.a 1) (.a 2)) nums 3, aAfter (.aluMaxu (.a 3) (.a 1) (.a 2)) nums 3] =
    [some 1, some 0, some 0, some 1, some 0xfffffffffffffff9, some 2, some 2, some 0xfffffffffffffff9] := by decide +kernel
/-- R236 and R237 worked by hand for -7 and 2. -/
theorem test_alu_mul_div :
    [aAfter (.aluMul (.a 3) (.a 1) (.a 2)) nums 3, aAfter (.aluMulh (.a 3) (.a 1) (.a 2)) nums 3,
     aAfter (.aluMulhu (.a 3) (.a 1) (.a 2)) nums 3, aAfter (.aluDiv (.a 3) (.a 1) (.a 2)) nums 3,
     aAfter (.aluDivu (.a 3) (.a 1) (.a 2)) nums 3, aAfter (.aluRem (.a 3) (.a 1) (.a 2)) nums 3,
     aAfter (.aluRemu (.a 3) (.a 1) (.a 2)) nums 3, aAfter (.aluDiv (.a 1) (.a 1) .z) nums 1, aAfter (.aluRem (.a 3) (.a 1) .z) nums 3] =
    [some 0xfffffffffffffff2, some 0xffffffffffffffff, some 1, some 0xfffffffffffffffd, some 0x7ffffffffffffffc,
     some 0xffffffffffffffff, some 1, some 0xffffffffffffffff, some 0xfffffffffffffff9] := by decide +kernel
/-- R239 and R230 worked by hand. -/
theorem test_alui_li :
    [aAfter (.aluiAddi (.a 3) (.a 2) 0x7fff) nums 3, aAfter (.aluiAndi (.a 3) (.a 1) 0x7fff) nums 3,
     aAfter (.aluiOri (.a 3) (.a 2) 0x7ff0) nums 3, aAfter (.aluiXori (.a 3) (.a 1) 0x7fff) nums 3,
     aAfter (.aluiSlli (.a 3) (.a 2) 62) nums 3, aAfter (.aluiSrli (.a 3) (.a 1) 60) nums 3,
     aAfter (.aluiSrai (.a 3) (.a 1) 1) nums 3, aAfter (.aluiSlti (.a 3) (.a 1) 0x7fff) nums 3,
     aAfter (.liSx (.a 3) 0x80000000) nums 3, aAfter (.liZx (.a 3) 0x80000000) nums 3, aAfter (.liHi (.a 3) (.a 1) 1) nums 3] =
    [some 1, some 0x7ff9, some 0x7ff2, some 0xffffffffffff8006, some 0x8000000000000000, some 15, some 0xfffffffffffffffc,
     some 1, some 0xffffffff80000000, some 0x80000000, some 0x1fffffff9] := by decide +kernel

/-- An instruction whose word runs on the state, its operands readable and its destination free. -/
def runsOn (x y : ASrc) (d : ADst) (s : State) : Bool :=
  match readA x s with
  | .ok (_, s1) =>
    match readA y s1 with
    | .ok (w, s2) => runs (writeA d w s2)
    | .error _ => false
  | .error _ => false

theorem witness_AluWritesItsFunction :
    AReady nums ∧ runsOn (.a 1) (.a 2) (.a 3) nums = true ∧ runsOn .z (.a 2) (.lq 0) nums = true ∧
    runsOn (.a 1) .z .z nums = true := by
  unfold AReady; decide +kernel

theorem witness_DivisionNeverFaults :
    AReady nums ∧ got (readA (.a 1) nums) = some 0xfffffffffffffff9 ∧ got (readA (.a 2) nums) = some 2 ∧
    got (readA .z nums) = some 0 ∧
    got (readA (.a 4) (setA 4 0x8000000000000000 (setA 5 0xffffffffffffffff demo))) = some 0x8000000000000000 ∧
    got (readA (.a 5) (setA 4 0x8000000000000000 (setA 5 0xffffffffffffffff demo))) = some 0xffffffffffffffff := by
  unfold AReady; decide +kernel

/-- R238 at its limits, worked by hand. -/
theorem test_compose :
    let s := setA 1 0xfffff (setA 2 0x3ffff (setA 3 63 (setA 4 0xffffffffffff (setA 5 0x7fffffffff (setA 6 4095 demo)))))
    [aAfter (.aluMkm (.a 9) (.a 1) (.a 2) 1) s 9, aAfter (.aluMkm (.a 9) (.a 1) (.a 2) 5) s 9,
     aAfter (.aluMkx (.a 9) (.a 3) (.a 4) 4) s 9, aAfter (.aluMkx (.a 9) (.a 3) (.a 5) 5) s 9,
     aAfter (.aluMks (.a 9) .z (.a 6) 6) s 9, aAfter (.aluMks (.a 9) (.a 1) .z 7) s 9] =
    [some 0x1fffff000003ffff, some 0x5fffff000003ffff, some 0x4fc0ffffffffffff, some 0x5fc000ffffffffff,
     some 0x6000000000000fff, some 0x7fffff0000000000] := by decide +kernel

theorem witness_ImmediatesAndComposedPointers :
    AReady demo ∧ runsOn (.a 1) (.a 2) (.a 3) nums = true ∧
    (let s := setA 1 0x100000 (setA 2 0x40000 (setA 3 0xfffff demo))
     AReady s ∧ got (readA (.a 1) s) = some 0x100000 ∧ got (readA (.a 2) s) = some 0x40000 ∧ got (readA (.a 3) s) = some 0xfffff ∧
     cause (.aluMkm (.a 9) (.a 1) (.a 2) 1) s = some (0x6005, 0x0a0) ∧ cause (.aluMkm (.a 9) (.a 3) (.a 2) 2) s = some (0x6005, 0x0a1) ∧
     cause (.aluMkx (.a 9) (.a 1) (.a 2) 5) s = some (0x6005, 0x0a0) ∧ cause (.aluMks (.a 9) (.a 1) .z 6) s = some (0x6005, 0x0a0) ∧
     cause (.aluMks (.a 9) (.a 3) (.a 2) 7) s = some (0x6005, 0x0a1)) := by
  unfold AReady; decide +kernel

/-- The slot's handler with a window of 64 bytes. -/
def windowed (s : State) : State := launch (fun l => { l with handlers := [(0, { plainHandler 0 with stklen := 64 }), (63, plainHandler 1)] }) s
/-- Eight return addresses held. -/
def deep : State → State := slot fun σ => { σ with rs := [8, 7, 6, 5, 4, 3, 2, 1] }
/-- A branch queue with n entries. -/
def targets (n : Nat) : State → State := slot fun σ => { σ with bq := List.replicate n 0 }

/-- R226 to R229: the bundle a transfer goes to. -/
theorem test_transfers :
    (let at' (i : Instr) (s : State) := seen i s fun t => ((slotOf t 0 0).pc, (slotOf t 0 0).bq.length, (slotOf t 0 0).rs)
     [at' (.brLz (.a 1) 20) nums, at' (.brGez (.a 1) 20) nums, at' (.brAl 8191) nums, at' (.ctlJr (.a 2)) nums,
      at' (.jmplGo (.a 2) 5) nums, at' (.ctlLoop 2 7) nums, at' (.ctlCall 9) nums, at' (.ctlCallr (.a 2)) nums] =
     [some (20, 1, []), some (1, 0, []), some (8191, 1, []), some (2, 1, []), some (7, 1, []), some (7, 1, []),
      some (9, 1, [1]), some (2, 1, [1])]) ∧
    cause (.brAl 8192) demo = some (0x6004, 2) ∧ cause (.brAl (-1)) demo = some (0x6004, 2) := by decide +kernel

theorem witness_ControlTransfers :
    (AReady nums ∧ AReady (targets 63 nums) ∧ (curSlot (targets 63 nums)).bq.length < 64 ∧ AReady (targets 64 nums) ∧
     64 ≤ (curSlot (targets 64 nums)).bq.length ∧ (curSlot nums).pc = 0 ∧ codeLen nums (curLaunch nums) = 8192 ∧
     got (readA (.a 1) nums) = some 0xfffffffffffffff9 ∧ got (readA (.a 2) nums) = some 2 ∧ got (readA .z nums) = some 0 ∧
     (curSlot nums).pendingOn (.a 2) = none ∧ (curSlot (setA 2 1 nums)).pendingOn (.a 2) = none ∧ AReady (setA 2 1 nums)) ∧
    (runs (pushReturn 1 nums) = true ∧ (curSlot nums).rs.length < 8 ∧
     (let s := deep nums
      AReady s ∧ 8 ≤ (curSlot s).rs.length ∧ (curWindow s).2 < (curSlot s).swp.toNat + 8) ∧
     (let s := deep (windowed nums)
      AReady s ∧ 8 ≤ (curSlot s).rs.length ∧ runs (pushReturn 1 s) = true ∧ (curSlot s).paired = false ∧
      runs (popReturn s) = true) ∧
     (curSlot nums).rs = [] ∧ (curSlot nums).swp.toNat ≤ (curWindow nums).1) := by
  unfold AReady; decide +kernel

/-- The return stack empty, with bundle 9 in the stack window below swp. -/
def spilled : State :=
  slot (fun σ => { σ with swp := 8 }) (ctx 0 (fun c => { c with scratch := Memory.writeN c.scratch 0 8 9 }) (windowed demo))
theorem witness_ControlTransfers_refill :
    AReady spilled ∧ (curSlot spilled).rs = [] ∧ (curSlot spilled).swp.toNat - 8 = 0 ∧ (curWindow spilled).1 < (curSlot spilled).swp.toNat ∧
    runs (inOrder { kinds := [.ld], scope := .core, sc := false, loc := ⟨0, 0, 8⟩, space2 := false } spilled) = true ∧
    (hartOf spilled 0).commit = [] ∧
    seen .ctlRet spilled (fun t => ((slotOf t 0 0).pc, (slotOf t 0 0).swp)) = some (9, 0) := by
  unfold AReady; decide +kernel

/-- R225: the oldest return address goes to the stack window, at swp, which rises by 8. -/
theorem test_stack_window :
    seen (.ctlCall 4) (deep (windowed nums)) (fun t => ((slotOf t 0 0).swp, Memory.readN (ctxOf t 0 0).scratch 0 8, (slotOf t 0 0).rs)) =
      some (8, 1, [1, 8, 7, 6, 5, 4, 3, 2]) := by decide +kernel

/-! ## Operands, traps, prefixes and status registers -/

/-- sm0 with COUNT 2, element size code 3, stride 8, at the given address. -/
def stream (addr : Nat) (s : State) : State :=
  slot (fun σ => { σ with sm := σ.sm.set 0 (BitVec.ofNat 64 (2 * 2 ^ 48 + 3 * 2 ^ 46 + 8 * 2 ^ 18 + addr)) }) s
/-- sq0 and cq with an entry each. -/
def queued : State → State := slot fun σ => { σ with sq := σ.sq.set 0 [⟨0xff80, 8⟩], cq := [5] }
/-- A pending load of a4, numbered 5. -/
def pendingA4 : SbEntry := { SbEntry.plain 5 2 0 with dst := some (.a 4), destCode := 4 }
/-- A held pop of lq0 with destination d, numbered 6. -/
def heldPop (d : HeldDst) : SbEntry :=
  { SbEntry.plain 6 1 0 with held := some { queue := 0, entry := ⟨7, 3⟩, delivered := 0, armed := false, dest := d } }
/-- In the trap handler with one scoreboard entry, that tsb0 shows; a1 = ACT 1, ENT 0 and a2 = ACT 0. -/
def inHandler (e : SbEntry) (s : State) : State :=
  setA 1 1 (slot (fun σ => { σ with inTrap := true, sb := [e], tsb := σ.tsb.set 0 (sbWord e), tsbIds := [e.id], eDone := true }) s)

theorem witness_OperandsOfAClass :
    ((curSlot demo).pendingOn (.a 1) = none ∧ (curSlot (slot (fun σ => { σ with sb := [pendingA4] }) demo)).pendingOn (.a 4) = some 2 ∧
     (curSlot (queued demo)).sq[(0 : Fin 2)] ≠ [] ∧ (curSlot demo).sq[(0 : Fin 2)] = [] ∧ (curSlot (queued demo)).cq ≠ [] ∧
     (curSlot demo).cq = []) ∧
    (0 ∉ (curSlot demo).smBusy ∧ (curSlot demo).pendingOn (.sm 0) = none ∧ ((curSlot demo).sm[(0 : Fin 4)]).extractLsb' 48 16 = 0 ∧
     got (readA (.sm 0) (stream 196600 demo)) = some 0 ∧ ownBytes 0 = 196608 ∧
     (let r := (curSlot (stream 196604 demo)).sm[(0 : Fin 4)]; r.extractLsb' 48 16 ≠ 0 ∧ (r.extractLsb' 0 18).toNat % 8 ≠ 0) ∧
     (let r := (curSlot (stream 196608 demo)).sm[(0 : Fin 4)]
      r.extractLsb' 48 16 ≠ 0 ∧ (r.extractLsb' 0 18).toNat % 8 = 0 ∧ 196608 < (r.extractLsb' 0 18).toNat + 8) ∧
     runs (inOrder { kinds := [.ld], scope := .core, sc := false, loc := ⟨0, 196600, 8⟩, space2 := false } (stream 196600 demo)) = true ∧
     (hartOf demo 0).commit = []) ∧
    (runs (writeA (.lq 0) 5 demo) = true ∧
     16 ≤ (curSlot (slot (fun σ => { σ with lq := σ.lq.set 0 (List.replicate 16 (.reserved 1)) }) demo)).lq[(0 : Fin 4)].length ∧
     runs (writeA (.sm 0) 5 demo) = true ∧ 0 ∈ (curSlot (slot (fun σ => { σ with smBusy := [0] }) demo)).smBusy) := by
  decide +kernel

/-- R102: a popped entry of one byte, with the sign bit of its TAG; R103: a stream register advances; R4: its reserved
bits stay 0. -/
theorem test_operands :
    got (readA (.sq 0) (queued demo)) = some 0xffffffffffffff80 ∧ (⟨0xff80, 0⟩ : QEntry).scalar = 0x80 ∧
    (rest (readA (.sm 0) (stream 8 demo)) demo).cur = (0, 0, .aSide) ∧
    (curSlot (rest (readA (.sm 0) (stream 8 demo)) demo)).sm[(0 : Fin 4)] =
      BitVec.ofNat 64 (2 ^ 48 + 3 * 2 ^ 46 + 8 * 2 ^ 18 + 16) ∧
    (curSlot (rest (writeA (.sm 0) 0xffffffffffffffff demo) demo)).sm[(0 : Fin 4)] = 0xffffc00fffffffff := by decide +kernel

theorem witness_FrameOfIntegerWords :
    AReady nums ∧ runsOn (.a 1) (.a 2) (.a 3) nums = true ∧ (after (.aluAdd (.a 3) (.a 1) (.a 2)) nums).isSome = true ∧
    (after (.aluMkm (.a 3) .z (.a 2) 1) nums).isSome = true ∧ (after (.aluiAddi (.a 3) (.a 1) 4) nums).isSome = true ∧
    (after (.aluRem (.a 3) (.a 1) (.a 2)) nums).isSome = true ∧ runs (writeA (.a 3) 0xffffffff80000000 nums) = true ∧
    (after (.liSx (.a 3) 0x80000000) nums).isSome = true := by
  unfold AReady; decide +kernel

/-- Without a trap handler. -/
def bare (s : State) : State := launch (fun l => { l with handlers := [(0, plainHandler 0)] }) s

theorem witness_FaultWithoutHandlerKillsThePlat :
    (launchOf demo (slotOf demo 0 0).ctx).isSome = true ∧ (slotOf (trapped true demo) 0 0).inTrap = true ∧
    (launchOf (trapped true demo) 0).isSome = true ∧ (slotOf (bare demo) 0 0).inTrap = false ∧
    (launchOf (bare demo) 0).isSome = true ∧ handlerOf (bare demo) 0 0 63 = none := by decide +kernel

/-- R29: the plat of a capsule without a trap handler dies by a reserved encoding. -/
theorem test_kill :
    seen (.sysRdsr (.a 0) 0x7ff) (bare demo) (fun t => (launchOf t 0, (platOf t 0).state, t.faultLog.map fun r => (r.code, r.detail))) =
      some (none, .zeroing, [(0x6001, 0x7ff)]) := by decide +kernel

/-- R187: of two faults of one cycle the lower code is logged first, and a fault of a later cycle after both. -/
theorem test_log_order :
    let s := logFault (logFault State.reset 0x6008 1 0 0 0 0) 0x6002 2 0 0 0 0
    s.faultLog.map (·.code) = [0x6008, 0x6002] ∧
    (logFault { s with cycle := 1 } 0x6001 3 0 0 0 0).faultLog.map (·.code) = [0x6001, 0x6008, 0x6002] := by decide +kernel

theorem witness_TrapEntryAndItsUndoing :
    (slotOf demo 0 0).inTrap = false ∧ (handlerOf demo 0 0 63).isSome = true ∧ (slotOf demo 0 0).pc < 2 ^ 13 ∧
    ((slotOf demo 0 0).aPP = true → (slotOf demo 0 0).aPrefix ≠ none) ∧ ((slotOf demo 0 0).ePP = true → (slotOf demo 0 0).ePrefix ≠ none) ∧
    (slotOf (slot (fun σ => { σ with aPrefix := some 0x40000000 }) demo) 0 0).aPrefix = some 0x40000000 := by decide +kernel

/-- A trap handler whose E-side has retired its words. -/
def ended : State := slot (fun σ => { σ with eDone := true }) (trapped true demo)
theorem witness_ResumeFromTraps :
    AReady (setA 1 0 demo) ∧ (curSlot demo).inTrap = false ∧ AReady (setA 1 4 (trapped true demo)) ∧
    got (readA (.a 1) (setA 1 4 (trapped true demo))) = some 4 ∧ (4 : Word).extractLsb' 2 2 ≠ 0 ∧ AReady (trapped true demo) ∧
    got (readA .z (trapped true demo)) = some 0 ∧ (curSlot (trapped true demo)).eDone = false ∧ AReady ended ∧
    (curSlot ended).path = [] ∧ (curSlot ended).eDone = true ∧ (∀ k : Fin 16, (curSlot ended).tsb[k].getLsbD 63 = false) ∧
    (curSlot ended).tpc.toNat < codeLen ended (curLaunch ended) ∧ (curSlot ended).bq.length < 64 ∧
    AReady (targets 64 ended) ∧ 64 ≤ (curSlot (targets 64 ended)).bq.length := by
  unfold AReady; decide +kernel
/-- The entries that a resume settles. -/
theorem witness_ResumeFromTraps_entries :
    (∀ e ∈ [pendingA4, heldPop (.e 3), heldPop (.v 3)], (curSlot (inHandler e demo)).inTrap = true ∧
      AReady (inHandler e demo) ∧ got (readA (.a 1) (inHandler e demo)) = some 1 ∧
      (curSlot (inHandler e demo)).tsb[(0 : Fin 16)].getLsbD 63 = true ∧
      (curSlot (inHandler e demo)).tsb[(1 : Fin 16)].getLsbD 63 = false ∧
      got (readA (.a 2) (setA 2 0x11 (inHandler e demo))) = some 0x11 ∧ (curSlot (inHandler e demo)).tsbIds[0]? = some e.id ∧
      (curSlot (inHandler e demo)).sb.find? (fun x => x.id == e.id) = some e) := by
  unfold AReady; decide +kernel

/-- Actions 1 to 3: each settles the entry, with room for a value that goes to a queue; and the entry itself. -/
theorem witness_ResumeFromTraps_settles :
    (∀ e ∈ [pendingA4, heldPop (.sq 0), heldPop .cq], e.held.map (·.dest) ∈ [none, some (.sq 0), some .cq] ∧
      (curSlot (inHandler e demo)).sq[(0 : Fin 2)].length < 16 ∧ (curSlot (inHandler e demo)).cq.length < 8 ∧
      (∀ i ∈ [Instr.sysResumeRedo (.a 1) (.a 2), .sysResumeDiscard (.a 1) (.a 2), .sysResumeComplete (.a 1) (.a 2)],
        seen i (inHandler e demo) (fun t => ((slotOf t 0 0).tsb[(0 : Fin 16)], (slotOf t 0 0).inTrap)) = some (0, true))) ∧
    (heldPop (.e 3)).kind = 1 ∧ (heldPop (.e 3)).num = none ∧ (heldPop (.e 3)).held.isSome = true ∧ pendingA4.held = none ∧
    pendingA4.kind = 2 ∧ pendingA4.dst = some (.a 4) ∧ pendingA4.refused = false := by decide +kernel

/-- R308: complete writes T to the destination of the entry; discard leaves it. -/
theorem test_resume :
    (let s := setA 7 99 (inHandler pendingA4 demo)
     [aAfter (.sysResumeComplete (.a 1) (.a 7)) s 4, aAfter (.sysResumeDiscard (.a 1) (.a 7)) s 4] = [some 99, some 0] ∧
     seen (.sysResumeDiscard (.a 1) .z) s (fun t => (slotOf t 0 0).sb) = some []) ∧
    eAfter (.sysResumeComplete (.a 1) (.a 7)) (setA 7 99 (inHandler (heldPop (.e 3)) demo)) 3 = some 99 ∧
    cause (.sysResumeReturn .z .z) demo = some (0x6011, 0x050) := by decide +kernel

/-- A trap taken and left. -/
theorem test_trap_and_return :
    let t := after (.brAl (-1)) (slot (fun σ => { σ with rs := [3] }) demo)
    (t.map fun t => ((slotOf t 0 0).inTrap, (slotOf t 0 0).pc, (slotOf t 0 0).rs, (slotOf t 0 0).tpc)) = some (true, 1, [], 0) ∧
    (t.bind fun t => seen (.sysResumeReturn .z .z) (slot (fun σ => { σ with eDone := true }) t)
      fun u => ((slotOf u 0 0).inTrap, (slotOf u 0 0).pc, (slotOf u 0 0).rs)) = some (false, 0, [3]) := by decide +kernel

/-- An A-side prefix pending. -/
def preA (w : BitVec 32) : State → State := slot fun σ => { σ with aPrefix := some w }

/-- An E-side prefix pending. -/
def prefixE (w : BitVec 32) : State → State := slot fun σ => { σ with ePrefix := some w }

theorem witness_PrefixesGovernOneWord_sides :
    (AReady (putCur (preA 0x40000000 demo) { curSlot (preA 0x40000000 demo) with aPrefix := none }) ∧
     (curSlot (preA 0x40000000 demo)).aPrefix = some 0x40000000 ∧ isFmtA 0x40000000 = true ∧ (curSlot (preA 0x40000000 demo)).inTrap = false ∧
     (encodeC .ctlDone).isSome = true ∧ (encodeC (.fmtSetA 0 0 0 0)).isSome = true ∧ (encodeC (.mxqDrain (.a 3) 8 .z 0)).isSome = true) ∧
    (EReady (putCur (prefixE 5 demoX) { curSlot (prefixE 5 demoX) with ePrefix := none }) ∧ (curSlot (prefixE 5 demoX)).ePrefix = some 5 ∧
     isFmtE 5 = false ∧ isFmtE 0x40000000 = true ∧ (curSlot (prefixE 0x40000000 demoX)).ePrefix = some 0x40000000 ∧
     EReady (putCur (prefixE 0x40000000 demoX) { curSlot (prefixE 0x40000000 demoX) with ePrefix := none })) ∧
    ((encodeX (.iaAdd (.e 1) (.e 2) (.e 3))).isSome = true ∧ (encodeX (.fmtSetX 0 0 0 0)).isSome = true ∧
     (encodeX (.cvtDecS (.e 1) (.e 2))).isSome = true ∧ curHart demo < Config.nHarts) := by
  unfold AReady EReady; decide +kernel
/-- R219: a governable word takes its prefix with it. -/
theorem test_prefix_spent :
    seen (.mxqDrain (.a 3) 8 .z 0) (preA 0x40000000 demo) (fun t => ((slotOf t 0 0).inTrap, (slotOf t 0 0).pc, (slotOf t 0 0).aPrefix)) =
      some (false, 1, none) ∧
    seen (.cvtDecS (.e 1) (.e 2)) (prefixE 0x40000000 demoX) (fun t => ((slotOf t 0 0).path.length, (slotOf t 0 0).ePrefix)) = some (0, none) := by
  decide +kernel

theorem witness_PrefixesGovernOneWord :
    AReady demo ∧ EReady demoX ∧ (curSlot (preA 5 demo)).aPrefix = some 5 ∧ isFmtA 5 = false ∧
    AReady (putCur (preA 5 demo) { curSlot (preA 5 demo) with aPrefix := none }) := by
  unfold AReady EReady; decide +kernel

/-- R220: what a prefix raises on the word after it. -/
theorem test_prefix :
    (let s := preA 0x40000000 demo
     [cause .ctlNopc s, cause (.fmtSetA 0 0 0 0) s, cause (.mxqStep .z 0 .z 0) (preA 5 demo)] =
       [some (0x6003, 1), some (0x6003, 2), some (0x6003, 4)]) ∧
    (let s := prefixE 0x40000000 demoX
     [cause (.iaAdd (.e 1) (.e 2) (.e 3)) s, cause (.fmtSetX 0 0 0 0) s, cause (.cvtDecS (.e 1) (.e 2)) (prefixE 5 demoX)] =
       [some (0x6003, 1), some (0x6003, 2), some (0x6003, 4)]) ∧
    seen (.fmtSetA 6 11 0 0) demo (fun t => (slotOf t 0 0).aPrefix) = some (some 0x40658000) := by decide +kernel

theorem witness_StatusRegisters :
    AReady demo ∧ regKnown 0x003 = false ∧ regKnown 0x080 = true ∧ regHeld 0 0x080 = false ∧
    (∀ n ∈ [0x000, 0x001, 0x002, 0x010, 0x011, 0x012, 0x020, 0x02f, 0x040, 0x042, 0x044], regKnown n = true ∧ regHeld 0 n = true) ∧
    (curSlot demo).path = [] ∧ (curSlot demoX).path ≠ [] ∧ AReady demoX ∧ AReady (trapped true demo) ∧
    (curSlot (trapped true demo)).inTrap = true ∧ (curSlot demo).inTrap = false ∧ isCompute (curHart demo) = true ∧
    runsOn (.a 1) .z (.a 1) demo = true := by
  unfold AReady; decide +kernel

/-- R23 and R32: ast of a started activation holds its BUDLEFT; coreid of core 0 is 0. -/
theorem test_rdsr :
    [aAfter (.sysRdsr (.a 3) 0x000) demo 3, aAfter (.sysRdsr (.a 3) 0x040) (setA 3 1 demo) 3] = [some 1, some 0] ∧
    seen (.sysWrsr (.a 1) 0x001) (setA 1 0xffffffffffffffff demo) (fun t => ((slotOf t 0 0).rm, (slotOf t 0 0).flags, (slotOf t 0 0).sat)) =
      some (3, 31, true) ∧ cause (.sysWrsr .z 0x010) demo = some (0x6002, 0x010) := by decide +kernel

/-! ## Activations and waits -/

/-- The A-side waits in the word w. -/
def waits (w : Wait) : State → State := slot fun σ => { σ with aWait := some w }
/-- Both sides stand at the same bundle. -/
def level : State → State := slot fun σ => { σ with eDone := true }

theorem witness_DoneNeedsEmptyQueues :
    AReady demo ∧ (curSlot demo).inTrap = false ∧ (curSlot demo).eDone = false ∧ AReady (level demo) ∧ (curSlot (level demo)).path = [] ∧
    (curSlot (level demo)).eDone = true ∧ (curSlot (level demo)).ePrefix = none ∧ (curSlot (level demo)).sb = [] ∧
    (curSlot (level demo)).paired = false ∧ (∀ k : Fin 4, (curSlot (level demo)).lq[k] = []) ∧
    (∀ q : Fin 2, (curSlot (level demo)).sq[q] = []) ∧ (curSlot (level demo)).cq = [] ∧
    AReady (level (queued demo)) ∧ (curSlot (level (queued demo))).cq ≠ [] ∧ (curSlot (level (queued demo))).inTrap = false := by
  unfold AReady; decide +kernel
theorem witness_DoneNeedsEmptyQueues_waits :
    (let s := slot (fun σ => { σ with ePrefix := some 0 }) (level demo)
     AReady s ∧ (curSlot s).path = [] ∧ (curSlot s).eDone = true ∧ (curSlot s).ePrefix ≠ none) ∧
    (let s := slot (fun σ => { σ with sb := [SbEntry.plain 5 6 0] }) (level demo)
     AReady s ∧ (curSlot s).path = [] ∧ (curSlot s).ePrefix = none ∧ (curSlot s).sb ≠ []) ∧
    (let s := hart 0 (fun H => { H with sinceAgree := 1 }) (slot (fun σ => { σ with paired := true }) (level demo))
     AReady s ∧ (curSlot s).path = [] ∧ (curSlot s).sb = [] ∧ (curSlot s).paired = true ∧ (hartOf s (curHart s)).sinceAgree ≠ 0) := by
  unfold AReady; decide +kernel

/-- R105: the slot is released, or the word faults. -/
theorem test_done :
    seen .ctlDone (level demo) (fun t => (slotOf t 0 0).running) = some false ∧
    cause .ctlDone (level (queued demo)) = some (0x6011, 1) := by decide +kernel

/-- An ACT message for handler 0 with one payload word. -/
def act0 : RingEntry := { header := 0x1000000000000, payload := [77], state := .ready, released := true, age := 0, pos := 0 }

theorem witness_ActivationsStartAndEnd :
    (launchOf demo 0).isSome = true ∧ ((launchOf demo 0).bind fun l => l.handler (act0.header.extractLsb' 58 6).toNat).isSome = true ∧
    (∀ c ∈ (hartOf demo 0).ctxs, c.ring = []) ∧
    (let s := putCluster demo 0 { Cluster.reset with accs := Cluster.reset.accs.set 0 { Acc.reset with state := 1, oact := 1 } }
     isCompute 0 = true ∧ (SMap.find (clusterOfCore 0) s.clusters).isSome = true ∧ (∀ c ∈ (hartOf s 0).ctxs, c.ring = []) ∧
     (clusterOf (releaseSlot s 0 0) 0).accs[(0 : Fin 8)].state = 3) ∧
    AReady (trapped true demo) ∧ (curSlot (trapped true demo)).inTrap = true ∧ (curSlot (trapped true demo)).sb = [] ∧
    (let s := slot (fun σ => { σ with sb := [SbEntry.plain 5 6 0] }) (trapped true demo)
     AReady s ∧ ∃ e ∈ (curSlot s).sb, e.kind = 6 ∧ e.refused = false) ∧
    (let s := slot (fun σ => { σ with sb := [{ SbEntry.plain 5 6 0 with refused := true }, pendingA4] }) (trapped true demo)
     AReady s ∧ (curSlot s).inHandler = [] ∧ (curSlot s).paired = false ∧ ∀ e ∈ (curSlot s).sb, e.kind = 6 → e.refused = true) := by
  unfold AReady; decide +kernel
/-- An abandoning ctl.done waits for a late fault that has met the handler, and on a pair for the last agreement point. -/
theorem witness_ActivationsStartAndEnd_abandon :
    (let s := slot (fun σ => { σ with inHandler := [(0, none, ⟨0x6005, 0x0b3, 0⟩)] }) (trapped true demo)
     AReady s ∧ (curSlot s).inTrap = true ∧ (curSlot s).inHandler ≠ [] ∧
     seen .ctlDone s (fun t => (slotOf t 0 0).aWait) = some (some .done)) ∧
    (let s := hart 0 (fun H => { H with sinceAgree := 1 }) (slot (fun σ => { σ with paired := true, sb := [pendingA4] }) (trapped true demo))
     AReady s ∧ (curSlot s).inTrap = true ∧ (curSlot s).inHandler = [] ∧ (curSlot s).paired = true ∧ (hartOf s (curHart s)).sinceAgree ≠ 0 ∧
     (∀ e ∈ (curSlot s).sb, e.kind = 6 → e.refused = true) ∧
     seen .ctlDone s (fun t => ((slotOf t 0 0).aWait, (slotOf t 0 0).sb)) = some (some .done, [])) ∧
    (let s := slot (fun σ => { σ with paired := true }) (trapped true demo)
     AReady s ∧ (hartOf s (curHart s)).commit = [] ∧ (hartOf s (curHart s)).sinceAgree = 0) := by
  unfold AReady; decide +kernel

/-- R24: a1 takes the first word after the header. -/
theorem test_start :
    let t := startIn demo 0 1 0 act0
    ((slotOf t 0 1).a[(0 : Fin 16)], (slotOf t 0 1).a[(1 : Fin 16)], (slotOf t 0 1).det, (slotOf t 0 1).running) =
      (0x1000000000000, 77, true, true) := by decide +kernel

theorem witness_WaitsOnWords :
    (curHart demo < Config.nCompute ∧ 3 ≤ spaceOf 0x3000000000000000 ∧
     (spaceOf 0x1000010000000000 = 1 ∧ indexOf 0x1000010000000000 ≠ curHart demo) ∧
     ((196604 : Word).toNat < 2 ^ 18 ∧ (196604 : Word).toNat % 8 ≠ 0) ∧ ((196608 : Word).toNat % 8 = 0 ∧ 196608 < (196608 : Word).toNat + 8) ∧
     ((188408 : Word).toNat % 8 = 0 ∧ (188408 : Word).toNat + 8 ≤ 196608 ∧ curTouchesRing demo 188408 8 = false)) ∧
    AReady nums ∧ got (readA (.a 2) (setA 2 188408 nums)) = some 188408 ∧ got (ownOffset 188408 8 3 nums) = some 188408 ∧
    got (ownBytesAt 188408 8 nums) = some (List.replicate 8 0) ∧ runs (freeDst (.a 3) nums) = true ∧
    runs (inOrder { kinds := [.ldA], scope := .module, sc := false, loc := ⟨0, 188408, 8⟩, space2 := false } nums) = true ∧
    guarded nums (curIssuer nums) nums.nextId ⟨0, 188408, 8⟩ = false ∧ (curSlot nums).aWait = none := by
  unfold AReady; decide +kernel
/-- A guard that core 1 has left on the word at 0: an earlier store of its slot 0 is not yet performed. -/
def guardAt0 (s : State) : State :=
  hart 1 (fun H => { H with out := [⟨5, 0, 1, [.st], .plat, false, ⟨8, 0, 8⟩, false, false⟩] })
    { s with guards := [⟨⟨1, 0, 0, 1⟩, .cluster, ⟨0, 0, 8⟩, [5], 0⟩] }
/-- The hypotheses about a word that a guard covers, and about one that waits. -/
theorem witness_WaitsOnWords_waiting :
    (let s := waits (.waitWord (.a 3) 0 0 ⟨[], [], [], []⟩) (guardAt0 demo)
     AReady s ∧ (curSlot s).aWait = some (.waitWord (.a 3) 0 0 ⟨[], [], [], []⟩) ∧ got (ownBytesAt 0 8 s) = some (List.replicate 8 0) ∧
     guarded s (curIssuer s) s.nextId ⟨curHart s, 0, 8⟩ = true) ∧
    (let s := waits (.waitWord (.a 3) 0 0 ⟨[], [], [], []⟩) nums
     AReady s ∧ (curSlot s).aWait = some (.waitWord (.a 3) 0 0 ⟨[], [], [], []⟩) ∧ got (ownBytesAt 0 8 s) = some (List.replicate 8 0) ∧
     guarded s (curIssuer s) s.nextId ⟨curHart s, 0, 8⟩ = false) := by
  unfold AReady; decide +kernel

/-- R234: the awaited word is 0: a wait for 0 waits, a wait for 2 goes on. -/
theorem test_wait :
    seen (.ctlWait (.a 3) .z .z) nums (fun t => (slotOf t 0 0).aWait) = some (some (.waitWord (.a 3) 0 0 ⟨[], [], [], []⟩)) ∧
    aAfter (.ctlWait (.a 1) .z (.a 2)) nums 1 = some 0 := by decide +kernel

theorem witness_WaitingWordsGoOn :
    (∀ w ∈ [Wait.waitWord (.a 3) 0 0 ⟨[], [], [], []⟩, .done, .chain false .z .z none, .chain true .z .z none, .fence .plat, .popCq],
      slotRuns (waits w demo) 0 0 = true ∧ curHart { waits w demo with cur := (0, 0, .aSide) } < Config.nHarts ∧
      AReady { waits w demo with cur := (0, 0, .aSide) } ∧ (slotOf (waits w demo) 0 0).late = [] ∧
      (slotOf (waits w demo) 0 0).aWait = some w) ∧
    fenceDone (waits (.fence .plat) demo) 0 0 .plat = true ∧ unblocked (slotOf (queued demo) 0 0) .popCq = true ∧
    unblocked (slotOf (queued demo) 0 0) (.popSq 0) = true := by
  unfold AReady; decide +kernel

/-- R234: the waiting word ends when its word has changed. -/
theorem test_wake :
    seen (.ctlWaitWake 0 0) (waits (.waitWord (.a 3) 0 0 ⟨[], [], [], []⟩) (ctx 0 (fun c => { c with scratch := Memory.writeN c.scratch 0 8 9 }) demo))
      (fun t => ((slotOf t 0 0).a[(3 : Fin 16)], (slotOf t 0 0).pc, (slotOf t 0 0).aWait)) = some (9, 1, none) := by decide +kernel

/-- Slot 1 of core 0 runs too. -/
def both (f : Slot → Slot) (s : State) : State := putSlot s 0 1 (f (slotOf s 0 0))

theorem witness_Realign :
    (AReady demo ∧ groupListed demo 0 0 = true ∧ AReady (both id demo) ∧ groupListed (both id demo) 0 0 = false) ∧
    (let s := waits (.realign 0) demo
     slotRuns s 0 0 = true ∧ (slotOf s 0 0).aWait = some (.realign 0) ∧ groupListed s 0 0 = true ∧ s.cycle < 0 + 4096) ∧
    (let s := { waits (.realign 0) (both id demo) with cycle := 4096 }
     slotRuns s 0 0 = true ∧ groupListed s 0 0 = false ∧ 0 + 4096 ≤ s.cycle) ∧
    (let s := { waits (.realign 0) demo with cycle := 4096 }
     slotRuns s 0 0 = true ∧ groupListed s 0 0 = true ∧ 0 + 4096 ≤ s.cycle) := by
  unfold AReady; decide +kernel

/-- R235: the last member goes on with the waiting one; a member that has waited long goes on alone. -/
theorem test_realign :
    seen .ctlRealign (both (fun σ => { σ with aWait := some (.realign 0) }) demo)
      (fun t => ((slotOf t 0 0).pc, (slotOf t 0 1).pc, (slotOf t 0 1).aWait)) = some (1, 1, none) ∧
    seen (.realignTimeout 0 0) { waits (.realign 0) (both id demo) with cycle := 4096 }
      (fun t => ((slotOf t 0 0).pc, (slotOf t 0 0).aWait)) = some (1, none) := by decide +kernel

theorem witness_LateFaultsAndBudgets :
    (let s := slot (fun σ => { σ with late := [(none, ⟨0x6006, 4, 5⟩)] }) demo
     slotRuns s 0 0 = true ∧ (slotOf s 0 0).late = [(none, ⟨0x6006, 4, 5⟩)] ∧ (slotOf s 0 0).aWait = none ∧ trapDeferred s 0 0 = false) ∧
    (let s := slot (fun σ => { σ with pc := 8192 }) demo
     slotRuns s 0 0 = true ∧ codeLen s (slotOf s 0 0).ctx ≤ (slotOf s 0 0).pc ∧ (slotOf s 0 0).path = [] ∧ trapDeferred s 0 0 = false ∧
     (slotOf s 0 0).sleeping = false ∧ (slotOf s 0 0).paired = false ∧ (slotOf s 0 0).inTrap = false ∧ (handlerOf s 0 0 63).isSome = true) ∧
    (slotRuns demo 0 0 = true ∧ (slotOf demo 0 0).late = [] ∧ (slotOf demo 0 0).pc < codeLen demo (slotOf demo 0 0).ctx ∧
     (hartOf demo 0).selftest = false ∧ (slotOf demo 0 0).budleft ≠ 0) ∧
    (let s := hart 0 (fun H => { H with selftest := true }) demo
     slotRuns s 0 0 = true ∧ (hartOf s 0).selftest = true) ∧
    (let s := slot (fun σ => { σ with budleft := 0 }) demo
     slotRuns s 0 0 = true ∧ (slotOf s 0 0).budleft = 0 ∧ (launchOf s (slotOf s 0 0).ctx).isSome = true) := by
  decide +kernel

/-- A late fault that meets a trap handler waits there until its cycle is over. -/
theorem witness_LateFaultsAndBudgets_handler :
    let s := slot (fun σ => { σ with inHandler := [(3, none, ⟨0x6005, 0x0b3, 0⟩)] }) (trapped true demo)
    Machine.runs s ⟨0, 0, 0, 1⟩ = true ∧ (slotOf s 0 0).running = true ∧ (slotOf s 0 0).inTrap = true ∧
    (slotOf s 0 0).inHandler = [(3, none, ⟨0x6005, 0x0b3, 0⟩)] ∧ (launchOf s (slotOf s 0 0).ctx).isSome = true ∧ s.cycle ≤ 3 ∧
    (launchOf (endHandlerFault 0 0 { s with cycle := 3 }) 0).isSome = true ∧
    ((launchOf (endHandlerFault 0 0 { s with cycle := 4 }) 0).isNone = true ∧
     (endHandlerFault 0 0 { s with cycle := 4 }).faultLog.map (·.code) = [0x6005, 0]) := by decide +kernel

/-- R23 and R224: a tick after 1,024 cycles and none before; the end of the code window. -/
theorem test_ticks :
    [seen (.budgetTick 0 0) { demo with cycle := 1024 } fun t => (slotOf t 0 0).budleft,
     seen (.budgetTick 0 0) { demo with cycle := 1023 } fun t => (slotOf t 0 0).budleft] = [some 0, some 1] ∧
    seen (.codeEndFallthrough 0 0) (slot (fun σ => { σ with pc := 8192 }) demo)
      (fun t => ((slotOf t 0 0).tcause, (slotOf t 0 0).tpc)) = some (0x60040001, 8191) := by decide +kernel

/-! ## Memory -/

/-- Core 1 of the plat holds the capsule too; a1 points to byte 0x400 of the own scratchpad, a2 to that of core 1, a3 to the same
uncached, a4 = 5, a5 to the register mxst, a6 to the kick register of the matrix engine. -/
def mem : State :=
  ctx 1 id (setA 1 0x400 (setA 2 0x1000010000000400 (setA 3 0x2000010000000400 (setA 4 5 (setA 5 0x6000000000000008
    (setA 6 0x6000000000000000 demo))))))
/-- Bytes of a core's scratchpad. -/
def bytes (h off n v : Nat) : State → State := ctx h fun c => { c with scratch := Memory.writeN c.scratch off n v }
/-- One extent of two pages at the start of HBM. -/
def ext : Extent :=
  { base := 0, len := 0x2000, inh := false, carry := false, spill := false, keep := false, host := false, rights := 3, owner := 0,
    from' := 0, onward := 0, raw := [] }
/-- Slot 0 of channel core 0 runs; a1 points to the start of the extent. -/
def chan : State :=
  let s := launch (fun l => { l with extents := [ext] }) demo
  let σ := { slotOf s 0 0 with a := (slotOf s 0 0).a.set 1 0x4000000000000000 }
  let H := { (hartOf s Config.nCompute).putCtx { Ctx.reset 0 with checkers := [(0, ⟨true, 3, 0⟩)] } with acts := 1 }
  { putHart s Config.nCompute (H.putSlot 0 σ) with cur := (Config.nCompute, 0, .aSide) }

theorem witness_Loads :
    AReady mem ∧ checkPointer mem 0x400 8 3 false false true = .ok (.own 0x400) ∧
    runs (inOrder (accessDesc mem .ld .plain .core 0 0x400 8 0) mem) = true ∧ runs (ownBytesAt 0x400 8 mem) = true ∧
    runs (writeA (.a 7) 0 mem) = true ∧ runs (pushLq 0 (.filled ⟨0, 3⟩) mem) = true ∧
    checkPointer mem 0x6000000000000008 8 3 false false true = .ok (.reg 8) ∧
    runs (inOrder (accessDesc mem .ld .plain .core (regHome 0) 8 8 6) mem) = true ∧
    checkPointer mem 0x1000010000000400 8 3 false false true = .ok (.mesh 1 0x400 true) ∧ cacheHit mem 0 1 0x400 8 = none ∧
    checkPointer mem 0x2000010000000400 8 3 false false true = .ok (.mesh 1 0x400 false) ∧
    (curSlot mem).pendingOn (.a 7) = none ∧ (curSlot mem).lq[(0 : Fin 4)].length < 16 ∧ (curSlot mem).sb.length < 16 := by
  unfold AReady; decide +kernel
theorem witness_Loads_extent :
    AReady chan ∧ checkPointer chan 0x4000000000000000 8 3 false false true = .ok (.ext 0 0) ∧
    ((launchOf chan (curLaunch chan)).bind fun l => l.extent 0) = some ext ∧ extentPoisoned chan ext 0 8 = false ∧
    runs (needRequest chan) = true := by
  unfold AReady; decide +kernel

/-- Slot 0 of gateway core 0 runs. -/
def gate : State :=
  let H := { (hartOf demo Config.nChannelEnd).putCtx (Ctx.reset 0) with acts := 1, aligned := true, xtick := 7 }
  { putHart demo Config.nChannelEnd (H.putSlot 0 (slotOf demo 0 0)) with cur := (Config.nChannelEnd, 0, .aSide) }
/-- R30, R38 and R39: the registers of the plat, of the checkers, of a gateway core and of an order-repair unit. -/
theorem witness_StatusRegisters_units :
    (let P := platOfLaunch demo 0; P.x4 < 2 ^ 10 ∧ P.y2 < 2 ^ 10 ∧ P.w < 2 ^ 10 ∧ P.h < 2 ^ 10) ∧
    (AReady chan ∧ isCompute (curHart chan) = false ∧ (∀ n ∈ [0x040, 0x041, 0x043, 0x080, 0x081, 0x0bf, 0x0c4, 0x0c5],
      regKnown n = true ∧ regHeld (curHart chan) n = true) ∧ SMap.find 0 (curCtx chan).checkers = some ⟨true, 3, 0⟩ ∧
      SMap.find 63 (curCtx chan).checkers = none ∧ (curCtx chan).unit.lines.length < 256 ∧
      seen (.sysRdsr (.a 3) 0x080) chan (fun t => (curSlot t).a[(3 : Fin 16)]) = some 0x9800000000000000) ∧
    (AReady gate ∧ regHeld (curHart gate) 0x0c0 = true ∧
      seen (.sysRdsr (.a 3) 0x0c0) gate (fun t => (curSlot t).a[(3 : Fin 16)]) = some 0x700000001) ∧
    (regKnown 0x0c4 = true ∧ regHeld 0 0x0c5 = true ∧
      aAfter (.sysRdsr (.a 3) 0x041) demo 3 = some (BitVec.ofNat 64 (2 ^ 20 + 2 ^ 30 + (platOfLaunch demo 0).tag.toNat * 2 ^ 40))) := by
  unfold AReady; decide +kernel

/-- Line 0x400 of core 1 stands shared in the L1 of core 0, all its bytes 7. -/
def shared7 : State := hart 0 (fun H => H.putLine (lineKey 1 0x400) { L1Line.reset with shared := some (vecOf (List.replicate 64 7)) }) mem
/-- Line 0x400 of core 4, of another cluster, stands in the L2 of cluster 0. -/
def sector7 : State :=
  let s := setA 2 0x1000040000000400 (putPlat mem 0 { platOf mem 0 with w := 2 })
  putCluster s 0 { clusterOf s 0 with
    l2 := SMap.set (l2Key (lineKey 4 0x400)) ⟨Vector.replicate 4 (some (vecOf (List.replicate 64 7)))⟩ (clusterOf s 0).l2 }
theorem witness_Loads_cached :
    (AReady shared7 ∧ checkPointer shared7 0x1000010000000400 8 3 false false true = .ok (.mesh 1 0x400 true) ∧
     cacheHit shared7 0 1 0x400 8 = some (List.replicate 8 7) ∧ ((hartOf shared7 0).line (lineKey 1 0x400)).stores = [] ∧
     runs (passOrder (accessDesc shared7 .ld .plain .core 1 0x400 8 1) (coalesced shared7 0) shared7) = true ∧
     runs (writeA (.a 7) 0x707070707070707 shared7) = true ∧ runs (pushLq 0 (.filled ⟨7, 3⟩) shared7) = true ∧
     aAfter (.memLd (.a 7) (.a 2) .b8 .plain .core 0) shared7 7 = some 0x707070707070707) ∧
    (AReady sector7 ∧ checkPointer sector7 0x1000040000000400 8 3 false false true = .ok (.mesh 4 0x400 true) ∧
     cacheHit sector7 0 4 0x400 8 = some (List.replicate 8 7) ∧ ((hartOf sector7 0).line (lineKey 4 0x400)).shared = none ∧
     clusterOfCore 0 ≠ clusterOfCore 4 ∧ (clusterOf sector7 0).sector (lineKey 4 0x400) = some (vecOf (List.replicate 64 7)) ∧
     seen (.memLd (.a 7) (.a 2) .b8 .plain .core 0) sector7 (fun t => ((hartOf t 0).line (lineKey 4 0x400)).shared) =
       some (some (vecOf (List.replicate 64 7)))) := by
  unfold AReady; decide +kernel

/-- R242: sign and zero extension of a byte 0x80, a value of 8 bytes little end first, and mxst of an idle engine. -/
theorem test_loads :
    (let s := bytes 0 0x400 8 0x1122334455667780 mem
     [aAfter (.memLd (.a 7) (.a 1) .b1 .plain .core 0) s 7, aAfter (.memLdu (.a 7) (.a 1) .b1 .plain .core 0) s 7,
      aAfter (.memLdu (.a 7) (.a 1) .b2 .plain .core 1) s 7, aAfter (.memLd (.a 7) (.a 1) .b8 .plain .core 0) s 7] =
     [some 0xffffffffffffff80, some 0x80, some 0x5566, some 0x1122334455667780]) ∧
    aAfter (.memLd (.a 4) (.a 5) .b8 .plain .core 0) mem 4 = some 0 ∧
    seen (.memLd (.lq 1) (.a 2) .b64 .plain .core 0) mem (fun t => (t.net.map (·.op), (slotOf t 0 0).lq[(1 : Fin 4)].length)) =
      some ([.load 0x1000010000000400 64 true false], 1) := by decide +kernel

theorem witness_PointerChecks :
    AReady mem ∧ (checkPointer mem 0x404 8 3 false false true = .error ⟨0x6007, 3, 0x404⟩) ∧
    got (readA (.a 1) (setA 1 0x404 mem)) = some 0x404 ∧ checkPointer mem 0x404 8 3 true false true = .error ⟨0x6007, 3, 0x404⟩ ∧
    checkPointer mem 0x404 8 (if 8 = 8 then 3 else if 8 = 4 then 2 else 1) true false false = .error ⟨0x6007, 3, 0x404⟩ ∧
    [(0x3000000000000000 : Word), 0x5000000000000000, 0x7000000000000000, 0xf000000000000000].map spaceOf = [3, 5, 7, 15] ∧
    (196608 : Word).toNat < 2 ^ 18 ∧ (196608 : Word).toNat % 64 = 0 ∧ ownBytes (curHart mem) < (196608 : Word).toNat + 64 ∧
    (196544 : Word).toNat + 64 ≤ ownBytes (curHart mem) ∧ curTouchesRing mem 196544 64 = true ∧ curTouchesRing mem 188352 64 = false ∧
    curTouchesLinks mem 188352 64 = false := by
  unfold AReady; decide +kernel

/-- R243: the first check that fails names the fault. -/
theorem test_checks :
    let c (p : Word) := match checkPointer mem p 8 3 true false true with
      | .ok _ => (0, 0)
      | .error f => (f.code, f.detail)
    [c 0x5000000000000000, c 0x100000404, c 0x404, c 196608, c 0x1000040000000400, c 196600, c 0x6000000000000018, c 0x6000000000000008,
     c 0x6000000000000000] =
    [(0x6006, 5), (0x6006, 0), (0x6007, 3), (0x6005, 0x0b0), (0x6005, 0x0b1), (0x6005, 0x0b3), (0x6005, 0x0b6), (0x6002, 0x400),
     (0x6011, 2)] := by decide +kernel

theorem witness_Stores :
    AReady mem ∧ (curSlot mem).paired = false ∧ mirrored mem 0 0 = false ∧ checkPointer mem 0x400 8 3 true false true = .ok (.own 0x400) ∧
    runs (storeData (.a 4) 8 mem) = true ∧ (curCtx mem).writeRefused 0 0x400 8 = none ∧
    runs (inOrder (accessDesc mem .st .plain .core 0 0x400 8 0) mem) = true ∧ Memory.wf (curCtx (recallU mem 0 0 0x400)).scratch = true ∧
    (curSlot (queued mem)).sq[(0 : Fin 2)] ≠ [] ∧ checkPointer mem 0x1000010000000400 8 3 true false true = .ok (.mesh 1 0x400 true) ∧
    checkPointer mem 0x2000010000000400 8 3 true false true = .ok (.mesh 1 0x400 false) ∧
    checkPointer mem 0x1000010000000400 8 3 true true true = .ok (.mesh 1 0x400 true) ∧
    runs (passOrder (accessDesc mem .st .plain .core 1 0x400 8 1) (coalesced mem 0) mem) = true ∧
    checkPointer mem 0x6000000000000000 8 3 true true true = .ok (.reg 0) := by
  unfold AReady; decide +kernel
/-- The kick register of the copy engine, stored to by a pair: a barrier. -/
theorem witness_Stores_kick :
    let s := setA 4 0x1000 (slot (fun σ => { σ with paired := true }) mem)
    AReady s ∧ (curSlot s).paired = true ∧ checkPointer s 0x6000000000000100 8 3 true true true = .ok (.reg 0x100) ∧
    got (storeData (.a 4) 8 s) = some [0, 0x10, 0, 0, 0, 0, 0, 0] ∧ (kickJob s .cpe (curIssuer s) 0x1000).toOption.isSome = true := by
  unfold AReady; decide +kernel
theorem witness_Stores_extent :
    AReady chan ∧ checkPointer chan 0x4000000000000000 8 3 true false true = .ok (.ext 0 0) ∧
    (curCtx chan).unit.line (extLinePtr 0 0) = none ∧ (curSlot chan).paired = false ∧ runs (needRequest chan) = true := by
  unfold AReady; decide +kernel

/-- R242 and R54: the low bytes of a register; a store of cached space stands in the L1, one of uncached space is sent. -/
theorem test_stores :
    seen (.memSt (.a 2) (.a 1) .b4 .plain .core 0) (bytes 0 0x400 8 0x1122334455667788 mem)
      (fun t => Memory.readN (ctxOf t 0 0).scratch 0x400 8) = some 0x1122334400000400 ∧
    seen (.memSt (.a 4) (.a 2) .b8 .plain .core 0) mem (fun t => (t.net.length, ((hartOf t 0).line (lineKey 1 0x400)).dirty)) =
      some (0, 0xff) ∧
    seen (.memSt (.a 4) (.a 3) .b2 .plain .core 0) mem (fun t => t.net.map (·.op)) =
      some [.store 0x2000010000000400 [5, 0]] := by decide +kernel

theorem witness_ExtpageWalks :
    AReady demo ∧ isChannel (curHart demo) = false ∧ AReady chan ∧ isChannel (curHart chan) = true ∧ spaceOf 0x4000000000000000 = 4 ∧
    ((launchOf chan (curLaunch chan)).bind fun l => l.extents[0]?) = some ext ∧ 0 < plainCapsule.next ∧
    SMap.find 0 (curCtx chan).checkers = some ⟨true, 3, 0⟩ ∧ pseudoChannel (0 + 0) = curHart chan - Config.nCompute ∧
    pseudoChannel (0 + 4096) ≠ curHart chan - Config.nCompute := by
  unfold AReady; decide +kernel

/-- R246: the first page of the extent lies on channel 0, the second on channel 1. -/
theorem test_extpage :
    seen (.memExtpage (.a 3) (.a 1)) chan (fun t => ((curSlot t).a[(3 : Fin 16)], SMap.find 0 (curCtx t).checkers)) =
      some (0x4000000000000000, some ⟨true, 3, 4096⟩) ∧
    ((after (.memExtpage .z (.a 1)) chan).bind fun t => seen (.memExtpage (.a 3) (.a 1)) t fun u =>
      ((curSlot u).a[(3 : Fin 16)], SMap.find 0 (curCtx u).checkers)) = some (0xffffffffffffffff, some ⟨true, 3, 0x2000⟩) := by
  decide +kernel

theorem witness_AtomicsAreAtHome :
    AReady mem ∧ (curSlot mem).paired = false ∧ mirrored mem 0 0 = false ∧ (∀ p ∈ [(8, (3 : BitVec 12)), (4, 2)],
      checkPointer mem 0x400 p.1 p.2 true false false = .ok (.own 0x400) ∧ (curCtx mem).writeRefused 0 0x400 p.1 = none ∧
      runs (inOrder (amoDesc mem .sc .module 0 0x400 p.1 0) mem) = true) ∧ runs (writeA (.a 7) 0 mem) = true ∧
    Memory.wf (curCtx (recallU mem 0 0 0x400)).scratch = true := by
  unfold AReady; decide +kernel

/-- R247: old elements and new ones, for the element -3 in eight bytes and -2 in four, with T = 5. -/
theorem test_amo :
    (let s := bytes 0 0x400 8 0xfffffffffffffffd mem
     let r (i : Instr) := seen i s fun t => ((slotOf t 0 0).a[(7 : Fin 16)].toNat, Memory.readN (ctxOf t 0 0).scratch 0x400 8)
     [r (.amoAdd (.a 7) (.a 1) (.a 4) .plain .core), r (.amoAnd (.a 7) (.a 1) (.a 4) .plain .core),
      r (.amoOr (.a 7) (.a 1) (.a 4) .plain .core), r (.amoXor (.a 7) (.a 1) (.a 4) .plain .core),
      r (.amoMax (.a 7) (.a 1) (.a 4) .plain .core), r (.amoMin (.a 7) (.a 1) (.a 4) .plain .core),
      r (.amoMaxu (.a 7) (.a 1) (.a 4) .plain .core), r (.amoMinu (.a 7) (.a 1) (.a 4) .plain .core)] =
     [2, 5, 0xfffffffffffffffd, 0xfffffffffffffff8, 5, 0xfffffffffffffffd, 0xfffffffffffffffd, 5].map fun n =>
       some (0xfffffffffffffffd, n)) := by decide +kernel
/-- R247: the elements of four bytes. -/
theorem test_amow :
    (let s := bytes 0 0x400 8 0x11111111fffffffd mem
     let r (i : Instr) := seen i s fun t => ((slotOf t 0 0).a[(7 : Fin 16)].toNat, Memory.readN (ctxOf t 0 0).scratch 0x400 8)
     [r (.amoAddw (.a 7) (.a 1) (.a 4) .plain .core), r (.amoMaxw (.a 7) (.a 1) (.a 4) .plain .core),
      r (.amoMinw (.a 7) (.a 1) (.a 4) .plain .core), r (.amoXorw (.a 7) (.a 1) (.a 4) .plain .core),
      r (.amoMaxuw (.a 7) (.a 1) (.a 4) .plain .core), r (.amoMinuw (.a 7) (.a 1) (.a 4) .plain .core)] =
     [some (0xfffffffffffffffd, 0x1111111100000002), some (0xfffffffffffffffd, 0x1111111100000005),
      some (0xfffffffffffffffd, 0x11111111fffffffd), some (0xfffffffffffffffd, 0x11111111fffffff8),
      some (0xfffffffd, 0x11111111fffffffd), some (0xfffffffd, 0x1111111100000005)]) := by decide +kernel

theorem witness_AtomicsElsewhere :
    AReady mem ∧ (curSlot mem).paired = false ∧ checkPointer mem 0x1000010000000400 8 3 true false false = .ok (.mesh 1 0x400 true) ∧
    checkPointer mem 0x2000010000000400 8 3 true false false = .ok (.mesh 1 0x400 false) ∧ (curSlot mem).pendingOn (.a 7) = none ∧
    (curSlot mem).sb.length < 16 ∧ owned mem 0 1 = true ∧ owned demo 0 1 = false ∧
    runs (inOrder (amoDesc mem .plain .core 1 0x400 8 1) mem) = true ∧
    homeRefuses mem 0 1 0x400 8 0x1000010000000400 = none ∧
    (∀ n ∈ [(4, (2 : BitVec 12)), (2, 1)], checkPointer mem 0x400 n.1 n.2 true false false = .ok (.own 0x400) ∧
      (curCtx mem).writeRefused 0 0x400 n.1 = none ∧ runs (inOrder (amoDesc mem .plain .core 0 0x400 n.1 0) mem) = true) ∧
    runs (writeA (.a 7) 0 mem) = true := by
  unfold AReady; decide +kernel

/-- R78: the maximum of the open ply, and the read that resets the closed one. -/
theorem test_amax :
    seen (.amoAmax (.a 1) (.a 4) .plain .core) mem (fun t => (ctxOf t 0 0).amaxOpen) = some [(0x800, 5)] ∧
    seen (.amoMaxrdb (.a 7) (.a 1) .plain .core) (bytes 0 0x400 4 0x3f803f00 mem)
      (fun t => ((slotOf t 0 0).a[(7 : Fin 16)], Memory.readN (ctxOf t 0 0).scratch 0x400 4)) = some (0x3f00, 0x3f800000) := by
  decide +kernel

/-! ## Cells, futures, messages, fences and the ply -/

/-- Slot 0 of core 0 as an issuer. -/
def me : Issuer := ⟨0, 0, 0, 1⟩
/-- Operation 7, of slot 0 of core 0. -/
def item (op : NetOp) : NetItem := { id := 7, src := me, op := op, prior := [], since := 0 }
/-- One operation in the mesh. -/
def flying (op : NetOp) (s : State) : State := { s with net := [item op] }
/-- A declared line of swap words at 0x400 of core 1, with n entries in its history. -/
def declared (cls : OrcClass) (hist : List HistEntry) : State → State :=
  ctx 1 fun c => { c with unit := { c.unit with lines := [⟨16, 0x5000010000000400, cls, 9, hist⟩] } }
/-- A history entry for element 0. -/
def entry (stamp : BitVec 48) (x : Word) : HistEntry := ⟨stamp, x, 0, 0, false, 0, 0⟩
/-- a7 points to the line of core 1. -/
def cells : State := setA 7 0x5000010000000400 mem

theorem witness_CellOperations_words :
    AReady cells ∧ (curSlot cells).paired = false ∧ got (readA (.a 7) cells) = some 0x5000010000000400 ∧
    runs (cellCheck 0x5000010000000400 true cells) = true ∧ runs (cellCheck 0x5000010000000400 false cells) = true ∧
    (curSlot cells).sb.length < 15 ∧ got (opndLow (.a 4) cells) = some 0x6000000000000008 ∧ (curCtx cells).sseq < 4096 ∧
    answerPending cells (curHart cells) (curLaunch cells) = false ∧ (curSlot cells).answering = none ∧
    (hartOf cells (curHart cells)).gone = [] ∧
    (curSlot cells).pendingOn (.a 8) = none ∧ (curSlot cells).lq[(0 : Fin 4)].length < 15 ∧ (curCtx cells).ply = 0 ∧
    ((5 : Word).extractLsb' 0 16 ≠ (curCtx cells).ply ∧ (5 : Word).extractLsb' 0 16 ≠ (curCtx cells).ply - 1) ∧
    spaceOf 0x400 ≠ 5 := by
  unfold AReady; decide +kernel
theorem witness_CellOperations_home :
    (let s := flying (.orcDecl 0x5000010000000400 .swap) cells
     s.net[0]? = some (item (.orcDecl 0x5000010000000400 .swap)) ∧ mayPerform s (item (.orcDecl 0x5000010000000400 .swap)) = true ∧
     cellH 0x5000010000000400 = false ∧ indexOf 0x5000010000000400 = 1 ∧ owned s 0 1 = true ∧ cellRefused s 0 0x5000010000000400 = none ∧
     (launchOf s 0).isSome = true ∧ (ctxOf s 1 0).unit.line (granulePtr 0x5000010000000400) = none ∧
     (ctxOf s 1 0).unit.lines.length < 255 ∧ ((launchOf s 0).map fun l => l.units.length) = some 0) ∧
    (let s := declared .swap [entry 0x1000 3] cells
     ((ctxOf s 1 0).unit.line (granulePtr 0x5000010000000400)).map (fun l => (l.cls, l.hist.length)) = some (.swap, 1) ∧
     cellOff 0x5000010000000400 % orcSize .swap = 0 ∧ (ctxOf s 1 0).seen 0x2000 = false ∧ stampLE 0x2000 (ctxOf s 1 0).unit.swm = false ∧
     stampLE 0xffffffffffff (ctxOf s 1 0).unit.swm = true ∧ (ctxOf s 1 0).unit.swm = endOf 0xffff ∧ (ctxOf s 1 0).unit.swm ≠ endOf 0) := by
  decide +kernel

/-- The words run on compute cores alone; a declaration comes after the accesses that its line has accepted. -/
theorem witness_CellOperations_sides :
    (let s := putSlot chan Config.nCompute 0 { curSlot chan with a := (curSlot chan).a.set 7 0x5000010000000400 }
     AReady s ∧ isCompute (curHart s) = false ∧ got (readA (.a 7) s) = some 0x5000010000000400 ∧ (curSlot s).paired = false ∧
     seen (.orcDecl (.a 7) .swap) s (fun t => (curSlot t).tcause.extractLsb' 16 16) = some codeSpace) ∧
    sureAt (flying (.orcDecl 0x5000010000000400 .swap) cells) 0 (lineLoc 1 0x5000010000000400) = false := by
  unfold AReady; decide +kernel

/-- R67 and R69: a declaration takes its 64 bytes; an append enters the history; a full history nacks; a load gives the value. -/
theorem test_cells :
    seen (.orcDeclArrival 0) (flying (.orcDecl 0x5000010000000400 .swap) (bytes 1 0x400 8 77 cells))
      (fun t => (ctxOf t 1 0).unit.lines.map fun l => (l.base, l.hist.length)) = some [(77, 0)] ∧
    seen (.orcAppendArrival 0) (flying (.orcApp 0x5000010000000400 0x2000 5 0 none) (declared .swap [entry 0x3000 3] cells))
      (fun t => (ctxOf t 1 0).unit.lines.map fun l => l.hist.map fun e => (e.stamp, e.x)) = some [[(0x2000, 5), (0x3000, 3)]] ∧
    seen (.orcAppendArrival 0) (flying (.orcApp 0x5000010000000400 0x2000 5 0 none) (declared .swap (List.replicate 16 (entry 0x3000 3)) cells))
      (fun t => t.net.map fun i => (i.src.hart, match i.op with | .nack _ r _ => r | _ => 99)) = some [(0, 3)] := by
  decide +kernel
/-- R250: an append without reply takes the next sequence value and is kept by the message engine. -/
theorem test_append :
    seen (.orcApp .z (.a 7) (.a 4)) cells (fun t => (t.net.map (·.op), (curCtx t).sseq, (hartOf t 0).copies.length, (slotOf t 0 0).pc)) =
      some ([.orcApp 0x5000010000000400 0 5 0x6000000000000008 none], 1, 1, 1) := by decide +kernel

/-- Every core of the plat holds the capsule and has arrived. -/
def arrived : State :=
  { demo with harts := [0, 1, 2, 3, 1024, 1025, 1026, 1027].map fun h =>
      (h, (hartOf demo h).putCtx { ctxOf demo h 0 with arrived := true }) }
/-- A ring entry of a parked message of ply 0. -/
def parked : RingEntry := { act0 with state := .parked, released := false }

theorem witness_PlyCloses :
    (let s := ctx 1 (fun c => { c with unit := { c.unit with regime := true, counts := [⟨0, some 2, 2⟩] } }) mem
     (hartOf s 1).ctxs.length = 1 ∧ caughtUp (ctxOf s 1 0).unit = true) ∧
    ((hartOf mem 1).ctxs.length = 1 ∧ caughtUp (ctxOf mem 1 0).unit = false) ∧
    ((platOf arrived 0).launch = some 0 ∧ ((launchOf arrived 0).map fun l => barrierReady arrived 0 l) = some true ∧
     ((launchOf demo 0).map fun l => barrierReady demo 0 l) = some false) ∧
    ((slotOf (waits .ply demo) 0 0).running = true ∧ (slotOf (waits .ply demo) 0 0).ctx = 0 ∧ (slotOf (waits .ply demo) 0 0).aWait = some .ply) ∧
    (ctxOf demo 0 0).amaxHeld = [] := by decide +kernel

/-- R72: the barrier closes ply 0 at every core; R74: a unit advances by a ply. -/
theorem test_ply :
    seen (.plyBarrierComplete 0) (ctx 0 (fun c => { c with sseq := 9 }) arrived)
      (fun t => ((ctxOf t 0 0).ply, (ctxOf t 1027 0).ply, (ctxOf t 0 0).sseq, (ctxOf t 0 0).arrived)) = some (1, 1, 0, false) ∧
    (ctxOf (closeCore 0 0 (ctx 0 (fun c => { c with ring := [parked] }) demo) 0) 0 0).ring.map (fun e => (e.state, e.released)) =
      [(.ready, true)] ∧
    seen (.sequenceWatermarkAdvance 1) (ctx 1 (fun c => { c with unit := { c.unit with regime := true, counts := [⟨0, some 2, 2⟩] } }) mem)
      (fun t => (ctxOf t 1 0).unit.swm) = some 0xffffffff := by decide +kernel

/-- A plain store of a slot that is not yet performed. -/
def outStore : OutOp := ⟨3, 0, 1, [.st], .plat, false, ⟨1, 0, 8⟩, false, false⟩

theorem witness_FencesAndPlyEnds :
    AReady demo ∧ fenceDone (flushScope 0 0 .plat demo) 0 0 .plat = true ∧ AReady (hart 0 (fun H => { H with out := [outStore] }) demo) ∧
    fenceDone (flushScope 0 0 .plat (hart 0 (fun H => { H with out := [outStore] }) demo)) 0 0 .plat = false ∧
    (∀ e ∈ (curSlot demo).sb, e.kind ≠ 6) ∧ (hartOf demo 0).out = [] ∧
    AReady (slot (fun σ => { σ with sb := [SbEntry.plain 5 6 0] }) demo) := by
  unfold AReady; decide +kernel

/-- An acquire load that is not yet performed comes before a ply end. -/
theorem witness_FencesAndPlyEnds_order :
    (let s := hart 0 (fun H => { H with out := [⟨3, 0, 1, [.ldA], .module, false, ⟨1, 0, 8⟩, false, false⟩] }) demo
     AReady s ∧ (∀ e ∈ (curSlot s).sb, e.kind ≠ 6) ∧ priorsOf s plyDesc ≠ [] ∧
     seen .msgPlyend s (fun t => (slotOf t 0 0).aWait) = some (some .order)) ∧
    curEarlier demo = [] ∧ runs (plyOrder demo) = true := by
  unfold AReady; decide +kernel

/-- R257 and R258. -/
theorem test_fence :
    seen (.fenceAll .plat) (hart 0 (fun H => { H with out := [outStore] }) demo) (fun t => (slotOf t 0 0).aWait) = some (some (.fence .plat)) ∧
    seen (.fenceAll .plat) demo (fun t => (slotOf t 0 0).pc) = some 1 ∧
    seen .msgPlyend demo (fun t => ((slotOf t 0 0).aWait, (ctxOf t 0 0).arrived)) = some (some .ply, true) := by decide +kernel

/-- The word at an offset of core h is an empty future. -/
def empty (h off : Nat) : State → State := ctx h fun c => { c with empties := [off], futFree := [0, 1] }

theorem witness_Futures_own :
    AReady mem ∧ (curSlot mem).paired = false ∧ inLine mem 0 0 0x400 = false ∧ checkPointer mem 0x400 8 3 false false false = .ok (.own 0x400) ∧
    checkPointer mem 0x400 8 3 true false false = .ok (.own 0x400) ∧ (curCtx mem).isEmpty 0x400 = false ∧
    runs (inOrder (futDesc .ldA 0 0x400 0) mem) = true ∧ runs (writeA (.a 7) 0 mem) = true ∧
    (let s := empty 0 0x400 mem
     AReady s ∧ (curCtx s).isEmpty 0x400 = true ∧ isCompute (curHart s) = true ∧ (curSlot s).sb.length < 16 ∧ (curCtx s).futFree = [0, 1] ∧
     (curSlot s).pendingOn (.a 8) = none ∧ runs (inOrder (futDesc .stR 0 0x400 0) (flushScope 0 0 .module s)) = true ∧
     hasSseq s 0 0 (waitersOf s 0 0 0x400).length = true) ∧
    (let s := bytes 0 0x400 2 1 (empty 0 0x400 mem)
     AReady s ∧ (curCtx s).isEmpty 0x400 = true ∧ Memory.readN (curCtx s).scratch 0x400 2 ≠ 0) := by
  unfold AReady; decide +kernel
theorem witness_Futures_mesh :
    (hartOf mem (curHart mem)).gone = [] ∧
    checkPointer mem 0x1000010000000400 8 3 false false false = .ok (.mesh 1 0x400 true) ∧
    checkPointer mem 0x1000010000000400 8 3 true false false = .ok (.mesh 1 0x400 true) ∧ (curSlot mem).sb.length < 16 ∧
    (curSlot mem).pendingOn (.a 4) = none ∧ ((curSlot mem).a[(4 : Fin 16)]).extractLsb' 0 6 = 5 ∧
    ((curSlot (setA 4 63 mem)).a[(4 : Fin 16)]).extractLsb' 0 6 = 63 ∧ AReady (setA 4 63 mem) ∧
    (let s := flying (.futRd 0x1000010000000400 0) mem
     mayPerform s (item (.futRd 0x1000010000000400 0)) = true ∧ homeOf 0 0x1000010000000400 = 1 ∧ owned s 0 1 = true ∧
     inLine s 0 1 0x400 = false ∧ regionRefused s 0 1 0x400 8 true = false ∧ regionRefused s 0 1 0x400 8 false = false ∧
     (ctxOf s 1 0).isEmpty 0x400 = false) ∧
    (let s := empty 1 0x400 mem
     (ctxOf s 1 0).isEmpty 0x400 = true ∧ (linkWaiter s 0 1 0x400 63 0 0).isSome = true ∧ hasSseq s 0 1 (waitersOf s 0 1 0x400).length = true) ∧
    (ctxOf (ctx 1 (fun c => { c with empties := [0x400] }) mem) 1 0).futFree = [] ∧
    Memory.readN (ctxOf (bytes 1 0x400 2 1 (empty 1 0x400 mem)) 1 0).scratch 0x400 2 ≠ 0 := by
  unfold AReady; decide +kernel

/-- Two waiters of the empty word 0x400 of core 1: the newer one through channel 5, the older one a reading slot of core 0. The
capsule has four nodes at 0x1000. -/
def twoWait (s : State) : State :=
  let s := launch (fun l => { l with cap := { l.cap with hdr := l.cap.hdr.set 8 0x5001001000 } }) s
  let t := (linkWaiter (empty 1 0x400 s) 0 1 0x400 63 0 3).getD s
  (linkWaiter t 0 1 0x400 5 0 9).getD s
/-- The messages on their way: destination and payload. -/
def msgs (s : State) : List (Nat × List Word) :=
  s.net.filterMap fun i => match i.op with
    | .msg d _ ws => some (d, ws)
    | _ => none
/-- The clauses of the continuation read, of an accepted access and of the walk of the waiters. -/
theorem witness_Futures_sides :
    (let s := bytes 0 0x400 8 42 mem
     got (readA (.a 1) s) = some 0x400 ∧ (curSlot s).pendingOn (.a 4) = none ∧ checkPointer s 0x400 8 3 false false false = .ok (.own 0x400) ∧
     inLine s 0 0 0x400 = false ∧ (curCtx s).isEmpty 0x400 = false ∧ runs (inOrder (futDesc .ldA 0 0x400 0) s) = true ∧
     hasSseq s 0 0 1 = true ∧ sureAt s 0 ⟨0, 0x400, 8⟩ = false) ∧
    (let s := flying (.futRdc 0x1000010000000400 5 9) mem
     s.net[0]? = some (item (.futRdc 0x1000010000000400 5 9)) ∧ mayPerform s (item (.futRdc 0x1000010000000400 5 9)) = true ∧
     (ctxOf s 1 0).isEmpty 0x400 = false ∧ hasSseq s 0 1 1 = true ∧ sureAt s 0 ⟨1, 0x400, 8⟩ = false) ∧
    (linkWaiter (empty 1 0x400 mem) 0 1 0x400 5 0 9).isSome = true ∧
    waitersOf (twoWait mem) 0 1 0x400 = [(1, 5, 0, 9), (0, 63, 0, 3)] ∧ inLine (twoWait mem) 0 1 0x400 = false ∧
    0 < Memory.readN (ctxOf (twoWait mem) 1 0).scratch 0x400 2 := by decide +kernel
/-- R118: each waiter gets its message, the newest first; R253: a continuation read of a full word sends one. -/
theorem test_futures_walk :
    seen (.futureWriteArrival 0) (flying (.futWr 0x1000010000000400 6) (twoWait mem))
      (fun t => (msgs t, (ctxOf t 1 0).futFree)) = some ([(0, [6, 9]), (0, [3, 6])], [0, 1]) ∧
    seen (.futureReadArrival 0) (flying (.futRdc 0x1000010000000400 5 9) (bytes 1 0x400 8 42 mem)) msgs = some [(0, [42, 9])] := by
  decide +kernel

/-- R46 and R253: reads, writes and clears of future words of the own core and of another. -/
theorem test_futures :
    aAfter (.futRd (.a 8) (.a 1)) (bytes 0 0x400 8 42 mem) 8 = some 42 ∧
    seen (.futWr (.a 1) (.a 4)) (empty 0 0x400 mem) (fun t => ((ctxOf t 0 0).empties, Memory.readN (ctxOf t 0 0).scratch 0x400 8)) =
      some ([], 5) ∧
    cause (.futWr (.a 1) (.a 4)) mem = some (0x6011, 0x031) ∧
    seen (.futClr (.a 1)) mem (fun t => (ctxOf t 0 0).empties) = some [0x400] ∧
    seen (.futureWriteArrival 0) (flying (.futWr 0x1000010000000400 6) (empty 1 0x400 mem))
      (fun t => ((ctxOf t 1 0).empties, Memory.readN (ctxOf t 1 0).scratch 0x400 8)) = some ([], 6) ∧
    seen (.futureClearArrival 0) (flying (.futClr 0x1000010000000400) mem) (fun t => (ctxOf t 1 0).empties) = some [0x400] := by
  decide +kernel

/-- a7 is the port of core 1, a8 a template with CHAN 0 and LEN 2. -/
def ports : State := setA 7 0x7000010000000000 (setA 8 0x0020000000000000 mem)

theorem witness_MessagesAreSent :
    AReady ports ∧ got (portDest 0x7000010000000000 ports) = some 1 ∧ (0x0020000000000000 : Word).extractLsb' 56 2 = 0 ∧
    (0x0020000000000000 : Word).extractLsb' 0 52 = 0 ∧ ((0x0020000000000000 : Word).extractLsb' 52 4).toNat = 2 ∧
    got (readBlock 14 2 ports) = some [0, 0] ∧ (curCtx ports).sseq < 4096 ∧ answerPending ports 0 0 = false ∧ (curSlot ports).sb.length < 16 ∧
    (1 : Word).extractLsb' 0 52 ≠ 0 ∧ 7 < ((0x0080000000000000 : Word).extractLsb' 52 4).toNat ∧ 16 < 15 + 2 ∧
    ((0x00200000 : BitVec 32).extractLsb' 0 20 = 0 ∧ ((0x00200000 : BitVec 32).extractLsb' 20 4).toNat = 2 ∧ (1 : BitVec 32).extractLsb' 0 20 ≠ 0) ∧
    ((127 : Word).toNat < 2 ^ 7 ∧ 2 ^ 7 ≤ (128 : Word).toNat) ∧ spaceOf 0x400 ≠ 7 ∧ inPlat ports 0 1027 = true ∧ inPlat ports 0 4 = false := by
  unfold AReady; decide +kernel

/-- R107 and R254: headers of the three words. -/
theorem test_messages :
    seen (.msgSend 4 (.a 7) (.a 8) 3) ports (fun t => t.net.map (·.op)) = some [.msg 1 0x0321000000000000 [5, 0x6000000000000008]] ∧
    seen (.sendlData 4 (.a 7) 0x0c200000) ports (fun t => t.net.map (·.op)) = some [.msg 1 0x0c20000000000000 [5, 0x6000000000000008]] ∧
    seen (.msgReply (.a 4) (.a 7) (.a 1)) ports (fun t => t.net.map (·.op)) = some [.msg 1 0x0322000000000000 [5, 0x400]] ∧
    cause (.msgSend 15 (.a 7) (.a 8) 0) ports = some (0x6002, 0x0c1) := by decide +kernel

/-- Is a message of launch L not turned away at core h? -/
def notTurned (s : State) (L h : Nat) : Bool :=
  match turnedAway s L h with
  | .no => true
  | _ => false
/-- A message at core 1, whose handler 0 takes up to seven words. -/
def toCore1 (header : Word) (ws : List Word) : State := flying (.msg 1 header ws) mem

theorem witness_MessageArrivals :
    (let s := toCore1 0x0021000000000000 [1, 2]
     s.net[0]? = some (item (.msg 1 0x0021000000000000 [1, 2])) ∧ mayPerform s (item (.msg 1 0x0021000000000000 [1, 2])) = true ∧
     me.hart ≠ placer ∧ 1 < Config.nHarts ∧ notTurned s 0 1 = true ∧ (ctxOf s 1 0).seen 0 = false ∧
     entryRefused s 0 0x0021000000000000 2 = false ∧ ((capOf s 0).map (·.pipe)) = some false ∧ isDet s 0 0 = false ∧ takesSlot s 1 0 0 = true ∧
     freeSlot (hartOf s 1) = some 0 ∧ entryRefused s 0 0xfc21000000000000 2 = true ∧ entryRefused s 0 0x0481000000000000 8 = true) ∧
    (let s := launch (fun l => { l with handlers := [(0, { plainHandler 0 with det := true })] }) mem
     isDet s 0 0 = true ∧ (ctxOf s 1 0).ring.length < ringEntries plainCapsule 1) ∧
    dataRefused mem 0 1 [0x400, 5] = none ∧ (ctxOf mem 1 0).writeRefused 1 0x400 8 = none ∧ dataRefused mem 0 1 [0x404, 5] = some 0x0b9 ∧
    (let s := slot (fun σ => { σ with sb := [{ SbEntry.plain 5 4 0 with num := some 3, dst := some (.a 9) }] }) mem
     (namedEntry s 0 0 0 3 4).isSome = true ∧ (slotOf s 0 0).paired = false) ∧
    (let s := slot (fun σ => { σ with paired := true, sb := [{ SbEntry.plain 5 4 0 with num := some 3, dst := some (.a 9) }] }) mem
     (namedEntry s 0 0 0 3 4).isSome = true ∧ (slotOf s 0 0).paired = true) := by decide +kernel

/-- Core 1 with every slot running, and with its ring full too. -/
def busy1 (s : State) : State := (List.range 8).foldl (fun s n => putSlot s 1 n (slotOf s 0 0)) s
def full1 (s : State) : State :=
  ctx 1 (fun c => { c with ring := List.replicate (ringEntries plainCapsule 1) { act0 with state := .ready } }) s
/-- Handler 0 masked on core 1. -/
def masked1 (s : State) : State := ctx 1 (fun c => { c with masks := 1 }) s
/-- A message enters the ring while no slot is free; one that its mask alone keeps out is met, and nacked in a later cycle. -/
theorem witness_MessageArrivals_ring :
    (let s := busy1 (toCore1 0x0021000000000000 [1, 2])
     freeSlot (hartOf s 1) = none ∧ takesSlot s 1 0 0 = false ∧ (ctxOf s 1 0).ring.length < ringEntries plainCapsule 1 ∧
     metBefore s (item (.msg 1 0x0021000000000000 [1, 2])) = false ∧ notTurned s 0 1 = true ∧
     seen (.activeMessageArrival 0) s (fun t => (ctxOf t 1 0).ring.map (·.state)) = some [.ready]) ∧
    (let s := masked1 (ctx 1 (fun c => { c with ring := List.replicate (ringEntries plainCapsule 1) parked }) (toCore1 0x0021000000000000 [1, 2]))
     takesSlot s 1 0 0 = false ∧ ringEntries plainCapsule 1 ≤ (ctxOf s 1 0).ring.length ∧
     maskHolds s (item (.msg 1 0x0021000000000000 [1, 2])) 1 0 0x0021000000000000 = true ∧
     seen (.activeMessageArrival 0) s (fun t => t.net.map (·.met)) = some [some 0]) ∧
    (let s := full1 (busy1 (toCore1 0x0021000000000000 [1, 2]))
     takesSlot s 1 0 0 = false ∧ ringEntries plainCapsule 1 ≤ (ctxOf s 1 0).ring.length ∧ (ctxOf s 1 0).masks.getLsbD 0 = false ∧
     maskHolds s (item (.msg 1 0x0021000000000000 [1, 2])) 1 0 0x0021000000000000 = false) ∧
    metBefore { mem with cycle := 1 } { item (.msg 1 0x0021000000000000 [1, 2]) with met := some 0 } = true := by decide +kernel

/-- R108, R109 and R114: an activation is started, a data message writes its word, a reply settles its entry. -/
theorem test_arrivals :
    seen (.activeMessageArrival 0) (toCore1 0x0021000000000000 [1, 2]) (fun t => ((slotOf t 1 0).running, (slotOf t 1 0).a[(2 : Fin 16)])) =
      some (true, 2) ∧
    seen (.dataMessageArrival 0) (toCore1 0x0020000000000000 [0x400, 99]) (fun t => Memory.readN (ctxOf t 1 0).scratch 0x400 8) = some 99 ∧
    seen (.replyMessageArrival 0) (flying (.msg 0 0x0322000000000000 [24, 99])
      (slot (fun σ => { σ with sb := [{ SbEntry.plain 5 4 0 with num := some 3, dst := some (.a 9) }] }) mem))
      (fun t => ((slotOf t 0 0).a[(9 : Fin 16)], (slotOf t 0 0).sb.length)) = some (99, 0) := by decide +kernel

/-- The message engine of core 0 keeps a copy of operation 3, due at cycle 64. -/
def copied (op : NetOp) (due : Option Nat) (retries : Nat) : State :=
  hart 0 (fun H => { H with copies := [⟨{ item op with id := 3 }, 0, due, retries, none⟩] }) mem

theorem witness_AnswersToSenders :
    (let s := flying (.accept 3) (copied (.futClr 0x1000010000000400) none 0)
     s.net[0]? = some (item (.accept 3)) ∧ awaits s me 3 = false) ∧
    (let s := flying (.nack 3 3 ⟨0, 0, 0⟩) (copied (.orcApp 0x5000010000000400 0 5 0 none) none 255)
     (copyOf s 0 3).isSome = true ∧ awaits s me 3 = false ∧ retryBudget s 0 = 256) ∧
    (let s := copied (.futClr 0x1000010000000400) (some 64) 0
     (allCopies s)[0]?.isSome = true ∧ ((allCopies s)[0]?.bind fun x => x.2.due) = some 64 ∧
     ((allCopies s)[0]?.bind fun x => x.2.firstOwn) = none) ∧
    (let s := { hart 0 (fun H => { H with copies := H.copies.map fun c => { c with firstOwn := some 0 } })
       (copied (.futClr 0x1000010000000400) (some 64) 0) with cycle := 65536 }
     ((allCopies s)[0]?.bind fun x => x.2.firstOwn) = some 0 ∧ 0 + 65536 ≤ s.cycle ∧ awaits s me 3 = false) := by decide +kernel

/-- No slot of a halted launch waits for these answers. -/
theorem witness_AnswersToSenders_held :
    answerHeld (flying (.nack 3 0 ⟨0, 0, 0⟩) (copied (.futClr 0x1000010000000400) none 0)) me 3 = false ∧
    (copyOf (copied (.futClr 0x1000010000000400) none 0) 0 3).isSome = true := by decide +kernel

/-- R111: the copy goes, comes back later, or is sent again. -/
theorem test_answers :
    seen (.sendAcceptance 0) (flying (.accept 3) (copied (.futClr 0x1000010000000400) none 0)) (fun t => (hartOf t 0).copies.length) = some 0 ∧
    seen (.nackMessageArrival 0) (flying (.nack 3 0 ⟨0, 0, 0⟩) (copied (.futClr 0x1000010000000400) none 0))
      (fun t => (hartOf t 0).copies.map fun c => (c.nacks, c.due)) = some [(1, some 64)] ∧
    seen (.messageResend 0) { copied (.futClr 0x1000010000000400) (some 64) 0 with cycle := 64 } (fun t => t.net.length) = some 1 ∧
    seen (.messageResend 0) { copied (.futClr 0x1000010000000400) (some 64) 0 with cycle := 63 } (fun t => t.net.length) = some 0 := by
  decide +kernel

theorem witness_MeshArrivals :
    (∀ op ∈ [NetOp.load 0x2000010000000400 8 false true, .store 0x2000010000000400 [1], .flush 1 0x400 [⟨2, 0x1000010000000400, [5]⟩], .amo 0x1000010000000400 .add 2 0],
      (arriving (flying op mem) 0).isSome = true) ∧
    regionRefused mem 0 1 0x400 8 false = false ∧ regionRefused mem 0 1 196600 8 false = true ∧ regionRefused mem 0 1 0x400 64 false = false ∧
    (∀ op ∈ [NetOp.load 0x2000010000000400 64 false true, .store 0x2000010000000400 (List.replicate 64 1)],
      (arriving (flying op mem) 0).isSome = true ∧ (item op).part = 0) ∧ offOf 0x2000010000000400 % 64 = 0 ∧
    homeRefuses mem 0 1 0x400 64 0x2000010000000400 = none ∧ homeRefuses mem 0 1 0x400 1 0x2000010000000400 = none ∧
    homeRefuses (empty 1 0x400 mem) 0 1 0x400 1 0x2000010000000400 = some ⟨0x6011, 0x020, 0x2000010000000400⟩ ∧
    (amoAtHome mem 0 1 0x400 .add 2 0).isSome = true ∧
    (let s := { chan with net := [{ item (.extLoad 0x4000000000000000 8 false) with src := ⟨Config.nCompute, 0, 0, 1⟩ }] }
     (arriving s 0).isSome = true ∧ extentOf s 0 0x4000000000000000 = some ext ∧
     (ctxOf s Config.nCompute 0).unit.line (extLinePtr 0 0) = none ∧ extentPoisoned s ext 0 8 = false ∧
     extentPoisoned { s with poison := [0] } ext 0 8 = true ∧ pageHeld s 0 = false) ∧
    (let s := hart 0 (fun H => H.putLine (lineKey 1 0x400) { L1Line.reset with stores := [⟨2, 0x1000010000000400, [0]⟩] }) mem
     (hartOf s 0).ctxs.length = 1 ∧ ((hartOf s 0).line (lineKey 1 0x400)).stores ≠ [] ∧ ((hartOf s 0).line (lineKey 1 0x400)).since = 0) ∧
    owned (flying (.load 0x2000020000000400 8 false true) mem) 0 2 = false := by decide +kernel

/-- Accesses of 64 bytes; a flush of one store; a store that no home has accepted. -/
theorem witness_MeshArrivals_wide :
    isSure (empty 1 0x400 mem) 0 7 = false ∧
    (arriving (flying (.flush 1 0x400 [⟨2, 0x1000010000000408, [5]⟩]) mem) 0).isSome = true ∧
    (item (.flush 1 0x400 [⟨2, 0x1000010000000408, [5]⟩])).part = 0 ∧ (0x400 : Nat) = offOf 0x1000010000000408 / 64 * 64 ∧
    homeRefuses mem 0 1 (offOf 0x1000010000000408) 1 0x1000010000000408 = none ∧
    (∀ op ∈ [NetOp.extLoad 0x4000000000000000 64 false, .extStore 0x4000000000000000 (List.replicate 64 1),
        .extStore 0x4000000000000000 [1]],
      (arriving { chan with net := [{ item op with src := ⟨Config.nCompute, 0, 0, 1⟩ }] } 0).isSome = true ∧ (item op).part = 0) ∧
    extentOf chan 0 0x4000000000000000 = some ext ∧ pageHeld chan (ext.base + extOff 0x4000000000000000) = false := by decide +kernel

/-- R244: a store and an atomic at their home, a flush of two bytes, and a load that has nowhere to go. -/
theorem test_mesh :
    seen (.meshStoreArrival 0) (flying (.store 0x2000010000000400 [1, 2]) mem) (fun t => Memory.readN (ctxOf t 1 0).scratch 0x400 8) = some 0x201 ∧
    seen (.amoArrival 0) (flying (.amo 0x1000010000000400 .addw 5 0) (bytes 1 0x400 8 0x1ffffffff mem))
      (fun t => Memory.readN (ctxOf t 1 0).scratch 0x400 8) = some 0x100000004 ∧
    seen (.meshStoreArrival 0) (flying (.flush 1 0x400 [⟨2, 0x1000010000000401, [0x22, 0x33]⟩]) (bytes 1 0x400 4 0xffffffff mem))
      (fun t => Memory.readN (ctxOf t 1 0).scratch 0x400 4) = some 0xff3322ff ∧
    seen (.meshLoadArrival 0) (flying (.load 0x2000010000000400 1 true true)
      (slot (fun σ => { σ with sb := [{ SbEntry.plain 7 2 0 with dst := some (.a 9) }] }) (bytes 1 0x400 1 0x80 mem)))
      (fun t => (slotOf t 0 0).a[(9 : Fin 16)]) = some 0xffffffffffffff80 ∧
    seen (.coalesceFlushTimer 0 (lineKey 1 0x400)) { hart 0 (fun H => H.putLine (lineKey 1 0x400) { L1Line.reset with stores := [⟨2, 0x1000010000000400, [0]⟩] }) mem
      with cycle := 64 } (fun t => t.net.map (·.op)) = some [.flush 1 0x400 [⟨2, 0x1000010000000400, [0]⟩]] := by decide +kernel

/-! ## The E-side -/

/-- e1 = -7, e2 = 2, v1 has the bytes 0x80, 0x01 repeated, v2 the bytes 0x01, 0xff repeated. -/
def enums : State :=
  setE 1 0xfffffffffffffff9 (setE 2 2 (setV 1 (BitVec.ofNat 512 (0x0180 * ((2 ^ 512 - 1) / 0xffff)))
    (setV 2 (BitVec.ofNat 512 (0xff01 * ((2 ^ 512 - 1) / 0xffff))) demoX)))
/-- Entries in the queues of the slot. -/
def filled : State → State := slot fun σ => { σ with lq := σ.lq.set 0 [.filled ⟨7, 3⟩] }
/-- An E-side prefix pending with FD, FA and SCL. -/
def preE (fd fa scl : Nat) : State → State :=
  slot fun σ => { σ with ePrefix := some (BitVec.ofNat 32 (0x40000000 + fd * 2 ^ 21 + fa * 2 ^ 16 + scl * 2 ^ 6)) }

theorem witness_OperandsOfESide :
    (∀ x ∈ (curSlot demoX).sb, x.held = none) ∧ (∀ x ∈ (curSlot (filled demoX)).sb, x.held = none) ∧
    (curSlot (filled demoX)).lq[(0 : Fin 4)] = [.filled ⟨7, 3⟩] ∧ (curSlot demoX).lq[(0 : Fin 4)] = [] ∧ (curSlot demoX).sb.length < 16 ∧
    (curSlot demoX).sq[(0 : Fin 2)].length < 16 ∧ (curSlot demoX).cq.length < 8 ∧ (curSlot demoX).paired = false ∧
    16 ≤ (curSlot (slot (fun σ => { σ with sq := σ.sq.set 0 (List.replicate 16 ⟨0, 3⟩) }) demoX)).sq[(0 : Fin 2)].length ∧
    8 ≤ (curSlot (slot (fun σ => { σ with cq := List.replicate 8 0 }) demoX)).cq.length := by decide +kernel

/-- Do the sources of an integer word read, and its destination take a value? -/
def runsOnE (x y : ESrc) (d : EDst) (s : State) : Bool :=
  match readE x s with
  | .ok (_, s1) =>
    match readE y s1 with
    | .ok (w, s2) => runs (writeE d w s2)
    | .error _ => false
  | .error _ => false

theorem witness_IntegersOfESide :
    EReady enums ∧ runsOnE (.e 1) (.e 2) (.e 3) enums = true ∧ runsOnE (.lq 0) .z .cq (filled enums) = true ∧
    got (readE (.e 2) enums) = some 2 ∧ ((2 : Word).toNat < 2 ^ (64 - 62) ∧ 2 ^ (63 - 62) ≤ (2 : Word).toNat) ∧
    ((∀ i, i < 1 → (2 : Word).getLsbD i = false) ∧ (2 : Word).getLsbD 1 = true) ∧
    ((0 : Word).toNat < 2 ^ (64 - 64) ∧ (∀ i, i < 64 → (0 : Word).getLsbD i = false)) := by
  unfold EReady; decide +kernel

/-- R262 worked by hand for -7 and 2. -/
theorem test_ia :
    [eAfter (.iaAdd (.e 3) (.e 1) (.e 2)) enums 3, eAfter (.iaSub (.e 3) (.e 1) (.e 2)) enums 3, eAfter (.iaSra (.e 3) (.e 1) (.e 2)) enums 3,
     eAfter (.iaMulh (.e 3) (.e 1) (.e 2)) enums 3, eAfter (.iaMulhu (.e 3) (.e 1) (.e 2)) enums 3, eAfter (.iaDiv (.e 3) (.e 1) (.e 2)) enums 3,
     eAfter (.iaRem (.e 3) (.e 1) (.e 2)) enums 3, eAfter (.iaDivu (.e 3) (.e 1) .z) enums 3, eAfter (.iaRemu (.e 3) (.e 1) .z) enums 3,
     eAfter (.iaMin (.e 3) (.e 1) (.e 2)) enums 3, eAfter (.iaMaxu (.e 3) (.e 1) (.e 2)) enums 3, eAfter (.iaSltu (.e 3) (.e 1) (.e 2)) enums 3] =
    [some 0xfffffffffffffffb, some 0xfffffffffffffff7, some 0xfffffffffffffffe, some 0xffffffffffffffff, some 1, some 0xfffffffffffffffd,
     some 0xffffffffffffffff, some 0xffffffffffffffff, some 0xfffffffffffffff9, some 0xfffffffffffffff9, some 0xfffffffffffffff9, some 0] := by
  decide +kernel
/-- R262 and R263 worked by hand. -/
theorem test_ia_counts :
    [eAfter (.iaClz (.e 3) (.e 2)) enums 3, eAfter (.iaCtz (.e 3) (.e 2)) enums 3, eAfter (.iaPopc (.e 3) (.e 1)) enums 3,
     eAfter (.iaClz (.e 3) .z) enums 3, eAfter (.iaCtz (.e 3) .z) enums 3, eAfter (.iaiLui (.e 3) 0x8000) enums 3,
     eAfter (.iaiAddi (.e 3) (.e 1) 0x8000) enums 3, eAfter (.iaiXori (.e 3) (.e 1) 0x8000) enums 3, eAfter (.iaiSrai (.e 3) (.e 1) 63) enums 3,
     eAfter (.iaSel (.e 3) (.e 1) (.e 2) 1) enums 3, eAfter (.iaSel (.e 3) (.e 1) (.e 2) 0) enums 3] =
    [some 62, some 1, some 62, some 64, some 64, some 0xffffffff80000000, some 0xffffffffffff7ff9, some 0xffffffffffff7ff9,
     some 0xffffffffffffffff, some 2, some 0xfffffffffffffff9] ∧
    seen (.iaSubs (.e 3) (.e 1) (.e 2)) (setE 1 0x8000000000000001 enums)
      (fun t => ((slotOf t 0 0).e[(3 : Fin 16)], (slotOf t 0 0).sat)) = some (0x8000000000000000, true) := by decide +kernel

theorem witness_FloatsAndPredicates :
    EReady enums ∧ runsOnE (.e 1) (.e 2) (.e 3) enums = true ∧ runs (writeP 3 0 enums) = true := by
  unfold EReady; decide +kernel

/-- R264 on FP32: 1.5 + 2, 1.5 x 2, sqrt 4, fused 1.5 x 2 + 1, the class of an infinity, and the flags of 1 / 0. -/
theorem test_fa :
    (let s := setE 1 0x3fc00000 (setE 2 0x40000000 (setE 3 0x3f800000 (setE 4 0x40800000 enums)))
     [eAfter (.faAdd (.e 5) (.e 1) (.e 2) .fp32) s 5, eAfter (.faSub (.e 5) (.e 1) (.e 2) .fp32) s 5, eAfter (.faMul (.e 5) (.e 1) (.e 2) .fp32) s 5,
      eAfter (.faSqrt (.e 5) (.e 4) .fp32) s 5, eAfter (.faFma 3 (.e 1) (.e 2) .fp32) s 3, eAfter (.faFnma 3 (.e 1) (.e 2) .fp32) s 3,
      eAfter (.faMax (.e 5) (.e 1) (.e 2) .fp32) s 5, eAfter (.faNeg (.e 5) (.e 1) .fp32) s 5, eAfter (.faClt (.e 5) (.e 1) (.e 2) .fp32) s 5] =
     [some 0x40600000, some 0xbf000000, some 0x40400000, some 0x40000000, some 0x40800000, some 0xc0000000, some 0x40000000, some 0xbfc00000,
      some 1]) ∧
    seen (.faCeq (.e 5) (.e 1) (.e 1) .fp32) (setE 1 0x7f800001 enums) (fun t => ((slotOf t 0 0).e[(5 : Fin 16)], (slotOf t 0 0).flags)) =
      some (0, 16) := by decide +kernel
/-- R268: predicates as masks. -/
theorem test_pr :
    (let s := setP 1 0xff0 (setP 2 0x0ff enums)
     let p (i : Instr) := seen i s fun t => (slotOf t 0 0).p[(3 : Fin 8)]
     [p (.prAnd 3 1 2), p (.prAndn 3 1 2), p (.prNot 3 0), p (.prSet 3 (.e 2)), p (.prClt 3 (.e 1) (.e 2)), p (.prCltu 3 (.e 1) (.e 2))] =
       [some 0xf0, some 0xf00, some 0, some 2, some 0xffffffffffffffff, some 0] ∧
     [eAfter (.prAny (.e 3) 1 2) s 3, eAfter (.prAll (.e 3) 1 2) s 3, eAfter (.prPopc (.e 3) 1 2) s 3, eAfter (.prGet (.e 3) 0) s 3] =
       [some 1, some 0, some 4, some 0xffffffffffffffff]) := by decide +kernel

theorem witness_RoundingIsCorrect : readFp .fp32 0x7f800001 = .nan true ∧ readFp .fp16 0x7e00 = .nan false := by decide +kernel

/-- Do both vector sources of a word read? -/
def readsV (x y : VSrc) (dest : HeldDst × Nat) (s : State) : Bool :=
  match grabV x dest.1 dest.2 s with
  | .ok (_, t) => runs (grabV y dest.1 dest.2 t)
  | .error _ => false

theorem witness_IntegerVectors :
    EReady enums ∧ readsV (.v 1) (.v 2) (heldV (.v 3)) enums = true ∧ readsV (.v 1) .z (heldV (.v 3)) enums = true ∧
    readsV (.v 1) (.v 2) (.p 3, 3) enums = true ∧ runs (writeV (.v 3) 0 enums) = true ∧ runs (writeP 3 0 enums) = true ∧
    EReady (filled enums) ∧ readsV (.lq 0) (.v 1) (heldV (.sq 0)) (filled enums) = true ∧ runs (writeV (.sq 0) 0 (filled enums)) = true := by
  unfold EReady; decide +kernel

/-- The low lanes of v3 after a word. -/
def low (i : Instr) (s : State) : Option Nat := (vAfter i s 3).map fun v => v.toNat % 2 ^ 16
/-- R273 on the byte lanes 0x80, 0x01 and 0x01, 0xff. -/
theorem test_va :
    [low (.vaAdd (.v 3) (.v 1) (.v 2) 0 .w8) enums, low (.vaSub (.v 3) (.v 1) (.v 2) 0 .w8) enums, low (.vaAdds (.v 3) (.v 2) (.v 1) 0 .w8) enums,
     low (.vaSubs (.v 3) (.v 1) (.v 2) 0 .w8) enums, low (.vaAddus (.v 3) (.v 1) (.v 2) 0 .w8) enums, low (.vaSubus (.v 3) (.v 1) (.v 2) 0 .w8) enums,
     low (.vaMin (.v 3) (.v 1) (.v 2) 0 .w8) enums, low (.vaMaxu (.v 3) (.v 1) (.v 2) 0 .w8) enums, low (.vaSra (.v 3) (.v 1) (.v 2) 0 .w8) enums,
     low (.vaAbs (.v 3) (.v 1) 0 .w8) enums, low (.vaAdd (.v 3) (.v 1) (.v 2) 0 .w16) enums] =
    [some 0x0081, some 0x027f, some 0x0081, some 0x0280, some 0xff81, some 0x007f, some 0xff80, some 0xff80, some 0x00c0, some 0x017f,
     some 0x0081] := by decide +kernel
/-- R270, R274 and R276: predicates, compares and reductions. -/
theorem test_va_masks :
    low (.vaAdd (.v 3) (.v 1) (.v 2) 1 .w8) (setP 1 1 (setV 3 0x7777 enums)) = some 0x7781 ∧
    seen (.vaClt 3 (.v 1) (.v 2) 0 .w8) enums (fun t => (slotOf t 0 0).p[(3 : Fin 8)]) = some 0x5555555555555555 ∧
    vAfter (.vaRsum (.v 3) (.v 1) 0 .w8) enums 3 = some (BitVec.ofNat 512 (2 ^ 64 - 127 * 32)) ∧
    vAfter (.vaRmax (.v 3) (.v 1) 1 .w8) enums 3 = some (BitVec.ofNat 512 (2 ^ 64 - 128)) := by decide +kernel

theorem witness_FloatVectors :
    EReady enums ∧ readsV (.v 1) (.v 2) (heldV (.v 3)) enums = true ∧ readsV (.v 1) (.v 2) (.v 3, 3) enums = true ∧
    readsV (.v 1) (.v 2) (.p 3, 3) enums = true ∧ runs (writeV (.v 3) 0 enums) = true := by
  unfold EReady; decide +kernel

/-- R277 on FP32 lanes: 1 + 2 in lane 0; an ordered compare; a sum over one governed lane. -/
theorem test_vf :
    (let s := setP 1 0xf (setV 1 0x3f800000 (setV 2 0x40000000 enums))
     [vAfter (.vfAdd (.v 3) (.v 1) (.v 2) 0 .fp32) s 3, vAfter (.vfMul (.v 3) (.v 1) (.v 2) 0 .fp32) s 3,
      vAfter (.vfFma 3 (.v 1) (.v 2) 0 .fp32) (setV 3 0x40000000 s) 3, vAfter (.vfNeg (.v 3) (.v 1) 1 .fp32) s 3,
      vAfter (.vfRsum (.v 3) (.v 1) 1 .fp32) s 3] =
     [some 0x40400000, some 0x40000000, some 0x40800000, some 0xbf800000, some 0x3f800000] ∧
     seen (.vfClt 3 (.v 1) (.v 2) 0 .fp32) s (fun t => (slotOf t 0 0).p[(3 : Fin 8)]) = some 0xf) := by decide +kernel

theorem witness_LaneMoves :
    EReady enums ∧ readsV (.v 1) (.v 2) (heldV (.v 3)) enums = true ∧ readsV (.v 1) .z (heldE (.e 3)) enums = true ∧
    got (readE (.e 2) enums) = some 2 ∧ runs (writeV (.v 3) 0 enums) = true ∧ runs (writeE (.e 3) 0 enums) = true := by
  unfold EReady; decide +kernel

/-- R280 on byte lanes. -/
theorem test_vx :
    [low (.vxZip (.v 3) (.v 1) (.v 2) 0 .w8) enums, low (.vxUnzip (.v 3) (.v 1) (.v 2) 0 .w8) enums, low (.vxRot (.v 3) (.v 1) (.e 3) 0 .w8) (setE 3 1 enums),
     low (.vxPerm (.v 3) (.v 1) (.v 2) 0 .w8) enums, low (.vxBcast (.v 3) (.e 2) 0 .w8) enums, low (.vxIdx (.v 3) (.e 2) 0 .w8) enums,
     low (.vxIns 3 (.e 2) (.e 3) .w8) (setE 3 65 enums)] =
    [some 0x0180, some 0x8080, some 0x8001, some 0x0001, some 0x0202, some 0x0302, some 0x0200] ∧
    eAfter (.vxExt (.e 4) (.v 1) (.e 2) .w16) enums 4 = some 0x0180 := by decide +kernel

/-- A prefix that is an fmt.set, or none. -/
def govOk (s : State) : Bool := ((curSlot s).ePrefix.map isFmtE).getD true

theorem witness_Conversions :
    (∀ q ∈ [(6, 11, 0), (0, 8, 1), (12, 0, 0), (6, 3, 0), (11, 6, 2)], govOk (preE q.1 q.2.1 q.2.2 enums) = true) ∧ curHart enums < Config.nHarts ∧ (curSlot enums).running = true ∧
    (curSlot enums).ePos.isSome = true ∧ (curSlot enums).ePrefix = none ∧ tord (tableNow enums) = true ∧
    tord (tableNow (ctx 0 (fun c => { c with table := [(0, 0xff800000)] }) enums)) = false ∧
    codeBits 11 ≤ codeBits 11 ∧ codeBits 6 < codeBits 11 ∧ (preE 6 11 2 enums |> fun s => ((curSlot s).ePrefix.map fun w => w.toNat / 2 ^ 7 % 2)) = some 1 ∧
    (curSlot (slot (fun σ => { σ with paired := true }) enums)).paired = true ∧
    readsV (.v 1) .z (heldV (.v 3)) enums = true ∧ got (readE (.e 2) enums) = some 2 ∧ EReady enums ∧ (curSlot enums).paired = false ∧
    got (readE (.e 4) (setE 4 128 enums)) = some 128 ∧ got (readE (.e 4) (setE 4 127 enums)) = some 127 := by
  unfold EReady; decide +kernel

/-- Entry 2 of the decode table written by slot 3 in this cycle. -/
theorem witness_Conversions_laterWrote :
    (let s := hart 0 (fun H => { H with wroteAt := 0, wrote := [(3, 0, 66)] }) enums
     EReady s ∧ got (readE (.e 2) s) = some 2 ∧ laterWrote (64 + 2) s = true ∧
     seen (.cvtTblw (.e 2) (.e 1)) s (fun t => SMap.find 2 (ctxOf t 0 0).table) = some none) ∧ laterWrote (64 + 2) enums = false := by
  unfold EReady; decide +kernel

/-- R267: FP32 1.0 to FP16, to INT8, and back; R164: an entry keeps bits 31 to 13. -/
theorem test_cvt :
    eAfter (.cvtCnvS (.e 3) (.e 1)) (setE 1 0x3f800000 enums) 3 = some 0x3c00 ∧
    eAfter (.cvtFtiS (.e 3) (.e 1)) (preE 0 11 0 (setE 1 0xc0000000 enums)) 3 = some 0xfffffffffffffffe ∧
    eAfter (.cvtItfS (.e 3) (.e 1)) (setE 1 3 enums) 3 = some 0x40400000 ∧
    cause (.cvtEncS (.e 3) (.e 1)) (preE 11 11 0 enums) = some (0x6002, 0x0e2) ∧
    seen (.cvtTblw (.e 2) (.e 1)) enums (fun t => SMap.find 2 (ctxOf t 0 0).table) = some (some 0xffffe000) := by decide +kernel

theorem witness_DotsAndBlocks :
    curHart enums < Config.nHarts ∧ (curSlot enums).running = true ∧ (curSlot enums).ePos.isSome = true ∧ (curSlot enums).ePrefix = none ∧
    govOk (preE 2 5 0 enums) = true ∧ readsV (.v 1) (.v 2) (.v 3, 3) enums = true ∧ readsV (.v 1) .z (heldV (.v 3)) enums = true ∧
    runs (writeV (.v 3) 0 enums) = true := by
  decide +kernel

/-- R275: four INT8 products of lane 0: 0x80 x 1 + 1 x -1, twice. -/
theorem test_dot :
    (vAfter (.vaDot 3 (.v 1) (.v 2) 0) enums 3).map (fun v => v.toNat % 2 ^ 32) = some (2 ^ 32 - 258) ∧
    (vAfter (.vfDot 3 (.v 1) (.v 2) 0 .fp32) (setV 1 0x40000000 (setV 2 0x40400000 enums)) 3) = some 0x40c00000 := by decide +kernel

theorem witness_FrameOfEWords :
    (encodeX (.iaAdd (.e 3) (.e 1) (.e 2))).isSome = true ∧ (after (.iaAdd (.e 3) (.e 1) (.e 2)) enums).isSome = true ∧
    seen (.iaAdd (.e 3) (.e 1) (.e 2)) enums (fun t => ((curSlot t).inTrap, (launchOf t 0).isSome)) = some (false, true) ∧
    (curSlot enums).inTrap = false := by decide +kernel

/-! ## The engines -/

/-- The operand block of an INT8 step at a8: A at 0, B at 0x1000, rows of 32 bytes; a12 = 0x2000 for a drain. -/
def block : State := setA 10 0x1000 (setA 12 0x2000 mem)
/-- The descriptor of an INT8 step of slot 0 of core 0 on accumulator slot 0, and the job. -/
def stepJob : Job := Job.make 0 [0, 0, 0x1000, 0] 11 0 (.slot me) 0
/-- A job of another operation. -/
def jobOf (op : Nat) (ws : List Word) : Job := Job.make (BitVec.ofNat 64 (op * 2 ^ 46)) ws 11 0 (.slot me) 0
/-- The cluster of core 0 with these matrix jobs. -/
def queue (js : List Job) (f : Cluster → Cluster) (s : State) : State := putCluster s 0 (f { Cluster.reset with jobs := js })
/-- Accumulator slot 0 in a state. -/
def acc (a : Acc) (C : Cluster) : Cluster := { C with accs := C.accs.set 0 a }
/-- An integer slot that core 0's slot 0 owns. -/
def mineAcc : Acc := { Acc.reset with state := 1, oact := 1 }

/-- A Kick of slot 0 of core 0. -/
def kick : OpDesc := { kinds := [.kick], scope := .module, sc := false, loc := ⟨regHome 0, 0, 8⟩, space2 := false }
/-- The state that a Kick leaves before its job is submitted. -/
def kicked (s : State) : State := releasePush 0 0 kick (rest (inOrder kick s) s)

theorem witness_MatrixJobsAreSubmitted :
    curHart block < Config.nHarts ∧ (curSlot block).running = true ∧ (curSlot block).path.length < 64 ∧ (curSlot block).sleeping = false ∧
    pairStall block = false ∧ (curSlot block).aPrefix = none ∧ isCompute (curHart block) = true ∧ isCompute (curHart chan) = false ∧
    got (readAReg .z block) = some 0 ∧ got (readBlock 8 4 block) = some [0, 0, 0x1000, 0] ∧
    checkFormats block 0 0 0 0 0 = .ok () ∧ checkFormats block 0 0 11 0 0 = .error ⟨0x6002, 0x0e3, 0⟩ ∧ checkOptions 0 false false false = .ok () ∧
    checkOptions 0 true false false = .ok () ∧ checkOptions 0 false true false = .ok () ∧ checkStep block 0 0 0 0 [0, 0, 0x1000, 0] = .ok () ∧
    checkStep block 0 0 0 0 [0, 1, 0x1000, 0] = .error ⟨0x6002, 0x0d5, 0⟩ ∧ checkDrain block 0 false 0x2000 = .ok () ∧
    checkDrain block 0 false 0x3000000000000000 = .error ⟨0x6006, 3, 0x3000000000000000⟩ ∧ (curSlot block).paired = false ∧
    runs (inOrder kick block) = true ∧ runs (needDst (.a 1) (kicked block)) = true ∧ (clusterOf (kicked block) 0).mxReqs = [] ∧
    refusedOverlap (kicked block) .mxe stepJob = false ∧ winsNow (kicked block) .mxe stepJob = true ∧
    (∀ r ∈ (clusterOf (kicked block) 0).reqs .mxe, r.from me = false) := by
  decide +kernel
theorem witness_MatrixJobsAreSubmitted_wait :
    (let s := queue (List.replicate 16 stepJob) id block
     runs (inOrder kick s) = true ∧ runs (needDst (.a 1) (kicked s)) = true ∧ winsNow (kicked s) .mxe stepJob = false ∧
     refusedOverlap (kicked s) .mxe stepJob = false ∧ (clusterOf (kicked s) 0).mxReqs = [] ∧ (curSlot s).running = true) ∧
    (let s := slot (fun σ => { σ with paired := true, agreed := true }) block
     (curSlot s).agreed = true ∧ runs (inOrder kick s) = true ∧ pairStall s = false ∧ winsNow (kicked s) .mxe stepJob = true) ∧
    (0 : Word).toNat < 2 ^ 56 ∧ stepJob.op ≠ 9 := by decide +kernel

/-- R122 and R286: a step is queued and D takes its identifier; a full queue makes it wait; a channel core has no engine. -/
theorem test_submit :
    seen (.mxqStep (.a 1) 8 .z 0) block (fun t => ((slotOf t 0 0).a[(1 : Fin 16)], (clusterOf t 0).jobs.length, (clusterOf t 0).nextId)) =
      some (0, 1, 1) ∧
    seen (.mxqStep (.a 1) 8 .z 0) (queue (List.replicate 16 stepJob) id block) (fun t => ((slotOf t 0 0).aWait, (clusterOf t 0).mxReqs.length)) =
      some (some .room, 1) ∧
    seen (.mxqReclaim 0) block (fun t => (clusterOf t 0).jobs.map fun j => (j.op, j.desc.toNat / 2 ^ 56)) = some [(9, 0)] := by decide +kernel

/-- a8 points to the source, a9 to the destination, a10 holds the length. -/
def copies (len : Word) : State := setA 8 0 (setA 9 0x1000 (setA 10 len mem))

theorem witness_CopyJobsAreSubmitted :
    AReady (copies 64) ∧ isCompute (curHart (copies 64)) = true ∧ got (readBlock 8 3 (copies 64)) = some [0, 0x1000, 64] ∧
    (∀ op ∈ [0, 1, 2, 3, 5], checkCopy (copies 64) 0 op [0, 0x1000, 64] = .ok ()) ∧
    checkCopy (copies 0) 0 0 [0, 0x1000, 0] = .error ⟨0x6002, 0x0d2, 0⟩ ∧
    checkCopy (copies 64) 0 1 [0, 0x1000, 0x100000040] = .error ⟨0x6002, 0x0d3, 0⟩ ∧ (clusterOf (copies 64) 0).cpReqs = [] ∧
    runs (inOrder kick (copies 64)) = true ∧ runs (needDst (.a 1) (kicked (copies 64))) = true ∧
    (let j := Job.make 0 [0, 0x1000, 64] 0 0 (.slot me) 0
     winsNow (kicked (copies 64)) .cpe j = true ∧ refusedOverlap (kicked (copies 64)) .cpe j = false ∧
     refusedOverlap (kicked (putCluster (copies 64) 0
       { Cluster.reset with cpq := Cluster.reset.cpq.set 1 [Job.make 0x100 [0, 0x1000, 64] 0 0 (.slot me) 0] })) .cpe j = true) := by
  unfold AReady; decide +kernel
/-- A store of a barrier of queue 0 to the copy engine's kick register; one to the matrix engine's that names a reclaim. -/
theorem witness_CopyJobsAreSubmitted_kick :
    (let s := setA 4 0x1000 (setA 7 0x6000000000000100 mem)
     AReady s ∧ got (readA (.a 7) s) = some 0x6000000000000100 ∧ got (storeData (.a 4) 8 s) = some (leBytes 0x1000 8) ∧
     (curSlot s).paired = false ∧ checkPointer s 0x6000000000000100 8 3 true true true = .ok (.reg 0x100) ∧
     (kickJob s .cpe (curIssuer s) 0x1000).toOption.isSome = true ∧
     (let d := accessDesc s .stR .rel .module (regHome 0) 0x100 8 6
      let v := { releasePush 0 0 d (rest (inOrder d s) s) with fresh := s.fresh + 4 }
      let j := Job.make 0x1000 [] 0 0 (.slot me) 0
      runs (inOrder d s) = true ∧ winsNow v .cpe j = true ∧ runs (storeData (.a 4) 8 v) = true ∧ refusedOverlap v .cpe j = false)) ∧
    checkPointer (setA 4 0 mem) 0x6000000000000000 8 3 true true true = .ok (.reg 0) ∧
    (kickJob mem .mxe (curIssuer mem) (BitVec.ofNat 64 (9 * 2 ^ 46))).toOption.isSome = false := by
  unfold AReady; decide +kernel

/-- R299: a copy stands in its queue with its operation. -/
theorem test_copies :
    seen (.cpqAddi (.a 1) 8 2) (copies 64) (fun t => (clusterOf t 0).cpq[(2 : Fin 4)].map fun j => (j.cpOp, j.cpQueue, j.cpId)) =
      some [(3, 2, 0)] ∧
    seen (.cpqBar (.a 1) 1) (copies 64) (fun t => (clusterOf t 0).cpq[(1 : Fin 4)].map (·.cpOp)) = some [4] ∧
    cause (.cpqFill (.a 1) 8 0) (copies 0) = some (0x6002, 0x0d2) := by decide +kernel

/-- a7 points to the matrix engine of cluster 0, a6 to its copy engine. -/
def engines : State := setA 7 0x7b00000000000000 (setA 6 0x7c40000000000000 mem)

theorem witness_PollsSleepsAndRemoteCommands :
    AReady mem ∧ isCompute (curHart mem) = true ∧ runs (inOrder (pollDesc mem) mem) = true ∧ got (readAReg .z mem) = some 0 ∧
    (clusterOf mem 0).named .mxe = [] ∧ ((clusterOf (queue [stepJob] id mem) 0).named .mxe).map (·.1) = [0] ∧ AReady (queue [stepJob] id mem) ∧
    (curSlot mem).sb.length < 16 ∧ AReady engines ∧ got (readAReg (.a 7) engines) = some 0x7b00000000000000 ∧
    (spaceOf 0x7b00000000000000 = 7 ∧ indexOf 0x7b00000000000000 = 0xb0000 ∧ indexOf 0x7c40000000000000 = 0xc4000) ∧
    indexOf 0x7aff000000000000 < 0xb0000 ∧ got (portDest 0x7b00000000000000 engines) = some 0xb0000 ∧ runs (readBlock 1 7 engines) = true ∧
    (curCtx engines).sseq < 4096 ∧ answerPending engines 0 0 = false ∧ isFmtA 0x40000000 = true := by
  unfold AReady; decide +kernel

/-- Two entries hold identifier 0: the older one has finished and has not reported, the newer one has not started. -/
def twoNamed : State := queue [{ stepJob with started := true, done := some none, num := 1 }, { stepJob with num := 2 }] id mem
theorem witness_PollsSleepsAndRemoteCommands_newest :
    AReady twoNamed ∧ ((clusterOf twoNamed 0).named .mxe).map (fun x => (x.1, x.2.num)) = [(0, 1), (0, 2)] ∧
    aAfter (.mxqPoll (.a 1) .z) twoNamed 1 = some 0 := by
  unfold AReady; decide +kernel

/-- R124 and R298. -/
theorem test_poll :
    [aAfter (.mxqPoll (.a 1) .z) mem 1, aAfter (.mxqPoll (.a 1) (.a 4)) mem 1, aAfter (.mxqPoll (.a 1) .z) (queue [stepJob] id mem) 1,
     aAfter (.cpqPoll (.a 1) (.a 4)) mem 1] = [some 3, some 2, some 0, some 2] ∧
    seen (.mxqSleep .z) (queue [stepJob] id mem) (fun t => (slotOf t 0 0).sb.map fun e => (e.kind, e.info)) = some [(3, 0)] ∧
    seen (.mxqRcmd 1 (.a 7)) engines (fun t => t.net.map fun i => match i.op with | .msg d h ws => (d, h, ws.length) | _ => (0, 0, 0)) =
      some [(0xb0000, 0x0071000000000000, 7)] ∧
    cause (.cpqRcmd 1 (.a 6)) (preA 0x40000000 engines) = some (0x6002, 0x0e6) := by decide +kernel

theorem witness_MatrixJobsRun :
    (∀ f ∈ [id, acc mineAcc], headFrom 0 (clusterOf (queue [stepJob] f block) 0).jobs = some (0, stepJob)) ∧
    owns ((clusterOf (queue [stepJob] (acc mineAcc) block) 0).accs[stepJob.acc]) stepJob = true ∧
    owns { mineAcc with oslot := 2 } stepJob = false ∧ stepJob.started = false ∧ stepJob.op = 0 ∧ mineAcc.draining = false ∧
    engineHeld (queue [stepJob] id block) stepJob.own = false ∧
    (let s := queue [jobOf 8 [0x2000]] (acc mineAcc) block
     headFrom 0 (clusterOf s 0).jobs = some (0, jobOf 8 [0x2000]) ∧ (jobOf 8 [0x2000]).op = 8 ∧
     (∀ x ∈ (clusterOf s 0).jobs, x.draining = false) ∧ writeBlocked s 0 0 0x2000 (drainBytes (clusterOf s 0) (jobOf 8 [0x2000])).length = none) ∧
    (let j := { jobOf 8 [0x2000] with started := true }
     let s := queue [j] (acc { mineAcc with draining := true }) block
     findJob Job.draining 0 (clusterOf s 0).jobs = some (0, j) ∧ engineHeld s j.own = false ∧
     owns (clusterOf s 0).accs[j.acc] j = true ∧ (clusterOf s 0).accs[j.acc].state = 1 ∧
     writeBlocked s 0 0 0x2000 (drainBytes (clusterOf s 0) j).length = none ∧
     Memory.wf (ctxOf (recallRange s 0 0 0x2000 (drainBytes (clusterOf s 0) j).length) 0 0).scratch = true) ∧
    (jobOf 9 []).op = 9 ∧ (jobOf 9 []).acc = 0 ∧ headFrom 0 (clusterOf (queue [jobOf 9 []] id block) 0).jobs = some (0, jobOf 9 []) ∧
    (let j := { stepJob with started := true, sums := [1] }
     headFrom 0 (clusterOf (queue [j] (fun C => { acc mineAcc C with cstall := true }) block) 0).jobs = some (0, j)) := by decide +kernel

theorem witness_MatrixJobsRun_step :
    (gatherStep (queue [stepJob] id block) stepJob (List.range (8 * (stepK stepJob.fmtA / 8)))).toOption.isSome = true ∧
    (match commitInt (clusterOf (queue [stepJob] id block) 0) stepJob [3] with
     | .done _ => true
     | _ => false) = true := by decide +kernel

/-- What an integer step does: 0 for a commit, 1 for a stall, 2 and a DETAIL for CARRY_FULL. -/
def commits (C : Cluster) (j : Job) (sums : List Int) : Nat × BitVec 12 :=
  match commitInt C j sums with
  | .done _ => (0, 0)
  | .stall => (1, 0)
  | .full d => (2, d)
/-- Cell 0 of slot 0 at its largest value, with these carry entries and jobs. -/
def brim (cs : List Carry) (js : List Job) : Cluster :=
  { acc { mineAcc with cells := [(0, 0x7fffff)] } Cluster.reset with carries := cs, jobs := js }
/-- 256 entries of slot 1, and a drain of slot 1 queued. -/
def taken1 : List Carry := (List.range 256).map fun i => ⟨1, i, 1⟩
def drain1 : Job := Job.make (BitVec.ofNat 64 (8 * 2 ^ 46 + 2 ^ 43)) [0x2000] 11 0 (.slot me) 0
/-- A count that overflows; a new entry with room, with a full buffer that a queued drain will empty, and without; a limit. -/
theorem witness_MatrixJobsRun_carries :
    drain1.acc = 1 ∧ (wrapCell ((brim [] []).accs[(0 : Fin 8)].cell 0) 1).2 = 1 ∧ (brim [⟨0, 0, 127⟩] []).countOf 0 0 = some 127 ∧
    commits (brim [⟨0, 0, 127⟩] []) stepJob [1] = (2, 0x002) ∧ commits (brim [] []) stepJob [1] = (0, 0) ∧
    ((brim taken1 []).cbused = 256 ∧ (brim taken1 []).carriesOf 0 = 0 ∧ drainQueued (brim taken1 [drain1]) 0 = true) ∧
    commits (brim taken1 [drain1]) stepJob [1] = (1, 0) ∧ commits (brim taken1 []) stepJob [1] = (2, 0) ∧
    commits (brim taken1 []) { stepJob with desc := BitVec.ofNat 64 (2 ^ 26) } [1] = (2, 1) := by
  decide +kernel

/-- A step of mxq.steps whose skip list, at 0x500, is one run of four present granules; a run of four skipped ones. -/
def sparseJob : Job := jobOf 4 [0, 0, 0x1000, 0]
def sparse (e : Nat) : State :=
  queue [sparseJob] id (bytes 0 0x500 1 e (slot (fun σ => { σ with sm := σ.sm.set 0 0x1000000040500 }) block))
def walked (e : Nat) : State := recallRuns (sparse e) 0 0 4 0x1000000040500
theorem witness_MatrixJobsRun_sparse :
    headFrom 0 (clusterOf (sparse 3) 0).jobs = some (0, sparseJob) ∧ sparseJob.op = 4 ∧ engineHeld (sparse 3) 0 = false ∧
    jobLaunch (sparse 3) sparseJob = 0 ∧ intMode sparseJob.fmtA = true ∧ streamOf (sparse 3) sparseJob = 0x1000000040500 ∧
    (clusterOf (walked 3) 0).accs[(0 : Fin 8)].state = 0 ∧ streamOf (walked 3) sparseJob = 0x1000000040500 ∧
    (readRuns (walked 3) 0 0 4 4 0x1000000040500).toOption = some (List.replicate 4 true, 0x40501) ∧
    (gatherStep (walked 3) sparseJob (presentOf (List.replicate 4 true))).toOption.isSome = true ∧
    (readRuns (sparse 131) 0 0 4 4 0x1000000040500).toOption = some (List.replicate 4 false, 0x40501) ∧
    (readRuns (sparse 4) 0 0 4 4 0x1000000040500).toOption = none ∧
    ((0x1000000040500 : Word).extractLsb' 48 16 ≠ 0 ∧ (0x1000000040500 : Word).extractLsb' 46 2 = 0 ∧
     ((0x1000000040500 : Word).extractLsb' 0 18).toNat < Config.scratchBytes ∧ 3 < 3 % 128 + 1 ∧ 3 % 128 + 1 ≤ 4) := by decide +kernel

/-- Drains of a free slot and of a float slot, in FP32 and with the code 32, which a float slot does not take. -/
theorem witness_MatrixJobsRun_drains :
    (let s := queue [jobOf 8 [0x2000]] id block
     headFrom 0 (clusterOf s 0).jobs = some (0, jobOf 8 [0x2000]) ∧ (clusterOf s 0).accs[(0 : Fin 8)].state = 0 ∧ engineHeld s 0 = false ∧
     writeBlocked s 0 0 (0x2000 + 1024 * 4) 8 = none ∧ Memory.wf (ctxOf (recallRange s 0 0 (0x2000 + 1024 * 4) 8) 0 0).scratch = true ∧
     seen (.mxeDrainJob 0) s (fun t => Memory.readN (ctxOf t 0 0).scratch 0x3000 8) = some 512) ∧
    (let A := { mineAcc with state := 2 }
     let s := queue [jobOf 8 [0x2000]] (acc A) block
     owns A (jobOf 8 [0x2000]) = true ∧ A.state = 2 ∧ (jobOf 8 [0x2000]).fd ≠ 32 ∧ (∀ x ∈ (clusterOf s 0).jobs, x.draining = false) ∧
     writeBlocked s 0 0 0x2000 (drainBytes (clusterOf s 0) (jobOf 8 [0x2000])).length = none ∧
     seen (.mxeDrainJob 0) s (fun t => (clusterOf t 0).accs[(0 : Fin 8)].draining) = some true) ∧
    (let j := { jobOf 8 [0x2000] with fd := 32 }
     let s := queue [j] (acc { mineAcc with state := 2 }) block
     headFrom 0 (clusterOf s 0).jobs = some (0, j) ∧ owns { mineAcc with state := 2 } j = true ∧ j.fd = 32 ∧
     seen (.mxeDrainJob 0) s (fun t => (clusterOf t 0).jobs.map fun x => x.done.map fun f => f.map (·.detail)) = some [some (some 0x045)]) := by
  decide +kernel

/-- R293: A starts with 2 and 4, the first column of B with 3 and -1. -/
theorem test_step_sum :
    (gatherStep (queue [stepJob] id (bytes 0 0 2 0x0402 (bytes 0 0x1000 1 3 (bytes 0 0x1020 1 0xff block)))) stepJob (List.range 32)).toOption.map
      (fun g => g.1.sum 0 0 0) = some 2 := by decide +kernel

/-- R293 and R296: a reclaim frees an orphaned slot and refuses an owned one; 24-bit cells with their carries as they drain. -/
theorem test_matrix :
    seen (.mxeReclaimJob 0) (queue [jobOf 9 []] (acc { mineAcc with state := 3 }) block) (fun t => (clusterOf t 0).accs[(0 : Fin 8)].state) =
      some 0 ∧
    seen (.mxeReclaimJob 0) (queue [jobOf 9 []] (acc mineAcc) block) (fun t => ((clusterOf t 0).jobs.map (·.done))) =
      some [some (some ⟨0x6011, 0x041, BitVec.ofNat 64 (9 * 2 ^ 46)⟩)] ∧
    drainInt 0xffffff 1 true = (2 ^ 24 - 1, false) ∧ drainInt 0x800000 (-200) false = (0x80000000, true) := by decide +kernel

/-- A copy command of 64 bytes in queue 0. -/
def copyJob (op : Nat) : Job := Job.make (BitVec.ofNat 64 (op * 2 ^ 10)) [0, 0x1000, 64] 0 0 (.slot me) 0
/-- It stands at the head of queue 0 of cluster 0. -/
def command (op : Nat) (s : State) : State := putCluster s 0 { Cluster.reset with cpq := Cluster.reset.cpq.set 0 [copyJob op] }
/-- The same with an eight-byte pattern in its first word. -/
def command' (op : Nat) (s : State) : State :=
  putCluster s 0 { Cluster.reset with cpq := Cluster.reset.cpq.set 0 [{ copyJob op with words := [if op = 5 then 0x200000001 else 0, 0x1000, 64] }] }
/-- A request of slot 0 of core 0. -/
def asked : Request := ⟨0, 0, stepJob, .a 1, .z⟩
/-- It stands at the matrix engine since the cycle before. -/
def standing : State := { waits .room (putCluster mem 0 { Cluster.reset with mxReqs := [asked] }) with cycle := 1 }

theorem witness_CopyJobsRunAndJobsReport :
    (∀ op ∈ [0, 1, 2, 3, 4, 5], runnable (command op mem) 0 0 = some (copyJob op) ∧ (copyJob op).cpOp = op) ∧
    commandRefused (command 0 mem) 0 (copyJob 0) = none ∧ (commandRefused (command 0 (empty 0 0x1000 mem)) 0 (copyJob 0)).isSome = true ∧
    engineHeld (command 0 mem) 0 = false ∧ commandHeld (command 0 mem) 0 (copyJob 0) = false ∧ commandUnowned (command 0 mem) 0 (copyJob 0) = none ∧
    (let j : Job := { copyJob 0 with words := [0x1000100000000000, 0x1000, 64] }
     let s (t : Option Nat) (n : Nat) := { putCluster mem 0 { Cluster.reset with cpq := Cluster.reset.cpq.set 0 [{ j with tried := t }] } with cycle := n }
     runnable (s none 0) 0 0 = some j ∧ commandUnowned (s none 0) 0 j = some 0x1000100000000000 ∧
     runnable (s (some 0) 65535) 0 0 = some { j with tried := some 0 } ∧ commandHeld (s (some 0) 65535) 0 j = false ∧
     commandUnowned (s (some 0) 65536) 0 { j with tried := some 0 } = some 0x1000100000000000) ∧
    runnable mem 0 0 = none ∧ inSequence (command 1 mem) (copyJob 1) = false ∧
    (let s := standing
     (clusterOf s 0).offer .mxe 1 = some asked ∧ (clusterOf s 0).acceptedAt .mxe = none ∧ asked.data = .z ∧ clusterOfCore me.hart = 0 ∧ curIssuer { s with cur := (0, 0, .aSide) } = me ∧
     refusedOverlap s .mxe asked.job = false ∧ asked.job.op < 4) ∧ (clusterOf mem 0).offer .mxe 0 = none ∧
    ((clusterOf (queue [stepJob.finish none] id mem) 0).jobs[0]?.map (·.done)) = some (some none) := by decide +kernel
theorem witness_CopyJobsRunAndJobsReport_arrivals :
    (let it : NetItem := { item (.seqReduce 0 0 3 0 Config.nCompute [(0x4000000000000000, List.replicate 64 1)]) with src := ⟨0, 0, 8, 0⟩ }
     let s := { chan with net := [it] }
     s.net[0]? = some it ∧ extentOf s 0 0x4000000000000000 = some ext ∧ pageHeld s 0 = false ∧
     partRefused { s with net := [] } 0 [(0x4000000000000000, List.replicate 64 1)] = none ∧ (partRefused { s with net := [] } 0 [(0x4000000000010000, List.replicate 64 1)]).isSome = true ∧
     SMap.getD (ctxOf s Config.nCompute 0).seqNext 0 0 = 0 ∧ (ctxOf s Config.nCompute 0).seqHeld = []) ∧
    ((1 : BitVec 16) - 0).toNat < 2 ^ 15 ∧ 2 ^ 15 ≤ ((0xffff : BitVec 16) - 0).toNat ∧
    (let s := flying (.msg 0xb0000 0x0071000000000000 (List.replicate 7 0)) (queue [] (fun C => { C with own := 5 }) mem)
     portEngine 0xb0000 = some (.mxe, 0) ∧ (SMap.find 0 s.clusters).isSome = true ∧ (0 : Word).extractLsb' 0 48 ≠ (clusterOf s 0).own) ∧
    (let s := flying (.kickStore .cpe 0x1000) mem
     mayPerform s (item (.kickStore .cpe 0x1000)) = true ∧ (kickJob s .cpe me 0x1000).toOption.isSome = true ∧
     (clusterOf s 0).takes .cpe 0 0 (Job.make 0x1000 [] 0 0 (.slot me) 0) = true ∧
     ({ Cluster.reset with cpAccepted := some 0 } : Cluster).takes .cpe 0 0 (Job.make 0x1000 [] 0 0 (.slot me) 0) = false) := by
  decide +kernel

/-- Two finished jobs of a queue, of which the first reports first; a finished copy command; a reply at an engine port. -/
theorem witness_CopyJobsRunAndJobsReport_reports :
    (let j := stepJob.finish none
     let k := { stepJob.finish none with num := 1 }
     let s := queue [j, k] id mem
     (clusterOf s 0).jobs[0]? = some j ∧ (clusterOf s 0).jobs[1]? = some k ∧ j.rep = .slot me ∧ firstReport s (clusterOf s 0).jobs = some j ∧
     firstReport s (clusterOf s 0).jobs ≠ some k) ∧
    (let j := (copyJob 0).finish none
     let s := putCluster mem 0 { Cluster.reset with cpq := Cluster.reset.cpq.set 0 [j] }
     ((clusterOf s 0).cpq.toList.flatMap id)[0]? = some j ∧ j.done = some none ∧ j.rep = .slot me ∧ j.cpQueue = 0 ∧
     firstReport s (clusterOf s 0).cpq[(0 : Fin 4)] = some j) ∧
    ((0x0022000000000000 : Word).extractLsb' 48 4 = 2 ∧ portEngine 0xb0000 = some (.mxe, 0) ∧
     seen (.remoteCommandArrival 0) (flying (.msg 0xb0000 0x0022000000000000 [0, 0]) mem) (fun t => t.net.map (·.op)) =
       some [.accept 7]) := by decide +kernel
/-- A store to a kick register: one that another core may still come before, and one that has met the engine in an earlier cycle. -/
theorem witness_CopyJobsRunAndJobsReport_kicks :
    (let s := putSlot (putCluster (flying (.kickStore .cpe 0x1000) mem) 0 { Cluster.reset with cpLastPos := 0 }) 1 0 (slotOf mem 0 0)
     mayPerform s (item (.kickStore .cpe 0x1000)) = true ∧ (item (.kickStore .cpe 0x1000)).met = none ∧
     (kickJob s .cpe me 0x1000).toOption.isSome = true ∧ mayComeFirst s 0 .cpe 0 (remoteComing s 0 .cpe) = true ∧
     seen (.kickRegisterStore 0) s (fun t => t.net.map (·.met)) = some [some 0]) ∧
    (let it := { item (.kickStore .cpe 0x1000) with met := some 0 }
     let s := { mem with net := [it], cycle := 1 }
     let j := Job.make 0x1000 [] 0 0 (.slot me) 0
     mayPerform s it = true ∧ metBefore s it = true ∧ (∀ r ∈ (clusterOf s 0).reqs .cpe, r.pos ≠ 0) ∧ (clusterOf s 0).takes .cpe 1 0 j = true ∧
     seen (.kickRegisterStore 0) s (fun t => (clusterOf t 0).cpq[(0 : Fin 4)].length) = some 1) ∧
    (let it := { item (.kickStore .cpe 0x1000) with met := some 0 }
     let s := putCluster { mem with net := [it], cycle := 1 } 0 { Cluster.reset with cpAccepted := some 1 }
     metBefore s it = true ∧ (clusterOf s 0).takes .cpe 1 0 (Job.make 0x1000 [] 0 0 (.slot me) 0) = false) := by decide +kernel

/-- R299 and R300: 64 bytes added as INT32 lanes, and filled; a request accepted; a job reported to a sleeper. -/
theorem test_copy_jobs :
    (let s := bytes 0 0 8 0x0000000200000001 (bytes 0 0x1000 8 0x00000001ffffffff mem)
     let r (i : Instr) (op : Nat) := seen i (command' op s) fun t => Memory.readN (ctxOf t 0 0).scratch 0x1000 8
     [r (.cpeReduceJob 0 0) 3, r (.cpeFillJob 0 0) 5] = [some 0x0000000300000000, some 0x0000000200000001]) ∧
    seen (.engineJobAccept 0 .mxe) standing
      (fun t => ((clusterOf t 0).jobs.length, (slotOf t 0 0).aWait, (slotOf t 0 0).pc)) = some (1, none, 1) ∧
    seen (.engineCompletionReport 0 .mxe 0) (queue [stepJob.finish none] id (slot (fun σ => { σ with sb := [SbEntry.plain 5 3 0] }) mem))
      (fun t => ((clusterOf t 0).jobs.length, (slotOf t 0 0).sb.length)) = some (0, 0) := by decide +kernel

/-! ## Capsule images -/

/-- An image of the plain capsule, without arguments, under the seal key 0: seven words of the header, zeros, and the seal. -/
def front : List Byte :=
  ([0x314e585a00000101, 0x40100, 0, 0, 0x001001001001, 0x001001001001, 0x20000000] : List Word).flatMap fun w => leBytes w.toNat 8
def sealBytes : List Byte :=
  [163, 222, 61, 58, 64, 227, 254, 24, 42, 178, 121, 89, 54, 254, 153, 78, 88, 192, 115, 19, 147, 103, 30, 211, 203, 210, 66, 249, 76,
    145, 6, 161]
def image : List Byte := front ++ (List.replicate 2376 (0 : Byte) ++ sealBytes)
/-- A memory that holds the image at 0x2000. -/
def imageMem : Memory := Memory.writeBytes (Memory.writeBytes [] 0x2000 front) 0x2980 sealBytes
/-- The grant of digest 0, checked before, with the seal key 0. -/
def grant : CachedGrant := { digest := 0, owner := 0, serial := 0, ranges := [], sealKey := 0 }
/-- The capsule of the image, presented by launch 0, or by queue 0 with STATUS 0x3000 and TAG 7. -/
def byLaunch : Capsule := readCapsule image (.launchBy 0)
def byQueue : Capsule := readCapsule image (.queue 0 0x3000 7 0)

theorem stored_image : Memory.bytes imageMem 0x2000 0x9a0 = image := by
  have a : Memory.bytes imageMem 0x2000 56 = front := by decide +kernel
  have b : Memory.bytes imageMem 0x2038 2376 = List.replicate 2376 0 := by
    rw [imageMem, Memory.bytes_writeBytes_outside _ _ _ _ _ (by decide), Memory.bytes_writeBytes_outside _ _ _ _ _ (by decide),
      Memory.bytes_nil]
  have c : Memory.bytes imageMem 0x2980 32 = sealBytes := by decide +kernel
  rw [show 0x9a0 = 56 + (2376 + 32) from rfl, Memory.bytes_append, a, Memory.bytes_append, b, c, image]
theorem image_fields : fieldsRefused image 0x9a0 = none := by decide +kernel
theorem image_length : image.length = 0x9a0 := by decide +kernel
theorem image_sealed : sealOk (keyBytes 0) sealText image = true := by
  simp only [sealOk, kmac256, sponge256_eq]; decide +kernel
theorem image_digest :
    (tableDigest image).toNat = 48757921978355353528328061472315305116475296787071746467517158819651988163577 := by
  simp only [tableDigest, shake256, sponge256_eq]; decide +kernel
theorem image_grant : digestOf (sliceOf image 0x120 32) = 0 := by decide +kernel
/-- The header of the image, word by word. -/
def header : Vector Word 32 :=
  #v[0x314e585a00000101, 0x40100, 0, 0, 0x001001001001, 0x001001001001, 0x20000000, 0, 0, 0, 0, 0, 0, 0, 0, 0, 0, 0, 0, 0, 0, 0, 0, 0, 0,
    0, 0, 0, 0, 0, 0, 0]
theorem image_header : byLaunch.hdr = header := by decide +kernel
/-- The checks of order 5 read the header only. -/
theorem shape_of_header (c : Capsule) : shapeRefused c = shapeRefused { plainCapsule with hdr := c.hdr } := rfl
theorem shape_of_image : shapeRefused { plainCapsule with hdr := header } = none := by decide +kernel
theorem image_shape (o : Origin) : shapeRefused (readCapsule image o) = none := by
  have h : (readCapsule image o).hdr = header := image_header
  rw [shape_of_header, h, shape_of_image]
theorem image_residue (o : Origin) : (readCapsule image o).residue = false := by
  have h : (readCapsule image o).hdr = header := image_header
  rw [show (readCapsule image o).residue = ({ plainCapsule with hdr := (readCapsule image o).hdr } : Capsule).residue from rfl, h]; decide

/-- Admission when no check refuses. -/
theorem admitted (s : State) (bs : List Byte) (n : Nat) (o : Origin) (g : CachedGrant) (hf : fieldsRefused bs n = none)
    (hg : checkGrant s (readCapsule bs o).grantDig = .ok (g, s)) (hr : (readCapsule bs o).residue = false)
    (hk : sealOk (keyBytes g.sealKey) sealText bs = true) (hs : shapeRefused (readCapsule bs o) = none) :
    admitImage s bs n o = .ok ({ readCapsule bs o with ranges := g.ranges, grantOwner := g.owner }, s) := by
  have h : sealRefused (readCapsule bs o) g.sealKey bs = none := by simp [sealRefused, hr, hk]
  simp only [admitImage, hf, hg, h, hs]
/-- A cached grant is found. -/
theorem grant_found (s : State) (g : CachedGrant) (d : BitVec 256) (hc : s.cache = [g]) (hd : d = g.digest) (hm : s.minSerial = []) :
    checkGrant s d = .ok (g, s) := by
  simp [checkGrant, hc, hd, serialRevoked, hm, SMap.getD, SMap.find]
/-- The image is admitted in a state whose cache holds its grant. -/
theorem image_admitted (s : State) (o : Origin) (hc : s.cache = [grant]) (hm : s.minSerial = []) :
    admitImage s image 0x9a0 o = .ok (readCapsule image o, s) :=
  admitted s image 0x9a0 o grant image_fields (grant_found s grant _ hc image_grant hm) (image_residue o) image_sealed (image_shape o)

/-- Launch 0 with an extent in host memory at 0x2000 that holds the image; a1 points to it, a2 holds its length, a4 = 0. -/
def shows : State :=
  setA 1 0x4000000000000000 (setA 2 0x9a0 (setA 4 0 (launch (fun l =>
    { l with extents := [{ ext with base := 0x2000, host := true, rights := 1 }] }) { demo with cache := [grant] })))
/-- The same with the image in host memory. -/
def holds : State := { shows with hostMem := imageMem }
/-- The same, launch 0 chaining to the image: its chain block holds the table digest. -/
def chains : State :=
  launch (fun l =>
    { l with
      cap := { l.cap with
        chain := #v[0xf7f9772638ef0bf9, 0xc538c36596eb77be, 0xe01cdbf147e43c49, 0x6bcc0180f7f1a2d9, 0, 0, 0, 0] } }) holds

/-! ## System words -/

/-- Slot 1 of core 0 holds a late fault of launch 0. -/
def another (s : State) : State :=
  putSlot s 0 1 { slotOf s 0 0 with act := 2, late := [(none, ⟨0x6007, 3, 0x401⟩)] }

theorem witness_SystemWords :
    AReady demo ∧ (launchOf demo (curLaunch demo)).isSome = true ∧
    (((0x60050001 : Word).extractLsb' 16 16).toNat = 0x6005) ∧ got (readA (.a 1) (setA 1 0x60050001 demo)) = some 0x60050001 ∧
    got (readA .z demo) = some 0 ∧ ¬ 0x6001 ≤ ((0 : Word).extractLsb' 16 16).toNat ∧
    (launchOf demo 0).map (·.cap.counters) = some [] ∧
    ((launchOf demo 0).bind fun l => l.handler 0).isSome = true ∧ ((launchOf demo 0).bind fun l => l.handler 5).isSome = false ∧
    got (ownOffset 0x400 32 0x020 demo) = some 0x400 ∧ (launchOf demo 0).bind (·.lastDigest) = none ∧
    runs (inOrder { kinds := [.ld], scope := .core, sc := false, loc := ⟨0, 0x400, 32⟩, space2 := false } demo) = true ∧
    runs (ownBytesAt 0x400 32 demo) = true ∧ (curSlot demo).paired = false ∧
    (curSlot (slot (fun σ => { σ with paired := true }) demo)).paired = true ∧
    lateOf (another demo) 0 0 0 = [(0, ⟨0x6007, 3, 0x401⟩)] ∧ AReady (another demo) := by
  unfold AReady; decide +kernel

theorem witness_SystemWords_image : AReady shows ∧ AReady holds ∧ AReady chains ∧
    (hartOf holds 0).l1 = [] ∧ fenceDone holds 0 0 .module = true ∧ holds.waitList = [] ∧ (curSlot holds).paired = false ∧
    got (readA (.a 1) holds) = some 0x4000000000000000 ∧ got (readA (.a 2) holds) = some 0x9a0 ∧
    got (readImage 0x4000000000000000 0 holds) = some [] ∧
    got (readA .z holds) = some 0 ∧ spaceOf 0 ≠ 4 ∧ unplaceable holds byLaunch = false ∧
    unplaceable { holds with drain := true } byLaunch = true ∧ waitRoom { holds with waitList := List.replicate 256 plainCapsule } = false ∧
    ((launchOf holds 0).map fun l => (l.cancelled, l.preempting)) = some (false, false) ∧
    ((launchOf (launch (fun l => { l with preempting := true }) holds) 0).map fun l => l.preempting) = some true ∧
    (curSlot (slot (fun σ => { σ with paired := true, agreed := true }) holds)).agreed = true ∧ waitRoom holds = true ∧
    ((launchOf (launch (fun l => { l with cancelled := true }) holds) 0).map fun l => l.cancelled) = some true ∧
    (match admitImage holds [] 0 (.launchBy 0) with
      | .error x => some x
      | .ok _ => none) = some (codeReserved, 0xfff) := by
  unfold AReady; decide +kernel

set_option maxRecDepth 20000 in
theorem read_image (m : Memory) : readImage 0x4000000000000000 0x9a0 { shows with hostMem := m } =
    .ok (Memory.bytes m 0x2000 0x9a0, { shows with hostMem := m }) := by rfl
theorem witness_SystemWords_read : readImage 0x4000000000000000 0x9a0 holds = .ok (image, holds) := by
  have h := read_image imageMem
  rw [stored_image] at h
  exact h
theorem holds_cache : holds.cache = [grant] ∧ holds.minSerial = [] ∧ chains.cache = [grant] ∧ chains.minSerial = [] := by
  decide +kernel
theorem witness_SystemWords_admitted : admitImage holds image image.length (.launchBy 0) = .ok (byLaunch, holds) :=
  image_length ▸ image_admitted holds (.launchBy 0) holds_cache.1 holds_cache.2.1
theorem witness_SystemWords_chained : admitImage chains image image.length (.launchBy 0) = .ok (byLaunch, chains) :=
  image_length ▸ image_admitted chains (.launchBy 0) holds_cache.2.2.1 holds_cache.2.2.2

/-- A chain that names no capsule is refused with 0x001. -/
theorem witness_SystemWords_chain : (∀ l, launchOf holds 0 = some l → chainRefused l image byLaunch = some 0x001) ∧
    ∀ l, launchOf chains 0 = some l → chainRefused l image byLaunch = none := by
  constructor <;> intro l h <;> simp only [chainRefused, image_digest] <;> cases h <;> decide +kernel

/-- Slot 1 of core 0 issues a chain while slot 0 waits in one; a mask that a higher slot has written in this cycle. -/
def chains2 : State := { waits (.chain false (.a 1) (.a 2) none) (both id chains) with cur := (0, 1, .aSide) }
theorem chains2_cache : chains2.cache = [grant] ∧ chains2.minSerial = [] := by decide +kernel
theorem witness_SystemWords_turns :
    admitImage chains2 image 0x9a0 (.launchBy 0) = .ok (byLaunch, chains2) ∧
    (AReady chains2 ∧ yieldsChain chains2 none = true ∧ waitRoom chains2 = true ∧ yieldsChain chains none = false) ∧
    (let s := hart 0 (fun H => { H with wroteAt := 0, wrote := [(3, 0, 0)] }) (setA 1 1 demo)
     AReady s ∧ laterWrote 0 s = true ∧ seen (.sysChmask .z (.a 1)) s (fun t => (ctxOf t 0 0).masks) = some 0) ∧
    laterWrote 0 demo = false :=
  ⟨image_admitted chains2 (.launchBy 0) chains2_cache.1 chains2_cache.2, by unfold AReady; decide +kernel, by unfold AReady; decide +kernel,
    by decide +kernel⟩

/-- R310: sys.fail ends the launch with the code of S; R312: masks, and the digest of 32 zeros under step 7; R311: outside space
4 an image is refused. -/
theorem test_system :
    seen (.sysFail (.a 1)) (setA 1 0x60050001 demo) (fun t => (t.launches.length, t.faultLog.map fun r => (r.code, r.detail))) =
      some (0, [(0x6005, 1)]) ∧
    seen (.sysChmask .z (.a 1)) (setA 1 1 demo) (fun t => (ctxOf t 0 0).masks) = some 1 ∧
    seen (.sysDigest (.a 1) (.a 2)) (setA 1 0x400 (setA 2 7 demo)) (fun t => (launchOf t 0).map (·.digests)) = some (some []) ∧
    cause (.sysCancel (.a 1)) (setA 1 5 demo) = some (codeCapability, 1) ∧
    cause (.sysChain (.a 4) (.a 2)) holds = some (codeSpace, 0) := by decide +kernel
/-- R312: with a replica the digest of 32 zeros under step 7 is kept. -/
theorem test_digest :
    seen (.sysDigest (.a 1) (.a 2)) { setA 1 0x400 (setA 2 7 demo) with replicated := true } (fun t => (launchOf t 0).map (·.digests)) =
      some (some [(7, 0, 0)]) := by decide +kernel

/-! ## Queues, launches and plats -/

/-- Queue 0 with a ring of two entries at 0x1000, its read index at 0x500, and this packet presented to it. -/
def packet (ws : List Word) : State :=
  { holds with
    queues := [(0, { ring := 0x1000, log2 := 1, rdAddr := 0x500, rd := 0, wr := 1, error := false, wait := none, open' := [] })]
    hostMem := Memory.writeBytes holds.hostMem 0x1000 (ws.flatMap fun w => leBytes w.toNat 8) }
/-- Packets of TYPE 0 to 3, with TAG 7 and STATUS 0x3000: a nop, a launch of the image, a wait for counter 5 to reach 2, a cancel of
counter 5; and one with a bit of its word 0 that must be zero. -/
def nop : State := packet [0x700000000, 0, 0, 0x3000]
def launches : State := packet [0x700000001, 0x2000, 0x9a0, 0x3000]
def waiting : State := packet [0x700000002, 5, 2, 0x3000]
def cancels : State := packet [0x700000003, 5, 0, 0x3000]
def malformed : State := packet [0x700000400, 0, 0, 0x3000]
/-- Its queue. -/
def uq (s : State) : UserQueue := (SMap.find 0 s.queues).getD ⟨0, 0, 0, 0, 0, false, none, []⟩
/-- Nothing holds its packet back. -/
def free (s : State) : Bool :=
  (uq s).wait.isNone && (uq s).rd != (uq s).wr && waitRoom s && !(packetWords s (uq s))[0].getLsbD 8
/-- The packet, its words read back. -/
def words (s : State) : List Word := (packetWords s (uq s)).toList
/-- A counter changed. -/
def counter (k : Nat) (f : Counter → Counter) (s : State) : State := modCounter s k f
/-- The state in which the packet of a launch is admitted. -/
def presented (s : State) : State := openPacket { present s 0 (uq s) with nextPacket := s.nextPacket + 1 } 0 s.nextPacket

theorem witness_PacketsOfHostQueues :
    (∀ s ∈ [nop, launches, waiting, cancels, malformed], free s = true) ∧
    [nop, launches, waiting, cancels].map (fun s => packetRefused (packetWords s (uq s))) = [none, none, none, none] ∧
    packetRefused (packetWords malformed (uq malformed)) = some 0 ∧
    [nop, launches, waiting, cancels, malformed].map (fun s => pktType (packetWords s (uq s))) = [0, 1, 2, 3, 0] ∧
    2 ^ (uq nop).log2 < ((3 : BitVec 32) - (uq nop).rd).toNat ∧ ((2 : BitVec 32) - (uq nop).rd).toNat ≤ 2 ^ (uq nop).log2 ∧
    (uq { nop with queues := [(0, { uq nop with error := true })] }).error = true ∧ (uq nop).error = false ∧
    free { nop with queues := [(0, { uq nop with wr := 0 })] } = false ∧
    unplaceable (presented launches) byQueue = false ∧ launches.outOfService = false ∧
    unplaceable (presented { launches with drain := true }) byQueue = true ∧
    (uq { waiting with queues := [(0, { uq nop with wait := some (5, 2, 0x3000, 7) })] }).wait = some (5, 2, 0x3000, 7) ∧
    ((counterOf (counter 5 (fun c => { c with ended := 3 }) waiting) 5).ended - 2).toNat < 2 ^ 31 ∧
    2 ^ 31 ≤ ((counterOf waiting 5).ended - 2).toNat ∧ (counterOf cancels 5).live = 0 ∧
    (counterOf (counter 5 (fun c => { c with live := 1 }) cancels) 5).live ≠ 0 ∧ cancels.waitList = [] ∧
    (∀ p ∈ cancels.plats, p.2.onward = none) ∧ Memory.wf nop.hostMem = true ∧ (readCapsule image (.queue 0 0x3000 7 0)).counters = [] ∧
    (match admitImage (presented launches) [] 0 (.queue 0 0x3000 7 0) with
      | .error x => some x
      | .ok _ => none) = some (codeReserved, 0xfff) := by decide +kernel

theorem witness_PacketsOfHostQueues_image : hostBytes (present launches 0 (uq launches)) 0x2000 0x9a0 = image := by
  have e : (present launches 0 (uq launches)).hostMem = Memory.writeBytes (Memory.writeBytes imageMem 0x1000
    (([0x700000001, 0x2000, 0x9a0, 0x3000] : List Word).flatMap fun w => leBytes w.toNat 8)) 0x500 (leBytes 1 8) := by
    simp only [present, hostPut, hostWrite, putQueue, launches, packet, holds]; rfl
  rw [hostBytes, e, Memory.bytes_writeBytes_outside _ _ _ _ _ (by decide), Memory.bytes_writeBytes_outside _ _ _ _ _ (by decide),
    stored_image]
theorem presented_cache : (presented launches).cache = [grant] ∧ (presented launches).minSerial = [] := by decide +kernel
theorem witness_PacketsOfHostQueues_admitted :
    admitImage (presented launches) image 0x9a0 (.queue 0 0x3000 7 0) = .ok (byQueue, presented launches) :=
  image_admitted (presented launches) (.queue 0 0x3000 7 0) presented_cache.1 presented_cache.2

/-- R137 and R138: a nop's status record: code 0, bit 16, TAG 7; the read index written back; a counter wait holds its queue. -/
theorem test_packets :
    seen (.packetNop 0) nop (fun t => (hostWord t 0x3000, hostWord t 0x500, (uq t).rd)) = some (0x700010000, 1, 1) ∧
    seen (.packetNop 0) malformed (fun t => (hostWord t 0x3000, t.faultLog.map fun r => (r.code, r.detail))) =
      some (0x700016002, [(0x6002, 0)]) ∧
    seen (.packetCounterWait 0) waiting (fun t => (uq t).wait) = some (some (5, 2, 0x3000, 7)) ∧
    seen (.uqwiNotify 0 3) nop (fun t => (uq t).error) = some true := by decide +kernel

/-- A code image of one bundle that is zero, with a record for handler 0. -/
def code : List Byte := [0, 0, 0x80] ++ List.replicate 1029 (0 : Byte)
/-- Its extent in host memory at 0x8000. -/
def codeExt : Extent := { ext with base := 0x8000, len := 0x1000, host := true, rights := 5, raw := [0x8000, 0x1000, 0, 0] }
/-- A capsule of that code, with a grant for its page, presented by queue 0. -/
def small : Capsule :=
  { plainCapsule with
    hdr := plainCapsule.hdr.set 6 0x10000
    codeId := 3919539624922699488825650686269192922496426992944236096301044624492506839035
    extents := [codeExt], ranges := [(0x8000, 0x1000, 15, true)], origin := .queue 0 0x3000 7 0, counted := true }
/-- A module in which plat 0 of one cluster is free and the capsule waits. -/
def idle : State :=
  { State.reset with
    plats := [(0, { PlatEntry.reset with defd := true, h := 1, w := 1 })]
    waitList := [small]
    hostMem := Memory.writeBytes [] 0x8000 [0, 0, 0x80] }
/-- Launch 0 of the small capsule on plat 0 in a state, with a core's context. -/
def onPlat (st : PlatState) (f : Launch → Launch) : State :=
  launch (fun l => f { l with cap := small })
    { demo with
      plats := [(0, { PlatEntry.reset with state := st, defd := true, launch := some 0, h := 1, w := 1, tag := 1 })]
      hostMem := Memory.writeBytes [] 0x8000 [0, 0, 0x80] }
/-- No activation runs. -/
def still (s : State) : State := slot (fun _ => Slot.reset) s
/-- A plat entry changed. -/
def plat (f : PlatEntry → PlatEntry) (s : State) : State := putPlat s 0 (f (platOf s 0))
/-- Launch 0 stands on plat 0. -/
def placed (s : State) : Bool := (platOf s 0).launch == some 0 && (launchOf s 0).map (·.plat) == some 0
/-- Something about launch 0. -/
def ofLaunch {α : Type} (s : State) (f : Launch → α) : Option α := (launchOf s 0).map f

theorem witness_LaunchesArePlacedAndEnd : idle.waitList[0]? = some small ∧ mayPlace idle small 0 = true ∧
    mayPlace { idle with drain := true } small 0 = false := by
  have h : ((contextCores small.table 0).all fun h => decide ((hartOf idle h).ctxs.length < 16)) = true :=
    List.all_eq_true.2 fun h _ => rfl
  refine ⟨rfl, ?_, by decide +kernel⟩
  rw [mayPlace, Bool.and_eq_true]
  exact ⟨by decide +kernel, h⟩

theorem small_loads : loadRefused (onPlat .placing id) small small.table (codeImage (onPlat .placing id) small) = none := by
  simp only [loadRefused, shake256, sponge256_eq]; decide +kernel

theorem witness_LaunchesArePlacedAndEnd_load :
    (let s := onPlat .placing fun l => { l with loaded := false }
     placed s = true ∧ (platOf s 0).state = .placing ∧ ofLaunch s (·.loaded) = some false ∧ small.residue = false ∧
     (let c : Capsule := { small with ranges := [] }
      loadRefused s c c.table (codeImage s c) = some (codeBounds, 0))) ∧
    (platOf (onPlat .running id) 0).state ≠ .placing := by decide +kernel

theorem witness_LaunchesArePlacedAndEnd_ends :
    (let s := still (onPlat .running id)
     placed s = true ∧ (platOf s 0).state = .running ∧ ofLaunch s (·.halted) = some false ∧
     ofLaunch s (quiescent s 0) = some true ∧ ofLaunch s (·.cancelled) = some false ∧ ofLaunch s (·.pending.isNone) = some true ∧ ofLaunch s (·.idleSince) = some none) ∧
    (let s := still (onPlat .running fun l => { l with cancelled := true })
     placed s = true ∧ (platOf s 0).state = .running ∧ ofLaunch s (·.cancelled) = some true) ∧
    ofLaunch (onPlat .running id) (quiescent (onPlat .running id) 0) = some false ∧
    allStill (onPlat .running id) 0 = false ∧
    (let s := plat (fun P => { P with quiesce := 2 }) (still (onPlat .quiescing id))
     placed s = true ∧ (platOf s 0).state = .quiescing ∧ (platOf s 0).quiesce = 2 ∧ ofLaunch s (hangIdle s 0) = some true ∧
     allStill s 0 = true) := by decide +kernel

/-- An activation that waits for its engine jobs. -/
def stuckState : State :=
  { slot (fun σ => { σ with aWait := some .engine, sb := [SbEntry.plain 5 3 0], eDone := true, budleft := 9 }) (onPlat .running fun l => { l with idleSince := some 0 }) with cycle := 8192 }

theorem witness_LaunchesArePlacedAndEnd_hang : placed stuckState = true ∧ ofLaunch stuckState (·.idleSince) = some (some 0) ∧
    0 + 8192 ≤ stuckState.cycle ∧ ofLaunch stuckState (hangs stuckState 0) = some true ∧ budgetEnds stuckState 0 = false ∧ ofLaunch stuckState (barrierReady stuckState 0) = some false ∧
    ofLaunch (onPlat .running id) (hangs (onPlat .running id) 0) = some false ∧
    budgetEnds (slot (fun σ => { σ with budleft := 0 }) stuckState) 0 = true ∧
    (let s := { stuckState with harts := stuckState.harts.map fun x => (x.1, (x.2.putCtx { ctxOf stuckState x.1 0 with arrived := true })) }
     ofLaunch s (barrierReady s 0) = some true) ∧
    ({ stuckState with cycle := 0 } : State).cycle < 0 + 8192 := by decide +kernel

theorem witness_LaunchesArePlacedAndEnd_zeroing :
    (let s := plat (fun P => { P with launch := none }) (onPlat .zeroing id)
     (platOf s 0).state = .zeroing ∧ (platOf s 0).retiring = false ∧ (platOf s 0).onward = none ∧
     (platOf (plat (fun P => { P with retiring := true }) s) 0).retiring = true) ∧
    (platOf idle 0).state ≠ .zeroing ∧
    (let s := plat (fun P => { P with state := .zeroing, onward := some small }) idle
     (platOf s 0).state = .zeroing ∧ (platOf s 0).retiring = false ∧ (platOf s 0).onward = some small) := by decide +kernel
theorem witness_LaunchesArePlacedAndEnd_onward :
    roomOnward (plat (fun P => { P with state := .zeroing, onward := some small }) idle) small 0 = true := by
  rw [roomOnward, Bool.and_eq_true]
  exact ⟨by decide +kernel, List.all_eq_true.2 fun h _ => rfl⟩

/-- R15: a quiescent launch completes and its plat is zeroed; R176: HANG with WHY 2; R178: a zeroed plat is free. -/
theorem test_ends :
    seen (.launchComplete 0) (still (onPlat .running id)) (fun t => (t.launches.length, (platOf t 0).state)) = some (0, .zeroing) ∧
    seen (.hangDetected 0) stuckState (fun t => t.faultLog.map fun r => (r.code, r.core, r.plat)) = some [(codeHang, 0, 0)] ∧
    seen (.platZeroingComplete 0) (plat (fun P => { P with launch := none }) (onPlat .zeroing id)) (fun t => (platOf t 0).state) =
      some .free := by decide +kernel

/-- A capsule that may be pre-empted, with its spill extent in HBM. -/
def spills : Launch → Launch := fun l =>
  { l with
    cap := { l.cap with hdr := l.cap.hdr.set 1 0x40104, origin := .queue 1 0x3000 7 0 }
    extents := [{ ext with len := 0x1000000 }] }

/-- The small capsule of queue 0 waits for the plat of a capsule of queue 1 that may be pre-empted. -/
def wanted (f : Launch → Launch) : State := { onPlat .running (f ∘ spills) with waitList := [small] }

theorem witness_PreemptionAndResidues :
    (placed (wanted id) = true ∧ (platOf (wanted id) 0).state = .running ∧
     ofLaunch (wanted id) (fun l => (wanted id).waitList.find? (chosenFor (wanted id) l)) = some (some small)) ∧
    (wanted id).plats.all (fun q => !mayPlace (wanted id) small q.1) = true ∧
    ofLaunch (wanted fun l => { l with halted := true }) (·.halted) = some true ∧
    ofLaunch (wanted fun l => { l with cancelled := true }) (·.cancelled) = some true ∧ (onPlat .running spills).waitList = [] ∧
    ofLaunch (onPlat .running id) (·.cap.preempt) = some false ∧
    (let s := plat (fun P => { P with quiesce := 1 }) (still (onPlat .quiescing fun l => { spills l with preempting := true }))
     placed s = true ∧ (platOf s 0).state = .quiescing ∧ (platOf s 0).quiesce = 1 ∧ ofLaunch s (spillReady s 0) = some true) ∧
    ofLaunch (onPlat .running id) (spillReady (onPlat .running id) 0) = some false ∧
    (let s := still (onPlat .spilling spills)
     (platOf s 0).state = .spilling ∧ (ofLaunch s fun l => (l.extent l.cap.spillx).map (·.host)) = some (some false) ∧
     ofLaunch s (·.cap.origin) = some (.queue 1 0x3000 7 0) ∧ ofLaunch s (fun l => (l.cancelled, l.halted)) = some (false, false) ∧ s.remap = [] ∧ Memory.wf s.hbm = true) ∧
    (let s := still (onPlat .placing fun l => { spills l with cap := { l.cap with hdr := l.cap.hdr.set 1 0x40114 } })
     placed s = true ∧ (platOf s 0).state = .placing ∧ ofLaunch s (·.loaded) = some true ∧ ofLaunch s (·.cap.residue) = some true ∧
     (ofLaunch s fun l => (l.extent l.cap.spillx).isSome) = some true) := by decide +kernel

/-- A cancelled capsule, and a halted one, that is being spilled. -/
theorem witness_PreemptionAndResidues_spilling :
    (let s := still (onPlat .spilling fun l => { spills l with cancelled := true })
     placed s = true ∧ (platOf s 0).state = .spilling ∧ ofLaunch s (·.cancelled) = some true ∧
     seen (.preemptionSpill 0) s (fun t => ((platOf t 0).state, t.faultLog.map fun r => (r.code, r.detail))) =
       some (.zeroing, [(codePreempted, 1)])) ∧
    (let s := still (onPlat .spilling fun l => { spills l with halted := true })
     placed s = true ∧ ofLaunch s (fun l => (l.cancelled, l.halted)) = some (false, true)) := by decide +kernel

/-- R194: a pre-emption request sends the plat to QUIESCING. -/
theorem test_preemption :
    seen (.preemptionRequest 0) (wanted id) (fun t => ((platOf t 0).state, (platOf t 0).quiesce)) =
      some (.quiescing, 1) ∧
    seen (.preemptionRequest 0) (onPlat .running id) (fun t => (platOf t 0).state) = some .running := by decide +kernel

/-! ## Errors, pages, pairs and replicas -/

/-- Page 0 migrates to the spare page of the same pseudo-channel. -/
def spare : Nat := ((upFrom 0x1fc00000 2048).find? fun p => pseudoChannel (p * 4096) == pseudoChannel 0).getD 0
def migrating (next : Nat) (dirty : BitVec 16) : State := { State.reset with migrations := [⟨0, spare, dirty, next, 0⟩] }

theorem witness_ErrorsPagesAndFences :
    (((hartOf demo 0).line 5).dirty = 0 ∧ ((hartOf demo 0).line 5).ucls = none) ∧
    ((platOfCore demo 0).map (·.1) = some 0 ∧ placed demo = true) ∧
    (let s := hart 0 (fun H => H.putLine 5 { H.line 5 with stores := [⟨1, 0x1000000000000140, [1]⟩] }) demo
     ((hartOf s 0).line 5).dirty ≠ 0) ∧
    (∀ i ∈ [0, 1, 2, 3], l2Dirty demo 0 (4 * l2Key (lineKey 4 0) + i) = false) ∧
    (let s := flying (.flush 4 0 [⟨1, 0x1000040000000000, [1]⟩]) demo
     l2Dirty s 0 (4 * l2Key (lineKey 4 0) + 0) = true ∧ (coresOfCluster 0).headD 0 = 0 ∧ (platOf s 0).state = .running) ∧
    (let s := { demo with llc := [(2, some 1)] }
     SMap.find (512 / 256) s.llc = some (some 1) ∧ (s.plats.find? fun x : Nat × PlatEntry => x.2.live && x.2.tag == 1).map (·.1) = some 0) ∧
    (let s := { demo with llc := [(2, some 9), (3, none)] }
     (s.plats.find? fun x : Nat × PlatEntry => x.2.live && x.2.tag == 9).isNone = true ∧ SMap.find 3 s.llc = some none ∧
     SMap.find 4 s.llc = none) ∧
    (platOf (plat (fun P => { P with state := .fenced }) demo) 0).state = .fenced ∧ (platOf demo 0).state ≠ .fenced := by
  decide +kernel
theorem witness_ErrorsPagesAndFences_pages :
    ((migrating 3 0).migrations.find? fun x => x.source == 0).isSome = true ∧ 3 < 16 ∧ (16 ≤ 16 ∧ (0 : BitVec 16) = 0) ∧
    0x1fc00000 ≤ spare ∧ spare < 2 ^ 29 ∧
    pseudoChannel (spare * 4096) = pseudoChannel (physAddr State.reset (4096 * 0) / 4096 * 4096) ∧ State.reset.remap = [] ∧
    State.reset.migrations = [] ∧ Memory.wf State.reset.hbm = true ∧ spare ≠ 0 ∧ 0x3000 % 4096 = 0 ∧ 0x3000 + 0x1000 ≤ 0x1fc00000000 ∧
    0x1fc00000000 < 0x1fc00000000 + 0x1000 := by decide +kernel

/-- R59: a poison granule; R60: a migration begins, copies a sub-block, and switches the remap; R58: zeroed bytes. -/
theorem test_errors :
    seen (.uncorrectableErrorConsumed (.hbm 0x80)) demo (·.poison) = some [2] ∧
    seen (.pageRetirement 0 spare) State.reset (fun t => t.migrations.map (·.source)) = some [0] ∧
    seen (.pageRetirement 0 spare) { migrating 0 0 with hbm := [(5, 7)] } (fun t => Memory.read t.hbm (spare * 4096 + 5)) = some 7 ∧
    seen (.pageRetirement 0 spare) (migrating 16 0) (fun t => (t.remap, t.retiredPages)) = some ([(0, spare)], [0]) ∧
    seen (.extentZeroingRequest 0x3000 0x1000) { demo with hbm := [(0x2fff, 1), (0x3000, 1)] } (·.hbm) = some [(0x2fff, 1)] := by
  decide +kernel

/-- Core 0 leads a pair; its activation has ended a ply's worth of words. -/
def pair : State := hart 0 (fun H => { H with sinceAgree := 256 }) (slot (fun σ => { σ with paired := true }) demo)
/-- The launch has posted digest 5 under step 1 at cycle 0; the module is a replica, and an exchange tick has come since. -/
def posted : State := launch (fun l => { l with digests := [(1, 5, 0)] })
  { demo with replicated := true, ports := [(0, { Port.reset with tickAt := 1 })] }

theorem witness_PairsAndReplicas :
    agreementDue demo 0 = false ∧ agreementDue pair 0 = true ∧ (hartOf pair 0).fpr = (hartOf pair 1).fpr ∧
    (let s := hart 1 (fun H => { H with fpr := 1 }) pair
     agreementDue s 0 = true ∧ (hartOf s 0).fpr ≠ (hartOf s 1).fpr ∧ (hartOf s 0).mismatched = false) ∧
    (let s := hart 0 (fun H => { H with mismatched := true }) (hart 1 (fun H => { H with fpr := 1 }) pair)
     agreementDue s 0 = true ∧ (hartOf s 0).mismatched = true) ∧ (hartOf pair 0).selftest = false ∧
    (hartOf (hart 0 (fun H => { H with selftest := true }) pair) 0).selftest = true ∧
    placed posted = true ∧ (ofLaunch posted fun l => l.digests.find? fun d => d.1 == 1) = some (some (1, 5, 0)) ∧ posted.replicated = true ∧
    (∃ q ∈ posted.ports, 0 < q.2.tickAt) ∧ (∀ q ∈ ({ posted with ports := [] } : State).ports, q.2.tickAt ≤ 0) ∧
    ({ posted with replicated := false } : State).replicated = false ∧
    (let s := slot (fun σ => { σ with aWait := some .agree, eDone := true }) (hart 0 (fun H => { H with sinceAgree := 0 }) pair)
     agreementDue s 0 = true ∧ (hartOf s 0).fpr = (hartOf s 1).fpr) ∧
    (ofLaunch posted fun l => (l.digests.find? fun d => d.1 == 2).isNone) = some true ∧ ofLaunch posted (·.halted) = some false ∧
    ofLaunch (launch (fun l => { l with halted := true }) posted) (·.halted) = some true := by decide +kernel

theorem witness_PairsAndReplicas_waits :
    (let s := setA 7 0x5000010000000400 (slot (fun σ => { σ with paired := true }) mem)
     AReady s ∧ (curSlot s).paired = true ∧ (curSlot s).agreed = false ∧ (curSlot s).answering = none ∧
     (∀ n ∈ [(8, (3 : BitVec 12)), (4, 2)], checkPointer s 0x400 n.1 n.2 true false false = .ok (.own 0x400) ∧
       (curCtx s).writeRefused 0 0x400 n.1 = none ∧
       checkPointer s 0x1000010000000400 n.1 n.2 true false false = .ok (.mesh 1 0x400 true)) ∧
     checkPointer s 0x1000010000000400 8 3 false false false = .ok (.mesh 1 0x400 true) ∧
     got (readA (.a 7) s) = some 0x5000010000000400 ∧ runs (cellCheck 0x5000010000000400 false s) = true ∧
     got (readA .z s) = some (curCtx s).ply.toNat ∧ got (opndLow .z s) = some 0) := by
  unfold AReady; decide +kernel

/-- R200: an agreement clears the count; R201: a mismatch puts the pair under self-test; R203: a digest that differs halts. -/
theorem test_pairs :
    seen (.agreementPoint 0) pair (fun t => ((hartOf t 0).sinceAgree, (hartOf t 0).checkpoint.isSome)) = some (0, true) ∧
    seen (.agreementPoint 0) (hart 1 (fun H => { H with fpr := 1 }) pair) (fun t => (hartOf t 0).selftest) = some true ∧
    seen (.digestCompare 0 1 6 none) posted (fun t => ofLaunch t (·.halted)) = some (some true) ∧
    seen (.digestCompare 0 1 5 none) posted (fun t => ofLaunch t fun l => (l.halted, l.digests)) = some (some (false, [])) := by
  decide +kernel

/-! ## Survey firmware, host registers and links -/

/-- The record of a command at 0x4000, and its doorbell. -/
def survey (ws : List Word) : State :=
  { demo with doorbells := [0x4000], hostMem := Memory.writeBytes [] 0x4000 (ws.flatMap fun w => leBytes w.toNat 8) }
/-- Its OP, if it is valid. -/
def opOf (s : State) : Option Nat :=
  let w := commandWords s 0x4000
  if cmdInvalid 0x4000 w then none else some (cmdOp w)

/-- That a signature verifies is the value of an opaque function (log 5): no state can be shown whose grant is registered. -/
theorem witness_SurveyCommands :
    [survey [0x900000001], survey [2], survey [3, 0], survey [4, 0], survey [3, 9], survey [5], survey [0x10, 0x8000, 9984],
      survey [0x11, 0x600, 0x1000, 0x500], survey [0x12, 7, 5], survey [6]].map opOf =
      [some 1, some 2, some 3, some 4, some 3, some 5, some 0x10, some 0x11, some 0x12, none] ∧
    (platOf demo 0).defd = true ∧ (platOf demo 9).defd = false ∧ Memory.wf (survey [1]).hostMem = true ∧ demo.doorbells = [] ∧
    (serialRevoked demo 0 0 = false ∧ serialRevoked { demo with minSerial := [(0, 5)] } 0 0 = true) ∧
    (rangesOk [] = false ∧ rangesOk ([1, 1] ++ List.replicate 62 (0 : Byte) ++ leBytes 0 8 ++ leBytes 0x1000 8) = true) := by
  decide +kernel

/-- R181: a status record of code 0 with bit 16 and the TAG of word 0; R180: a drain bit; R136: a queue; R148: a serial. -/
theorem test_survey :
    seen .setModuleDrain (survey [0x900000001]) (fun t => (t.drain, hostWord t 0x4038, t.doorbells)) = some (true, 0x900010000, []) ∧
    seen .setPlatDrain (survey [3, 0]) (fun t => (platOf t 0).drain) = some true ∧
    seen .clearPlatDrain (survey [4, 9]) (fun t => hostWord t 0x4038) = some (BitVec.ofNat 64 (codeBounds.toNat + 0x10000)) ∧
    seen .invalidSurveyCommand (survey [6]) (fun t => hostWord t 0x4038) = some 0x16002 ∧
    seen .configureUserQueue (survey [0x11, 0x603, 0x1000, 0x500]) (fun t => (SMap.find 3 t.queues).map fun q => (q.ring, q.log2)) =
      some (some (0x1000, 6)) ∧
    seen .raiseMinimumSerial (survey [0x12, 7, 5]) (·.minSerial) = some [(7, 5)] := by decide +kernel

theorem witness_SurveyAndBoot : Memory.wf demo.hostMem = true ∧
    ((platOf demo 1).state = .free ∧ ∀ q ∈ demo.plats, q.1 ≠ 1 → q.2.defd = true → rectsMeet q.2 4 4 2 2 = false) ∧
    (platOf demo 0).state = .running ∧ (demo.plats.find? fun x => x.2.hasCluster 0).map (·.1) = some 0 ∧
    (idle.plats.find? fun x => x.2.hasCluster 0).map (fun p => (p.1, p.2.state)) = some (0, .free) ∧
    codeDeviceFatal ≠ 0 ∧ codeThermal ≠ 0 := by decide +kernel

/-- R40: gzbase keeps bits [63:12]; R177: a plat is defined; R178: a retirement; R186: grade 4; R18: boot. -/
theorem test_boot :
    seen (.hostRegisterWrite 8 0x12345fff) demo (·.gzbase) = some 0x12345000 ∧
    seen (.platDefine 1 4 4 2 2 9) demo (fun t => ((platOf t 1).defd, (platOf t 1).w, (platOf t 1).rbudget)) = some (true, 2, 9) ∧
    seen (.clusterRetire 0) demo (fun t => (platOf t 0).retiring) = some true ∧
    seen (.clusterRetire 0) idle (fun t => (platOf t 0).state) = some .offline ∧
    seen (.grade4Entry codeThermal) idle (fun t => (t.outOfService, t.grade4 == codeThermal, t.waitList.length)) = some (true, true, 0) ∧
    seen .moduleBoot demo (fun t => (t.plats.length, t.launches.length)) = some (0, 0) := by decide +kernel

/-- A flit of FTYPE 1 without cells, FSEQ 0, FTICK 0, and its CRC; and one with another CRC. -/
def flit : Flit := [1] ++ List.replicate 30 (0 : Word) ++ [1395122101]
def badFlit : Flit := flit.set 31 0

/-- One byte of the CRC. -/
def crcByte (c : BitVec 32) (b : Byte) : BitVec 32 := (upFrom 0 8).foldl (fun x _ => crcBit x) (c ^^^ b.zeroExtend 32)
theorem flit_crc : crc32 ([1] ++ List.replicate 61 (0 : Byte) ++ List.replicate 62 (0 : Byte) ++ List.replicate 62 (0 : Byte) ++
    List.replicate 62 (0 : Byte)) = 1395122101 := by
  have a : ([1] ++ List.replicate 61 (0 : Byte)).foldl crcByte 0xffffffff = 1417722094 := by decide +kernel
  have b : (List.replicate 62 (0 : Byte)).foldl crcByte 1417722094 = 2653817702 := by decide +kernel
  have c : (List.replicate 62 (0 : Byte)).foldl crcByte 2653817702 = 1210105538 := by decide +kernel
  have d : (List.replicate 62 (0 : Byte)).foldl crcByte 1210105538 = 2899845194 := by decide +kernel
  show ~~~(List.foldl crcByte 0xffffffff _) = _
  rw [List.foldl_append, List.foldl_append, List.foldl_append, a, b, c, d]
  decide
theorem flit_bytes : ((upFrom 0 31).flatMap fun i => leBytes (flitWord flit i).toNat 8) =
    [1] ++ List.replicate 61 (0 : Byte) ++ List.replicate 62 (0 : Byte) ++ List.replicate 62 (0 : Byte) ++ List.replicate 62 (0 : Byte) ∧
    ((upFrom 0 31).flatMap fun i => leBytes (flitWord badFlit i).toNat 8) =
    [1] ++ List.replicate 61 (0 : Byte) ++ List.replicate 62 (0 : Byte) ++ List.replicate 62 (0 : Byte) ++ List.replicate 62 (0 : Byte) := by
  decide +kernel
theorem witness_LinkPorts_flits : flitGood flit = true ∧ flitGood badFlit = false := by
  simp only [flitGood, flitCrc, flit_bytes.1, flit_bytes.2, flit_crc]; decide +kernel

/-- Port 0 aligned at a tick. -/
def aligned (x : BitVec 32) : State := modPortCores State.reset 0 fun H => { H with aligned := true, xtick := x }
/-- Port 0 changed. -/
def port (f : Port → Port) (s : State) : State := putPort s 0 (f (portAt s 0))

theorem witness_LinkPorts :
    flitType flit = 1 ∧ (portAt State.reset 0).down = false ∧
    (portAt (port (fun p => { p with down := true }) State.reset) 0).down = true ∧ portAligned (aligned 0) 0 = true ∧
    portAligned State.reset 0 = false ∧ (portAt State.reset 0).held = [] ∧
    flitSeq flit = SMap.getD (portAt State.reset 0).expect (flitSmod flit * 2 ^ 16 + flitFlow flit) 0 ∧
    (∃ x ∈ (portAt (port (fun p => { p with failures := [(0, 17)] }) State.reset) 0).failures, 17 ≤ x.2) ∧
    (∀ x ∈ (portAt State.reset 0).failures, x.2 < 17) ∧ flitOld (portAt State.reset 0) flit = false ∧
    flitOld (portAt (port (fun p => { p with expect := [(0, 1)] }) State.reset) 0) flit = true ∧
    atBoundary State.reset 0 = true ∧
    (let s := hart Config.nChannelEnd (fun H => H.putCtx (Ctx.reset 0)) (ctx 0 (fun c => { c with sseq := 1 }) demo)
     atBoundary s 0 = false) := by decide +kernel

/-- A held flit's tick lies 1 to 15 ticks ahead of its own, and a tick takes 1,024 to 65,536 cycles. -/
theorem witness_LinkPorts_ticks :
    (let a := flitTick flit + BitVec.ofNat 32 tickDelay - portTick (aligned 0) 0
     a ≠ 0 ∧ a.toNat < 2 ^ 31) ∧
    2 ^ 31 ≤ (flitTick flit + BitVec.ofNat 32 tickDelay - portTick (aligned 100) 0).toNat ∧
    (portAt { State.reset with cycle := 65536 } 0).tickAt + tickLength ≤ ({ State.reset with cycle := 65536 } : State).cycle ∧
    State.reset.cycle < (portAt State.reset 0).tickAt + tickLength := by
  have d : 1 ≤ tickDelay ∧ tickDelay < 16 := by unfold tickDelay; omega
  have l : 1024 ≤ tickLength ∧ tickLength ≤ 65536 := by unfold tickLength; omega
  have z : flitTick flit = 0 := by decide +kernel
  have p : portTick (aligned 0) 0 = 0 ∧ portTick (aligned 100) 0 = 100 := by decide +kernel
  have q : (portAt { State.reset with cycle := 65536 } 0).tickAt = 0 ∧ (portAt State.reset 0).tickAt = 0 := by decide +kernel
  have c : State.reset.cycle = 0 := rfl
  have t : (BitVec.ofNat 32 tickDelay).toNat = tickDelay := by rw [BitVec.toNat_ofNat]; omega
  rw [z, p.1, p.2, q.1, q.2, c]
  refine ⟨⟨fun h => ?_, ?_⟩, ?_, ?_, ?_⟩
  · have := congrArg BitVec.toNat h
    simp [t] at this
    omega
  · simp [t]; omega
  · simp [t, BitVec.toNat_sub]; omega
  · show 0 + tickLength ≤ 65536; omega
  · omega

/-- The first gateway core of port 0 aligned at a tick. -/
def alignedAt (x : BitVec 32) : State :=
  putHart State.reset Config.nChannelEnd { hartOf State.reset Config.nChannelEnd with aligned := true, xtick := x }
/-- A flit whose tick is the current one, in the cycle of the boundary and after it. -/
theorem witness_LinkPorts_due : ∃ x, flitTick flit + BitVec.ofNat 32 tickDelay - portTick (alignedAt x) 0 = 0 ∧
    portAligned (alignedAt x) 0 = true ∧ (alignedAt x).cycle = (portAt (alignedAt x) 0).tickAt ∧
    (let s := { alignedAt x with cycle := 1 }
     flitTick flit + BitVec.ofNat 32 tickDelay - portTick s 0 = 0 ∧ s.cycle ≠ (portAt s 0).tickAt) := by
  refine ⟨flitTick flit + BitVec.ofNat 32 tickDelay, ?_⟩
  simp [portTick, portAligned, alignedAt, hartOf, putHart, portAt, Port.reset, State.reset, SMap.getD, SMap.find, SMap.set]

/-- The CRC stands after the words that it covers. -/
theorem crc_of_front (front : Flit) (c : Word) (h : front.length = 31) : flitCrc (front ++ [c]) = flitCrc front := by
  unfold flitCrc
  congr 1
  refine List.flatMap_congr fun i hi => ?_
  have : i < 31 := (by decide : ∀ i ∈ upFrom 0 31, i < 31) i hi
  simp [flitWord, List.getElem?_append_left, h, this]
/-- A request for flit 0 of flow 0, which the replay buffer holds. -/
def wantedFlit : Flit := mkFlit State.reset 0 0 4 0 0 0 0 []
theorem wanted_front : mkFlit State.reset 0 0 4 0 0 0 0 [] =
    [4, 0] ++ List.replicate 29 (0 : Word) ++ [(flitCrc ([4, 0] ++ List.replicate 29 (0 : Word))).zeroExtend 64] := by
  have f : [BitVec.ofNat 64 ((0 : BitVec 32).toNat * 2 ^ 32 + 0 % 2 ^ 16 * 2 ^ 16 + 0 % 2 ^ 8 * 2 ^ 8 + 0 % 2 ^ 4 * 2 ^ 4 + 4 % 2 ^ 4),
      BitVec.ofNat 64 (State.reset.moduleId.toNat * 2 ^ 48 + 0 % 2 ^ 16 * 2 ^ 32 + (portTick State.reset 0).toNat)] ++
      ([] ++ List.replicate 29 (0 : Word)).take 29 = [4, 0] ++ List.replicate 29 (0 : Word) := by decide +kernel
  unfold mkFlit
  simp only [f]
theorem crc_kept (c : BitVec 32) : (c.zeroExtend 64 : Word).extractLsb' 0 32 = c :=
  BitVec.eq_of_toNat_eq (by have := c.isLt; simp; omega)
theorem wanted_good : flitGood wantedFlit = true := by
  rw [show wantedFlit = _ from wanted_front, flitGood, crc_of_front _ _ (by decide)]
  simp only [flitWord, flitType, List.cons_append, List.getD_cons_succ, List.getD_cons_zero, List.nil_append, List.replicate]
  rw [crc_kept, beq_self_eq_true]
  decide
theorem witness_LinkPorts_request : flitGood wantedFlit = true ∧ flitType wantedFlit = 4 ∧ flitFlow flit = flitFlow wantedFlit ∧
    flitSeq flit = flitSeq wantedFlit ∧ (flitDmod flit).toNat = flitSmod wantedFlit ∧
    (portAt (port (fun p => { p with replay := [flit] }) State.reset) 0).replay = [flit] := by
  refine ⟨wanted_good, ?_, ?_, ?_, ?_, by decide +kernel⟩ <;> rw [show wantedFlit = _ from wanted_front] <;>
    simp [flit, flitWord, flitType, flitFlow, flitSeq, flitDmod, flitSmod]

/-- A collective block of launch 0 on the first gateway core, due at tick 9. -/
def block9 : Collective := { hart := Config.nChannelEnd, launch := 0, block := 0, count := 2, parts := [], deadline := 9 }
theorem witness_LinkPorts_collectives :
    (let s := { demo with collectives := [block9] }
     s.collectives[0]? = some block9 ∧ (portAt s (portOfCore block9.hart)).stalled = [] ∧ 2 ^ 31 ≤ (portTick s (portOfCore block9.hart) - block9.deadline).toNat ∧
     launchOf s block9.launch = launchOf demo 0) ∧
    (let s := { aligned 9 with collectives := [block9], cycle := 1 }
     (portTick s (portOfCore block9.hart) - block9.deadline).toNat < 2 ^ 31 ∧ (portAt s (portOfCore block9.hart)).tickAt < s.cycle) ∧
    (portTick { aligned 10 with collectives := [block9] } (portOfCore block9.hart) - block9.deadline).toNat < 2 ^ 31 ∧
    portTick { aligned 10 with collectives := [block9] } (portOfCore block9.hart) - block9.deadline ≠ 0 ∧
    (let s := { aligned 9 with collectives := [block9] }
     portTick s (portOfCore block9.hart) - block9.deadline = 0 ∧ s.cycle ≤ (portAt s (portOfCore block9.hart)).tickAt) := by
  decide +kernel

/-- A port whose flits have been sent again 17 times, with a block held on the link, and the capsule on its gateway cores. -/
def jammed : State :=
  port (fun p => { p with resent := [(0, 17)], stalled := [flit] })
    (modPortCores (launch (fun l => { l with cap := { l.cap with hdr := l.cap.hdr.set 3 0x5000000 } }) demo) 0
      fun H => H.putCtx (Ctx.reset 0))
theorem jammed_contexts : ∀ i < 16, (hartOf jammed (Config.nChannelEnd + 16 * 0 + i)).ctxs = [Ctx.reset 0] := by decide +kernel
theorem witness_LinkPorts_jammed :
    ((portAt jammed 0).down = false ∧ (∃ x ∈ (portAt jammed 0).resent, 17 ≤ x.2) ∧ (portAt jammed 0).stalled = [flit] ∧
     ofLaunch jammed (·.cap.jobc) = some 5) ∧
    flitLaunch jammed (Config.nChannelEnd + 16 * 0 + Config.flitBlock flit % 16) flit = some 0 := by
  refine ⟨by decide +kernel, ?_⟩
  have h := jammed_contexts (Config.flitBlock flit % 16) (Nat.mod_lt _ (by decide))
  simp only [flitLaunch, h, List.length_singleton, Nat.mod_one]
  rfl
/-- Flits held past the cycle of their tick; a flit of a flow of which none has been delivered out of its turn. -/
theorem witness_LinkPorts_held :
    (∀ n ∈ (portAt State.reset 0).beyond, n / 2 ^ 32 ≠ flitKey flit) ∧
    (let s := { port (fun p => { p with held := [flit] }) (alignedAt 3) with cycle := 1 }
     (SMap.find 0 s.ports).isSome = true ∧ portAligned s 0 = true ∧ (portAt s 0).tickAt < s.cycle ∧ (portAt s 0).held = [flit]) := by
  decide +kernel

/-- R139: a bad flit is counted; R141: a port goes down; R140: alignment is restored; R135: a block is given up. -/
theorem test_links :
    seen (.linkDown 0) (port (fun p => { p with failures := [(0, 17)] }) State.reset) (fun t => (portAt t 0).down) = some true ∧
    seen (.alignmentRestore 0) State.reset (fun t => portAligned t 0) = some true ∧
    seen (.collectiveTimeout 0) { aligned 10 with collectives := [block9] } (fun t => t.collectives.length) = some 0 := by decide +kernel
theorem test_bad_flit : receiveFlit 0 badFlit State.reset =
    requestFlit (putPort { State.reset with gzChanged := true } 0
      { Port.reset with dropped := 1, retrans := 1, failures := SMap.modify [] (flitNumber badFlit) 0 (· + 1) }) 0 badFlit := by
  simp [receiveFlit, witness_LinkPorts_flits.2, portAt, State.reset, Port.reset, SMap.getD, SMap.find]

/-! ## A step, decoding and the memories -/

/-- A bundle placed where the current side fetches next. -/
def fetches (side : Side) (b : Word) : State := placeBundle State.reset b side
/-- What decodes from the word of the current side. -/
noncomputable def decodesC (s : State) : Option Instr := (decodeC (bundleAt s (curLaunch s) (curSlot s).pc).toNat).toOption
/-- The step's next state. -/
noncomputable def stepped (s : State) : Option State :=
  match step s with
  | .next t => some t
  | _ => none

theorem witness_StepRunsDecodedWord :
    (let s := fetches .aSide 0x1010ffff
     s.agenda = [] ∧ curHart s < Config.nHarts ∧ (curSlot s).running = true ∧ ofLaunch s (·.halted) = some false ∧ s.cur.2.2 = .aSide ∧
     (curSlot s).nextLate = none ∧ (curSlot s).pc < codeLen s (curLaunch s) ∧ decodesC s = some (.aluiAddi (.a 1) (.a 1) (-1))) ∧
    (let s := fetches .aSide 0x380ffc00
     decodesC s = some (.sysResumeReturn .z .z) ∧ got (readA .z s) = some 0) ∧
    (let s := fetches .aSide 0
     (curSlot s).path.length < 64 ∧ (curSlot s).sleeping = false ∧ pairStall s = false) ∧
    codeLen demo (curLaunch demo) ≤ (curSlot (slot (fun σ => { σ with pc := 8192 }) demo)).pc ∧
    (curSlot (slot (fun σ => { σ with late := [(none, ⟨1, 0, 0⟩)] }) demo)).nextLate ≠ none ∧
    (let s := { fetches .aSide 0x1010ffff with agenda := [.word 0 0 .aSide] }
     s.agenda = [.word 0 0 .aSide] ∧ (slotOf s 0 0).nextLate = none ∧ (slotOf s 0 0).pc < codeLen s (slotOf s 0 0).ctx ∧
     (decodeC (bundleAt s (slotOf s 0 0).ctx (slotOf s 0 0).pc).toNat).toOption = some (.aluiAddi (.a 1) (.a 1) (-1))) := by decide +kernel
theorem witness_StepRunsDecodedWord_eSide :
    (let s := fetches .eSide 0x06c1101700000000
     s.agenda = [] ∧ s.cur.2.2 = .eSide ∧ (curSlot s).ePos = some 0 ∧ isLone (bundleAt s 0 0).toNat = false ∧
     (decodeX ((bundleAt s 0 0).toNat / 2 ^ 32)).toOption = some (.iaSlt .cq (.e 1) (.e 2)) ∧ (curSlot s).paired = false) ∧
    isLone 0x80000000e0500001 = true ∧ (decodeX 0xffffffff).toOption = none ∧ (decodeC 0x06000000).toOption = none := by decide +kernel

/-- A step runs the word at pc: a1 = a1 - 1, one cycle passes, and the E-side is next. -/
theorem test_step : (stepped (fetches .aSide 0x1010ffff)).map (fun t => ((slotOf t 0 0).a[(1 : Fin 16)], t.cycle, t.cur.2.2, (slotOf t 0 0).pc)) =
    some (0xffffffffffffffff, 1, .eSide, 1) := by decide +kernel
/-- An agenda's turns come first: cycles pass, and an event of the module happens. -/
theorem test_agenda :
    (stepped { demo with agenda := [.pass 5] }).map (fun t => (t.cycle, t.agenda)) = some (5, []) ∧
    (stepped { demo with agenda := [.event (.hostRegisterWrite 8 0x1000), .pass 1] }).map (fun t => (t.gzbase, t.agenda)) =
      some (0x1000, [.pass 1]) := by decide +kernel

theorem witness_EncodeDecode : WellFormed (.aluiAddi (.a 1) (.a 1) (-1)) = true ∧ encodeC (.aluiAddi (.a 1) (.a 1) (-1)) = some 0x1010ffff ∧
    WellFormed (.iaSlt .cq (.e 1) (.e 2)) = true ∧ encodeX (.iaSlt .cq (.e 1) (.e 2)) = some 0x06c11017 ∧
    encodeC (.sysResumeRedo .z .z) = encodeC (.sysResumeReturn .z .z) ∧ WellFormed (.sysResumeRedo .z .z) = true := by decide +kernel

theorem witness_MemoriesStayCanonical : State.reset.memOk = true ∧ demo.memOk = true ∧
    (stepped (fetches .aSide 0x1010ffff)).isSome = true ∧ (bytes 0 0x400 8 0x1100 demo).memOk = true := by decide +kernel

end Sys2Proof.Tests
end

section
/-! SUPPORT. The survey complex: a word read back from written bytes, what reporting the end of a capsule and failing a launch
leave alone, and the statement on BAR0, the gazetteer, plat definitions, retirements, grade 4 and boot (spec/02 R18 R40, spec/10
R177 to R186). -/

namespace Sys2Proof.Machine

/-! ## Words in written bytes (R3) -/

theorem leValue_leBytes (v n : Nat) : leValue (leBytes v n) = v % 256 ^ n := by
  induction n generalizing v with
  | zero => simp [leBytes, leValue, Nat.mod_one]
  | succ n ih =>
    rw [leBytes, leValue, ih, BitVec.toNat_ofNat, Nat.pow_succ' (m := 256), Nat.mod_mul]

theorem Memory.writeBytes_append (m : Memory) (a : Nat) (xs ys : List Byte) :
    Memory.writeBytes m a (xs ++ ys) = Memory.writeBytes (Memory.writeBytes m a xs) (a + xs.length) ys := by
  induction xs generalizing m a with
  | nil => rfl
  | cons x xs ih =>
    simp only [List.cons_append, Memory.writeBytes, ih, List.length_cons]
    rw [show a + 1 + xs.length = a + (xs.length + 1) by omega]

/-- A word that stands among bytes just written is read back. -/
theorem Memory.word_writeBytes (m : Memory) (a : Nat) (pre post : List Byte) (w : Word) (h : Memory.wf m = true) :
    Memory.word (Memory.writeBytes m a (pre ++ leBytes w.toNat 8 ++ post)) (a + pre.length) = w := by
  have back : Memory.bytes (Memory.writeBytes m a (pre ++ leBytes w.toNat 8 ++ post)) (a + pre.length) 8 = leBytes w.toNat 8 := by
    rw [Memory.writeBytes_append, Memory.writeBytes_append,
      Memory.bytes_writeBytes_outside _ _ _ _ _ (by simp [leBytes_length]; omega)]
    simpa [leBytes_length] using
      Memory.bytes_writeBytes _ (a + pre.length) (leBytes w.toNat 8) (Memory.wf_writeBytes m a pre h)
  simp only [Memory.word, Memory.readN, back, leValue_leBytes]
  apply BitVec.eq_of_toNat_eq
  have := w.isLt
  simp only [BitVec.toNat_ofNat]
  omega

/-! ## Lists of numbers as keys -/

theorem mem_upFrom (k lo n : Nat) : k ∈ upFrom lo n ↔ lo ≤ k ∧ k < lo + n := by
  induction n generalizing lo with
  | zero => simp [upFrom]
  | succ n ih => simp only [upFrom, List.mem_cons, ih]; omega

/-- In a map that gives every key of a list the same value. -/
theorem SMap.find_map_const {α : Type} (k : Nat) (c : α) (ks : List Nat) :
    SMap.find k (ks.map fun j => (j, c)) = if k ∈ ks then some c else none := by
  induction ks with
  | nil => rfl
  | cons j ks ih =>
    simp only [List.map_cons, SMap.find, ih, List.mem_cons]
    by_cases e : j = k
    · simp [e]
    · simp [e, Ne.symm e]

/-- A map's entry is one of its members. -/
theorem SMap.mem_of_find {α : Type} {k : Nat} {a : α} {m : SMap α} (h : SMap.find k m = some a) : (k, a) ∈ m := by
  induction m with
  | nil => simp [SMap.find] at h
  | cons x m ih =>
    obtain ⟨j, b⟩ := x
    simp only [SMap.find] at h
    split at h
    · simp_all
    · exact List.mem_cons_of_mem _ (ih h)

/-- A plat that is defined stands in the plat table. -/
theorem mem_plats_of_defd {s : State} {p : Nat} (h : (platOf s p).defd = true) : (p, platOf s p) ∈ s.plats := by
  cases e : SMap.find p s.plats with
  | none => simp [platOf, SMap.getD, e, PlatEntry.reset] at h
  | some P =>
    have : platOf s p = P := by simp [platOf, SMap.getD, e]
    exact this ▸ SMap.mem_of_find e

/-! ## What reporting the end of a capsule changes (R138, R189) -/

/-- The states differ in host memory, queues, counters, the fault log and the free values used, and in nothing else. -/
def ReportsOnly (s t : State) : Prop :=
  t = { s with
    hostMem := t.hostMem, queues := t.queues, counters := t.counters, faultLog := t.faultLog, gzChanged := t.gzChanged
    fresh := t.fresh }

namespace ReportsOnly

theorem refl (s : State) : ReportsOnly s s := rfl
theorem trans {s t u : State} (a : ReportsOnly s t) (b : ReportsOnly t u) : ReportsOnly s u := by
  unfold ReportsOnly at *
  rw [b, a]
theorem foldl {α : Type} {f : State → α → State} (h : ∀ s a, ReportsOnly s (f s a)) (xs : List α) (s : State) :
    ReportsOnly s (xs.foldl f s) :=
  List.foldlRecOn xs f (refl s) fun _ ht a _ => ht.trans (h _ a)

variable {s t : State} (h : ReportsOnly s t)
include h
theorem plats : t.plats = s.plats := by rw [h]
theorem waitList : t.waitList = s.waitList := by rw [h]
theorem outOfService : t.outOfService = s.outOfService := by rw [h]
theorem grade4 : t.grade4 = s.grade4 := by rw [h]

end ReportsOnly

theorem modCounter_reportsOnly (s : State) (c : Nat) (f : Counter → Counter) : ReportsOnly s (modCounter s c f) := by
  unfold modCounter
  split <;> rfl

theorem endCounters_reportsOnly (s : State) (cap : Capsule) (ok : Bool) (code : BitVec 16) :
    ReportsOnly s (endCounters s cap ok code) := by
  unfold endCounters
  split
  · exact .foldl (fun t c => modCounter_reportsOnly t c _) _ _
  · exact .refl s

theorem hostPut_reportsOnly (s : State) (a : Nat) (w : Word) : ReportsOnly s (hostPut s a w) := rfl

theorem writeStatus_reportsOnly (s : State) (st : Word) (tag : BitVec 32) (code : BitVec 16) (n : Nat) :
    ReportsOnly s (writeStatus s st tag code n) := by
  unfold writeStatus
  split
  · exact .refl s
  · exact (hostPut_reportsOnly s _ _).trans (hostPut_reportsOnly _ _ _)

theorem closePacket_reportsOnly (s : State) (q n : Nat) : ReportsOnly s (closePacket s q n) := by
  unfold closePacket
  split <;> rfl

theorem report_reportsOnly (s : State) (o : Origin) (placedAt : Option Nat) (code : BitVec 16) :
    ReportsOnly s (report s o placedAt code) := by
  have close (u : State) (st : Word) (tag : BitVec 32) (k q n : Nat) :
      ReportsOnly u (closePacket (writeStatus u st tag code k) q n) :=
    (writeStatus_reportsOnly u st tag code k).trans (closePacket_reportsOnly _ q n)
  cases o with
  | queue q st tag n =>
    cases placedAt with
    | some p => exact close s st tag _ q n
    | none => exact ReportsOnly.trans (t := { s with fresh := s.fresh + 1 }) rfl (close _ st tag _ q n)
  | chainOf q st tag n begun => exact close s st tag _ q n
  | launchBy r => exact .refl s

theorem reportEnd_reportsOnly (s : State) (l : Launch) (code : BitVec 16) : ReportsOnly s (reportEnd s l code) :=
  (report_reportsOnly s _ _ code).trans (.foldl (fun t o => report_reportsOnly t o none code) _ _)

theorem logFault_reportsOnly (s : State) (code : BitVec 16) (d : BitVec 12) (p : Nat) (tag : BitVec 16) (core : Nat) (a : Word) :
    ReportsOnly s (logFault s code d p tag core a) := rfl

theorem logRefusal_reportsOnly (s : State) (code : BitVec 16) (d : BitVec 12) : ReportsOnly s (logRefusal s code d) := rfl

/-- A capsule that ends without a plat changes no table but the counters and the queues. -/
theorem endUnplaced_reportsOnly (s : State) (cap : Capsule) (code : BitVec 16) (d : BitVec 12) :
    ReportsOnly s (endUnplaced s cap code d) := by
  have logged : ReportsOnly s (if cap.counted then logRefusal s code d else s) := by
    split
    · exact logRefusal_reportsOnly s code d
    · exact .refl s
  exact ((logged.trans (endCounters_reportsOnly _ cap false code)).trans (report_reportsOnly _ _ _ code)).trans
    (.foldl (fun t o => report_reportsOnly t o none code) _ _)

/-! ## What ending a launch's repair lines changes (R79, R80) -/

/-- The states differ in the cores, in HBM, its poison, its migrations and its cache, in host memory and in the free values used,
and in nothing else. -/
def LinesOnly (s t : State) : Prop :=
  t = { s with
    harts := t.harts, hbm := t.hbm, poison := t.poison, migrations := t.migrations, llc := t.llc, hostMem := t.hostMem
    fresh := t.fresh }

namespace LinesOnly

theorem refl (s : State) : LinesOnly s s := rfl
theorem trans {s t u : State} (a : LinesOnly s t) (b : LinesOnly t u) : LinesOnly s u := by
  unfold LinesOnly at *
  rw [b, a]
theorem foldl {α : Type} {f : State → α → State} (h : ∀ s a, LinesOnly s (f s a)) (xs : List α) (s : State) :
    LinesOnly s (xs.foldl f s) :=
  List.foldlRecOn xs f (refl s) fun _ ht a _ => ht.trans (h _ a)

variable {s t : State} (h : LinesOnly s t)
include h
theorem plats : t.plats = s.plats := by rw [h]
theorem outOfService : t.outOfService = s.outOfService := by rw [h]
theorem grade4 : t.grade4 = s.grade4 := by rw [h]

end LinesOnly

theorem hbmWrite_linesOnly (s : State) (a : Nat) (bs : List Byte) : LinesOnly s (hbmWrite s a bs) := by
  unfold hbmWrite
  extract_lets put t
  have bytes : LinesOnly s t := .foldl (f := put) (fun _ _ => rfl) _ s
  split
  · exact bytes.trans rfl
  · exact bytes

theorem llcRoom_linesOnly (s : State) (line : Nat) : LinesOnly s (llcRoom s line) := by
  unfold llcRoom
  extract_lets ls
  split
  · rfl
  · split <;> rfl

theorem hbmStore_linesOnly (s : State) (a : Nat) (bs : List Byte) (tag : BitVec 16) : LinesOnly s (hbmStore s a bs tag) :=
  ((hbmWrite_linesOnly s a bs).trans (llcRoom_linesOnly _ (a / 256))).trans rfl

theorem extentWrite_linesOnly (s : State) (e : Extent) (off : Nat) (bs : List Byte) (tag : BitVec 16) :
    LinesOnly s (extentWrite s e off bs tag) := by
  unfold extentWrite
  split
  · rfl
  · exact hbmStore_linesOnly s _ bs tag

theorem endLines_linesOnly (settle : Bool) (l : Launch) (h : Nat) (c : Ctx) (s : State) :
    LinesOnly s (endLines settle l h c s) := by
  refine .foldl (fun t line => ?_) _ s
  extract_lets line bs
  split
  · split
    · exact extentWrite_linesOnly t _ _ _ _
    · exact .refl t
  · split <;> rfl

theorem endRepair_linesOnly (settle : Bool) (s : State) (L : Nat) (l : Launch) : LinesOnly s (endRepair settle s L l) := by
  refine .foldl (fun t p => ?_) _ s
  split
  · exact endLines_linesOnly settle l p.1 _ t
  · exact .refl t

/-! ## A launch that fails (R178) -/

theorem platOf_congr {s t : State} (h : t.plats = s.plats) (p : Nat) : platOf t p = platOf s p := by
  simp only [platOf, h]

theorem platOf_clearPlat (s : State) (L q : Nat) (st : PlatState) (p : Nat) :
    platOf (clearPlat s L q st) p =
      if p = q then { platOf s p with state := st, launch := none, quiesce := 0 } else platOf s p := by
  unfold clearPlat
  split
  · subst q
    exact platOf_putPlat_same _ p _
  · exact platOf_putPlat_other _ q p _ ‹_›

theorem failLaunch_eq {s : State} {L : Nat} {l : Launch} (h : launchOf s L = some l) (code : BitVec 16) (st : PlatState) :
    failLaunch s L code st =
      clearPlat (reportEnd (endCounters (endRepair false s L l) l.cap false code) l code) L l.plat st := by
  simp only [failLaunch, h]

/-! ## Plats that are only ever fenced (R186) -/

/-- From s to t the module's grade stands, every plat keeps its definition, and one that was fenced stays so. -/
structure KeepsFences (s t : State) : Prop where
  outOfService : t.outOfService = s.outOfService
  grade4 : t.grade4 = s.grade4
  defd : ∀ p, (platOf t p).defd = (platOf s p).defd
  fenced : ∀ p, (platOf s p).state = .fenced → (platOf t p).state = .fenced

namespace KeepsFences

theorem refl (s : State) : KeepsFences s s := ⟨rfl, rfl, fun _ => rfl, fun _ h => h⟩
theorem trans {s t u : State} (a : KeepsFences s t) (b : KeepsFences t u) : KeepsFences s u where
  outOfService := b.outOfService.trans a.outOfService
  grade4 := b.grade4.trans a.grade4
  defd p := (b.defd p).trans (a.defd p)
  fenced p h := b.fenced p (a.fenced p h)

theorem of_plats {s t : State} (o : t.outOfService = s.outOfService) (g : t.grade4 = s.grade4) (p : t.plats = s.plats) :
    KeepsFences s t where
  outOfService := o
  grade4 := g
  defd q := by rw [platOf_congr p]
  fenced q h := by rwa [platOf_congr p]

theorem of_reports {s t : State} (h : ReportsOnly s t) : KeepsFences s t := of_plats h.outOfService h.grade4 h.plats

theorem of_lines {s t : State} (h : LinesOnly s t) : KeepsFences s t := of_plats h.outOfService h.grade4 h.plats

theorem of_putPlat {s : State} {q : Nat} {P : PlatEntry} (d : P.defd = (platOf s q).defd)
    (f : (platOf s q).state = .fenced → P.state = .fenced) : KeepsFences s (putPlat s q P) where
  outOfService := rfl
  grade4 := rfl
  defd p := by
    by_cases e : p = q
    · rw [e, platOf_putPlat_same, d]
    · rw [platOf_putPlat_other _ _ _ _ e]
  fenced p h := by
    by_cases e : p = q
    · subst e
      rw [platOf_putPlat_same]
      exact f h
    · rwa [platOf_putPlat_other _ _ _ _ e]

end KeepsFences

theorem clearPlat_keepsFences (s : State) (L q : Nat) : KeepsFences s (clearPlat s L q .fenced) where
  outOfService := rfl
  grade4 := rfl
  defd p := by
    rw [platOf_clearPlat]
    split <;> rfl
  fenced p h := by
    rw [platOf_clearPlat]
    split
    · rfl
    · exact h

theorem failLaunch_keepsFences (s : State) (L : Nat) (code : BitVec 16) : KeepsFences s (failLaunch s L code .fenced) := by
  cases h : launchOf s L with
  | none =>
    simp only [failLaunch, h]
    exact .refl s
  | some l =>
    have told := (endCounters_reportsOnly (endRepair false s L l) l.cap false code).trans (reportEnd_reportsOnly _ l code)
    have before := (KeepsFences.of_lines (endRepair_linesOnly false s L l)).trans (.of_reports told)
    rw [failLaunch_eq h]
    exact before.trans (clearPlat_keepsFences _ L l.plat)

theorem endLogged_keepsFences (s : State) (L : Nat) (code : BitVec 16) (d : BitVec 12) :
    KeepsFences s (endLogged s L code d .fenced) := by
  unfold endLogged
  split
  · exact .refl s
  · extract_lets f t
    have logged : ReportsOnly s t := rfl
    exact (KeepsFences.of_reports logged).trans (failLaunch_keepsFences t L code)

/-! ## Grade 4 (R186) -/

/-- Fencing a plat at grade 4 fences it, if it is defined, and keeps every other fence. -/
theorem fenceGrade4_fences (code : BitVec 16) (s : State) (p : Nat × PlatEntry) :
    KeepsFences s (fenceGrade4 code s p) ∧
      ((platOf s p.1).defd = true → (platOf (fenceGrade4 code s p) p.1).state = .fenced) := by
  generalize result : fenceGrade4 code s p = v
  unfold fenceGrade4 at result
  extract_lets t E u P at result
  have ended : KeepsFences s t := by
    dsimp only [t]
    split
    · exact endLogged_keepsFences s _ _ _
    · exact .refl s
  have dropped : KeepsFences s u := by
    refine ended.trans ?_
    dsimp only [u]
    split
    · have freed : KeepsFences t (putPlat t p.1 { E with onward := none }) := .of_putPlat rfl fun h => h
      exact freed.trans (.of_reports (endUnplaced_reportsOnly _ _ _ _))
    · exact .refl t
  split at result
  · subst result
    refine ⟨dropped.trans (.of_putPlat rfl fun _ => rfl), fun _ => ?_⟩
    rw [platOf_putPlat_same]
  · next undefd =>
    subst result
    exact ⟨dropped, fun d => absurd ((dropped.defd p.1).trans d) undefd⟩

/-- Fencing each plat of a list fences those that are defined. -/
theorem foldl_fenceGrade4 (code : BitVec 16) (ps : List (Nat × PlatEntry)) (s : State) :
    KeepsFences s (ps.foldl (fenceGrade4 code) s) ∧
      ∀ p ∈ ps, (platOf s p.1).defd = true → (platOf (ps.foldl (fenceGrade4 code) s) p.1).state = .fenced := by
  induction ps generalizing s with
  | nil => exact ⟨.refl s, fun _ m => nomatch m⟩
  | cons q qs ih =>
    obtain ⟨keeps, fences⟩ := fenceGrade4_fences code s q
    obtain ⟨keepsRest, fencesRest⟩ := ih (fenceGrade4 code s q)
    refine ⟨keeps.trans keepsRest, fun p m d => ?_⟩
    cases m with
    | head => exact keepsRest.fenced _ (fences d)
    | tail _ m => exact fencesRest p m ((keeps.defd p.1).trans d)

theorem enterGrade4_spec (s : State) (code : BitVec 16) :
    (enterGrade4 s code).outOfService = true ∧ (enterGrade4 s code).grade4 = code ∧ (enterGrade4 s code).waitList = [] ∧
      ∀ p, (platOf s p).defd = true → (platOf (enterGrade4 s code) p).state = .fenced := by
  unfold enterGrade4
  extract_lets t caps
  obtain ⟨keeps, fences⟩ :=
    foldl_fenceGrade4 code s.plats { s with outOfService := true, grade4 := code, gzChanged := true }
  have refused := ReportsOnly.foldl (f := fun u c => endUnplaced u c code (Config.freeDetail u.fresh))
    (fun u c => endUnplaced_reportsOnly u c code _) caps { t with waitList := [] }
  refine ⟨refused.outOfService.trans keeps.outOfService, refused.grade4.trans keeps.grade4, refused.waitList, fun p d => ?_⟩
  rw [platOf_congr refused.plats]
  exact fences (p, platOf s p) (mem_plats_of_defd d) d

/-! ## Host registers (R40) -/

theorem writeHostRegister_notify (q : Nat) (v : Word) (s : State) (h : q < 256) :
    writeHostRegister (0x1000 + 8 * q) v s = notifyQueue s q (v.extractLsb' 0 32) := by
  unfold writeHostRegister
  rw [if_neg (by omega), if_neg (by omega), if_pos (by omega), show (0x1000 + 8 * q - 0x1000) / 8 = q by omega]

theorem writeHostRegister_ignored (off : Nat) (v : Word) (s : State) (h8 : off ≠ 8) (h18 : off ≠ 0x18)
    (h : off < 0x1000 ∨ 0x1800 ≤ off ∨ off % 8 ≠ 0) : writeHostRegister off v s = s := by
  unfold writeHostRegister
  rw [if_neg h8, if_neg h18, if_neg (by omega)]

/-! ## The gazetteer (R182, R183) -/

/-- A snapshot begins with its magic, its edition, the time and mstat. -/
theorem head_prefix_snapshot (s : State) (n : Word) :
    leBytes 0x01545a474e 8 ++ leBytes n.toNat 8 ++ leBytes (Config.time1588 s.cycle).toNat 8 ++ leBytes s.mstat.toNat 8 <+:
      snapshot s n := by
  unfold snapshot
  iterate 14 apply List.prefix_append_of_prefix
  exact List.prefix_rfl

theorem hostMem_publish (s : State) :
    (publish s).hostMem =
      Memory.writeBytes s.hostMem (s.gzbase.toNat + (s.gzed + 1).toNat % 2 * 0x10000) (snapshot s (s.gzed + 1)) := by
  simp only [publish, hostWrite]

/-- A word at the head of a snapshot is read where it was published. -/
theorem hostWord_publish_at {s : State} (h : Memory.wf s.hostMem = true) {a : Nat}
    (base : a = s.gzbase.toNat + (s.gzed + 1).toNat % 2 * 0x10000) {pre : List Byte} {w : Word}
    (e : pre ++ leBytes w.toNat 8 <+: snapshot s (s.gzed + 1)) : hostWord (publish s) (a + pre.length) = w := by
  obtain ⟨post, e⟩ := e
  rw [hostWord, hostMem_publish, ← base, ← e]
  exact Memory.word_writeBytes s.hostMem a pre post w h

/-- The magic, the edition and mstat as the host reads them. -/
theorem hostWord_publish (s : State) (h : Memory.wf s.hostMem = true) :
    let a := s.gzbase.toNat + (s.gzed + 1).toNat % 2 * 0x10000
    hostWord (publish s) a = 0x01545a474e ∧ hostWord (publish s) (a + 8) = s.gzed + 1 ∧
      hostWord (publish s) (a + 24) = s.mstat := by
  intro a
  have base : a = s.gzbase.toNat + (s.gzed + 1).toNat % 2 * 0x10000 := rfl
  clear_value a
  have status := head_prefix_snapshot s (s.gzed + 1)
  have edition := ((List.prefix_append _ _).trans (List.prefix_append _ _)).trans status
  have magic : [] ++ leBytes (0x01545a474e : Word).toNat 8 <+: snapshot s (s.gzed + 1) := by
    rw [List.nil_append, show (0x01545a474e : Word).toNat = 0x01545a474e from rfl]
    exact (List.prefix_append _ _).trans edition
  have wordMagic := hostWord_publish_at h base magic
  have wordEdition := hostWord_publish_at h base edition
  have wordStatus := hostWord_publish_at h base status
  rw [List.length_nil, Nat.add_zero] at wordMagic
  rw [leBytes_length] at wordEdition
  simp only [List.length_append, leBytes_length] at wordStatus
  exact ⟨wordMagic, wordEdition, wordStatus⟩

/-! ## Plat definitions and retirements (R177, R178) -/

theorem definePlat_ok {s : State} {p x4 y2 w h r : Nat} (hp : p < 1024)
    (free : (platOf s p).state = .free ∨ (platOf s p).state = .offline) (hw : 0 < w) (hh : 0 < h) (hx : x4 + w ≤ 256)
    (hy : y2 + h ≤ 320) (hr : r < 65536)
    (apart : ∀ q ∈ s.plats, q.1 ≠ p → q.2.defd = true → rectsMeet q.2 x4 y2 w h = false) :
    definePlat p x4 y2 w h r s = putPlat { s with gzChanged := true } p
      { platOf s p with state := .free, defd := true, x4 := x4, y2 := y2, w := w, h := h, rbudget := BitVec.ofNat 16 r } := by
  have all : (s.plats.all fun q => q.1 == p || !q.2.defd || !rectsMeet q.2 x4 y2 w h) = true := by
    simp only [List.all_eq_true, Bool.or_eq_true, beq_iff_eq, Bool.not_eq_true']
    intro q m
    by_cases same : q.1 = p
    · exact .inl (.inl same)
    · cases d : q.2.defd with
      | false => exact .inl (.inr rfl)
      | true => exact .inr (apart q m same d)
  exact if_pos ⟨hp, free, hw, hh, hx, hy, hr, all⟩

theorem definePlat_refused {s : State} {p x4 y2 w h : Nat} (r : Nat)
    (bad : 1024 ≤ p ∨ ((platOf s p).state ≠ .free ∧ (platOf s p).state ≠ .offline) ∨ w = 0 ∨ h = 0 ∨ 256 < x4 + w ∨
      320 < y2 + h) : definePlat p x4 y2 w h r s = s := by
  refine if_neg ?_
  rintro ⟨hp, free, hw, hh, hx, hy, -, -⟩
  rcases bad with outside | ⟨busy, online⟩ | shape
  · omega
  · exact free.elim busy online
  · omega

theorem mem_retiredClusters_retireCluster (s : State) (c : Nat) : c ∈ (retireCluster s c).retiredClusters := by
  have kept : c ∈ (if s.retiredClusters.contains c then s.retiredClusters else s.retiredClusters ++ [c]) := by
    split
    · exact List.contains_iff_mem.mp ‹_›
    · simp
  unfold retireCluster
  extract_lets t
  split
  · split
    · exact kept
    · split <;> exact kept
  · exact kept

theorem platOf_retireCluster {s : State} {c p : Nat} {P : PlatEntry}
    (h : s.plats.find? (fun x => x.2.hasCluster c) = some (p, P)) :
    (P.state = .free → platOf (retireCluster s c) p = { P with state := .offline }) ∧
      (P.state ≠ .free → P.state ≠ .offline → platOf (retireCluster s c) p = { P with retiring := true }) := by
  unfold retireCluster
  extract_lets t
  have found : t.plats.find? (fun x => x.2.hasCluster c) = some (p, P) := h
  simp only [found]
  refine ⟨fun free => ?_, fun busy online => ?_⟩
  · rw [if_pos free, platOf_putPlat_same]
  · rw [if_neg busy, if_neg online, platOf_putPlat_same]

/-! ## Boot (R18) -/

theorem down_portsAtBoot (flash : Memory) {k : Nat} (h : k < 32) :
    (SMap.getD (portsAtBoot flash) k Port.reset).down = !Config.linkSetUp flash k := by
  have key : k ∈ (upFrom 0 32).filter (fun j => !Config.linkSetUp flash j) ↔ Config.linkSetUp flash k = false := by
    simp [mem_upFrom, h]
  unfold portsAtBoot SMap.getD
  rw [SMap.find_map_const]
  cases up : Config.linkSetUp flash k with
  | true => rw [if_neg (by simp [key, up])]; rfl
  | false => rw [if_pos (key.mpr up)]; rfl

/-! ## The statement -/

theorem exec_hostRegisterWrite (off : Nat) (v : Word) (s : State) :
    exec (.hostRegisterWrite off v) s = .next (writeHostRegister off v s) := rfl
theorem exec_uqwiNotify (q : Nat) (wi : BitVec 32) (s : State) : exec (.uqwiNotify q wi) s = .next (notifyQueue s q wi) := rfl
theorem exec_gazetteerPublish (s : State) : exec .gazetteerPublish s = .next (publish s) := rfl
theorem exec_platDefine (p x4 y2 w h r : Nat) (s : State) :
    exec (.platDefine p x4 y2 w h r) s = .next (definePlat p x4 y2 w h r s) := rfl
theorem exec_clusterRetire (c : Nat) (s : State) :
    exec (.clusterRetire c) s = .next (if c < Config.nClusters then retireCluster s c else s) := rfl
theorem exec_grade4Entry (code : BitVec 16) (s : State) :
    exec (.grade4Entry code) s = .next (if code = codeDeviceFatal ∨ code = codeThermal then enterGrade4 s code else s) := rfl
theorem exec_moduleBoot (s : State) : exec .moduleBoot s = .next (boot s) := rfl

/-- Settles O54: each event is one function of the state; grade 4 by what fencing keeps, the gazetteer by the words at the head of
its snapshot, boot by the ports that the measured flash leaves out. -/
theorem surveyAndBoot : Obligations.SurveyAndBoot := by
  unfold Obligations.SurveyAndBoot
  refine ⟨fun s off v => ⟨?_, ?_, ?_, ?_⟩, fun s => ?_, fun s p x4 y2 w h r => ⟨?_, ?_⟩, fun s c => ⟨?_, ?_⟩,
    fun s code => ⟨?_, ?_⟩, fun s => ?_⟩
  · rintro rfl
    rfl
  · rintro rfl
    rfl
  · rintro q hq rfl
    rw [exec_hostRegisterWrite, exec_uqwiNotify, writeHostRegister_notify q v s hq]
  · intro h8 h18 h
    rw [exec_hostRegisterWrite, writeHostRegister_ignored off v s h8 h18 h]
  · exact ⟨publish s, exec_gazetteerPublish s, rfl, rfl, hostWord_publish s⟩
  · intro hp free hw hh hx hy hr apart
    rw [exec_platDefine, definePlat_ok hp free hw hh hx hy hr apart]
    exact ⟨_, rfl, platOf_putPlat_same _ p _⟩
  · intro bad
    rw [exec_platDefine, definePlat_refused r bad]
  · intro outside
    rw [exec_clusterRetire, if_neg (by omega)]
  · intro inside
    rw [exec_clusterRetire, if_pos inside]
    exact ⟨_, rfl, mem_retiredClusters_retireCluster s c, fun p P found => platOf_retireCluster found⟩
  · intro grade
    rw [exec_grade4Entry, if_pos grade]
    exact ⟨_, rfl, enterGrade4_spec s code⟩
  · intro notFatal notThermal
    rw [exec_grade4Entry, if_neg (not_or.mpr ⟨notFatal, notThermal⟩)]
  · exact ⟨boot s, exec_moduleBoot s, rfl, rfl, rfl, rfl, rfl, rfl, rfl, rfl, rfl, rfl, rfl, rfl, rfl, rfl, rfl, rfl,
      fun k hk => down_portsAtBoot s.flash hk⟩

end Sys2Proof.Machine
end

section
/-! SUPPORT. Issuing: what a word leaves as it puts an operation into the mesh, keeps a copy of it, takes a stamp, a number and a
destination, and retires (spec/02 R28 R30, spec/06 R103 R107 R111, spec/13 R223). -/

namespace Sys2Proof.Machine

open Sys2Proof.Claims

/-! ## Cores and contexts after an update -/

/-- What an update of a core leaves alone in that core, it leaves alone in every core. -/
theorem hartOf_putHart_keeps {α : Type} (f : Hart → α) {s : State} {h : Nat} {H : Hart} (e : f H = f (hartOf s h)) (k : Nat) :
    f (hartOf (putHart s h H) k) = f (hartOf s k) := by
  by_cases d : k = h
  · rw [d, hartOf_putHart_same, e]
  · rw [hartOf_putHart_other _ _ _ _ d]

theorem Hart.ctx_launch (H : Hart) (L : Nat) : (H.ctx L).launch = L := by
  cases e : H.ctxs.find? (fun c => c.launch == L) with
  | none => simp [Hart.ctx, e, Ctx.reset]
  | some c => simpa [Hart.ctx, e] using List.find?_some e

@[simp] theorem ctxOf_launch (s : State) (h L : Nat) : (ctxOf s h L).launch = L := (hartOf s h).ctx_launch L

theorem ctxOf_putCtx_same {s : State} {h L : Nat} {c : Ctx} (e : c.launch = L) : ctxOf (putCtx s h c) h L = c := by
  subst e
  simp [ctxOf, putCtx]

theorem ctxOf_putCtx_other {s : State} {h k L : Nat} {c : Ctx} (d : k ≠ h ∨ L ≠ c.launch) :
    ctxOf (putCtx s h c) k L = ctxOf s k L := by
  by_cases e : k = h
  · subst e
    simp [ctxOf, putCtx, Hart.ctx_putCtx_other _ _ _ (d.resolve_left (· rfl))]
  · simp [ctxOf, putCtx, hartOf_putHart_other _ _ _ _ e]

/-- What an update of a context leaves alone in that context, it leaves alone in every context. -/
theorem ctxOf_putCtx_keeps {α : Type} (f : Ctx → α) {s : State} {h L : Nat} {c : Ctx} (l : c.launch = L)
    (e : f c = f (ctxOf s h L)) (k M : Nat) : f (ctxOf (putCtx s h c) k M) = f (ctxOf s k M) := by
  by_cases d : k = h ∧ M = L
  · obtain ⟨rfl, rfl⟩ := d
    rw [ctxOf_putCtx_same l, e]
  · rw [ctxOf_putCtx_other (by rw [l]; tauto)]

theorem ctxOf_congr {s t : State} {h : Nat} (e : (hartOf t h).ctxs = (hartOf s h).ctxs) (L : Nat) : ctxOf t h L = ctxOf s h L := by
  simp only [ctxOf, Hart.ctx, e]

/-! ## Issuing (R28, R30, R107, R111) -/

/-- A word goes on from s to t by issuing operations, with n sequence values used: of the module the cores, the mesh and the numbers
given differ; of the current slot its scoreboard, which keeps its entries, and its queues; no byte of a scratchpad differs, and what is on its way and
what the message engine keeps stays so. -/
structure Issues (n : Nat) (s t : State) : Prop where
  rest : t = { s with harts := t.harts, net := t.net, nextId := t.nextId, fresh := t.fresh }
  slot : curSlot t = { curSlot s with sb := (curSlot t).sb, lq := (curSlot t).lq }
  scratch : ∀ h L, (ctxOf t h L).scratch = (ctxOf s h L).scratch
  sseq : (curCtx t).sseq = (curCtx s).sseq + n
  nextId : s.nextId ≤ t.nextId
  net : s.net ⊆ t.net
  sb : (curSlot s).sb ⊆ (curSlot t).sb
  copies : (hartOf s (curHart s)).copies ⊆ (hartOf t (curHart s)).copies

namespace Issues

theorem refl (s : State) : Issues 0 s s where
  rest := rfl
  slot := rfl
  scratch _ _ := rfl
  sseq := rfl
  nextId := Nat.le_refl _
  net := List.Subset.refl _
  sb := List.Subset.refl _
  copies := List.Subset.refl _

variable {n m : Nat} {s t u : State}

theorem cur (a : Issues n s t) : t.cur = s.cur := by rw [a.rest]
theorem curHart (a : Issues n s t) : curHart t = curHart s := by rw [Machine.curHart, Machine.curHart, a.cur]
theorem curNum (a : Issues n s t) : curNum t = curNum s := by rw [Machine.curNum, Machine.curNum, a.cur]
theorem curLaunch (a : Issues n s t) : curLaunch t = curLaunch s := by rw [Machine.curLaunch, a.slot, Machine.curLaunch]
theorem paired (a : Issues n s t) : (curSlot t).paired = (curSlot s).paired := by rw [a.slot]
theorem curIssuer (a : Issues n s t) : curIssuer t = curIssuer s := by
  simp only [Machine.curIssuer, a.curHart, a.curNum]
  rw [a.slot]

theorem trans (a : Issues n s t) (b : Issues m t u) : Issues (n + m) s u where
  rest := by rw [b.rest, a.rest]
  slot := by rw [b.slot, a.slot]
  scratch h L := (b.scratch h L).trans (a.scratch h L)
  sseq := by rw [b.sseq, a.sseq, Nat.add_assoc]
  nextId := a.nextId.trans b.nextId
  net := List.Subset.trans a.net b.net
  sb := List.Subset.trans a.sb b.sb
  copies := List.Subset.trans a.copies (a.curHart ▸ b.copies)

theorem foldl {α : Type} {f : State → α → State} (h : ∀ s a, Issues 0 s (f s a)) (xs : List α) (s : State) :
    Issues 0 s (xs.foldl f s) :=
  List.foldlRecOn xs f (refl s) fun _ a x _ => a.trans (h _ x)

/-- A change of the cores that leaves the slots and the contexts alone. -/
theorem of_cores (rest : t = { s with harts := t.harts, net := t.net, nextId := t.nextId, fresh := t.fresh })
    (slots : ∀ h, (hartOf t h).slots = (hartOf s h).slots) (ctxs : ∀ h, (hartOf t h).ctxs = (hartOf s h).ctxs)
    (copies : (hartOf s (Machine.curHart s)).copies ⊆ (hartOf t (Machine.curHart s)).copies) (nextId : s.nextId ≤ t.nextId)
    (net : s.net ⊆ t.net) : Issues 0 s t ∧ curSlot t = curSlot s := by
  have cur : t.cur = s.cur := by rw [rest]
  have slot : curSlot t = curSlot s := by
    simp only [curSlot, Machine.curHart, Machine.curNum, cur]
    exact slot_congr (slots _) _
  have ctx (h L : Nat) : ctxOf t h L = ctxOf s h L := ctxOf_congr (ctxs h) L
  refine ⟨⟨rest, by rw [slot], fun h L => by rw [ctx], ?_, nextId, net, by rw [slot]; exact List.Subset.refl _, copies⟩, slot⟩
  simp only [curCtx, Machine.curLaunch, Machine.curHart, cur, slot, ctx, Nat.add_zero]

end Issues

/-- A change of one core that leaves its slots, its contexts and its copies alone. -/
theorem issues_putHart {s : State} {h : Nat} {H : Hart} (slots : H.slots = (hartOf s h).slots) (ctxs : H.ctxs = (hartOf s h).ctxs)
    (copies : (hartOf s h).copies ⊆ H.copies) : Issues 0 s (putHart s h H) ∧ curSlot (putHart s h H) = curSlot s := by
  refine Issues.of_cores rfl (hartOf_putHart_keeps (·.slots) slots) (hartOf_putHart_keeps (·.ctxs) ctxs) ?_ (Nat.le_refl _)
    (List.Subset.refl _)
  by_cases d : curHart s = h
  · rw [d, hartOf_putHart_same]
    exact copies
  · rw [hartOf_putHart_other _ _ _ _ d]
    exact List.Subset.refl _

theorem issues_send (s : State) (its : List NetItem) (n f : Nat) :
    Issues 0 s { s with nextId := s.nextId + n, net := s.net ++ its, fresh := f } ∧
      curSlot { s with nextId := s.nextId + n, net := s.net ++ its, fresh := f } = curSlot s :=
  Issues.of_cores rfl (fun _ => rfl) (fun _ => rfl) (List.Subset.refl _) (Nat.le_add_right _ _) (List.subset_append_left _ _)

/-- A change of the current slot's scoreboard and queues that keeps the entries. -/
theorem issues_putCur {s : State} {σ : Slot} (e : σ = { curSlot s with sb := σ.sb, lq := σ.lq }) (sb : (curSlot s).sb ⊆ σ.sb) :
    Issues 0 s (putCur s σ) where
  rest := rfl
  slot := by rw [curSlot_putCur, ← e]
  scratch h L := by rw [ctxOf_putCur]
  sseq := by
    have l : σ.ctx = (curSlot s).ctx := by rw [e]
    simp [curCtx, curLaunch, l]
  nextId := Nat.le_refl _
  net := List.Subset.refl _
  sb := by rwa [curSlot_putCur]
  copies := by
    rw [hartOf_putCur, Hart.putSlot_copies]
    exact List.Subset.refl _

/-- A change of the current context that leaves its bytes alone and uses n sequence values. -/
theorem issues_putCurCtx {s : State} {c : Ctx} {n : Nat} (l : c.launch = curLaunch s) (b : c.scratch = (curCtx s).scratch)
    (q : c.sseq = (curCtx s).sseq + n) : Issues n s (putCurCtx s c) ∧ curSlot (putCurCtx s c) = curSlot s := by
  have slot : curSlot (putCurCtx s c) = curSlot s := (slotsKept_putCtx s (curHart s) c).curSlot
  refine ⟨⟨rfl, by rw [slot], ctxOf_putCtx_keeps (·.scratch) l b, ?_, Nat.le_refl _, List.Subset.refl _, ?_, ?_⟩, slot⟩
  · rw [← q]
    have same : ctxOf (putCtx s (curHart s) c) (curHart s) (curLaunch s) = c := ctxOf_putCtx_same l
    simp only [curCtx, curLaunch, slot]
    exact congrArg Ctx.sseq same
  · rw [slot]
    exact List.Subset.refl _
  · simp [putCurCtx, putCtx, Hart.putCtx]

/-! ### Coalesced bytes sent on (R54) -/

theorem flushLine_issues (L h k : Nat) (s : State) : Issues 0 s (flushLine L h k s) ∧ curSlot (flushLine L h k s) = curSlot s := by
  unfold flushLine
  extract_lets H l home prior src it t
  split
  · exact ⟨.refl s, rfl⟩
  · obtain ⟨put, slot⟩ := issues_putHart (s := s) (h := h) (H := H.putLine k { l with shared := none, stores := [], since := 0 })
      rfl rfl (List.Subset.refl _)
    obtain ⟨sent, slot'⟩ := issues_send t [it] 1 t.fresh
    exact ⟨put.trans sent, slot'.trans slot⟩

/-- Lines sent on one after the other. -/
theorem flushLines_issues (L h : Nat) (xs : List (Nat × L1Line)) (s : State) :
    Issues 0 s (xs.foldl (fun t x => flushLine L h x.1 t) s) ∧
      curSlot (xs.foldl (fun t x => flushLine L h x.1 t) s) = curSlot s :=
  List.foldlRecOn xs _ (motive := fun t => Issues 0 s t ∧ curSlot t = curSlot s) ⟨.refl s, rfl⟩ fun t a x _ =>
    ⟨a.1.trans (flushLine_issues L h x.1 t).1, (flushLine_issues L h x.1 t).2.trans a.2⟩

theorem flushScope_issues (L h : Nat) (sc : Scope) (s : State) :
    Issues 0 s (flushScope L h sc s) ∧ curSlot (flushScope L h sc s) = curSlot s := flushLines_issues L h _ s

theorem flushIds_issues (L h : Nat) (ids : List Nat) (s : State) :
    Issues 0 s (flushIds L h ids s) ∧ curSlot (flushIds L h ids s) = curSlot s := flushLines_issues L h _ s

theorem releasePush_issues (L h : Nat) (d : OpDesc) (s : State) :
    Issues 0 s (releasePush L h d s) ∧ curSlot (releasePush L h d s) = curSlot s := by
  unfold releasePush
  split
  · exact flushScope_issues L h d.scope s
  · exact ⟨.refl s, rfl⟩

/-! ### One operation -/

/-- The operation op of the current slot is on its way as the item it of the mesh. -/
structure Sent (s t : State) (op : NetOp) (it : NetItem) : Prop where
  op : it.op = op
  src : it.src = curIssuer s
  id : s.nextId ≤ it.id
  net : it ∈ t.net

theorem Sent.mono {s t u : State} {op : NetOp} {it : NetItem} {n : Nat} (a : Sent s t op it) (b : Issues n t u) : Sent s u op it :=
  ⟨a.op, a.src, a.id, b.net a.net⟩

theorem issue_ok (buffer : Bool) (op : NetOp) (d : OpDesc) {s : State} (alone : (curSlot s).paired = false) :
    ∃ it t, issue buffer op d [] s = .ok (it, t) ∧ Sent s t op it ∧ Issues 0 s t ∧ curSlot t = curSlot s := by
  unfold issue
  extract_lets h prior soft u id it H t
  obtain ⟨pushed, slot1⟩ := releasePush_issues (curLaunch s) h d s
  obtain ⟨flushed, slot2⟩ := flushIds_issues (curLaunch s) h prior (releasePush (curLaunch s) h d s)
  have before : Issues 0 s u := pushed.trans flushed
  have slotU : curSlot u = curSlot s := slot2.trans slot1
  obtain ⟨noted, slot3⟩ := issues_putHart (s := { u with nextId := id + 1 }) (h := h)
    (H := { H with out := H.out ++ [d.out id (curNum u) (curSlot u).act] }) rfl rfl (List.Subset.refl _)
  obtain ⟨numbered, slot4⟩ := issues_send u [] 1 u.fresh
  rw [List.append_nil] at numbered slot4
  have kept : Issues 0 s t := (before.trans numbered).trans noted
  have slotT : curSlot t = curSlot s := (slot3.trans slot4).trans slotU
  obtain ⟨sent, slot5⟩ := issues_send t [it] 0 t.fresh
  have single : ((curSlot u).paired && buffer) = false := by rw [slotU, alone, Bool.false_and]
  rw [if_neg (by rw [single]; decide)]
  exact ⟨it, _, rfl, ⟨rfl, before.curIssuer, before.nextId, List.mem_append_right _ (List.mem_singleton_self _)⟩, kept.trans sent,
    slot5.trans slotT⟩

theorem needSb_ok {n : Nat} {s : State} (h : (curSlot s).sb.length + n ≤ 16) : needSb n s = .ok ((), s) := by
  unfold needSb
  rw [if_neg (by omega)]

/-- The slot with an entry as the last of its scoreboard. -/
def Slot.addEntry (σ : Slot) (e : SbEntry) : Slot := { σ with sb := σ.sb ++ [e] }

theorem Slot.mem_addEntry (σ : Slot) (e : SbEntry) : e ∈ (σ.addEntry e).sb := by simp [Slot.addEntry]

/-- An entry is added with its operation as the matrices read it. -/
theorem addSb_ok (e : SbEntry) (s : State) :
    ∃ f, f = { e with outOp := f.outOp } ∧ addSb e s = .ok ((), putCur s ((curSlot s).addEntry f)) := ⟨_, rfl, rfl⟩

theorem issues_addEntry (s : State) (e : SbEntry) : Issues 0 s (putCur s ((curSlot s).addEntry e)) :=
  issues_putCur rfl (List.subset_append_left _ _)

theorem keepCopy_issues (s : State) (it : NetItem) : Issues 0 s (keepCopy s it) ∧ curSlot (keepCopy s it) = curSlot s :=
  issues_putHart (H := { hartOf s it.src.hart with copies := (hartOf s it.src.hart).copies ++ [⟨it, 0, none, 0, none⟩] }) rfl rfl
    (List.subset_append_left _ _)

theorem mem_copies_keepCopy (s : State) (it : NetItem) : ⟨it, 0, none, 0, none⟩ ∈ (hartOf (keepCopy s it) it.src.hart).copies := by
  simp [keepCopy]

/-- An operation that the message engine keeps: its copy, and its KIND 6 entry (R111). -/
theorem sendVia_ok (buffer : Bool) (op : NetOp) (d : OpDesc) (info : BitVec 50) {s : State} (alone : (curSlot s).paired = false)
    (room : (curSlot s).sb.length < 16) :
    ∃ it t e, sendVia buffer op d info s = .ok (it, t) ∧ Sent s t op it ∧ Issues 0 s t ∧
      e = { SbEntry.plain it.id 6 info with item := some it, outOp := e.outOp } ∧ curSlot t = (curSlot s).addEntry e ∧
      ⟨it, 0, none, 0, none⟩ ∈ (hartOf t (curHart s)).copies := by
  obtain ⟨it, t, issued, sent, goes, slot⟩ := issue_ok buffer op d alone
  obtain ⟨e, he, added⟩ := addSb_ok { SbEntry.plain it.id 6 info with item := some it } t
  have entered := issues_addEntry t e
  obtain ⟨copied, slotW⟩ := keepCopy_issues (putCur t ((curSlot t).addEntry e)) it
  have home : it.src.hart = curHart s := by rw [sent.src]; rfl
  refine ⟨it, _, e, ?_, (sent.mono entered).mono copied, (goes.trans entered).trans copied, he, ?_, ?_⟩
  · unfold sendVia
    rw [bind_ok (needSb_ok room), bind_ok issued, bind_ok added]
    rfl
  · rw [slotW, curSlot_putCur, slot]
  · rw [← home]
    exact mem_copies_keepCopy _ it

/-! ### What reading operands leaves (R223) -/

theorem CurSlotOnly.launchOf {s t : State} (a : CurSlotOnly s t) (L : Nat) : launchOf t L = launchOf s L := by
  simp only [Machine.launchOf, a.2.1]

/-- A word that has read sources: the current slot differs from before in its queues and streams alone. -/
structure Read (s t : State) : Prop where
  only : CurSlotOnly s t
  slot : curSlot t = { curSlot s with sq := (curSlot t).sq, cq := (curSlot t).cq, sm := (curSlot t).sm }

namespace Read

theorem of_readA {x : ASrc} {s t : State} {w : Word} (e : readA x s = .ok (w, t)) : Read s t := ⟨(readA_slot e).1, (readA_slot e).2⟩

variable {s t u : State}

theorem refl (s : State) : Read s s := ⟨.refl s, rfl⟩
theorem trans (a : Read s t) (b : Read t u) : Read s u := ⟨a.only.trans b.only, by rw [b.slot, a.slot]⟩
theorem curHart (a : Read s t) : curHart t = curHart s := a.only.curHart
theorem curNum (a : Read s t) : curNum t = curNum s := a.only.curNum
theorem curLaunch (a : Read s t) : curLaunch t = curLaunch s := by rw [Machine.curLaunch, a.slot, Machine.curLaunch]
theorem paired (a : Read s t) : (curSlot t).paired = (curSlot s).paired := by rw [a.slot]
theorem agreed (a : Read s t) : (curSlot t).agreed = (curSlot s).agreed := by rw [a.slot]
theorem inTrap (a : Read s t) : (curSlot t).inTrap = (curSlot s).inTrap := by rw [a.slot]
theorem tcause (a : Read s t) : (curSlot t).tcause = (curSlot s).tcause := by rw [a.slot]
theorem launchOf (a : Read s t) (L : Nat) : launchOf t L = launchOf s L := a.only.launchOf L
theorem curIssuer (a : Read s t) : curIssuer t = curIssuer s := by
  simp only [Machine.curIssuer, a.curHart, a.curNum]
  rw [a.slot]

end Read

/-! ### A word that retires -/

theorem endA_unpaired {t : State} (alone : (curSlot t).paired = false) :
    endA false t = putCur t ((curSlot t).retireA false .next) := by
  unfold endA retireAt countBundle
  rw [slotOf_putSlot_same, if_neg]
  · rfl
  · simp [Slot.retireA, alone]

theorem Issues.sameMemory {n : Nat} {s t : State} (a : Issues n s t) (τ : Slot) : SameMemory s (putCur t τ) := by
  refine ⟨fun h L b => by rw [ctxOf_putCur, a.scratch], fun b => ?_, fun b => ?_⟩
  · rw [putCur_hbm, a.rest]
  · rw [putCur_hostMem, a.rest]

section
variable {i : Instr} {s s1 t : State} {op : NetOp} {it : NetItem} {e : SbEntry} {n : Nat}

/-- A word whose operands were read in s1, which has gone on to t, and retires there. -/
theorem retires_next (alone : (curSlot s).paired = false) (r : Read s s1) (g : Issues n s1 t) :
    let v := endA false t
    v = putCur t (curSlot v) ∧ (curSlot v).sb = (curSlot t).sb ∧ (curSlot v).pc = (curSlot s).pc + 1 ∧ (curSlot v).aWait = none ∧
      (curSlot v).a = (curSlot s).a ∧ (curSlot v).e = (curSlot s).e ∧ (curCtx v).sseq = (curCtx s1).sseq + n := by
  have single : (curSlot t).paired = false := by rw [g.paired, r.paired, alone]
  simp only [endA_unpaired single, curSlot_putCur]
  refine ⟨trivial, rfl, ?_, rfl, ?_, ?_, ?_⟩
  · simp only [Slot.retireA]
    rw [g.slot, r.slot]
  · simp only [Slot.retireA]
    rw [g.slot, r.slot]
  · simp only [Slot.retireA]
    rw [g.slot, r.slot]
  · rw [← g.sseq]
    simp [curCtx, curLaunch, Slot.retireA]

theorem sendsKept_of (run : exec i s = .next (endA false t)) (alone : (curSlot s).paired = false) (r : Read s s1)
    (g : Issues n s1 t) (sent : Sent s1 t op it) (mem : e ∈ (curSlot t).sb) (item : e.item = some it) (kind : e.kind = 6)
    (kept : e.refused = false) (copy : ⟨it, 0, none, 0, none⟩ ∈ (hartOf t (curHart s)).copies) : SendsKept i s s1 op n := by
  obtain ⟨v, sb, pc, wait, a, e', sseq⟩ := retires_next alone r g
  refine ⟨endA false t, it, e, run, sent.op, sent.src.trans r.curIssuer, sent.id, ?_, sb ▸ mem, item, kind, kept, ?_, sseq, pc, wait, a,
    e', v ▸ g.sameMemory _⟩
  · rw [if_neg (by simp [alone]), v, putCur_net]
    exact sent.net
  · have home : curHart s = curHart t := (g.curHart.trans r.curHart).symm
    rw [v, home, hartOf_putCur, Hart.putSlot_copies, ← home]
    exact copy

theorem sendsFor_of {d : Option ADst} {buffer : Bool} (run : exec i s = .next (endA false t)) (alone : (curSlot s).paired = false)
    (r : Read s s1) (g : Issues 0 s1 t) (sent : Sent s1 t op it) (mem : e ∈ (curSlot t).sb) (item : e.item = some it)
    (kept : e.refused = false) (dst : e.dst = d) : SendsFor i s s1 op e.kind d buffer := by
  obtain ⟨v, sb, pc, wait, a, e', -⟩ := retires_next alone r g
  refine ⟨endA false t, it, e, run, sent.op, sent.src.trans r.curIssuer, sent.id, ?_, sb ▸ mem, item, rfl, dst, kept, pc, wait, a,
    e', v ▸ g.sameMemory _⟩
  rw [if_neg (by simp [alone]), v, putCur_net]
  exact sent.net

end

/-! ### Destinations taken (R103, R244) -/

/-- The slot with destination d taken for operation id: a queue's entry is reserved. -/
def Slot.reserved (σ : Slot) (d : ADst) (id : Nat) : Slot :=
  match d with
  | .lq k => { σ with lq := σ.lq.set k (σ.lq[k] ++ [.reserved id]) }
  | _ => σ

theorem Slot.reserved_eq (σ : Slot) (d : ADst) (id : Nat) : σ.reserved d id = { σ with lq := (σ.reserved d id).lq } := by
  cases d <;> rfl

theorem Slot.reserved_sb (σ : Slot) (d : ADst) (id : Nat) : (σ.reserved d id).sb = σ.sb := by
  rw [σ.reserved_eq]

theorem reserve_ok {d : ADst} {s : State} (takes : Takes (curSlot s) d) (id : Nat) :
    ∃ t, reserve d id s = .ok ((), t) ∧ Issues 0 s t ∧ curSlot t = (curSlot s).reserved d id := by
  obtain ⟨free, room⟩ := takes
  cases d with
  | lq k =>
    refine ⟨putCur s ((curSlot s).reserved (.lq k) id), ?_, issues_putCur rfl ?_, curSlot_putCur _ _⟩
    · simp only [reserve, pushLq]
      rw [if_neg (by have := room k rfl; omega)]
      rfl
    · rw [Slot.reserved_sb]
      exact List.Subset.refl _
  | a n => exact ⟨s, notPending_ok free, .refl s, rfl⟩
  | sm n => exact ⟨s, notPending_ok free, .refl s, rfl⟩
  | z => exact ⟨s, notPending_ok free, .refl s, rfl⟩

/-- A destination can still be taken after another: of one queue two entries are needed. -/
theorem takes_reserved {σ : Slot} {d t : ADst} {id : Nat} (takes : Takes σ t)
    (two : ∀ k, d = .lq k → t = .lq k → σ.lq[k].length < 15) : Takes (σ.reserved d id) t := by
  obtain ⟨free, room⟩ := takes
  refine ⟨by rw [σ.reserved_eq]; exact free, fun k e => ?_⟩
  cases d with
  | lq j =>
    simp only [Slot.reserved, Fin.getElem_fin, Vector.getElem_set]
    split
    · have : j = k := Fin.ext ‹_›
      subst this
      have := two j rfl e
      simp only [List.length_append, List.length_singleton]
      exact Nat.succ_lt_succ this
    · exact room k e
  | a n => exact room k e
  | sm n => exact room k e
  | z => exact room k e

/-- An entry that writes no destination keeps none from being taken. -/
theorem takes_addEntry {σ : Slot} {d : ADst} {e : SbEntry} (takes : Takes σ d) (first : e.dst = none) (second : e.dst2 = none) :
    Takes (σ.addEntry e) d := by
  refine ⟨?_, takes.2⟩
  have free := takes.1
  unfold Slot.pendingOn at free ⊢
  split
  · rfl
  · rw [if_neg ‹_›] at free
    simpa [Slot.addEntry, List.find?_append, first, second] using free

/-- The scoreboard entry of a load that is on its way as item it (R28). -/
theorem addPending_ok (kind : Nat) {d : ADst} (p : Word) (it : NetItem) {s : State} (takes : Takes (curSlot s) d)
    (room : (curSlot s).sb.length < 16) :
    ∃ t e, addPending kind d p it s = .ok ((), t) ∧ Issues 0 s t ∧ e ∈ (curSlot t).sb ∧ e.item = some it ∧ e.refused = false ∧
      e.dst = some d ∧ e.kind = kind := by
  obtain ⟨u, reserved, goes, -⟩ := reserve_ok takes it.id
  obtain ⟨e, he, added⟩ :=
    addSb_ok { SbEntry.plain it.id kind (infoOf p) with destCode := dstCode d, dst := some d, item := some it } u
  refine ⟨_, e, ?_, goes.trans (issues_addEntry u e), ?_, by rw [he], by rw [he]; rfl, by rw [he], by rw [he]; rfl⟩
  · unfold addPending
    rw [bind_ok (needSb_ok room), bind_ok reserved]
    exact added
  · rw [curSlot_putCur]
    exact Slot.mem_addEntry _ e

/-! ### Stamps and numbers (R30, R107) -/

theorem mkStamp_next (s : State) : mkStamp (curCtx s).ply (curHart s) (curCtx s).sseq = nextStamp s := rfl

theorem peekStamp_ok {s : State} (h : CanSend s) : peekStamp s = .ok (nextStamp s, s) := by
  obtain ⟨left, free, -⟩ := h
  have open' : ¬ (4096 ≤ (curCtx s).sseq) := by omega
  simp [peekStamp, free, open', mkStamp_next]

theorem takeStamp_ok {s : State} (h : CanSend s) :
    ∃ t, takeStamp s = .ok (nextStamp s, t) ∧ Issues 1 s t ∧ curSlot t = curSlot s := by
  obtain ⟨goes, slot⟩ := issues_putCurCtx (s := s) (c := { curCtx s with sseq := (curCtx s).sseq + 1 }) (n := 1) (ctxOf_launch ..) rfl rfl
  refine ⟨_, ?_, goes, slot⟩
  unfold takeStamp
  rw [bind_ok (peekStamp_ok h)]
  rfl

theorem countSent_issues (s : State) (home : Option Nat) :
    Issues 0 s (countSent s (curHart s) (curLaunch s) home) ∧ curSlot (countSent s (curHart s) (curLaunch s) home) = curSlot s := by
  unfold countSent
  cases home with
  | none => exact ⟨.refl s, rfl⟩
  | some u =>
    dsimp only
    split
    · exact issues_putCurCtx (s := s) (n := 0) (ctxOf_launch ..) rfl rfl
    · exact ⟨.refl s, rfl⟩

/-- Fewer than n numbers leave one below n free. -/
theorem exists_lt_notMem {n : Nat} {ks : List Nat} (h : ks.length < n) : ∃ i < n, i ∉ ks := by
  have few : ks.toFinset.card < (Finset.range n).card := by
    rw [Finset.card_range]
    exact (List.toFinset_card_le ks).trans_lt h
  obtain ⟨i, below, free⟩ := Finset.exists_mem_notMem_of_card_lt_card few
  exact ⟨i, Finset.mem_range.mp below, fun m => free (List.mem_toFinset.mpr m)⟩

theorem takeNum_ok {s : State} (room : (curSlot s).sb.length < 16) (free : NumsFree s) :
    ∃ n, takeNum s = .ok (n, { s with fresh := s.fresh + 1 }) := by
  obtain ⟨i, below, unused⟩ := exists_lt_notMem (n := 16) (ks := (curSlot s).sb.filterMap (·.num))
    ((List.length_filterMap_le _ _).trans_lt room)
  unfold takeNum
  extract_lets frees
  have mem : i ∈ frees := by
    simp only [frees, List.mem_filter, mem_upFrom, free i, Bool.not_false, Bool.and_true, Bool.not_eq_true', List.any_eq_false,
      beq_iff_eq]
    exact ⟨⟨Nat.zero_le i, by omega⟩, fun e m q => unused (List.mem_filterMap.mpr ⟨e, m, q⟩)⟩
  have inside : Config.freeChoice s.fresh % frees.length < frees.length := Nat.mod_lt _ (List.length_pos_of_mem mem)
  rw [List.getElem?_eq_getElem inside]
  exact ⟨_, rfl⟩

end Sys2Proof.Machine
end

section
/-! SUPPORT. The words of repair cells (spec/14 R249 to R252). -/

namespace Sys2Proof.Machine

open Sys2Proof.Claims

/-! ### The words of repair cells (R249 to R252) -/

theorem exec_orcDecl (x : ASrc) (cls : OrcClass) (s : State) : exec (.orcDecl x cls) s = execOrcDecl x cls s := rfl
theorem exec_orcApp (d : ADst) (x y : ASrc) (s : State) : exec (.orcApp d x y) s = execOrcApp d x y s := rfl
theorem exec_orcLdt (d : ADst) (x : ASrc) (t : ADst) (s : State) : exec (.orcLdt d x t) s = execOrcLdt d x t s := rfl
theorem exec_orcLds (d : ADst) (x y : ASrc) (s : State) : exec (.orcLds d x y) s = execOrcLds d x y s := rfl

/-- The one check that looks at nothing but the space code and the core: both are so of no repair line (R8, R243). -/
theorem cellCheck_space {p : Word} {decl : Bool} {s : State} (bad : spaceOf p ≠ 5 ∨ isCompute (curHart s) = false) :
    cellCheck p decl s = .error (.trap ⟨codeSpace, BitVec.ofNat 12 (spaceOf p), p⟩ none) := by
  unfold cellCheck
  rw [bind_ok (show (get : Op State) s = .ok (s, s) from rfl)]
  refine bind_error ((stopIf_stop ?_).trans rfl)
  rcases bad with space | core
  · exact .inl space
  · exact .inr (.inr (by simp [core]))

section
variable {x y : ASrc} {s s1 s2 : State} {p w low : Word}

theorem orcDecl_sends {cls : OrcClass} (h : AReady s) (alone : (curSlot s).paired = false) (ex : readA x s = .ok (p, s1))
    (check : cellCheck p true s1 = .ok ((), s1)) (room : (curSlot s1).sb.length < 16) :
    SendsKept (.orcDecl x cls) s s1 (.orcDecl p cls) 0 := by
  have r := Read.of_readA ex
  obtain ⟨it, t, e, ran, sent, goes, he, slot, copy⟩ :=
    sendVia_ok true (.orcDecl p cls) (cellDesc .oApp p) 0 (r.paired.trans alone) room
  refine sendsKept_of (t := t) (e := e) ?_ alone r goes sent (slot ▸ Slot.mem_addEntry _ e) (by rw [he]) (by rw [he]; rfl)
    (by rw [he]; rfl) (r.curHart ▸ copy)
  rw [exec_orcDecl, execOrcDecl]
  refine plainA_ok h ?_
  rw [bind_ok ex, bind_ok check, sendKept, bind_ok ran]
  rfl

/-- An append to its cell, with or without a reply to its destination. -/
def appendTo (σ : Slot) (d : ADst) (p w low : Word) : Op Unit :=
  if d = .z then appendOp p w low else appendReply σ d p w low

/-- What orc.app has done before its stamp: its operands are read and checked. -/
theorem orcAppOp_read (ex : readA x s = .ok (p, s1)) (ey : readA y s1 = .ok (w, s2)) (elow : opndLow y s2 = .ok (low, s2))
    (alone : (curSlot s).paired = false) (check : cellCheck p false s2 = .ok ((), s2)) (idle : (curSlot s).answering = none)
    (d : ADst) : orcAppOp d x y s = appendTo (curSlot s) d p w low s2 := by
  have single : (curSlot s2).paired = false := ((Read.of_readA ex).trans (.of_readA ey)).paired.trans alone
  unfold orcAppOp
  rw [bind_ok (show getSlot s = .ok (curSlot s, s) from rfl), idle, bind_ok (show stopSome none _ s = .ok ((), s) from rfl),
    bind_ok ex, bind_ok ey, bind_ok elow, bind_ok check, bind_ok (noteResult_unpaired single)]
  cases d <;> exact bind_ok (noteResult_unpaired single)

theorem orcApp_sends (h : AReady s) (alone : (curSlot s).paired = false) (ex : readA x s = .ok (p, s1)) (ey : readA y s1 = .ok (w, s2))
    (elow : opndLow y s2 = .ok (low, s2)) (check : cellCheck p false s2 = .ok ((), s2)) (can : CanSend s2)
    (idle : (curSlot s).answering = none) : SendsKept (.orcApp .z x y) s s2 (.orcApp p (nextStamp s2) w low none) 1 := by
  have r := (Read.of_readA ex).trans (.of_readA ey)
  obtain ⟨a, took, stamped, slotA⟩ := takeStamp_ok can
  obtain ⟨it, b, e, ran, sent, goes, he, slotB, copy⟩ := sendVia_ok (s := a) true (.orcApp p (nextStamp s2) w low none) (cellDesc .oApp p) 0
    (by rw [slotA, r.paired, alone]) (by rw [slotA]; exact can.2.2)
  obtain ⟨counts, slotC⟩ := countSent_issues b (cellHome b (curLaunch b) p)
  have all : Issues 1 s2 (countSent b (curHart b) (curLaunch b) (cellHome b (curLaunch b) p)) := (stamped.trans goes).trans counts
  have mem : e ∈ (curSlot b).sb := slotB ▸ Slot.mem_addEntry _ e
  have sent' : Sent s2 b (.orcApp p (nextStamp s2) w low none) it :=
    ⟨sent.op, sent.src.trans stamped.curIssuer, stamped.nextId.trans sent.id, sent.net⟩
  have here : curHart b = curHart s := goes.curHart.trans (stamped.curHart.trans r.curHart)
  have copy' : ⟨it, 0, none, 0, none⟩ ∈ (hartOf b (curHart b)).copies := by rwa [goes.curHart]
  refine sendsKept_of ?_ alone r all (sent'.mono counts) (counts.sb mem) (by rw [he]) (by rw [he]; rfl) (by rw [he]; rfl)
    (here ▸ counts.copies copy')
  rw [exec_orcApp, execOrcApp]
  refine plainA_ok h ?_
  rw [orcAppOp_read ex ey elow alone check idle]
  show appendOp p w low s2 = _
  unfold appendOp
  rw [bind_ok took, sendKept, bind_ok ran]
  rfl

/-- What an append with a reply leaves as it begins to wait: its item, and the entry of KIND 5 that takes the answer (R250). -/
theorem appendReply_waits (before : Slot) {d : ADst} (alone : (curSlot s).paired = false) (can : CanSend s) (takes : Takes (curSlot s) d)
    (room : (curSlot s).sb.length < 15) (nums : NumsFree s) :
    ∃ t it num u e, appendReply before d p w low s = .error (.wait (.answer it.id u) (some t)) ∧
      it.op = .orcApp p (nextStamp s) w low (some num) ∧ it ∈ t.net ∧ Issues 0 s t ∧ e ∈ (curSlot t).sb ∧ e.kind = 5 ∧ e.dst = some d ∧
      e.num = some num := by
  obtain ⟨num, numbered⟩ := takeNum_ok (by omega) nums
  obtain ⟨goesA, slotA⟩ := issues_send s [] 0 (s.fresh + 1)
  rw [List.append_nil] at goesA slotA
  generalize ha : ({ s with fresh := s.fresh + 1 } : State) = a at numbered
  replace goesA : Issues 0 s a := ha ▸ goesA
  replace slotA : curSlot a = curSlot s := ha ▸ slotA
  obtain ⟨it, b, e, ran, sent, goesB, he, slotB, -⟩ := sendVia_ok (s := a) false (.orcApp p (nextStamp s) w low (some num))
    (cellDesc .oApp p) 0 (by rw [slotA, alone]) (by rw [slotA]; omega)
  obtain ⟨goesC, slotC⟩ := countSent_issues b (cellHome b (curLaunch b) p)
  generalize hc : countSent b (curHart b) (curLaunch b) (cellHome b (curLaunch b) p) = c at goesC slotC
  obtain ⟨goesD, slotD⟩ := issues_send c [] 1 c.fresh
  rw [List.append_nil] at goesD slotD
  have slot : curSlot { c with nextId := c.nextId + 1 } = (curSlot s).addEntry e := by rw [slotD, slotC, slotB, slotA]
  obtain ⟨f, reserved, goesE, slotE⟩ := reserve_ok (s := { c with nextId := c.nextId + 1 }) (d := d)
    (slot ▸ takes_addEntry takes (by rw [he]; rfl) (by rw [he]; rfl)) c.nextId
  obtain ⟨g, hg, added⟩ := addSb_ok { SbEntry.plain c.nextId 5 (infoOf p) with
    num := some num, destCode := dstCode d, dst := some d, item := some it } f
  have goes : Issues 0 s (putCur f ((curSlot f).addEntry g)) :=
    ((((goesA.trans goesB).trans goesC).trans goesD).trans goesE).trans (issues_addEntry f g)
  refine ⟨_, it, num, undoOf before (curSlot (putCur f ((curSlot f).addEntry g))), g, ?_, sent.op, ?_, goes, ?_, by rw [hg]; rfl,
    by rw [hg], by rw [hg]⟩
  · have agreed : agreeFirst s = .ok ((), s) := by simp [agreeFirst, alone]
    unfold appendReply
    rw [bind_ok agreed, bind_ok (peekStamp_ok can), bind_ok (needSb_ok (by omega)), bind_ok numbered, bind_ok ran,
      bind_ok (show modState _ b = .ok ((), c) by rw [← hc]; rfl), bind_ok (show (get : Op State) c = .ok (c, c) from rfl)]
    dsimp only
    rw [bind_ok (show modState _ c = .ok ((), { c with nextId := c.nextId + 1 }) from rfl), bind_ok reserved, bind_ok added]
    rfl
  · exact (issues_addEntry f g).net (goesE.net (goesD.net (goesC.net sent.net)))
  · rw [curSlot_putCur]
    exact Slot.mem_addEntry _ g

theorem orcApp_waits {d : ADst} (h : AReady s) (alone : (curSlot s).paired = false) (ex : readA x s = .ok (p, s1))
    (ey : readA y s1 = .ok (w, s2)) (elow : opndLow y s2 = .ok (low, s2)) (check : cellCheck p false s2 = .ok ((), s2))
    (can : CanSend s2) (idle : (curSlot s).answering = none) (some' : d ≠ .z) (takes : Takes (curSlot s2) d)
    (room : (curSlot s2).sb.length < 15) (nums : NumsFree s2) :
    ∃ (t : State) (it : NetItem) (num : Nat) (u : Undo) (e : SbEntry), exec (.orcApp d x y) s = .next t ∧
      it.op = .orcApp p (nextStamp s2) w low (some num) ∧ it ∈ t.net ∧ (curSlot t).aWait = some (.answer it.id u) ∧
      (curSlot t).pc = (curSlot s).pc ∧ (curCtx t).sseq = (curCtx s2).sseq ∧
      e ∈ (curSlot t).sb ∧ e.kind = 5 ∧ e.dst = some d ∧ e.num = some num := by
  have r := (Read.of_readA ex).trans (.of_readA ey)
  obtain ⟨t, it, num, u, e, waits, op, net, goes, mem, kind, dst, hnum⟩ := appendReply_waits (p := p) (w := w) (low := low) (curSlot s)
    (r.paired.trans alone) can takes room nums
  refine ⟨markA t (.answer it.id u), it, num, u, e, ?_, op, net, ?_, ?_, ?_, ?_, kind, dst, hnum⟩
  · rw [exec_orcApp, execOrcApp]
    refine plainA_wait h (k := some t) ?_
    rw [orcAppOp_read ex ey elow alone check idle]
    cases d with
    | z => exact absurd rfl some'
    | a n => exact waits
    | lq k => exact waits
    | sm n => exact waits
  · simp [markA]
  · rw [markA, curSlot_putCur]
    show (curSlot t).pc = _
    rw [goes.slot, r.slot]
  · rw [← Nat.add_zero (curCtx s2).sseq, ← goes.sseq]
    simp [markA, curCtx, curLaunch]
  · rw [markA, curSlot_putCur]
    exact mem

theorem orcLdt_sends {d t : ADst} (h : AReady s) (alone : (curSlot s).paired = false) (ex : readA x s = .ok (p, s1))
    (check : cellCheck p false s1 = .ok ((), s1)) (takesD : Takes (curSlot s1) d) (takesT : Takes (curSlot s1) t)
    (two : ∀ k, d = .lq k → t = .lq k → (curSlot s1).lq[k].length < 15) (room : (curSlot s1).sb.length < 16) :
    SendsFor (.orcLdt d x t) s s1 (.orcLdt p) 2 (some d) false := by
  have r := Read.of_readA ex
  have single : (curSlot s1).paired = false := r.paired.trans alone
  obtain ⟨it, a, issued, sent, goesA, slotA⟩ := issue_ok false (.orcLdt p) (cellDesc .oLdT p) single
  obtain ⟨b, reservedD, goesB, slotB⟩ := reserve_ok (slotA ▸ takesD) it.id
  obtain ⟨c, reservedT, goesC, -⟩ := reserve_ok (s := b) (slotB ▸ slotA ▸ takes_reserved takesT two) it.id
  obtain ⟨e, he, added⟩ := addSb_ok { SbEntry.plain it.id 2 (infoOf p) with
    destCode := dstCode d, dst := some d, dst2 := some t, item := some it } c
  have goes : Issues 0 a (putCur c ((curSlot c).addEntry e)) := (goesB.trans goesC).trans (issues_addEntry c e)
  have kind : e.kind = 2 := by rw [he]; rfl
  refine kind ▸ sendsFor_of ?_ alone r (goesA.trans goes) (sent.mono goes) ?_ (by rw [he]) (by rw [he]; rfl) (by rw [he])
  · rw [exec_orcLdt, execOrcLdt]
    refine plainA_ok h ?_
    rw [bind_ok ex, bind_ok check, bind_ok (show agreeFirst s1 = .ok ((), s1) by simp [agreeFirst, single]),
      bind_ok (needSb_ok room), bind_ok issued, bind_ok reservedD, bind_ok reservedT]
    exact added
  · rw [curSlot_putCur]
    exact Slot.mem_addEntry _ e

/-- A settled load names the open ply or the one before. -/
theorem orcLds_sends {d : ADst} (h : AReady s) (alone : (curSlot s).paired = false) (ex : readA x s = .ok (p, s1))
    (ey : readA y s1 = .ok (w, s2)) (check : cellCheck p false s2 = .ok ((), s2))
    (ply : w.extractLsb' 0 16 = (curCtx s2).ply ∨ w.extractLsb' 0 16 = (curCtx s2).ply - 1) (takes : Takes (curSlot s2) d)
    (room : (curSlot s2).sb.length < 16) : SendsFor (.orcLds d x y) s s2 (.orcLds p (w.extractLsb' 0 16)) 5 (some d) false := by
  have r := (Read.of_readA ex).trans (.of_readA ey)
  have single : (curSlot s2).paired = false := r.paired.trans alone
  obtain ⟨it, a, issued, sent, goesA, slotA⟩ := issue_ok false (.orcLds p (w.extractLsb' 0 16)) (cellDesc .oLdS p) single
  obtain ⟨b, e, pended, goesB, mem, item, kept, dst, kind⟩ := addPending_ok (d := d) 5 p it (slotA ▸ takes) (slotA ▸ room)
  refine kind ▸ sendsFor_of ?_ alone r (goesA.trans goesB) (sent.mono goesB) mem item kept dst
  rw [exec_orcLds, execOrcLds]
  refine plainA_ok h ?_
  rw [bind_ok ex, bind_ok ey, bind_ok check]
  dsimp only
  rw [bind_ok (show (get : Op State) s2 = .ok (s2, s2) from rfl), bind_ok (stopIf_ok (by tauto)),
    bind_ok (show agreeFirst s2 = .ok ((), s2) by simp [agreeFirst, single]), bind_ok issued]
  exact pended

theorem orcLds_traps {d : ADst} (h : AReady s) (ex : readA x s = .ok (p, s1)) (ey : readA y s1 = .ok (w, s2))
    (check : cellCheck p false s2 = .ok ((), s2)) (other : w.extractLsb' 0 16 ≠ (curCtx s2).ply)
    (older : w.extractLsb' 0 16 ≠ (curCtx s2).ply - 1) :
    exec (.orcLds d x y) s = .next (takeTrap s s .aSide ⟨codeQueueMisuse, 0x014, p⟩) := by
  rw [exec_orcLds, execOrcLds]
  refine plainA_trap h (k := none) ?_
  rw [bind_ok ex, bind_ok ey, bind_ok check]
  dsimp only
  rw [bind_ok (show (get : Op State) s2 = .ok (s2, s2) from rfl)]
  exact bind_error ((stopIf_stop ⟨other, older⟩).trans rfl)

theorem orcDecl_traps (h : AReady s) (ex : readA x s = .ok (p, s1)) (bad : spaceOf p ≠ 5 ∨ isCompute (curHart s) = false)
    (cls : OrcClass) : exec (.orcDecl x cls) s = .next (takeTrap s s .aSide ⟨codeSpace, BitVec.ofNat 12 (spaceOf p), p⟩) := by
  rw [exec_orcDecl, execOrcDecl]
  refine plainA_trap h (k := none) ?_
  rw [bind_ok ex]
  exact bind_error (cellCheck_space ((Read.of_readA ex).curHart ▸ bad))

end

end Sys2Proof.Machine
end

section
/-! SUPPORT. Repair cells at their homes: arrivals, the copies that a home recalls, declarations, appends and loads, and the statement
on them and their words (spec/03 R53, spec/04 R63 to R77). -/

namespace Sys2Proof.Machine

open Sys2Proof.Claims

/-! ## What a home answers (R63 to R77) -/

theorem exec_orcDeclArrival (k : Nat) (s : State) : exec (.orcDeclArrival k) s = execOrcDeclArrival k s := rfl
theorem exec_orcAppendArrival (k : Nat) (s : State) : exec (.orcAppendArrival k) s = execOrcAppendArrival k s := rfl
theorem exec_orcTentativeLoadArrival (k : Nat) (s : State) :
    exec (.orcTentativeLoadArrival k) s = execOrcTentativeLoadArrival k s := rfl
theorem exec_orcSettledLoadArrival (k : Nat) (s : State) : exec (.orcSettledLoadArrival k) s = execOrcSettledLoadArrival k s := rfl

/-! ### Arrivals -/

section
variable {s t : State} {k : Nat} {it : NetItem} {p : Word} {home : Nat}

theorem performing_of_arrives (a : Arrives s t k it) : performing s k = some (it, t) := by
  obtain ⟨here, may, rfl⟩ := a
  simp [performing, here, may]

theorem ctxs_makeSure (s : State) (h : Nat) (ids : List Nat) (home : Nat) :
    (hartOf (makeSure s h ids) home).ctxs = (hartOf s home).ctxs := by
  unfold makeSure
  split
  · rfl
  · exact hartOf_putHart_keeps (·.ctxs) (by rfl) home

theorem hartOf_addGuards (s : State) (gs : List Guard) (home : Nat) : hartOf (addGuards s gs) home = hartOf s home := by
  unfold addGuards
  split <;> rfl

theorem ctxs_passing (s : State) (it : NetItem) (home : Nat) : (hartOf (passing s it) home).ctxs = (hartOf s home).ctxs := by
  unfold passing
  split
  · rw [hartOf_addGuards, ctxs_makeSure]
  · rfl

/-- A repair operation arrives at a home of its launch. -/
theorem arriving_of_arrives (a : Arrives s t k it) (target : it.op.target it.src.hart = some (home, p))
    (noFlush : flushGuarded { s with net := removeAt k s.net } it = false) (own : owned t it.src.launch home = true) :
    arriving s k = some (it, t) := by
  obtain ⟨here, may, rfl⟩ := a
  have own' : owned s it.src.launch home = true := by
    rw [← own]
    simp only [owned, Hart.hasCtx, ctxs_passing]
    rfl
  have noFlush' : flushGuarded s it = false := noFlush
  simp [arriving, takeNet, here, may, noFlush', target, own']

theorem arriving_orcLdt (a : Arrives s t k it) (op : it.op = .orcLdt p) (at' : cellPtrOk t it.src.launch p home) :
    arriving s k = some (it, t) := by
  obtain ⟨scratch, index, own, -⟩ := at'
  refine arriving_of_arrives (p := p) (home := home) a ?_ (by simp [flushGuarded, op]) own
  have h : ¬ p.getLsbD 39 = true := by rw [show p.getLsbD 39 = false from scratch]; exact Bool.false_ne_true
  simp only [op, NetOp.target, if_neg h, index]

theorem arriving_orcLds {b : BitVec 16} (a : Arrives s t k it) (op : it.op = .orcLds p b) (at' : cellPtrOk t it.src.launch p home) :
    arriving s k = some (it, t) := by
  obtain ⟨scratch, index, own, -⟩ := at'
  refine arriving_of_arrives (p := p) (home := home) a ?_ (by simp [flushGuarded, op]) own
  have h : ¬ p.getLsbD 39 = true := by rw [show p.getLsbD 39 = false from scratch]; exact Bool.false_ne_true
  simp only [op, NetOp.target, if_neg h, index]

theorem cellHome_of (at' : cellPtrOk t it.src.launch p home) : cellHome t it.src.launch p = some home := by
  obtain ⟨scratch, index, -, -⟩ := at'
  simp [cellHome, scratch, index]

theorem cellArrive_eq (at' : cellPtrOk t it.src.launch p home) (body : Nat → State) : cellArrive t it p body = body home := by
  have hm := cellHome_of at'
  obtain ⟨-, -, own, fine⟩ := at'
  simp [cellArrive, hm, own, fine]

theorem cellLoad_eq {l : OrLine} (at' : cellPtrOk t it.src.launch p home)
    (line : (ctxOf t home it.src.launch).unit.line (granulePtr p) = some l) (whole : cellOff p % orcSize l.cls = 0)
    (body : Nat → OrLine → Nat → State) : cellLoad t it p body = body home l (cellOff p % 64 / orcSize l.cls) := by
  have hm := cellHome_of at'
  obtain ⟨-, -, -, fine⟩ := at'
  simp [cellLoad, hm, fine, line, whole]

theorem orcDecl_arrives {cls : OrcClass} (a : Arrives s t k it) (op : it.op = .orcDecl p cls) :
    exec (.orcDeclArrival k) s = .next (declArrive s t it p cls) := by
  simp [exec_orcDeclArrival, execOrcDeclArrival, event, performing_of_arrives a, op]

theorem orcApp_arrives {stamp : BitVec 48} {x y : Word} {rq : Option Nat} (a : Arrives s t k it)
    (op : it.op = .orcApp p stamp x y rq) : exec (.orcAppendArrival k) s = .next (appendArrive t it p stamp x y rq) := by
  simp [exec_orcAppendArrival, execOrcAppendArrival, event, performing_of_arrives a, op]

theorem orcLdt_arrives (a : Arrives s t k it) (op : it.op = .orcLdt p) (at' : cellPtrOk t it.src.launch p home) :
    exec (.orcTentativeLoadArrival k) s = .next (ldtArrive t it p) := by
  simp [exec_orcTentativeLoadArrival, execOrcTentativeLoadArrival, event, arriving_orcLdt a op at', op]

theorem orcLds_arrives {b : BitVec 16} (a : Arrives s t k it) (op : it.op = .orcLds p b) (at' : cellPtrOk t it.src.launch p home) :
    exec (.orcSettledLoadArrival k) s = .next (ldsArrive t it p b) := by
  simp [exec_orcSettledLoadArrival, execOrcSettledLoadArrival, event, arriving_orcLds a op at', op]

end

/-! ### Copies recalled and invalidated (R53) -/

/-- What a change of each core leaves alone in that core. -/
theorem hartOf_map_keeps {α : Type} {s t : State} {f : Nat × Hart → Hart} (e : t.harts = s.harts.map fun x => (x.1, f x))
    (g : Hart → α) (keep : ∀ x, g (f x) = g x.2) (h : Nat) : g (hartOf t h) = g (hartOf s h) := by
  simp only [hartOf, SMap.getD, e, SMap.find_map]
  cases SMap.find h s.harts with
  | none => rfl
  | some H => exact keep (h, H)

theorem ctxOf_invalidate (s : State) (home off h L : Nat) : ctxOf (invalidate s home off) h L = ctxOf s h L :=
  ctxOf_congr (hartOf_map_keeps (s := s)
    (f := fun x => x.2.putLine (lineKey home off) { x.2.line (lineKey home off) with shared := none }) rfl (·.ctxs) (fun _ => rfl) h) L

theorem ctxOf_invalidateHome (s : State) (L home off h M : Nat) : ctxOf (invalidateHome s L home off) h M = ctxOf s h M := by
  unfold invalidateHome
  split
  · rw [ctxOf_invalidate, ctxOf_invalidate]
  · rw [ctxOf_invalidate]

/-- At its home a change of a context is that change, whether or not a follower takes it too. -/
theorem ctxOf_modHome {s : State} {L home : Nat} {f : Ctx → Ctx} (l : ∀ c, (f c).launch = c.launch) :
    ctxOf (modHome s L home f) home L = f (ctxOf s home L) := by
  have same : ctxOf (putCtx s home (f (ctxOf s home L))) home L = f (ctxOf s home L) :=
    ctxOf_putCtx_same ((l _).trans (ctxOf_launch ..))
  unfold modHome
  extract_lets t
  split
  · rw [ctxOf_putCtx_other (.inl (by omega))]
    exact same
  · exact same

/-- Two contexts that differ in their bytes and OPEN partials alone. -/
def SameCells (c d : Ctx) : Prop := d = { c with scratch := d.scratch, amaxOpen := d.amaxOpen }

theorem SameCells.trans {c d e : Ctx} (a : SameCells c d) (b : SameCells d e) : SameCells c e := by
  unfold SameCells at *
  rw [b, a]

theorem SameCells.foldl {α : Type} {f : Ctx → α → Ctx} (h : ∀ c a, SameCells c (f c a)) (xs : List α) (c : Ctx) :
    SameCells c (xs.foldl f c) := List.foldlRecOn xs f rfl fun _ e a _ => e.trans (h _ a)

theorem combineU_sameCells (c : Ctx) (off : Nat) (l : L1Line) : SameCells c (combineU c off l) := by
  unfold combineU
  split
  · rfl
  · extract_lets n base c1
    split
    · have first : SameCells c c1 := SameCells.foldl (fun _ _ => by exact rfl) _ _
      exact first.trans (SameCells.foldl (fun _ _ => by exact rfl) _ _)
    · exact SameCells.foldl (fun _ _ => by exact rfl) _ _

theorem ctxOf_recallU_sameCells (s : State) (L home off : Nat) : SameCells (ctxOf s home L) (ctxOf (recallU s L home off) home L) := by
  unfold recallU recallWhere
  extract_lets k ls drop
  split
  · rfl
  · have fold (c : Ctx) : SameCells c (ls.foldl (fun c l => combineU c off l) c) := .foldl (fun c l => combineU_sameCells c off l) ls c
    rw [ctxOf_modHome fun c => by rw [fold c]]
    have map : s.harts.map drop = s.harts.map fun x => (x.1,
        if ((x.2.line k).ucls.any fun _ => true) && x.2.hasCtx L then x.2.putLine k (x.2.line k).dropU else x.2) := by
      refine List.map_congr_left fun x _ => ?_
      dsimp only [drop]
      split <;> rfl
    have dropped : ctxOf { s with harts := s.harts.map drop } home L = ctxOf s home L :=
      ctxOf_congr (hartOf_map_keeps (s := s) map (·.ctxs) (fun x => by split <;> rfl) home) L
    rw [dropped]
    exact fold _

/-! ### Declarations (R63) -/

theorem harts_accept (s : State) (it : NetItem) : (accept s it).harts = s.harts := by
  unfold accept post
  split <;> rfl

theorem harts_modLaunch (s : State) (L : Nat) (f : Launch → Launch) : (modLaunch s L f).harts = s.harts := by
  unfold modLaunch
  split <;> rfl

theorem ctxOf_of_harts {s t : State} (e : t.harts = s.harts) (h L : Nat) : ctxOf t h L = ctxOf s h L := by
  simp only [ctxOf, hartOf, e]

/-- The unit of a context changed. -/
theorem ctxOf_putCtx_unit (s : State) (h L : Nat) (u : OrUnit) :
    ctxOf (putCtx s h { ctxOf s h L with unit := u }) h L = { ctxOf s h L with unit := u } := ctxOf_putCtx_same (ctxOf_launch s h L)

/-- A line that a unit has not stands there once it is added. -/
theorem OrUnit.line_add {u : OrUnit} {l : OrLine} {g : Word} (new : u.line g = none) (ptr : l.ptr = g) :
    ({ u with lines := u.lines ++ [l] } : OrUnit).line g = some l := by
  unfold OrUnit.line at *
  rw [List.find?_append, new]
  simp [ptr]

/-- A declaration of a granule of a scratchpad makes its line, with the bytes as they stand once the copies have been recalled. -/
theorem declareLine_makes {t : State} {it : NetItem} {p : Word} {home : Nat} (cls : OrcClass) (scratch : cellH p = false)
    (new : (ctxOf t home it.src.launch).unit.line (granulePtr p) = none) :
    ∃ x, (ctxOf (declareLine t it home p cls) home it.src.launch).unit.line (granulePtr p) = some x ∧ x.cls = cls ∧ x.hist = [] ∧
      x.base = vecOf (Memory.bytes (ctxOf (recallU t it.src.launch home (offOf p)) home it.src.launch).scratch
        (offOf p / 64 * 64) 64) := by
  unfold declareLine
  extract_lets L g mk add u
  rw [if_neg (by rw [scratch]; exact Bool.false_ne_true)]
  have recalled : ctxOf u home L = ctxOf (recallU t L home (offOf p)) home L := ctxOf_invalidateHome ..
  have new' : (ctxOf u home L).unit.line g = none := by
    rw [recalled, show (ctxOf (recallU t L home (offOf p)) home L).unit = (ctxOf t home L).unit by rw [ctxOf_recallU_sameCells t L]]
    exact new
  have added (l : OrLine) : (ctxOf (add u l) home L).unit = { (ctxOf u home L).unit with lines := (ctxOf u home L).unit.lines ++ [l] } := by
    rw [ctxOf_of_harts ((harts_accept _ it).trans (harts_modLaunch _ L _)), ctxOf_putCtx_unit]
  refine ⟨_, (congrArg (·.line g) (added _)).trans (OrUnit.line_add new' rfl), rfl, rfl, ?_⟩
  dsimp only [mk]
  rw [recalled]

/-! ### Appends (R66, R67) -/

/-- An entry is inserted once, beside those that stand. -/
theorem insertHist_perm (e : HistEntry) (es : List HistEntry) : (insertHist e es).Perm (e :: es) := by
  induction es with
  | nil => exact .refl _
  | cons f fs ih =>
    unfold insertHist
    split
    · exact .refl _
    · exact (ih.cons f).trans (.swap e f fs)

theorem Ctx.seen_record (c : Ctx) (stamp : BitVec 48) (f : Option FaultInfo) : (c.record stamp f).seen stamp = true := by
  simp [Ctx.seen, Ctx.record]

theorem OrUnit.lines_countAppend (u : OrUnit) (ply : BitVec 16) : (u.countAppend ply).lines = u.lines := by
  unfold OrUnit.countAppend
  split <;> rfl

theorem OrUnit.mem_putLine {u : OrUnit} {g : Word} {l m : OrLine} (line : u.line g = some l) (same : m.ptr = l.ptr) :
    m ∈ (u.putLine m).lines := by
  have mem : l ∈ u.lines := List.mem_of_find?_eq_some line
  exact List.mem_map.mpr ⟨l, mem, by simp [same]⟩

/-- An append that is inserted stands in the history of its line, and its stamp is recorded. -/
theorem insertAppend_inserts {t : State} {it : NetItem} {home : Nat} {l : OrLine} {p g : Word} (stamp : BitVec 48) (x y : Word)
    (line : (ctxOf t home it.src.launch).unit.line g = some l) :
    ∃ (m : OrLine) (e : HistEntry), e ∈ m.hist ∧ e.stamp = stamp ∧ e.x = x ∧ e.y = y ∧ e.elem = cellOff p % 64 / orcSize l.cls ∧
      e.rq = false ∧ (∀ f ∈ l.hist, f ∈ m.hist) ∧ m.base = l.base ∧ m.hist.length = l.hist.length + 1 ∧
      m ∈ (ctxOf (insertAppend t it home l p stamp x y none) home it.src.launch).unit.lines ∧
      (ctxOf (insertAppend t it home l p stamp x y none) home it.src.launch).seen stamp = true := by
  unfold insertAppend
  extract_lets L e c u
  have perm : (l.insert e).hist.Perm (e :: l.hist) := insertHist_perm e l.hist
  have there : ctxOf (accept (putCtx t home { c with unit := if u.regime then u.countAppend (stampPly stamp) else u }) it) home L =
      { c with unit := if u.regime then u.countAppend (stampPly stamp) else u } := by
    rw [ctxOf_of_harts (harts_accept _ it)]
    exact ctxOf_putCtx_same (show c.launch = L from ctxOf_launch ..)
  have lines : ({ c with unit := if u.regime then u.countAppend (stampPly stamp) else u } : Ctx).unit.lines = u.lines := by
    dsimp only
    split
    · exact u.lines_countAppend _
    · rfl
  refine ⟨l.insert e, e, perm.mem_iff.mpr (List.mem_cons_self ..), rfl, rfl, rfl, rfl, rfl,
    fun f m => perm.mem_iff.mpr (List.mem_cons_of_mem _ m), rfl, perm.length_eq, ?_, ?_⟩
  · rw [there, lines]
    exact OrUnit.mem_putLine (g := g) (u := c.unit) line rfl
  · rw [there]
    exact Ctx.seen_record _ stamp none

section
variable {t : State} {it : NetItem} {p : Word} {home : Nat} {stamp : BitVec 48} {x y : Word} {l : OrLine}

/-- What becomes of an append without reply at the line of its granule. -/
theorem appendArrive_eq (at' : cellPtrOk t it.src.launch p home)
    (line : (ctxOf t home it.src.launch).unit.line (granulePtr p) = some l) (whole : cellOff p % orcSize l.cls = 0) :
    ∃ P tag, appendArrive t it p stamp x y none =
      if (ctxOf t home it.src.launch).seen stamp then accept t it
      else if stampLE stamp (ctxOf t home it.src.launch).unit.swm then
        refusalFree (logStamped t (some stamp) codeStale (Config.freeDetail t.fresh) P tag (stampSender stamp) p) it codeStale
      else if l.hist.any (fun e => e.stamp == stamp) then accept t it
      else if 16 ≤ l.hist.length then nack t it 3 noFault
      else insertAppend t it home l p stamp x y none := by
  unfold appendArrive
  rw [cellArrive_eq at']
  simp only [line]
  rw [if_neg (not_not.mpr whole), if_neg (show ¬ ((none : Option Nat).isSome && !orcReplies l.cls) = true from Bool.false_ne_true)]
  exact ⟨_, _, rfl⟩

theorem appendArrive_seen (at' : cellPtrOk t it.src.launch p home)
    (line : (ctxOf t home it.src.launch).unit.line (granulePtr p) = some l) (whole : cellOff p % orcSize l.cls = 0)
    (seen : (ctxOf t home it.src.launch).seen stamp = true) : appendArrive t it p stamp x y none = accept t it := by
  obtain ⟨P, tag, e⟩ := appendArrive_eq (stamp := stamp) (x := x) (y := y) at' line whole
  rw [e, if_pos seen]

theorem appendArrive_stale (at' : cellPtrOk t it.src.launch p home)
    (line : (ctxOf t home it.src.launch).unit.line (granulePtr p) = some l) (whole : cellOff p % orcSize l.cls = 0)
    (new : (ctxOf t home it.src.launch).seen stamp = false) (late : stampLE stamp (ctxOf t home it.src.launch).unit.swm = true) :
    ∃ (u : State) (d : BitVec 12), appendArrive t it p stamp x y none = refusal u it codeStale d ∧ u.harts = t.harts := by
  obtain ⟨P, tag, e⟩ := appendArrive_eq (stamp := stamp) (x := x) (y := y) at' line whole
  rw [e, if_neg (by rw [new]; exact Bool.false_ne_true), if_pos late]
  exact ⟨_, _, rfl, rfl⟩

theorem appendArrive_new (at' : cellPtrOk t it.src.launch p home)
    (line : (ctxOf t home it.src.launch).unit.line (granulePtr p) = some l) (whole : cellOff p % orcSize l.cls = 0)
    (new : (ctxOf t home it.src.launch).seen stamp = false) (early : stampLE stamp (ctxOf t home it.src.launch).unit.swm = false)
    (once : ∀ e ∈ l.hist, e.stamp ≠ stamp) :
    appendArrive t it p stamp x y none =
      if 16 ≤ l.hist.length then nack t it 3 noFault else insertAppend t it home l p stamp x y none := by
  obtain ⟨P, tag, e⟩ := appendArrive_eq (stamp := stamp) (x := x) (y := y) at' line whole
  rw [e, if_neg (by rw [new]; exact Bool.false_ne_true), if_neg (by rw [early]; exact Bool.false_ne_true), if_neg (by simpa using once)]

/-- A declaration of a line that the unit has is taken if the classes agree. -/
theorem declArrive_known {s : State} {cls : OrcClass} (at' : cellPtrOk t it.src.launch p home)
    (line : (ctxOf t home it.src.launch).unit.line (granulePtr p) = some l) :
    declArrive s t it p cls = if l.cls = cls then accept t it else refusal t it codeQueueMisuse 0x011 := by
  unfold declArrive
  rw [cellArrive_eq at']
  simp only [line]

theorem declArrive_new {s : State} {cls : OrcClass} {m : Launch} (at' : cellPtrOk t it.src.launch p home)
    (line : (ctxOf t home it.src.launch).unit.line (granulePtr p) = none) (launch : launchOf t it.src.launch = some m) :
    declArrive s t it p cls =
      if 255 ≤ (ctxOf t home it.src.launch).unit.lines.length ∨ (!m.units.contains home && decide (64 ≤ m.units.length)) then
        refusal t it codeQueueMisuse 0x015
      else if sureAt t it.src.launch (lineLoc home p) then s
      else declareLine t it home p cls := by
  unfold declArrive
  rw [cellArrive_eq at']
  simp only [line, launch]

end

/-! ### The statement -/

/-- Settles O24: the words by what issuing leaves, the homes by one equation for each arrival; an entry is inserted as a permutation, and
recalling copies leaves the unit alone. -/
theorem cellOperations : Obligations.CellOperations := by
  unfold Obligations.CellOperations
  refine ⟨fun x y s s1 s2 p w h alone ex ey => ⟨fun cls check room => ?_, fun low elow check can idle => ⟨?_, ?_⟩,
    fun d t check takesD takesT two room => ?_, fun d check => ⟨fun ply takes room => ?_, fun other older => ?_⟩, fun bad cls => ?_⟩,
    fun s t k it p home a at' => ⟨fun cls l op launch => ⟨?_, ?_, ?_, ?_⟩, fun stamp x y l op line whole => ⟨?_, ?_, ?_⟩,
      fun l line whole => ⟨fun op => ?_, fun b op => ⟨fun now => ?_, fun later => ?_⟩⟩⟩⟩
  · exact orcDecl_sends h alone ex check room
  · exact orcApp_sends h alone ex ey elow check can idle
  · exact fun d some' takes room nums => orcApp_waits h alone ex ey elow check can idle some' takes room nums
  · exact orcLdt_sends h alone ex check takesD takesT two room
  · exact orcLds_sends h alone ex ey check ply takes room
  · exact orcLds_traps h ex ey check other older
  · exact orcDecl_traps h ex bad cls
  · intro m line same
    rw [orcDecl_arrives a op, declArrive_known at' line, if_pos same]
  · intro m line other
    rw [orcDecl_arrives a op, declArrive_known at' line, if_neg other]
  · intro new full
    rw [orcDecl_arrives a op, declArrive_new at' new launch, if_pos (.inl full)]
  · intro new room unit free
    obtain ⟨m, makes⟩ := declareLine_makes cls at'.1 new
    have fits : ¬ (255 ≤ (ctxOf t home it.src.launch).unit.lines.length ∨
        (!l.units.contains home && decide (64 ≤ l.units.length)) = true) := by
      rcases unit with listed | few
      · simp only [List.contains_iff_mem.mpr listed, Bool.not_true, Bool.false_and, Bool.false_eq_true, or_false]
        omega
      · simp only [show ¬ (64 ≤ l.units.length) by omega, decide_false, Bool.and_false, Bool.false_eq_true, or_false]
        omega
    refine ⟨_, m, ?_, makes⟩
    rw [orcDecl_arrives a op, declArrive_new at' new launch, if_neg fits, if_neg (by rw [free]; exact Bool.false_ne_true)]
  · intro seen
    rw [orcApp_arrives a op, appendArrive_seen at' line whole seen]
  · intro new late
    obtain ⟨u, d, stale, same⟩ := appendArrive_stale (x := x) (y := y) at' line whole new late
    exact ⟨u, d, by rw [orcApp_arrives a op, stale], same⟩
  · intro new early once
    have here := appendArrive_new (x := x) (y := y) at' line whole new early once
    refine ⟨fun full => ?_, fun room => ?_⟩
    · rw [orcApp_arrives a op, here, if_pos full]
    · obtain ⟨m, e, inserts⟩ := insertAppend_inserts (p := p) stamp x y line
      exact ⟨_, m, e, by rw [orcApp_arrives a op, here, if_neg (by omega)], inserts⟩
  · rw [orcLdt_arrives a op at', ldtArrive, cellLoad_eq at' line whole]
  · rw [orcLds_arrives a op at', ldsArrive, cellLoad_eq at' line whole]
    dsimp only
    rw [if_pos now]
  · rw [orcLds_arrives a op at', ldsArrive, cellLoad_eq at' line whole]
    dsimp only
    rw [if_neg later]
    refine ⟨_, rfl, ?_⟩
    rw [ctxOf_putCtx_unit]
    exact List.mem_append_right _ (List.mem_singleton_self it)

end Sys2Proof.Machine
end

section
/-! SUPPORT. Words and steps that change the cores alone, the counters alone or what the host is told alone, and launches that end with a
code (spec/02 R29, spec/09 R178, spec/11 R188 R189). -/

namespace Sys2Proof.Machine

open Sys2Proof.Claims

/-! ## Changes of the cores alone -/

/-- The states differ in the cores, their guards and the operation numbers given, and in nothing else. -/
def CoresOnly (s t : State) : Prop := t = { s with harts := t.harts, guards := t.guards, nextId := t.nextId }

namespace CoresOnly

theorem refl (s : State) : CoresOnly s s := rfl
theorem trans {s t u : State} (a : CoresOnly s t) (b : CoresOnly t u) : CoresOnly s u := by
  unfold CoresOnly at *
  rw [b, a]
theorem foldl {α : Type} {f : State → α → State} (h : ∀ s a, CoresOnly s (f s a)) (xs : List α) (s : State) :
    CoresOnly s (xs.foldl f s) :=
  List.foldlRecOn xs f (refl s) fun _ ht a _ => ht.trans (h _ a)

variable {s t : State} (h : CoresOnly s t)
include h
theorem plats : t.plats = s.plats := by rw [h]
theorem launches : t.launches = s.launches := by rw [h]
theorem counters : t.counters = s.counters := by rw [h]
theorem faultLog : t.faultLog = s.faultLog := by rw [h]
theorem replicated : t.replicated = s.replicated := by rw [h]
theorem cycle : t.cycle = s.cycle := by rw [h]
theorem cur : t.cur = s.cur := by rw [h]
theorem net : t.net = s.net := by rw [h]
theorem platOf (p : Nat) : platOf t p = Machine.platOf s p := platOf_congr h.plats p
theorem launchOf (L : Nat) : launchOf t L = Machine.launchOf s L := by simp only [Machine.launchOf, h.launches]
theorem counterOf (c : Nat) : counterOf t c = Machine.counterOf s c := by simp only [Machine.counterOf, h.counters]

end CoresOnly

theorem putHart_coresOnly (s : State) (h : Nat) (H : Hart) : CoresOnly s (putHart s h H) := rfl
theorem putCtx_coresOnly (s : State) (h : Nat) (c : Ctx) : CoresOnly s (putCtx s h c) := rfl

theorem modHome_coresOnly (s : State) (L home : Nat) (f : Ctx → Ctx) : CoresOnly s (modHome s L home f) := by
  unfold modHome
  extract_lets t
  split <;> rfl

theorem recallU_coresOnly (s : State) (L home off : Nat) : CoresOnly s (recallU s L home off) := by
  unfold recallU recallWhere
  extract_lets k ls drop
  split
  · rfl
  · exact CoresOnly.trans (t := { s with harts := s.harts.map drop }) rfl (modHome_coresOnly _ _ _ _)

theorem recallAll_coresOnly (s : State) (L : Nat) : CoresOnly s (recallAll s L) := .foldl (fun _ _ => recallU_coresOnly _ _ _ _) _ s

theorem makeSure_coresOnly (s : State) (h : Nat) (ids : List Nat) : CoresOnly s (makeSure s h ids) := by
  unfold makeSure
  split <;> rfl

theorem inOrder_coresOnly {d : OpDesc} {s t : State} (e : inOrder d s = .ok ((), t)) : CoresOnly s t := by
  obtain ⟨ids, gs, rfl⟩ := inOrder_ok e
  exact (makeSure_coresOnly s (curHart s) ids).trans rfl

theorem inOrder_slotsKept {d : OpDesc} {s t : State} (e : inOrder d s = .ok ((), t)) : SlotsKept s t := by
  obtain ⟨ids, gs, rfl⟩ := inOrder_ok e
  exact (slotsKept_makeSure s (curHart s) ids).trans (slotsKept_guards _ gs)

/-- Reading a stream register changes the cores alone. -/
theorem readStream_coresOnly {n : Fin 4} {s t : State} {w : Word} (e : readStream n s = .ok (w, t)) : CoresOnly s t := by
  unfold readStream at e
  obtain ⟨σ, _, h0, e⟩ := bind_inv e
  obtain ⟨rfl, rfl⟩ := getSlot_inv h0
  obtain ⟨_, _, h1, e⟩ := bind_inv e
  obtain ⟨_, rfl⟩ := stopIf_inv (by simp [waitFor]) h1
  obtain ⟨_, _, h2, e⟩ := bind_inv e
  obtain ⟨_, rfl⟩ := notPending_inv h2
  obtain ⟨_, _, h3, e⟩ := bind_inv e
  obtain ⟨_, rfl⟩ := stopIf_inv (by simp [trapFree]) h3
  obtain ⟨_, _, h4, e⟩ := bind_inv e
  obtain ⟨_, rfl⟩ := stopIf_inv (by simp [trapAt]) h4
  obtain ⟨_, _, h5, e⟩ := bind_inv e
  obtain ⟨rfl, rfl⟩ := get_inv h5
  obtain ⟨_, _, h6, e⟩ := bind_inv e
  obtain ⟨_, rfl⟩ := stopIf_inv (by simp [trapAt]) h6
  obtain ⟨_, u, h7, e⟩ := bind_inv e
  obtain ⟨_, v, h8, e⟩ := bind_inv e
  have recalled := ownBytesAt_ok h8
  obtain ⟨_, w', h9, e⟩ := bind_inv e
  have put := modSlot_inv h9
  obtain ⟨_, rfl⟩ := pure_inv e
  have all := (inOrder_coresOnly h7).trans (recalled ▸ recallU_coresOnly u _ _ _)
  exact all.trans (put ▸ putHart_coresOnly v _ _)

theorem readA_coresOnly {x : ASrc} {s t : State} {w : Word} (e : readA x s = .ok (w, t)) : CoresOnly s t := by
  cases x with
  | a n =>
    obtain ⟨_, _, rfl⟩ := readA_a_inv e
    rfl
  | sq q =>
    obtain ⟨_, _, _, _, rfl⟩ := readA_sq_inv e
    rfl
  | cq =>
    obtain ⟨_, _, rfl⟩ := readA_cq_inv e
    rfl
  | sm n => exact readStream_coresOnly e
  | z =>
    obtain ⟨_, rfl⟩ := readA_z_inv e
    rfl

/-! ## Counters (R188, R189) -/

theorem counterOf_modCounter (s : State) (c : Nat) (f : Counter → Counter) (k : Nat) :
    counterOf (modCounter s c f) k = if k = c ∧ c ≠ 0 then f (counterOf s k) else counterOf s k := by
  unfold modCounter
  by_cases zero : c = 0
  · rw [if_pos zero, if_neg (by tauto)]
  · rw [if_neg zero]
    by_cases same : k = c
    · subst same
      rw [if_pos ⟨rfl, zero⟩]
      simp [counterOf, zero, SMap.modify]
    · rw [if_neg (by tauto)]
      simp only [counterOf, SMap.modify, SMap.getD_set_other _ _ _ _ _ same]

/-- Each counter of a list without repeats is changed once. -/
theorem counterOf_foldl_modCounter {cs : List Nat} (once : cs.Nodup) (named : 0 ∉ cs) (f : Counter → Counter) (s : State) (k : Nat) :
    counterOf (cs.foldl (fun t c => modCounter t c f) s) k = if k ∈ cs then f (counterOf s k) else counterOf s k := by
  induction cs generalizing s with
  | nil => simp
  | cons c cs ih =>
    obtain ⟨new, once⟩ := List.nodup_cons.mp once
    simp only [List.mem_cons, not_or] at named
    rw [List.foldl_cons, ih once named.2, counterOf_modCounter]
    by_cases same : k = c
    · subst same
      simp [new, Ne.symm named.1]
    · simp [same]

theorem nodup_eraseDups (xs : List Nat) : xs.eraseDups.Nodup := by
  induction n : xs.length using Nat.strong_induction_on generalizing xs with
  | _ n ih =>
    cases xs with
    | nil => simp
    | cons x xs =>
      rw [List.eraseDups_cons, List.nodup_cons]
      subst n
      exact ⟨by simp [List.mem_eraseDups], ih _ (Nat.lt_succ_of_le (List.length_filter_le ..)) _ rfl⟩

theorem Capsule.nodup_counters (c : Capsule) : c.counters.Nodup := (nodup_eraseDups _).filter _

theorem Capsule.zero_notMem_counters (c : Capsule) : 0 ∉ c.counters := by simp [Capsule.counters]

theorem counterOf_endCounters {cap : Capsule} (counted : cap.counted = true) (s : State) (ok : Bool) (code : BitVec 16) {c : Nat}
    (m : c ∈ cap.counters) : counterOf (endCounters s cap ok code) c = countEnd ok code (counterOf s c) := by
  unfold endCounters
  rw [if_pos counted, counterOf_foldl_modCounter cap.nodup_counters cap.zero_notMem_counters, if_pos m]

/-- The states differ in the counters alone. -/
def CountersOnly (s t : State) : Prop := t = { s with counters := t.counters }

theorem foldl_modCounter_countersOnly (cs : List Nat) (f : Counter → Counter) (s : State) :
    CountersOnly s (cs.foldl (fun t c => modCounter t c f) s) :=
  List.foldlRecOn cs _ (motive := CountersOnly s) rfl fun t a c _ => by
    unfold modCounter CountersOnly at *
    split
    · exact a
    · rw [a]

theorem endCounters_countersOnly (s : State) (cap : Capsule) (ok : Bool) (code : BitVec 16) :
    CountersOnly s (endCounters s cap ok code) := by
  unfold endCounters
  split
  · exact foldl_modCounter_countersOnly _ _ s
  · rfl

/-! ## What the host is told (R138) -/

/-- The states differ in host memory, the queues and the free values used, and in nothing else. -/
def ToldOnly (s t : State) : Prop := t = { s with hostMem := t.hostMem, queues := t.queues, fresh := t.fresh }

namespace ToldOnly

theorem refl (s : State) : ToldOnly s s := rfl
theorem trans {s t u : State} (a : ToldOnly s t) (b : ToldOnly t u) : ToldOnly s u := by
  unfold ToldOnly at *
  rw [b, a]

end ToldOnly

theorem hostPut_toldOnly (s : State) (a : Nat) (w : Word) : ToldOnly s (hostPut s a w) := rfl

theorem report_toldOnly (s : State) (o : Origin) (placedAt : Option Nat) (code : BitVec 16) : ToldOnly s (report s o placedAt code) := by
  have write (u : State) (st : Word) (tag : BitVec 32) (k : Nat) : ToldOnly u (writeStatus u st tag code k) := by
    unfold writeStatus
    split
    · exact .refl u
    · exact (hostPut_toldOnly u _ _).trans (hostPut_toldOnly _ _ _)
  have close (u : State) (q n : Nat) : ToldOnly u (closePacket u q n) := by
    unfold closePacket
    split <;> rfl
  cases o with
  | queue q st tag n =>
    cases placedAt with
    | some p => exact (write s st tag _).trans (close _ q n)
    | none => exact ToldOnly.trans (t := { s with fresh := s.fresh + 1 }) rfl ((write _ st tag _).trans (close _ q n))
  | chainOf q st tag n begun => exact (write s st tag _).trans (close _ q n)
  | launchBy r => exact .refl s

theorem reportEnd_toldOnly (s : State) (l : Launch) (code : BitVec 16) : ToldOnly s (reportEnd s l code) :=
  List.foldlRecOn l.cap.replaces _ (report_toldOnly s _ _ code) fun _ a o _ => a.trans (report_toldOnly _ o none code)

/-! ## A plat cleared (R157) -/

theorem SMap.find_filter_other {α : Type} (k : Nat) (m : SMap α) : SMap.find k (m.filter fun x => x.1 != k) = none := by
  induction m with
  | nil => rfl
  | cons x m ih =>
    simp only [List.filter]
    split
    · next ne =>
      simp only [SMap.find]
      rw [if_neg (by simpa using ne), ih]
    · exact ih

theorem launchOf_clearPlat_self (s : State) (L p : Nat) (st : PlatState) : launchOf (clearPlat s L p st) L = none :=
  SMap.find_filter_other L s.launches

/-! ## The end of a launch (R29, R178, R183, R189) -/

/-- A record is entered behind those of its cycle with a greater code (R187). -/
theorem enterRecord_eq_logged (r : FaultRec) (xs : List FaultRec) : (enterRecord r xs).take 64 = logged r xs := by
  unfold logged
  extract_lets later
  congr 1
  induction xs with
  | nil => rfl
  | cons x xs ih =>
    unfold enterRecord
    by_cases h : x.at' = r.at' ∧ r.code.toNat < x.code.toNat
    · rw [if_pos h, List.takeWhile_cons_of_pos (by simp [later, h]), List.dropWhile_cons_of_pos (by simp [later, h]), ih]
      rfl
    · have stops : ¬ later x = true := by simpa [later] using h
      rw [if_neg h, List.takeWhile_cons_of_neg stops, List.dropWhile_cons_of_neg stops]
      rfl

theorem faultLog_logFault (s : State) (code : BitVec 16) (d : BitVec 12) (p : Nat) (tag : BitVec 16) (core : Nat) (a : Word) :
    (logFault s code d p tag core a).faultLog =
      logged ⟨code, d, Config.time1588 s.cycle, p, tag, core, a, s.cycle, none⟩ s.faultLog := enterRecord_eq_logged _ _

/-- What is left of a launch that has ended with a code: its entry is gone, its plat is in a given state without a launch, and its
counters have taken the code. -/
structure Failed (s t : State) (L : Nat) (l : Launch) (code : BitVec 16) (st : PlatState) : Prop where
  gone : launchOf t L = none
  state : (platOf t l.plat).state = st
  empty : (platOf t l.plat).launch = none
  counters : l.cap.counted = true → ∀ c ∈ l.cap.counters, counterOf t c = countEnd false code (counterOf s c)

theorem counterOf_congr {s t : State} (h : t.counters = s.counters) (c : Nat) : counterOf t c = counterOf s c := by
  simp only [counterOf, h]

theorem failLaunch_failed {s : State} {L : Nat} {l : Launch} (h : launchOf s L = some l) (code : BitVec 16) (st : PlatState) :
    Failed s (failLaunch s L code st) L l code st ∧ (failLaunch s L code st).faultLog = s.faultLog := by
  have lines := endRepair_linesOnly false s L l
  have counted := endCounters_countersOnly (endRepair false s L l) l.cap false code
  have told := reportEnd_toldOnly (endCounters (endRepair false s L l) l.cap false code) l code
  rw [failLaunch_eq h]
  refine ⟨⟨launchOf_clearPlat_self .., ?_, ?_, fun yes c m => ?_⟩, ?_⟩
  · rw [platOf_clearPlat, if_pos rfl]
  · rw [platOf_clearPlat, if_pos rfl]
  · have ended := counterOf_endCounters yes (endRepair false s L l) false code m
    rw [counterOf_congr (t := endRepair false s L l) (s := s) (by rw [lines])] at ended
    rw [← ended]
    exact counterOf_congr (show (reportEnd _ l code).counters = _ by rw [told]) c
  · show (reportEnd _ l code).faultLog = _
    rw [told, counted, lines]

/-- From a state that has the same plats, counters and cycle. -/
theorem killedBy_of {s t : State} {L h : Nat} {l : Launch} {f : FaultInfo} {before : List FaultRec}
    (failed : Failed s t L l f.code .zeroing)
    (log : t.faultLog = logged ⟨f.code, f.detail, Config.time1588 s.cycle, l.plat, (platOf s l.plat).tag, h, f.addr, s.cycle, none⟩ before) :
    KilledBy s t L h l f before := by
  refine ⟨failed.gone, failed.state, failed.empty, ⟨_, rfl, rfl, rfl, rfl, rfl, rfl, rfl, log⟩, fun yes c m => ?_⟩
  rw [failed.counters yes c m]
  exact ⟨rfl, rfl, rfl, rfl⟩

/-- A launch killed by a fault of core h. -/
theorem killLaunch_failed {s : State} {L h : Nat} {l : Launch} {f : FaultInfo} (at' : launchOf s L = some l) :
    Failed s (killLaunch s L h f) L l f.code .zeroing ∧ (killLaunch s L h f).faultLog =
      logged ⟨f.code, f.detail, Config.time1588 s.cycle, l.plat, (platOf s l.plat).tag, h, f.addr, s.cycle, none⟩ s.faultLog := by
  simp only [killLaunch, at']
  obtain ⟨failed, log⟩ := failLaunch_failed (s := logFault s f.code f.detail l.plat (platOf s l.plat).tag h f.addr) at' f.code .zeroing
  exact ⟨⟨failed.gone, failed.state, failed.empty, failed.counters⟩, log.trans (faultLog_logFault ..)⟩

/-- A launch ended with a code that the module gave. -/
theorem endLogged_endedBy {s : State} {L : Nat} {l : Launch} (at' : launchOf s L = some l) (code : BitVec 16) (d : BitVec 12)
    (st : PlatState) : EndedBy s (endLogged s L code d st) L l code d st := by
  simp only [endLogged, at']
  obtain ⟨failed, log⟩ := failLaunch_failed (s := logFault { s with fresh := s.fresh + 2 } code d l.plat (platOf s l.plat).tag
    (Config.freeChoice s.fresh % 2 ^ 20) (Config.freeWord (s.fresh + 1))) at' code st
  refine ⟨failed.gone, failed.state, failed.empty, ⟨_, rfl, rfl, rfl, rfl, rfl, log.trans (faultLog_logFault ..)⟩, fun yes c m => ?_⟩
  rw [failed.counters yes c m]
  exact ⟨rfl, rfl, rfl, rfl⟩

end Sys2Proof.Machine
end

section
/-! SUPPORT. The system words: sys.fail, sys.cancel, sys.chmask, sys.digest, sys.fpt, sys.chain and sys.launch, and the statement on them
(spec/17 R310 to R314). -/

namespace Sys2Proof.Machine

open Sys2Proof.Claims

/-! ## Operations in order -/

theorem get_bind {α : Type} (k : State → Op α) (s : State) : ((get : Op State) >>= k) s = k s s := rfl
theorem getSlot_bind {α : Type} (k : Slot → Op α) (s : State) : (getSlot >>= k) s = k (curSlot s) s := rfl
theorem modState_bind {α : Type} (f : State → State) (k : Unit → Op α) (s : State) : (modState f >>= k) s = k () (f s) := rfl

/-- A check that does not hold the word up. -/
theorem stopIf_bind {α : Type} {c : Prop} [Decidable c] (h : ¬ c) (x : Op Unit) (k : Unit → Op α) (s : State) :
    (stopIf c x >>= k) s = k () s := bind_ok (stopIf_ok h)

/-- A check that stops the word. -/
theorem stopIf_bind_stop {α : Type} {c : Prop} [Decidable c] {x : Op Unit} {e : Stop} {s : State} (h : c) (stop : x s = .error e)
    (k : Unit → Op α) : (stopIf c x >>= k) s = .error e := bind_error ((stopIf_stop h).trans stop)

theorem toNat_extractLow (w : Word) (n : Nat) : (w.extractLsb' 0 n).toNat = w.toNat % 2 ^ n := by
  simp [BitVec.extractLsb'_toNat]

/-! ## sys.fail (R310, R314) -/

theorem exec_sysFail (x : ASrc) (s : State) : exec (.sysFail x) s = execSysFail x s := rfl
theorem exec_sysCancel (x : ASrc) (s : State) : exec (.sysCancel x) s = execSysCancel x s := rfl
theorem exec_sysChmask (x y : ASrc) (s : State) : exec (.sysChmask x y) s = execSysChmask x y s := rfl
theorem exec_sysDigest (x y : ASrc) (s : State) : exec (.sysDigest x y) s = execSysDigest x y s := rfl
theorem exec_sysFpt (s : State) : exec .sysFpt s = execSysFpt s := rfl

/-- The record of a late fault that sys.fail leaves behind. -/
def lateRecord (p : Nat) (tag : BitVec 16) (c : Nat) (x : Nat × FaultInfo) : FaultRec :=
  ⟨x.2.code, x.2.detail, Config.time1588 c, p, tag, x.1, x.2.addr, c, none⟩

/-- The states differ in the fault log alone. -/
def LogOnly (s t : State) : Prop := t = { s with faultLog := t.faultLog, gzChanged := t.gzChanged }

theorem logAfter_logOnly (p : Nat) (tag : BitVec 16) (s : State) (x : Nat × FaultInfo) : LogOnly s (logAfter p tag s x) := rfl

theorem take_append_take {α : Type} (n : Nat) (xs ys : List α) : (xs ++ ys.take n).take n = (xs ++ ys).take n := by
  simp only [List.take_append, List.take_take, Nat.min_eq_left (Nat.sub_le ..)]

/-- Late faults are logged one after the other, each as the newest. -/
theorem foldl_logAfter (p : Nat) (tag : BitVec 16) (xs : List (Nat × FaultInfo)) (s : State) (h : s.faultLog.length ≤ 64) :
    LogOnly s (xs.foldl (logAfter p tag) s) ∧
      (xs.foldl (logAfter p tag) s).faultLog = ((xs.map (lateRecord p tag s.cycle)).reverse ++ s.faultLog).take 64 := by
  induction xs generalizing s with
  | nil => exact ⟨rfl, (List.take_of_length_le h).symm⟩
  | cons x xs ih =>
    have log : (logAfter p tag s x).faultLog = (lateRecord p tag s.cycle x :: s.faultLog).take 64 := rfl
    obtain ⟨only, rest⟩ := ih (logAfter p tag s x) (by rw [log]; exact List.length_take_le ..)
    have step := logAfter_logOnly p tag s x
    refine ⟨?_, ?_⟩
    · unfold LogOnly at *
      rw [List.foldl_cons, only, step]
    · rw [List.foldl_cons, rest, log, take_append_take, List.map_cons, List.reverse_cons, List.append_assoc]
      rfl

theorem length_logged_le (r : FaultRec) (xs : List FaultRec) : (logged r xs).length ≤ 64 := List.length_take_le ..

/-- What a launch has left as it failed stays so where other states differ in the cores, before, and in the fault log, after. -/
theorem Failed.transfer {s s' t t' : State} {L : Nat} {l : Launch} {code : BitVec 16} {st : PlatState} (h : Failed s' t L l code st)
    (before : CoresOnly s s') (after : LogOnly t t') : Failed s t' L l code st where
  gone := by rw [after]; exact h.gone
  state := by rw [after]; exact h.state
  empty := by rw [after]; exact h.empty
  counters yes c m := by rw [after, ← before.counterOf]; exact h.counters yes c m

/-- What sys.fail does with the fault that it raises: the launch is killed, and the late faults stand before its record. -/
theorem failKill_kills {s s1 : State} {L h n : Nat} {l : Launch} (cores : CoresOnly s s1) (at' : launchOf s L = some l) (f : FaultInfo) :
    ∃ (log rs : List FaultRec), KilledBy s { failKill s1 L h n f with faultLog := log } L h l f s.faultLog ∧
      (failKill s1 L h n f).faultLog = (rs ++ log).take 64 ∧ rs.length = (lateOf s1 L h n).length ∧
      ∀ q ∈ lateOf s1 L h n, ∃ r ∈ rs, r.core = q.1 ∧ r.code = q.2.code ∧ r.detail = q.2.detail ∧ r.addr = q.2.addr := by
  have at1 : launchOf s1 L = some l := by rw [cores.launchOf, at']
  obtain ⟨failed, log⟩ := killLaunch_failed (h := h) (f := f) at1
  rw [cores.cycle, cores.platOf, cores.faultLog] at log
  have short : (killLaunch s1 L h f).faultLog.length ≤ 64 := log ▸ length_logged_le ..
  obtain ⟨only, late⟩ := foldl_logAfter l.plat (platOf s1 l.plat).tag (lateOf s1 L h n) (killLaunch s1 L h f) short
  simp only [failKill, at1]
  refine ⟨_, _, killedBy_of (failed.transfer cores ?_) log, late, by simp, fun q m =>
    ⟨_, List.mem_reverse.mpr (List.mem_map_of_mem m), rfl, rfl, rfl, rfl⟩⟩
  unfold LogOnly at *
  rw [only]

/-- The fault that sys.fail raises for a value: the one that it names, or RESERVED_FIELD (R310). -/
def failFault (σ : Slot) (w : Word) : FaultInfo :=
  if isProgramCode (w.extractLsb' 16 16) || (σ.inTrap && w.extractLsb' 16 16 == σ.tcause.extractLsb' 16 16) then
    ⟨w.extractLsb' 16 16, w.extractLsb' 0 12, 0⟩ else ⟨codeReserved, 0x0f0, 0⟩

section
variable {x y : ASrc} {s s1 s2 : State} {w m : Word} {l : Launch}

theorem exec_sysFail_of_read (h : AReady s) (ex : readA x s = .ok (w, s1)) :
    exec (.sysFail x) s = .next (failKill s1 (curLaunch s) (curHart s) (curNum s) (failFault (curSlot s) w)) := by
  have r := Read.of_readA ex
  rw [exec_sysFail, execSysFail]
  refine wordA_stay false h ?_
  rw [failOp, bind_ok ex, getSlot_bind, modState_bind, r.curLaunch, r.curHart, r.curNum, r.inTrap, r.tcause]
  rfl

theorem failFault_named {σ : Slot} (named : (0x6001 ≤ (w.extractLsb' 16 16).toNat ∧ (w.extractLsb' 16 16).toNat ≤ 0x6011) ∨
    (σ.inTrap = true ∧ w.extractLsb' 16 16 = σ.tcause.extractLsb' 16 16)) :
    failFault σ w = ⟨w.extractLsb' 16 16, w.extractLsb' 0 12, 0⟩ :=
  if_pos (by simpa only [isProgramCode, Bool.or_eq_true, Bool.and_eq_true, decide_eq_true_eq, beq_iff_eq] using named)

theorem failFault_unnamed {σ : Slot} (unnamed : ¬ ((0x6001 ≤ (w.extractLsb' 16 16).toNat ∧ (w.extractLsb' 16 16).toNat ≤ 0x6011) ∨
    (σ.inTrap = true ∧ w.extractLsb' 16 16 = σ.tcause.extractLsb' 16 16))) : failFault σ w = ⟨codeReserved, 0x0f0, 0⟩ :=
  if_neg (by simpa only [isProgramCode, Bool.or_eq_true, Bool.and_eq_true, decide_eq_true_eq, beq_iff_eq] using unnamed)

/-! ## sys.cancel (R312) -/

/-- sys.cancel up to its checks. -/
theorem cancelOp_read (ex : readA x s = .ok (w, s1)) : cancelOp x s = (do
    stopIf (w.toNat / 2 ^ 12 ≠ 0) (trapAt codeReserved 0x0f3 0)
    stopIf ((w.extractLsb' 0 12).toNat ≠ 0 ∧ (curCap s1).all fun c => !c.names (w.extractLsb' 0 12).toNat) (trapAt codeCapability 0x001 0)
    modState fun t => cancelCounter t (w.extractLsb' 0 12).toNat : Op Unit) s1 := bind_ok ex

theorem sysCancel_reserved (h : AReady s) (ex : readA x s = .ok (w, s1)) (large : 2 ^ 12 ≤ w.toNat) :
    exec (.sysCancel x) s = .next (takeTrap s s .aSide ⟨codeReserved, 0x0f3, 0⟩) := by
  refine (exec_sysCancel x s).trans (plainA_trap h (k := none) ?_)
  rw [cancelOp_read ex]
  exact stopIf_bind_stop (by omega) rfl _

/-- The capsule of the word's launch names the counter, or it is counter 0. -/
theorem curCap_of (ex : readA x s = .ok (w, s1)) (at' : launchOf s (curLaunch s) = some l) : curCap s1 = some l.cap := by
  have r := Read.of_readA ex
  rw [curCap, r.curLaunch, r.launchOf, at']
  rfl

theorem sysCancel_unnamed (h : AReady s) (at' : launchOf s (curLaunch s) = some l) (ex : readA x s = .ok (w, s1)) (small : w.toNat < 2 ^ 12)
    (some' : w ≠ 0) (unnamed : w.toNat ∉ l.cap.counters) :
    exec (.sysCancel x) s = .next (takeTrap s s .aSide ⟨codeCapability, 0x001, 0⟩) := by
  have nonzero : w.toNat ≠ 0 := fun z => some' (BitVec.eq_of_toNat_eq z)
  refine (exec_sysCancel x s).trans (plainA_trap h (k := none) ?_)
  rw [cancelOp_read ex, stopIf_bind (by omega), toNat_extractLow, Nat.mod_eq_of_lt small]
  exact stopIf_bind_stop ⟨nonzero, by simpa [curCap_of ex at', Capsule.names] using unnamed⟩ rfl _

theorem sysCancel_cancels (h : AReady s) (at' : launchOf s (curLaunch s) = some l) (ex : readA x s = .ok (w, s1)) (small : w.toNat < 2 ^ 12)
    (named : w = 0 ∨ w.toNat ∈ l.cap.counters) : exec (.sysCancel x) s = .next (endA false (cancelCounter s1 w.toNat)) := by
  refine (exec_sysCancel x s).trans (plainA_ok h ?_)
  rw [cancelOp_read ex, stopIf_bind (by omega), toNat_extractLow, Nat.mod_eq_of_lt small, stopIf_bind]
  · rfl
  · rcases named with rfl | m
    · simp
    · simp [curCap_of ex at', Capsule.names, m]

/-! ## sys.chmask (R312, R314) -/

/-- What sys.chmask writes, once its operands have passed. -/
def maskWritten (ch : Nat) (m : Word) (t : State) : State :=
  let c := curCtx t
  let bit : Word := BitVec.ofNat 64 (2 ^ ch)
  let u := putCurCtx t { c with masks := if m.getLsbD 0 then c.masks ||| bit else c.masks &&& ~~~bit }
  if m.getLsbD 0 then u else select u (curHart u)

/-- Operands that sys.chmask refuses. -/
def maskRefused (l : Launch) (w m : Word) : Prop :=
  2 ^ 6 ≤ w.toNat ∨ 2 ≤ m.toNat ∨ (w.extractLsb' 0 6).toNat = 63 ∨ l.handler (w.extractLsb' 0 6).toNat = none

/-- sys.chmask up to its check. -/
theorem chmaskOp_read (ex : readA x s = .ok (w, s1)) (ey : readA y s1 = .ok (m, s2)) (at' : launchOf s (curLaunch s) = some l) :
    chmaskOp x y s = (do
      stopIf (w.toNat / 2 ^ 6 ≠ 0 ∨ m.toNat / 2 ≠ 0 ∨ (w.extractLsb' 0 6).toNat = 63 ∨
        (l.handler (w.extractLsb' 0 6).toNat).isSome = false) (trapAt codeReserved 0x0f1 0)
      unlessLater (w.extractLsb' 0 6).toNat (maskWritten (w.extractLsb' 0 6).toNat m) : Op Unit) s2 := by
  have r := (Read.of_readA ex).trans (.of_readA ey)
  have at2 : launchOf s2 (curLaunch s2) = some l := by rw [r.curLaunch, r.launchOf, at']
  rw [chmaskOp, bind_ok ex, bind_ok ey, get_bind, at2]
  rfl

theorem maskRefused_iff : (w.toNat / 2 ^ 6 ≠ 0 ∨ m.toNat / 2 ≠ 0 ∨ (w.extractLsb' 0 6).toNat = 63 ∨
    (l.handler (w.extractLsb' 0 6).toNat).isSome = false) ↔ maskRefused l w m := by
  have wide : w.toNat / 2 ^ 6 ≠ 0 ↔ 2 ^ 6 ≤ w.toNat := by omega
  have large : m.toNat / 2 ≠ 0 ↔ 2 ≤ m.toNat := by omega
  rw [maskRefused, wide, large, Option.isSome_eq_false_iff, Option.isNone_iff_eq_none]

theorem sysChmask_refused (h : AReady s) (at' : launchOf s (curLaunch s) = some l) (ex : readA x s = .ok (w, s1))
    (ey : readA y s1 = .ok (m, s2)) (bad : maskRefused l w m) :
    exec (.sysChmask x y) s = .next (takeTrap s s .aSide ⟨codeReserved, 0x0f1, 0⟩) := by
  refine (exec_sysChmask x y s).trans (plainA_trap h (k := none) ?_)
  rw [chmaskOp_read ex ey at']
  exact stopIf_bind_stop (maskRefused_iff.mpr bad) rfl _

theorem sysChmask_writes (h : AReady s) (at' : launchOf s (curLaunch s) = some l) (ex : readA x s = .ok (w, s1))
    (ey : readA y s1 = .ok (m, s2)) (fine : ¬ maskRefused l w m) :
    exec (.sysChmask x y) s = .next (endA false (if laterWrote (w.extractLsb' 0 6).toNat s2 then s2
      else noteWrite (w.extractLsb' 0 6).toNat (maskWritten (w.extractLsb' 0 6).toNat m s2))) := by
  refine (exec_sysChmask x y s).trans (plainA_ok h ?_)
  rw [chmaskOp_read ex ey at', stopIf_bind (maskRefused_iff.not.mpr fine)]
  rfl

/-! ## sys.digest and sys.fpt (R312) -/

theorem stepAbove_iff (last : Option (BitVec 32)) (n : BitVec 32) : stepAbove last n = true ↔ NewStep last n := by
  cases last <;> simp [stepAbove, NewStep]

/-- A digest posted by the launch of the current slot. -/
def postDigest (step : BitVec 32) (bs : List Byte) (u : State) : State :=
  modLaunch u (curLaunch u) fun l =>
    { l with lastDigest := some step, digests := if u.replicated then l.digests ++ [(step, digestOf bs, u.cycle)] else l.digests }

/-- sys.digest up to its step number. -/
theorem digestOp_read {off : Nat} (ex : readA x s = .ok (w, s1)) (ey : readA y s1 = .ok (m, s2))
    (at' : launchOf s (curLaunch s) = some l) (own : ownOffset w 32 0x020 s2 = .ok (off, s2)) : digestOp x y s = (do
      stopIf (!stepAbove l.lastDigest (m.extractLsb' 0 32)) (trapAt codeQueueMisuse 0x051 0)
      inOrder { kinds := [.ld], scope := .core, sc := false, loc := ⟨curHart s, off, 32⟩, space2 := spaceOf w == 2 }
      let bs ← ownBytesAt off 32
      modState (postDigest (m.extractLsb' 0 32) bs) : Op Unit) s2 := by
  have r := (Read.of_readA ex).trans (.of_readA ey)
  have at2 : launchOf s2 (curLaunch s2) = some l := by rw [r.curLaunch, r.launchOf, at']
  rw [digestOp, bind_ok ex, bind_ok ey, bind_ok own, get_bind, at2, r.curHart]
  rfl

theorem sysDigest_old {off : Nat} (h : AReady s) (at' : launchOf s (curLaunch s) = some l) (ex : readA x s = .ok (w, s1))
    (ey : readA y s1 = .ok (m, s2)) (own : ownOffset w 32 0x020 s2 = .ok (off, s2)) (old : ¬ NewStep l.lastDigest (m.extractLsb' 0 32)) :
    exec (.sysDigest x y) s = .next (takeTrap s s .aSide ⟨codeQueueMisuse, 0x051, 0⟩) := by
  refine (exec_sysDigest x y s).trans (plainA_trap h (k := none) ?_)
  rw [digestOp_read ex ey at' own]
  exact stopIf_bind_stop (by simpa [← stepAbove_iff] using old) rfl _

theorem sysDigest_posts {off : Nat} {u s3 : State} {bs : List Byte} (h : AReady s) (at' : launchOf s (curLaunch s) = some l)
    (ex : readA x s = .ok (w, s1)) (ey : readA y s1 = .ok (m, s2)) (own : ownOffset w 32 0x020 s2 = .ok (off, s2))
    (new : NewStep l.lastDigest (m.extractLsb' 0 32))
    (order : inOrder { kinds := [.ld], scope := .core, sc := false, loc := ⟨curHart s, off, 32⟩, space2 := spaceOf w == 2 } s2 =
      .ok ((), u)) (bytes : ownBytesAt off 32 u = .ok (bs, s3)) :
    exec (.sysDigest x y) s = .next (endA false (postDigest (m.extractLsb' 0 32) bs s3)) ∧ curLaunch s3 = curLaunch s ∧
      CoresOnly s s3 := by
  have recalled := ownBytesAt_ok bytes
  have slots : SlotsKept u s3 := recalled ▸ slotsKept_recallU ..
  refine ⟨(exec_sysDigest x y s).trans (plainA_ok h ?_), ?_, ?_⟩
  · rw [digestOp_read ex ey at' own, stopIf_bind (by simpa [stepAbove_iff] using new), bind_ok order, bind_ok bytes]
    rfl
  · rw [slots.curLaunch, (inOrder_slotsKept order).curLaunch, ((Read.of_readA ex).trans (.of_readA ey)).curLaunch]
  · exact (((readA_coresOnly ex).trans (readA_coresOnly ey)).trans (inOrder_coresOnly order)).trans
      (recalled ▸ recallU_coresOnly u _ _ _)

theorem exec_sysFpt_eq (h : AReady s) : exec .sysFpt s = .next (endA false (if (curSlot s).paired then
    putHart s (curHart s) { hartOf s (curHart s) with fptForced := true } else s)) := (exec_sysFpt s).trans (plainA_ok h rfl)

end

/-! ## sys.chain and sys.launch (R311) -/

/-- What sys.chain and sys.launch do once the operations of the slot have been performed and their operands read. -/
def presentImage (u : State) (isLaunch : Bool) (x y : ASrc) (p len : Word) (l : Launch) : Op Unit := do
  agreeFirst
  let bs ← readImage p len
  let cap ← (if isLaunch then launchCheck bs len.toNat l else chainCheck bs len.toNat l)
  stopIf (!waitRoom u) (waitWith (.chain isLaunch x y none) u)
  stopIf (!isLaunch && yieldsChain u none) (waitWith (.chain isLaunch x y (some u.cycle)) u)
  modState fun t => if isLaunch then enterWait t cap else chainCommit cap l t

/-- sys.chain and sys.launch as one word. -/
def execPresent (isLaunch : Bool) (x y : ASrc) (s : State) : Host.Outcome State Fault Refusal := plainA (presentOp isLaunch x y none) s

/-- The bytes of an image are read, and of the module the last-level cache alone changes. -/
theorem readImage_ok {p n : Word} {s t : State} {bs : List Byte} (e : readImage p n s = .ok (bs, t)) :
    ∃ llc f, t = { s with llc := llc, fresh := f } := by
  have room (u : State) (k : Nat) : ∃ llc f, llcRoom u k = { u with llc := llc, fresh := f } := by
    unfold llcRoom
    dsimp only
    split
    · exact ⟨_, _, rfl⟩
    · split <;> exact ⟨_, _, rfl⟩
  have touched (x : Extent) (off : Nat) : ∃ llc f, extentTouch s x off = { s with llc := llc, fresh := f } := by
    unfold extentTouch llcTouch
    obtain ⟨llc, f, here⟩ := room s ((x.base + off) / 256)
    split
    · exact ⟨_, _, rfl⟩
    · dsimp only
      rw [here]
      split <;> exact ⟨_, _, rfl⟩
  unfold readImage at e
  obtain ⟨_, _, h, e⟩ := bind_inv e
  obtain ⟨rfl, rfl⟩ := get_inv h
  obtain ⟨_, _, h, e⟩ := bind_inv e
  obtain ⟨-, rfl⟩ := stopIf_inv (by simp [trapAt]) h
  obtain ⟨_, _, h, e⟩ := bind_inv e
  obtain ⟨-, rfl⟩ := stopIf_inv (by simp [trapAt]) h
  rcases found : extentOf _ (curLaunch _) p with _ | x
  · rw [found] at e
    cases e
  · rw [found] at e
    obtain ⟨_, _, h, e⟩ := bind_inv e
    obtain ⟨-, rfl⟩ := stopIf_inv (by simp [trapAt]) h
    obtain ⟨_, _, h, e⟩ := bind_inv e
    obtain ⟨-, rfl⟩ := stopIf_inv (by simp [trapFree]) h
    obtain ⟨_, _, h, e⟩ := bind_inv e
    have here := modState_inv h
    obtain ⟨-, rfl⟩ := pure_inv e
    exact here ▸ touched _ _

/-- A grant that passes is in the cache, and nothing else of the module changes. -/
theorem checkGrant_ok {s t : State} {dig : BitVec 256} {g : CachedGrant} (e : checkGrant s dig = .ok (g, t)) :
    t = { s with cache := t.cache } := by
  unfold checkGrant at e
  split at e
  · split at e
    · cases e
    · cases e
      rfl
  · split at e
    · cases e
    · split at e
      · cases e
      · dsimp only at e
        split at e
        · cases e
        · split at e
          · cases e
          · cases e
            rfl

theorem admitImage_ok {s t : State} {bs : List Byte} {n : Nat} {o : Origin} {cap : Capsule} (e : admitImage s bs n o = .ok (cap, t)) :
    t = { s with cache := t.cache } := by
  unfold admitImage at e
  dsimp only at e
  split at e
  · cases e
  · split at e
    · cases e
    · next g u passed =>
      split at e
      · cases e
      · split at e
        · cases e
        · injection e with e
          obtain ⟨-, rfl⟩ := Prod.mk.inj e
          exact checkGrant_ok passed

theorem admitOp_ok {s t : State} {bs : List Byte} {n : Nat} {o : Origin} {cap : Capsule} (e : admitImage s bs n o = .ok (cap, t)) :
    admitOp bs n o s = .ok (cap, t) := by
  unfold admitOp
  rw [e]

theorem admitOp_error {s : State} {bs : List Byte} {n : Nat} {o : Origin} {code : BitVec 16} {d : BitVec 12}
    (e : admitImage s bs n o = .error (code, d)) : admitOp bs n o s = .error (.trap ⟨code, d, 0⟩ none) := by
  unfold admitOp
  rw [e]

theorem agreeFirst_ok {s : State} (h : (curSlot s).paired = false ∨ (curSlot s).agreed = true) : agreeFirst s = .ok ((), s) := by
  unfold agreeFirst
  rw [if_neg]
  rcases h with h | h <;> simp [h]

theorem agreeFirst_wait {s : State} (paired : (curSlot s).paired = true) (open' : (curSlot s).agreed = false) :
    agreeFirst s = .error (.wait .agree none) := by
  unfold agreeFirst
  rw [if_pos (by simp [paired, open'])]

section
variable {x y : ASrc} {s : State} {l : Launch} {isLaunch : Bool}

theorem exec_sysChain (x y : ASrc) (s : State) : exec (.sysChain x y) s = execPresent false x y s := rfl
theorem exec_sysLaunch (x y : ASrc) (s : State) : exec (.sysLaunch x y) s = execPresent true x y s := rfl

/-- The state once the bytes of the slot have been pushed. -/
def pushed (s : State) : State := flushScope (curLaunch s) (curHart s) .module s

theorem issues_pushed (s : State) : Issues 0 s (pushed s) := (flushScope_issues (curLaunch s) (curHart s) .module s).1
theorem curSlot_pushed (s : State) : curSlot (pushed s) = curSlot s := (flushScope_issues (curLaunch s) (curHart s) .module s).2

theorem launchOf_pushed (s : State) (L : Nat) : launchOf (pushed s) L = launchOf s L := by
  rw [launchOf, launchOf, (issues_pushed s).rest]

/-- Operations of the slot that have not been performed are waited for. -/
theorem execPresent_waits (h : AReady s) (open' : fenceDone (pushed s) (curHart s) (curNum s) .module = false) :
    execPresent isLaunch x y s = .next (markA (pushed s) (.chain isLaunch x y none)) := by
  refine plainA_wait h (k := some (pushed s)) ?_
  rw [presentOp, bind_ok (show pushBytes .module s = .ok ((), pushed s) from rfl), get_bind, (issues_pushed s).curHart, (issues_pushed s).curNum]
  exact stopIf_bind_stop (by simp [open']) rfl _

variable {u1 u2 u3 t : State} {p n : Word} {bs : List Byte} {cap : Capsule}

/-- The operands of the word have been read once the operations of the slot have been performed. -/
structure Presents (s : State) (x y : ASrc) (l : Launch) (u1 u2 : State) (p n : Word) : Prop where
  ready : AReady s
  here : launchOf s (curLaunch s) = some l
  done : fenceDone (pushed s) (curHart s) (curNum s) .module = true
  first : readA x (pushed s) = .ok (p, u1)
  second : readA y u1 = .ok (n, u2)

variable (a : Presents s x y l u1 u2 p n)
include a

theorem Presents.read : Read (pushed s) u2 := (Read.of_readA a.first).trans (.of_readA a.second)

theorem presentOp_read : presentOp isLaunch x y none s =
    (if !l.cancelled then presentImage (pushed s) isLaunch x y p n l else pure () : Op Unit) u2 := by
  have at' : launchOf (pushed s) (curLaunch (pushed s)) = some l := by rw [(issues_pushed s).curLaunch, launchOf_pushed, a.here]
  rw [presentOp, bind_ok (show pushBytes .module s = .ok ((), pushed s) from rfl), get_bind, (issues_pushed s).curHart,
    (issues_pushed s).curNum, stopIf_bind (by simp [a.done]), bind_ok a.first, bind_ok a.second, at']
  rfl

/-- A cancelled launch presents nothing. -/
theorem execPresent_cancelled (gone : l.cancelled = true) : execPresent isLaunch x y s = .next (endA false u2) := by
  refine plainA_ok a.ready ?_
  rw [presentOp_read a, gone]
  rfl

theorem presentOp_live (live : l.cancelled = false) :
    presentOp isLaunch x y none s = presentImage (pushed s) isLaunch x y p n l u2 := by
  rw [presentOp_read a, live]
  rfl

theorem Presents.slot_iff : (curSlot u2).paired = (curSlot s).paired ∧ (curSlot u2).agreed = (curSlot s).agreed := by
  rw [a.read.paired, a.read.agreed, curSlot_pushed]
  exact ⟨rfl, rfl⟩

/-- A pair waits for its agreement point. -/
theorem execPresent_agree (live : l.cancelled = false) (paired : (curSlot s).paired = true) (open' : (curSlot s).agreed = false) :
    execPresent isLaunch x y s = .next (markA s .agree) := by
  obtain ⟨samePaired, sameAgreed⟩ := a.slot_iff
  refine plainA_wait a.ready (k := none) ?_
  rw [presentOp_live a live]
  exact bind_error (agreeFirst_wait (samePaired.trans paired) (sameAgreed.trans open'))

/-- The image is read next. -/
theorem presentOp_agreed (live : l.cancelled = false) (alone : (curSlot s).paired = false ∨ (curSlot s).agreed = true) :
    presentOp isLaunch x y none s = (do
      let bs ← readImage p n
      let cap ← (if isLaunch then launchCheck bs n.toNat l else chainCheck bs n.toNat l)
      stopIf (!waitRoom (pushed s)) (waitWith (.chain isLaunch x y none) (pushed s))
      stopIf (!isLaunch && yieldsChain (pushed s) none) (waitWith (.chain isLaunch x y (some (pushed s).cycle)) (pushed s))
      modState fun t => if isLaunch then enterWait t cap else chainCommit cap l t : Op Unit) u2 := by
  obtain ⟨samePaired, sameAgreed⟩ := a.slot_iff
  rw [presentOp_live a live]
  exact bind_ok (agreeFirst_ok (by rwa [samePaired, sameAgreed]))

variable (live : l.cancelled = false) (alone : (curSlot s).paired = false ∨ (curSlot s).agreed = true)
include live alone

theorem execPresent_space (other : spaceOf p ≠ 4) :
    execPresent isLaunch x y s = .next (takeTrap s s .aSide ⟨codeSpace, BitVec.ofNat 12 (spaceOf p), p⟩) := by
  refine plainA_trap a.ready (k := none) ?_
  rw [presentOp_agreed a live alone]
  refine bind_error ?_
  rw [readImage, get_bind]
  exact stopIf_bind_stop (.inl other) rfl _

variable (image : readImage p n u2 = .ok (bs, u3))
include image

/-- A check of the image that fails. -/
theorem execPresent_refused {f : FaultInfo}
    (refused : (if isLaunch then launchCheck bs n.toNat l else chainCheck bs n.toNat l) u3 = .error (.trap f none)) :
    execPresent isLaunch x y s = .next (takeTrap s s .aSide f) := by
  refine plainA_trap a.ready (k := none) ?_
  rw [presentOp_agreed a live alone, bind_ok image]
  exact bind_error refused

variable (passed : (if isLaunch then launchCheck bs n.toNat l else chainCheck bs n.toNat l) u3 = .ok (cap, t))
include passed

theorem execPresent_full (full : waitRoom (pushed s) = false) :
    execPresent isLaunch x y s = .next (markA (pushed s) (.chain isLaunch x y none)) := by
  refine plainA_wait a.ready (k := some (pushed s)) ?_
  rw [presentOp_agreed a live alone, bind_ok image, bind_ok passed]
  exact stopIf_bind_stop (by simp [full]) rfl _

theorem execPresent_yields (room : waitRoom (pushed s) = true) (yields : (!isLaunch && yieldsChain (pushed s) none) = true) :
    execPresent isLaunch x y s = .next (markA (pushed s) (.chain isLaunch x y (some s.cycle))) := by
  refine plainA_wait a.ready (k := some (pushed s)) ?_
  have cycle : (pushed s).cycle = s.cycle := by rw [(issues_pushed s).rest]
  rw [presentOp_agreed a live alone, bind_ok image, bind_ok passed, stopIf_bind (by simp [room])]
  exact stopIf_bind_stop yields (cycle ▸ rfl) _

theorem execPresent_commits (room : waitRoom (pushed s) = true) (first : (!isLaunch && yieldsChain (pushed s) none) = false) :
    execPresent isLaunch x y s = .next (endA false (if isLaunch then enterWait t cap else chainCommit cap l t)) := by
  refine plainA_ok a.ready ?_
  rw [presentOp_agreed a live alone, bind_ok image, bind_ok passed, stopIf_bind (by simp [room]), stopIf_bind (by simp [first])]
  rfl

omit live alone passed in
/-- The word's launch is the same in the state that the checks leave. -/
theorem Presents.curLaunch_of {k : Capsule} (admitted : admitImage u3 bs n.toNat (.launchBy l.cap.origin.rank) = .ok (k, t)) :
    curLaunch t = curLaunch s := by
  obtain ⟨llc, f, rfl⟩ := readImage_ok image
  rw [admitImage_ok admitted]
  show curLaunch u2 = _
  rw [a.read.curLaunch, (issues_pushed s).curLaunch]

end

/-! ## The statement -/

section
variable {x y : ASrc} {s u1 u2 u3 t : State} {l : Launch} {p n : Word} {bs : List Byte} {cap : Capsule}

/-- The capsule of an image that sys.chain and sys.launch present. -/
def presented (l : Launch) (bs : List Byte) : Capsule := readCapsule bs (.launchBy l.cap.origin.rank)

theorem launchCheck_drained (gone : unplaceable u3 (presented l bs) = true) (n : Nat) :
    launchCheck bs n l u3 = .error (.trap ⟨codeDrain, 0, 0⟩ none) := by
  rw [launchCheck, get_bind]
  exact stopIf_bind_stop gone rfl _

theorem launchCheck_placeable (free : unplaceable u3 (presented l bs) = false) (n : Nat) :
    launchCheck bs n l u3 = admitOp bs n (.launchBy l.cap.origin.rank) u3 := by
  rw [launchCheck, get_bind]
  exact stopIf_bind (Bool.eq_false_iff.mp free) _ _ _

theorem chainCheck_refused {n : Nat} {d : BitVec 12} (admitted : admitImage u3 bs n (.launchBy l.cap.origin.rank) = .ok (cap, t))
    (refused : chainRefused l bs cap = some d) : chainCheck bs n l u3 = .error (.trap ⟨codeChain, d, 0⟩ none) := by
  rw [chainCheck, bind_ok (admitOp_ok admitted), refused]
  rfl

theorem chainCheck_passed {n : Nat} (admitted : admitImage u3 bs n (.launchBy l.cap.origin.rank) = .ok (cap, t))
    (matches' : chainRefused l bs cap = none) : chainCheck bs n l u3 = .ok (cap, t) := by
  rw [chainCheck, bind_ok (admitOp_ok admitted), matches']
  rfl

/-- A chain is committed; while no pre-emption has been requested, the pending capsule is all that it leaves. -/
theorem chainCommit_quiet (quiet : l.preempting = false) (t : State) :
    chainCommit cap l t = modLaunch t (curLaunch t) fun k => markDrained t { k with pending := some cap } := by
  rw [chainCommit, quiet]
  rfl

end

/-- Settles O47, word by word; sys.chain and sys.launch are one word up to what they check and commit. -/
theorem systemWords : Obligations.SystemWords := by
  intro s l h at'
  simp only [exec_sysChain, exec_sysLaunch]
  refine ⟨fun x s1 w ex => ⟨?_, sysCancel_reserved h ex, sysCancel_unnamed h at' ex, sysCancel_cancels h at' ex⟩,
    fun x y s1 s2 w m ex ey => ?_, fun alone => ?_, fun paired => ?_, fun x y => ⟨fun open' => ?_, fun u1 u2 p n done ex ey => ?_⟩⟩
  · obtain ⟨log, rs, killed, late, len, records⟩ :=
      failKill_kills (h := curHart s) (n := curNum s) (readA_coresOnly ex) at' (failFault (curSlot s) w)
    exact ⟨_, log, rs, exec_sysFail_of_read h ex, fun named => failFault_named named ▸ killed,
      fun unnamed => failFault_unnamed unnamed ▸ killed, late, len, records⟩
  · have hart : curHart s2 = curHart s := ((Read.of_readA ex).trans (.of_readA ey)).curHart
    refine ⟨sysChmask_refused h at' ex ey, fun fine later => ?_, fun fine first one => ?_, fun fine first zero => ?_,
      fun off own => ⟨sysDigest_old h at' ex ey own, fun u bs s3 new order bytes => ?_⟩⟩
    · rw [sysChmask_writes h at' ex ey fine, if_pos later]
    · rw [sysChmask_writes h at' ex ey fine, if_neg (Bool.eq_false_iff.mp first), one]
      rfl
    · rw [sysChmask_writes h at' ex ey fine, if_neg (Bool.eq_false_iff.mp first), zero, ← hart]
      rfl
    · obtain ⟨posts, launch, cores⟩ := sysDigest_posts h at' ex ey own new order bytes
      rw [posts, postDigest, launch, cores.replicated, cores.cycle]
  · rw [exec_sysFpt_eq h, if_neg (by simp [alone])]
  · rw [exec_sysFpt_eq h, if_pos paired]
  · exact ⟨execPresent_waits h open', execPresent_waits h open'⟩
  · have a : Presents s x y l u1 u2 p n := ⟨h, at', done, ex, ey⟩
    refine ⟨fun gone => ⟨execPresent_cancelled a gone, execPresent_cancelled a gone⟩,
      fun live paired open' => ⟨execPresent_agree a live paired open', execPresent_agree a live paired open'⟩,
      fun live alone => ⟨fun other r m => ?_, fun bs u3 image => ⟨fun gone => ?_, fun code d refused => ⟨?_, fun free => ?_⟩,
        fun cap t admitted => ⟨fun d refused => ?_, fun matches' => ⟨fun full => ?_, fun room yields => ?_, fun room first asked => ?_,
          fun room first quiet => ?_⟩, fun free => ⟨fun full => ?_, fun room => ?_⟩⟩⟩⟩⟩
    · rcases List.mem_pair.mp m with rfl | rfl <;> exact execPresent_space a live alone other
    · exact execPresent_refused (isLaunch := true) a live alone image (launchCheck_drained gone _)
    · exact execPresent_refused (isLaunch := false) a live alone image (bind_error (admitOp_error refused))
    · exact execPresent_refused (isLaunch := true) a live alone image ((launchCheck_placeable free _).trans (admitOp_error refused))
    · exact execPresent_refused (isLaunch := false) a live alone image (chainCheck_refused admitted refused)
    · exact execPresent_full (isLaunch := false) a live alone image (chainCheck_passed admitted matches') full
    · exact execPresent_yields (isLaunch := false) a live alone image (chainCheck_passed admitted matches') room yields
    · exact execPresent_commits (isLaunch := false) a live alone image (chainCheck_passed admitted matches') room first
    · have commits := execPresent_commits (isLaunch := false) a live alone image (chainCheck_passed admitted matches') room first
      rw [← a.curLaunch_of image admitted, ← chainCommit_quiet quiet]
      exact commits
    · exact execPresent_full (isLaunch := true) a live alone image ((launchCheck_placeable free _).trans (admitOp_ok admitted)) full
    · exact execPresent_commits (isLaunch := true) a live alone image ((launchCheck_placeable free _).trans (admitOp_ok admitted)) room rfl

end Sys2Proof.Machine
end

section
/-! SUPPORT. Placement: the launch table index, the tag, and the cores, clusters and contexts that a capsule takes (spec/01 R7,
spec/03 R48, spec/08 R152, spec/10 R177). -/

namespace Sys2Proof.Machine

open Sys2Proof.Claims

/-! ## Placing a capsule (R7, R177) -/

theorem exec_placement (w p : Nat) (s : State) : exec (.placement w p) s = .next (placeWaiting w p s) := rfl

theorem SMap.find_none_of_notMem {α : Type} {k : Nat} {m : SMap α} (h : k ∉ m.map (·.1)) : SMap.find k m = none := by
  cases e : SMap.find k m with
  | none => rfl
  | some a => exact absurd (List.mem_map_of_mem (f := (·.1)) (SMap.mem_of_find e)) h

/-- The launch table index that a placement takes. -/
def launchIndex (s : State) : Nat := (freeLaunches s).getD (Config.freeChoice s.fresh % (freeLaunches s).length) 0

/-- While the launch table has room, it is a free index of the table. -/
theorem launchIndex_free {s : State} (room : s.launches.length < 1024) : launchIndex s < 1024 ∧ launchOf s (launchIndex s) = none := by
  obtain ⟨i, below, unused⟩ := exists_lt_notMem (n := 1024) (ks := s.launches.map (·.1)) (by rwa [List.length_map])
  have free : i ∈ freeLaunches s := by
    rw [freeLaunches, List.mem_filter, mem_upFrom, launchOf, SMap.find_none_of_notMem unused]
    exact ⟨⟨Nat.zero_le i, by omega⟩, rfl⟩
  have inside : Config.freeChoice s.fresh % (freeLaunches s).length < (freeLaunches s).length := Nat.mod_lt _ (List.length_pos_of_mem free)
  have taken : launchIndex s ∈ freeLaunches s := by
    rw [launchIndex, List.getD_eq_getElem _ _ inside]
    exact List.getElem_mem inside
  rw [freeLaunches, List.mem_filter, mem_upFrom, Option.isNone_iff_eq_none] at taken
  exact ⟨by omega, taken.2⟩

theorem nextTag_ne_zero (s : State) : nextTag s ≠ 0 := by
  unfold nextTag
  extract_lets live
  cases e : ((upFrom 1 1026).map fun i => s.tagCtr + BitVec.ofNat 16 i).find? fun t => t != 0 && !live.contains t with
  | none => decide
  | some t =>
    have found := List.find?_some e
    simp only [Bool.and_eq_true, bne_iff_ne] at found
    exact found.1

/-- The entry of the plat that a placement takes. -/
def takenEntry (s : State) (p : Nat) : PlatEntry :=
  { platOf s p with state := .placing, launch := some (launchIndex s), tag := nextTag s, onward := none, claim := none, quiesce := 0 }

/-- The state with the plat's entry taken, and a free choice and a tag used. -/
def takePlat (s : State) (p : Nat) : State :=
  putPlat { s with fresh := s.fresh + 1, tagCtr := nextTag s, gzChanged := true } p (takenEntry s p)

/-- The state with the plat's cores, clusters and contexts taken. -/
def takeCores (s : State) (cap : Capsule) (p : Nat) : State :=
  placeContexts cap (launchIndex s) p (placeClusters (takenEntry s p) (placeCores cap (launchIndex s) p (takenEntry s p) (takePlat s p)))

/-- The launch that a placement makes. -/
def madeLaunch (s : State) (cap : Capsule) (p : Nat) : Launch :=
  newLaunch { s with fresh := s.fresh + 1, tagCtr := nextTag s, gzChanged := true } cap p

theorem placeOn_eq (s : State) (cap : Capsule) (p : Nat) :
    placeOn s cap p = putLaunch (takeCores s cap p) (launchIndex s) (madeLaunch s cap p) := rfl

/-! ### What is taken changes the cores and the clusters alone -/

/-- The states differ in the cores and the clusters, and in the numbers given, and in nothing else. -/
def PlatOnly (s t : State) : Prop :=
  t = { s with harts := t.harts, clusters := t.clusters, guards := t.guards, nextId := t.nextId, ownCtr := t.ownCtr }

namespace PlatOnly

theorem refl (s : State) : PlatOnly s s := rfl
theorem trans {s t u : State} (a : PlatOnly s t) (b : PlatOnly t u) : PlatOnly s u := by
  unfold PlatOnly at *
  rw [b, a]
theorem foldl {α : Type} {f : State → α → State} (h : ∀ s a, PlatOnly s (f s a)) (xs : List α) (s : State) :
    PlatOnly s (xs.foldl f s) :=
  List.foldlRecOn xs f (refl s) fun _ ht a _ => ht.trans (h _ a)

variable {s t : State} (h : PlatOnly s t)
include h
theorem plats : t.plats = s.plats := by rw [h]
theorem waitList : t.waitList = s.waitList := by rw [h]

end PlatOnly

theorem placeCores_platOnly (cap : Capsule) (L p : Nat) (P : PlatEntry) (s : State) : PlatOnly s (placeCores cap L p P s) :=
  .foldl (by intro _ _; rfl) _ s

theorem placeClusters_platOnly (P : PlatEntry) (s : State) : PlatOnly s (placeClusters P s) := .foldl (by intro _ _; rfl) _ s

theorem placeContexts_platOnly (cap : Capsule) (L p : Nat) (s : State) : PlatOnly s (placeContexts cap L p s) :=
  .foldl (by intro _ _; rfl) _ s

theorem takeCores_platOnly (s : State) (cap : Capsule) (p : Nat) : PlatOnly (takePlat s p) (takeCores s cap p) :=
  ((placeCores_platOnly _ _ _ _ _).trans (placeClusters_platOnly _ _)).trans (placeContexts_platOnly _ _ _ _)

theorem harts_placeClusters (P : PlatEntry) (s : State) : (placeClusters P s).harts = s.harts :=
  List.foldlRecOn P.clusters _ (motive := fun t : State => t.harts = s.harts) rfl fun _ e _ _ => e

section
variable (s : State) (cap : Capsule) (p : Nat)

theorem platOf_placeOn : platOf (placeOn s cap p) p = takenEntry s p := by
  rw [placeOn_eq]
  exact (platOf_congr (takeCores_platOnly s cap p).plats p).trans (platOf_putPlat_same _ p _)

theorem launchOf_placeOn : launchOf (placeOn s cap p) (launchIndex s) = some (madeLaunch s cap p) := by
  rw [placeOn_eq, launchOf_putLaunch_same]

theorem waitList_placeOn : (placeOn s cap p).waitList = s.waitList := (takeCores_platOnly s cap p).waitList

/-- The launch stands on its plat. -/
theorem onPlat_placeOn : OnPlat (placeOn s cap p) p (launchIndex s) (madeLaunch s cap p) :=
  ⟨by rw [platOf_placeOn]; rfl, launchOf_placeOn s cap p, rfl⟩

end

/-! ### The cores of the plat (R7, R48, R152) -/

/-- Cores written one after the other, each from what stands there: what holds of a core once it has been written, and stays so when
it is written again, holds of every core of the list. -/
theorem foldl_putHart_reaches {done start : Hart → Prop} {f : Hart → Hart} (writes : ∀ H, start H → done (f H))
    (again : ∀ H, done H → start H) {h : Nat} (hs : List Nat) (s : State) (before : start (hartOf s h))
    (listed : h ∈ hs ∨ done (hartOf s h)) : done (hartOf (hs.foldl (fun t k => putHart t k (f (hartOf t k))) s) h) := by
  induction hs generalizing s with
  | nil => exact listed.resolve_left (by simp)
  | cons k hs ih =>
    rw [List.foldl_cons]
    by_cases here : h = k
    · subst here
      have written : done (hartOf (putHart s h (f (hartOf s h))) h) := by
        rw [hartOf_putHart_same]
        exact writes _ before
      exact ih _ (again _ written) (.inr written)
    · have same := hartOf_putHart_other s k h (f (hartOf s k)) here
      refine ih _ (same ▸ before) ?_
      rw [same]
      simpa [here] using listed

/-- No context of the core holds bytes carried for plat p. -/
def Hart.carriesNone (H : Hart) (p : Nat) : Prop := ∀ c ∈ H.ctxs, c.launch ≠ carriedLaunch p

/-- The new context of a core without carried bytes does not depend on what the core was. -/
theorem coreContext_of_carriesNone {H : Hart} {p : Nat} (none' : H.carriesNone p) (cap : Capsule) (L : Nat) :
    coreContext cap L p H = coreContext cap L p Hart.reset := by
  have here : H.hasCtx (carriedLaunch p) = false := by
    simp only [Hart.hasCtx, List.any_eq_false, beq_iff_eq]
    exact none'
  simp only [coreContext, here, show Hart.reset.hasCtx (carriedLaunch p) = false from rfl, Bool.and_false, Bool.false_eq_true, if_false]

section
variable {s : State} {cap : Capsule} {L p h : Nat} {P : PlatEntry}

theorem placeCores_slots (m : h ∈ P.cores) : (hartOf (placeCores cap L p P s) h).slots = Hart.reset.slots :=
  foldl_putHart_reaches (done := fun H => H.slots = Hart.reset.slots) (start := fun _ => True)
    (f := fun H => { Hart.reset with ctxs := [coreContext cap L p H], acts := H.acts }) (fun _ _ => rfl) (fun _ _ => trivial) P.cores s
    trivial (.inl m)

theorem placeCores_ctxs (below : L < 1024) (m : h ∈ P.cores) (none' : (hartOf s h).carriesNone p) :
    (hartOf (placeCores cap L p P s) h).ctxs = [coreContext cap L p Hart.reset] := by
  refine foldl_putHart_reaches (done := fun H => H.ctxs = [coreContext cap L p Hart.reset]) (start := (·.carriesNone p))
    (f := fun H => { Hart.reset with ctxs := [coreContext cap L p H], acts := H.acts })
    (fun H free => by rw [coreContext_of_carriesNone free]) (fun H e c mc => ?_) P.cores s none' (.inl m)
  rw [e, List.mem_singleton] at mc
  subst mc
  show L ≠ carriedLaunch p
  unfold carriedLaunch
  omega

theorem placeContexts_slotsKept (s : State) : SlotsKept s (placeContexts cap L p s) :=
  List.foldlRecOn _ _ (SlotsKept.refl s) fun _ a _ _ => a.trans (slotsKept_putCtx _ _ _)

/-- No compute core is among those that take a context of their own. -/
theorem nCompute_le_of_mem_contextCores {es : List Extent} (m : h ∈ contextCores es p) : Config.nCompute ≤ h := by
  rw [contextCores, List.mem_append, List.mem_map, List.mem_filter, mem_upFrom] at m
  rcases m with ⟨q, -, rfl⟩ | ⟨⟨above, -⟩, -⟩
  · exact Nat.le_add_right _ _
  · exact le_trans (by decide) above

theorem hartOf_placeContexts (compute : h < Config.nCompute) (s : State) : hartOf (placeContexts cap L p s) h = hartOf s h :=
  List.foldlRecOn (contextCores cap.table p) _ (motive := fun t => hartOf t h = hartOf s h) rfl fun t e k m =>
    (hartOf_putHart_other t k h _ (Nat.ne_of_lt (lt_of_lt_of_le compute (nCompute_le_of_mem_contextCores m)))).trans e

/-- A new context reads as zero but for the argument block. -/
theorem read_coreContext {a : Nat} (outside : cap.residue = true ∨ a < cap.argoff ∨ cap.argoff + cap.args.length ≤ a) :
    Memory.read (coreContext cap L p Hart.reset).scratch a = 0 := by
  have kept : (coreContext cap L p Hart.reset).scratch = if cap.residue then [] else Memory.writeBytes [] cap.argoff cap.args := by
    simp [coreContext, show Hart.reset.hasCtx (carriedLaunch p) = false from rfl, Ctx.reset]
  rw [kept]
  split
  · rfl
  · rw [Memory.read_writeBytes_outside _ _ _ _ (outside.resolve_left ‹_›)]
    rfl

end

section
variable {s : State} {cap : Capsule} {p h : Nat}

theorem harts_takeClusters : (placeClusters (takenEntry s p) (placeCores cap (launchIndex s) p (takenEntry s p) (takePlat s p))).harts =
    (placeCores cap (launchIndex s) p (takenEntry s p) (takePlat s p)).harts := harts_placeClusters _ _

/-- Every slot of the plat is free. -/
theorem slotOf_placeOn (m : h ∈ (platOf s p).cores) (n : Nat) : slotOf (placeOn s cap p) h n = Slot.reset := by
  have cleared : (hartOf (placeCores cap (launchIndex s) p (takenEntry s p) (takePlat s p)) h).slots = Hart.reset.slots :=
    placeCores_slots (P := takenEntry s p) m
  have kept : slotOf (placeOn s cap p) h n =
      slotOf (placeClusters (takenEntry s p) (placeCores cap (launchIndex s) p (takenEntry s p) (takePlat s p))) h n :=
    (placeContexts_slotsKept _).2.2 h n
  rw [kept, slotOf, hartOf, harts_takeClusters]
  exact (slot_congr cleared n).trans (by simp [Hart.slot, Hart.reset])

/-- The context of a compute core that held no carried bytes. -/
theorem ctxOf_placeOn (room : s.launches.length < 1024) (m : h ∈ (platOf s p).cores) (compute : h < Config.nCompute)
    (none' : (hartOf s h).carriesNone p) :
    ctxOf (placeOn s cap p) h (launchIndex s) = coreContext cap (launchIndex s) p Hart.reset := by
  have written : (hartOf (placeCores cap (launchIndex s) p (takenEntry s p) (takePlat s p)) h).ctxs =
      [coreContext cap (launchIndex s) p Hart.reset] :=
    placeCores_ctxs (P := takenEntry s p) (launchIndex_free room).1 m none'
  have kept : hartOf (placeOn s cap p) h =
      hartOf (placeClusters (takenEntry s p) (placeCores cap (launchIndex s) p (takenEntry s p) (takePlat s p))) h :=
    hartOf_placeContexts compute _
  rw [ctxOf, kept, hartOf, harts_takeClusters]
  show Hart.ctx (hartOf (placeCores cap (launchIndex s) p (takenEntry s p) (takePlat s p)) h) _ = _
  rw [Hart.ctx, written]
  simp [coreContext, Ctx.reset]

/-- What a plat is that a capsule may take. -/
theorem of_mayPlace (may : mayPlace s cap p = true) :
    (platOf s p).state = .free ∧ (platOf s p).defd = true ∧ (platOf s p).h = cap.h ∧ (platOf s p).w = cap.w ∧
      (platOf s p).drain = false ∧ s.drain = false ∧ s.outOfService = false ∧ s.launches.length < 1024 := by
  simp only [mayPlace, PlatEntry.fits, Bool.and_eq_true, beq_iff_eq, Bool.not_eq_true', decide_eq_true_eq] at may
  tauto

end

end Sys2Proof.Machine
end

section
/-! SUPPORT. Launches from loading to zeroing, and the statement on how they are placed and end (spec/01 R14 R15 R17, spec/08 R147 R156,
spec/10 R176 R178). -/

namespace Sys2Proof.Machine

open Sys2Proof.Claims

/-- The launch of a plat stands in the launch table. -/
theorem launchOf_of_onPlat {s : State} {p L : Nat} {l : Launch} (on : OnPlat s p L l) : launchOf s L = some l := on.2.1

theorem plat_of_onPlat {s : State} {p L : Nat} {l : Launch} (on : OnPlat s p L l) : l.plat = p := on.2.2

/-! ## Starting a launch (R154, R156, R329) -/

theorem startIn_coresOnly (s : State) (h n L : Nat) (e : RingEntry) : CoresOnly s (startIn s h n L e) := by
  unfold startIn
  extract_lets chan
  split
  · exact .refl s
  · exact putHart_coresOnly _ _ _

theorem selectOne_coresOnly (ok : Nat → Bool) (s : State) (h : Nat) : CoresOnly s (selectOne ok s h) := by
  unfold selectOne
  extract_lets H
  split
  · exact (putHart_coresOnly _ _ _).trans (startIn_coresOnly _ _ _ _ _)
  · exact .refl s

theorem select_coresOnly (s : State) (h : Nat) : CoresOnly s (select s h) := .foldl (fun _ _ => selectOne_coresOnly _ _ _) _ s

theorem spill_coresOnly {s t : State} {h L : Nat} {header : Word} {payload : List Word} {state : RingState}
    (e : spill s h L header payload state = some t) : CoresOnly s t := by
  unfold spill at e
  extract_lets c room k x t1 at e
  split at e
  · cases e
  · injection e with e
    exact e ▸ CoresOnly.trans (t := t1) rfl (modHome_coresOnly _ _ _ _)

theorem startEntries_coresOnly (L : Nat) (l : Launch) (s : State) (h : Nat) : CoresOnly s (startEntries L l s h) := by
  unfold startEntries
  extract_lets chans
  refine CoresOnly.trans (.foldl (fun t c => ?_) chans s) (select_coresOnly _ _)
  cases e : spill t h L (startHeader c) [] .ready with
  | none => exact .refl t
  | some u => exact spill_coresOnly e

/-- The states differ in the mesh and the operation numbers given alone. -/
def NetOnly (s t : State) : Prop := t = { s with net := t.net, nextId := t.nextId }

/-- A start message goes to every core of the list. -/
theorem foldl_startMessage (L chan : Nat) (hs : List Nat) (s : State) :
    NetOnly s (hs.foldl (startMessage L chan) s) ∧ s.net ⊆ (hs.foldl (startMessage L chan) s).net ∧
      ∀ h ∈ hs, ∃ it ∈ (hs.foldl (startMessage L chan) s).net, it.op = .msg h (startHeader chan) [] ∧ it.src.launch = L := by
  induction hs generalizing s with
  | nil => exact ⟨rfl, List.Subset.refl _, by simp⟩
  | cons k hs ih =>
    obtain ⟨only, more, sent⟩ := ih (startMessage L chan s k)
    have grows : s.net ⊆ (startMessage L chan s k).net := List.subset_append_left _ _
    refine ⟨?_, List.Subset.trans grows more, fun h m => ?_⟩
    · unfold NetOnly at *
      rw [List.foldl_cons, only]
      rfl
    · rcases List.mem_cons.mp m with rfl | m
      · exact ⟨_, more (List.mem_append_right _ (List.mem_singleton_self _)), rfl, rfl⟩
      · exact sent h m

/-- The plat of a launch set running. -/
def runPlat (s : State) (p : Nat) : State := putPlat { s with gzChanged := true } p { platOf s p with state := .running }

/-- The start messages of a launch put into the mesh. -/
def sendStarts (s : State) (L : Nat) (l : Launch) : State :=
  (startCores l.cap (platOf s l.plat)).foldl (startMessage L l.cap.startch) (runPlat s l.plat)

/-- A launch that is no residue starts by its start messages. -/
theorem startLaunch_coresOnly {s : State} {L : Nat} {l : Launch} (at' : launchOf s L = some l) (fresh : l.cap.residue = false) :
    CoresOnly (sendStarts s L l) (startLaunch s L) := by
  simp only [startLaunch, at', fresh]
  exact .foldl (startEntries_coresOnly L l) _ (sendStarts s L l)

/-- A launch that is no residue runs, and its start messages go out. -/
theorem startLaunch_runs {s : State} {L : Nat} {l : Launch} (at' : launchOf s L = some l) (fresh : l.cap.residue = false) :
    launchOf (startLaunch s L) L = some l ∧ (platOf (startLaunch s L) l.plat).state = .running ∧
      ∀ h ∈ startCores l.cap (platOf s l.plat), ∃ it ∈ (startLaunch s L).net,
        it.op = .msg h (startHeader l.cap.startch) [] ∧ it.src.launch = L := by
  have cores := startLaunch_coresOnly at' fresh
  obtain ⟨only, -, sent⟩ := foldl_startMessage L l.cap.startch (startCores l.cap (platOf s l.plat)) (runPlat s l.plat)
  refine ⟨?_, ?_, ?_⟩
  · rw [cores.launchOf, sendStarts, only]
    exact at'
  · rw [cores.platOf, platOf_congr (show (sendStarts s L l).plats = (runPlat s l.plat).plats by rw [sendStarts, only]), runPlat,
      platOf_putPlat_same]
  · rw [cores.net]
    exact sent

/-! ## Loading extents (R145, R147, R154) -/

theorem exec_extentLoading (p : Nat) (s : State) : exec (.extentLoading p) s = .next (loadExtents p s) := rfl
theorem exec_launchComplete (p : Nat) (s : State) : exec (.launchComplete p) s = .next (completePlat p s) := rfl
theorem exec_cancelledLaunchEnd (p : Nat) (s : State) : exec (.cancelledLaunchEnd p) s = .next (endCancelled p s) := rfl
theorem exec_hangDetected (p : Nat) (s : State) : exec (.hangDetected p) s = .next (hangPlat p s) := rfl
theorem exec_platZeroingComplete (p : Nat) (s : State) : exec (.platZeroingComplete p) s = .next (zeroed p s) := rfl

theorem loadContexts_coresOnly (cap : Capsule) (es : List Extent) (masks : Word) (L : Nat) (s : State) :
    CoresOnly s (loadContexts cap es masks L s) := .foldl (fun _ _ => putCtx_coresOnly _ _ _) _ s

/-- The launch as it stands once its extents are loaded. -/
def loadedLaunch (s : State) (l : Launch) (es : List Extent) (bs : List Byte) : Launch :=
  { l with
    cap := { l.cap with replaces := match residueOrigin s l.cap with
      | some o => o.chain
      | none => l.cap.replaces }
    loaded := true, handlers := readHandlers l.cap bs, code := readCode l.cap bs, extents := es }

/-- The state with the launch and its contexts loaded. -/
def withLoaded (s : State) (L : Nat) (l : Launch) (es : List Extent) (bs : List Byte) : State :=
  loadContexts l.cap es (readMasks bs) L (putLaunch s L (loadedLaunch s l es bs))

section
variable {s : State} {p L : Nat} {l : Launch}

theorem withLoaded_coresOnly (s : State) (L : Nat) (l : Launch) (es : List Extent) (bs : List Byte) :
    CoresOnly (putLaunch s L (loadedLaunch s l es bs)) (withLoaded s L l es bs) := loadContexts_coresOnly _ _ _ _ _

theorem launchOf_withLoaded (s : State) (L : Nat) (l : Launch) (es : List Extent) (bs : List Byte) :
    launchOf (withLoaded s L l es bs) L = some (loadedLaunch s l es bs) := by
  rw [(withLoaded_coresOnly s L l es bs).launchOf, launchOf_putLaunch_same]

theorem platOf_withLoaded (s : State) (L : Nat) (l : Launch) (es : List Extent) (bs : List Byte) (q : Nat) :
    platOf (withLoaded s L l es bs) q = platOf s q := (withLoaded_coresOnly s L l es bs).platOf q

theorem loadLaunch_of_fresh (fresh : l.cap.residue = false) (es : List Extent) (bs : List Byte) :
    loadLaunch s L l es bs = startLaunch (withLoaded s L l es bs) L := by
  unfold loadLaunch
  rw [if_neg (by rw [fresh]; decide)]
  rfl

/-- A residue is not started: RESUMED of its spill is written. -/
theorem loadLaunch_of_residue (residue : l.cap.residue = true) (es : List Extent) (bs : List Byte) :
    LinesOnly (withLoaded s L l es bs) (loadLaunch s L l es bs) := by
  unfold loadLaunch
  rw [if_pos residue]
  exact extentWrite_linesOnly _ _ _ _ _

variable (on : OnPlat s p L l)
include on

/-- Extents are loaded of a launch that is being placed, once. -/
theorem loadExtents_idle (idle : (platOf s p).state ≠ .placing ∨ l.loaded = true) : loadExtents p s = s := by
  obtain ⟨plat, at', -⟩ := on
  simp only [loadExtents, plat, at']
  rw [if_neg (by rcases idle with h | h <;> simp [h])]

variable (placing : (platOf s p).state = .placing) (first : l.loaded = false)
include placing first

theorem loadExtents_refused {code : BitVec 16} {d : BitVec 12}
    (refused : loadRefused s l.cap l.cap.table (codeImage s l.cap) = some (code, d)) :
    loadExtents p s = endLogged s L code d .zeroing := by
  obtain ⟨plat, at', -⟩ := on
  simp only [loadExtents, plat, at', refused]
  rw [if_pos ⟨placing, first⟩]

theorem loadExtents_passed (passed : loadRefused s l.cap l.cap.table (codeImage s l.cap) = none) :
    loadExtents p s = loadLaunch s L l l.cap.table (codeImage s l.cap) := by
  obtain ⟨plat, at', -⟩ := on
  simp only [loadExtents, plat, at', passed]
  rw [if_pos ⟨placing, first⟩]

/-- A launch whose extents pass runs. -/
theorem loadExtents_runs (passed : loadRefused s l.cap l.cap.table (codeImage s l.cap) = none) (fresh : l.cap.residue = false) :
    launchOf (loadExtents p s) L = some (loadedLaunch s l l.cap.table (codeImage s l.cap)) ∧
      (platOf (loadExtents p s) p).state = .running ∧ ∀ h ∈ startCores l.cap (platOf s p), ∃ it ∈ (loadExtents p s).net,
        it.op = .msg h (startHeader l.cap.startch) [] ∧ it.src.launch = L := by
  have on' := plat_of_onPlat on
  subst on'
  rw [loadExtents_passed on placing first passed, loadLaunch_of_fresh fresh]
  obtain ⟨at', running, sent⟩ := startLaunch_runs
    (launchOf_withLoaded s L l l.cap.table (codeImage s l.cap)) fresh
  rw [platOf_withLoaded] at sent
  exact ⟨at', running, sent⟩

/-- A residue whose extents pass is loaded, and is restored next. -/
theorem loadExtents_residue (passed : loadRefused s l.cap l.cap.table (codeImage s l.cap) = none) (residue : l.cap.residue = true) :
    launchOf (loadExtents p s) L = some (loadedLaunch s l l.cap.table (codeImage s l.cap)) ∧
      (platOf (loadExtents p s) p).state = .placing := by
  rw [loadExtents_passed on placing first passed]
  have lines := loadLaunch_of_residue (s := s) (L := L) residue l.cap.table (codeImage s l.cap)
  rw [platOf_congr lines.plats, platOf_withLoaded, launchOf, show (loadLaunch s L l l.cap.table (codeImage s l.cap)).launches = _ by rw [lines]]
  exact ⟨launchOf_withLoaded s L l _ _, placing⟩

end

/-! ## Completion (R15, R151, R189) -/

theorem completeLaunch_eq {s : State} {L : Nat} {l : Launch} (at' : launchOf (recallAll s L) L = some l) : completeLaunch s L =
    (let s2 := endCounters (endRepair true (recallAll s L) L l) l.cap true 0
     let s3 := if l.pending.isSome then s2 else reportEnd s2 l 0
     let t := clearPlat s3 L l.plat .zeroing
     l.pending.elim t (startOnward s3 t L l.plat l)) := by
  unfold completeLaunch
  simp only [at']
  cases l.pending <;> rfl

theorem countLive_countersOnly (s : State) (cap : Capsule) : CountersOnly s (countLive s cap) := foldl_modCounter_countersOnly _ _ s

/-- A chain that takes effect leaves the launch table alone, and the state of the plat. -/
theorem startOnward_keeps (s t : State) (L p : Nat) (l : Launch) (cap : Capsule) :
    (startOnward s t L p l cap).launches = t.launches ∧ (platOf (startOnward s t L p l cap) p).state = (platOf t p).state := by
  unfold startOnward
  extract_lets keep cap1 u carried
  have live : CountersOnly t u := countLive_countersOnly t cap1
  have launches : u.launches = t.launches := by rw [live]
  have plats : u.plats = t.plats := by rw [live]
  have ended (code : BitVec 16) (d : BitVec 12) : (endUnplaced u cap1 code d).launches = t.launches ∧
      (platOf (endUnplaced u cap1 code d) p).state = (platOf t p).state := by
    have reports := endUnplaced_reportsOnly u cap1 code d
    exact ⟨(show _ = u.launches by rw [reports]).trans launches, by rw [platOf_congr (reports.plats.trans plats)]⟩
  split
  · exact ended _ _
  · split
    · exact ended _ _
    · split
      · refine ⟨launches, ?_⟩
        rw [platOf_putPlat_same, ← platOf_congr plats]
      · exact ⟨launches, by rw [← platOf_congr plats]; rfl⟩

section
variable {s : State} {p L : Nat} {l : Launch}

theorem completeLaunch_gone (at' : launchOf s L = some l) :
    launchOf (completeLaunch s L) L = none ∧ (platOf (completeLaunch s L) l.plat).state = .zeroing := by
  rw [completeLaunch_eq ((recallAll_coresOnly s L).launchOf L ▸ at')]
  extract_lets s2 s3 t
  have gone : launchOf t L = none := launchOf_clearPlat_self _ _ _ _
  have zeroing : (platOf t l.plat).state = .zeroing := by rw [platOf_clearPlat, if_pos rfl]
  cases l.pending with
  | none => exact ⟨gone, zeroing⟩
  | some cap =>
    obtain ⟨launches, state⟩ := startOnward_keeps s3 t L l.plat l cap
    exact ⟨by rw [Option.elim_some, launchOf, launches]; exact gone, state.trans zeroing⟩

/-- A launch that completes moves its counters. -/
theorem counterOf_completeLaunch (at' : launchOf s L = some l) (alone : l.pending = none) (counted : l.cap.counted = true) {c : Nat}
    (m : c ∈ l.cap.counters) : counterOf (completeLaunch s L) c = countEnd true 0 (counterOf s c) := by
  have cores := recallAll_coresOnly s L
  have lines := endRepair_linesOnly true (recallAll s L) L l
  have ended := counterOf_endCounters counted (endRepair true (recallAll s L) L l) true 0 m
  rw [counterOf_congr (show (endRepair true (recallAll s L) L l).counters = s.counters by rw [lines, ← cores.counters])] at ended
  rw [completeLaunch_eq (cores.launchOf L ▸ at'), alone, ← ended]
  exact counterOf_congr (show (reportEnd _ l 0).counters = _ by rw [reportEnd_toldOnly]) c

end

/-! ## Quiescence, cancels and HANG (R14, R17, R176) -/

section
variable {s : State} {p L : Nat} {l : Launch} (on : OnPlat s p L l)
include on

theorem completePlat_idle (idle : quiescent s L l = false ∨ l.halted = true ∨ l.cancelled = true) : completePlat p s = s := by
  obtain ⟨plat, at', -⟩ := on
  simp only [completePlat, plat, at']
  rw [if_neg (by rcases idle with h | h | h <;> simp [h])]

theorem completePlat_completes (running : (platOf s p).state = .running) (goes : l.halted = false) (live : l.cancelled = false)
    (quiet : quiescent s L l = true) : completePlat p s = completeLaunch s L := by
  obtain ⟨plat, at', -⟩ := on
  simp only [completePlat, plat, at']
  rw [if_pos (by simp [endsQuiescent, running, goes, live, quiet])]

theorem endCancelled_quiesces (running : (platOf s p).state = .running) (gone : l.cancelled = true) :
    endCancelled p s = putPlat { s with gzChanged := true } p { platOf s p with state := .quiescing, quiesce := 2 } := by
  obtain ⟨plat, at', -⟩ := on
  simp only [endCancelled, plat, at']
  rw [if_pos ⟨running, gone⟩]

theorem endCancelled_ends (quiescing : (platOf s p).state = .quiescing) (cancel : (platOf s p).quiesce = 2) (idle : hangIdle s L l = true)
    (still : allStill s L = true) : endCancelled p s = endLogged s L codePreempted 0x001 .zeroing := by
  obtain ⟨plat, at', -⟩ := on
  simp only [endCancelled, plat, at']
  rw [if_neg (by simp [quiescing]), if_pos ⟨quiescing, cancel, idle, still⟩]

theorem endCancelled_idle (first : (platOf s p).state ≠ .running ∨ l.cancelled = false)
    (second : (platOf s p).state ≠ .quiescing ∨ (platOf s p).quiesce ≠ 2 ∨ hangIdle s L l = false ∨ allStill s L = false) :
    endCancelled p s = s := by
  obtain ⟨plat, at', -⟩ := on
  simp only [endCancelled, plat, at']
  rw [if_neg (by rcases first with h | h <;> simp [h]), if_neg (by rcases second with h | h | h | h <;> simp [h])]

/-- No HANG where no interval runs, or it is not over, or something else ends the wait. -/
theorem hangPlat_idle (idle : ∀ c, l.idleSince = some c → hangs s L l = false ∨ s.cycle < c + 8192 ∨ budgetEnds s L = true ∨
    barrierReady s L l = true) : hangPlat p s = s := by
  obtain ⟨plat, at', -⟩ := on
  cases since : l.idleSince with
  | none => simp only [hangPlat, plat, at', since]
  | some c =>
    simp only [hangPlat, plat, at', since]
    rw [if_neg]
    rcases idle c since with h | h | h | h
    · simp [h]
    · simp [show ¬ c + 8192 ≤ s.cycle by omega]
    · simp [h]
    · simp [h]

/-- The fault of HANG for a launch: what the spec does not state is a free choice. -/
def hangFault (s : State) (L : Nat) : FaultInfo :=
  ⟨codeHang, (Config.freeDetail s.fresh &&& 0xff0) ||| BitVec.ofNat 12 ((hangSite s L).2 % 16), Config.freeWord (s.fresh + 1)⟩

theorem hangPlat_kills {c : Nat} (since : l.idleSince = some c) (past : c + 8192 ≤ s.cycle) (hang : hangs s L l = true)
    (budget : budgetEnds s L = false) (barrier : barrierReady s L l = false) :
    hangPlat p s = killLaunch { s with fresh := s.fresh + 3 } L (hangSite s L).1 (hangFault s L) := by
  obtain ⟨plat, at', -⟩ := on
  simp only [hangPlat, plat, at', since]
  rw [if_pos (by simp [past, hang, budget, barrier])]
  rfl

end

/-- The low four bits of the DETAIL of a HANG are the WHY of its slot. -/
theorem hangFault_detail (s : State) (L : Nat) : (hangFault s L).detail.toNat % 16 = (hangSite s L).2 % 16 := by
  have low (d : BitVec 12) (k : Nat) (small : k < 16) : ((d &&& 0xff0) ||| BitVec.ofNat 12 k).toNat % 16 = k := by
    have mask : (d &&& 0xff0).toNat % 2 ^ 4 = 0 := by
      rw [BitVec.toNat_and, Nat.and_mod_two_pow]
      simp
    rw [BitVec.toNat_or, BitVec.toNat_ofNat, Nat.mod_eq_of_lt (show k < 2 ^ 12 by omega), show 16 = 2 ^ 4 from rfl, Nat.or_mod_two_pow, mask,
      Nat.zero_or, Nat.mod_eq_of_lt small]
  exact low _ _ (Nat.mod_lt _ (by decide))

/-! ## Zeroing (R61, R177, R178) -/

section
variable {s : State} {p : Nat}

theorem platOf_clearTag (s : State) (p : Nat) : platOf (clearTag s p) p = { platOf s p with tag := 0 } := platOf_putPlat_same _ p _

theorem zeroed_idle (other : (platOf s p).state ≠ .zeroing) : zeroed p s = s := by
  unfold zeroed
  dsimp only
  rw [platOf_clearTag, if_pos other]

/-- The plat released: FREE with TAG 0, its dirty lines written back, its cores without carried bytes. -/
def freePlat (s : State) (p : Nat) : State :=
  putPlat (dropCarried { clearTag s p with gzChanged := true } p) p { platOf s p with state := .free, tag := 0 }

variable (zeroing : (platOf s p).state = .zeroing)
include zeroing

/-- The plat that nothing keeps is FREE again. -/
theorem zeroed_free (stays : (platOf s p).retiring = false) (alone : (platOf s p).onward = none) : zeroed p s = freePlat s p := by
  unfold zeroed
  dsimp only
  rw [platOf_clearTag, if_neg (by simp [zeroing]), if_neg (by simp [stays])]
  simp only [alone, freePlat]

/-- The onward capsule that keeps the plat is placed once there is room. -/
theorem zeroed_onward {cap : Capsule} (stays : (platOf s p).retiring = false) (next : (platOf s p).onward = some cap) :
    zeroed p s = if roomOnward s cap p then dropCarried (placeOn (clearTag s p) cap p) p else s := by
  have room : roomOnward (clearTag s p) cap p = roomOnward s cap p := rfl
  unfold zeroed
  dsimp only
  rw [platOf_clearTag, if_neg (by simp [zeroing]), if_neg (by simp [stays])]
  simp only [next, room]

/-- A plat that retires is OFFLINE. -/
theorem platOf_zeroed_of_retiring (retires : (platOf s p).retiring = true) :
    platOf (zeroed p s) p = { platOf s p with tag := 0, state := .offline, retiring := false, onward := none } := by
  unfold zeroed
  dsimp only
  rw [platOf_clearTag, if_neg (by simp [zeroing]), if_pos retires]
  cases (platOf s p).onward <;> exact platOf_putPlat_same _ p _

/-- The onward capsule of a plat that retires waits like any other. -/
theorem waitList_zeroed_of_retiring {cap : Capsule} (retires : (platOf s p).retiring = true) (next : (platOf s p).onward = some cap) :
    (zeroed p s).waitList = s.waitList ++ [{ cap with bound := none }] := by
  unfold zeroed
  dsimp only
  rw [platOf_clearTag, if_neg (by simp [zeroing]), if_pos retires]
  simp only [next]
  rfl

end

theorem harts_dropCarried (s : State) (p : Nat) : (dropCarried s p).harts =
    s.harts.map fun x => (x.1, { x.2 with ctxs := x.2.ctxs.filter fun c => c.launch ≠ carriedLaunch p }) := by
  have test (c : Ctx) : (c.launch != carriedLaunch p) = decide (c.launch ≠ carriedLaunch p) := by
    by_cases same : c.launch = carriedLaunch p <;> simp [same]
  simp only [dropCarried, test]

section
variable {s : State} {p : Nat}

/-- The state without an entry of the wait list. -/
def withoutWaiting (s : State) (w : Nat) : State := { s with waitList := s.waitList.eraseIdx w }

theorem placeWaiting_stays {w : Nat} {cap : Capsule} (waits : s.waitList[w]? = some cap) (may : mayPlace s cap p = false) :
    placeWaiting w p s = s := by
  simp [placeWaiting, waits, may]

theorem placeWaiting_places {w : Nat} {cap : Capsule} (waits : s.waitList[w]? = some cap) (may : mayPlace s cap p = true) :
    placeWaiting w p s = placeOn (withoutWaiting s w) cap p := by
  simp [placeWaiting, waits, may, withoutWaiting]

end

/-! ## The statement -/

/-- Settles O49: what a placement takes, what loading leaves, how a launch ends, and what a zeroed plat becomes. -/
theorem launchesArePlacedAndEnd : Obligations.LaunchesArePlacedAndEnd := by
  refine ⟨fun s w p cap waits => ⟨fun may => ?_, fun may => ?_⟩, fun s p L l on => ⟨fun idle => ?_, fun placing first =>
    ⟨fun code d refused => ?_, fun passed fresh => ?_, fun passed residue => ?_⟩, fun idle => ?_, fun running goes live quiet => ?_,
    fun running gone => ?_, fun quiescing cancel idle still => ?_, fun first second => ?_, fun idle => ?_, fun c since =>
    ⟨fun early => ?_, fun past hang budget barrier => ?_⟩⟩, fun s p => ⟨fun other => ?_, fun zeroing stays alone => ?_,
    fun zeroing retires => ?_, fun cap zeroing stays next full => ?_, fun cap zeroing stays next room => ?_⟩⟩
  · rw [exec_placement, placeWaiting_stays waits may]
  · obtain ⟨free, defd, height, width, undrained, open', service, room⟩ := of_mayPlace may
    refine ⟨free, defd, height, width, undrained, open', service, placeOn (withoutWaiting s w) cap p, launchIndex (withoutWaiting s w),
      madeLaunch (withoutWaiting s w) cap p, ?_, waitList_placeOn (withoutWaiting s w) cap p, ?_,
      onPlat_placeOn (withoutWaiting s w) cap p, ?_, (launchIndex_free (s := withoutWaiting s w) room).2, rfl, rfl,
      fun h m n => slotOf_placeOn (s := withoutWaiting s w) m n, fun h m compute none' a outside => ?_⟩
    · rw [exec_placement, placeWaiting_places waits may]
    · rw [platOf_placeOn]
      rfl
    · rw [platOf_placeOn]
      exact nextTag_ne_zero (withoutWaiting s w)
    · rw [ctxOf_placeOn (s := withoutWaiting s w) room m compute none']
      exact read_coreContext outside
  · rw [exec_extentLoading, loadExtents_idle on idle]
  · rw [exec_extentLoading, loadExtents_refused on placing first refused]
    exact ⟨_, rfl, endLogged_endedBy (launchOf_of_onPlat on) ..⟩
  · obtain ⟨at', running, sent⟩ := loadExtents_runs on placing first passed fresh
    exact ⟨_, _, exec_extentLoading p s, at', rfl, rfl, running, sent⟩
  · obtain ⟨at', still⟩ := loadExtents_residue on placing first passed residue
    exact ⟨_, _, exec_extentLoading p s, at', rfl, rfl, still⟩
  · rw [exec_launchComplete, completePlat_idle on idle]
  · have at' := launchOf_of_onPlat on
    obtain ⟨gone, zeroing⟩ := completeLaunch_gone at'
    refine ⟨_, by rw [exec_launchComplete, completePlat_completes on running goes live quiet], gone, plat_of_onPlat on ▸ zeroing,
      fun alone counted c m => ?_⟩
    rw [counterOf_completeLaunch at' alone counted m]
    exact ⟨rfl, rfl, rfl, rfl⟩
  · rw [exec_cancelledLaunchEnd, endCancelled_quiesces on running gone]
  · rw [exec_cancelledLaunchEnd, endCancelled_ends on quiescing cancel idle still]
    exact ⟨_, rfl, endLogged_endedBy (launchOf_of_onPlat on) ..⟩
  · rw [exec_cancelledLaunchEnd, endCancelled_idle on first second]
  · rw [exec_hangDetected, hangPlat_idle on fun c since => ?_]
    rcases idle with h | h | h | h
    · rw [since] at h
      cases h
    · exact .inl h
    · exact .inr (.inr (.inl h))
    · exact .inr (.inr (.inr h))
  · rw [exec_hangDetected, hangPlat_idle on fun k q => ?_]
    rw [since] at q
    cases q
    exact .inr (.inl early)
  · obtain ⟨failed, log⟩ := killLaunch_failed (s := { s with fresh := s.fresh + 3 }) (h := (hangSite s L).1) (f := hangFault s L)
      (launchOf_of_onPlat on)
    exact ⟨_, _, _, _, by rw [exec_hangDetected, hangPlat_kills on since past hang budget barrier],
      killedBy_of ⟨failed.gone, failed.state, failed.empty, failed.counters⟩ log, hangFault_detail s L, rfl⟩
  · rw [exec_platZeroingComplete, zeroed_idle other]
  · refine ⟨freePlat s p, by rw [exec_platZeroingComplete, zeroed_free zeroing stays alone], platOf_putPlat_same _ p _, rfl,
      harts_dropCarried { clearTag s p with gzChanged := true } p, rfl⟩
  · have offline := platOf_zeroed_of_retiring zeroing retires
    exact ⟨_, exec_platZeroingComplete p s, by rw [offline], by rw [offline],
      fun cap next => waitList_zeroed_of_retiring zeroing retires next⟩
  · rw [exec_platZeroingComplete, zeroed_onward zeroing stays next, if_neg (by rw [full]; decide)]
  · refine ⟨dropCarried (placeOn (clearTag s p) cap p) p, launchIndex (clearTag s p), madeLaunch (clearTag s p) cap p,
      by rw [exec_platZeroingComplete, zeroed_onward zeroing stays next, if_pos room], ?_, onPlat_placeOn (clearTag s p) cap p, rfl⟩
    exact congrArg PlatEntry.state (platOf_placeOn (clearTag s p) cap p)

end Sys2Proof.Machine
end

section
/-! SUPPORT. The state right after reset (spec/02 R18, spec/10 R177 to R188). -/

namespace Sys2Proof.Machine

theorem Hart.slot_reset (n : Nat) : Hart.reset.slot n = Slot.reset := by
  simp [Hart.slot, Hart.reset]

/-- Settles O59: every table is empty, so that each lookup gives the member's reset value. -/
theorem resetValues : Obligations.ResetValues := by
  unfold Obligations.ResetValues
  refine ⟨fun _ => rfl, fun _ => ⟨rfl, rfl, rfl⟩, fun c => ?_, fun _ n => ?_, rfl, rfl, rfl, rfl, rfl, rfl, rfl, rfl, rfl, rfl⟩
  · have reset : counterOf State.reset c = Counter.reset := by
      unfold counterOf
      split <;> rfl
    rw [reset]
    exact ⟨rfl, rfl, rfl, rfl⟩
  · exact congrArg Slot.running (Hart.slot_reset n)

end Sys2Proof.Machine
end

section
/-! SUPPORT. Traps: a trap entry by its three cases, and what a launch that a fault kills leaves (spec/02 R27 R29). -/

namespace Sys2Proof.Machine

open Sys2Proof.Claims

/-! ## The state after a trap (R29, R304) -/

/-- A trap takes one free value, whatever becomes of it. -/
def freshened (s : State) : State := { s with fresh := s.fresh + 1 }

theorem trapEntry_inTrap {s : State} {h n : Nat} (side : Side) (f : FaultInfo) (inside : (slotOf s h n).inTrap = true) :
    trapEntry s h n side f = doubleFault (freshened s) h n f := if_pos inside

theorem trapEntry_noHandler {s : State} {h n : Nat} (side : Side) (f : FaultInfo) (outside : (slotOf s h n).inTrap = false)
    (none' : handlerOf s h n 63 = none) : trapEntry s h n side f = killLaunch (freshened s) (slotOf s h n).ctx h f := by
  unfold trapEntry
  extract_lets u σ
  simp only [show σ.inTrap = false from outside, show handlerOf u h n 63 = none from none', Bool.false_eq_true, if_false]
  rfl

/-- The state from which a trap enters its handler: the requests that the slot has standing are withdrawn. -/
def trapFrom (s : State) (h n : Nat) : State :=
  dropRequests (freshened s) { hart := h, launch := (slotOf s h n).ctx, slot := n, act := (slotOf s h n).act }

theorem trapEntry_handler {s : State} {h n : Nat} {r : Handler} (side : Side) (f : FaultInfo) (outside : (slotOf s h n).inTrap = false)
    (some' : handlerOf s h n 63 = some r) :
    trapEntry s h n side f =
      putSlot (trapFrom s h n) h n ((slotOf s h n).abandonWait.enterTrap side f r (windowOf s h n r).1) := by
  unfold trapEntry
  extract_lets u σ
  simp only [show σ.inTrap = false from outside, show handlerOf u h n 63 = some r from some', Bool.false_eq_true, if_false]
  rfl

theorem doubleFault_eq {s : State} {h n : Nat} {l : Launch} (f : FaultInfo) (at' : launchOf s (slotOf s h n).ctx = some l) :
    doubleFault s h n f =
      killLaunch (logFault s ((slotOf s h n).tcause.extractLsb' 16 16) ((slotOf s h n).tcause.extractLsb' 0 12) l.plat
        (platOf s l.plat).tag h (slotOf s h n).taddr) (slotOf s h n).ctx h f := by
  simp only [doubleFault, at']

/-! ## A trap that kills the plat (R29) -/

/-- A launch killed in a state that differs from s in its log alone, as far as the end of a launch reads it. -/
theorem killLaunch_kills {s s' : State} {L h : Nat} {l : Launch} {before : List FaultRec} (f : FaultInfo) (at' : launchOf s L = some l)
    (launches : s'.launches = s.launches) (plats : s'.plats = s.plats) (counters : s'.counters = s.counters) (cycle : s'.cycle = s.cycle)
    (faultLog : s'.faultLog = before) : KilledBy s (killLaunch s' L h f) L h l f before := by
  have at'' : launchOf s' L = some l := by rw [← at', launchOf, launchOf, launches]
  obtain ⟨failed, log⟩ := killLaunch_failed (h := h) (f := f) at''
  rw [cycle, platOf_congr plats, faultLog] at log
  exact killedBy_of ⟨failed.gone, failed.state, failed.empty, fun yes c m => by rw [failed.counters yes c m, counterOf_congr counters]⟩ log

/-- Settles O7: the launch fails by what killing it leaves, from a log that in the first case has taken the earlier cause. -/
theorem faultWithoutHandlerKillsThePlat : Obligations.FaultWithoutHandlerKillsThePlat := by
  unfold Obligations.FaultWithoutHandlerKillsThePlat
  intro s h n side f l at'
  refine ⟨fun inside => ?_, fun outside none' => ?_⟩
  · refine ⟨⟨_, _, Config.time1588 s.cycle, l.plat, (platOf s l.plat).tag, h, (slotOf s h n).taddr, s.cycle, none⟩, rfl, rfl, rfl, ?_⟩
    rw [trapEntry_inTrap side f inside, doubleFault_eq (s := freshened s) f at']
    exact killLaunch_kills f at' rfl rfl rfl rfl (faultLog_logFault ..)
  · rw [trapEntry_noHandler side f outside none']
    exact killLaunch_kills f at' rfl rfl rfl rfl rfl

end Sys2Proof.Machine
end

section
/-! SUPPORT. What taking a trap saves and changes in the slot, and that leaving it puts the slot back (spec/02 R27, spec/18 R304, R305,
R307). -/

namespace Sys2Proof.Machine

open Sys2Proof.Claims

theorem dropRequests_eq (s : State) (src : Issuer) : dropRequests s src = { s with clusters := (dropRequests s src).clusters } := by
  unfold dropRequests
  split
  · extract_lets c
    split <;> rfl
  · rfl

theorem trapFrom_eq (s : State) (h n : Nat) :
    trapFrom s h n = { s with clusters := (trapFrom s h n).clusters, fresh := s.fresh + 1 } := by
  unfold trapFrom
  rw [dropRequests_eq]
  rfl

theorem slotOf_trapFrom (s : State) (h n k m : Nat) : slotOf (trapFrom s h n) k m = slotOf s k m := by
  rw [trapFrom_eq]
  rfl

/-- What a ctl.wait that is abandoned had taken comes back; nothing else of the slot changes (R234). -/
theorem Slot.abandonWait_eq (σ : Slot) :
    σ.abandonWait = { σ with
      sm := σ.abandonWait.sm, sq := σ.abandonWait.sq, cq := σ.abandonWait.cq, aWait := σ.abandonWait.aWait } := by
  unfold Slot.abandonWait
  split
  · next h =>
    simp only [Slot.undo, h]
    rfl
  · rfl

/-- A part of the slot that no serial register, queue or wait enters is as it was. -/
theorem Slot.abandonWait_keeps {α : Type} (field : Slot → α) (σ : Slot)
    (unmoved : ∀ sm sq cq w, field { σ with sm := sm, sq := sq, cq := cq, aWait := w } = field σ) : field σ.abandonWait = field σ :=
  (congrArg field σ.abandonWait_eq).trans (unmoved _ _ _ _)

theorem Slot.abandonWait_of_not_waiting {σ : Slot} (h : ∀ d off v u, σ.aWait ≠ some (.waitWord d off v u)) : σ.abandonWait = σ := by
  unfold Slot.abandonWait
  split
  · next w => exact absurd w (h _ _ _ _)
  · rfl

theorem Slot.ePos_abandonWait (σ : Slot) : σ.abandonWait.ePos = σ.ePos := by
  unfold Slot.abandonWait
  split
  · next h =>
    simp only [Slot.undo, h, Slot.putBack, Slot.ePos]
    cases σ.path <;> simp
  · rfl

theorem extract_append_low {v w : Nat} (a : BitVec v) (b : BitVec w) {start len : Nat} (inside : start + len ≤ w) :
    (a ++ b).extractLsb' start len = b.extractLsb' start len := by
  ext i h
  simp [BitVec.getLsbD_append, show start + i < w by omega]

theorem extract_append_high {v w : Nat} (a : BitVec v) (b : BitVec w) {start len : Nat} (above : w ≤ start) :
    (a ++ b).extractLsb' start len = a.extractLsb' (start - w) len := by
  ext i h
  simp [BitVec.getLsbD_append, show ¬ start + i < w by omega, Nat.sub_add_comm above]

theorem extract_all {w : Nat} (a : BitVec w) : a.extractLsb' 0 w = a := by
  simp

theorem causeOf_causeWord (side : Side) (f : FaultInfo) : causeOf side f (causeWord side f) := by
  refine ⟨?_, ?_, ?_, ?_⟩
  · exact (extract_append_high _ _ (by decide)).trans <| (extract_append_high _ _ (by decide)).trans <|
      (extract_append_high _ _ (by decide)).trans (extract_all _)
  · refine (BitVec.getLsbD_append ..).trans ((BitVec.getLsbD_append ..).trans ((BitVec.getLsbD_append ..).trans ?_))
    cases side <;> rfl
  · exact (extract_append_high _ _ (by decide)).trans <| (extract_append_low _ _ (by decide)).trans (extract_all _)
  · exact (extract_append_low _ _ (by decide)).trans (extract_all _)

theorem ctxOf_putSlot (s : State) (h n : Nat) (σ : Slot) (k L : Nat) : ctxOf (putSlot s h n σ) k L = ctxOf s k L :=
  ctxOf_congr (hartOf_putHart_keeps (·.ctxs) (by rfl) k) L

theorem slotOf_putSlot_other {s : State} {h n k m : Nat} {σ : Slot} (d : k ≠ h ∨ m % 8 ≠ n % 8) :
    slotOf (putSlot s h n σ) k m = slotOf s k m := by
  by_cases same : k = h
  · subst same
    exact slotOf_putSlot_otherSlot _ _ _ _ _ (d.resolve_left (· rfl))
  · exact slotOf_putSlot_otherHart _ _ _ _ _ _ same

/-- Of the slot as a trap is taken, all but what the trap saves and changes. -/
theorem Slot.enterTrap_keeps (σ : Slot) (side : Side) (f : FaultInfo) (r : Handler) (base : Nat) :
    let τ := σ.enterTrap side f r base
    τ.a = σ.a ∧ τ.sm = σ.sm ∧ τ.e = σ.e ∧ τ.v = σ.v ∧ τ.p = σ.p ∧ τ.flags = σ.flags ∧ τ.sat = σ.sat ∧ τ.rm = σ.rm ∧
      τ.lq = σ.lq ∧ τ.sq = σ.sq ∧ τ.cq = σ.cq ∧ τ.pri = σ.pri ∧ τ.chan = σ.chan ∧ τ.det = σ.det ∧ τ.budleft = σ.budleft :=
  ⟨rfl, rfl, rfl, rfl, rfl, rfl, rfl, rfl, rfl, rfl, rfl, rfl, rfl, rfl, rfl⟩

theorem Slot.tsb_enterTrap (σ : Slot) (side : Side) (f : FaultInfo) (r : Handler) (base : Nat) (i : Fin 16) :
    (σ.enterTrap side f r base).tsb[i] = ((σ.sb[i.val]?).map sbWord).getD 0 := by
  simp [Slot.enterTrap]

/-- tpc is the bundle at which the side that faulted stands (R305). -/
theorem Slot.tpc_enterTrap_abandonWait (σ : Slot) (side : Side) (f : FaultInfo) (r : Handler) (base : Nat) :
    (σ.abandonWait.enterTrap side f r base).tpc = BitVec.ofNat 13 (match side with
      | .aSide => σ.pc
      | .eSide => σ.ePos.getD σ.pc) := by
  have pc : σ.abandonWait.pc = σ.pc := σ.abandonWait_keeps (·.pc) fun _ _ _ _ => rfl
  cases side with
  | aSide => exact congrArg (BitVec.ofNat 13) pc
  | eSide => exact congrArg (BitVec.ofNat 13) (by rw [Slot.ePos_abandonWait, pc])

/-- A trap saves the pending prefix of a side, if it has one (R309). -/
theorem Slot.prefixes_enterTrap (σ : Slot) (side : Side) (f : FaultInfo) (r : Handler) (base : Nat) :
    let τ := σ.enterTrap side f r base
    (∀ w, σ.aPrefix = some w → τ.aFmtsave = w ∧ τ.aPP = true) ∧ (σ.aPrefix = none → τ.aFmtsave = σ.aFmtsave ∧ τ.aPP = σ.aPP) ∧
      (∀ w, σ.ePrefix = some w → τ.eFmtsave = w ∧ τ.ePP = true) ∧ (σ.ePrefix = none → τ.eFmtsave = σ.eFmtsave ∧ τ.ePP = σ.ePP) := by
  refine ⟨fun w h => ?_, fun h => ?_, fun w h => ?_, fun h => ?_⟩ <;> simp [Slot.enterTrap, h]

/-- Leaving a trap that was just taken puts the slot back (R305, R307). -/
theorem Slot.leaveTrap_enterTrap {σ : Slot} (side : Side) (f : FaultInfo) (r : Handler) (base : Nat) (short : σ.pc < 2 ^ 13)
    (pa : σ.aPP = true → σ.aPrefix ≠ none) (pe : σ.ePP = true → σ.ePrefix ≠ none) :
    let τ := (σ.enterTrap side f r base).leaveTrap
    τ.pc = σ.pc ∧ τ.path = σ.path ∧ τ.bq = σ.bq ∧ τ.eDone = σ.eDone ∧ τ.rs = σ.rs ∧ τ.swp = σ.swp ∧ τ.inTrap = false ∧
      τ.aPrefix = σ.aPrefix ∧ τ.ePrefix = σ.ePrefix := by
  have back (o : Option (BitVec 32)) (save : BitVec 32) (pp : Bool) (h : pp = true → o ≠ none) :
      (if (pp || o.isSome) = true then some (o.getD save) else none) = o := by
    cases o with
    | some w => simp
    | none =>
      have : pp = false := by cases pp <;> simp_all
      simp [this]
  have prefixes := And.intro (back σ.aPrefix σ.aFmtsave σ.aPP pa) (back σ.ePrefix σ.eFmtsave σ.ePP pe)
  cases side with
  | aSide =>
    have there : (BitVec.ofNat 13 σ.pc).toNat = σ.pc := by rw [BitVec.toNat_ofNat, Nat.mod_eq_of_lt short]
    exact ⟨there, rfl, rfl, rfl, rfl, rfl, rfl, prefixes⟩
  | eSide => exact ⟨rfl, rfl, rfl, rfl, rfl, rfl, rfl, prefixes⟩

/-- Settles O8: the slot after a trap is the trap entry of the slot as a ctl.wait leaves it, and only the cluster's requests change
beside it. -/
theorem trapEntryAndItsUndoing : Obligations.TrapEntryAndItsUndoing := by
  unfold Obligations.TrapEntryAndItsUndoing
  refine ⟨fun s h n side f r outside some' => ?_, fun σ side f r base outside short pa pe => ?_⟩
  · intro σ t τ
    have state : t = putSlot (trapFrom s h n) h n (σ.abandonWait.enterTrap side f r (windowOf s h n r).1) :=
      trapEntry_handler side f outside some'
    have slot : τ = σ.abandonWait.enterTrap side f r (windowOf s h n r).1 := by
      simp only [τ, state, slotOf_putSlot_same]
    have other (k m : Nat) (d : k ≠ h ∨ m % 8 ≠ n % 8) : slotOf t k m = slotOf s k m := by
      rw [state, slotOf_putSlot_other d, slotOf_trapFrom]
    have memory : SameMemory s t := by
      rw [state]
      refine ⟨fun k L a => ?_, fun a => ?_, fun a => ?_⟩
      · rw [ctxOf_putSlot, trapFrom_eq]
        rfl
      · rw [putSlot_hbm, trapFrom_eq]
      · rw [putSlot_hostMem, trapFrom_eq]
    have launches : t.launches = s.launches := by rw [state, putSlot_launches, trapFrom_eq]
    clear_value t τ
    subst slot
    have tsb := σ.abandonWait.tsb_enterTrap side f r (windowOf s h n r).1
    obtain ⟨ap, ap', ep, ep'⟩ := σ.abandonWait.prefixes_enterTrap side f r (windowOf s h n r).1
    obtain ⟨a, sm, e, v, p, flags, sat, rm, lq, sq, cq, pri, chan, det, budleft⟩ :=
      σ.abandonWait.enterTrap_keeps side f r (windowOf s h n r).1
    have keeps {α : Type} (field : Slot → α)
        (unmoved : ∀ sm sq cq w, field { σ with sm := sm, sq := sq, cq := cq, aWait := w } = field σ) :
        field σ.abandonWait = field σ := σ.abandonWait_keeps field unmoved
    simp only [keeps (·.sb) fun _ _ _ _ => rfl] at tsb
    simp only [keeps (·.aPrefix) fun _ _ _ _ => rfl, keeps (·.aFmtsave) fun _ _ _ _ => rfl, keeps (·.aPP) fun _ _ _ _ => rfl] at ap ap'
    simp only [keeps (·.ePrefix) fun _ _ _ _ => rfl, keeps (·.eFmtsave) fun _ _ _ _ => rfl, keeps (·.ePP) fun _ _ _ _ => rfl] at ep ep'
    exact ⟨causeOf_causeWord side f, rfl, σ.tpc_enterTrap_abandonWait side f r _, tsb, rfl, rfl, rfl, rfl, rfl, rfl, rfl, rfl, rfl, rfl,
      rfl, ap, ap', ep, ep', a.trans (keeps (·.a) fun _ _ _ _ => rfl), sm, e.trans (keeps (·.e) fun _ _ _ _ => rfl),
      v.trans (keeps (·.v) fun _ _ _ _ => rfl), p.trans (keeps (·.p) fun _ _ _ _ => rfl),
      flags.trans (keeps (·.flags) fun _ _ _ _ => rfl), sat.trans (keeps (·.sat) fun _ _ _ _ => rfl),
      rm.trans (keeps (·.rm) fun _ _ _ _ => rfl), lq.trans (keeps (·.lq) fun _ _ _ _ => rfl), sq, cq,
      fun none' => Slot.abandonWait_of_not_waiting none', pri.trans (keeps (·.pri) fun _ _ _ _ => rfl),
      chan.trans (keeps (·.chan) fun _ _ _ _ => rfl), det.trans (keeps (·.det) fun _ _ _ _ => rfl),
      budleft.trans (keeps (·.budleft) fun _ _ _ _ => rfl), other, memory, launches⟩
  · obtain ⟨pc, path, bq, eDone, rs, swp, inTrap, aPrefix, ePrefix⟩ := Slot.leaveTrap_enterTrap side f r base short pa pe
    refine ⟨pc, path, bq, eDone, rs, swp, inTrap, aPrefix, ePrefix, ?_⟩
    cases side <;> exact ⟨rfl, rfl, rfl, rfl, rfl, rfl, rfl, rfl⟩

end Sys2Proof.Machine
end

section
/-! SUPPORT. An activation of a pair's launch on a channel core, which is no half of a pair (spec/11 R197): the state at which
`Obligations.ActivationsStartAndEnd` fails. -/

namespace Sys2Proof.Machine

/-- The record of handler entry 0. -/
def recordZero : Handler := { v := true, det := false, rwin := 0, bcls := 0, pri := 0, entry := 0, stklen := 0, stkbase := 0 }

/-- A capsule whose header sets PAIRED and nothing else (R144). -/
def pairedCapsule : Capsule :=
  { hdr := (Vector.replicate 32 0).set 1 1, codeId := 0, grantDig := 0, chain := Vector.replicate 8 0, extents := [], args := [],
    origin := .launchBy 0, ranges := [], grantOwner := 0, bound := none, counted := false, inherited := [], replaces := [],
    behind := none, drained := false }

/-- Its launch, whose one handler record is that of entry 0. -/
def pairedLaunch : Launch :=
  { cap := pairedCapsule, plat := 0, placedAt := 0, loaded := true, handlers := [(0, recordZero)], code := [], extents := [],
    pending := none, cancelled := false, preempting := false, units := [], regime := false, regimeNext := none, lastDigest := none,
    digests := [], halted := false, idleSince := none }

/-- A ready message of channel 0 without payload. -/
def entryZero : RingEntry := { header := 0, payload := [], state := .ready, released := false, age := 0, pos := 0 }

def pairedState : State := putLaunch State.reset 0 pairedLaunch

/-- The slot that a message is started in is the slot of its activation. -/
theorem slotOf_startIn {s : State} {h n L : Nat} {e : RingEntry} {l : Launch} {r : Handler} (placed : launchOf s L = some l)
    (record : l.handler (e.header.extractLsb' 58 6).toNat = some r) :
    slotOf (startIn s h n L e) h n =
      startSlot s h n L ((hartOf s h).acts + 1) r (e.header.extractLsb' 58 6).toNat e.header (loadedWords e.header e.payload)
        e.released := by
  simp only [startIn, placed, Option.bind_some, record, slotOf, hartOf_putHart_same]
  exact Hart.slot_putSlot_same _ _ _

theorem paired_startSlot_of_not_compute {s : State} {h n L act chan : Nat} {r : Handler} {header : Word} {payload : List Word}
    {released : Bool} (outside : isCompute h = false) : (startSlot s h n L act r chan header payload released).paired = false := by
  simp only [startSlot, outside, Bool.false_and]

/-- Refutes O13: an activation on a channel core is never paired, whatever its capsule's PAIRED bit is. -/
theorem not_activationsStartAndEnd : ¬ Obligations.ActivationsStartAndEnd := by
  unfold Obligations.ActivationsStartAndEnd
  intro ⟨starts, _⟩
  have placed : launchOf pairedState 0 = some pairedLaunch := launchOf_putLaunch_same _ _ _
  have record : pairedLaunch.handler (entryZero.header.extractLsb' 58 6).toNat = some recordZero := by decide
  obtain ⟨_, _, _, _, _, _, _, _, _, _, _, _, _, _, _, _, _, _, _, _, _, _, _, paired, _⟩ :=
    starts pairedState Config.nCompute 0 0 entryZero pairedLaunch recordZero placed record
  rw [slotOf_startIn placed record, paired_startSlot_of_not_compute (by decide)] at paired
  exact absurd paired (by decide)

end Sys2Proof.Machine
end

section
/-! SUPPORT. The scalar floating-point and predicate words (spec/02 R24, R25, spec/15 R264, R265, R268). -/

namespace Sys2Proof.Machine

open Sys2Proof.Claims

/-- A pop of a load queue changes the queues and the scoreboard of the slot (R104). -/
theorem popLq_ok {k : Fin 4} {s t : State} {x : QEntry} (e : popLq k s = .ok (x, t)) :
    ∃ lq sb, t = putCur s { curSlot s with lq := lq, sb := sb } := by
  unfold popLq at e
  obtain ⟨σ, _, h, e⟩ := bind_inv e
  obtain ⟨rfl, rfl⟩ := getSlot_inv h
  cases armed : (curSlot s).sb.find? fun x => x.held.any fun p => p.armed && p.queue == k with
  | some x =>
    simp only [armed] at e
    obtain ⟨_, _, h, e⟩ := bind_inv e
    obtain ⟨_, rfl⟩ := pure_inv e
    exact ⟨_, _, modSlot_inv h⟩
  | none =>
    simp only [armed] at e
    rcases front : (curSlot s).lq[k] with _ | ⟨_ | _, es⟩ <;> simp only [front] at e
    case cons.filled =>
      obtain ⟨_, _, h, e⟩ := bind_inv e
      obtain ⟨_, rfl⟩ := pure_inv e
      exact ⟨_, _, modSlot_inv h⟩
    all_goals cases e

/-- A source of E scalar class changes at most the queues and the scoreboard. -/
theorem readE_ok {x : ESrc} {s t : State} {w : Word} (e : readE x s = .ok (w, t)) :
    t = s ∨ ∃ lq sb, t = putCur s { curSlot s with lq := lq, sb := sb } := by
  cases x with
  | e n =>
    obtain ⟨_, _, h, e⟩ := bind_inv e
    obtain ⟨rfl, rfl⟩ := getSlot_inv h
    exact .inl (pure_inv e).2.symm
  | lq k =>
    obtain ⟨_, _, h, e⟩ := bind_inv e
    obtain ⟨_, rfl⟩ := pure_inv e
    exact .inr (popLq_ok h)
  | z => exact .inl (pure_inv e).2.symm

theorem readE_keeps_registers {x : ESrc} {s t : State} {w : Word} (e : readE x s = .ok (w, t)) :
    (curSlot t).rm = (curSlot s).rm ∧ (curSlot t).e = (curSlot s).e := by
  obtain rfl | ⟨lq, sb, rfl⟩ := readE_ok e
  · exact ⟨rfl, rfl⟩
  · simp

/-! ## The shapes of the words -/

theorem roundMode_eq (s : State) : roundMode s = .ok ((curSlot s).rm.toNat, s) := rfl

theorem setFlags_eq (f : Fl) (s : State) : setFlags f s = .ok ((), putCur s ((curSlot s).raise f)) := rfl

theorem readP_eq (n : Fin 8) (s : State) : readP n s = .ok ((curSlot s).pred n, s) := rfl

/-- A word that ends with its result and its conditions, in the rounding mode of est (R25, R260). -/
theorem writeE_setFlags {d : EDst} {s t : State} {w : Word} (f : Fl) (written : writeE d w s = .ok ((), t)) :
    (do writeE d w; setFlags f : Op Unit) s = .ok ((), putCur t ((curSlot t).raise f)) := by
  rw [bind_ok written, setFlags_eq]

section Shapes

variable {s s1 s2 : State} {x y : ESrc} {a b : Word} (ready : EReady s) (readX : readE x s = .ok (a, s1))
include ready readX

theorem faOne_writes (f : Nat → Nat → Nat × Fl) (d : EDst) {t : State}
    (written : writeE d (BitVec.ofNat 64 (f (curSlot s).rm.toNat a.toNat).1) s1 = .ok ((), t)) :
    faOne f d x s = .next (endE (putCur t ((curSlot t).raise (f (curSlot s).rm.toNat a.toNat).2))) := by
  refine wordE_ok ready ?_
  rw [bind_ok readX, bind_ok (roundMode_eq s1), (readE_keeps_registers readX).1]
  exact writeE_setFlags _ written

theorem prSet_writes (d : Fin 8) {t : State} (written : writeP d a s1 = .ok ((), t)) :
    exec (.prSet d x) s = .next (endE t) := by
  refine wordE_ok ready ?_
  rw [bind_ok readX, written]

variable (readY : readE y s1 = .ok (b, s2))
include readY

theorem faTwo_writes (f : Nat → Nat → Nat → Nat × Fl) (d : EDst) {t : State}
    (written : writeE d (BitVec.ofNat 64 (f (curSlot s).rm.toNat a.toNat b.toNat).1) s2 = .ok ((), t)) :
    faTwo f d x y s = .next (endE (putCur t ((curSlot t).raise (f (curSlot s).rm.toNat a.toNat b.toNat).2))) := by
  refine wordE_ok ready ?_
  rw [bind_ok readX, bind_ok readY, bind_ok (roundMode_eq s2), (readE_keeps_registers readY).1, (readE_keeps_registers readX).1]
  exact writeE_setFlags _ written

theorem faThree_writes (f : Nat → FV → FV → FV → Nat × Fl) (fmt : FpFmt) (d : Fin 16) {t : State}
    (written : writeE (.e d) (BitVec.ofNat 64 (f (curSlot s).rm.toNat (readFp fmt a.toNat) (readFp fmt b.toNat)
      (readFp fmt (curSlot s).e[d].toNat)).1) s2 = .ok ((), t)) :
    faThree f fmt d x y s = .next (endE (putCur t ((curSlot t).raise (f (curSlot s).rm.toNat (readFp fmt a.toNat)
      (readFp fmt b.toNat) (readFp fmt (curSlot s).e[d].toNat)).2))) := by
  obtain ⟨rm1, e1⟩ := readE_keeps_registers readX
  obtain ⟨rm2, e2⟩ := readE_keeps_registers readY
  have addend : readE (.e d) s2 = .ok ((curSlot s).e[d], s2) := by rw [← e1, ← e2]; rfl
  refine wordE_ok ready ?_
  rw [bind_ok readX, bind_ok readY, bind_ok addend, bind_ok (roundMode_eq s2), rm2, rm1]
  exact writeE_setFlags _ written

theorem prCmp_writes (f : Word → Word → Bool) (d : Fin 8) {t : State}
    (written : writeP d (if f a b then 0xffffffffffffffff else 0) s2 = .ok ((), t)) :
    prCmp f d x y s = .next (endE t) := by
  refine wordE_ok ready ?_
  rw [bind_ok readX, bind_ok readY]
  exact written

end Shapes

section Masks

variable {s : State} (ready : EReady s) (x y : Fin 8)
include ready

theorem prOp_writes (f : Word → Word → Word) (d : Fin 8) {t : State}
    (written : writeP d (f ((curSlot s).pred x) ((curSlot s).pred y)) s = .ok ((), t)) : prOp f d x y s = .next (endE t) := by
  refine wordE_ok ready ?_
  rw [bind_ok (readP_eq x s), bind_ok (readP_eq y s), written]

theorem prRead_writes (f : Word → Word → Word) (d : EDst) {t : State}
    (written : writeE d (f ((curSlot s).pred x) ((curSlot s).pred y)) s = .ok ((), t)) : prRead f d x y s = .next (endE t) := by
  refine wordE_ok ready ?_
  rw [bind_ok (readP_eq x s), bind_ok (readP_eq y s), written]

theorem prNot_writes (d : Fin 8) {t : State} (written : writeP d (~~~((curSlot s).pred x)) s = .ok ((), t)) :
    exec (.prNot d x) s = .next (endE t) := by
  refine wordE_ok ready ?_
  rw [bind_ok (readP_eq x s), written]

theorem prGet_writes (d : EDst) {t : State} (written : writeE d ((curSlot s).pred x) s = .ok ((), t)) :
    exec (.prGet d x) s = .next (endE t) := by
  refine wordE_ok ready ?_
  rw [bind_ok (readP_eq x s), written]

end Masks

/-! ## The functions of the tables -/

theorem boolRes_eq (r : Bool × Fl) : boolRes r = (if r.1 then 1 else 0, r.2) := rfl

theorem popcW_eq (x : Word) : popcW x = BitVec.ofNat 64 ((List.range 64).filter fun i => x.getLsbD i).length := by
  have ids : upFrom 0 64 = List.range 64 := by decide
  rw [popcW, ids]

theorem Fl.bits_eq (f : Fl) : f.bits = BitVec.ofBool f.nv ++ BitVec.ofBool f.dz ++ BitVec.ofBool f.of ++ BitVec.ofBool f.uf ++
    BitVec.ofBool f.nx := by
  obtain ⟨nv, dz, of, uf, nx, sat⟩ := f
  simp only [Fl.bits]
  decide +revert

/-! ## The words of the tables -/

section Words

variable {s s1 s2 : State} {x y : ESrc} {a b : Word} (ready : EReady s) (readX : readE x s = .ok (a, s1))
include ready readX

theorem writesEF_of_faOne {i : Instr} {d : EDst} (g : Nat → Nat → Nat × Fl) (shape : exec i s = faOne g d x s) :
    ∀ r, r = g (curSlot s).rm.toNat a.toNat → WritesEF false i s s1 d (BitVec.ofNat 64 r.1) r.2 := by
  rintro _ rfl t written
  exact shape.trans (faOne_writes ready readX g d written)

theorem faOneTable_writes (f : FpFmt) : ∀ p ∈ faOneTable f, ∀ (d : EDst), ∀ r, r = p.2 (curSlot s).rm.toNat a.toNat →
    WritesEF false (p.1 d x f) s s1 d (BitVec.ofNat 64 r.1) r.2 := by
  simp only [faOneTable, List.forall_mem_cons, List.not_mem_nil, false_imp_iff, implies_true, and_true]
  exact ⟨fun d => writesEF_of_faOne ready readX (fun _ a => signFp f false a) rfl,
    fun d => writesEF_of_faOne ready readX (fun _ a => signFp f true a) rfl,
    fun d => writesEF_of_faOne ready readX (fun _ a => rcpeFp f (readFp f a)) rfl,
    fun d => writesEF_of_faOne ready readX (fun _ a => rsqeFp f (readFp f a)) rfl,
    fun d => writesEF_of_faOne ready readX (fun rm a => sqrtFp f rm (readFp f a)) rfl,
    fun d => writesEF_of_faOne ready readX (fun _ a => (classFp f a, Fl.zero)) rfl⟩

variable (readY : readE y s1 = .ok (b, s2))
include readY

theorem writesEF_of_faTwo {i : Instr} {d : EDst} (g : Nat → Nat → Nat → Nat × Fl) (shape : exec i s = faTwo g d x y s) :
    ∀ r, r = g (curSlot s).rm.toNat a.toNat b.toNat → WritesEF false i s s2 d (BitVec.ofNat 64 r.1) r.2 := by
  rintro _ rfl t written
  exact shape.trans (faTwo_writes ready readX readY g d written)

theorem faTable_writes (f : FpFmt) : ∀ p ∈ faTable f, ∀ (d : EDst), ∀ r, r = p.2 (curSlot s).rm.toNat a.toNat b.toNat →
    WritesEF false (p.1 d x y f) s s2 d (BitVec.ofNat 64 r.1) r.2 := by
  simp only [faTable, List.forall_mem_cons, List.not_mem_nil, false_imp_iff, implies_true, and_true]
  have writes {i : Instr} {d : EDst} (g : Nat → Nat → Nat → Nat × Fl) := writesEF_of_faTwo (i := i) (d := d) ready readX readY g
  exact ⟨fun d => writes (addFp f) rfl, fun d => writes (subFp f) rfl,
    fun d => writes (fun rm a b => mulFp f rm (readFp f a) (readFp f b)) rfl, fun d => writes (fun _ a b => extremeFp f false a b) rfl,
    fun d => writes (fun _ a b => extremeFp f true a b) rfl,
    fun d => writes (fun rm a b => fmaFp f rm (readFp f a).negate (readFp f b) (.fin false 2 0)) rfl,
    fun d => writes (fun _ a b => boolRes (ceqFp f a b)) rfl, fun d => writes (fun _ a b => boolRes (cltFp f a b)) rfl,
    fun d => writes (fun _ a b => boolRes (cleFp f a b)) rfl⟩

theorem writesEF_of_faThree {i : Instr} {d : Fin 16} (f : FpFmt) (g : Nat → FV → FV → FV → Nat × Fl)
    (shape : exec i s = faThree g f d x y s) :
    ∀ r, r = g (curSlot s).rm.toNat (readFp f a.toNat) (readFp f b.toNat) (readFp f (curSlot s).e[d].toNat) →
      WritesEF false i s s2 (.e d) (BitVec.ofNat 64 r.1) r.2 := by
  rintro _ rfl t written
  exact shape.trans (faThree_writes ready readX readY g f d written)

theorem fusedTable_writes (f : FpFmt) : ∀ p ∈ fusedTable f, ∀ (d : Fin 16), ∀ r,
    r = p.2 (curSlot s).rm.toNat (readFp f a.toNat) (readFp f b.toNat) (readFp f (curSlot s).e[d].toNat) →
    WritesEF false (p.1 d x y f) s s2 (.e d) (BitVec.ofNat 64 r.1) r.2 := by
  simp only [fusedTable, List.forall_mem_cons, List.not_mem_nil, false_imp_iff, implies_true, and_true]
  exact ⟨fun d => writesEF_of_faThree ready readX readY f (fun rm a b c => fmaFp f rm a b c) rfl,
    fun d => writesEF_of_faThree ready readX readY f (fun rm a b c => fmaFp f rm a b c.negate) rfl,
    fun d => writesEF_of_faThree ready readX readY f (fun rm a b c => fmaFp f rm a.negate b c) rfl⟩

/-- A compare of the table, whose shape runs the same function in the model's words. -/
theorem writesP_of_prCmp {i : Instr} {d : Fin 8} {r : Bool} (g : Word → Word → Bool) (same : r = g a b)
    (shape : exec i s = prCmp g d x y s) :
    ∀ t, writeP d (if r then 0xffffffffffffffff else 0) s2 = .ok ((), t) → exec i s = .next (endE t) := by
  subst same
  intro t written
  exact shape.trans (prCmp_writes ready readX readY g d written)

theorem prCmpTable_writes : ∀ p ∈ prCmpTable, ∀ (d : Fin 8) t,
    writeP d (if p.2 a b then 0xffffffffffffffff else 0) s2 = .ok ((), t) → exec (p.1 d x y) s = .next (endE t) := by
  simp only [prCmpTable, List.forall_mem_cons, List.not_mem_nil, false_imp_iff, implies_true, and_true]
  exact ⟨fun d => writesP_of_prCmp ready readX readY (fun a b => a == b) rfl rfl,
    fun d => writesP_of_prCmp ready readX readY (fun a b => a != b) (by by_cases h : a = b <;> simp [h]) rfl,
    fun d => writesP_of_prCmp ready readX readY (fun a b => a.slt b) rfl rfl,
    fun d => writesP_of_prCmp ready readX readY (fun a b => a.sle b) rfl rfl,
    fun d => writesP_of_prCmp ready readX readY (fun a b => a.ult b) rfl rfl,
    fun d => writesP_of_prCmp ready readX readY (fun a b => a.ule b) rfl rfl⟩

end Words

section MaskWords

variable {s : State} (ready : EReady s) (x y : Fin 8)
include ready

theorem writesP_of_prOp {i : Instr} {d : Fin 8} (g : Word → Word → Word) (shape : exec i s = prOp g d x y s) :
    ∀ t, writeP d (g ((curSlot s).pred x) ((curSlot s).pred y)) s = .ok ((), t) → exec i s = .next (endE t) := by
  intro t written
  exact shape.trans (prOp_writes ready x y g d written)

theorem prTable_writes : ∀ p ∈ prTable, ∀ (d : Fin 8) t,
    writeP d (p.2 ((curSlot s).pred x) ((curSlot s).pred y)) s = .ok ((), t) → exec (p.1 d x y) s = .next (endE t) := by
  simp only [prTable, List.forall_mem_cons, List.not_mem_nil, false_imp_iff, implies_true, and_true]
  exact ⟨fun d => writesP_of_prOp ready x y (fun a b => a &&& b) rfl, fun d => writesP_of_prOp ready x y (fun a b => a ||| b) rfl,
    fun d => writesP_of_prOp ready x y (fun a b => a ^^^ b) rfl, fun d => writesP_of_prOp ready x y (fun a b => a &&& ~~~b) rfl⟩

theorem writesE_of_prRead {i : Instr} {d : EDst} {w : Word} (g : Word → Word → Word)
    (same : w = g ((curSlot s).pred x) ((curSlot s).pred y)) (shape : exec i s = prRead g d x y s) : WritesE i s s d w := by
  subst same
  intro t written
  exact shape.trans (prRead_writes ready x y g d written)

theorem prReadTable_writes : ∀ p ∈ prReadTable, ∀ (d : EDst),
    WritesE (p.1 d x y) s s d (p.2 ((curSlot s).pred x) ((curSlot s).pred y)) := by
  simp only [prReadTable, List.forall_mem_cons, List.not_mem_nil, false_imp_iff, implies_true, and_true]
  have any (c : Word) : (if c = 0 then 0 else 1 : Word) = flagWord (c != 0) := by by_cases h : c = 0 <;> simp [flagWord, h]
  have all (c b : Word) : (if c = b then 1 else 0 : Word) = flagWord (c == b) := by by_cases h : c = b <;> simp [flagWord, h]
  exact ⟨fun d => writesE_of_prRead ready x y (fun a b => flagWord (a &&& b != 0)) (any _) rfl,
    fun d => writesE_of_prRead ready x y (fun a b => flagWord (a &&& b == b)) (all _ _) rfl,
    fun d => writesE_of_prRead ready x y (fun a b => popcW (a &&& b)) (popcW_eq _).symm rfl⟩

end MaskWords

/-- Settles O34, table by table. -/
theorem floatsAndPredicates : Obligations.FloatsAndPredicates := by
  unfold Obligations.FloatsAndPredicates
  refine ⟨fun f s s1 s2 x y a b ready readX readY => ?_, fun s x y ready => ?_, fun σ f => ⟨?_, rfl⟩⟩
  · exact ⟨faTable_writes ready readX readY f, faOneTable_writes ready readX f, fusedTable_writes ready readX readY f,
      prCmpTable_writes ready readX readY, fun d t => prSet_writes ready readX d⟩
  · exact ⟨prTable_writes ready x y, fun d t => prNot_writes ready x d, fun d t => prGet_writes ready x d,
      prReadTable_writes ready x y⟩
  · rw [← Fl.bits_eq]
    rfl

end Sys2Proof.Machine
end

section
/-! SUPPORT. What A-class sources read and destinations take (spec/02 R20, R21, spec/06 R101 to R103, spec/13 R223). -/

namespace Sys2Proof.Machine

open Sys2Proof.Claims

/-! ## The commit buffer of a core under reads of its own scratchpad -/

theorem commit_makeSure (s : State) (h : Nat) (ids : List Nat) (k : Nat) : (hartOf (makeSure s h ids) k).commit = (hartOf s k).commit := by
  unfold makeSure
  split
  · rfl
  · exact hartOf_putHart_keeps (·.commit) (by rfl) k

theorem commit_modHome (s : State) (L home : Nat) (f : Ctx → Ctx) (k : Nat) :
    (hartOf (modHome s L home f) k).commit = (hartOf s k).commit := by
  unfold modHome
  extract_lets t
  have lead : (hartOf t k).commit = (hartOf s k).commit := hartOf_putHart_keeps (·.commit) (by rfl) k
  split
  · exact (hartOf_putHart_keeps (·.commit) (by rfl) k).trans lead
  · exact lead

theorem commit_recallU (s : State) (L home off k : Nat) : (hartOf (recallU s L home off) k).commit = (hartOf s k).commit := by
  unfold recallU recallWhere
  extract_lets key ls drop
  split
  · rfl
  · refine (commit_modHome _ _ _ _ k).trans ?_
    let put (p : Nat × Hart) : Hart :=
      if (p.2.line key).ucls.any (fun _ => true) && p.2.hasCtx L then p.2.putLine key (p.2.line key).dropU else p.2
    have dropped : s.harts.map drop = s.harts.map fun p => (p.1, put p) := by
      refine List.map_congr_left fun p _ => ?_
      simp only [drop, put]
      split <;> rfl
    refine hartOf_map_keeps (f := put) dropped (·.commit) (fun p => ?_) k
    simp only [put]
    split <;> rfl

theorem inOrder_commit {d : OpDesc} {s t : State} (e : inOrder d s = .ok ((), t)) (k : Nat) :
    (hartOf t k).commit = (hartOf s k).commit := by
  obtain ⟨ids, gs, rfl⟩ := inOrder_ok e
  exact commit_makeSure s (curHart s) ids k

theorem overCommit_nil {s : State} {h : Nat} (empty : (hartOf s h).commit = []) (off n : Nat) (bs : List Byte) :
    overCommit s h off n bs = bs := by
  rw [overCommit, empty]
  rfl

/-- The own scratchpad where no store of the core waits for its agreement point (R200). -/
theorem ownBytesAt_eq {s : State} (empty : (hartOf s (curHart s)).commit = []) (off n : Nat) :
    let t := recallU s (curLaunch s) (curHart s) off
    ownBytesAt off n s = .ok ((ctxOf t (curHart s) (curLaunch s)).read (curHart s) off n, t) := by
  have none' := (commit_recallU s (curLaunch s) (curHart s) off (curHart s)).trans empty
  simp only [ownBytesAt, overCommit_nil none']

/-! ## Sources -/

theorem readA_pending {n : Fin 16} {s : State} {k : Nat} (h : (curSlot s).pendingOn (.a n) = some k) :
    readA (.a n) s = .error (.wait (.pending k) none) := by
  refine bind_error ?_
  simp only [notPending, h]

theorem readA_sq_empty {q : Fin 2} {s : State} (h : (curSlot s).sq[q] = []) : readA (.sq q) s = .error (.wait (.popSq q) none) := by
  simp only [readA, getSlot_bind, h]
  rfl

theorem readA_cq {s : State} {w : Word} {ws : List Word} (h : (curSlot s).cq = w :: ws) :
    readA .cq s = .ok (w, putCur s { curSlot s with cq := ws }) := by
  simp only [readA, getSlot_bind, h]
  rfl

theorem readA_cq_empty {s : State} (h : (curSlot s).cq = []) : readA .cq s = .error (.wait .popCq none) := by
  simp only [readA, getSlot_bind, h]
  rfl

/-! ## Stream registers (R21) -/

/-- A stream register after an element: the count is one less, and the address rises by the stride. -/
def streamNext (r : Word) : Word :=
  (r.extractLsb' 48 16 - 1) ++ r.extractLsb' 46 2 ++ r.extractLsb' 18 28 ++ (r.extractLsb' 0 18 + r.extractLsb' 18 18)

theorem streamNext_count (r : Word) : (streamNext r).extractLsb' 48 16 = r.extractLsb' 48 16 - 1 :=
  (extract_append_high _ _ (by decide)).trans <| (extract_append_high _ _ (by decide)).trans <|
    (extract_append_high _ _ (by decide)).trans (extract_all _)

theorem streamNext_address (r : Word) : (streamNext r).extractLsb' 0 18 = r.extractLsb' 0 18 + r.extractLsb' 18 18 :=
  (extract_append_low _ _ (by decide)).trans (extract_all _)

theorem streamNext_middle (r : Word) : (streamNext r).extractLsb' 18 30 = r.extractLsb' 18 30 := by
  refine BitVec.eq_of_getElem_eq fun i h => ?_
  have above : (streamNext r).getLsbD (18 + i) =
      ((r.extractLsb' 48 16 - 1) ++ r.extractLsb' 46 2 ++ r.extractLsb' 18 28).getLsbD (18 + i - 18) := by
    refine (BitVec.getLsbD_append ..).trans (if_neg (by omega))
  rw [BitVec.getElem_extractLsb', BitVec.getElem_extractLsb', above, Nat.add_sub_cancel_left, BitVec.getLsbD_append]
  split
  · rw [BitVec.getLsbD_extractLsb']
    simp [*]
  · rw [BitVec.getLsbD_append, if_pos (by omega), BitVec.getLsbD_extractLsb', show 46 + (i - 28) = 18 + i by omega]
    simp [show i - 28 < 2 by omega]

theorem noteResult_eq (w : Word) (s : State) : noteResult w s = .ok ((), noted w s) := by
  simp only [noteResult, noted]
  split <;> rfl

section Streams

variable {n : Fin 4} {s : State} {r : Word} {addr size : Nat} (free : n ∉ (curSlot s).smBusy)
  (idle : (curSlot s).pendingOn (.sm n) = none) (register : r = (curSlot s).sm[n]) (address : addr = (r.extractLsb' 0 18).toNat)
  (width : size = 2 ^ (r.extractLsb' 46 2).toNat)
include free idle register address width

/-- The checks of a stream register that precede the access, as one operation (R21). -/
theorem readStream_checked :
    readStream n s = (do
      stopIf (r.extractLsb' 48 16 = 0) (trapFree codeQueueMisuse 0)
      stopIf (addr % size ≠ 0) (trapAt codeAlign ((r.extractLsb' 46 2).zeroExtend 12) 0)
      let s ← get
      stopIf (ownBytes (curHart s) < addr + size) (trapAt codeBounds 0x0b0 0)
      inOrder { kinds := [.ld], scope := .core, sc := false, loc := ⟨curHart s, addr, size⟩, space2 := false }
      let bs ← ownBytesAt addr size
      modSlot fun τ => { τ with sm := τ.sm.set n (streamNext r) }
      return BitVec.ofNat 64 (leValue bs) : Op Word) s := by
  subst register address width
  unfold readStream
  rw [getSlot_bind, stopIf_bind (by simpa using free), bind_ok (notPending_ok idle)]
  rfl

theorem readStream_exhausted (none' : r.extractLsb' 48 16 = 0) :
    ∃ detail, readA (.sm n) s = .error (.trap ⟨codeQueueMisuse, detail, 0⟩ none) :=
  ⟨_, (readStream_checked free idle register address width).trans (stopIf_bind_stop none' rfl _)⟩

variable (some' : r.extractLsb' 48 16 ≠ 0)
include some'

theorem readStream_misaligned (off : addr % size ≠ 0) :
    readA (.sm n) s = .error (.trap ⟨codeAlign, (r.extractLsb' 46 2).zeroExtend 12, 0⟩ none) :=
  (readStream_checked free idle register address width).trans <| (stopIf_bind some' _ _ _).trans (stopIf_bind_stop off rfl _)

variable (aligned : addr % size = 0)
include aligned

theorem readStream_outside (outside : ownBytes (curHart s) < addr + size) :
    readA (.sm n) s = .error (.trap ⟨codeBounds, 0x0b0, 0⟩ none) :=
  (readStream_checked free idle register address width).trans <| (stopIf_bind some' _ _ _).trans <|
    (stopIf_bind (not_not.mpr aligned) _ _ _).trans <| (get_bind _ s).trans (stopIf_bind_stop outside rfl _)

/-- The next element, from the own scratchpad once the copies of its line are recalled (R21, R53). -/
theorem readStream_element (inside : addr + size ≤ ownBytes (curHart s)) {u : State}
    (passed : inOrder { kinds := [.ld], scope := .core, sc := false, loc := ⟨curHart s, addr, size⟩, space2 := false } s = .ok ((), u))
    (empty : (hartOf s (curHart s)).commit = []) :
    let t := recallU u (curLaunch s) (curHart s) addr
    readA (.sm n) s = .ok (BitVec.ofNat 64 (leValue ((curCtx t).read (curHart s) addr size)),
      putCur t { curSlot t with sm := (curSlot t).sm.set n (streamNext r) }) := by
  have kept := inOrder_slotsKept passed
  have recalled := slotsKept_recallU u (curLaunch s) (curHart s) addr
  have bytes := ownBytesAt_eq (s := u) (by rw [inOrder_commit passed, kept.curHart, empty]) addr size
  rw [kept.curHart, kept.curLaunch] at bytes
  have there : ctxOf (recallU u (curLaunch s) (curHart s) addr) (curHart s) (curLaunch s) =
      curCtx (recallU u (curLaunch s) (curHart s) addr) := by
    rw [curCtx, recalled.curHart, recalled.curLaunch, kept.curHart, kept.curLaunch]
  refine (readStream_checked free idle register address width).trans ?_
  rw [stopIf_bind some', stopIf_bind (not_not.mpr aligned), get_bind, stopIf_bind (Nat.not_lt.mpr inside), bind_ok passed, bind_ok bytes, there]
  rfl

end Streams

theorem readA_stream_busy {n : Fin 4} {s : State} (busy : n ∈ (curSlot s).smBusy) : readA (.sm n) s = .error (.wait .stream none) := by
  refine (getSlot_bind _ s).trans ?_
  exact stopIf_bind_stop (by simpa using busy) rfl _

/-! ## Destinations -/

theorem writeA_a {n : Fin 16} {w : Word} {s : State} (idle : (curSlot s).pendingOn (.a n) = none) :
    writeA (.a n) w s = .ok ((), noted w (putCur s { curSlot s with a := (curSlot s).a.set n w })) := by
  simp only [writeA]
  rw [bind_ok (notPending_ok idle)]
  exact noteResult_eq w _

theorem writeA_lq {k : Fin 4} {w : Word} {s : State} (room : (curSlot s).lq[k].length < 16) :
    writeA (.lq k) w s = .ok ((), noted w (putCur s
      { curSlot s with lq := (curSlot s).lq.set k ((curSlot s).lq[k] ++ [.filled ⟨w.zeroExtend 512, 3⟩]) })) := by
  have pushed : pushLq k (.filled (entryOf w)) s = .ok ((), putCur s
      { curSlot s with lq := (curSlot s).lq.set k ((curSlot s).lq[k] ++ [.filled (entryOf w)]) }) := if_neg (Nat.not_le.mpr room)
  exact (bind_ok pushed).trans (noteResult_eq w _)

theorem writeA_lq_full {k : Fin 4} {w : Word} {s : State} (full : 16 ≤ (curSlot s).lq[k].length) :
    writeA (.lq k) w s = .error (.wait (.pushLq k) none) := bind_error (if_pos full)

theorem writeA_sm {n : Fin 4} {w : Word} {s : State} (free : n ∉ (curSlot s).smBusy) (idle : (curSlot s).pendingOn (.sm n) = none) :
    writeA (.sm n) w s = .ok ((), noted w (putCur s { curSlot s with sm := (curSlot s).sm.set n (smWord w) })) := by
  simp only [writeA]
  rw [getSlot_bind, stopIf_bind (by simpa using free), bind_ok (notPending_ok idle)]
  exact noteResult_eq w _

theorem writeA_stream_busy {n : Fin 4} {w : Word} {s : State} (busy : n ∈ (curSlot s).smBusy) :
    writeA (.sm n) w s = .error (.wait .stream none) := by
  refine (getSlot_bind _ s).trans ?_
  exact stopIf_bind_stop (by simpa using busy) rfl _

/-- A stream register keeps all but its reserved bits [45:36] (R21). -/
theorem getLsbD_smWord (w : Word) {i : Nat} (h : i < 64) :
    (smWord w).getLsbD i = (w.getLsbD i && !(decide (36 ≤ i) && decide (i < 46))) := by
  have mask : ∀ j : Fin 64, (0xffffc00fffffffff : Word).getLsbD j = !(decide (36 ≤ j.val) && decide (j.val < 46)) := by decide
  rw [smWord, BitVec.getLsbD_and, mask ⟨i, h⟩]

theorem extract_smWord (w : Word) {start len : Nat} (inside : start + len ≤ 64) (kept : start + len ≤ 36 ∨ 46 ≤ start) :
    (smWord w).extractLsb' start len = w.extractLsb' start len := by
  refine BitVec.eq_of_getElem_eq fun i h => ?_
  rw [BitVec.getElem_extractLsb', BitVec.getElem_extractLsb', getLsbD_smWord w (by omega)]
  simp
  omega

theorem extract_smWord_reserved (w : Word) : (smWord w).extractLsb' 36 10 = 0 := by
  refine BitVec.eq_of_getElem_eq fun i h => ?_
  rw [BitVec.getElem_extractLsb', getLsbD_smWord w (by omega)]
  simp
  omega

/-! ## Queue entries (R102) -/

theorem tagSize_narrow {tag : BitVec 4} (h : (tag.extractLsb' 0 3).toNat < 4) : tagSize tag = 2 ^ (tag.extractLsb' 0 3).toNat := by
  unfold tagSize
  interval_cases (tag.extractLsb' 0 3).toNat <;> rfl

theorem tagSize_wide {tag : BitVec 4} (h : 4 ≤ (tag.extractLsb' 0 3).toNat) : tagSize tag = 64 := by
  unfold tagSize
  split <;> simp_all

theorem vecElem_zero (v : Vec) (n : Nat) : vecElem v 0 n = v.toNat % 2 ^ (8 * n) := by
  simp [vecElem]

/-- The signed value of a pattern is that of the bit vector of its width. -/
theorem signedOf_eq (w v : Nat) (pos : 0 < w) : signedOf w v = (BitVec.ofNat w v).toInt := by
  rw [signedOf, BitVec.toInt_eq_toNat_cond, BitVec.toNat_ofNat]
  have half : 2 * (v % 2 ^ w) < 2 ^ w ↔ v % 2 ^ w < 2 ^ (w - 1) := by
    obtain ⟨k, rfl⟩ := Nat.exists_eq_succ_of_ne_zero pos.ne'
    rw [Nat.succ_sub_one, Nat.pow_succ]
    omega
  simp only [half]

theorem toNat_ofNat_of_lt {w k v : Nat} (below : v < 2 ^ k) (wide : k ≤ w) : (BitVec.ofNat w v).toNat = v :=
  (BitVec.toNat_ofNat ..).trans (Nat.mod_eq_of_lt (below.trans_le (Nat.pow_le_pow_right (by decide) wide)))

theorem QEntry.wide {e : QEntry} (h : 4 ≤ (e.tag.extractLsb' 0 3).toNat) :
    e.scalar = e.data.extractLsb' 0 64 ∧ e.vector = e.data := by
  have size := tagSize_wide h
  refine ⟨by simp only [QEntry.scalar, size, if_true], ?_⟩
  rw [QEntry.vector, size, vecElem_zero, Nat.mod_eq_of_lt e.data.isLt, BitVec.ofNat_toNat, BitVec.setWidth_eq]

theorem QEntry.narrow {e : QEntry} {n : Nat} (code : n = (e.tag.extractLsb' 0 3).toNat) (h : n < 4) :
    e.vector.toNat = e.data.toNat % 2 ^ (8 * 2 ^ n) ∧
      (e.tag.getLsbD 3 = false → e.scalar.toNat = e.data.toNat % 2 ^ (8 * 2 ^ n)) ∧
      (e.tag.getLsbD 3 = true → e.scalar = BitVec.ofInt 64 (BitVec.ofNat (8 * 2 ^ n) e.data.toNat).toInt) := by
  have size : tagSize e.tag = 2 ^ n := code ▸ tagSize_narrow (code ▸ h)
  have bytes : (2 : Nat) ^ n ≤ 8 := by interval_cases n <;> decide
  have below : e.data.toNat % 2 ^ (8 * 2 ^ n) < 2 ^ 64 :=
    (Nat.mod_lt _ (by positivity)).trans_le (Nat.pow_le_pow_right (by decide) (by omega))
  have short : (2 : Nat) ^ n ≠ 64 := by omega
  refine ⟨?_, fun unsigned => ?_, fun signed => ?_⟩
  · rw [QEntry.vector, size, vecElem_zero, toNat_ofNat_of_lt below (by decide)]
  · simp only [QEntry.scalar, size, short, if_false, unsigned, Bool.false_eq_true, vecElem_zero, BitVec.toNat_ofNat]
    exact Nat.mod_eq_of_lt below
  · simp only [QEntry.scalar, size, short, if_false, signed, if_true, vecElem_zero]
    rw [signedOf_eq _ _ (by positivity), ← BitVec.toNat_ofNat, BitVec.ofNat_toNat, BitVec.setWidth_eq]

/-- Settles O5: sources, destinations and tags, form by form. -/
theorem operandsOfAClass : Obligations.OperandsOfAClass := by
  unfold Obligations.OperandsOfAClass
  refine ⟨fun s => ?_, fun s w => ?_, fun e => ⟨fun h => QEntry.wide h, fun h => QEntry.narrow rfl h⟩⟩
  · refine ⟨fun n => readA_a, fun n k => readA_pending, rfl, fun q x xs => readA_sq, fun q => readA_sq_empty, fun w ws => readA_cq,
      readA_cq_empty, fun n free idle r addr size register address width => ?_⟩
    refine ⟨readStream_exhausted free idle register address width, readStream_misaligned free idle register address width,
      readStream_outside free idle register address width, fun some' aligned inside u passed empty => ?_⟩
    exact ⟨_, _, rfl, streamNext_count r, streamNext_middle r, streamNext_address r,
      readStream_element free idle register address width some' aligned inside passed empty⟩
  · exact ⟨fun n => writeA_a, rfl, fun k => writeA_lq, fun k => writeA_lq_full,
      fun n free idle => ⟨smWord w, extract_smWord w (by decide) (by decide), extract_smWord_reserved w,
        extract_smWord w (by decide) (by decide), writeA_sm free idle⟩,
      fun n busy => ⟨writeA_stream_busy busy, readA_stream_busy busy⟩⟩

end Sys2Proof.Machine
end

section
/-! SUPPORT. Status registers: what sys.rdsr reads and what sys.wrsr writes (spec/02 R23 to R39, spec/18 R306). -/

namespace Sys2Proof.Machine

open Sys2Proof.Claims

/-! ## The fields of a word -/

theorem extract_ofNat (w v : Nat) {start len : Nat} (inside : start + len ≤ w) :
    (BitVec.ofNat w v).extractLsb' start len = BitVec.ofNat len (v / 2 ^ start) := by
  refine BitVec.eq_of_getElem_eq fun i h => ?_
  rw [BitVec.getElem_extractLsb', BitVec.getLsbD_ofNat, ← BitVec.getLsbD_eq_getElem, BitVec.getLsbD_ofNat, Nat.testBit_div_two_pow]
  simp [show start + i < w by omega, h, Nat.add_comm]

theorem getLsbD_ofNat_div (w v : Nat) {i : Nat} (inside : i < w) : (BitVec.ofNat w v).getLsbD i = decide (v / 2 ^ i % 2 = 1) := by
  rw [BitVec.getLsbD_ofNat, Nat.testBit_eq_decide_div_mod_eq]
  simp [inside]

theorem ofNat_congr_mod {w v u : Nat} (same : v % 2 ^ w = u % 2 ^ w) : BitVec.ofNat w v = BitVec.ofNat w u :=
  BitVec.eq_of_toNat_eq (by rw [BitVec.toNat_ofNat, BitVec.toNat_ofNat, same])

theorem getLsbD_append_low {v w : Nat} (a : BitVec v) (b : BitVec w) {i : Nat} (inside : i < w) : (a ++ b).getLsbD i = b.getLsbD i :=
  (BitVec.getLsbD_append ..).trans (if_pos inside)

theorem getLsbD_append_high {v w : Nat} (a : BitVec v) (b : BitVec w) {i : Nat} (above : w ≤ i) :
    (a ++ b).getLsbD i = a.getLsbD (i - w) :=
  (BitVec.getLsbD_append ..).trans (if_neg (Nat.not_lt.mpr above))

theorem getLsbD_bitOf (b : Bool) : (bitOf b).getLsbD 0 = b := by cases b <;> rfl

section Fields

variable {v w : Nat} {a : BitVec v} {b : BitVec w}

/-- A field above the lowest part of a word. -/
theorem extract_above {start len : Nat} {c : BitVec len} (above : w ≤ start) (h : a.extractLsb' (start - w) len = c) :
    (a ++ b).extractLsb' start len = c := (extract_append_high a b above).trans h

theorem getLsbD_above {i : Nat} {c : Bool} (above : w ≤ i) (h : a.getLsbD (i - w) = c) : (a ++ b).getLsbD i = c :=
  (getLsbD_append_high a b above).trans h

/-- The lowest part of a word. -/
theorem extract_lowest : (a ++ b).extractLsb' 0 w = b := (extract_append_low a b (by omega)).trans (extract_all b)

theorem getLsbD_lowest {c : Bool} : (a ++ bitOf c).getLsbD 0 = c :=
  (getLsbD_append_low a (bitOf c) (by decide)).trans (getLsbD_bitOf c)

end Fields

theorem ast_fields (σ : Slot) :
    σ.ast.extractLsb' 32 32 = σ.aFmtsave ∧ σ.ast.getLsbD 31 = σ.aPP ∧ σ.ast.getLsbD 30 = σ.inTrap ∧ σ.ast.extractLsb' 28 2 = σ.pri ∧
      σ.ast.extractLsb' 22 6 = σ.chan ∧ σ.ast.getLsbD 21 = σ.det ∧ σ.ast.getLsbD 20 = σ.paired ∧
      σ.ast.extractLsb' 16 4 = BitVec.ofNat 4 σ.rs.length ∧ σ.ast.extractLsb' 12 4 = 0 ∧ σ.ast.extractLsb' 0 12 = σ.budleft := by
  refine ⟨?_, ?_, ?_, ?_, ?_, ?_, ?_, ?_, ?_, ?_⟩
  · exact extract_above (by decide) <| extract_above (by decide) <| extract_above (by decide) <| extract_above (by decide) <| extract_above (by decide) <| extract_above (by decide) <|
      extract_above (by decide) <| extract_above (by decide) <| extract_above (by decide) <| extract_all _
  · exact getLsbD_above (by decide) <| getLsbD_above (by decide) <| getLsbD_above (by decide) <| getLsbD_above (by decide) <| getLsbD_above (by decide) <| getLsbD_above (by decide) <|
      getLsbD_above (by decide) <| getLsbD_above (by decide) getLsbD_lowest
  · exact getLsbD_above (by decide) <| getLsbD_above (by decide) <| getLsbD_above (by decide) <| getLsbD_above (by decide) <| getLsbD_above (by decide) <| getLsbD_above (by decide) <|
      getLsbD_above (by decide) getLsbD_lowest
  · exact extract_above (by decide) <| extract_above (by decide) <| extract_above (by decide) <| extract_above (by decide) <| extract_above (by decide) <| extract_above (by decide) extract_lowest
  · exact extract_above (by decide) <| extract_above (by decide) <| extract_above (by decide) <| extract_above (by decide) <| extract_above (by decide) extract_lowest
  · exact getLsbD_above (by decide) <| getLsbD_above (by decide) <| getLsbD_above (by decide) <| getLsbD_above (by decide) getLsbD_lowest
  · exact getLsbD_above (by decide) <| getLsbD_above (by decide) <| getLsbD_above (by decide) getLsbD_lowest
  · exact extract_above (by decide) <| extract_above (by decide) extract_lowest
  · exact extract_above (by decide) extract_lowest
  · exact extract_lowest

theorem est_fields (σ : Slot) :
    σ.est.extractLsb' 32 32 = σ.eFmtsave ∧ σ.est.getLsbD 31 = σ.ePP ∧ σ.est.extractLsb' 16 15 = 0 ∧ σ.est.getLsbD 15 = σ.sat ∧
      σ.est.extractLsb' 12 2 = σ.rm ∧ σ.est.extractLsb' 5 7 = 0 ∧ σ.est.extractLsb' 0 5 = σ.flags := by
  refine ⟨?_, ?_, ?_, ?_, ?_, ?_, ?_⟩
  · exact extract_above (by decide) <| extract_above (by decide) <| extract_above (by decide) <| extract_above (by decide) <|
      extract_above (by decide) <| extract_above (by decide) <| extract_above (by decide) (extract_all _)
  · exact getLsbD_above (by decide) <| getLsbD_above (by decide) <| getLsbD_above (by decide) <| getLsbD_above (by decide) <|
      getLsbD_above (by decide) <| getLsbD_above (by decide) getLsbD_lowest
  · exact extract_above (by decide) <| extract_above (by decide) <| extract_above (by decide) <| extract_above (by decide) <|
      extract_above (by decide) extract_lowest
  · exact getLsbD_above (by decide) <| getLsbD_above (by decide) <| getLsbD_above (by decide) <| getLsbD_above (by decide)
      getLsbD_lowest
  · exact extract_above (by decide) <| extract_above (by decide) extract_lowest
  · exact extract_above (by decide) extract_lowest
  · exact extract_lowest

/-! ## Registers beside the slot -/

theorem checker_fields {c : Checker} (short : c.cursor < 2 ^ 52) :
    c.word.getLsbD 63 = c.valid ∧ c.word.extractLsb' 59 4 = c.rights ∧ c.word.extractLsb' 52 7 = 0 ∧
      c.word.extractLsb' 0 52 = BitVec.ofNat 52 c.cursor := by
  have rights := c.rights.isLt
  have valid : (if c.valid then 2 ^ 63 else 0) = c.valid.toNat * 2 ^ 63 := by cases c.valid <;> rfl
  have bit := c.valid.toNat_le
  unfold Checker.word
  rw [valid, getLsbD_ofNat_div _ _ (by decide), extract_ofNat _ _ (by decide), extract_ofNat _ _ (by decide),
    extract_ofNat _ _ (by decide)]
  refine ⟨?_, BitVec.eq_of_toNat_eq ?_, BitVec.eq_of_toNat_eq ?_, ofNat_congr_mod ?_⟩
  · cases c.valid <;> simp <;> omega
  · rw [BitVec.toNat_ofNat]
    omega
  · rw [BitVec.toNat_ofNat]
    show _ = 0
    omega
  · omega

theorem gwst_fields (H : Hart) :
    H.gwst.getLsbD 0 = H.aligned ∧ H.gwst.getLsbD 1 = H.fallback ∧ H.gwst.extractLsb' 2 30 = 0 ∧ H.gwst.extractLsb' 32 32 = H.xtick := by
  have tick := H.xtick.isLt
  unfold Hart.gwst
  rw [getLsbD_ofNat_div _ _ (by decide), getLsbD_ofNat_div _ _ (by decide), extract_ofNat _ _ (by decide), extract_ofNat _ _ (by decide)]
  refine ⟨?_, ?_, BitVec.eq_of_toNat_eq ?_, BitVec.eq_of_toNat_eq ?_⟩
  · cases H.aligned <;> cases H.fallback <;> simp <;> omega
  · cases H.aligned <;> cases H.fallback <;> simp <;> omega
  · rw [BitVec.toNat_ofNat]
    cases H.aligned <;> cases H.fallback <;> simp <;> omega
  · rw [BitVec.toNat_ofNat]
    cases H.aligned <;> cases H.fallback <;> simp <;> omega

theorem orcst_fields (U : OrUnit) :
    U.orcst.getLsbD 0 = U.regime ∧ U.orcst.extractLsb' 1 7 = 0 ∧ U.orcst.extractLsb' 8 8 = BitVec.ofNat 8 U.lines.length ∧
      (U.lines.length < 256 → U.orcst.extractLsb' 16 48 = 0) := by
  unfold OrUnit.orcst
  rw [getLsbD_ofNat_div _ _ (by decide), extract_ofNat _ _ (by decide), extract_ofNat _ _ (by decide), extract_ofNat _ _ (by decide)]
  refine ⟨?_, BitVec.eq_of_toNat_eq ?_, ofNat_congr_mod ?_, fun few => BitVec.eq_of_toNat_eq ?_⟩
  · cases U.regime <;> simp <;> omega
  · rw [BitVec.toNat_ofNat]
    cases U.regime <;> simp <;> omega
  · cases U.regime with
    | false => simp
    | true =>
      simp
      omega
  · rw [BitVec.toNat_ofNat]
    cases U.regime <;> simp <;> omega

theorem platid_fields {s : State} {L : Nat} :
    let P := platOfLaunch s L
    let w := platidOf s L
    P.x4 < 2 ^ 10 → P.y2 < 2 ^ 10 → P.w < 2 ^ 10 → P.h < 2 ^ 10 → w.extractLsb' 0 10 = BitVec.ofNat 10 P.x4 ∧
      w.extractLsb' 10 10 = BitVec.ofNat 10 P.y2 ∧ w.extractLsb' 20 10 = BitVec.ofNat 10 P.w ∧ w.extractLsb' 30 10 = BitVec.ofNat 10 P.h ∧
      w.extractLsb' 40 16 = P.tag ∧ w.extractLsb' 56 8 = 0 := by
  intro P w x y wide high
  have tag := P.tag.isLt
  have word : w = BitVec.ofNat 64 (P.x4 + P.y2 * 2 ^ 10 + P.w * 2 ^ 20 + P.h * 2 ^ 30 + P.tag.toNat * 2 ^ 40) := rfl
  clear_value P w
  subst word
  simp only [extract_ofNat, Nat.reduceAdd, Nat.reduceLeDiff]
  refine ⟨ofNat_congr_mod ?_, ofNat_congr_mod ?_, ofNat_congr_mod ?_, ofNat_congr_mod ?_, BitVec.eq_of_toNat_eq ?_,
    BitVec.eq_of_toNat_eq ?_⟩
  · omega
  · omega
  · omega
  · omega
  · rw [BitVec.toNat_ofNat]
    omega
  · rw [BitVec.toNat_ofNat]
    show _ = 0
    omega

/-- cid of a core outside the mesh names the core, and leaves its upper bits zero (R30). -/
theorem cid_outside {h : Nat} (core : h < Config.nHarts) (free : Word) :
    ((free &&& 0xfffff00000) ||| BitVec.ofNat 64 h).extractLsb' 0 20 = BitVec.ofNat 20 h ∧
      ((free &&& 0xfffff00000) ||| BitVec.ofNat 64 h).extractLsb' 40 24 = 0 := by
  have short : h < 2 ^ 20 := core.trans (by decide)
  have mask : ∀ i : Fin 64, (0xfffff00000 : Word).getLsbD i = (decide (20 ≤ i.val) && decide (i.val < 40)) := by decide
  refine ⟨BitVec.eq_of_getElem_eq fun i lt => ?_, BitVec.eq_of_getElem_eq fun i lt => ?_⟩
  · rw [BitVec.getElem_extractLsb', BitVec.getLsbD_or, BitVec.getLsbD_and, mask ⟨0 + i, by omega⟩, BitVec.getLsbD_ofNat,
      ← BitVec.getLsbD_eq_getElem, BitVec.getLsbD_ofNat]
    simp [show ¬ 20 ≤ i by omega, show i < 64 by omega, lt]
  · rw [BitVec.getElem_extractLsb', BitVec.getLsbD_or, BitVec.getLsbD_and, mask ⟨40 + i, by omega⟩, BitVec.getLsbD_ofNat,
      Nat.testBit_lt_two_pow (short.trans_le (Nat.pow_le_pow_right (by decide) (by omega)))]
    simp

/-! ## Reading -/

/-- The checks of an access that R32 allows. -/
theorem statusCheck_bind {α : Type} {num : BitVec 12} {ro : Bool} {s : State} (known : regKnown num.toNat = true)
    (held : regHeld (curHart s) num.toNat = true) (rw' : ro = false) (k : Unit → Op α) : (statusCheck num ro >>= k) s = k () s := by
  refine bind_ok ?_
  unfold statusCheck
  rw [stopIf_bind (by simp [known]), get_bind, stopIf_bind (by simp [held])]
  exact stopIf_ok (by simp [rw'])

theorem statusCheck_ro {α : Type} {num : BitVec 12} {s : State} (known : regKnown num.toNat = true)
    (held : regHeld (curHart s) num.toNat = true) (k : Unit → Op α) :
    (statusCheck num true >>= k) s = .error (.trap ⟨codeReserved, num, 0⟩ none) := by
  refine bind_error ?_
  unfold statusCheck
  rw [stopIf_bind (by simp [known]), get_bind, stopIf_bind (by simp [held])]
  exact stopIf_stop rfl

theorem waitEarlier_ok {n : Nat} {s : State} (h : n = 1 → (curSlot s).path = []) : waitEarlier n s = .ok ((), s) := by
  refine (getSlot_bind _ s).trans (stopIf_ok ?_)
  rintro ⟨one, later⟩
  simp [h one] at later

section Reads

variable {d : ADst} {num : BitVec 12} {s : State} (ready : AReady s)
include ready

theorem rdsr_unknown (unknown : regKnown num.toNat = false) :
    exec (.sysRdsr d num) s = .next (takeTrap s s .aSide ⟨codeIllegal, num, 0⟩) :=
  plainA_trap (k := none) ready (bind_error (stopIf_bind_stop (by simp [unknown]) rfl _))

variable (known : regKnown num.toNat = true)
include known

theorem rdsr_elsewhere (elsewhere : regHeld (curHart s) num.toNat = false) :
    exec (.sysRdsr d num) s = .next (takeTrap s s .aSide ⟨codeSpace, num, 0⟩) := by
  refine plainA_trap (k := none) ready (bind_error ?_)
  unfold statusCheck
  rw [stopIf_bind (by simp [known]), get_bind]
  exact stopIf_bind_stop (by simp [elsewhere]) rfl _

variable (held : regHeld (curHart s) num.toNat = true)
include held

theorem rdsr_writes (retired : num.toNat = 1 → (curSlot s).path = []) :
    WritesA (.sysRdsr d num) s s d (readStatus s num.toNat) := by
  intro t written
  refine plainA_ok ready ?_
  unfold rdsrOp
  rw [statusCheck_bind known held rfl, bind_ok (waitEarlier_ok retired), get_bind, written]

theorem rdsr_earlier (est : num.toNat = 1) (path : (curSlot s).path ≠ []) :
    exec (.sysRdsr d num) s = .next (markA s .eEarlier) := by
  refine plainA_wait (k := none) ready ?_
  unfold rdsrOp
  rw [statusCheck_bind known held rfl]
  refine bind_error ((getSlot_bind _ s).trans (stopIf_stop ⟨est, ?_⟩))
  simpa using path

end Reads

/-! ## Writing -/

section Writes

variable {x : ASrc} {num : BitVec 12} {s s1 : State} {w : Word} (ready : AReady s) (readX : readA x s = .ok (w, s1))
  (known : regKnown num.toNat = true) (held : regHeld (curHart s) num.toNat = true)
include ready readX known held

theorem wrsr_writes (rw' : regRO (curSlot s).inTrap num.toNat = false) (retired : num.toNat = 1 → (curSlot s).path = []) :
    exec (.sysWrsr x num) s = .next (endA false (noted w (putCur s1 ((curSlot s1).writeStatus num.toNat w)))) := by
  obtain ⟨only, slot⟩ := readA_slot readX
  have trap : (curSlot s1).inTrap = (curSlot s).inTrap := by rw [slot]
  have path : (curSlot s1).path = (curSlot s).path := by rw [slot]
  refine plainA_ok ready ?_
  unfold wrsrOp
  rw [bind_ok readX, getSlot_bind, trap, statusCheck_bind known (only.curHart ▸ held) rw',
    bind_ok (waitEarlier_ok (path ▸ retired))]
  exact noteResult_eq w _

theorem wrsr_ro (ro : regRO (curSlot s).inTrap num.toNat = true) :
    exec (.sysWrsr x num) s = .next (takeTrap s s .aSide ⟨codeReserved, num, 0⟩) := by
  obtain ⟨only, slot⟩ := readA_slot readX
  have trap : (curSlot s1).inTrap = (curSlot s).inTrap := by rw [slot]
  refine plainA_trap (k := none) ready ?_
  unfold wrsrOp
  rw [bind_ok readX, getSlot_bind, trap, ro, statusCheck_ro known (only.curHart ▸ held)]

end Writes

/-! ## The table of R32 -/

theorem readStatus_tsb (s : State) (i : Fin 16) : readStatus s (0x20 + i.val) = (curSlot s).tsb[i] := by
  simp only [readStatus]
  rw [if_neg (by omega), if_neg (by omega), if_neg (by omega), if_neg (by omega), if_neg (by omega), if_neg (by omega),
    if_pos (by omega)]
  simp only [Nat.add_sub_cancel_left, Nat.mod_eq_of_lt i.isLt]
  rfl

theorem readStatus_checker (s : State) {k : Nat} (h : k < 64) :
    readStatus s (0x80 + k) = (SMap.getD (curCtx s).checkers k ⟨false, 0, 0⟩).word := by
  simp only [readStatus]
  rw [if_neg (by omega), if_neg (by omega), if_neg (by omega), if_neg (by omega), if_neg (by omega), if_neg (by omega),
    if_neg (by omega), if_neg (by omega), if_neg (by omega), if_neg (by omega), if_neg (by omega), if_neg (by omega),
    if_neg (by omega), if_neg (by omega), if_neg (by omega), Nat.add_sub_cancel_left]

/-- tcause as sys.wrsr leaves it: bits [14:12] stay 0 (R27, R306). -/
theorem tcause_fields (w : Word) :
    (w.extractLsb' 0 32 &&& 0xffff8fff : BitVec 32).extractLsb' 15 17 = w.extractLsb' 15 17 ∧
      (w.extractLsb' 0 32 &&& 0xffff8fff : BitVec 32).extractLsb' 12 3 = 0 ∧
      (w.extractLsb' 0 32 &&& 0xffff8fff : BitVec 32).extractLsb' 0 12 = w.extractLsb' 0 12 := by
  have mask : ∀ i : Fin 32, (0xffff8fff : BitVec 32).getLsbD i = !(decide (12 ≤ i.val) && decide (i.val < 15)) := by decide
  refine ⟨BitVec.eq_of_getElem_eq fun i h => ?_, BitVec.eq_of_getElem_eq fun i h => ?_, BitVec.eq_of_getElem_eq fun i h => ?_⟩
  · rw [BitVec.getElem_extractLsb', BitVec.getLsbD_and, mask ⟨15 + i, by omega⟩]
    simp [show 15 + i < 32 by omega]
  · rw [BitVec.getElem_extractLsb', BitVec.getLsbD_and, mask ⟨12 + i, by omega⟩]
    simp [show 12 + i < 15 by omega]
  · rw [BitVec.getElem_extractLsb', BitVec.getLsbD_and, mask ⟨0 + i, by omega⟩]
    simp [show i < 32 by omega, h]

/-- Settles O11, register by register. -/
theorem statusRegisters : Obligations.StatusRegisters := by
  unfold Obligations.StatusRegisters
  refine ⟨fun d num s ready => ?_, fun x s s1 w ready readX => ?_⟩
  · refine ⟨rdsr_unknown ready, fun known elsewhere => rdsr_elsewhere ready known elsewhere, ?_, fun known held retired => ?_⟩
    · rintro rfl path
      exact rdsr_earlier ready (by decide) rfl rfl path
    · have one (h : num.toNat = 1) : num = 1 := BitVec.eq_of_toNat_eq h
      refine ⟨readStatus s num.toNat, rdsr_writes ready known held fun h => retired (one h), ?_, ?_, ?_, ?_, ?_, ?_, fun i h => ?_,
        ?_, ?_, ?_, ?_, ?_, ?_, fun k lt h => ?_, ?_, ?_, ?_⟩
      · rintro rfl
        exact ast_fields _
      · rintro rfl
        exact est_fields _
      · rintro rfl
        rfl
      · rintro rfl
        rfl
      · rintro rfl
        rfl
      · rintro rfl
        rfl
      · rw [h]
        exact readStatus_tsb s i
      · rintro rfl mesh
        exact if_pos mesh
      · rintro rfl outside
        have word : readStatus s (0x040 : BitVec 12).toNat =
            (Config.freeWord (curHart s) &&& 0xfffff00000) ||| BitVec.ofNat 64 (curHart s) := if_neg (by simp [outside])
        rw [word]
        exact cid_outside ready.1 _
      · rintro rfl
        exact platid_fields
      · rintro rfl
        rfl
      · rintro rfl
        rfl
      · rintro rfl
        rfl
      · rw [h, readStatus_checker s lt]
        refine ⟨fun none' => ?_, fun c some' short => ?_⟩
        · simp only [SMap.getD, none']
          decide
        · simp only [SMap.getD, some']
          exact checker_fields short
      · rintro rfl
        exact gwst_fields _
      · rintro rfl
        rfl
      · rintro rfl
        exact orcst_fields _
  · refine ⟨wrsr_writes ready readX rfl rfl rfl nofun, fun path => wrsr_writes ready readX rfl rfl rfl fun _ => path, fun trap => ?_,
      fun outside num h => ?_, fun num h => ?_⟩
    · have rw' (n : Nat) (h : n = 2 ∨ n = 0x10 ∨ n = 0x11 ∨ n = 0x12) : regRO (curSlot s).inTrap n = false := by
        rw [trap]
        rcases h with rfl | rfl | rfl | rfl <;> rfl
      obtain ⟨high, reserved, low⟩ := tcause_fields w
      exact ⟨wrsr_writes ready readX rfl rfl (rw' 2 (by decide)) nofun, wrsr_writes ready readX rfl rfl (rw' 0x11 (by decide)) nofun,
        wrsr_writes ready readX rfl rfl (rw' 0x12 (by decide)) nofun, _,
        wrsr_writes ready readX rfl rfl (rw' 0x10 (by decide)) nofun, high, reserved, low⟩
    · simp only [List.mem_cons, List.not_mem_nil, or_false] at h
      rcases h with rfl | rfl | rfl | rfl <;> exact wrsr_ro ready readX rfl rfl (by rw [outside]; rfl)
    · simp only [List.mem_cons, List.not_mem_nil, or_false] at h
      rcases h with rfl | rfl | rfl | rfl | rfl | rfl | rfl <;> exact wrsr_ro ready readX rfl rfl rfl

end Sys2Proof.Machine
end

section
/-! SUPPORT. Polls, sleeps and remote commands of the engines (spec/07 R124, R125, R127, spec/17 R297, R298). -/

namespace Sys2Proof.Machine

open Sys2Proof.Claims

/-! ## Retiring, on a pair and off it -/

/-- Of the cores, the counts and the checkpoint of a pair are what a retired bundle changes (R199). -/
theorem countBundle_eq (h n : Nat) (agreed : Bool) (s : State) :
    countBundle h n agreed s = s ∨ ∃ since checkpoint,
      countBundle h n agreed s = putHart s h { hartOf s h with sinceAgree := since, checkpoint := checkpoint } := by
  unfold countBundle
  split
  · exact .inr ⟨_, _, rfl⟩
  · exact .inl rfl

theorem hartOf_countBundle_keeps {α : Type} (f : Hart → α) (h n : Nat) (agreed : Bool) (s : State)
    (keep : ∀ (H : Hart) (since : Nat) (checkpoint : Option Checkpoint), f { H with sinceAgree := since, checkpoint := checkpoint } = f H)
    (k : Nat) : f (hartOf (countBundle h n agreed s) k) = f (hartOf s k) := by
  obtain same | ⟨since, checkpoint, same⟩ := countBundle_eq h n agreed s
  · rw [same]
  · rw [same]
    exact hartOf_putHart_keeps f (keep _ _ _) k

theorem countBundle_issues (h n : Nat) (agreed : Bool) (s : State) :
    Issues 0 s (countBundle h n agreed s) ∧ curSlot (countBundle h n agreed s) = curSlot s := by
  obtain same | ⟨since, checkpoint, same⟩ := countBundle_eq h n agreed s
  · rw [same]
    exact ⟨.refl s, rfl⟩
  · rw [same]
    exact issues_putHart rfl rfl (List.Subset.refl _)

/-- A word of the A-side retires from state t with the slot σ. -/
structure Retires (t : State) (σ : Slot) (v : State) : Prop where
  curHart : curHart v = curHart t
  slot : curSlot v = σ.retireA false .next
  copies : (hartOf v (Machine.curHart t)).copies = (hartOf t (Machine.curHart t)).copies
  commit : (hartOf v (Machine.curHart t)).commit = (hartOf t (Machine.curHart t)).commit
  net : v.net = t.net
  ctx : ∀ h L, ctxOf v h L = ctxOf t h L
  hbm : v.hbm = t.hbm
  hostMem : v.hostMem = t.hostMem

theorem retireAt_retires (t : State) (σ : Slot) : Retires t σ (retireAt t (curHart t) (curNum t) σ false .next) := by
  obtain ⟨counted, slot⟩ := countBundle_issues (curHart t) (curNum t) σ.agreed (putCur t (σ.retireA false .next))
  have keeps {α : Type} (f : Hart → α) (keep : ∀ (H : Hart) since checkpoint, f { H with sinceAgree := since, checkpoint := checkpoint } = f H)
      (k : Nat) := hartOf_countBundle_keeps f (curHart t) (curNum t) σ.agreed (putCur t (σ.retireA false .next)) keep k
  have net : (countBundle (curHart t) (curNum t) σ.agreed (putCur t (σ.retireA false .next))).net = t.net := by
    obtain same | ⟨_, _, same⟩ := countBundle_eq (curHart t) (curNum t) σ.agreed (putCur t (σ.retireA false .next)) <;> rw [same] <;> rfl
  refine ⟨counted.curHart, slot.trans (curSlot_putCur _ _), ?_, ?_, net, fun h L => ?_, ?_, ?_⟩
  · exact (keeps (·.copies) (fun _ _ _ => rfl) _).trans (by rw [hartOf_putCur]; rfl)
  · exact (keeps (·.commit) (fun _ _ _ => rfl) _).trans (by rw [hartOf_putCur]; rfl)
  · exact (ctxOf_congr (keeps (·.ctxs) (fun _ _ _ => rfl) h) L).trans (ctxOf_putCur _ _ _ _)
  · exact (congrArg State.hbm counted.rest).trans rfl
  · exact (congrArg State.hostMem counted.rest).trans rfl

theorem endA_retires (t : State) : Retires t (curSlot t) (endA false t) := retireAt_retires t _

theorem endGovA_retires (t : State) : Retires t (curSlot t).consumeA (endGovA t) := retireAt_retires t _

theorem Retires.sameMemory {s t v : State} {σ : Slot} (r : Retires t σ v) (before : SameMemory s t) : SameMemory s v := by
  obtain ⟨scratch, hbm, host⟩ := before
  exact ⟨fun h L a => by rw [r.ctx, scratch], fun a => by rw [r.hbm, hbm], fun a => by rw [r.hostMem, host]⟩

/-! ## Fingerprints of a payload (R199) -/

/-- Only the fingerprints of cores differ. -/
structure Signs (s t : State) : Prop where
  rest : t = { s with harts := t.harts }
  slots : ∀ h, (hartOf t h).slots = (hartOf s h).slots
  ctxs : ∀ h, (hartOf t h).ctxs = (hartOf s h).ctxs
  copies : ∀ h, (hartOf t h).copies = (hartOf s h).copies

namespace Signs

theorem refl (s : State) : Signs s s := ⟨rfl, fun _ => rfl, fun _ => rfl, fun _ => rfl⟩

variable {s t u : State}

theorem trans (a : Signs s t) (b : Signs t u) : Signs s u :=
  ⟨by rw [b.rest, a.rest], fun h => (b.slots h).trans (a.slots h), fun h => (b.ctxs h).trans (a.ctxs h),
    fun h => (b.copies h).trans (a.copies h)⟩

theorem issues (a : Signs s t) : Issues 0 s t ∧ curSlot t = curSlot s := by
  have nextId : t.nextId = s.nextId := by rw [a.rest]
  have net : t.net = s.net := by rw [a.rest]
  exact Issues.of_cores (by rw [a.rest]) a.slots a.ctxs (by rw [a.copies]; exact List.Subset.refl _) (by rw [nextId])
    (by rw [net]; exact List.Subset.refl _)

theorem curCtx (a : Signs s t) : curCtx t = curCtx s := by
  obtain ⟨goes, slot⟩ := a.issues
  simp only [Machine.curCtx, Machine.curLaunch, goes.curHart, slot, ctxOf_congr (a.ctxs _)]

theorem nextStamp (a : Signs s t) : nextStamp t = nextStamp s := by
  simp only [Claims.nextStamp, a.curCtx, a.issues.1.curHart]

theorem canSend (a : Signs s t) (h : CanSend s) : CanSend t := by
  obtain ⟨goes, slot⟩ := a.issues
  obtain ⟨left, free, room⟩ := h
  have pending : answerPending t (curHart t) (curLaunch t) = answerPending s (curHart s) (curLaunch s) := by
    simp only [answerPending, goes.curHart, goes.curLaunch, a.slots]
  exact ⟨a.curCtx ▸ left, pending.trans free, slot ▸ room⟩

end Signs

theorem signs_putHart (s : State) (h : Nat) (f : Word) : Signs s (putHart s h { hartOf s h with fpr := f }) :=
  ⟨rfl, hartOf_putHart_keeps (·.slots) rfl, hartOf_putHart_keeps (·.ctxs) rfl, hartOf_putHart_keeps (·.copies) rfl⟩

theorem noted_signs (w : Word) (s : State) : Signs s (noted w s) := by
  unfold noted
  split
  · exact (signs_putHart s _ _).trans (signs_putHart _ _ _)
  · exact .refl s

theorem noteResults_ok (ws : List Word) (s : State) : ∃ t, ws.forM noteResult s = .ok ((), t) ∧ Signs s t := by
  induction ws generalizing s with
  | nil => exact ⟨s, rfl, .refl s⟩
  | cons w ws ih =>
    obtain ⟨t, rest, signs⟩ := ih (noted w s)
    refine ⟨t, ?_, (noted_signs w s).trans signs⟩
    exact (bind_ok (noteResult_eq w s)).trans rest

/-! ## Operations that the message engine keeps, on a pair and off it (R111, R200) -/

/-- Where an operation goes: a pair's into its commit buffer, another into the mesh. -/
def Lies (paired : Bool) (t : State) (h : Nat) (it : NetItem) : Prop :=
  if paired = true then it ∈ (hartOf t h).commit else it ∈ t.net

/-- An operation that a pair holds until its agreement point. -/
theorem issue_held (op : NetOp) (d : OpDesc) {s : State} (pair : (curSlot s).paired = true) :
    ∃ it t, issue true op d [] s = .ok (it, t) ∧ it.op = op ∧ it.src = curIssuer s ∧ s.nextId ≤ it.id ∧
      it ∈ (hartOf t (curHart s)).commit ∧ Issues 0 s t ∧ curSlot t = curSlot s := by
  unfold issue
  extract_lets h prior soft u id it H t
  obtain ⟨pushed, slot1⟩ := releasePush_issues (curLaunch s) h d s
  obtain ⟨flushed, slot2⟩ := flushIds_issues (curLaunch s) h prior (releasePush (curLaunch s) h d s)
  have before : Issues 0 s u := pushed.trans flushed
  have slotU : curSlot u = curSlot s := slot2.trans slot1
  obtain ⟨listed, slot3⟩ := issues_putHart (s := { u with nextId := id + 1 }) (h := h)
    (H := { H with out := H.out ++ [d.out id (curNum u) (curSlot u).act] }) rfl rfl (List.Subset.refl _)
  obtain ⟨numbered, slot4⟩ := issues_send u [] 1 u.fresh
  rw [List.append_nil] at numbered slot4
  have kept : Issues 0 s t := (before.trans numbered).trans listed
  have slotT : curSlot t = curSlot s := (slot3.trans slot4).trans slotU
  obtain ⟨held, slot5⟩ := issues_putHart (s := t) (h := h) (H := { hartOf t h with commit := (hartOf t h).commit ++ [it] }) rfl rfl
    (List.Subset.refl _)
  have both : ((curSlot u).paired && true) = true := by rw [slotU, pair, Bool.true_and]
  rw [if_pos both]
  refine ⟨it, _, rfl, rfl, before.curIssuer, before.nextId, ?_, kept.trans held, slot5.trans slotT⟩
  show it ∈ (hartOf (putHart t h { hartOf t h with commit := (hartOf t h).commit ++ [it] }) h).commit
  rw [hartOf_putHart_same]
  exact List.mem_append_right _ (List.mem_singleton_self _)

theorem issue_kept (op : NetOp) (d : OpDesc) (s : State) :
    ∃ it t, issue true op d [] s = .ok (it, t) ∧ it.op = op ∧ it.src = curIssuer s ∧ s.nextId ≤ it.id ∧
      Lies (curSlot s).paired t (curHart s) it ∧ Issues 0 s t ∧ curSlot t = curSlot s := by
  cases pair : (curSlot s).paired with
  | true => exact issue_held op d pair
  | false =>
    obtain ⟨it, t, issued, sent, goes, slot⟩ := issue_ok true op d pair
    exact ⟨it, t, issued, sent.op, sent.src, sent.id, sent.net, goes, slot⟩

theorem commit_keepCopy (s : State) (it : NetItem) (k : Nat) : (hartOf (keepCopy s it) k).commit = (hartOf s k).commit :=
  hartOf_putHart_keeps (·.commit) (by rfl) k

theorem sendKept_ok (op : NetOp) (d : OpDesc) (info : BitVec 50) {s : State} (room : (curSlot s).sb.length < 16) :
    ∃ it t e, sendKept op d info s = .ok (it, t) ∧ it.op = op ∧ it.src = curIssuer s ∧ s.nextId ≤ it.id ∧
      Lies (curSlot s).paired t (curHart s) it ∧ Issues 0 s t ∧
      e = { SbEntry.plain it.id 6 info with item := some it, outOp := e.outOp } ∧ curSlot t = (curSlot s).addEntry e ∧
      ⟨it, 0, none, 0, none⟩ ∈ (hartOf t (curHart s)).copies := by
  obtain ⟨it, t, issued, hop, src, id, lies, goes, slot⟩ := issue_kept op d s
  obtain ⟨e, he, added⟩ := addSb_ok { SbEntry.plain it.id 6 info with item := some it } t
  have entered := issues_addEntry t e
  obtain ⟨copied, slotW⟩ := keepCopy_issues (putCur t ((curSlot t).addEntry e)) it
  have home : it.src.hart = curHart s := by rw [src]; rfl
  refine ⟨it, _, e, ?_, hop, src, id, ?_, (goes.trans entered).trans copied, he, ?_, ?_⟩
  · unfold sendKept sendVia
    rw [bind_ok (needSb_ok room), bind_ok issued, bind_ok added]
    rfl
  · cases pair : (curSlot s).paired with
    | true =>
      have there : it ∈ (hartOf t (curHart s)).commit := by simpa only [Lies, pair, if_true] using lies
      have same : curHart s = curHart t := goes.curHart.symm
      show it ∈ (hartOf (keepCopy (putCur t ((curSlot t).addEntry e)) it) (curHart s)).commit
      rw [commit_keepCopy, same, hartOf_putCur, Hart.putSlot_commit, ← same]
      exact there
    | false =>
      have there : it ∈ t.net := by simpa [Lies, pair] using lies
      exact copied.net there
  · rw [slotW, curSlot_putCur, slot]
  · rw [← home]
    exact mem_copies_keepCopy _ it

/-- A message of the next stamp, with its copy and its entry (R107, R254). -/
theorem sendMessage_ok (dest : Nat) (chan : BitVec 6) (pri : BitVec 2) (kind : BitVec 4) (ws : List Word) {s : State} (able : CanSend s) :
    ∃ it t e, sendMessage dest chan pri kind ws s = .ok ((), t) ∧
      it.op = .msg dest (mkHeader chan pri (BitVec.ofNat 4 ws.length) kind (nextStamp s)) ws ∧ it.src = curIssuer s ∧ s.nextId ≤ it.id ∧
      Lies (curSlot s).paired t (curHart s) it ∧ Issues 1 s t ∧ e.item = some it ∧ e.kind = 6 ∧ e.refused = false ∧
      e ∈ (curSlot t).sb ∧ ⟨it, 0, none, 0, none⟩ ∈ (hartOf t (curHart s)).copies := by
  obtain ⟨t1, signed, signs⟩ := noteResults_ok ws s
  obtain ⟨goes1, slot1⟩ := signs.issues
  obtain ⟨t2, stamped, goes2, slot2⟩ := takeStamp_ok (signs.canSend able)
  have goes : Issues 1 s t2 := goes1.trans goes2
  have slot : curSlot t2 = curSlot s := slot2.trans slot1
  obtain ⟨it, t, e, sent, op, src, id, lies, goes3, he, slot3, copy⟩ :=
    sendKept_ok (.msg dest (mkHeader chan pri (BitVec.ofNat 4 ws.length) kind (nextStamp t1)) ws) (sendDesc t2 dest chan.toNat)
      (chan.zeroExtend 50) (s := t2) (slot ▸ able.2.2)
  rw [goes.curHart] at lies copy
  refine ⟨it, t, e, ?_, signs.nextStamp ▸ op, src.trans goes.curIssuer, goes.nextId.trans id, slot ▸ lies, goes.trans goes3, by rw [he],
    by rw [he]; rfl, by rw [he]; rfl, by rw [slot3]; exact Slot.mem_addEntry _ e, copy⟩
  unfold sendMessage
  rw [bind_ok signed, bind_ok stamped, get_bind, bind_ok sent]
  rfl

/-- A governable word without a prefix that succeeds (R219). -/
theorem govA_ok {s t : State} {op : Op Unit} (ready : AReady s) (e : op s = .ok ((), t)) :
    wordA false .governable (do op; return .next) s = .next (endGovA t) := by
  have run : (do op; return .next : Op Flow) s = .ok (.next, t) := bind_ok e
  unfold wordA stepA
  rw [onSlot_next _ ready.1 ready.2.1]
  simp only [holdA_ready ready, ready.2.2.2.2.2, run, Option.bind_none]
  rw [if_neg nofun]
  rfl

theorem govA_trap {s : State} {op : Op Unit} {f : FaultInfo} (ready : AReady s) (e : op s = .error (.trap f none)) :
    wordA false .governable (do op; return .next) s = .next (takeTrap s s .aSide f) := by
  have run : (do op; return .next : Op Flow) s = .error (.trap f none) := bind_error e
  unfold wordA stepA
  rw [onSlot_next _ ready.1 ready.2.1]
  simp only [holdA_ready ready, ready.2.2.2.2.2, run, Option.bind_none]
  rfl

/-! ## Remote commands (R127, R298) -/

theorem Slot.consumeA_eq (σ : Slot) :
    σ.consumeA = { σ with aPrefix := none, aPP := σ.consumeA.aPP, aFmtsave := σ.consumeA.aFmtsave } := by
  unfold Slot.consumeA
  split <;> rfl

theorem length_readBlock {n first : Nat} {s t : State} {ws : List Word} (e : readBlock first n s = .ok (ws, t)) : ws.length = n := by
  induction n generalizing first s t ws with
  | zero => rw [(pure_inv e).1, List.length_nil]
  | succ n ih =>
    obtain ⟨w, u, _, e⟩ := bind_inv e
    obtain ⟨rest, v, read, e⟩ := bind_inv e
    rw [(pure_inv e).1, List.length_cons, ih read]

/-- The header of a remote command: channel 0, priority 0, seven words, KIND 1 (R107, R298). -/
theorem mkHeader_rcmd {ws : List Word} (seven : ws.length = 7) (stamp : BitVec 48) :
    mkHeader 0 0 (BitVec.ofNat 4 ws.length) 1 stamp = (0x0071 : BitVec 16) ++ stamp := by
  rw [seven]
  have fields : (0 : BitVec 6) ++ (0 : BitVec 2) ++ BitVec.ofNat 4 7 ++ (1 : BitVec 4) = (0x0071 : BitVec 16) := by decide
  exact congrArg (fun x : BitVec 16 => x ++ stamp) fields

theorem rcmdOp_bounds {lo : Nat} {first : BitVec 5} {x : ARegZ} {s : State} {p : Word} (port : readAReg x s = .ok (p, s))
    (bad : spaceOf p ≠ 7 ∨ indexOf p < lo ∨ lo + Config.nClusters ≤ indexOf p) :
    rcmdOp lo first x s = .error (.trap ⟨codeBounds, 0x0b1, p⟩ none) := by
  unfold rcmdOp
  rw [bind_ok port]
  exact stopIf_bind_stop bad rfl _

theorem rcmdOp_send {lo dest : Nat} {first : BitVec 5} {x : ARegZ} {s : State} {p : Word} {ws : List Word}
    (unprefixed : (curSlot s).aPrefix = none) (port : readAReg x s = .ok (p, s))
    (good : ¬ (spaceOf p ≠ 7 ∨ indexOf p < lo ∨ lo + Config.nClusters ≤ indexOf p)) (named : portDest p s = .ok (dest, s))
    (block : readBlock first.toNat 7 s = .ok (ws, s)) : rcmdOp lo first x s = sendMessage dest 0 0 1 ws s := by
  have none' : prefixA s = .ok (none, s) := by
    rw [← unprefixed]
    rfl
  unfold rcmdOp
  rw [bind_ok port, stopIf_bind good, bind_ok named, bind_ok block, bind_ok none']

/-- A governable word that sends one message keeps it as every send is kept (R111, R219). -/
theorem sendsKept_of_govA {i : Instr} {s : State} {dest : Nat} {ws : List Word} (seven : ws.length = 7) (able : CanSend s)
    (run : ∀ t, sendMessage dest 0 0 1 ws s = .ok ((), t) → exec i s = .next (endGovA t)) :
    SendsKept i s s (.msg dest ((0x0071 : BitVec 16) ++ nextStamp s) ws) 1 := by
  obtain ⟨it, t, e, sent, op, src, id, lies, goes, item, kind, kept, mem, copy⟩ := sendMessage_ok dest 0 0 1 ws able
  rw [mkHeader_rcmd seven] at op
  have ends := endGovA_retires t
  have slot : curSlot (endGovA t) = ((curSlot t).consumeA).retireA false .next := ends.slot
  rw [(curSlot t).consumeA_eq] at slot
  have home : curHart t = curHart s := goes.curHart
  refine ⟨endGovA t, it, e, run t sent, op, src, id, ?_, ?_, item, kind, kept, ?_, ?_, ?_, ?_, ?_, ?_, ?_⟩
  · rw [← home, ends.commit, ends.net, home]
    exact lies
  · rw [slot]
    exact mem
  · rw [← home, ends.copies, home]
    exact copy
  · have launch : curLaunch (endGovA t) = curLaunch t := by
      rw [curLaunch, slot]
      rfl
    rw [← goes.sseq, curCtx, ends.curHart, launch, ends.ctx]
    rfl
  · rw [slot]
    simp only [Slot.retireA]
    rw [goes.slot]
  · rw [slot]
    rfl
  · rw [slot]
    simp only [Slot.retireA]
    rw [goes.slot]
  · rw [slot]
    simp only [Slot.retireA]
    rw [goes.slot]
  · refine ends.sameMemory ⟨fun h L b => by rw [goes.scratch], fun b => ?_, fun b => ?_⟩ <;> rw [goes.rest]

section Commands

variable {s : State} (ready : AReady s)
include ready

theorem mxqRcmd_sends {first : BitVec 5} {x : ARegZ} {p : Word} {dest : Nat} {ws : List Word} (port : readAReg x s = .ok (p, s))
    (good : ¬ (spaceOf p ≠ 7 ∨ indexOf p < 0xb0000 ∨ 0xb0000 + Config.nClusters ≤ indexOf p)) (named : portDest p s = .ok (dest, s))
    (block : readBlock first.toNat 7 s = .ok (ws, s)) (able : CanSend s) :
    SendsKept (.mxqRcmd first x) s s (.msg dest ((0x0071 : BitVec 16) ++ nextStamp s) ws) 1 :=
  sendsKept_of_govA (length_readBlock block) able fun _ sent =>
    govA_ok ready ((rcmdOp_send ready.2.2.2.2.2 port good named block).trans sent)

theorem cpRcmdOp_eq (first : BitVec 5) (x : ARegZ) : cpRcmdOp first x s = rcmdOp 0xc4000 first x s := by
  have none' : prefixA s = .ok (none, s) := by
    rw [← ready.2.2.2.2.2]
    rfl
  unfold cpRcmdOp
  rw [bind_ok none']
  exact stopIf_bind (by decide) _ _ _

theorem cpqRcmd_sends {first : BitVec 5} {x : ARegZ} {p : Word} {dest : Nat} {ws : List Word} (port : readAReg x s = .ok (p, s))
    (good : ¬ (spaceOf p ≠ 7 ∨ indexOf p < 0xc4000 ∨ 0xc4000 + Config.nClusters ≤ indexOf p)) (named : portDest p s = .ok (dest, s))
    (block : readBlock first.toNat 7 s = .ok (ws, s)) (able : CanSend s) :
    SendsKept (.cpqRcmd first x) s s (.msg dest ((0x0071 : BitVec 16) ++ nextStamp s) ws) 1 :=
  sendsKept_of_govA (length_readBlock block) able fun _ sent =>
    govA_ok ready (((cpRcmdOp_eq ready first x).trans (rcmdOp_send ready.2.2.2.2.2 port good named block)).trans sent)

/-- A prefix before cpq.rcmd (R298). -/
theorem cpqRcmd_prefixed {first : BitVec 5} {x : ARegZ} {w : BitVec 32} {t : State} (fmt : isFmtA w = true)
    (prefixed : t = putCur s { curSlot s with aPrefix := some w }) :
    exec (.cpqRcmd first x) t = .next (takeTrap t t .aSide ⟨codeReserved, 0x0e6, 0⟩) := by
  obtain ⟨core, running, slip, awake, stall, _⟩ := ready
  have slot : curSlot t = { curSlot s with aPrefix := some w } := prefixed ▸ curSlot_putCur _ _
  have calm : pairStall t = false := by
    rw [← stall, pairStall, pairStall, slot, prefixed]
    simp only [curHart_putCur, hartOf_putCur]
    rfl
  have free : holdA t = none := by
    have room : ¬ 64 ≤ (curSlot t).path.length := by rw [slot]; exact Nat.not_le.mpr slip
    have wakes : (curSlot t).sleeping = false := by rw [slot]; exact awake
    simp [holdA, room, wakes, calm]
  have governs : ((curSlot t).aPrefix.bind fun p => misuse (isFmtA p) .governable) = none := by
    rw [slot]
    simp [misuse, fmt]
  have refuses : cpRcmdOp first x t = .error (.trap ⟨codeReserved, 0x0e6, 0⟩ none) := by
    have some' : prefixA t = .ok (some w, t) := by
      have stands : (curSlot t).aPrefix = some w := by rw [slot]
      rw [← stands]
      rfl
    unfold cpRcmdOp
    rw [bind_ok some']
    exact stopIf_bind_stop rfl rfl _
  have run : (do cpRcmdOp first x; return .next : Op Flow) t = .error (.trap ⟨codeReserved, 0x0e6, 0⟩ none) := bind_error refuses
  have here : curHart t < Config.nHarts := by rw [prefixed]; exact core
  have runs : (curSlot t).running = true := by rw [slot]; exact running
  show wordA false .governable (do cpRcmdOp first x; return .next) t = _
  unfold wordA stepA
  rw [onSlot_next _ here runs]
  simp only [free, governs, run]
  rfl

end Commands

/-! ## Polls and sleeps (R124, R125, R297) -/

theorem firstBy_mem {α : Type} {lt : α → α → Bool} {xs : List α} {x : α} (e : firstBy lt xs = some x) : x ∈ xs := by
  induction xs generalizing x with
  | nil => cases e
  | cons y ys ih =>
    simp only [firstBy] at e
    cases first : firstBy lt ys with
    | none =>
      simp only [first, Option.some.injEq] at e
      exact e ▸ List.mem_cons_self
    | some z =>
      simp only [first] at e
      split at e
      · exact List.mem_cons_of_mem _ (ih (first.trans e))
      · exact (Option.some.inj e) ▸ List.mem_cons_self

theorem firstBy_eq_none {α : Type} {lt : α → α → Bool} {xs : List α} : firstBy lt xs = none ↔ xs = [] := by
  refine ⟨fun e => ?_, fun e => e ▸ rfl⟩
  cases xs with
  | nil => rfl
  | cons y ys =>
    simp only [firstBy] at e
    split at e
    · split at e <;> cases e
    · cases e

/-- The first of a list under an order is a member that stands before every other. -/
theorem firstBy_eq {α : Type} {lt : α → α → Bool} {xs : List α} {x : α} (mem : x ∈ xs)
    (before : ∀ y ∈ xs, y = x ∨ (lt x y = true ∧ lt y x = false)) : firstBy lt xs = some x := by
  induction xs with
  | nil => cases mem
  | cons y ys ih =>
    have later : ∀ z ∈ ys, z = x ∨ (lt x z = true ∧ lt z x = false) := fun z hz => before z (List.mem_cons_of_mem _ hz)
    by_cases inTail : x ∈ ys
    · simp only [firstBy, ih inTail later]
      obtain rfl | ⟨first, _⟩ := before y List.mem_cons_self
      · split <;> rfl
      · rw [if_pos first]
    · obtain rfl : x = y := (List.mem_cons.mp mem).resolve_right inTail
      cases first : firstBy lt ys with
      | none => simp only [firstBy, first]
      | some z =>
        obtain rfl | ⟨_, after⟩ := later z (firstBy_mem first)
        · exact absurd (firstBy_mem first) inTail
        · simp only [firstBy, first, after, Bool.false_eq_true, if_false]

section States

variable {C : Cluster} {e : Engine} {id : Nat}

theorem Cluster.stateOf_unnamed (none' : ∀ j, (id, j) ∉ C.named e) :
    C.stateOf e id = if (C.nextOf e).toNat = id then 3 else 2 := by
  have empty : C.entryOf e id = none := firstBy_eq_none.mpr <| List.filter_eq_nil_iff.mpr fun x mem same => by
    have number : x.1 = id := by simpa using same
    exact none' x.2 (number ▸ mem)
  simp only [Cluster.stateOf, empty]

theorem Cluster.stateOf_newest {j : Job} (named : (id, j) ∈ C.named e)
    (newest : ∀ j', (id, j') ∈ C.named e → j' = j ∨ j'.num < j.num) : C.stateOf e id = if j.started then 1 else 0 := by
  have entry : C.entryOf e id = some (id, j) := by
    refine firstBy_eq (List.mem_filter.mpr ⟨named, by simp⟩) fun x mem => ?_
    obtain ⟨listed, same⟩ := List.mem_filter.mp mem
    have number : x.1 = id := by simpa using same
    obtain ⟨k, j'⟩ := x
    subst number
    rcases newest j' listed with rfl | older
    · exact .inl rfl
    · exact .inr ⟨by simpa using older, by simpa using older.le⟩
  simp only [Cluster.stateOf, entry]

theorem Cluster.stateOf_named {j : Job} (named : (id, j) ∈ C.named e) : C.stateOf e id < 2 := by
  cases entry : C.entryOf e id with
  | none =>
    have empty := firstBy_eq_none.mp entry
    have mem : (id, j) ∈ (C.named e).filter fun x => x.1 == id := List.mem_filter.mpr ⟨named, by simp⟩
    rw [empty] at mem
    cases mem
  | some x =>
    simp only [Cluster.stateOf, entry]
    split <;> decide

end States

/-- An access in order at issue leaves the memories and the slot alone, and what the engines hold (R99). -/
theorem inOrder_sameMemory {d : OpDesc} {s u : State} (e : inOrder d s = .ok ((), u)) : SameMemory s u := by
  obtain ⟨ids, gs, rfl⟩ := inOrder_ok e
  have ctxs (h : Nat) : (hartOf { makeSure s (curHart s) ids with guards := gs } h).ctxs = (hartOf s h).ctxs := by
    show (hartOf (makeSure s (curHart s) ids) h).ctxs = _
    unfold makeSure
    split
    · rfl
    · exact hartOf_putHart_keeps (·.ctxs) (by rfl) h
  have cores := makeSure_coresOnly s (curHart s) ids
  refine ⟨fun h L a => by rw [ctxOf_congr (ctxs h)], fun a => ?_, fun a => ?_⟩
  · show Memory.read (makeSure s (curHart s) ids).hbm a = _
    rw [cores]
  · show Memory.read (makeSure s (curHart s) ids).hostMem a = _
    rw [cores]

theorem inOrder_mine {d : OpDesc} {s u : State} (e : inOrder d s = .ok ((), u)) : clusterOf u (curCluster u) = mine s := by
  have cores := inOrder_coresOnly e
  have home := (inOrder_slotsKept e).curHart
  rw [mine, curCluster, curCluster, home]
  simp only [clusterOf]
  rw [cores]

theorem toNat_mod_256 (v : Word) : v.toNat % 256 = (v.extractLsb' 0 8).toNat := (toNat_extractLow v 8).symm

theorem needEngine_ok {s : State} (mesh : isCompute (curHart s) = true) : needEngine s = .ok ((), s) :=
  (get_bind _ s).trans (stopIf_ok (by simp [mesh]))

/-- What a KIND 3 entry adds to the identifier of a job: which engine holds it (R28, R125). -/
def engineBase : Engine → Nat
  | .mxe => 0
  | .cpe => 256

section Polls

variable {s u : State} (ready : AReady s) (mesh : isCompute (curHart s) = true) (passed : inOrder (pollDesc s) s = .ok ((), u))
  {x : ARegZ} {v : Word} (operand : readAReg x s = .ok (v, s))
include mesh passed operand

theorem sleepOp_passed (e : Engine) :
    sleepOp e x s = (if (mine s).stateOf e (v.extractLsb' 0 8).toNat < 2 then do
      needSb 1
      modState fun t => { t with nextId := t.nextId + 1 }
      addSb (SbEntry.plain u.nextId 3 (BitVec.ofNat 50 (engineBase e + (v.extractLsb' 0 8).toNat)))
    else pure () : Op Unit) u := by
  unfold sleepOp
  rw [bind_ok (needEngine_ok mesh), bind_ok operand]
  refine (get_bind _ s).trans ?_
  rw [bind_ok passed, get_bind, inOrder_mine passed, toNat_mod_256]
  cases e
  · rw [engineBase, Nat.zero_add]
  · rfl

include ready

theorem pollOp_writes (e : Engine) (d : ADst) {t : State}
    (written : writeA d (BitVec.ofNat 64 ((mine s).stateOf e (v.extractLsb' 0 8).toNat)) u = .ok ((), t)) :
    plainA (pollOp e d x) s = .next (endA false t) := by
  refine plainA_ok ready ?_
  unfold pollOp
  rw [bind_ok (needEngine_ok mesh), bind_ok operand]
  refine (get_bind _ s).trans ?_
  rw [bind_ok passed, get_bind, inOrder_mine passed, toNat_mod_256]
  exact written

theorem sleepOp_goesOn (e : Engine) (ended : 2 ≤ (mine s).stateOf e (v.extractLsb' 0 8).toNat) :
    plainA (sleepOp e x) s = .next (endA false u) := by
  refine plainA_ok ready ?_
  rw [sleepOp_passed mesh passed operand, if_neg (Nat.not_lt.mpr ended)]
  rfl

/-- A sleep on a job that has not ended leaves its entry, behind which the A-side sleeps. -/
theorem sleepOp_sleeps (e : Engine) (live : (mine s).stateOf e (v.extractLsb' 0 8).toNat < 2) (room : (curSlot s).sb.length < 16) :
    ∃ (t : State) (b : SbEntry), plainA (sleepOp e x) s = .next t ∧ (curSlot t).sb = (curSlot s).sb ++ [b] ∧ b.kind = 3 ∧
      b.refused = false ∧ b.info = BitVec.ofNat 50 (engineBase e + (v.extractLsb' 0 8).toNat) ∧ (curSlot t).pc = (curSlot s).pc + 1 ∧ SameMemory s t := by
  have kept : curSlot u = curSlot s := (inOrder_slotsKept passed).curSlot
  obtain ⟨b, hb, added⟩ := addSb_ok (SbEntry.plain u.nextId 3 (BitVec.ofNat 50 (engineBase e + (v.extractLsb' 0 8).toNat)))
    { u with nextId := u.nextId + 1 }
  have run : sleepOp e x s = .ok ((), putCur { u with nextId := u.nextId + 1 } ((curSlot u).addEntry b)) := by
    rw [sleepOp_passed mesh passed operand, if_pos live, bind_ok (needSb_ok (kept ▸ room)), modState_bind]
    exact added
  have ends := endA_retires (putCur { u with nextId := u.nextId + 1 } ((curSlot u).addEntry b))
  have slot : curSlot (endA false (putCur { u with nextId := u.nextId + 1 } ((curSlot u).addEntry b))) =
      ((curSlot s).addEntry b).retireA false .next := by rw [ends.slot, curSlot_putCur, kept]
  refine ⟨_, b, plainA_ok ready run, by rw [slot]; rfl, by rw [hb]; rfl, by rw [hb]; rfl, by rw [hb]; rfl, by rw [slot]; rfl, ends.sameMemory ?_⟩
  · obtain ⟨scratch, hbm, host⟩ := inOrder_sameMemory passed
    exact ⟨fun h L a => by rw [ctxOf_putCur]; exact scratch h L a, hbm, host⟩

end Polls

/-- Settles O44: polls and sleeps by what the identifier names, and remote commands by their port. -/
theorem pollsSleepsAndRemoteCommands : Obligations.PollsSleepsAndRemoteCommands := by
  unfold Obligations.PollsSleepsAndRemoteCommands
  intro s ready
  refine ⟨fun e u mesh passed x v operand => ?_, fun e first x p dest ws port => ?_, fun first x w t fmt prefixed =>
    cpqRcmd_prefixed ready fmt prefixed⟩
  · intro poll sleep named
    have polls (d : ADst) : WritesA (poll d) s u d (BitVec.ofNat 64 ((mine s).stateOf e (v.extractLsb' 0 8).toNat)) := by
      intro t written
      cases e <;> exact pollOp_writes ready mesh passed operand _ d written
    have sleeps : exec sleep s = plainA (sleepOp e x) s := by cases e <;> rfl
    refine ⟨fun d => ⟨_, polls d, fun none' => ?_, fun j mem newest => ?_⟩, fun none' => ?_, fun j mem room => ?_⟩
    · rw [Cluster.stateOf_unnamed none']
      simp only [BitVec.toNat_inj]
      split <;> rfl
    · rw [Cluster.stateOf_newest mem newest]
      split <;> rfl
    · refine sleeps.trans (sleepOp_goesOn ready mesh passed operand e ?_)
      rw [Cluster.stateOf_unnamed none']
      split <;> decide
    · rw [sleeps]
      have entered := sleepOp_sleeps ready mesh passed operand e (Cluster.stateOf_named mem) room
      cases e <;> exact entered
  · intro lo rcmd
    refine ⟨fun bad => ?_, fun space above below named block able header stamp => ?_⟩
    · cases e with
      | mxe => exact govA_trap ready (rcmdOp_bounds port bad)
      | cpe => exact govA_trap ready ((cpRcmdOp_eq ready first x).trans (rcmdOp_bounds port bad))
    · have good : ¬ (spaceOf p ≠ 7 ∨ indexOf p < lo ∨ lo + Config.nClusters ≤ indexOf p) := by
        rintro (h | h | h)
        · exact h space
        · exact absurd above (Nat.not_le.mpr h)
        · exact absurd below (Nat.not_lt.mpr h)
      subst stamp
      cases e with
      | mxe => exact mxqRcmd_sends ready port good named block able
      | cpe => exact cpqRcmd_sends ready port good named block able

end Sys2Proof.Machine
end

section
/-! SUPPORT. Copy commands as they run, and jobs as they are accepted, finish and report (spec/02 R33, spec/05 R94 to R96, spec/07 R122
to R128, spec/17 R299, R300). -/

namespace Sys2Proof.Machine

open Sys2Proof.Claims

theorem upFrom_eq (lo n : Nat) : upFrom lo n = List.range' lo n := by
  induction n generalizing lo with
  | zero => rfl
  | succ n ih => rw [upFrom, List.range'_succ, ih]

theorem upFrom_zero (n : Nat) : upFrom 0 n = List.range n := by rw [upFrom_eq, List.range_eq_range']

/-! ## The command that may run (R95, R123, R128) -/

section Commands

variable {s : State} {c : Nat} {q : Fin 4} {j : Job} (runs : runnable s c q = some j) (free : engineHeld s j.own = false)
  (goes : commandHeld s (jobLaunch s j) j = false)

theorem runCommand_none (ops : Nat → Bool) (f : State → Nat → Job → State) (idle : runnable s c q = none) :
    runCommand c q ops f s = s := by
  simp only [runCommand, idle]

include runs

theorem runCommand_other {ops : Nat → Bool} (f : State → Nat → Job → State) (other : ops j.cpOp = false) :
    runCommand c q ops f s = s := by
  simp only [runCommand, runs, other, Bool.not_false, Bool.true_or, if_true]

include free goes

theorem runCommand_unowned {ops : Nat → Bool} (f : State → Nat → Job → State) (own : ops j.cpOp = true) {p : Word}
    (foreign : commandUnowned s (jobLaunch s j) j = some p) : runCommand c q ops f s = retryCommand s c j p := by
  simp only [runCommand, runs, own, free, goes, foreign, Bool.not_true, Bool.or_false, Bool.false_eq_true, if_false]

theorem runCommand_refused {ops : Nat → Bool} (f : State → Nat → Job → State) (own : ops j.cpOp = true) {x : FaultInfo}
    (granules : j.cpOp ≠ 4) (owned' : commandUnowned s (jobLaunch s j) j = none)
    (refused : commandRefused s (jobLaunch s j) j = some x) : runCommand c q ops f s = failCommand s c j x := by
  simp only [runCommand, runs, own, free, goes, owned', granules, refused, Bool.not_true, Bool.or_false, Bool.false_eq_true, if_false]

theorem runCommand_runs {ops : Nat → Bool} (f : State → Nat → Job → State) (own : ops j.cpOp = true)
    (owned' : commandUnowned s (jobLaunch s j) j = none)
    (accepted : j.cpOp = 4 ∨ commandRefused s (jobLaunch s j) j = none) : runCommand c q ops f s = f s (jobLaunch s j) j := by
  have passes : (if j.cpOp = 4 then none else commandRefused s (jobLaunch s j) j) = none := by
    obtain barrier | granules := accepted
    · exact if_pos barrier
    · rw [granules, ite_self]
  simp only [runCommand, runs, own, free, goes, owned', passes, Bool.not_true, Bool.or_false, Bool.false_eq_true, if_false]

end Commands

theorem retryCommand_first {s : State} {c : Nat} {j : Job} {p : Word} (first : j.tried = none) :
    retryCommand s c j p = setCommand s c { j with tried := some s.cycle } := by
  simp only [retryCommand, first]

theorem retryCommand_again {s : State} {c since : Nat} {j : Job} {p : Word} (again : j.tried = some since) :
    retryCommand s c j p = if since + 65536 ≤ s.cycle then failCommand s c j ⟨codeBounds, 0x0b2, p⟩ else s := by
  simp only [retryCommand, again]

/-- The events that run copy commands, and the operations that each runs. -/
theorem commandEvent {i : Instr} {c : Nat} {q : Fin 4} {j : Job}
    (h : (j.cpOp = 0 ∧ i = .cpeCopyJob c q) ∨ (j.cpOp = 5 ∧ i = .cpeFillJob c q) ∨ (j.cpOp ∈ [1, 2, 3] ∧ i = .cpeReduceJob c q)) :
    ∃ ops f, ops j.cpOp = true ∧ ∀ s, exec i s = .next (runCommand c q ops f s) := by
  rcases h with ⟨op, rfl⟩ | ⟨op, rfl⟩ | ⟨op, rfl⟩
  · exact ⟨_, _, by rw [op]; rfl, fun _ => rfl⟩
  · exact ⟨_, _, by rw [op]; rfl, fun _ => rfl⟩
  · refine ⟨reduces, _, ?_, fun _ => rfl⟩
    simp only [List.mem_cons, List.not_mem_nil, or_false] at op
    rcases op with op | op | op <;> rw [op] <;> rfl

theorem reduces_of_mem {op : Nat} (h : op ∈ [1, 2, 3]) : reduces op = true := by
  simp only [List.mem_cons, List.not_mem_nil, or_false] at h
  rcases h with rfl | rfl | rfl <;> rfl

theorem runFill_eq (c : Nat) (s : State) (L : Nat) (j : Job) :
    runFill c s L j = setCommand ((List.range (granCount j)).foldl (fun t i =>
      granWrite t L j (granAt (j.word 1) i) (List.replicate 8 (leBytes (j.word 0).toNat 8)).flatten) s) c (j.finish none) := by
  rw [← upFrom_zero]
  rfl

theorem runReduce_ordered {c : Nat} {s : State} {L : Nat} {j : Job} (ordered : inSequence s j = false) :
    runReduce c s L j = setCommand ((List.range (granCount j)).foldl (reduceGranule L j) s) c (j.finish none) := by
  rw [← upFrom_zero, runReduce, ordered]
  rfl

theorem runReduce_sequenced {c : Nat} {s : State} {L : Nat} {j : Job} (sequence : inSequence s j = true) :
    runReduce c s L j = sendSequenced c s L j := by
  rw [runReduce, sequence]
  rfl

/-! ## Parts of sequenced commands (R96) -/

theorem harts_hbmWrite (s : State) (a : Nat) (bs : List Byte) : (hbmWrite s a bs).harts = s.harts := by
  unfold hbmWrite
  extract_lets put t
  have bytes : t.harts = s.harts :=
    List.foldlRecOn (motive := fun t => t.harts = s.harts) _ put rfl fun t h p _ => show (put t p).harts = s.harts from h
  split <;> exact bytes

theorem harts_llcRoom (s : State) (line : Nat) : (llcRoom s line).harts = s.harts := by
  unfold llcRoom
  extract_lets ls
  split
  · rfl
  · split <;> rfl

theorem harts_extentWrite (s : State) (e : Extent) (off : Nat) (bs : List Byte) (tag : BitVec 16) :
    (extentWrite s e off bs tag).harts = s.harts := by
  unfold extentWrite
  split
  · rfl
  · exact (harts_llcRoom _ _).trans (harts_hbmWrite s _ bs)

theorem harts_applyPiece (L op : Nat) (s : State) (g : Word × List Byte) : (applyPiece L op s g).harts = s.harts := by
  unfold applyPiece
  split
  · exact harts_extentWrite s _ _ _ _
  · rfl

theorem noteRefusal_eq (s : State) (c job : Nat) (f : FaultInfo) :
    noteRefusal s c job f = { s with clusters := (noteRefusal s c job f).clusters, fresh := (noteRefusal s c job f).fresh } := by
  unfold noteRefusal
  split <;> rfl

theorem settleSequenced_eq (s : State) (c job : Nat) :
    settleSequenced s c job = { s with clusters := (settleSequenced s c job).clusters } := by
  unfold settleSequenced
  extract_lets held
  split
  · rfl
  · split <;> rfl

theorem takePart_one (s : State) (L c job op : Nat) (g : Word × List Byte) :
    (takePart s L c job op [g]).harts = s.harts ∧
      (partRefused s L [g] = none → (takePart s L c job op [g]).hbm = (applyPiece L op s g).hbm) ∧
      (partRefused s L [g] ≠ none → (takePart s L c job op [g]).hbm = s.hbm) := by
  unfold takePart
  cases partRefused s L [g] with
  | some f =>
    refine ⟨?_, nofun, fun _ => ?_⟩
    · show (noteRefusal s c job f).harts = _
      rw [noteRefusal_eq]
    · show (noteRefusal s c job f).hbm = _
      rw [noteRefusal_eq]
  | none => exact ⟨harts_applyPiece L op s g, fun _ => rfl, fun h => absurd rfl h⟩

/-- The expected part, where none is held behind it. -/
theorem applySequenced_one {h L k : Nat} {it : NetItem} {s : State} {c job op : Nat} {seq : BitVec 16} {h' : Nat}
    {g : Word × List Byte} (part : it.op = .seqReduce c job op seq h' [g]) (none' : (ctxOf s h L).seqHeld = []) :
    applySequenced h L k 1 it s = settleSequenced (putCtx (takePart s L c job op [g]) h
      { ctxOf s h L with seqNext := SMap.set k (seq + 1) (ctxOf s h L).seqNext }) c job := by
  have same : ctxOf (takePart s L c job op [g]) h L = ctxOf s h L :=
    ctxOf_congr (by rw [hartOf, hartOf, (takePart_one s L c job op g).1]) L
  simp only [applySequenced, part, same, none', List.find?_nil, List.filter_nil]

section Parts

variable {s t : State} {k c job op h : Nat} {it : NetItem} {seq : BitVec 16} {g : Word × List Byte} (item : s.net[k]? = some it)
  (taken : t = { s with net := removeAt k s.net }) (part : it.op = .seqReduce c job op seq h [g])
  (stays : ∀ e, extentOf s it.src.launch g.1 = some e → e.host = true ∨ pageHeld s (e.base + extOff g.1) = false)
include item taken part stays

theorem sequencedArrive_eq :
    exec (.sequencedReduceArrival k) s = .next (
      let x := ctxOf t h it.src.launch
      let d := (seq - SMap.getD x.seqNext (extOf g.1) 0).toNat
      if d = 0 then applySequenced h it.src.launch (extOf g.1) (x.seqHeld.length + 1) it t
      else if d < 2 ^ 15 then putCtx t h { x with seqHeld := x.seqHeld ++ [it] }
      else settleSequenced t c job) := by
  have takes : takeNet s k = some (it, t) := by simp only [takeNet, item, taken]
  have passes : partHeld s it.src.launch [g] = false := by
    have unheld : granHeld s it.src.launch g.1 = false := by
      cases found : extentOf s it.src.launch g.1 with
      | none => simp [granHeld, found]
      | some e => rcases stays e found with host | page <;> simp [granHeld, *]
    simp [partHeld, unheld]
  show Host.Outcome.next (match takeNet s k with
    | some (it, t) => sequencedArrive s t it
    | none => s) = _
  rw [takes]
  simp only [sequencedArrive, part, passes]
  rfl

theorem sequencedArrive_expected (expected : seq = SMap.getD (ctxOf t h it.src.launch).seqNext (extOf g.1) 0)
    (none' : (ctxOf t h it.src.launch).seqHeld = []) :
    ∃ u, exec (.sequencedReduceArrival k) s = .next u ∧ SMap.getD (ctxOf u h it.src.launch).seqNext (extOf g.1) 0 = seq + 1 ∧
      (partRefused t it.src.launch [g] = none → u.hbm = (applyPiece it.src.launch op t g).hbm) ∧
      (partRefused t it.src.launch [g] ≠ none → u.hbm = t.hbm) := by
  have first : (seq - SMap.getD (ctxOf t h it.src.launch).seqNext (extOf g.1) 0).toNat = 0 := by
    rw [← expected, BitVec.sub_self]
    rfl
  have arrives := sequencedArrive_eq item taken part stays
  simp only [first, if_true, none', List.length_nil, Nat.zero_add, applySequenced_one part none'] at arrives
  obtain ⟨-, applied, refused⟩ := takePart_one t it.src.launch c job op g
  refine ⟨_, arrives, ?_, fun ok => ?_, fun bad => ?_⟩
  · rw [settleSequenced_eq]
    show SMap.getD (ctxOf (putCtx _ h _) h it.src.launch).seqNext _ 0 = _
    rw [ctxOf_putCtx_same (by exact ctxOf_launch ..)]
    exact SMap.getD_set_same _ _ _ _
  · rw [settleSequenced_eq]
    exact applied ok
  · rw [settleSequenced_eq]
    exact refused bad

end Parts

/-! ## Acceptance (R122) -/

section Accept

variable {s : State} {c : Nat} {e : Engine}

theorem acceptRequest_idle (idle : (clusterOf s c).offer e s.cycle = none ∨ (clusterOf s c).acceptedAt e = some s.cycle) :
    acceptRequest c e s = s := by
  unfold acceptRequest
  extract_lets C
  split
  · rfl
  · next open' =>
    have none' : C.offer e s.cycle = none := idle.resolve_right fun h => open' (by simp [C, h])
    rw [none']

/-- A governable word whose prefix, if it has one, is the A-side's, and which succeeds (R219, R220). -/
theorem stepA_governed {t : State} {op : Op Flow} (gov : AGov s) (e : op s = .ok (.next, t)) :
    stepA false .governable op s = endGovA t := by
  obtain ⟨_, _, slip, awake, stall, fmt⟩ := gov
  have free : holdA s = none := by simp [holdA, awake, stall, Nat.not_le.mpr slip]
  have governs : ((curSlot s).aPrefix.bind fun p => misuse (isFmtA p) .governable) = none := by
    cases stands : (curSlot s).aPrefix with
    | none => rfl
    | some w => simp [misuse, fmt w stands]
  unfold stepA
  simp only [free, governs, e]
  rw [if_neg nofun]
  rfl

theorem setReqs_nextOf (C : Cluster) (e : Engine) (rs : List Request) : (C.setReqs e rs).nextOf e = C.nextOf e := by
  cases e <;> rfl

/-- Whether a job is refused for its destination does not depend on the requests that stand. -/
theorem refusedOverlap_setReqs (s : State) (c : Nat) (e e' : Engine) (rs : List Request) (j : Job) :
    refusedOverlap (putCluster s c ((clusterOf s c).setReqs e rs)) e' j = refusedOverlap s e' j := by
  cases e' with
  | mxe => rfl
  | cpe =>
    show copyOverlap _ j = copyOverlap s j
    unfold copyOverlap
    by_cases own : clusterOfCore j.own = c
    · subst own
      rw [clusterOf_putCluster_same]
      cases e <;> rfl
    · rw [clusterOf_putCluster_other _ _ _ _ own]
      rfl

/-- The request of a slot that may go on, offered and not refused: its job is queued and D takes the identifier. -/
theorem acceptHere_ok {s t : State} {j : Job} {d : ADst} (free : refusedOverlap s e j = false)
    (plain : e = .mxe → j.op < 4 ∨ j.op = 8)
    (written : writeA d (((clusterOf s (curCluster s)).nextOf e).zeroExtend 64) (putCluster s (curCluster s)
      ((clusterOf s (curCluster s)).accept e (posInCluster (curHart s)) s.cycle j)) = .ok ((), t)) :
    acceptHere e j d .z s = .ok ((), t) := by
  have takes : takesId e j = true := by
    cases e with
    | mxe =>
      have := plain rfl
      simp only [takesId, bne_iff_ne]
      omega
    | cpe => rfl
  have walks : (e == .mxe && decide (4 ≤ j.op) && decide (j.op ≤ 7)) = false := by
    cases e with
    | mxe =>
      have := plain rfl
      simp
      omega
    | cpe => rfl
  unfold acceptHere
  simp only [ne_eq, not_true_eq_false, if_false, get_bind, takes, walks, if_true, Bool.false_eq_true]
  rw [stopIf_bind (by simp [free]), modState_bind, bind_ok written]
  rfl

theorem acceptRequest_offered {r : Request} {src : Issuer} {t : State} (offered : (clusterOf s c).offer e s.cycle = some r)
    (turn : (clusterOf s c).acceptedAt e ≠ some s.cycle) (form : r.data = .z) (slot : r.job.rep = .slot src)
    (home : clusterOfCore src.hart = c) (gov : AGov { s with cur := (src.hart, src.slot, .aSide) })
    (free : refusedOverlap s e r.job = false) (plain : e = .mxe → r.job.op < 4 ∨ r.job.op = 8)
    (written :
      let v := putCluster { s with cur := (src.hart, src.slot, .aSide) } c
        ((clusterOf s c).setReqs e (((clusterOf s c).reqs e).filter fun q => !q.from src))
      writeA r.dst (((clusterOf s c).nextOf e).zeroExtend 64)
        (putCluster v c ((clusterOf v c).accept e (posInCluster src.hart) s.cycle r.job)) = .ok ((), t)) :
    acceptRequest c e s = { endGovA t with cur := s.cur } := by
  subst home
  extract_lets v at written
  have own : refusedOverlap v e r.job = false :=
    (refusedOverlap_setReqs { s with cur := (src.hart, src.slot, .aSide) } _ e e _ r.job).trans free
  have next : (clusterOf v (clusterOfCore src.hart)).nextOf e = (clusterOf s (clusterOfCore src.hart)).nextOf e := by
    rw [clusterOf_putCluster_same]
    exact setReqs_nextOf _ _ _
  have accepted : acceptHere e r.job r.dst r.data v = .ok ((), t) := by
    rw [form]
    refine acceptHere_ok own plain ?_
    show writeA r.dst (((clusterOf v (clusterOfCore src.hart)).nextOf e).zeroExtend 64) _ = _
    rw [next]
    exact written
  have run : (do
      modState fun t => putCluster t (clusterOfCore src.hart) ((clusterOf t (clusterOfCore src.hart)).setReqs e
        (((clusterOf t (clusterOfCore src.hart)).reqs e).filter fun q => !q.from src))
      acceptHere e r.job r.dst r.data
      return .next : Op Flow) { s with cur := (src.hart, src.slot, .aSide) } = .ok (.next, t) := by
    rw [modState_bind]
    exact bind_ok accepted
  unfold acceptRequest
  rw [if_neg (by simpa using turn), offered]
  simp only [slot, asSlot]
  rw [stepA_governed gov run]

end Accept

/-! ## Completion (R94, R126) -/

section Reports

variable {s : State} {c k : Nat} {j : Job}

theorem reportJob_slot {t : State} {e : Engine} {id : Nat} {named : Bool} {src : Issuer} (slot : j.rep = .slot src)
    (f : Option FaultInfo) :
    reportJob t c e id named j f =
      let w := if named then wakeSleepers t c e id else t
      match f with
      | some x => lateFault w src none x
      | none => w := by
  cases f <;> simp only [reportJob, slot]

theorem completeJob_mxe {f : Option FaultInfo} (listed : (clusterOf s c).jobs[k]? = some j) (done : j.done = some f)
    (first : firstReport s (clusterOf s c).jobs = some j) :
    completeJob c .mxe k s =
      reportJob (putCluster s c { clusterOf s c with jobs := removeAt k (clusterOf s c).jobs }) c .mxe j.id (j.op != 9) j f := by
  simp only [completeJob, listed, done, first, if_true]

theorem completeJob_later (listed : (clusterOf s c).jobs[k]? = some j) (later : firstReport s (clusterOf s c).jobs ≠ some j) :
    completeJob c .mxe k s = s := by
  simp only [completeJob, listed, later, if_false]
  cases j.done <;> rfl

theorem completeJob_cpe {f : Option FaultInfo} (listed : ((clusterOf s c).cpq.toList.flatMap id)[k]? = some j) (done : j.done = some f)
    (first : firstReport s (clusterOf s c).cpq[j.cpQueue] = some j) :
    completeJob c .cpe k s =
      reportJob (putCluster s c { clusterOf s c with cpq := (clusterOf s c).cpq.set j.cpQueue ((clusterOf s c).cpq[j.cpQueue].erase j) })
        c .cpe j.cpId true j f := by
  simp only [completeJob, listed, done, first, if_true]

end Reports

/-- After a completion no slot of the cluster holds an entry for a sleep on the job (R125). -/
theorem wakeSleepers_wakes {s : State} {c h n id : Nat} {x : SbEntry} (mesh : isCompute h = true) (home : clusterOfCore h = c)
    (mem : x ∈ (slotOf (wakeSleepers s c .mxe id) h n).sb) (sleep : x.kind = 3) : x.info ≠ BitVec.ofNat 50 id := by
  unfold wakeSleepers at mem
  extract_lets info t wake at mem
  have woken : t.harts.map (fun p => if isCompute p.1 && clusterOfCore p.1 == c then (p.1, { p.2 with slots := p.2.slots.map wake }) else p) =
      t.harts.map fun p => (p.1, if isCompute p.1 && clusterOfCore p.1 == c then { p.2 with slots := p.2.slots.map wake } else p.2) := by
    refine List.map_congr_left fun p _ => ?_
    split <;> rfl
  rw [woken] at mem
  simp only [slotOf, hartOf, SMap.getD, SMap.find_map] at mem
  cases found : SMap.find h t.harts with
  | none =>
    simp only [found, Option.map_none, Option.getD_none] at mem
    rw [Hart.slot_reset] at mem
    cases mem
  | some H =>
    simp only [found, Option.map_some, Option.getD_some, mesh, home, beq_self_eq_true, Bool.and_self, if_true, Hart.slot, Vector.getElem_map] at mem
    have kept := (List.mem_filter.mp mem).2
    simp only [sleep, beq_self_eq_true, Bool.true_and, Bool.not_eq_true', beq_eq_false_iff_ne] at kept
    exact kept

/-! ## Commands from afar (R33, R127) -/

section Afar

variable {s t : State} {k : Nat} {it : NetItem} {e : Engine} (arrives : Arrives s t k it)
include arrives

theorem remoteCommand_eq {dest c : Nat} {header : Word} {ws : List Word} (message : it.op = .msg dest header ws)
    (port : portEngine dest = some (e, c)) : exec (.remoteCommandArrival k) s = .next (commandArrive s t it e c header ws) := by
  show Host.Outcome.next (match performing s k with
    | some (it, t) =>
      match it.op with
      | .msg dest header payload =>
        match portEngine dest with
        | some (e, c) => commandArrive s t it e c header payload
        | none => s
      | _ => s
    | none => s) = _
  rw [performing_of_arrives arrives]
  simp only [message, port]

theorem kickStore_eq {v : Word} (store : it.op = .kickStore e v) :
    exec (.kickRegisterStore k) s = .next (kickArrive s t it e v) := by
  show Host.Outcome.next (match performing s k with
    | some (it, t) =>
      match it.op with
      | .kickStore e v => kickArrive s t it e v
      | _ => s
    | none => s) = _
  rw [performing_of_arrives arrives]
  simp only [store]

end Afar

section Ports

variable {s t : State} {it : NetItem} {e : Engine} {c : Nat} {header : Word} {ws : List Word}

theorem commandArrive_reply (reply : header.extractLsb' 48 4 = 2) : commandArrive s t it e c header ws = accept t it := by
  have kind : (kindOf header == 2) = true := by simp [kindOf, reply]
  unfold commandArrive
  cases SMap.find c t.clusters <;> simp only [kind, if_true]

theorem commandArrive_foreign {C : Cluster} (held : SMap.find c t.clusters = some C) (command : header.extractLsb' 48 4 ≠ 2)
    (foreign : (ws.getD 0 0).extractLsb' 0 48 ≠ C.own) : commandArrive s t it e c header ws = refusalFree t it codeCapability := by
  have kind : (kindOf header == 2) = false := by
    rw [beq_eq_false_iff_ne]
    intro same
    exact command (BitVec.eq_of_toNat_eq same)
  simp only [commandArrive, held, kind, Bool.false_eq_true, if_false, if_pos foreign]

end Ports

section Kicks

variable {s t : State} {it : NetItem} {e : Engine} {v : Word} {j : Job} (made : kickJob t e it.src v = .ok j)
include made

theorem kickArrive_yields (new : it.met = none)
    (first : mayComeFirst t (clusterOfCore it.src.hart) e (posInCluster it.src.hart) (remoteComing t (clusterOfCore it.src.hart) e) = true) :
    kickArrive s t it e v = meets s it := by
  have unmet : metBefore s it = false := by simp [metBefore, new]
  simp only [kickArrive, made, unmet, first, Bool.not_false, Bool.true_or, Bool.and_true, if_true]

theorem kickArrive_waits (met : metBefore s it = true)
    (full : (clusterOf t (clusterOfCore it.src.hart)).takes e s.cycle (posInCluster it.src.hart) j = false) :
    kickArrive s t it e v = s := by
  simp only [kickArrive, made, met, full, Bool.not_true, Bool.false_and, Bool.and_false, Bool.false_eq_true, if_false]

theorem kickArrive_taken (met : metBefore s it = true)
    (alone : ∀ r ∈ (clusterOf t (clusterOfCore it.src.hart)).reqs e, r.pos ≠ posInCluster it.src.hart)
    (room : (clusterOf t (clusterOfCore it.src.hart)).takes e s.cycle (posInCluster it.src.hart) j = true) :
    kickArrive s t it e v =
      dropOut (putCluster { t with fresh := t.fresh + 4 } (clusterOfCore it.src.hart)
        ((clusterOf t (clusterOfCore it.src.hart)).accept e (posInCluster it.src.hart) s.cycle j)) it.src.hart it.id := by
  have none' (p : Request → Bool) :
      ((clusterOf t (clusterOfCore it.src.hart)).reqs e).any (fun r => r.pos == posInCluster it.src.hart && p r) = false := by
    rw [List.any_eq_false]
    intro r mem
    simp [alone r mem]
  simp only [kickArrive, made, met, none', room, Bool.not_true, Bool.false_and, Bool.not_false, Bool.and_self, Bool.false_eq_true,
    if_false, if_true]
  rfl

end Kicks

theorem clusterOf_dropOut (s : State) (h id c : Nat) : clusterOf (dropOut s h id) c = clusterOf s c := rfl

theorem out_dropOut (s : State) (h id : Nat) : ∀ o ∈ (hartOf (dropOut s h id) h).out, o.id ≠ id := by
  unfold dropOut
  simp only [hartOf_putHart_same]
  intro o mem
  simpa using (List.mem_filter.mp mem).2

/-- Settles O46: the commands of a queue by their operation, then parts, acceptance, reports and what comes from afar. -/
theorem copyJobsRunAndJobsReport : Obligations.CopyJobsRunAndJobsReport := by
  unfold Obligations.CopyJobsRunAndJobsReport
  refine ⟨fun s c q j runs free => ?_, fun s c q idle i mem => ?_, fun s t k it c job op h seq g item taken part stays => ?_,
    fun a b => ?_, fun s c e idle => ?_, ?_, ?_, ?_, ?_, ?_, ?_, ?_⟩
  · intro L goes
    have copies (op : j.cpOp = 0) : (j.cpOp == 0) = true := by rw [op]; rfl
    have fills (op : j.cpOp = 5) : (j.cpOp == 5) = true := by rw [op]; rfl
    have reducing (op : j.cpOp ∈ [1, 2, 3]) : j.cpOp ≠ 4 := by
      intro four
      rw [four] at op
      exact absurd op (by decide)
    refine ⟨fun op => ?_, fun p foreign i h => ?_, fun x own refused => ⟨fun op => ?_, fun op => ?_, fun op => ?_⟩,
      fun own granules => ⟨fun op => ?_, fun op => ?_, fun op ordered => ?_, fun op sequence => ?_⟩, fun other => ?_⟩
    · have own : commandUnowned s L j = none := if_pos op
      exact congrArg Host.Outcome.next (runCommand_runs runs free goes _ (by rw [op]; rfl) own (.inl op))
    · obtain ⟨ops, f, mine, run⟩ := commandEvent h
      rw [run, runCommand_unowned runs free goes f mine foreign]
      refine ⟨fun first => by rw [retryCommand_first first], fun since again => ?_⟩
      rw [retryCommand_again again]
      exact ⟨fun soon => by rw [if_neg (Nat.not_le.mpr soon)], fun late => by rw [if_pos late]⟩
    · exact congrArg Host.Outcome.next (runCommand_refused runs free goes _ (copies op) (by omega) own refused)
    · exact congrArg Host.Outcome.next (runCommand_refused runs free goes _ (fills op) (by omega) own refused)
    · exact congrArg Host.Outcome.next (runCommand_refused runs free goes _ (reduces_of_mem op) (reducing op) own refused)
    · exact congrArg Host.Outcome.next (runCommand_runs runs free goes _ (copies op) own (.inr granules))
    · rw [← runFill_eq]
      exact congrArg Host.Outcome.next (runCommand_runs runs free goes _ (fills op) own (.inr granules))
    · rw [← runReduce_ordered ordered]
      exact congrArg Host.Outcome.next (runCommand_runs runs free goes _ (reduces_of_mem op) own (.inr granules))
    · rw [← runReduce_sequenced sequence]
      exact congrArg Host.Outcome.next (runCommand_runs runs free goes _ (reduces_of_mem op) own (.inr granules))
    · exact congrArg Host.Outcome.next (runCommand_other runs _ (by simpa using other))
  · simp only [List.mem_cons, List.not_mem_nil, or_false] at mem
    rcases mem with rfl | rfl | rfl | rfl <;> exact congrArg Host.Outcome.next (runCommand_none _ _ idle)
  · intro x want
    have arrives := sequencedArrive_eq item taken part stays
    refine ⟨fun other ahead => ?_, fun behind => ?_, fun expected none' => ?_⟩
    · have later : (seq - want).toNat ≠ 0 := fun zero =>
        other (sub_eq_zero.mp (BitVec.eq_of_toNat_eq zero))
      rw [arrives]
      exact congrArg Host.Outcome.next ((if_neg later).trans (if_pos ahead))
    · have old : (seq - want).toNat ≠ 0 := by omega
      rw [arrives]
      exact congrArg Host.Outcome.next ((if_neg old).trans (if_neg (Nat.not_lt.mpr behind)))
    · rw [← expected]
      exact sequencedArrive_expected item taken part stays expected none'
  · rw [BitVec.toNat_add]
    rfl
  · exact congrArg Host.Outcome.next (acceptRequest_idle idle)
  · intro s c e r src t offered turn form slot home gov _ free plain v written
    exact congrArg Host.Outcome.next (acceptRequest_offered offered turn form slot home gov free plain written)
  · intro s c k j f src listed done slot first u w
    refine congrArg Host.Outcome.next ((completeJob_mxe listed done first).trans ?_)
    rw [reportJob_slot slot]
    simp only [bne_iff_ne]
    rfl
  · intro s c k j listed later
    exact congrArg Host.Outcome.next (completeJob_later listed later)
  · intro s c k j f src listed done slot first u w
    refine congrArg Host.Outcome.next ((completeJob_cpe listed done first).trans ?_)
    rw [reportJob_slot slot]
    rfl
  · intro s c h n id x mesh home _ mem sleep
    exact wakeSleepers_wakes mesh home mem sleep
  · intro s t k it dest c e header ws arrives message port
    have run := remoteCommand_eq arrives message port
    refine ⟨fun reply => by rw [run, commandArrive_reply reply], fun C held command foreign => ?_, run⟩
    exact ⟨{ t with fresh := t.fresh + 1 }, _, rfl, by rw [run, commandArrive_foreign held command foreign]; rfl⟩
  · intro s t k it e v j arrives store made C pos
    have run := kickStore_eq arrives store
    refine ⟨fun new first => by rw [run, kickArrive_yields made new first], fun met full => by rw [run, kickArrive_waits made met full],
      fun met alone room => ⟨_, by rw [run, kickArrive_taken made met alone room], ?_, out_dropOut _ _ _⟩⟩
    exact (clusterOf_dropOut _ _ _ _).trans (clusterOf_putCluster_same _ _ _)

end Sys2Proof.Machine
end

section
/-! SUPPORT. What an E-side word may change, and that every operation an E-side word is made of keeps to it (spec/02 R18, spec/06
R106, spec/12 R205). -/

namespace Sys2Proof.Machine

open Sys2Proof.Claims

/-! ## What an E-side word may change -/

/-- The slot σ with the E-side registers, queues and status of τ. -/
def Slot.withE (σ τ : Slot) : Slot :=
  { σ with
    e := τ.e, v := τ.v, p := τ.p, lq := τ.lq, sq := τ.sq, cq := τ.cq, sb := τ.sb, flags := τ.flags, sat := τ.sat
    ePrefix := τ.ePrefix, ePP := τ.ePP, eFmtsave := τ.eFmtsave, path := τ.path, bq := τ.bq, eDone := τ.eDone, eWait := τ.eWait
    eTable := τ.eTable }

/-- The core H with the slots, the fingerprint and the contexts of K, and its note of the tables written. -/
def Hart.withE (H K : Hart) : Hart :=
  { H with slots := K.slots, fpr := K.fpr, ctxs := K.ctxs, wroteAt := K.wroteAt, wrote := K.wrote }

/-- The state s with the cores and the numbers given of t. -/
def State.withCores (s t : State) : State := { s with harts := t.harts, nextId := t.nextId, fresh := t.fresh }

/-- The cores H and K differ in no table. -/
def SameTables (H K : Hart) : Prop := K.ctxs = H.ctxs ∧ K.wroteAt = H.wroteAt ∧ K.wrote = H.wrote

/-- An E-side word goes from s to t; where k holds it writes no decode table. -/
structure Framed (k : Prop) (s t : State) : Prop where
  rest : t = s.withCores t
  others : ∀ h n, (h ≠ curHart s ∨ n % 8 ≠ curNum s % 8) → slotOf t h n = slotOf s h n
  cores : ∀ h, hartOf t h = (hartOf s h).withE (hartOf t h)
  contexts : ∀ h L, ctxOf t h L = { ctxOf s h L with table := (ctxOf t h L).table }
  tables : k → ∀ h, SameTables (hartOf s h) (hartOf t h)
  here : curSlot t = (curSlot s).withE (curSlot t)

namespace Framed

variable {k : Prop} {s t u : State}

theorem cur (f : Framed k s t) : t.cur = s.cur := (congrArg State.cur f.rest :)
theorem curHart_eq (f : Framed k s t) : curHart t = curHart s := congrArg Prod.fst f.cur
theorem curNum_eq (f : Framed k s t) : curNum t = curNum s := congrArg (fun c => c.2.1) f.cur
theorem inTrap_eq (f : Framed k s t) : (curSlot t).inTrap = (curSlot s).inTrap := (congrArg Slot.inTrap f.here :)
theorem ctx_eq (f : Framed k s t) : (curSlot t).ctx = (curSlot s).ctx := (congrArg Slot.ctx f.here :)

theorem trans (f : Framed k s t) (g : Framed k t u) : Framed k s u where
  rest := g.rest.trans (congrArg (State.withCores · u) f.rest :)
  others h n d := (g.others h n (by rwa [f.curHart_eq, f.curNum_eq])).trans (f.others h n d)
  cores h := (g.cores h).trans (congrArg (Hart.withE · (hartOf u h)) (f.cores h) :)
  contexts h L := (g.contexts h L).trans
    (congrArg (fun c : Ctx => { c with table := (ctxOf u h L).table }) (f.contexts h L) :)
  tables yes h := by
    obtain ⟨a, b, c⟩ := f.tables yes h
    obtain ⟨a', b', c'⟩ := g.tables yes h
    exact ⟨a'.trans a, b'.trans b, c'.trans c⟩
  here := g.here.trans (congrArg (Slot.withE · (curSlot u)) f.here :)

/-- A state that differs in slots, fingerprints and numbers given alone writes no table. -/
theorem of_cores (rest : t = s.withCores t) (others : ∀ h n, (h ≠ curHart s ∨ n % 8 ≠ curNum s % 8) → slotOf t h n = slotOf s h n)
    (cores : ∀ h, hartOf t h = { hartOf s h with slots := (hartOf t h).slots, fpr := (hartOf t h).fpr })
    (here : curSlot t = (curSlot s).withE (curSlot t)) : Framed k s t where
  rest := rest
  others := others
  cores h := by
    rw [cores h]
    rfl
  contexts h L := by rw [ctxOf_congr (congrArg Hart.ctxs (cores h) :)]
  tables _ h := ⟨(congrArg Hart.ctxs (cores h) :), (congrArg Hart.wroteAt (cores h) :), (congrArg Hart.wrote (cores h) :)⟩
  here := here

theorem refl (s : State) : Framed k s s := of_cores rfl (fun _ _ _ => rfl) (fun _ => rfl) rfl

/-- The current slot changed on its E-side. -/
theorem putCur {σ : Slot} (e : σ = (curSlot s).withE σ) : Framed k s (putCur s σ) := by
  refine of_cores rfl (fun h n d => slotOf_putSlot_other d) (fun h => ?_) (by rwa [curSlot_putCur])
  by_cases d : h = curHart s
  · rw [d, hartOf_putCur]
    rfl
  · rw [hartOf_putCur_other s σ h d]

/-- A result entered in a fingerprint. -/
theorem putFpr (h : Nat) (w : Word) : Framed k s (putHart s h { hartOf s h with fpr := w }) := by
  have same (j n : Nat) : slotOf (putHart s h { hartOf s h with fpr := w }) j n = slotOf s j n := by
    exact hartOf_putHart_keeps (s := s) (H := { hartOf s h with fpr := w }) (fun H => H.slot n) rfl j
  have here : curSlot (putHart s h { hartOf s h with fpr := w }) = curSlot s := same _ _
  refine of_cores rfl (fun j n _ => same j n) (fun j => ?_) (by rw [here]; rfl)
  by_cases d : j = h
  · rw [d, hartOf_putHart_same]
  · rw [hartOf_putHart_other _ _ _ _ d]

theorem noteFpr (h : Nat) (w : Word) : Framed k s (noteFpr s h w) := (putFpr h _).trans (putFpr (h + 1) _)

/-- The frame as the obligation says it. -/
theorem frameE (f : Framed k s t) : FrameE s t := by
  refine ⟨f.rest, ⟨fun h L a => ?_, fun a => ?_, fun a => ?_⟩, f.others, f.cores, f.contexts, curSlot t, rfl, f.here⟩
  · rw [f.contexts h L]
  · rw [show t.hbm = s.hbm from (congrArg State.hbm f.rest :)]
  · rw [show t.hostMem = s.hostMem from (congrArg State.hostMem f.rest :)]

end Framed

/-! ## Operations that keep to it -/

/-- The state that an operation run from s leaves, whether it ends or stops. -/
def leaves {α : Type} (s : State) : Except Stop (α × State) → State
  | .ok (_, t) => t
  | .error (.wait _ keep) => keep.getD s
  | .error (.trap _ keep) => keep.getD s
  | .error (.order _) => s

/-- An operation of an E-side word changes what such a word may change. -/
def Keeps {α : Type} (k : Prop) (op : Op α) : Prop := ∀ s, Framed k s (leaves s (op s))

section
variable {α β : Type} {k : Prop}

theorem Keeps.ok {op : Op α} (o : Keeps k op) {s t : State} {a : α} (e : op s = .ok (a, t)) : Framed k s t := by
  have f := o s
  rwa [e] at f

/-- A state kept by an operation that began later is one that the word may leave. -/
theorem framed_leaves_error {s t : State} {x : Stop} (f : Framed k s t) (g : Framed k t (leaves t (.error x : Except Stop (α × State)))) :
    Framed k s (leaves s (.error x : Except Stop (β × State))) := by
  cases x with
  | wait _ keep =>
    cases keep with
    | none => exact .refl s
    | some u => exact f.trans g
  | trap _ keep =>
    cases keep with
    | none => exact .refl s
    | some u => exact f.trans g
  | order _ => exact .refl s

theorem Keeps.bind {op : Op α} {next : α → Op β} (o : Keeps k op) (n : ∀ a, Keeps k (next a)) : Keeps k (op >>= next) := by
  intro s
  cases e : op s with
  | ok r =>
    obtain ⟨a, t⟩ := r
    have f := o.ok e
    rw [bind_ok e]
    cases e' : next a t with
    | ok r' => exact f.trans ((n a).ok e')
    | error x => exact framed_leaves_error f (e' ▸ n a t)
  | error x =>
    rw [bind_error e]
    exact framed_leaves_error (.refl s) (e ▸ o s)

theorem Keeps.pure (a : α) : Keeps k (Pure.pure a : Op α) := fun s => .refl s

theorem keeps_trapAt (code : BitVec 16) (detail : BitVec 12) (addr : Word) : Keeps k (trapAt code detail addr : Op α) :=
  fun s => .refl s

theorem keeps_waitFor (w : Wait) : Keeps k (waitFor w : Op α) := fun s => .refl s

theorem Keeps.stopIf {c : Prop} [Decidable c] {stop : Op Unit} (o : Keeps k stop) : Keeps k (stopIf c stop) := by
  unfold Machine.stopIf
  split
  · exact o
  · exact .pure ()

/-- An operation that answers from the state as it stands. -/
theorem Keeps.read (f : State → α) : Keeps k (fun s => .ok (f s, s) : Op α) := fun s => .refl s

theorem keeps_getSlot : Keeps k getSlot := .read curSlot
theorem keeps_get : Keeps k (get : Op State) := .read id
theorem keeps_curTable : Keeps k curTable := .read tableNow
theorem keeps_prefixE : Keeps k prefixE := .read fun s => (curSlot s).ePrefix
theorem keeps_roundMode : Keeps k roundMode := .read fun s => (curSlot s).rm.toNat
theorem keeps_readP (n : Fin 8) : Keeps k (readP n) := .read fun s => (curSlot s).pred n

theorem Keeps.modSlot {f : Slot → Slot} (e : ∀ σ, f σ = σ.withE (f σ)) : Keeps k (modSlot f) := fun _ => .putCur (e _)

theorem keeps_setFlags (f : Fl) : Keeps k (setFlags f) := .modSlot fun _ => rfl

theorem keeps_noteResult (w : Word) : Keeps k (noteResult w) := by
  intro s
  unfold noteResult
  split
  · exact .noteFpr _ w
  · exact .refl s

theorem keeps_pushSq (q : Fin 2) (x : QEntry) : Keeps k (pushSq q x) := by
  intro s
  simp only [pushSq]
  split
  · exact .refl s
  · exact .putCur rfl

theorem keeps_pushCq (w : Word) : Keeps k (pushCq w) := by
  intro s
  simp only [pushCq]
  split
  · exact .refl s
  · exact .putCur rfl

theorem keeps_popLq (q : Fin 4) : Keeps k (popLq q) := by
  refine .bind keeps_getSlot fun σ => ?_
  split
  · exact .bind (.modSlot fun _ => rfl) fun _ => .pure _
  · split
    · exact .bind (.modSlot fun _ => rfl) fun _ => .pure _
    · exact keeps_waitFor _

theorem keeps_readE (x : ESrc) : Keeps k (readE x) := by
  cases x with
  | e n => exact .bind keeps_getSlot fun _ => .pure _
  | lq q => exact .bind (keeps_popLq q) fun _ => .pure _
  | z => exact .pure _

theorem keeps_writeE (d : EDst) (w : Word) : Keeps k (writeE d w) := by
  cases d with
  | e n => exact .bind (.modSlot fun _ => rfl) fun _ => keeps_noteResult _
  | sq q => exact .bind (keeps_pushSq _ _) fun _ => keeps_noteResult _
  | cq => exact .bind (keeps_pushCq _) fun _ => keeps_noteResult _
  | z => exact .pure _

theorem Slot.setPred_withE (σ : Slot) (n : Fin 8) (w : Word) : σ.setPred n w = σ.withE (σ.setPred n w) := by
  unfold Slot.setPred
  split <;> rfl

theorem keeps_writeP (n : Fin 8) (w : Word) : Keeps k (writeP n w) :=
  .bind (.modSlot fun σ => σ.setPred_withE n w) fun _ => keeps_noteResult _

theorem keeps_writeV (d : VDst) (w : Vec) : Keeps k (writeV d w) := by
  cases d with
  | v n => exact .bind (.modSlot fun _ => rfl) fun _ => keeps_noteResult _
  | sq q => exact .bind (keeps_pushSq _ _) fun _ => keeps_noteResult _
  | cq => exact .bind (keeps_pushCq _) fun _ => keeps_noteResult _
  | z => exact .pure _

theorem keeps_needSb (n : Nat) : Keeps k (needSb n) := by
  intro s
  unfold needSb
  split <;> exact .refl s

theorem keeps_takeId (n : Nat) : Keeps k (modState fun t => { t with nextId := n }) := fun _ =>
  .of_cores rfl (fun _ _ _ => rfl) (fun _ => rfl) rfl

theorem keeps_holdPop (q : Fin 4) (dest : HeldDst) (code : Nat) : Keeps k (holdPop q dest code) := by
  refine .bind keeps_getSlot fun σ => ?_
  split
  · exact .bind (.modSlot fun _ => rfl) fun _ => .pure _
  · split
    · exact .bind (keeps_needSb 1) fun _ => .bind keeps_get fun _ => .bind (keeps_takeId _) fun _ =>
        .bind (.modSlot fun _ => rfl) fun _ => .pure _
    · exact keeps_waitFor _

theorem keeps_grabV (x : VSrc) (dest : HeldDst) (code : Nat) : Keeps k (grabV x dest code) := by
  cases x with
  | v n => exact .bind keeps_getSlot fun _ => .pure _
  | lq q => exact .bind (keeps_holdPop q dest code) fun _ => .pure _
  | z => exact .pure _

/-! ## Words of vector sources (R104, R271) -/

theorem framed_begun (s : State) (ids : List Nat) : Framed k s (begun s ids) := by
  unfold begun
  split
  · exact .refl s
  · exact .putCur rfl

/-- A stop of a word that has begun keeps the state in which it stops. -/
theorem framed_keepFrom {s t : State} {ids : List Nat} {x : Stop} {r : Except Stop (α × State)} (f : Framed k s t)
    (e : keepFrom t ids r = .error x) (g : Framed k t (leaves t r)) : Framed k s (leaves s (.error x : Except Stop (β × State))) := by
  cases r with
  | ok => cases e
  | error y =>
    cases y with
    | wait w keep =>
      cases keep with
      | none =>
        cases e
        exact f.trans (framed_begun t ids)
      | some u =>
        cases e
        exact f.trans g
    | trap w keep =>
      cases keep with
      | none =>
        cases e
        exact f.trans (framed_begun t ids)
      | some u =>
        cases e
        exact f.trans g
    | order l =>
      cases e
      exact .refl s

theorem keepFrom_ok {s : State} {ids : List Nat} {a : α} {r : Except Stop α} (e : keepFrom s ids r = .ok a) : r = .ok a := by
  unfold keepFrom at e
  split at e
  · exact e
  all_goals cases e

theorem Keeps.withV {x y : VSrc} {dest : HeldDst} {code : Nat} {body : Vec → Vec → Op Unit} (o : ∀ a b, Keeps k (body a b)) :
    Keeps k (withV x y dest code body) := by
  intro s
  unfold Machine.withV
  split
  case h_1 r e => exact framed_leaves_error (.refl s) (e ▸ keeps_grabV x dest code s)
  case h_2 r a u1 t1 e1 =>
    have f1 : Framed k s t1 := (keeps_grabV x dest code).ok e1
    split
    case h_1 r e => exact framed_keepFrom f1 e (keeps_grabV y dest code t1)
    case h_2 r b u2 t2 e2 =>
      have f2 := f1.trans ((keeps_grabV y dest code).ok (keepFrom_ok e2))
      split
      case h_1 r e => exact framed_keepFrom f2 e (o a b t2)
      case h_2 r x t3 e3 => exact (f2.trans ((o a b).ok (keepFrom_ok e3))).trans (.putCur rfl)

theorem Keeps.withV1 {x : VSrc} {dest : HeldDst} {code : Nat} {body : Vec → Op Unit} (o : ∀ a, Keeps k (body a)) :
    Keeps k (withV1 x dest code body) := .withV fun a _ => o a

theorem keeps_writeLanes (d : VDst) (W : Nat) (m : Word) (f : Nat → Nat × Fl) : Keeps k (writeLanes d W m f) :=
  .bind keeps_getSlot fun _ => .bind (keeps_writeV _ _) fun _ => keeps_setFlags _

end

end Sys2Proof.Machine
end

section
/-! SUPPORT. The frame of every X-word: its operation keeps to what an E-side word may change, and so does retiring, waiting and
being stopped (spec/02 R18, spec/06 R106, spec/12 R205). -/

namespace Sys2Proof.Machine

open Sys2Proof.Claims

/-! ## Steps of the E-side -/

section
variable {k : Prop} {s u : State}

theorem framed_markE (w : Wait) : Framed k s (markE s w) := .putCur rfl

theorem framed_keepTable (w : Wait) : Framed k s (keepTable w s) := by
  unfold keepTable
  split
  · exact .putCur rfl
  · exact .refl s

theorem Slot.consumeE_withE (σ : Slot) : σ.consumeE = σ.withE σ.consumeE := by
  unfold Slot.consumeE
  split <;> rfl

theorem Slot.retireE_withE (σ : Slot) : σ.retireE = σ.withE σ.retireE := by
  unfold Slot.retireE
  split <;> rfl

/-- A word that retires leaves its slot on the E-side of the next. -/
theorem framed_retire (c : Prop) [Decidable c] : Framed k s (putCur s (if c then (curSlot s).consumeE else curSlot s).retireE) := by
  refine .putCur ?_
  split
  · exact (Slot.retireE_withE _).trans (congrArg (Slot.withE · (curSlot s).consumeE.retireE) (curSlot s).consumeE_withE :)
  · exact (curSlot s).retireE_withE

/-- A killed launch is gone. -/
theorem launchOf_killLaunch (s : State) (L h : Nat) (f : FaultInfo) : launchOf (killLaunch s L h f) L = none := by
  cases l : launchOf s L with
  | none => rwa [show killLaunch s L h f = s by simp only [killLaunch, l]]
  | some _ => exact (killLaunch_failed l).1.gone

/-- A trap that finds its handler enters it. -/
theorem inTrap_trapEntry {r : Handler} (side : Side) (f : FaultInfo) (outside : (curSlot u).inTrap = false)
    (handler : handlerOf u (curHart u) (curNum u) 63 = some r) :
    (curSlot (trapEntry u (curHart u) (curNum u) side f)).inTrap = true := by
  rw [trapEntry_handler side f outside handler, trapFrom_eq]
  exact congrArg Slot.inTrap (slotOf_putSlot_same ..)

/-- Where a trap leaves INTRAP as it was, and the launch lives, the trap has only been put off (R27, R29, R99). -/
theorem framed_takeTrap {f : FaultInfo} (kept : Framed k s u) (same : (curSlot (takeTrap s u .eSide f)).inTrap = (curSlot s).inTrap)
    (lives : launchOf (takeTrap s u .eSide f) (curLaunch s) ≠ none) : Framed k s (takeTrap s u .eSide f) := by
  unfold takeTrap at same lives ⊢
  split
  case isTrue => exact framed_markE .order
  case isFalse deferred =>
    rw [if_neg deferred, ← kept.curHart_eq, ← kept.curNum_eq] at same lives
    have killed (v : State) : launchOf (killLaunch v (curSlot u).ctx (curHart u) f) (curLaunch s) = none := by
      rw [kept.ctx_eq]
      exact launchOf_killLaunch ..
    cases inside : (curSlot u).inTrap with
    | true => exact absurd (by rw [trapEntry_inTrap _ _ inside]; exact killed _) lives
    | false =>
      cases handler : handlerOf u (curHart u) (curNum u) 63 with
      | none => exact absurd (by rw [trapEntry_noHandler _ _ inside handler]; exact killed _) lives
      | some r =>
        rw [inTrap_trapEntry _ _ inside handler, ← kept.inTrap_eq, inside] at same
        cases same

/-- The step of a word that changes what an E-side word may change does so too, unless it traps. -/
theorem framed_stepE {op : Op Unit} (g : Gov) (o : Keeps k op) (same : (curSlot (stepE g op s)).inTrap = (curSlot s).inTrap)
    (lives : launchOf (stepE g op s) (curLaunch s) ≠ none) : Framed k s (stepE g op s) := by
  have f := o s
  generalize result : stepE g op s = t at same lives ⊢
  unfold stepE at result
  extract_lets σ at result
  split at result
  · exact result ▸ framed_markE _
  split at result
  · exact result ▸ framed_markE _
  split at result
  · subst result
    exact framed_takeTrap (.putCur rfl) same lives
  split at result
  case h_1 v e => exact result ▸ (o.ok e).trans (framed_retire _)
  case h_2 w keep e =>
    rw [e] at f
    exact result ▸ (f.trans (framed_keepTable w)).trans (framed_markE w)
  case h_3 => exact result ▸ framed_markE _
  case h_4 w keep e =>
    rw [e] at f
    subst result
    exact framed_takeTrap f same lives

end

end Sys2Proof.Machine
end

section
/-! SUPPORT. The frame of every X-word, continued: each X-word is an operation that keeps to the frame (spec/15, spec/16). -/

namespace Sys2Proof.Machine

open Sys2Proof.Claims

/-- The word i runs an operation on the E-side that changes what such a word may change. -/
def KeptWord (k : Prop) (i : Instr) : Prop := ∃ g op, (∀ s, exec i s = wordE g op s) ∧ Keeps k op

section
variable {k : Prop} {i : Instr}

/-- A stop with a fault where a condition holds, and else nothing. -/
theorem keeps_check {c : Prop} [Decidable c] {code : BitVec 16} {detail : BitVec 12} {addr : Word} :
    Keeps k (stopIf c (trapAt code detail addr)) := .stopIf (keeps_trapAt code detail addr)

/-- The last operations of a scalar word: its result and its conditions. -/
theorem keeps_writeE_setFlags (d : EDst) (w : Word) (f : Fl) : Keeps k (writeE d w >>= fun _ => setFlags f) :=
  .bind (keeps_writeE d w) fun _ => keeps_setFlags f

theorem keeps_writeV_setFlags (d : VDst) (w : Vec) (f : Fl) : Keeps k (writeV d w >>= fun _ => setFlags f) :=
  .bind (keeps_writeV d w) fun _ => keeps_setFlags f

/-! ## ia, iai, fa, pr (R262 to R268) -/

theorem kept_iaOp {f : Word → Word → Word} {d : EDst} {x y : ESrc} (shape : ∀ s, exec i s = iaOp f d x y s) : KeptWord k i :=
  ⟨_, _, shape, .bind (keeps_readE x) fun _ => .bind (keeps_readE y) fun _ => keeps_writeE d _⟩

theorem kept_iaiOp {f : Word → Word} {d : EDst} {x : ESrc} (shape : ∀ s, exec i s = iaiOp f d x s) : KeptWord k i :=
  ⟨_, _, shape, .bind (keeps_readE x) fun _ => keeps_writeE d _⟩

theorem kept_satOp {f : Int → Int → Int} {d : EDst} {x y : ESrc} (shape : ∀ s, exec i s = satOp f d x y s) : KeptWord k i :=
  ⟨_, _, shape, .bind (keeps_readE x) fun _ => .bind (keeps_readE y) fun _ => keeps_writeE_setFlags d _ _⟩

theorem kept_iaSel (d : EDst) (x y : ESrc) (p : Fin 8) : KeptWord k (.iaSel d x y p) :=
  ⟨_, _, fun _ => rfl, .bind (keeps_readE x) fun _ => .bind (keeps_readE y) fun _ => .bind (keeps_readP p) fun _ =>
    keeps_writeE d _⟩

theorem kept_faOne {f : Nat → Nat → Nat × Fl} {d : EDst} {x : ESrc} (shape : ∀ s, exec i s = faOne f d x s) : KeptWord k i :=
  ⟨_, _, shape, .bind (keeps_readE x) fun _ => .bind keeps_roundMode fun _ => keeps_writeE_setFlags d _ _⟩

theorem kept_faTwo {f : Nat → Nat → Nat → Nat × Fl} {d : EDst} {x y : ESrc} (shape : ∀ s, exec i s = faTwo f d x y s) :
    KeptWord k i :=
  ⟨_, _, shape, .bind (keeps_readE x) fun _ => .bind (keeps_readE y) fun _ => .bind keeps_roundMode fun _ =>
    keeps_writeE_setFlags d _ _⟩

theorem kept_faThree {f : Nat → FV → FV → FV → Nat × Fl} {m : FpFmt} {d : Fin 16} {x y : ESrc}
    (shape : ∀ s, exec i s = faThree f m d x y s) : KeptWord k i :=
  ⟨_, _, shape, .bind (keeps_readE x) fun _ => .bind (keeps_readE y) fun _ => .bind (keeps_readE (.e d)) fun _ =>
    .bind keeps_roundMode fun _ => keeps_writeE_setFlags (.e d) _ _⟩

theorem kept_prOp {f : Word → Word → Word} {d x y : Fin 8} (shape : ∀ s, exec i s = prOp f d x y s) : KeptWord k i :=
  ⟨_, _, shape, .bind (keeps_readP x) fun _ => .bind (keeps_readP y) fun _ => keeps_writeP d _⟩

theorem kept_prCmp {f : Word → Word → Bool} {d : Fin 8} {x y : ESrc} (shape : ∀ s, exec i s = prCmp f d x y s) : KeptWord k i :=
  ⟨_, _, shape, .bind (keeps_readE x) fun _ => .bind (keeps_readE y) fun _ => keeps_writeP d _⟩

theorem kept_prRead {f : Word → Word → Word} {d : EDst} {x y : Fin 8} (shape : ∀ s, exec i s = prRead f d x y s) : KeptWord k i :=
  ⟨_, _, shape, .bind (keeps_readP x) fun _ => .bind (keeps_readP y) fun _ => keeps_writeE d _⟩

theorem kept_prNot (d x : Fin 8) : KeptWord k (.prNot d x) :=
  ⟨_, _, fun _ => rfl, .bind (keeps_readP x) fun _ => keeps_writeP d _⟩

theorem kept_prSet (d : Fin 8) (x : ESrc) : KeptWord k (.prSet d x) :=
  ⟨_, _, fun _ => rfl, .bind (keeps_readE x) fun _ => keeps_writeP d _⟩

theorem kept_prGet (d : EDst) (x : Fin 8) : KeptWord k (.prGet d x) :=
  ⟨_, _, fun _ => rfl, .bind (keeps_readP x) fun _ => keeps_writeE d _⟩

/-! ## Lane words (R270 to R280) -/

theorem kept_vecTwo {W : Nat} {f : Nat → Nat → Nat → Nat × Fl} {d : VDst} {x y : VSrc} {p : Fin 8}
    (shape : ∀ s, exec i s = vecTwo W f d x y p s) : KeptWord k i :=
  ⟨_, _, shape, .withV fun _ _ => .bind (keeps_readP p) fun _ => .bind keeps_roundMode fun _ => keeps_writeLanes d _ _ _⟩

theorem kept_vecOne {W : Nat} {f : Nat → Nat → Nat × Fl} {d : VDst} {x : VSrc} {p : Fin 8}
    (shape : ∀ s, exec i s = vecOne W f d x p s) : KeptWord k i :=
  ⟨_, _, shape, .withV1 fun _ => .bind (keeps_readP p) fun _ => .bind keeps_roundMode fun _ => keeps_writeLanes d _ _ _⟩

theorem kept_vecCmp {W : Nat} {f : Nat → Nat → Bool × Fl} {d : Fin 8} {x y : VSrc} {p : Fin 8}
    (shape : ∀ s, exec i s = vecCmp W f d x y p s) : KeptWord k i :=
  ⟨_, _, shape, .withV fun _ _ => .bind (keeps_readP p) fun _ => .bind (keeps_writeP d _) fun _ => keeps_setFlags _⟩

theorem kept_vaSel (d : VDst) (x y : VSrc) (p : Fin 8) (w : LaneW) : KeptWord k (.vaSel d x y p w) :=
  ⟨_, _, fun _ => rfl, .withV fun _ _ => .bind (keeps_readP p) fun _ => keeps_writeV d _⟩

theorem kept_vaDot (d : Fin 8) (x y : VSrc) (p : Fin 8) : KeptWord k (.vaDot d x y p) :=
  ⟨_, vaDotOp d x y p, fun _ => rfl, .bind keeps_prefixE fun _ => .bind keeps_check fun _ => .bind keeps_check fun _ =>
    .bind keeps_check fun _ => .withV fun _ _ => .bind (keeps_readP p) fun _ => .bind keeps_getSlot fun _ =>
      keeps_writeLanes _ _ _ _⟩

theorem kept_reduceWord {f : Nat → Word → Vec → Nat × Fl} {d : VDst} {x : VSrc} {p : Fin 8}
    (shape : ∀ s, exec i s = reduceWord d x p f s) : KeptWord k i :=
  ⟨_, _, shape, .withV1 fun _ => .bind (keeps_readP p) fun _ => .bind keeps_roundMode fun _ => keeps_writeV_setFlags d _ _⟩

theorem kept_vfFma (d : Fin 8) (x y : VSrc) (p : Fin 8) (f : FpFmt) : KeptWord k (.vfFma d x y p f) :=
  ⟨_, _, fun _ => rfl, .withV fun _ _ => .bind (keeps_readP p) fun _ => .bind keeps_roundMode fun _ => .bind keeps_getSlot fun _ =>
    keeps_writeLanes _ _ _ _⟩

theorem keeps_vfDotFormats (f : FpFmt) : Keeps k (vfDotFormats f) := by
  refine .bind keeps_prefixE fun w => ?_
  cases w with
  | none => exact .pure _
  | some w =>
    exact .bind keeps_check fun _ => .bind keeps_check fun _ => .bind keeps_check fun _ => .bind keeps_check fun _ =>
      .bind keeps_curTable fun _ => .bind keeps_check fun _ => .pure _

theorem kept_vfDot (d : Fin 8) (x y : VSrc) (p : Fin 8) (f : FpFmt) : KeptWord k (.vfDot d x y p f) :=
  ⟨_, vfDotOp d x y p f, fun _ => rfl, .bind (keeps_vfDotFormats f) fun _ => .withV fun _ _ => .bind (keeps_readP p) fun _ =>
    .bind keeps_roundMode fun _ => .bind keeps_curTable fun _ => .bind keeps_getSlot fun _ => keeps_writeLanes _ _ _ _⟩

theorem kept_moveWord {W : Nat} {f : Vec → Vec → Nat → Nat} {d : VDst} {x y : VSrc} {p : Fin 8}
    (shape : ∀ s, exec i s = moveWord d x y p W f s) : KeptWord k i :=
  ⟨_, _, shape, .withV fun _ _ => .bind (keeps_readP p) fun _ => keeps_writeLanes d _ _ _⟩

theorem kept_scalarWord {W : Nat} {f : Nat → Nat → Nat} {d : VDst} {x : ESrc} {p : Fin 8}
    (shape : ∀ s, exec i s = scalarWord d x p W f s) : KeptWord k i :=
  ⟨_, _, shape, .bind (keeps_readE x) fun _ => .bind (keeps_readP p) fun _ => keeps_writeLanes d _ _ _⟩

theorem kept_vxRot (d : VDst) (x : VSrc) (y : ESrc) (p : Fin 8) (w : LaneW) : KeptWord k (.vxRot d x y p w) :=
  ⟨_, _, fun _ => rfl, .withV1 fun _ => .bind (keeps_readE y) fun _ => .bind (keeps_readP p) fun _ => keeps_writeLanes _ _ _ _⟩

theorem kept_vxExt (d : EDst) (x : VSrc) (y : ESrc) (w : LaneW) : KeptWord k (.vxExt d x y w) :=
  ⟨_, _, fun _ => rfl, .withV1 fun _ => .bind (keeps_readE y) fun _ => keeps_writeE d _⟩

theorem kept_vxIns (d : Fin 8) (x y : ESrc) (w : LaneW) : KeptWord k (.vxIns d x y w) :=
  ⟨_, _, fun _ => rfl, .bind (keeps_readE x) fun _ => .bind (keeps_readE y) fun _ => .bind keeps_getSlot fun _ =>
    keeps_writeV (.v d) _⟩

/-! ## Words that a prefix governs (R267, R281 to R284) -/

theorem kept_vxAmax (d : VDst) (x : VSrc) (p : Fin 8) : KeptWord k (.vxAmax d x p) :=
  ⟨_, amaxOp d x p, fun _ => rfl, .bind keeps_prefixE fun _ => .bind keeps_check fun _ => .bind keeps_check fun _ =>
    .bind keeps_curTable fun _ => .bind keeps_check fun _ => .withV1 fun _ => .bind (keeps_readP p) fun _ =>
    .bind keeps_roundMode fun _ => .bind keeps_curTable fun _ => .bind keeps_getSlot fun _ => keeps_writeV_setFlags d _ _⟩

theorem kept_vxScale (d : VDst) (x : VSrc) : KeptWord k (.vxScale d x) :=
  ⟨_, scaleOp d x, fun _ => rfl, .bind keeps_prefixE fun _ => .bind keeps_check fun _ => .bind keeps_curTable fun _ =>
    .bind keeps_check fun _ => .withV1 fun _ => keeps_writeV_setFlags d _ _⟩

theorem kept_vxBarq (d : Fin 8) (x : VSrc) : KeptWord k (.vxBarq d x) :=
  ⟨_, barqOp d x, fun _ => rfl, .bind keeps_prefixE fun _ => .bind keeps_check fun _ => .bind keeps_check fun _ =>
    .bind keeps_curTable fun _ => .bind keeps_check fun _ => .withV1 fun _ => .bind keeps_roundMode fun _ =>
    .bind keeps_getSlot fun _ => keeps_writeV_setFlags (.v d) _ _⟩

theorem keeps_cvtFormats (dfd dfa : Nat) (okD okA : List Nat) : Keeps k (cvtFormats dfd dfa okD okA) :=
  .bind keeps_prefixE fun _ => .bind keeps_check fun _ => .bind keeps_check fun _ => .bind keeps_curTable fun _ =>
    .bind keeps_check fun _ => .pure _

theorem keeps_cvtFormatsV (dfd dfa : Nat) (okD okA : List Nat) (sizes : Nat → Nat → Bool) :
    Keeps k (cvtFormatsV dfd dfa okD okA sizes) :=
  .bind keeps_prefixE fun _ => .bind keeps_check fun _ => .bind keeps_check fun _ => .bind keeps_check fun _ =>
    .bind keeps_check fun _ => .bind keeps_curTable fun _ => .bind keeps_check fun _ => .pure _

theorem kept_cvtOp {extend : Bool} {dfd dfa : Nat} {okD okA : List Nat} {d : EDst} {x : ESrc}
    (shape : ∀ s, exec i s = cvtOp extend dfd dfa okD okA d x s) : KeptWord k i :=
  ⟨_, _, shape, .bind (keeps_cvtFormats dfd dfa okD okA) fun _ => .bind (keeps_readE x) fun _ => .bind keeps_curTable fun _ =>
    .bind keeps_roundMode fun _ => keeps_writeE_setFlags d _ _⟩

theorem kept_cvtVecOp {dfd dfa : Nat} {okD okA : List Nat} {d : VDst} {x : VSrc}
    (shape : ∀ s, exec i s = cvtVecOp dfd dfa okD okA d x s) : KeptWord k i :=
  ⟨_, _, shape, .bind (keeps_cvtFormatsV dfd dfa okD okA _) fun _ => .withV1 fun _ => .bind keeps_curTable fun _ =>
    .bind keeps_roundMode fun _ => .bind keeps_getSlot fun _ => keeps_writeV_setFlags d _ _⟩

theorem kept_cvtPack (d : Fin 8) (x : VSrc) (y : ESrc) : KeptWord k (.cvtPack d x y) :=
  ⟨_, packOp d x y, fun _ => rfl, .bind (keeps_cvtFormatsV _ _ _ _ _) fun _ => .withV1 fun _ => .bind (keeps_readE y) fun _ =>
    .bind keeps_curTable fun _ => .bind keeps_getSlot fun _ => .bind keeps_roundMode fun _ => keeps_writeV_setFlags (.v d) _ _⟩

theorem kept_cvtUnpk (d : VDst) (x : VSrc) (y : ESrc) : KeptWord k (.cvtUnpk d x y) :=
  ⟨_, unpkOp d x y, fun _ => rfl, .bind (keeps_cvtFormatsV _ _ _ _ _) fun _ => .withV1 fun _ => .bind (keeps_readE y) fun _ =>
    .bind keeps_curTable fun _ => .bind keeps_roundMode fun _ => .bind keeps_getSlot fun _ => keeps_writeV_setFlags d _ _⟩

theorem kept_fmtSetX (fd fa fb : BitVec 4) (scl : BitVec 2) : KeptWord k (.fmtSetX fd fa fb scl) :=
  ⟨_, _, fun _ => rfl, .modSlot fun _ => rfl⟩

theorem kept_nopX : KeptWord k .nopX := ⟨_, _, fun _ => rfl, .pure ()⟩

theorem kept_iaiLui (d : EDst) (imm : BitVec 16) : KeptWord k (.iaiLui d imm) := ⟨_, _, fun _ => rfl, keeps_writeE d _⟩

end

end Sys2Proof.Machine
end

section
/-! SUPPORT. The frame of every X-word, concluded: cvt.tblw, which writes a decode table, and all words together (spec/18 R313). -/

namespace Sys2Proof.Machine

open Sys2Proof.Claims

/-! ## cvt.tblw (R313) -/

section
variable {k : Prop} {s : State}

/-- A core whose tables change, where the word may write them. -/
theorem Framed.putTables (no : ¬k) {h : Nat} {H : Hart} (core : H = (hartOf s h).withE H) (slots : H.slots = (hartOf s h).slots)
    (contexts : ∀ L, H.ctx L = { (hartOf s h).ctx L with table := (H.ctx L).table }) : Framed k s (putHart s h H) := by
  have same (j n : Nat) : slotOf (putHart s h H) j n = slotOf s j n :=
    hartOf_putHart_keeps (fun K => K.slot n) (by simp only [Hart.slot, slots]) j
  refine ⟨rfl, fun j n _ => same j n, fun j => ?_, fun j L => ?_, fun yes => absurd yes no, ?_⟩
  · by_cases d : j = h
    · rw [d, hartOf_putHart_same]
      exact core
    · rw [hartOf_putHart_other _ _ _ _ d]
      rfl
  · by_cases d : j = h
    · rw [d, ctxOf, hartOf_putHart_same]
      exact contexts L
    · rw [ctxOf, ctxOf, hartOf_putHart_other _ _ _ _ d]
  · rw [show curSlot (putHart s h H) = curSlot s from same _ _]
    rfl

theorem framed_noteWrite (no : ¬k) (n : Nat) : Framed k s (noteWrite n s) := .putTables no rfl rfl fun _ => rfl

/-- An entry of a decode table written. -/
theorem framed_putTable (no : ¬k) (h L : Nat) (T : SMap (BitVec 32)) : Framed k s (putCtx s h { ctxOf s h L with table := T }) := by
  refine .putTables no rfl rfl fun M => ?_
  by_cases d : M = L
  · have here : ((hartOf s h).putCtx { ctxOf s h L with table := T }).ctx L = { ctxOf s h L with table := T } := by
      simpa only [ctxOf_launch] using Hart.ctx_putCtx_same (hartOf s h) { ctxOf s h L with table := T }
    rw [d, here]
    rfl
  · rw [Hart.ctx_putCtx_other _ _ _ (by rwa [ctxOf_launch])]

theorem keeps_unlessLater (no : ¬k) (n : Nat) {f : State → State} (kept : ∀ s, Framed k s (f s)) : Keeps k (unlessLater n f) := by
  intro s
  show Framed k s (if laterWrote n s then s else noteWrite n (f s))
  split
  · exact .refl s
  · exact (kept s).trans (framed_noteWrite no n)

theorem kept_cvtTblw (no : ¬k) (x y : ESrc) : KeptWord k (.cvtTblw x y) := by
  refine ⟨_, tblwOp x y, fun _ => rfl, .bind (keeps_readE x) fun i => .bind (keeps_readE y) fun v => .bind keeps_check fun _ =>
    .bind (keeps_unlessLater no _ fun s => ?_) fun _ => keeps_noteResult v⟩
  split
  · exact (framed_putTable no _ _ _).trans (framed_putTable no _ _ _)
  · exact framed_putTable no _ _ _

end

/-! ## Every X-word -/

/-- Every X-word is an operation that keeps to the frame; only cvt.tblw needs leave to write a decode table. Where the function of a
shape is written out at the word, exec is unfolded first, so that the function is read off one equation. -/
theorem kept_of_encodeX {k : Prop} {i : Instr} (x : (encodeX i).isSome = true) (table : k → ∀ x y, i ≠ .cvtTblw x y) : KeptWord k i := by
  cases i
  case iaAdd | iaSub | iaAnd | iaOr | iaXor | iaSll | iaSrl | iaSra | iaMul | iaMulh | iaMulhu | iaDiv | iaDivu | iaRem | iaRemu |
      iaMin | iaMax | iaMinu | iaMaxu | iaSlt | iaSltu => exact kept_iaOp fun _ => rfl
  case iaClz | iaCtz | iaPopc | iaiAddi | iaiAndi | iaiOri | iaiXori | iaiSlli | iaiSrli | iaiSrai => exact kept_iaiOp fun _ => rfl
  case iaAdds | iaSubs => exact kept_satOp fun _ => rfl
  case iaSel => exact kept_iaSel ..
  case iaiLui => exact kept_iaiLui ..
  case faAdd | faSub | faMin | faMax => exact kept_faTwo fun _ => rfl
  case faMul | faRcps | faCeq | faClt | faCle =>
    apply kept_faTwo
    intro s
    unfold exec
    exact rfl
  case faFma | faFms | faFnma =>
    apply kept_faThree
    intro s
    unfold exec
    exact rfl
  case faAbs | faNeg | faRcpe | faRsqe | faSqrt | faClass =>
    apply kept_faOne
    intro s
    unfold exec
    exact rfl
  case cvtEncS | cvtDecS | cvtCnvS | cvtFtiS | cvtItfS => exact kept_cvtOp fun _ => rfl
  case cvtEncV | cvtDecV | cvtCnvV | cvtFtiV | cvtItfV => exact kept_cvtVecOp fun _ => rfl
  case cvtTblw a b => exact kept_cvtTblw (fun yes => table yes a b rfl) a b
  case cvtPack => exact kept_cvtPack ..
  case cvtUnpk => exact kept_cvtUnpk ..
  case prAnd | prOr | prXor | prAndn => exact kept_prOp fun _ => rfl
  case prNot => exact kept_prNot ..
  case prSet => exact kept_prSet ..
  case prGet => exact kept_prGet ..
  case prCeq | prCne | prClt | prCle | prCltu | prCleu => exact kept_prCmp fun _ => rfl
  case prAny | prAll | prPopc => exact kept_prRead fun _ => rfl
  case vaAdd | vaSub | vaMul | vaMulh | vaAnd | vaOr | vaXor | vaSll | vaSrl | vaSra | vaMin | vaMax | vaMinu | vaMaxu | vfAdd | vfSub |
      vfMin | vfMax => exact kept_vecTwo fun _ => rfl
  case vaAdds | vaSubs | vaAddus | vaSubus | vfMul =>
    apply kept_vecTwo
    intro s
    unfold exec
    exact rfl
  case vaAbs | vfAbs | vfNeg | vfRcpe | vxMov =>
    apply kept_vecOne
    intro s
    unfold exec
    exact rfl
  case vaCeq | vaClt | vaCltu | vfCeq | vfClt | vfCle =>
    apply kept_vecCmp
    intro s
    unfold exec
    exact rfl
  case vaSel => exact kept_vaSel ..
  case vaDot => exact kept_vaDot ..
  case vaRsum | vaRmin | vaRmax | vfRsum | vfRmin | vfRmax => exact kept_reduceWord fun _ => rfl
  case vfFma => exact kept_vfFma ..
  case vfDot => exact kept_vfDot ..
  case vxBcast | vxIdx =>
    apply kept_scalarWord
    intro s
    unfold exec
    exact rfl
  case vxPerm | vxZip | vxUnzip => exact kept_moveWord fun _ => rfl
  case vxRot => exact kept_vxRot ..
  case vxExt => exact kept_vxExt ..
  case vxIns => exact kept_vxIns ..
  case vxAmax => exact kept_vxAmax ..
  case vxScale => exact kept_vxScale ..
  case vxBarq => exact kept_vxBarq ..
  case fmtSetX => exact kept_fmtSetX ..
  case nopX => exact kept_nopX
  -- every other word is one of the access side, which has no X-word
  all_goals cases x

/-- A word that keeps to the frame runs as one. -/
theorem framed_exec {k : Prop} {i : Instr} {s t : State} (word : KeptWord k i) (runs : exec i s = .next t)
    (same : (curSlot t).inTrap = (curSlot s).inTrap) (lives : launchOf t (curLaunch s) ≠ none) : Framed k s t := by
  obtain ⟨g, op, shape, kept⟩ := word
  rw [shape, wordE, onSlot] at runs
  split_ifs at runs
  cases runs
  exact framed_stepE g kept same lives

/-- Settles O41: each X-word is an operation that keeps to the frame, and what keeps to it is the frame of the obligation. -/
theorem frameOfEWords : Obligations.FrameOfEWords := by
  unfold Obligations.FrameOfEWords
  intro i s t x runs same lives
  refine ⟨(framed_exec (kept_of_encodeX x False.elim) runs same lives).frameE, fun table h => ?_⟩
  exact (framed_exec (kept_of_encodeX x fun _ => table) runs same lives).tables trivial h

end Sys2Proof.Machine
end

section
/-! SUPPORT. Matrix jobs: the queue's places, the cells of a slot, and what an integer step commits (spec/02 R35 R36, spec/10 R196,
spec/17 R292 R293). -/

namespace Sys2Proof.Machine

open Sys2Proof.Claims

/-! ## Places of a queue (R34, R123) -/

theorem get_modifyAt {α : Type} {f : α → α} {k : Nat} {xs : List α} {x : α} (at' : xs[k]? = some x) :
    (modifyAt f k xs)[k]? = some (f x) := by
  induction xs generalizing k with
  | nil => simp at at'
  | cons y ys ih =>
    cases k with
    | zero =>
      cases at'
      rfl
    | succ k => exact ih at'

theorem headFrom_get {lo k : Nat} {js : List Job} {j : Job} (head : headFrom lo js = some (k, j)) : lo ≤ k ∧ js[k - lo]? = some j := by
  induction js generalizing lo with
  | nil => cases head
  | cons i is ih =>
    rw [headFrom] at head
    split at head
    · cases head
      exact ⟨le_rfl, by simp⟩
    · obtain ⟨above, get⟩ := ih head
      exact ⟨by omega, by rwa [show k - lo = (k - (lo + 1)) + 1 by omega]⟩

theorem findJob_get {ok : Job → Bool} {lo k : Nat} {js : List Job} {j : Job} (found : findJob ok lo js = some (k, j)) :
    lo ≤ k ∧ js[k - lo]? = some j := by
  induction js generalizing lo with
  | nil => cases found
  | cons i is ih =>
    rw [findJob] at found
    split at found
    · cases found
      exact ⟨le_rfl, by simp⟩
    · obtain ⟨above, get⟩ := ih found
      exact ⟨by omega, by rwa [show k - lo = (k - (lo + 1)) + 1 by omega]⟩

theorem findJob_none {ok : Job → Bool} {lo : Nat} {js : List Job} (no : ∀ j ∈ js, ok j = false) : findJob ok lo js = none := by
  induction js generalizing lo with
  | nil => rfl
  | cons i is ih =>
    rw [findJob, no i List.mem_cons_self, if_neg Bool.false_ne_true]
    exact ih fun j at' => no j (List.mem_cons_of_mem i at')

theorem clusterOf_setJob (s : State) (c k : Nat) (j : Job) :
    clusterOf (setJob s c k j) c = { clusterOf s c with jobs := modifyAt (fun _ => j) k (clusterOf s c).jobs } :=
  clusterOf_putCluster_same ..

theorem jobs_setJob {s : State} {c k : Nat} {i : Job} (j : Job) (at' : (clusterOf s c).jobs[k]? = some i) :
    (clusterOf (setJob s c k j) c).jobs[k]? = some j := by
  rw [clusterOf_setJob]
  exact get_modifyAt at'

@[simp] theorem accs_setJob (s : State) (c k : Nat) (j : Job) : (clusterOf (setJob s c k j) c).accs = (clusterOf s c).accs := by
  rw [clusterOf_setJob]
@[simp] theorem carries_setJob (s : State) (c k : Nat) (j : Job) : (clusterOf (setJob s c k j) c).carries = (clusterOf s c).carries := by
  rw [clusterOf_setJob]
@[simp] theorem cstall_setJob (s : State) (c k : Nat) (j : Job) : (clusterOf (setJob s c k j) c).cstall = (clusterOf s c).cstall := by
  rw [clusterOf_setJob]

/-! ## Lists by key -/

theorem getD_cellMap (v : Nat → Nat) (ks : List Nat) (i : Nat) :
    SMap.getD (cellMap (ks.map fun k => (k, v k))) i 0 = if i ∈ ks then BitVec.ofNat 32 (v i) else 0 := by
  unfold cellMap
  induction ks with
  | nil => rfl
  | cons k ks ih =>
    by_cases zero : v k = 0
    · by_cases here : i = k
      · simp_all
      · simp_all
    · by_cases here : i = k
      · simp [here, zero, SMap.getD, SMap.find]
      · simpa [here, zero, SMap.getD, SMap.find, Ne.symm here] using ih

/-- Of a list of keys with their values, those that p keeps: the first of key i. -/
theorem find_filter_map {α : Type} (w : Nat → α) (p : Nat × α → Bool) (ks : List Nat) (i : Nat) :
    ((ks.map fun k => (k, w k)).filter p).find? (fun x => x.1 == i) = if i ∈ ks ∧ p (i, w i) = true then some (i, w i) else none := by
  induction ks with
  | nil => simp
  | cons k ks ih =>
    by_cases here : k = i
    · subst here
      by_cases kept : p (k, w k) = true
      · simp [kept]
      · simpa [kept] using ih
    · by_cases kept : p (k, w k) = true
      · rw [List.map_cons, List.filter_cons_of_pos kept, List.find?_cons_of_neg (by simpa using here), ih]
        simp only [List.mem_cons, Ne.symm here, false_or]
      · simp only [List.map_cons, List.filter_cons_of_neg kept, ih, List.mem_cons, Ne.symm here, false_or]

/-! ## The commit of an integer step (R196, R293) -/

/-- The new value of each cell, with how its count moves. -/
def steppedCells (C : Cluster) (j : Job) (sums : List Int) : List (Nat × Nat × Int) :=
  (upFrom 0 1024).map fun i => (i, wrapCell (C.accs[j.acc].cell i) (sums.getD i 0))

/-- The cells whose count moves. -/
def movedCells (C : Cluster) (j : Job) (sums : List Int) : List (Nat × Nat × Int) := (steppedCells C j sums).filter fun x => x.2.2 != 0

/-- The cells that need a new carry entry. -/
def freshCells (C : Cluster) (j : Job) (sums : List Int) : List (Nat × Nat × Int) :=
  (movedCells C j sums).filter fun x => (C.countOf j.acc x.1).isNone

/-- A carry entry after the step. -/
def bumped (C : Cluster) (j : Job) (sums : List Int) (x : Carry) : Carry :=
  if x.slot = j.acc.val then
    { x with count := x.count + (((movedCells C j sums).find? fun y => y.1 == x.cell).map (·.2.2)).getD 0 }
  else x

/-- The cluster after the step. -/
def committed (C : Cluster) (j : Job) (sums : List Int) : Cluster :=
  { C with
    carries := C.carries.map (bumped C j sums) ++ (freshCells C j sums).map fun x => ⟨j.acc, x.1, x.2.2⟩
    accs := C.accs.set j.acc { C.accs[j.acc] with cells := cellMap ((steppedCells C j sums).map fun x => (x.1, x.2.1)) } }

/-- Would a moved cell's count leave its eight bits? -/
def beyond (C : Cluster) (j : Job) (x : Nat × Nat × Int) : Bool :=
  decide ((C.countOf j.acc x.1).getD 0 + x.2.2 < -128) || decide (127 < (C.countOf j.acc x.1).getD 0 + x.2.2)

/-- The entries that the step's slot may hold. -/
def limitOf (j : Job) : Nat := if j.cblim = 0 then 256 else j.cblim

section
variable (C : Cluster) (j : Job) (sums : List Int)

theorem commitInt_eq : commitInt C j sums =
    if (movedCells C j sums).any (beyond C j) then .full 0x002
    else if C.carriesOf j.acc + (freshCells C j sums).length ≤ limitOf j ∧ C.cbused + (freshCells C j sums).length ≤ 256 then
      .done (committed C j sums)
    else if j.trapnow then .full 0x001
    else if C.carriesOf j.acc + (freshCells C j sums).length ≤ limitOf j && drainQueued C j.acc then .stall
    else .full 0x000 := rfl

theorem eq_committed {D : Cluster} (done : commitInt C j sums = .done D) : D = committed C j sums := by
  rw [commitInt_eq] at done
  split_ifs at done
  cases done
  rfl

theorem mem_movedCells {x : Nat × Nat × Int} :
    x ∈ movedCells C j sums ↔ ∃ i < 1024, moveOf C j sums i ≠ 0 ∧ (i, wrapCell (C.accs[j.acc].cell i) (sums.getD i 0)) = x := by
  simp only [movedCells, steppedCells, upFrom_zero, List.mem_filter, List.mem_map, List.mem_range, bne_iff_ne]
  constructor
  · rintro ⟨⟨i, below, rfl⟩, moves⟩
    exact ⟨i, below, moves, rfl⟩
  · rintro ⟨i, below, moves, rfl⟩
    exact ⟨⟨i, below, rfl⟩, moves⟩

theorem beyond_iff (i : Nat) : beyond C j (i, wrapCell (C.accs[j.acc].cell i) (sums.getD i 0)) = true ↔
    ((C.countOf j.acc i).getD 0 + moveOf C j sums i < -128 ∨ 127 < (C.countOf j.acc i).getD 0 + moveOf C j sums i) := by
  rw [beyond, Bool.or_eq_true, decide_eq_true_iff, decide_eq_true_iff]
  rfl

theorem any_beyond_iff : (movedCells C j sums).any (beyond C j) = true ↔ CountOverflows C j sums := by
  rw [List.any_eq_true]
  constructor
  · rintro ⟨x, moved, out⟩
    obtain ⟨i, below, moves, rfl⟩ := (mem_movedCells C j sums).1 moved
    exact ⟨i, below, moves, (beyond_iff C j sums i).1 out⟩
  · rintro ⟨i, below, moves, out⟩
    exact ⟨_, (mem_movedCells C j sums).2 ⟨i, below, moves, rfl⟩, (beyond_iff C j sums i).2 out⟩

theorem length_freshCells : (freshCells C j sums).length = newEntries C j sums := by
  rw [freshCells, movedCells, List.filter_filter, steppedCells, upFrom_zero, List.filter_map, List.length_map, newEntries]
  refine congrArg List.length (List.filter_congr fun i _ => ?_)
  rw [Bool.eq_iff_iff]
  simp [moveOf, and_comm, Option.isNone_iff_eq_none]

theorem find_movedCells {i : Nat} (below : i < 1024) :
    (((movedCells C j sums).find? fun y => y.1 == i).map (·.2.2)).getD 0 = moveOf C j sums i := by
  rw [movedCells, steppedCells, find_filter_map, upFrom_zero]
  by_cases moves : moveOf C j sums i = 0
  · rw [if_neg fun h => bne_iff_ne.1 h.2 moves, moves]
    rfl
  · rw [if_pos ⟨List.mem_range.2 below, bne_iff_ne.2 moves⟩]
    rfl

theorem find_freshCells {i : Nat} (below : i < 1024) (unlisted : C.countOf j.acc i = none) :
    (((freshCells C j sums).find? fun y => y.1 == i).map (·.2.2)).getD 0 = moveOf C j sums i := by
  rw [freshCells, movedCells, List.filter_filter, steppedCells, find_filter_map, upFrom_zero]
  by_cases moves : moveOf C j sums i = 0
  · rw [if_neg fun h => bne_iff_ne.1 (Bool.and_eq_true_iff.1 h.2).2 moves, moves]
    rfl
  · rw [if_pos ⟨List.mem_range.2 below, by rw [unlisted]; exact bne_iff_ne.2 moves⟩]
    rfl

theorem cell_committed {i : Nat} (below : i < 1024) :
    (committed C j sums).accs[j.acc].cell i = BitVec.ofNat 32 (wrapCell (C.accs[j.acc].cell i) (sums.getD i 0)).1 := by
  have listed := getD_cellMap (fun i => (wrapCell (C.accs[j.acc].cell i) (sums.getD i 0)).1) (List.range 1024) i
  rw [if_pos (List.mem_range.2 below)] at listed
  simpa [committed, Acc.cell, steppedCells, upFrom_zero, List.map_map, Function.comp_def] using listed

theorem count_committed {i : Nat} (below : i < 1024) :
    ((committed C j sums).countOf j.acc i).getD 0 = (C.countOf j.acc i).getD 0 + moveOf C j sums i := by
  have same : ((fun x : Carry => x.slot == j.acc.val && x.cell == i) ∘ bumped C j sums) = fun x => x.slot == j.acc.val && x.cell == i := by
    funext x
    simp only [Function.comp, bumped]
    split <;> rfl
  unfold Cluster.countOf
  rw [committed, List.find?_append, List.find?_map, same, List.find?_map]
  cases found : C.carries.find? (fun x => x.slot == j.acc.val && x.cell == i) with
  | some x =>
    obtain ⟨slot, cell⟩ : x.slot = j.acc.val ∧ x.cell = i := by simpa using List.find?_some found
    simp only [Option.map_some, Option.some_or, Option.getD_some, bumped, slot, if_true, cell, find_movedCells C j sums below]
  | none =>
    have unlisted : C.countOf j.acc i = none := by rw [Cluster.countOf, found]; rfl
    have first : ((fun x : Carry => x.slot == j.acc.val && x.cell == i) ∘ fun x : Nat × Nat × Int => (⟨j.acc, x.1, x.2.2⟩ : Carry)) =
        fun x => x.1 == i := by
      funext x
      simp
    rw [first, Option.map_none, Option.none_or, Option.map_map]
    simpa [Function.comp_def] using find_freshCells C j sums below unlisted

/-! ## The numbers that a step and a drain keep to (R196, R293, R296) -/

theorem signedOf_eq_sgn (w v : Nat) (pos : 0 < w) : signedOf w v = sgn w (v % 2 ^ w) := by
  have half : 2 * (v % 2 ^ w) < 2 ^ w ↔ v % 2 ^ w < 2 ^ (w - 1) := by
    obtain ⟨k, rfl⟩ := Nat.exists_eq_succ_of_ne_zero pos.ne'
    rw [Nat.succ_sub_one, Nat.pow_succ]
    omega
  simp only [signedOf, sgn, half]
  push_cast
  rfl

theorem patOf_eq_pat (w : Nat) (v : Int) : patOf w v = pat w v := by
  unfold patOf pat
  push_cast
  rfl

/-- A number of 24 bits stands in a cell as it is. -/
theorem sgn_ofNat_patOf {v : Int} (low : -2 ^ 23 ≤ v) (high : v < 2 ^ 23) : sgn 24 ((BitVec.ofNat 32 (patOf 24 v)).toNat % 2 ^ 24) = v := by
  rw [BitVec.toNat_ofNat, patOf, sgn]
  norm_num at low high ⊢
  split <;> omega

/-- What a cell and its count hold together grows by the sum. -/
theorem wrapCell_exact (acc : BitVec 32) {n : Int} (small : n.natAbs ≤ 2 ^ 23) :
    sgn 24 ((BitVec.ofNat 32 (wrapCell acc n).1).toNat % 2 ^ 24) + 2 ^ 24 * (wrapCell acc n).2 = sgn 24 (acc.toNat % 2 ^ 24) + n := by
  have range : -2 ^ 23 ≤ sgn 24 (acc.toNat % 2 ^ 24) ∧ sgn 24 (acc.toNat % 2 ^ 24) < 2 ^ 23 := by
    unfold sgn
    norm_num
    split <;> omega
  rw [wrapCell, signedOf_eq_sgn 24 _ (by decide)]
  generalize sgn 24 (acc.toNat % 2 ^ 24) = m at range ⊢
  norm_num at range small
  split_ifs
  · rw [sgn_ofNat_patOf (by omega) (by omega)]
    omega
  · rw [sgn_ofNat_patOf (by omega) (by omega)]
    omega
  · rw [sgn_ofNat_patOf (by omega) (by omega)]
    omega

/-- An integer step that commits adds each cell's exact sum (R196, R293). -/
theorem exactCell_committed {C : Cluster} {j : Job} {sums : List Int} {i : Nat} (small : (sums.getD i 0).natAbs ≤ 2 ^ 23) (below : i < 1024) :
    exactCell (committed C j sums) j.acc i = exactCell C j.acc i + sums.getD i 0 := by
  rw [exactCell, cell_committed C j sums below, count_committed C j sums below, mul_add, exactCell]
  have exact := wrapCell_exact (C.accs[j.acc].cell i) small
  rw [moveOf]
  omega

/-- What a step commits, by its counts and the entries that it needs (R293). -/
theorem commitInt_cases (C : Cluster) (j : Job) (sums : List Int) : (CountOverflows C j sums → commitInt C j sums = .full 0x002) ∧
    (¬ CountOverflows C j sums →
      let n := newEntries C j sums
      let lim := if j.cblim = 0 then 256 else j.cblim
      (C.carriesOf j.acc + n ≤ lim → C.cbused + n ≤ 256 → ∃ D, commitInt C j sums = .done D) ∧
      (lim < C.carriesOf j.acc + n ∨ 256 < C.cbused + n →
        (j.trapnow = true → commitInt C j sums = .full 0x001) ∧
        (j.trapnow = false → C.carriesOf j.acc + n ≤ lim → drainQueued C j.acc = true → commitInt C j sums = .stall) ∧
        (j.trapnow = false → lim < C.carriesOf j.acc + n ∨ drainQueued C j.acc = false → commitInt C j sums = .full 0x000))) := by
  rw [commitInt_eq, length_freshCells]
  refine ⟨fun out => if_pos ((any_beyond_iff C j sums).2 out), fun within => ?_⟩
  rw [if_neg fun out => within ((any_beyond_iff C j sums).1 out)]
  refine ⟨fun own all => ⟨_, if_pos ⟨own, all⟩⟩, fun short => ?_⟩
  rw [if_neg (show ¬(C.carriesOf j.acc + newEntries C j sums ≤ limitOf j ∧ C.cbused + newEntries C j sums ≤ 256) from fun both =>
    short.elim (Nat.not_lt.2 both.1) (Nat.not_lt.2 both.2))]
  refine ⟨fun now => if_pos now, fun later own queued => ?_, fun later none' => ?_⟩
  · rw [if_neg (by simp [later]), if_pos (Bool.and_eq_true_iff.2 ⟨decide_eq_true (p := _ ≤ limitOf j) own, queued⟩)]
  · rw [if_neg (by simp [later]), if_neg ?_]
    rintro both
    obtain ⟨own, queued⟩ := Bool.and_eq_true_iff.1 both
    exact none'.elim (Nat.not_lt.2 (of_decide_eq_true own)) fun no => by simp [no] at queued

/-- A narrow drain clamps to 32 bits. -/
theorem clampS_eq (v : Int) : (clampS 32 v).1 = max (-2 ^ 31) (min (2 ^ 31 - 1) v) ∧
    ((clampS 32 v).2 = true ↔ v < -2 ^ 31 ∨ 2 ^ 31 - 1 < v) := by
  unfold clampS
  norm_num
  split_ifs <;> simp <;> omega

/-- A drained cell of an integer slot: the number that the cell and its count hold (R296). -/
theorem drainInt_cases (acc : BitVec 32) (n : Int) :
    drainInt acc n true = (pat 64 (sgn 24 (acc.toNat % 2 ^ 24) + n * 2 ^ 24), false) ∧
    (drainInt acc n false).1 = pat 32 (max (-2 ^ 31) (min (2 ^ 31 - 1) (sgn 24 (acc.toNat % 2 ^ 24) + n * 2 ^ 24))) ∧
    ((drainInt acc n false).2 = true ↔ sgn 24 (acc.toNat % 2 ^ 24) + n * 2 ^ 24 < -2 ^ 31 ∨
      2 ^ 31 - 1 < sgn 24 (acc.toNat % 2 ^ 24) + n * 2 ^ 24) := by
  simp only [drainInt, signedOf_eq_sgn 24 _ (by decide), if_true, Bool.false_eq_true, if_false, patOf_eq_pat]
  obtain ⟨value, sat⟩ := clampS_eq (sgn 24 (acc.toNat % 2 ^ 24) + n * 2 ^ 24)
  exact ⟨trivial, by rw [value], sat⟩

end

end Sys2Proof.Machine
end

section
/-! SUPPORT. Matrix jobs, continued: how a step job runs, commits, stalls and fails (spec/17 R292 to R295). -/

namespace Sys2Proof.Machine

open Sys2Proof.Claims

/-! ## What a step reads (R53, R289, R295) -/

theorem CoresOnly.clusterOf {s t : State} (h : CoresOnly s t) (c : Nat) : clusterOf t c = Machine.clusterOf s c := by
  rw [h]
  rfl

theorem recallRange_coresOnly (s : State) (L home off n : Nat) : CoresOnly s (recallRange s L home off n) :=
  .foldl (fun t i => recallU_coresOnly t L home (64 * i)) _ s

theorem recallRuns_coresOnly (s : State) (L own n : Nat) (r : Word) : CoresOnly s (recallRuns s L own n r) :=
  .foldl (fun t _ => recallU_coresOnly t L own _) _ s

theorem gatherStep_coresOnly {s u : State} {j : Job} {ps : List Nat} {g : StepData} (e : gatherStep s j ps = .ok (g, u)) : CoresOnly s u := by
  unfold gatherStep at e
  extract_lets L w3 ha hb K ra rb st s1 rows t1 u1 v ca cb co at e
  split at e
  · cases e
  · have first : CoresOnly s s1 := by
      dsimp only [s1]
      split
      · exact recallRange_coresOnly ..
      · exact .refl s
    have all : CoresOnly s1 v := (CoresOnly.foldl (fun t o => recallRange_coresOnly t L ha o ra) rows s1).trans
      ((recallRange_coresOnly ..).trans ((recallRange_coresOnly ..).trans (recallRange_coresOnly ..)))
    have last : v = u := congrArg Prod.snd (Except.ok.inj e)
    rw [← last]
    exact first.trans all

/-- Where every granule is present, so is every position along K. -/
theorem presentOf_replicate (n : Nat) : presentOf (List.replicate n true) = List.range (8 * n) := by
  rw [presentOf, List.length_replicate, upFrom_zero, List.filter_eq_self]
  intro k below
  have inside : k / 8 < n := by
    have := List.mem_range.1 below
    omega
  simp [List.getD, inside]

/-! ## The end of a walk (R295) -/

theorem clusterOf_endWalk (s : State) (j : Job) (r : Option Word) (c : Nat) : clusterOf (endWalk s j r) c = clusterOf s c := by
  unfold endWalk
  split
  · split <;> rfl
  · rfl

theorem endWalk_of_step {s : State} {j : Job} {r : Option Word} (one : j.op < 4) : endWalk s j r = s := by
  unfold endWalk
  split
  · rw [if_neg (by simp; omega)]
  · rfl

/-- A walk that succeeded leaves its register where it got to. -/
theorem sm_endWalk {s : State} {j : Job} {src : Issuer} (w : Word) (rep : j.rep = .slot src) (alive : runs s src = true) (low : 4 ≤ j.op)
    (high : j.op < 8) : (slotOf (endWalk s j (some w)) src.hart src.slot).sm[Fin.ofNat 4 j.sm] = w := by
  unfold endWalk
  rw [rep]
  simp only [alive, low, Nat.lt_succ_iff.1 high, decide_true, Bool.and_self, if_true, slotOf_putSlot_same]
  simp

/-! ## A step commits, stalls or fails (R293) -/

section
variable {s : State} {c k : Nat} {i j : Job} {sums : List Int}

theorem takeAcc_cell (s : State) (a : Acc) (j : Job) (mode i : Nat) : (takeAcc s a j mode).cell i = a.cell i := by
  unfold takeAcc
  split <;> rfl

theorem slotOf_commitStep (h n : Nat) : slotOf (commitStep s c k j sums) h n = slotOf s h n := by
  unfold commitStep
  extract_lets C
  split <;> rfl

/-- What a step that commits leaves. -/
theorem commitStep_done {D : Cluster} (at' : (clusterOf s c).jobs[k]? = some i) (e : commitInt (clusterOf s c) j sums = .done D) :
    (clusterOf (commitStep s c k j sums) c).jobs[k]? = some (j.finish none) ∧ (clusterOf (commitStep s c k j sums) c).cstall = false ∧
      (clusterOf (commitStep s c k j sums) c).carries = D.carries ∧
      ∀ n, (clusterOf (commitStep s c k j sums) c).accs[j.acc].cell n = D.accs[j.acc].cell n := by
  have queue : D.jobs = (clusterOf s c).jobs := by
    rw [eq_committed _ _ _ e]
    rfl
  simp only [commitStep, e]
  refine ⟨jobs_setJob (i := i) _ ?_, ?_, ?_, fun n => ?_⟩
  · rw [clusterOf_putCluster_same, ← at', ← queue]
  · rw [cstall_setJob, clusterOf_putCluster_same]
  · rw [carries_setJob, clusterOf_putCluster_same]
  · simp only [accs_setJob, clusterOf_putCluster_same]
    split
    · simp [takeAcc_cell]
    · rfl

/-- What a step that stalls leaves. -/
theorem commitStep_stall (at' : (clusterOf s c).jobs[k]? = some i) (e : commitInt (clusterOf s c) j sums = .stall) :
    (clusterOf (commitStep s c k j sums) c).jobs[k]? = some { j with started := true, sums := sums } ∧
      (clusterOf (commitStep s c k j sums) c).cstall = true ∧
      (clusterOf (commitStep s c k j sums) c).accs = (clusterOf s c).accs ∧
      (clusterOf (commitStep s c k j sums) c).carries = (clusterOf s c).carries := by
  simp only [commitStep, e, cstall_setJob, accs_setJob, carries_setJob]
  refine ⟨jobs_setJob (i := i) _ ?_, ?_, ?_, ?_⟩ <;> rw [clusterOf_putCluster_same]
  exact at'

/-- What a step that fails leaves. -/
theorem commitStep_full {d : BitVec 12} (at' : (clusterOf s c).jobs[k]? = some i) (e : commitInt (clusterOf s c) j sums = .full d) :
    (clusterOf (commitStep s c k j sums) c).jobs[k]? = some (j.failed codeCarryFull d) ∧
      (clusterOf (commitStep s c k j sums) c).cstall = false ∧
      (clusterOf (commitStep s c k j sums) c).accs = (clusterOf s c).accs ∧
      (clusterOf (commitStep s c k j sums) c).carries = (clusterOf s c).carries := by
  simp only [commitStep, e, cstall_setJob, accs_setJob, carries_setJob]
  refine ⟨jobs_setJob (i := i) _ ?_, ?_, ?_, ?_⟩ <;> rw [clusterOf_putCluster_same]
  exact at'

/-! ## A step job starts (R292) -/

/-- The state in which a step reads: the lines of its skip list recalled (R53). -/
def stepFrom (s : State) (j : Job) : State := if j.op < 4 then s else recallRuns s (jobLaunch s j) j.own 4 (streamOf s j)

/-- The accumulator slot takes a step of the job: it is free, or the issuer's own in the mode of the formats, and no drain has started
(R292). -/
def TakesStep (A : Acc) (j : Job) : Prop := A.state = 0 ∨ (owns A j = true ∧ A.draining = false ∧ A.state = if intMode j.fmtA then 1 else 2)

theorem TakesStep.not_others {A : Acc} (takes : TakesStep A j) (busy : A.state ≠ 0) :
    ¬((!owns A j) = true ∨ 3 ≤ A.state ∨ A.draining = true) := by
  obtain ⟨owned, still, state⟩ := takes.resolve_left busy
  have low : A.state < 3 := by
    rw [state]
    split <;> decide
  rw [owned, still]
  simp only [Bool.not_true, Bool.false_eq_true, false_or, or_false]
  omega

/-- A step that fails as it starts. -/
def stepFails (s : State) (c k : Nat) (j : Job) (f : BitVec 16 × BitVec 12) : State :=
  setJob (endWalk { s with fresh := s.fresh + 1 } j none) c k (j.failed f.1 f.2)

/-- A step whose slot takes it, from the state in which it reads. -/
def stepGoes (s : State) (c k : Nat) (j : Job) : State :=
  match stepGranules s j with
  | .error f => stepFails s c k j f
  | .ok (gs, r) =>
    match gatherStep s j (presentOf gs) with
    | .error f => stepFails s c k j f
    | .ok (g, u) =>
      let t := endWalk u j r
      if intMode j.fmtA then commitStep t c k j ((upFrom 0 1024).map fun i => g.sum j.fmtA j.fmtB i)
      else
        let A := (clusterOf s c).accs[j.acc]
        let C := clusterOf t c
        let B := floatStep A g j.fmtA j.fmtB (j.op % 4) j.strict
        setJob (putCluster t c { C with accs := C.accs.set j.acc (if A.state = 0 then takeAcc t B j 2 else B) }) c k (j.finish none)

theorem runStep_goes (held : engineHeld s j.own = false) (takes : TakesStep (clusterOf (stepFrom s j) c).accs[j.acc] j) :
    runStep s c k j = stepGoes (stepFrom s j) c k j := by
  unfold runStep
  rw [show (if j.op < 4 then s else recallRuns s (jobLaunch s j) j.own 4 (streamOf s j)) = stepFrom s j from rfl]
  generalize stepFrom s j = u at takes ⊢
  have mine : ¬((clusterOf u c).accs[j.acc].state ≠ 0 ∧ (!owns (clusterOf u c).accs[j.acc] j ∨ 3 ≤ (clusterOf u c).accs[j.acc].state ∨
      (clusterOf u c).accs[j.acc].draining)) := fun ⟨busy, others⟩ => takes.not_others busy others
  have same : ¬((clusterOf u c).accs[j.acc].state ≠ 0 ∧ (clusterOf u c).accs[j.acc].state ≠ if intMode j.fmtA then 1 else 2) :=
    fun ⟨busy, other⟩ => other (takes.resolve_left busy).2.2
  simp only [held, Bool.false_eq_true, if_false, if_neg mine, if_neg same, stepGoes]
  cases stepGranules u j with
  | error f => rfl
  | ok x =>
    cases read : gatherStep u j (presentOf x.1) with
    | error f => simp only [read]; rfl
    | ok y =>
      by_cases int : intMode j.fmtA = true
      · simp only [read, int, if_true]
      · simp only [read, int, Bool.false_eq_true, if_false, OfNat.ofNat_ne_one]

/-- A step on a slot that is another owner's, orphaned or draining is refused. -/
theorem runStep_refused (held : engineHeld s j.own = false) (one : j.op < 4) (busy : (clusterOf s c).accs[j.acc].state ≠ 0)
    (others : owns (clusterOf s c).accs[j.acc] j = false ∨ 3 ≤ (clusterOf s c).accs[j.acc].state ∨ (clusterOf s c).accs[j.acc].draining = true) :
    runStep s c k j = stepFails s c k j (codeQueueMisuse, 0x040) := by
  unfold runStep
  rw [if_pos one, if_neg (by simp [held]), if_pos ⟨busy, by simpa using others⟩]
  rfl

theorem stepGoes_fails {f : BitVec 16 × BitVec 12} (e : stepGranules s j = .error f) : stepGoes s c k j = stepFails s c k j f := by
  simp only [stepGoes, e]

theorem stepGoes_int {gs : List Bool} {r : Option Word} {g : StepData} {u : State} (e : stepGranules s j = .ok (gs, r))
    (gathered : gatherStep s j (presentOf gs) = .ok (g, u)) (int : intMode j.fmtA = true) :
    stepGoes s c k j = commitStep (endWalk u j r) c k j ((List.range 1024).map fun i => g.sum j.fmtA j.fmtB i) := by
  simp only [stepGoes, e, gathered, int, if_true, upFrom_zero]

theorem stepGranules_step (one : j.op < 4) : stepGranules s j = .ok (List.replicate (stepK j.fmtA / 8) true, none) := if_pos one

theorem stepGranules_walk (low : 4 ≤ j.op) : stepGranules s j =
    (readRuns s (jobLaunch s j) j.own (stepK j.fmtA / 8) (stepK j.fmtA / 8) (streamOf s j)).map fun x => (x.1, some x.2) :=
  if_neg (by omega)

theorem stepJob_head (head : headFrom 0 (clusterOf s c).jobs = some (k, j)) (waits : j.started = false) (step : j.op < 8) :
    stepJob c s = runStep s c k j := by
  simp [stepJob, head, waits, step]

end

end Sys2Proof.Machine
end

section
/-! SUPPORT. Matrix jobs, concluded: drains, reclaims, the walk of a skip list, and the obligation (spec/02 R35 R36, spec/17 R295 to
R297). -/

namespace Sys2Proof.Machine

open Sys2Proof.Claims

/-! ## What an engine writes (R53, R296) -/

/-- Each cluster differs in its L2 lines alone. -/
def EnginesKept (s t : State) : Prop := ∀ c, clusterOf t c = { clusterOf s c with l2 := (clusterOf t c).l2 }

theorem EnginesKept.trans {s t u : State} (a : EnginesKept s t) (b : EnginesKept t u) : EnginesKept s u := fun c =>
  (b c).trans (congrArg (fun C : Cluster => { C with l2 := (clusterOf u c).l2 }) (a c) :)

theorem CoresOnly.enginesKept {s t : State} (h : CoresOnly s t) : EnginesKept s t := fun c => by rw [h.clusterOf]

theorem invalidate_enginesKept (s : State) (home off : Nat) : EnginesKept s (invalidate s home off) := by
  intro c
  simp only [clusterOf, invalidate, SMap.getD, SMap.find_map]
  cases SMap.find c s.clusters with
  | none => rfl
  | some C =>
    simp only [Option.map_some, Option.getD_some, Cluster.putSector]
    split <;> rfl

theorem invalidateHome_enginesKept (s : State) (L home off : Nat) : EnginesKept s (invalidateHome s L home off) := by
  unfold invalidateHome
  split
  · exact (invalidate_enginesKept s home off).trans (invalidate_enginesKept _ (home + 1) off)
  · exact invalidate_enginesKept s home off

theorem engineWrite_enginesKept (s : State) (L home off : Nat) (bs : List Byte) : EnginesKept s (engineWrite s L home off bs) := by
  have written := ((recallRange_coresOnly s L home off bs.length).trans (modHome_coresOnly _ L home fun c => c.write off bs)).enginesKept
  exact List.foldlRecOn (motive := EnginesKept s) _ _ written fun _ e i _ => e.trans (invalidateHome_enginesKept _ _ _ _)

theorem ctxOf_engineWrite (s : State) (L home off : Nat) (bs : List Byte) :
    ctxOf (engineWrite s L home off bs) home L = (ctxOf (recallRange s L home off bs.length) home L).write off bs := by
  have fold (is : List Nat) (u : State) : ctxOf (is.foldl (fun t i => invalidateHome t L home (64 * i)) u) home L = ctxOf u home L :=
    List.foldlRecOn (motive := fun t => ctxOf t home L = ctxOf u home L) is _ rfl fun t e i _ => (ctxOf_invalidateHome ..).trans e
  rw [engineWrite, fold]
  exact ctxOf_modHome fun c => rfl

theorem read_engineWrite {s : State} {L home off : Nat} {bs : List Byte}
    (wf : Memory.wf (ctxOf (recallRange s L home off bs.length) home L).scratch = true) {i : Nat} (inside : i < bs.length) :
    Memory.read (ctxOf (engineWrite s L home off bs) home L).scratch (off + i) = bs.getD i 0 := by
  rw [ctxOf_engineWrite]
  exact Memory.read_writeBytes_inside _ _ _ _ inside wf

/-! ## Drains (R296) -/

section
variable {s : State} {c k : Nat} {j : Job}

/-- The slot may be drained by the job: it is the issuer's, in a mode whose format the drain takes. -/
def Drains (A : Acc) (j : Job) : Prop := (A.state = 1 ∨ (A.state = 2 ∧ j.fd ≠ 32)) ∧ owns A j = true

theorem Drains.busy {A : Acc} (drains : Drains A j) : A.state ≠ 0 := by
  obtain ⟨one | ⟨two, _⟩, _⟩ := drains <;> omega

theorem drainRefused_of_drains (drains : Drains (clusterOf s c).accs[j.acc] j) : drainRefused s c j =
    writeBlocked s (jobLaunch s j) (j.home (j.word 0)) (offOf (j.word 0)) (drainBytes (clusterOf s c) j).length := by
  have busy := drains.busy
  obtain ⟨mode, owned⟩ := drains
  have mine : ¬((clusterOf s c).accs[j.acc].state ≠ 0 ∧ (!owns (clusterOf s c).accs[j.acc] j ∨ 3 ≤ (clusterOf s c).accs[j.acc].state)) := by
    rw [owned]
    simp only [Bool.not_true, Bool.false_eq_true, false_or]
    omega
  have takes : ¬((clusterOf s c).accs[j.acc].state = 2 ∧ j.fd = 32) := by
    omega
  simp only [drainRefused, if_neg mine, if_neg takes, drainOutput, if_neg busy, Nat.add_zero]

theorem drainRefused_of_format (two : (clusterOf s c).accs[j.acc].state = 2) (owned : owns (clusterOf s c).accs[j.acc] j = true)
    (format : j.fd = 32) : drainRefused s c j = some (codeQueueMisuse, 0x045) := by
  simp only [drainRefused, two, owned, format, Bool.not_true, Bool.false_eq_true, Nat.reduceLeDiff, or_self, and_false, if_false,
    and_self, if_true]

/-- What a drain of a free slot writes: its status word alone. -/
theorem drainOutput_of_free {C : Cluster} (free : C.accs[j.acc].state = 0) :
    drainOutput C j = (1024 * (if j.wide then 8 else 4), leBytes 512 8) := by
  rw [drainOutput, if_pos free]
  rfl

theorem drainRefused_of_free (free : (clusterOf s c).accs[j.acc].state = 0) : drainRefused s c j =
    writeBlocked s (jobLaunch s j) (j.home (j.word 0)) (offOf (j.word 0) + 1024 * (if j.wide then 8 else 4)) 8 := by
  simp only [drainRefused, free, ne_eq, not_true_eq_false, false_and, if_false, OfNat.zero_ne_ofNat, drainOutput_of_free free, leBytes_length]

theorem startDrain_of_drains (drains : Drains (clusterOf s c).accs[j.acc] j) (open' : drainRefused s c j = none) :
    startDrain s c k j = setJob (putCluster s c { clusterOf s c with
      accs := (clusterOf s c).accs.set j.acc { (clusterOf s c).accs[j.acc] with draining := true } }) c k { j with started := true } := by
  simp only [startDrain, open', if_neg drains.busy]

theorem startDrain_of_free (free : (clusterOf s c).accs[j.acc].state = 0) (open' : drainRefused s c j = none) : startDrain s c k j =
    setJob (engineWrite s (jobLaunch s j) (j.home (j.word 0)) (offOf (j.word 0) + 1024 * (if j.wide then 8 else 4)) (leBytes 512 8)) c k
      (j.finish none) := by
  simp only [startDrain, open', if_pos free, drainOutput_of_free free]

theorem startDrain_of_refused {f : BitVec 16 × BitVec 12} (refused : drainRefused s c j = some f) :
    startDrain s c k j = setJob s c k (j.failed f.1 f.2) := by
  simp only [startDrain, refused]

theorem endDrain_of_drains (drains : Drains (clusterOf s c).accs[j.acc] j) (open' : drainRefused s c j = none) : endDrain s c k j =
    setJob (freeAcc (engineWrite s (jobLaunch s j) (j.home (j.word 0)) (offOf (j.word 0)) (drainBytes (clusterOf s c) j)) c j.acc) c k
      (j.finish none) := by
  simp only [endDrain, open', drainOutput, if_neg drains.busy, Nat.add_zero]

/-- A head that is a drain starts where none is under way. -/
theorem drainJob_starts (head : headFrom 0 (clusterOf s c).jobs = some (k, j)) (waits : j.started = false) (drain : j.op = 8)
    (held : engineHeld s j.own = false) (alone : ∀ x ∈ (clusterOf s c).jobs, x.draining = false) : drainJob c s = startDrain s c k j := by
  simp [drainJob, findJob_none alone, head, held, waits, drain]

theorem drainJob_ends (under : findJob Job.draining 0 (clusterOf s c).jobs = some (k, j)) (held : engineHeld s j.own = false) :
    drainJob c s = endDrain s c k j := by
  simp [drainJob, under, held]

/-- STATE reads 4 while a drain is under way (R35). -/
theorem state_mxslot {C : Cluster} {a : Fin 8} (draining : C.accs[a].draining = true) : (C.mxslot a).extractLsb' 0 3 = 4 := by
  rw [Cluster.mxslot, if_pos draining]
  refine BitVec.eq_of_toNat_eq ?_
  rw [BitVec.extractLsb'_toNat, BitVec.toNat_ofNat, Nat.shiftRight_zero, show (4 : BitVec 3).toNat = 4 from rfl]
  omega

/-! ## Reclaims (R297) -/

theorem clusterOf_freeAcc (s : State) (c : Nat) (a : Fin 8) : clusterOf (freeAcc s c a) c =
    { clusterOf s c with
      carries := (clusterOf s c).carries.filter fun x => x.slot != a
      accs := (clusterOf s c).accs.set a Acc.reset } := clusterOf_putCluster_same ..

theorem accs_freeAcc (s : State) (c : Nat) (a : Fin 8) : (clusterOf (freeAcc s c a) c).accs[a] = Acc.reset := by
  rw [clusterOf_freeAcc]
  simp

theorem carries_freeAcc {s : State} {c : Nat} {a : Fin 8} {x : Carry} (left : x ∈ (clusterOf (freeAcc s c a) c).carries) :
    x.slot ≠ a.val := by
  rw [clusterOf_freeAcc] at left
  simpa using (List.mem_filter.1 left).2

theorem reclaimJob_head (head : headFrom 0 (clusterOf s c).jobs = some (k, j)) (waits : j.started = false) (reclaim : j.op = 9) :
    reclaimJob c s =
      if (clusterOf s c).accs[j.acc].state = 3 then setJob (freeAcc s c j.acc) c k (j.finish none)
      else if (clusterOf s c).accs[j.acc].state = 0 then setJob s c k (j.finish none)
      else setJob s c k (j.failed codeQueueMisuse 0x041) := by
  simp [reclaimJob, head, waits, reclaim]

end

/-! ## The walk of a skip list (R295) -/

/-- The next element of a skip list: a run that leaves the walk, or that the walk of the rest follows. -/
theorem readRuns_next {s : State} {L own fuel left : Nat} {r : Word} (some' : 0 < left) (count : r.extractLsb' 48 16 ≠ 0)
    (bytes : r.extractLsb' 46 2 = 0) (inside : (r.extractLsb' 0 18).toNat < Config.scratchBytes) :
    let e := leValue ((ctxOf s own L).read own (r.extractLsb' 0 18).toNat 1)
    let n := e % 128 + 1
    let next : Word := (r.extractLsb' 48 16 - 1) ++ r.extractLsb' 18 30 ++ (r.extractLsb' 0 18 + r.extractLsb' 18 18)
    (left < n → readRuns s L own (fuel + 1) left r = .error (codeQueueMisuse, 0x042)) ∧
    (∀ gs r', n ≤ left → readRuns s L own fuel (left - n) next = .ok (gs, r') →
      readRuns s L own (fuel + 1) left r = .ok (List.replicate n (decide (e < 128)) ++ gs, r')) := by
  have walks : ¬(r.extractLsb' 48 16 = 0 ∨ r.extractLsb' 46 2 ≠ 0) := fun stop => stop.elim count (absurd bytes ·)
  have within : ¬Config.scratchBytes < (r.extractLsb' 0 18).toNat + 1 := by omega
  dsimp only
  refine ⟨fun long => ?_, fun gs r' fits rest => ?_⟩
  · rw [readRuns, if_neg walks, if_neg within]
    · exact if_pos long
    · exact some'.ne'
  · rw [readRuns, if_neg walks, if_neg within]
    · simp only [if_neg (Nat.not_lt.2 fits), rest]
    · exact some'.ne'

end Sys2Proof.Machine
end

section
/-! SUPPORT. Matrix jobs: the events of the matrix engine, and the obligation on them (spec/17 R292 to R297). -/

namespace Sys2Proof.Machine

open Sys2Proof.Claims

theorem exec_stepJob (c : Nat) (s : State) : exec (.mxeStepJob c) s = .next (stepJob c s) := rfl
theorem exec_drainJob (c : Nat) (s : State) : exec (.mxeDrainJob c) s = .next (drainJob c s) := rfl
theorem exec_reclaimJob (c : Nat) (s : State) : exec (.mxeReclaimJob c) s = .next (reclaimJob c s) := rfl
theorem exec_resumeStall (c : Nat) (s : State) : exec (.carryStallResume c) s = .next (resumeStall c s) := rfl

section
variable {s : State} {c k : Nat} {j : Job}

theorem head_get (head : headFrom 0 (clusterOf s c).jobs = some (k, j)) : (clusterOf s c).jobs[k]? = some j := (headFrom_get head).2

theorem clusterOf_stepFails (f : BitVec 16 × BitVec 12) : clusterOf (stepFails s c k j f) c =
    { clusterOf s c with jobs := modifyAt (fun _ => j.failed f.1 f.2) k (clusterOf s c).jobs } := by
  rw [stepFails, clusterOf_setJob, clusterOf_endWalk]
  rfl

theorem queue_read (head : headFrom 0 (clusterOf s c).jobs = some (k, j)) {u : State} {ps : List Nat} {g : StepData}
    (gathered : gatherStep s j ps = .ok (g, u)) : (clusterOf u c).jobs[k]? = some j := by
  rw [(gatherStep_coresOnly gathered).clusterOf, head_get head]

/-- The walk of a skip list, and the reads of a step, leave the queue as it stands. -/
theorem queue_walked (head : headFrom 0 (clusterOf s c).jobs = some (k, j)) {s1 u : State} {ps : List Nat} {g : StepData} (r : Option Word)
    (recalled : s1 = recallRuns s (jobLaunch s j) j.own 4 (streamOf s j)) (gathered : gatherStep s1 j ps = .ok (g, u)) :
    (clusterOf (endWalk u j r) c).jobs[k]? = some j := by
  rw [clusterOf_endWalk, (gatherStep_coresOnly gathered).clusterOf, recalled, (recallRuns_coresOnly ..).clusterOf, head_get head]

/-! ## Steps (R292 to R294) -/

theorem cell_floatStep (A : Acc) (g : StepData) (fa fb scl : Nat) (strict : Bool) {i : Nat} (below : i < 1024) :
    (floatStep A g fa fb scl strict).cell i = BitVec.ofNat 32 (roundSum specFp32 0 (g.terms fa fb scl strict i).2
      (decodeIeee specFp32 (A.cell i).toNat :: (g.terms fa fb scl strict i).1)).1 := by
  have cell := getD_cellMap (fun i => (roundSum specFp32 0 (g.terms fa fb scl strict i).2
    (decodeIeee specFp32 (A.cell i).toNat :: (g.terms fa fb scl strict i).1)).1) (List.range 1024) i
  simpa only [floatStep, Acc.cell, upFrom_zero, List.map_map, Function.comp_def] using cell.trans (if_pos (List.mem_range.2 below))

section
variable (head : headFrom 0 (clusterOf s c).jobs = some (k, j)) (waits : j.started = false)
include head waits

/-- A step on a slot that is another owner's, orphaned or draining fails. -/
theorem stepJob_refused (one : j.op < 4) (held : engineHeld s j.own = false) (busy : (clusterOf s c).accs[j.acc].state ≠ 0)
    (others : owns (clusterOf s c).accs[j.acc] j = false ∨ 3 ≤ (clusterOf s c).accs[j.acc].state ∨ (clusterOf s c).accs[j.acc].draining = true) :
    (clusterOf (stepJob c s) c).jobs[k]? = some (j.failed codeQueueMisuse 0x040) ∧
      (clusterOf (stepJob c s) c).accs = (clusterOf s c).accs := by
  rw [stepJob_head head waits (by omega), runStep_refused held one busy others, clusterOf_stepFails]
  exact ⟨get_modifyAt (head_get head), rfl⟩

/-- A step of all granules that its slot takes. -/
theorem stepJob_goes (one : j.op < 4) (held : engineHeld s j.own = false) (takes : TakesStep (clusterOf s c).accs[j.acc] j) :
    stepJob c s = stepGoes s c k j := by
  have from' : stepFrom s j = s := if_pos one
  rw [stepJob_head head waits (by omega), runStep_goes held (by rwa [from']), from']

theorem stepJob_int {g : StepData} {u : State} (one : j.op < 4) (held : engineHeld s j.own = false)
    (takes : TakesStep (clusterOf s c).accs[j.acc] j) (gathered : gatherStep s j (List.range (8 * (stepK j.fmtA / 8))) = .ok (g, u))
    (int : intMode j.fmtA = true) :
    stepJob c s = commitStep u c k j ((List.range 1024).map fun i => g.sum j.fmtA j.fmtB i) := by
  rw [stepJob_goes head waits one held takes,
    stepGoes_int (stepGranules_step one) (by rwa [presentOf_replicate]) int, endWalk_of_step one]

theorem stepJob_float {g : StepData} {u : State} (one : j.op < 4) (held : engineHeld s j.own = false)
    (takes : TakesStep (clusterOf s c).accs[j.acc] j) (gathered : gatherStep s j (List.range (8 * (stepK j.fmtA / 8))) = .ok (g, u))
    (float : intMode j.fmtA = false) : (clusterOf (stepJob c s) c).jobs[k]? = some (j.finish none) ∧
      ∀ i, i < 1024 → ((clusterOf (stepJob c s) c).accs[j.acc].cell i).toNat = (roundSum specFp32 0
        (g.terms j.fmtA j.fmtB (j.op % 4) j.strict i).2 (decodeIeee specFp32 ((clusterOf s c).accs[j.acc].cell i).toNat ::
          (g.terms j.fmtA j.fmtB (j.op % 4) j.strict i).1)).1 % 2 ^ 32 := by
  rw [stepJob_goes head waits one held takes]
  have queue : (clusterOf u c).jobs[k]? = some j := queue_read head gathered
  simp only [stepGoes, stepGranules_step one, presentOf_replicate, gathered, endWalk_of_step one, float, Bool.false_eq_true, if_false]
  refine ⟨jobs_setJob (i := j) _ (by rwa [clusterOf_putCluster_same]), fun i below => ?_⟩
  refine (congrArg BitVec.toNat (Eq.trans ?_ (cell_floatStep _ g _ _ _ _ below))).trans (BitVec.toNat_ofNat ..)
  simp only [accs_setJob, clusterOf_putCluster_same, Fin.getElem_fin, Vector.getElem_set_self]
  split
  · rw [takeAcc_cell]
  · rfl

/-! ## Walking steps (R295) -/

theorem stepJob_walks (low : 4 ≤ j.op) (high : j.op < 8) (held : engineHeld s j.own = false) {s1 : State}
    (recalled : s1 = recallRuns s (jobLaunch s j) j.own 4 (streamOf s j)) (takes : TakesStep (clusterOf s1 c).accs[j.acc] j) :
    stepJob c s = stepGoes s1 c k j := by
  have from' : stepFrom s j = s1 := (if_neg (by omega)).trans recalled.symm
  rw [stepJob_head head waits high, runStep_goes held (by rwa [from']), from']

/-- A step whose skip list ends in a fault. -/
theorem stepJob_walk_fails (low : 4 ≤ j.op) (high : j.op < 8) (held : engineHeld s j.own = false) {s1 : State}
    (recalled : s1 = recallRuns s (jobLaunch s j) j.own 4 (streamOf s j)) (takes : TakesStep (clusterOf s1 c).accs[j.acc] j)
    {code : BitVec 16} {d : BitVec 12}
    (walk : readRuns s1 (jobLaunch s1 j) j.own (stepK j.fmtA / 8) (stepK j.fmtA / 8) (streamOf s1 j) = .error (code, d)) :
    stepJob c s = setJob (endWalk { s1 with fresh := s1.fresh + 1 } j none) c k (j.failed code d) := by
  rw [stepJob_walks head waits low high held recalled takes]
  exact stepGoes_fails (by rw [stepGranules_walk low, walk]; rfl)

/-- A step whose skip list has been walked, on an integer slot. -/
theorem stepJob_walk_int (low : 4 ≤ j.op) (high : j.op < 8) (held : engineHeld s j.own = false) {s1 : State}
    (recalled : s1 = recallRuns s (jobLaunch s j) j.own 4 (streamOf s j)) (takes : TakesStep (clusterOf s1 c).accs[j.acc] j)
    {gs : List Bool} {r : Word} {g : StepData} {u : State}
    (walk : readRuns s1 (jobLaunch s1 j) j.own (stepK j.fmtA / 8) (stepK j.fmtA / 8) (streamOf s1 j) = .ok (gs, r))
    (gathered : gatherStep s1 j (presentOf gs) = .ok (g, u)) (int : intMode j.fmtA = true) :
    stepJob c s = commitStep (endWalk u j (some r)) c k j ((List.range 1024).map fun i => g.sum j.fmtA j.fmtB i) := by
  rw [stepJob_walks head waits low high held recalled takes]
  exact stepGoes_int (by rw [stepGranules_walk low, walk]; rfl) gathered int

/-! ## Drains (R296) -/

/-- A drain that starts: STATE is 4, and no byte is written. -/
theorem drainJob_of_drains (drain : j.op = 8) (held : engineHeld s j.own = false) (alone : ∀ x ∈ (clusterOf s c).jobs, x.draining = false)
    (drains : Drains (clusterOf s c).accs[j.acc] j)
    (open' : writeBlocked s (jobLaunch s j) (j.home (j.word 0)) (offOf (j.word 0)) (drainBytes (clusterOf s c) j).length = none) :
    (clusterOf (drainJob c s) c).jobs[k]? = some { j with started := true } ∧
      ((clusterOf (drainJob c s) c).mxslot j.acc).extractLsb' 0 3 = 4 ∧ SameMemory s (drainJob c s) := by
  rw [drainJob_starts head waits drain held alone, startDrain_of_drains drains (by rw [drainRefused_of_drains drains, open'])]
  refine ⟨jobs_setJob (i := j) _ (by rw [clusterOf_putCluster_same]; exact head_get head), state_mxslot ?_,
    fun _ _ _ => rfl, fun _ => rfl, fun _ => rfl⟩
  simp only [accs_setJob, clusterOf_putCluster_same, Fin.getElem_fin, Vector.getElem_set_self]

/-- A drain of a free slot: its status word alone. -/
theorem drainJob_of_free (drain : j.op = 8) (held : engineHeld s j.own = false) (alone : ∀ x ∈ (clusterOf s c).jobs, x.draining = false)
    (free : (clusterOf s c).accs[j.acc].state = 0) {off : Nat} (at' : off = offOf (j.word 0) + 1024 * (if j.wide then 8 else 4))
    (open' : writeBlocked s (jobLaunch s j) (j.home (j.word 0)) off 8 = none) :
    (clusterOf (drainJob c s) c).jobs[k]? = some (j.finish none) ∧ (clusterOf (drainJob c s) c).accs = (clusterOf s c).accs ∧
      (Memory.wf (ctxOf (recallRange s (jobLaunch s j) (j.home (j.word 0)) off 8) (j.home (j.word 0)) (jobLaunch s j)).scratch = true →
        ∀ i, i < 8 → Memory.read (ctxOf (drainJob c s) (j.home (j.word 0)) (jobLaunch s j)).scratch (off + i) = (leBytes 512 8).getD i 0) := by
  subst at'
  rw [drainJob_starts head waits drain held alone, startDrain_of_free free (by rw [drainRefused_of_free free, open'])]
  have engines := engineWrite_enginesKept s (jobLaunch s j) (j.home (j.word 0)) (offOf (j.word 0) + 1024 * (if j.wide then 8 else 4))
    (leBytes 512 8) c
  refine ⟨jobs_setJob (i := j) _ (by rw [engines]; exact head_get head), by rw [accs_setJob, engines], fun wf i inside => ?_⟩
  exact read_engineWrite (by rwa [leBytes_length]) (by rwa [leBytes_length])

theorem drainJob_of_format (drain : j.op = 8) (held : engineHeld s j.own = false) (alone : ∀ x ∈ (clusterOf s c).jobs, x.draining = false)
    (two : (clusterOf s c).accs[j.acc].state = 2) (owned : owns (clusterOf s c).accs[j.acc] j = true) (format : j.fd = 32) :
    drainJob c s = setJob s c k (j.failed codeQueueMisuse 0x045) := by
  rw [drainJob_starts head waits drain held alone]
  exact startDrain_of_refused (drainRefused_of_format two owned format)

/-! ## Reclaims (R297) -/

theorem reclaimJob_of_orphan (reclaim : j.op = 9) (orphan : (clusterOf s c).accs[j.acc].state = 3) :
    (clusterOf (reclaimJob c s) c).accs[j.acc] = Acc.reset ∧ (clusterOf (reclaimJob c s) c).jobs[k]? = some (j.finish none) := by
  rw [reclaimJob_head head waits reclaim, if_pos orphan]
  refine ⟨?_, jobs_setJob (i := j) _ (by rw [clusterOf_freeAcc]; exact head_get head)⟩
  simpa only [accs_setJob] using accs_freeAcc s c j.acc

end

/-- A head that is no step, or no reclaim, is left to its own event. -/
theorem stepJob_of_other (head : headFrom 0 (clusterOf s c).jobs = some (k, j)) (other : 8 ≤ j.op) : stepJob c s = s := by
  simp [stepJob, head, Nat.not_lt.2 other]

theorem reclaimJob_of_other (head : headFrom 0 (clusterOf s c).jobs = some (k, j)) (other : j.op ≠ 9) : reclaimJob c s = s := by
  simp [reclaimJob, head, other]

/-- A drain in STATE 4 ends: its bytes are written, and the slot is free with its carry entries (R296). -/
theorem drainJob_ends_of_drains (under : findJob Job.draining 0 (clusterOf s c).jobs = some (k, j)) (held : engineHeld s j.own = false)
    (drains : Drains (clusterOf s c).accs[j.acc] j) {bs : List Byte} (bytes : bs = drainBytes (clusterOf s c) j)
    (open' : writeBlocked s (jobLaunch s j) (j.home (j.word 0)) (offOf (j.word 0)) bs.length = none) :
    (clusterOf (drainJob c s) c).jobs[k]? = some (j.finish none) ∧ (clusterOf (drainJob c s) c).accs[j.acc] = Acc.reset ∧
      (∀ x ∈ (clusterOf (drainJob c s) c).carries, x.slot ≠ j.acc.val) ∧
      (Memory.wf (ctxOf (recallRange s (jobLaunch s j) (j.home (j.word 0)) (offOf (j.word 0)) bs.length) (j.home (j.word 0))
          (jobLaunch s j)).scratch = true → ∀ i, i < bs.length →
        Memory.read (ctxOf (drainJob c s) (j.home (j.word 0)) (jobLaunch s j)).scratch (offOf (j.word 0) + i) = bs.getD i 0) := by
  subst bytes
  rw [drainJob_ends under held, endDrain_of_drains drains (by rw [drainRefused_of_drains drains, open'])]
  have engines := engineWrite_enginesKept s (jobLaunch s j) (j.home (j.word 0)) (offOf (j.word 0)) (drainBytes (clusterOf s c) j) c
  have queue : (clusterOf s c).jobs[k]? = some j := (findJob_get under).2
  refine ⟨jobs_setJob (i := j) _ (by rw [clusterOf_freeAcc, engines]; exact queue), ?_, fun x left => ?_,
    fun wf i inside => read_engineWrite wf inside⟩
  · simpa only [accs_setJob] using accs_freeAcc _ c j.acc
  · rw [carries_setJob] at left
    exact carries_freeAcc left

/-! ## Stalled steps (R293) -/

theorem resumeStall_head (head : headFrom 0 (clusterOf s c).jobs = some (k, j)) (started : j.started = true) :
    resumeStall c s = if (clusterOf s c).cstall then commitStep s c k j j.sums else s := by
  simp [resumeStall, head, started]

end

/-! ## What matrix jobs do (R292 to R297) -/

/-- Settles O45: each clause is a lemma above on the event that runs the job, or on the commit of an integer step. -/
theorem matrixJobsRun : Obligations.MatrixJobsRun := by
  unfold Obligations.MatrixJobsRun
  refine ⟨fun C D j sums small done i below => ?_, fun s c k j head waits => ?_, fun s L own fuel left r some' count bytes inside =>
    readRuns_next some' count bytes inside, commitInt_cases, fun s c k j under held => ?_, fun s c k j head started => ?_, drainInt_cases⟩
  · rw [eq_committed C j sums done]
    exact exactCell_committed (small i) below
  · refine ⟨fun one held busy others => ⟨_, exec_stepJob c s, stepJob_refused head waits one held busy others⟩,
      fun g u one held takes gathered => ⟨fun D int done => ?_,
        fun float => ⟨_, exec_stepJob c s, stepJob_float head waits one held takes gathered float⟩,
        fun int => ⟨fun d full => ?_, fun stall => ?_⟩⟩,
      fun s1 low high held recalled takes => ⟨fun code d walk => ?_, fun gs r g u D walk gathered int done => ?_⟩,
      fun drain held alone => ⟨fun mode owned open' => ?_, fun two owned format => ?_, fun free open' => ?_⟩,
      fun reclaim => ⟨fun orphan => ⟨_, exec_reclaimJob c s, reclaimJob_of_orphan head waits reclaim orphan⟩,
        fun free => ?_, fun busy => ?_⟩,
      fun other => ?_, fun other => ?_⟩
    · obtain ⟨jobs, -, carries, cells⟩ := commitStep_done (queue_read head gathered) done
      exact ⟨_, by rw [exec_stepJob, stepJob_int head waits one held takes gathered int], jobs, carries, cells⟩
    · exact ⟨_, by rw [exec_stepJob, stepJob_int head waits one held takes gathered int], commitStep_full (queue_read head gathered) full⟩
    · exact ⟨_, by rw [exec_stepJob, stepJob_int head waits one held takes gathered int], commitStep_stall (queue_read head gathered) stall⟩
    · rw [exec_stepJob, stepJob_walk_fails head waits low high held recalled takes walk]
    · obtain ⟨jobs, -, carries, cells⟩ := commitStep_done (queue_walked head (some r) recalled gathered) done
      refine ⟨_, by rw [exec_stepJob, stepJob_walk_int head waits low high held recalled takes walk gathered int], jobs, carries, cells,
        fun src rep alive => ?_⟩
      rw [slotOf_commitStep]
      exact sm_endWalk r rep alive low high
    · exact ⟨_, exec_drainJob c s, drainJob_of_drains head waits drain held alone ⟨mode, owned⟩ open'⟩
    · rw [exec_drainJob, drainJob_of_format head waits drain held alone two owned format]
    · exact ⟨_, exec_drainJob c s, drainJob_of_free head waits drain held alone free rfl open'⟩
    · rw [exec_reclaimJob, reclaimJob_head head waits reclaim, if_neg (show ¬(clusterOf s c).accs[j.acc].state = 3 by omega), if_pos free]
    · rw [exec_reclaimJob, reclaimJob_head head waits reclaim, if_neg (show ¬(clusterOf s c).accs[j.acc].state = 3 by omega),
        if_neg (show ¬(clusterOf s c).accs[j.acc].state = 0 by omega)]
    · rw [exec_stepJob, stepJob_of_other head other]
    · rw [exec_reclaimJob, reclaimJob_of_other head other]
  · intro A L h off bs mode owned open'
    exact ⟨_, exec_drainJob c s, drainJob_ends_of_drains under held ⟨mode, owned⟩ rfl open'⟩
  · refine ⟨fun stalled => ?_, fun no => ?_, fun D stalled done => ?_⟩
    · rw [exec_resumeStall, resumeStall_head head started, if_pos stalled]
    · rw [exec_resumeStall, resumeStall_head head started, no]
      rfl
    · obtain ⟨jobs, free, -, -⟩ := commitStep_done (head_get head) done
      exact ⟨free, jobs⟩

end Sys2Proof.Machine
end

section
/-! SUPPORT. Memories in canonical form (log 3): what keeps a memory, a context, a core and the module canonical. -/

namespace Sys2Proof.Machine

/-! ## The module, a core, a context -/

/-- Every memory of the module is in canonical form (log 3). -/
def Canonical (s : State) : Prop := s.memOk = true

/-- Every scratchpad of every core that a map lists is in canonical form. -/
def CoresCanonical (m : SMap Hart) : Prop := ∀ p ∈ m, p.2.memOk = true

theorem canonical_iff (s : State) : Canonical s ↔ Memory.wf s.hbm = true ∧ Memory.wf s.hostMem = true ∧ Memory.wf s.flash = true ∧
    Memory.wf s.measured = true ∧ CoresCanonical s.harts := by
  simp [Canonical, State.memOk, CoresCanonical, and_assoc]

theorem Hart.memOk_iff (H : Hart) : H.memOk = true ↔ ∀ c ∈ H.ctxs, Memory.wf c.scratch = true := by simp [Hart.memOk]

theorem Hart.memOk_reset : Hart.reset.memOk = true := rfl
theorem Ctx.wf_reset (L : Nat) : Memory.wf (Ctx.reset L).scratch = true := rfl

section
variable {s : State} {H : Hart} {c : Ctx}

theorem Hart.wf_ctx (ok : H.memOk = true) (L : Nat) : Memory.wf (H.ctx L).scratch = true := by
  rw [Hart.memOk_iff] at ok
  unfold Hart.ctx
  cases found : H.ctxs.find? fun c => c.launch == L with
  | none => exact Ctx.wf_reset L
  | some c => exact ok c (List.mem_of_find?_eq_some found)

theorem mem_putCtxIn {d : Ctx} {cs : List Ctx} (m : d ∈ putCtxIn c cs) : d = c ∨ d ∈ cs := by
  induction cs with
  | nil => simpa [putCtxIn] using m
  | cons e es ih =>
    unfold putCtxIn at m
    split at m
    · exact (List.mem_cons.mp m).imp_right (List.mem_cons_of_mem e)
    · rcases List.mem_cons.mp m with rfl | m
      · exact .inr List.mem_cons_self
      · exact (ih m).imp_right (List.mem_cons_of_mem e)

theorem Hart.memOk_putCtx (ok : H.memOk = true) (wf : Memory.wf c.scratch = true) : (H.putCtx c).memOk = true := by
  rw [Hart.memOk_iff] at ok ⊢
  intro d m
  rcases mem_putCtxIn m with rfl | m
  · exact wf
  · exact ok d m

theorem Hart.memOk_putSlot (ok : H.memOk = true) (n : Nat) (σ : Slot) : (H.putSlot n σ).memOk = true := ok
theorem Hart.memOk_putLine (ok : H.memOk = true) (k : Nat) (l : L1Line) : (H.putLine k l).memOk = true := ok

theorem SMap.mem_set {α : Type} {k : Nat} {a : α} {x : Nat × α} {m : SMap α} (h : x ∈ SMap.set k a m) : x = (k, a) ∨ x ∈ m := by
  induction m with
  | nil => simpa [SMap.set] using h
  | cons y m ih =>
    unfold SMap.set at h
    split at h
    · exact List.mem_cons.mp h
    · split at h
      · exact (List.mem_cons.mp h).imp_right (List.mem_cons_of_mem _)
      · rcases List.mem_cons.mp h with rfl | h
        · exact .inr List.mem_cons_self
        · exact (ih h).imp_right (List.mem_cons_of_mem _)

theorem memOk_hartOf (ok : Canonical s) (h : Nat) : (hartOf s h).memOk = true := by
  obtain ⟨-, -, -, -, cores⟩ := (canonical_iff s).mp ok
  unfold hartOf SMap.getD
  cases found : SMap.find h s.harts with
  | none => exact Hart.memOk_reset
  | some H => exact cores _ (SMap.mem_of_find found)

theorem wf_ctxOf (ok : Canonical s) (h L : Nat) : Memory.wf (ctxOf s h L).scratch = true := Hart.wf_ctx (memOk_hartOf ok h) L
theorem wf_curCtx (ok : Canonical s) : Memory.wf (curCtx s).scratch = true := wf_ctxOf ok _ _

theorem coresCanonical_set {m : SMap Hart} (ok : CoresCanonical m) (core : H.memOk = true) (h : Nat) :
    CoresCanonical (SMap.set h H m) := by
  intro p mem
  rcases SMap.mem_set mem with rfl | mem
  · exact core
  · exact ok p mem

theorem coresCanonical_map {m : SMap Hart} {f : Nat × Hart → Nat × Hart} (ok : CoresCanonical m)
    (keeps : ∀ p, p.2.memOk = true → (f p).2.memOk = true) : CoresCanonical (m.map f) := by
  intro p mem
  obtain ⟨q, listed, rfl⟩ := List.mem_map.mp mem
  exact keeps q (ok q listed)

theorem canonical_putHart (ok : Canonical s) (core : H.memOk = true) (h : Nat) : Canonical (putHart s h H) := by
  obtain ⟨hbm, host, flash, measured, cores⟩ := (canonical_iff s).mp ok
  exact (canonical_iff _).mpr ⟨hbm, host, flash, measured, coresCanonical_set cores core h⟩

theorem canonical_putCtx (ok : Canonical s) (wf : Memory.wf c.scratch = true) (h : Nat) : Canonical (putCtx s h c) :=
  canonical_putHart ok (Hart.memOk_putCtx (memOk_hartOf ok h) wf) h

theorem canonical_putCurCtx (ok : Canonical s) (wf : Memory.wf c.scratch = true) : Canonical (putCurCtx s c) :=
  canonical_putCtx ok wf _

theorem canonical_putSlot (ok : Canonical s) (h n : Nat) (σ : Slot) : Canonical (putSlot s h n σ) :=
  canonical_putHart ok (Hart.memOk_putSlot (memOk_hartOf ok h) n σ) h

theorem canonical_putCur (ok : Canonical s) (σ : Slot) : Canonical (putCur s σ) := canonical_putSlot ok _ _ σ

theorem canonical_harts_map (ok : Canonical s) {f : Nat × Hart → Nat × Hart} (keeps : ∀ p, p.2.memOk = true → (f p).2.memOk = true) :
    Canonical { s with harts := s.harts.map f } := by
  obtain ⟨hbm, host, flash, measured, cores⟩ := (canonical_iff s).mp ok
  exact (canonical_iff _).mpr ⟨hbm, host, flash, measured, coresCanonical_map cores keeps⟩

end

/-- What every function of a fold keeps, the fold keeps. -/
theorem canonical_foldl {α : Type} {f : State → α → State} (keeps : ∀ t a, Canonical t → Canonical (f t a)) {s : State} (ok : Canonical s)
    (xs : List α) : Canonical (xs.foldl f s) := by
  induction xs generalizing s with
  | nil => exact ok
  | cons x xs ih => exact ih (keeps s x ok)

/-! ## Scratchpads -/

/-- What every function of a fold over a context keeps, the fold keeps. -/
theorem wf_foldl {α : Type} {f : Ctx → α → Ctx} (keeps : ∀ d a, Memory.wf d.scratch = true → Memory.wf (f d a).scratch = true) {c : Ctx}
    (wf : Memory.wf c.scratch = true) (xs : List α) : Memory.wf (xs.foldl f c).scratch = true := by
  induction xs generalizing c with
  | nil => exact wf
  | cons x xs ih => exact ih (keeps c x wf)

section
variable {c : Ctx} (wf : Memory.wf c.scratch = true)
include wf

theorem Ctx.wf_write (off : Nat) (bs : List Byte) : Memory.wf (c.write off bs).scratch = true := Memory.wf_writeBytes _ _ _ wf
theorem Ctx.wf_putElem (off n x : Nat) : Memory.wf (c.putElem off n x).scratch = true := Memory.wf_writeN _ _ _ _ wf

theorem wf_combineU (off : Nat) (l : L1Line) : Memory.wf (combineU c off l).scratch = true := by
  unfold combineU
  split
  · exact wf
  · dsimp only
    split
    · refine wf_foldl (fun d i ok => Ctx.wf_putElem ok _ _ _) ?_ _
      exact wf_foldl (fun d i ok => by exact ok) wf _
    · exact wf_foldl (fun d i ok => Ctx.wf_putElem ok _ _ _) wf _

theorem wf_placeAmax {d : Ctx} {off t : Nat} {op : AmoOp} {ply : BitVec 16} (placed : placeAmax c off op t ply = some d) :
    Memory.wf d.scratch = true := by
  unfold placeAmax at placed
  dsimp only at placed
  split at placed
  · cases placed
    exact wf
  · split at placed
    · cases placed
      exact Ctx.wf_putElem wf _ _ _
    · cases placed

theorem wf_closeAmax (ply : BitVec 16) : Memory.wf (c.closeAmax ply).scratch = true := by
  refine wf_foldl (fun d it ok => ?_) ?_ _
  · split
    case h_1 p op t ply _ =>
      cases placed : placeAmax d (offOf p) op t.toNat ply with
      | none => exact ok
      | some e => exact wf_placeAmax ok placed
    case h_2 => exact ok
  · exact wf_foldl (fun d x ok => Ctx.wf_putElem ok _ _ _) wf _

theorem wf_releaseHeld (chan n : Nat) : Memory.wf (releaseHeld chan n c).scratch = true := by
  induction n generalizing c with
  | zero => exact wf
  | succ n ih =>
    unfold releaseHeld
    dsimp only
    split
    · exact ih wf
    · exact wf

theorem wf_carryCtx (l : Launch) (p : Nat) : Memory.wf (carryCtx l p c).scratch = true := Memory.wf_filter _ _ wf

theorem wf_loadCtx (cap : Capsule) (es : List Extent) (masks : Word) (h : Nat) : Memory.wf (loadCtx cap es masks h c).scratch = true := by
  unfold loadCtx
  split
  · exact wf
  · exact Memory.wf_writeBytes _ _ _ wf

end

theorem wf_readRegions {m : Memory} (wf : Memory.wf m = true) (bs : List Byte) (off : Nat) (rs : List (Nat × Nat)) :
    Memory.wf (readRegions bs off rs m) = true := by
  induction rs generalizing off m with
  | nil => exact wf
  | cons r rs ih => exact ih (Memory.wf_writeBytes _ _ _ wf) _

theorem wf_linkNodes {m : Memory} (wf : Memory.wf m = true) (base : Nat) (ns : List Nat) : Memory.wf (linkNodes base ns m) = true := by
  induction ns generalizing m with
  | nil => exact wf
  | cons n ns ih =>
    unfold linkNodes
    exact ih (Memory.wf_writeN _ _ _ _ wf)

theorem readCore_scratch (l : Launch) (ply : BitVec 16) (units : List Nat) (regime : Bool) (age : Nat) (bs : List Byte) (c : Ctx) :
    (readCore l ply units regime age bs c).scratch = Memory.writeBytes (readRegions bs 512 (keptRegions l.cap) c.scratch) l.cap.ring.1
      ((bs.drop (512 + keptBytes l.cap + feBytes l.cap)).take (64 * imageWord bs 2)) := rfl

theorem wf_readCore {c : Ctx} (wf : Memory.wf c.scratch = true) (l : Launch) (ply : BitVec 16) (units : List Nat) (regime : Bool)
    (age : Nat) (bs : List Byte) : Memory.wf (readCore l ply units regime age bs c).scratch = true := by
  rw [readCore_scratch]
  exact Memory.wf_writeBytes _ _ _ (wf_readRegions wf _ _ _)

theorem wf_coreContext {H : Hart} (ok : H.memOk = true) (cap : Capsule) (L p : Nat) : Memory.wf (coreContext cap L p H).scratch = true := by
  have kept : Memory.wf (if cap.bound == some p && H.hasCtx (carriedLaunch p) then H.ctx (carriedLaunch p) else Ctx.reset L).scratch
      = true := by
    split
    · exact Hart.wf_ctx ok _
    · exact Ctx.wf_reset L
  unfold coreContext
  dsimp only
  split
  · exact kept
  · exact Memory.wf_writeBytes _ _ _ kept

theorem Hart.memOk_endLaunch {H : Hart} (ok : H.memOk = true) (L h : Nat) : (H.endLaunch L h).memOk = true := by
  unfold Hart.endLaunch
  split
  · exact Hart.memOk_reset
  · rw [Hart.memOk_iff] at ok ⊢
    exact fun c m => ok c (List.mem_of_mem_filter m)

end Sys2Proof.Machine
end

section
/-! SUPPORT. Memories in canonical form, continued: what the memories, the copies, the scoreboard and the ends of launches keep
(log 3; spec/02, spec/03, spec/05, spec/08). -/

namespace Sys2Proof.Machine

section
variable {s t : State}

/-! ## Slots, plats, launches and counters -/

theorem canonical_noteWrite (can : Canonical s) (k : Nat) : Canonical (noteWrite k s) := by
  grind [noteWrite, canonical_putHart, memOk_hartOf, Hart.memOk_iff]

theorem canonical_putCluster (can : Canonical s) (c : Nat) (C : Cluster) : Canonical (putCluster s c C) := by
  grind [putCluster, canonical_iff]

theorem canonical_putPlat (can : Canonical s) (p : Nat) (P : PlatEntry) : Canonical (putPlat s p P) := by
  grind [putPlat, canonical_iff]

theorem canonical_putLaunch (can : Canonical s) (L : Nat) (l : Launch) : Canonical (putLaunch s L l) := by
  grind [putLaunch, canonical_iff]

theorem canonical_modLaunch (can : Canonical s) (L : Nat) (f : Launch → Launch) : Canonical (modLaunch s L f) := by
  grind [modLaunch, canonical_putLaunch]

theorem canonical_modCounter (can : Canonical s) (c : Nat) (f : Counter → Counter) : Canonical (modCounter s c f) := by
  grind [modCounter, canonical_iff]

theorem canonical_logStamped (can : Canonical s) (stamp : Option (BitVec 48)) (code : BitVec 16) (detail : BitVec 12) (plat : Nat) (tag :
    BitVec 16) (core : Nat) (addr : Word) : Canonical (logStamped s stamp code detail plat tag core addr) := by
  grind [logStamped, canonical_iff]

theorem canonical_logFault (can : Canonical s) (code : BitVec 16) (detail : BitVec 12) (plat : Nat) (tag : BitVec 16) (core : Nat) (addr :
    Word) : Canonical (logFault s code detail plat tag core addr) := by
  grind [logFault, canonical_logStamped]

/-! ## HBM, the last-level cache and host memory (R55 to R59) -/

theorem canonical_withHbm (can : Canonical s) {m : Memory} (wf : Memory.wf m = true) : Canonical { s with hbm := m } := by
  obtain ⟨-, host, flash, measured, cores⟩ := (canonical_iff s).mp can
  exact (canonical_iff _).mpr ⟨wf, host, flash, measured, cores⟩

theorem Canonical.wf_hbm (can : Canonical s) : Memory.wf s.hbm = true := ((canonical_iff s).mp can).1

theorem canonical_hbmWrite (can : Canonical s) (a : Nat) (bs : List Byte) : Canonical (hbmWrite s a bs) := by
  unfold hbmWrite
  extract_lets put t
  have written : Canonical t := by
    refine canonical_foldl (fun u p can => ?_) can _
    exact canonical_withHbm can (Memory.wf_write _ _ _ can.wf_hbm)
  split <;> exact written

theorem canonical_llcRoom (can : Canonical s) (line : Nat) : Canonical (llcRoom s line) := by
  grind [llcRoom, canonical_iff]

theorem canonical_llcTouch (can : Canonical s) (a : Nat) : Canonical (llcTouch s a) := by
  grind [llcTouch, canonical_llcRoom, canonical_iff]

theorem canonical_hbmStore (can : Canonical s) (a : Nat) (bs : List Byte) (tag : BitVec 16) : Canonical (hbmStore s a bs tag) := by
  grind [hbmStore, canonical_llcRoom, canonical_hbmWrite, canonical_iff]

theorem canonical_hostWrite (can : Canonical s) (a : Nat) (bs : List Byte) : Canonical (hostWrite s a bs) := by
  grind [hostWrite, canonical_iff, Memory.wf_writeBytes]

theorem canonical_hostPut (can : Canonical s) (a : Nat) (w : Word) : Canonical (hostPut s a w) := by
  grind [hostPut, canonical_hostWrite]

theorem canonical_extentWrite (can : Canonical s) (e : Extent) (off : Nat) (bs : List Byte) (tag : BitVec 16) : Canonical (extentWrite s e
    off bs tag) := by
  grind [extentWrite, canonical_hostWrite, canonical_hbmStore]

theorem canonical_extentClean (can : Canonical s) (e : Extent) (off : Nat) : Canonical (extentClean s e off) := by
  grind [extentClean, canonical_iff]

theorem canonical_extentTouch (can : Canonical s) (e : Extent) (off : Nat) : Canonical (extentTouch s e off) := by
  grind [extentTouch, canonical_llcTouch]

/-! ## Copies in the caches (R53, R78) -/

theorem canonical_invalidate (can : Canonical s) (home off : Nat) : Canonical (invalidate s home off) := by
  unfold invalidate
  exact canonical_harts_map can fun p core => Hart.memOk_putLine core _ _

theorem canonical_invalidateHome (can : Canonical s) (L home off : Nat) : Canonical (invalidateHome s L home off) := by
  grind [invalidateHome, canonical_invalidate]

theorem canonical_modHome (can : Canonical s) (L home : Nat) (f : Ctx → Ctx) (keeps : ∀ c, Memory.wf c.scratch = true → Memory.wf (f
    c).scratch = true) : Canonical (modHome s L home f) := by
  unfold modHome
  extract_lets t
  have first : Canonical t := canonical_putCtx can (keeps _ (wf_ctxOf can _ _)) _
  split
  · exact canonical_putCtx first (keeps _ (wf_ctxOf first _ _)) _
  · exact first

theorem canonical_recallWhere (can : Canonical s) (chosen : AmoOp → Bool) (L home off : Nat) : Canonical (recallWhere chosen s L home off)
    := by
  unfold recallWhere
  extract_lets k ls drop
  split
  · exact can
  · refine canonical_modHome (canonical_harts_map can fun p core => ?_) L home _ fun c wf =>
      wf_foldl (fun d l wf => wf_combineU wf off l) wf _
    grind [Hart.memOk_putLine]

theorem canonical_recallU (can : Canonical s) (L home off : Nat) : Canonical (recallU s L home off) := by
  grind [recallU, canonical_recallWhere]

theorem canonical_recallAll (can : Canonical s) (L : Nat) : Canonical (recallAll s L) := by
  unfold recallAll
  exact canonical_foldl (fun t k can => canonical_recallU can _ _ _) can _

/-! ## Operations in flight and the scoreboard (R28, R85, R111) -/

theorem canonical_makeSure (can : Canonical s) (h : Nat) (ids : List Nat) : Canonical (makeSure s h ids) := by
  grind [makeSure, canonical_putHart, memOk_hartOf, Hart.memOk_iff]

theorem canonical_addGuards (can : Canonical s) (gs : List Guard) : Canonical (addGuards s gs) := by
  grind [addGuards, canonical_iff]

theorem canonical_noteFpr (can : Canonical s) (h : Nat) (w : Word) : Canonical (noteFpr s h w) := by
  grind [noteFpr, canonical_putHart, memOk_hartOf, Hart.memOk_iff]

theorem canonical_notePair (can : Canonical s) (src : Issuer) (id : Nat) (w : Word) (e : QEntry) (flag : Word) : Canonical (notePair s src
    id w e flag) := by
  grind [notePair, canonical_noteFpr, canonical_putHart, memOk_hartOf, Hart.memOk_iff]

theorem canonical_settleSb (can : Canonical s) (src : Issuer) (id : Nat) (w : Word) (e : QEntry) (flag : Word) : Canonical (settleSb s src
    id w e flag) := by
  grind [settleSb, canonical_putSlot, canonical_notePair]

theorem canonical_clearSb (can : Canonical s) (src : Issuer) (id : Nat) : Canonical (clearSb s src id) := by
  grind [clearSb, canonical_settleSb]

theorem canonical_dropOut (can : Canonical s) (h id : Nat) : Canonical (dropOut s h id) := by
  grind [dropOut, canonical_putHart, memOk_hartOf, Hart.memOk_iff]

theorem canonical_dropOuts (can : Canonical s) (h : Nat) (ids : List Nat) : Canonical (dropOuts s h ids) := by
  grind [dropOuts, canonical_putHart, memOk_hartOf, Hart.memOk_iff]

theorem canonical_passing (can : Canonical s) (it : NetItem) : Canonical (passing s it) := by
  grind [passing, canonical_addGuards, canonical_makeSure]

theorem canonical_performing (can : Canonical s) {k : Nat} {it : NetItem} (found : performing s k = some (it, t)) : Canonical t := by
  grind [performing, canonical_passing, canonical_iff]

theorem canonical_failOuts (can : Canonical s) (h : Nat) (ids : List Nat) : Canonical (failOuts s h ids) := by
  unfold failOuts
  extract_lets H all later K t
  have failed : Canonical t := by
    refine canonical_putHart can ?_ h
    exact memOk_hartOf can h
  exact failed

theorem canonical_takeNet (can : Canonical s) {k : Nat} {it : NetItem} (found : takeNet s k = some (it, t)) : Canonical t := by
  grind [takeNet, canonical_iff]

theorem canonical_dropCopy (can : Canonical s) (h id : Nat) : Canonical (dropCopy s h id) := by
  grind [dropCopy, canonical_putHart, memOk_hartOf, Hart.memOk_iff]

theorem canonical_addGone (can : Canonical s) (src : Issuer) (e : SbEntry) : Canonical (addGone s src e) := by
  grind [addGone, canonical_putHart, memOk_hartOf, Hart.memOk_iff]

theorem canonical_dropGone (can : Canonical s) (h L n num kind : Nat) : Canonical (dropGone s h L n num kind) := by
  grind [dropGone, canonical_putHart, memOk_hartOf, Hart.memOk_iff]

theorem canonical_giveUp (can : Canonical s) (src : Issuer) (e : SbEntry) : Canonical (giveUp s src e) := by
  grind [giveUp, canonical_dropGone]

theorem canonical_discardEntry (can : Canonical s) (src : Issuer) (e : SbEntry) : Canonical (discardEntry s src e) := by
  unfold discardEntry
  extract_lets σ t
  have gone : Canonical t := canonical_addGone (canonical_putSlot can _ _ _) src e
  grind [canonical_giveUp, canonical_dropOut, canonical_dropCopy]

/-! ## Launches that end (R29, R152, R155, R178, R189) -/

theorem canonical_endCounters (can : Canonical s) (cap : Capsule) (ok : Bool) (code : BitVec 16) : Canonical (endCounters s cap ok code)
    := by
  unfold endCounters
  split
  · exact canonical_foldl (fun t c can => canonical_modCounter can _ _) can _
  · exact can

theorem canonical_countLive (can : Canonical s) (cap : Capsule) : Canonical (countLive s cap) := by
  unfold countLive
  exact canonical_foldl (fun t c can => canonical_modCounter can _ _) can _

theorem canonical_writeStatus (can : Canonical s) (status : Word) (tag : BitVec 32) (code : BitVec 16) (cycles : Nat) : Canonical
    (writeStatus s status tag code cycles) := by
  grind [writeStatus, canonical_hostPut]

theorem canonical_closePacket (can : Canonical s) (q n : Nat) : Canonical (closePacket s q n) := by
  grind [closePacket, canonical_iff]

theorem canonical_report (can : Canonical s) (o : Origin) (placedAt : Option Nat) (code : BitVec 16) : Canonical (report s o placedAt
    code) := by
  unfold report
  cases o with
  | queue q st tag n =>
    cases placedAt with
    | some p => exact canonical_closePacket (canonical_writeStatus can _ _ _ _) _ _
    | none => exact canonical_closePacket (canonical_writeStatus (s := { s with fresh := s.fresh + 1 }) can _ _ _ _) _ _
  | chainOf q st tag n begun => exact canonical_closePacket (canonical_writeStatus can _ _ _ _) _ _
  | launchBy r => exact can

theorem canonical_reportEnd (can : Canonical s) (l : Launch) (code : BitVec 16) : Canonical (reportEnd s l code) := by
  unfold reportEnd
  exact canonical_foldl (fun t o can => canonical_report can _ _ _) (canonical_report can _ _ _) _

theorem canonical_logRefusal (can : Canonical s) (code : BitVec 16) (detail : BitVec 12) : Canonical (logRefusal s code detail) := by
  grind [logRefusal, canonical_logFault, canonical_iff]

theorem canonical_endUnplaced (can : Canonical s) (cap : Capsule) (code : BitVec 16) (detail : BitVec 12) : Canonical (endUnplaced s cap
    code detail) := by
  unfold endUnplaced
  extract_lets t
  have told : Canonical t := by grind [canonical_logRefusal]
  exact canonical_foldl (fun t o can => canonical_report can _ _ _) (canonical_report (canonical_endCounters told _ _ _) _ _ _) _

theorem canonical_endLines (can : Canonical s) (settle : Bool) (l : Launch) (h : Nat) (c : Ctx) : Canonical (endLines settle l h c s) :=
    by
  unfold endLines
  refine canonical_foldl (fun t line can => ?_) can _
  grind [canonical_extentWrite, canonical_putCtx, wf_ctxOf, Ctx.wf_write]

theorem canonical_endRepair (can : Canonical s) (settle : Bool) (L : Nat) (l : Launch) : Canonical (endRepair settle s L l) := by
  unfold endRepair
  refine canonical_foldl (fun t p can => ?_) can _
  grind [canonical_endLines]

theorem canonical_clearPlat (can : Canonical s) (L p : Nat) (state : PlatState) : Canonical (clearPlat s L p state) := by
  unfold clearPlat
  extract_lets P inP t
  have ended : Canonical t := canonical_harts_map can fun p core => Hart.memOk_endLaunch core L p.1
  exact canonical_putPlat ended _ _

theorem canonical_clearTag (can : Canonical s) (p : Nat) : Canonical (clearTag s p) := by
  grind [clearTag, canonical_putPlat, canonical_iff]

theorem canonical_dropCarried (can : Canonical s) (p : Nat) : Canonical (dropCarried s p) := by
  unfold dropCarried
  refine canonical_harts_map can fun p core => ?_
  rw [Hart.memOk_iff] at core ⊢
  exact fun c m => core c (List.mem_of_mem_filter m)

/-- The core of a plat that a chain keeps holds what the capsule carries over, and nothing else (R151). -/
theorem memOk_carried {m : SMap Hart} (cores : CoresCanonical m) {l : Launch} {p L : Nat} {x : Nat × Hart} (core : x.2.memOk = true) :
    (match m.find? (fun y : Nat × Hart => y.1 == x.1) with
      | some y => if isCompute x.1 && y.2.hasCtx L then (x.1, { x.2 with ctxs := [carryCtx l p (y.2.ctx L)] }) else x
      | none => x).2.memOk = true := by
  split
  case h_1 y found =>
    split
    · rw [Hart.memOk_iff]
      intro c m
      rw [List.mem_singleton.mp m]
      exact wf_carryCtx (Hart.wf_ctx (cores y (List.mem_of_find?_eq_some found)) L) l p
    · exact core
  case h_2 => exact core

theorem canonical_startOnward (can : Canonical s) (can' : Canonical t) (L p : Nat) (l : Launch) (cap : Capsule) : Canonical (startOnward s
    t L p l cap) := by
  unfold startOnward
  extract_lets keep cap1 u carried
  have counted : Canonical u := canonical_countLive can' cap1
  have moved : Canonical { u with harts := u.harts.map carried } :=
    canonical_harts_map counted fun x core => memOk_carried ((canonical_iff s).mp can).2.2.2.2 core
  grind [canonical_endUnplaced, canonical_putPlat, canonical_iff]

theorem canonical_completeLaunch (can : Canonical s) (L : Nat) : Canonical (completeLaunch s L) := by
  unfold completeLaunch
  extract_lets t
  have recalled : Canonical t := canonical_recallAll can L
  grind [canonical_endRepair, canonical_endCounters, canonical_reportEnd, canonical_clearPlat, canonical_startOnward]

theorem canonical_failLaunch (can : Canonical s) (L : Nat) (code : BitVec 16) (state : PlatState) : Canonical (failLaunch s L code state)
    := by
  unfold failLaunch
  grind [canonical_endRepair, canonical_endCounters, canonical_reportEnd, canonical_clearPlat]

theorem canonical_killLaunch (can : Canonical s) (L h : Nat) (f : FaultInfo) : Canonical (killLaunch s L h f) := by
  grind [killLaunch, canonical_failLaunch, canonical_logFault]

theorem canonical_endLogged (can : Canonical s) (L : Nat) (code : BitVec 16) (detail : BitVec 12) (state : PlatState) : Canonical
    (endLogged s L code detail state) := by
  grind [endLogged, canonical_logFault, canonical_failLaunch, canonical_iff]

theorem canonical_fencePlat (can : Canonical s) (p : Nat) (code : BitVec 16) (detail : BitVec 12) : Canonical (fencePlat s p code detail)
    := by
  grind [fencePlat, canonical_endLogged]

theorem canonical_doubleFault (can : Canonical s) (h n : Nat) (f : FaultInfo) : Canonical (doubleFault s h n f) := by
  grind [doubleFault, canonical_logFault, canonical_killLaunch, Hart.wf_ctx]

theorem canonical_lateFault (can : Canonical s) (src : Issuer) (id : Option Nat) (f : FaultInfo) : Canonical (lateFault s src id f) := by
  grind [lateFault, canonical_putSlot, canonical_killLaunch]

theorem canonical_endHandlerFault (can : Canonical s) (h n : Nat) : Canonical (endHandlerFault h n s) := by
  grind [endHandlerFault, canonical_doubleFault]

theorem canonical_refuse (can : Canonical s) (src : Issuer) (id : Nat) (f : FaultInfo) : Canonical (refuse s src id f) := by
  grind [refuse, canonical_lateFault, canonical_failOuts]

end

end Sys2Proof.Machine
end

section
/-! SUPPORT. Memories in canonical form, continued: operations of words, and the A-side's words on registers, memory and control
(log 3; spec/02, spec/06, spec/12 to spec/14). -/

namespace Sys2Proof.Machine

/-- An operation keeps every memory canonical, whether it ends or stops. -/
structure OpCanonical {α : Type} (op : Op α) : Prop where
  keeps : ∀ s, Canonical s → Canonical (leaves s (op s))

section
variable {α β : Type} {s t : State}

theorem OpCanonical.ok {op : Op α} (o : OpCanonical op) (can : Canonical s) {a : α} (e : op s = .ok (a, t)) : Canonical t := by
  have kept := o.keeps s can
  rwa [e] at kept

/-- What a stop keeps is canonical, from wherever the word began. -/
theorem canonical_leaves_error {x : Stop} (can : Canonical s)
    (kept : Canonical (leaves t (.error x : Except Stop (α × State)))) : Canonical (leaves s (.error x : Except Stop (β × State))) := by
  cases x with
  | wait _ keep =>
    cases keep with
    | none => exact can
    | some u => exact kept
  | trap _ keep =>
    cases keep with
    | none => exact can
    | some u => exact kept
  | order _ => exact can

theorem OpCanonical.bind {op : Op α} {next : α → Op β} (o : OpCanonical op) (n : ∀ a, OpCanonical (next a)) :
    OpCanonical (op >>= next) := by
  refine ⟨fun s can => ?_⟩
  cases e : op s with
  | ok r =>
    obtain ⟨a, t⟩ := r
    have can' := o.ok can e
    rw [bind_ok e]
    cases e' : next a t with
    | ok r' => exact (n a).ok can' e'
    | error x => exact canonical_leaves_error can (e' ▸ (n a).keeps t can')
  | error x =>
    rw [bind_error e]
    exact canonical_leaves_error can (e ▸ o.keeps s can)

/-- What follows a look at the state may rest on its being canonical. -/
theorem OpCanonical.bindGet {next : State → Op β} (n : ∀ s, Canonical s → OpCanonical (next s)) :
    OpCanonical ((get : Op State) >>= next) := ⟨fun s can => (n s can).keeps s can⟩

theorem OpCanonical.pure (a : α) : OpCanonical (Pure.pure a : Op α) := ⟨fun _ can => can⟩

theorem opCanonical_get : OpCanonical (get : Op State) := ⟨fun _ can => can⟩

theorem OpCanonical.modState {f : State → State} (keeps : ∀ s, Canonical s → Canonical (f s)) : OpCanonical (modState f) := ⟨keeps⟩

theorem OpCanonical.stopIf {c : Prop} [Decidable c] {stop : Op Unit} (o : OpCanonical stop) : OpCanonical (stopIf c stop) := by
  unfold Machine.stopIf
  split
  · exact o
  · exact .pure ()

theorem OpCanonical.stopSome {o : Option α} {stop : α → Op Unit} (keeps : ∀ a, OpCanonical (stop a)) :
    OpCanonical (stopSome o stop) := by
  unfold Machine.stopSome
  split
  · exact keeps _
  · exact .pure ()

theorem OpCanonical.waitWith (can : Canonical t) (w : Wait) : OpCanonical (waitWith w t : Op α) := ⟨fun _ _ => can⟩

theorem opCanonical_waitFor (w : Wait) : OpCanonical (waitFor w : Op α) := ⟨fun _ can => can⟩
theorem opCanonical_trapAt (code : BitVec 16) (detail : BitVec 12) (addr : Word) : OpCanonical (trapAt code detail addr : Op α) :=
  ⟨fun _ can => can⟩
theorem opCanonical_trapFree (code : BitVec 16) (addr : Word) : OpCanonical (trapFree code addr : Op α) := ⟨fun _ can => can⟩
theorem opCanonical_getSlot : OpCanonical getSlot := ⟨fun _ can => can⟩

theorem opCanonical_modSlot (f : Slot → Slot) : OpCanonical (modSlot f) := ⟨fun _ can => canonical_putCur can _⟩

theorem opCanonical_noteResult (w : Word) : OpCanonical (noteResult w) := by
  refine ⟨fun s can => ?_⟩
  grind [noteResult, leaves, canonical_noteFpr]

/-! ## Coalesced bytes and traps (R54, R304) -/

theorem canonical_flushLine (can : Canonical s) (L h k : Nat) : Canonical (flushLine L h k s) := by
  grind [flushLine, canonical_putHart, canonical_iff, memOk_hartOf, Hart.memOk_iff, Hart.memOk_putLine]

theorem canonical_flushScope (can : Canonical s) (L h : Nat) (sc : Scope) : Canonical (flushScope L h sc s) := by
  unfold flushScope
  exact canonical_foldl (fun t x can => canonical_flushLine can _ _ _) can _

theorem canonical_flushIds (can : Canonical s) (L h : Nat) (ids : List Nat) : Canonical (flushIds L h ids s) := by
  unfold flushIds
  exact canonical_foldl (fun t x can => canonical_flushLine can _ _ _) can _

theorem canonical_dropRequests (can : Canonical s) (src : Issuer) : Canonical (dropRequests s src) := by
  grind [dropRequests, canonical_putCluster]

theorem canonical_trapEntry (can : Canonical s) (h n : Nat) (side : Side) (f : FaultInfo) : Canonical (trapEntry s h n side f) := by
  unfold trapEntry
  extract_lets t σ
  have next : Canonical t := can
  grind [canonical_doubleFault, canonical_dropRequests, canonical_putSlot, canonical_killLaunch]

theorem canonical_markA (can : Canonical s) (w : Wait) : Canonical (markA s w) := by
  grind [markA, canonical_putCur]

theorem canonical_markE (can : Canonical s) (w : Wait) : Canonical (markE s w) := by
  grind [markE, canonical_putCur]

theorem canonical_takeTrap (can : Canonical s) (can' : Canonical t) (side : Side) (f : FaultInfo) : Canonical (takeTrap s t side f) := by
  cases side <;> grind [takeTrap, canonical_markA, canonical_markE, canonical_trapEntry]

theorem canonical_countBundle (can : Canonical s) (h n : Nat) (agreed : Bool) : Canonical (countBundle h n agreed s) := by
  grind [countBundle, canonical_putHart, memOk_hartOf, Hart.memOk_iff]

theorem canonical_retireAt (can : Canonical s) (h n : Nat) (σ : Slot) (lone : Bool) (fl : Flow) : Canonical (retireAt s h n σ lone fl) :=
    by
  grind [retireAt, canonical_countBundle, canonical_putSlot]

/-! ## Steps of a side (R106) -/

theorem canonical_stepA (can : Canonical s) (lone : Bool) (g : Gov) (op : Op Flow) (opKeeps : OpCanonical op) : Canonical (stepA lone g op
    s) := by
  have kept := opKeeps.keeps s can
  unfold stepA
  extract_lets σ
  split
  · exact canonical_markA can _
  · split
    · exact canonical_takeTrap can (canonical_putCur can _) _ _
    · split
      case h_1 fl t e =>
        have ended : Canonical t := opKeeps.ok can e
        grind [canonical_retireAt]
      case h_2 w keep e =>
        rw [e] at kept
        exact canonical_markA kept w
      case h_3 ids e => exact canonical_markA (canonical_flushIds can _ _ _) _
      case h_4 f keep e =>
        rw [e] at kept
        exact canonical_takeTrap can kept _ _

theorem canonical_keepTable (can : Canonical s) (w : Wait) : Canonical (keepTable w s) := by
  grind [keepTable, canonical_putCur]

theorem canonical_stepE (can : Canonical s) (g : Gov) (op : Op Unit) (opKeeps : OpCanonical op) : Canonical (stepE g op s) := by
  have kept := opKeeps.keeps s can
  unfold stepE
  extract_lets σ
  split
  · exact canonical_markE can _
  split
  · exact canonical_markE can _
  split
  · exact canonical_takeTrap can (canonical_putCur can _) _ _
  split
  case h_1 t e => exact canonical_putCur (opKeeps.ok can e) _
  case h_2 w keep e =>
    rw [e] at kept
    exact canonical_markE (canonical_keepTable kept w) w
  case h_3 ids e => exact canonical_markE can _
  case h_4 f keep e =>
    rw [e] at kept
    exact canonical_takeTrap can kept _ _

theorem canonical_illegalWord (can : Canonical s) (side : Side) (f : FaultInfo) : Canonical (illegalWord side f s) := by
  cases side <;> grind [illegalWord, canonical_markA, canonical_markE, canonical_takeTrap]

theorem canonical_asSlot (can : Canonical s) (h n : Nat) (f : State → State) (keeps : ∀ s, Canonical s → Canonical (f s)) : Canonical
    (asSlot h n f s) := by
  unfold asSlot
  exact keeps { s with cur := (h, n, .aSide) } can

/-! ## Order, issue and the own scratchpad (R83 to R98, R242) -/

theorem opCanonical_needSb (n : Nat) : OpCanonical (needSb n) := by
  refine ⟨fun s can => ?_⟩
  grind [needSb, leaves]

theorem opCanonical_addSb (e : SbEntry) : OpCanonical (addSb e) := by
  unfold addSb
  exact .modState fun _ can' => (canonical_putCur can' ..)

theorem opCanonical_passOrder (d : OpDesc) (except : List Nat) : OpCanonical (passOrder d except) := by
  refine ⟨fun s can => ?_⟩
  grind [passOrder, leaves, canonical_addGuards, canonical_makeSure]

theorem opCanonical_inOrder (d : OpDesc) : OpCanonical (inOrder d) := by
  unfold inOrder
  exact opCanonical_passOrder ..

theorem canonical_releasePush (can : Canonical s) (L h : Nat) (d : OpDesc) : Canonical (releasePush L h d s) := by
  grind [releasePush, canonical_flushScope]

theorem opCanonical_issue (buffer : Bool) (op : NetOp) (d : OpDesc) (except : List Nat) : OpCanonical (issue buffer op d except) := by
  refine ⟨fun s can => ?_⟩
  grind [issue, leaves, canonical_flushIds, canonical_releasePush, canonical_putHart, canonical_iff, memOk_hartOf, Hart.memOk_iff]

theorem opCanonical_agreeFirst : OpCanonical agreeFirst := by
  refine ⟨fun s can => ?_⟩
  grind [agreeFirst, leaves]

theorem canonical_reissue (can : Canonical s) (it : NetItem) (o : OutOp) : Canonical (reissue s it o) := by
  grind [reissue, canonical_flushIds, canonical_releasePush, canonical_putHart, canonical_iff, memOk_hartOf, Hart.memOk_iff]

theorem opCanonical_pushBytes (sc : Scope) : OpCanonical (pushBytes sc) := by
  unfold pushBytes
  exact .modState fun _ can' => (canonical_flushScope can' ..)

theorem opCanonical_ownBytesAt (off n : Nat) : OpCanonical (ownBytesAt off n) := by
  refine ⟨fun s can => ?_⟩
  grind [ownBytesAt, leaves, canonical_recallU, memOk_hartOf, Hart.memOk_iff, wf_ctxOf]

theorem opCanonical_ownWrite (p : Word) (off : Nat) (bs : List Byte) : OpCanonical (ownWrite p off bs) := by
  refine ⟨fun s can => ?_⟩
  grind [ownWrite, leaves, canonical_putHart, canonical_recallU, canonical_invalidateHome, canonical_modHome, canonical_iff, memOk_hartOf,
    Hart.memOk_iff, Ctx.wf_write]

theorem opCanonical_peekStamp : OpCanonical peekStamp := by
  refine ⟨fun s can => ?_⟩
  grind [peekStamp, leaves, memOk_hartOf, Hart.memOk_iff, wf_curCtx]

theorem opCanonical_takeStamp : OpCanonical takeStamp := by
  unfold takeStamp
  exact .bind opCanonical_peekStamp fun _ => .bind (.modState fun _ can' => (canonical_putCurCtx can' (wf_curCtx can'))) fun _ => .pure _

theorem opCanonical_takeNum : OpCanonical takeNum := by
  refine ⟨fun s can => ?_⟩
  grind [takeNum, leaves, canonical_iff, memOk_hartOf, Hart.memOk_iff]

theorem opCanonical_unlessLater (k : Nat) (f : State → State) (keeps : ∀ s, Canonical s → Canonical (f s)) : OpCanonical (unlessLater k f)
    := by
  unfold unlessLater
  refine .modState fun s can => ?_
  split
  · exact can
  · exact canonical_noteWrite (keeps s can) _

/-! ## Operands (R20, R101 to R104) -/

theorem opCanonical_notPending (d : ADst) : OpCanonical (notPending d) := by
  refine ⟨fun s can => ?_⟩
  grind [notPending, leaves]

theorem opCanonical_readStream (n : Fin 4) : OpCanonical (readStream n) := by
  unfold readStream
  exact .bind opCanonical_getSlot fun _ => .bind (.stopIf (opCanonical_waitFor ..)) fun _ => .bind (opCanonical_notPending ..) fun _ =>
    .bind (.stopIf (opCanonical_trapFree ..)) fun _ => .bind (.stopIf (opCanonical_trapAt ..)) fun _ => .bindGet fun _ _ => .bind (.stopIf
    (opCanonical_trapAt ..)) fun _ => .bind (opCanonical_inOrder ..) fun _ => .bind (opCanonical_ownBytesAt ..) fun _ => .bind
    (opCanonical_modSlot ..) fun _ => .pure _

theorem opCanonical_readA (x : ASrc) : OpCanonical (readA x) := by
  unfold readA
  split
  · exact .bind (opCanonical_notPending ..) fun _ => .bind opCanonical_getSlot fun _ => .pure _
  · refine .bind opCanonical_getSlot fun _ => ?_
    split
    · exact opCanonical_waitFor ..
    · exact .bind (opCanonical_modSlot ..) fun _ => .pure _
  · refine .bind opCanonical_getSlot fun _ => ?_
    split
    · exact opCanonical_waitFor ..
    · exact .bind (opCanonical_modSlot ..) fun _ => .pure _
  · exact opCanonical_readStream ..
  · exact .pure _

theorem opCanonical_pushLq (k : Fin 4) (e : LqEntry) : OpCanonical (pushLq k e) := by
  refine ⟨fun s can => ?_⟩
  grind [pushLq, leaves, canonical_putCur]

theorem opCanonical_writeA (d : ADst) (w : Word) : OpCanonical (writeA d w) := by
  unfold writeA
  split
  · exact .bind (opCanonical_notPending ..) fun _ => .bind (opCanonical_modSlot ..) fun _ => opCanonical_noteResult ..
  · exact .bind (opCanonical_pushLq ..) fun _ => opCanonical_noteResult ..
  · exact .bind opCanonical_getSlot fun _ => .bind (.stopIf (opCanonical_waitFor ..)) fun _ => .bind (opCanonical_notPending ..) fun _ =>
      .bind (opCanonical_modSlot ..) fun _ => opCanonical_noteResult ..
  · exact .pure _

theorem opCanonical_readAReg (x : ARegZ) : OpCanonical (readAReg x) := by
  unfold readAReg
  split
  · exact opCanonical_readA ..
  · exact .pure _

theorem opCanonical_readNum (n : Nat) : OpCanonical (readNum n) := by
  unfold readNum
  exact opCanonical_readA ..

theorem opCanonical_popLq (k : Fin 4) : OpCanonical (popLq k) := by
  unfold popLq
  refine .bind opCanonical_getSlot fun _ => ?_
  split
  · exact .bind (opCanonical_modSlot ..) fun _ => .pure _
  · split
    · exact .bind (opCanonical_modSlot ..) fun _ => .pure _
    · exact opCanonical_waitFor ..

theorem opCanonical_readE (x : ESrc) : OpCanonical (readE x) := by
  unfold readE
  split
  · exact .bind opCanonical_getSlot fun _ => .pure _
  · exact .bind (opCanonical_popLq ..) fun _ => .pure _
  · exact .pure _

theorem opCanonical_pushSq (q : Fin 2) (e : QEntry) : OpCanonical (pushSq q e) := by
  refine ⟨fun s can => ?_⟩
  grind [pushSq, leaves, canonical_putCur]

theorem opCanonical_pushCq (w : Word) : OpCanonical (pushCq w) := by
  refine ⟨fun s can => ?_⟩
  grind [pushCq, leaves, canonical_putCur]

theorem opCanonical_writeE (d : EDst) (w : Word) : OpCanonical (writeE d w) := by
  unfold writeE
  split
  · exact .bind (opCanonical_modSlot ..) fun _ => opCanonical_noteResult ..
  · exact .bind (opCanonical_pushSq ..) fun _ => opCanonical_noteResult ..
  · exact .bind (opCanonical_pushCq ..) fun _ => opCanonical_noteResult ..
  · exact .pure _

theorem opCanonical_readP (n : Fin 8) : OpCanonical (readP n) := by
  unfold readP
  exact .bind opCanonical_getSlot fun _ => .pure _

theorem opCanonical_writeP (n : Fin 8) (w : Word) : OpCanonical (writeP n w) := by
  unfold writeP
  exact .bind (opCanonical_modSlot ..) fun _ => opCanonical_noteResult ..

theorem opCanonical_holdPop (k : Fin 4) (dest : HeldDst) (code : Nat) : OpCanonical (holdPop k dest code) := by
  unfold holdPop
  refine .bind opCanonical_getSlot fun _ => ?_
  split
  · exact .bind (opCanonical_modSlot ..) fun _ => .pure _
  · split
    · exact .bind (opCanonical_needSb ..) fun _ => .bindGet fun _ can => .bind (.modState fun _ can' => can') fun _ => .bind
        (opCanonical_modSlot ..) fun _ => .pure _
    · exact opCanonical_waitFor ..

theorem opCanonical_grabV (v : VSrc) (dest : HeldDst) (code : Nat) : OpCanonical (grabV v dest code) := by
  unfold grabV
  split
  · exact .bind opCanonical_getSlot fun _ => .pure _
  · exact .bind (opCanonical_holdPop ..) fun _ => .pure _
  · exact .pure _

theorem canonical_begun (can : Canonical s) (ids : List Nat) : Canonical (begun s ids) := by
  grind [begun, canonical_putCur]

/-- A stop of a word that has begun keeps the state in which it stops. -/
theorem canonical_keepFrom {ids : List Nat} {x : Stop} {r : Except Stop (α × State)} (can : Canonical s) (can' : Canonical t)
    (e : keepFrom t ids r = .error x) (kept : Canonical (leaves t r)) : Canonical (leaves s (.error x : Except Stop (β × State))) := by
  cases r with
  | ok => cases e
  | error y =>
    rcases y with ⟨w, _ | u⟩ | ⟨f, _ | u⟩ | l <;> cases e
    · exact canonical_begun can' ids
    · exact kept
    · exact canonical_begun can' ids
    · exact kept
    · exact can

theorem opCanonical_withV {body : Vec → Vec → Op Unit} (bodyKeeps : ∀ a b, OpCanonical (body a b)) (s1 s2 : VSrc) (dest : HeldDst) (code :
    Nat) : OpCanonical (withV s1 s2 dest code body) := by
  refine ⟨fun s can => ?_⟩
  unfold withV
  split
  case h_1 r e => exact canonical_leaves_error can (e ▸ (opCanonical_grabV s1 dest code).keeps s can)
  case h_2 r a u1 t1 e1 =>
    have can1 := (opCanonical_grabV s1 dest code).ok can e1
    split
    case h_1 r e => exact canonical_keepFrom can can1 e ((opCanonical_grabV s2 dest code).keeps t1 can1)
    case h_2 r b u2 t2 e2 =>
      have can2 := (opCanonical_grabV s2 dest code).ok can1 (keepFrom_ok e2)
      split
      case h_1 r e => exact canonical_keepFrom can can2 e ((bodyKeeps a b).keeps t2 can2)
      case h_2 r x t3 e3 => exact canonical_putCur ((bodyKeeps a b).ok can2 (keepFrom_ok e3)) _

theorem opCanonical_withV1 {body : Vec → Op Unit} (bodyKeeps : ∀ a, OpCanonical (body a)) (s1 : VSrc) (dest : HeldDst) (code : Nat) :
    OpCanonical (withV1 s1 dest code body) := opCanonical_withV (fun a _ => bodyKeeps a) ..

theorem opCanonical_writeV (d : VDst) (w : Vec) : OpCanonical (writeV d w) := by
  unfold writeV
  split
  · exact .bind (opCanonical_modSlot ..) fun _ => opCanonical_noteResult ..
  · exact .bind (opCanonical_pushSq ..) fun _ => opCanonical_noteResult ..
  · exact .bind (opCanonical_pushCq ..) fun _ => opCanonical_noteResult ..
  · exact .pure _

end

end Sys2Proof.Machine
end

section
/-! SUPPORT. Memories in canonical form, continued: the A-side's words on memory, atomics, activations and control (log 3; spec/13,
spec/14). -/

namespace Sys2Proof.Machine

section
variable {s t : State}

/-! ## Loads and stores (R242 to R246) -/

theorem opCanonical_checked (p : Word) (n : Nat) (szc : BitVec 12) (store release mem : Bool) : OpCanonical (checked p n szc store release
    mem) := by
  refine ⟨fun s can => ?_⟩
  grind [checked, leaves]

theorem opCanonical_writeLoaded (d : ADst) (signed : Bool) (bs : List Byte) : OpCanonical (writeLoaded d signed bs) := by
  unfold writeLoaded
  split
  · exact .bind (opCanonical_pushLq ..) fun _ => opCanonical_noteResult ..
  · exact opCanonical_writeA ..

theorem opCanonical_reserve (d : ADst) (id : Nat) : OpCanonical (reserve d id) := by
  unfold reserve
  split
  · exact opCanonical_pushLq ..
  · exact opCanonical_notPending ..

theorem opCanonical_addPending (kind : Nat) (d : ADst) (p : Word) (it : NetItem) : OpCanonical (addPending kind d p it) := by
  unfold addPending
  exact .bind (opCanonical_needSb ..) fun _ => .bind (opCanonical_reserve ..) fun _ => opCanonical_addSb ..

theorem canonical_evictL1 (can : Canonical s) (L h : Nat) (k : Nat) : Canonical (evictL1 L h s k) := by
  grind [evictL1, canonical_flushLine, canonical_modHome, canonical_putHart, memOk_hartOf, Hart.memOk_iff, Hart.memOk_putLine,
    wf_combineU]

theorem canonical_evictL2 (can : Canonical s) (L c k2 : Nat) : Canonical (evictL2 L c k2 s) := by
  unfold evictL2
  extract_lets ks t
  have evicted : Canonical t :=
    canonical_foldl (fun u h can => canonical_foldl (fun v k can => canonical_evictL1 can _ _ _) can _) can _
  exact canonical_putCluster evicted _ _

theorem canonical_l2Alloc (can : Canonical s) (L c k2 : Nat) : Canonical (l2Alloc L c k2 s) := by
  grind [l2Alloc, canonical_evictL2, canonical_putCluster, canonical_iff]

theorem canonical_l1Alloc (can : Canonical s) (L h k : Nat) : Canonical (l1Alloc L h k s) := by
  grind [l1Alloc, canonical_l2Alloc, canonical_evictL1, canonical_iff, memOk_hartOf, Hart.memOk_iff]

theorem canonical_fillFromL2 (can : Canonical s) (L h home off : Nat) : Canonical (fillFromL2 L h home off s) := by
  grind [fillFromL2, canonical_l1Alloc, canonical_putHart, memOk_hartOf, Hart.memOk_iff, Hart.memOk_putLine]

theorem opCanonical_needRequest : OpCanonical needRequest := by
  refine ⟨fun s can => ?_⟩
  grind [needRequest, leaves, memOk_hartOf, Hart.memOk_iff]

theorem opCanonical_loadOp (signed : Bool) (d : ADst) (base : ASrc) (sz : Size) (ord : Ord) (sc : Scope) (off : BitVec 7) : OpCanonical
    (loadOp signed d base sz ord sc off) := by
  unfold loadOp
  refine .bind (opCanonical_readA ..) fun b => ?_
  refine .bind (opCanonical_checked ..) fun target => ?_
  refine .bindGet fun s can => ?_
  cases target with
  | own o => exact .bind (opCanonical_inOrder ..) fun _ => .bind (opCanonical_ownBytesAt ..) fun _ => opCanonical_writeLoaded ..
  | mesh home o cached =>
    dsimp only
    cases (if cached then cacheHit s (curHart s) home o (sizeBytes sz) else none) with
    | none => exact .bind (opCanonical_issue ..) fun _ => opCanonical_addPending ..
    | some bs =>
      exact .bind (opCanonical_passOrder ..) fun _ => .bind (.modState fun _ can' => canonical_fillFromL2 can' ..) fun _ =>
        opCanonical_writeLoaded ..
  | ext k o =>
    exact .bind (.stopSome fun _ => .stopIf (opCanonical_trapFree ..)) fun _ => .bind opCanonical_needRequest fun _ =>
      .bind (opCanonical_issue ..) fun _ => opCanonical_addPending ..
  | reg o => exact .bind (opCanonical_inOrder ..) fun _ => opCanonical_writeLoaded ..

theorem opCanonical_storeData (d : ASrc) (n : Nat) : OpCanonical (storeData d n) := by
  unfold storeData
  split
  · refine .bind opCanonical_getSlot fun _ => ?_
    split
    · exact opCanonical_waitFor ..
    · exact .bind (opCanonical_modSlot ..) fun _ => .pure _
  · exact .bind (opCanonical_readA ..) fun _ => .pure _

theorem opCanonical_coalesce (p : Word) (home off : Nat) (bs : List Byte) (d : OpDesc) : OpCanonical (coalesce p home off bs d) := by
  unfold coalesce
  refine .bindGet fun _ _ => .bindGet fun _ _ => .bind (opCanonical_passOrder ..) fun _ => .modState fun u can => ?_
  have filled := canonical_l1Alloc can (curLaunch u) (curHart u) (lineKey home off)
  grind [canonical_putHart, memOk_hartOf, Hart.memOk_iff, Hart.putLine, canonical_iff]

theorem opCanonical_storedBytes (d : ASrc) (n : Nat) : OpCanonical (storedBytes d n) := by
  unfold storedBytes
  exact .bind (opCanonical_storeData ..) fun _ => .bind (opCanonical_noteResult ..) fun _ => .pure _

theorem opCanonical_storeOp {kick : Engine → ASrc → OpDesc → Op Unit} (kickKeeps : ∀ a b c, OpCanonical (kick a b c)) (d base : ASrc) (sz
    : Size) (ord : Ord) (sc : Scope) (off : BitVec 7) : OpCanonical (storeOp kick d base sz ord sc off) := by
  unfold storeOp
  refine .bind (opCanonical_readA ..) fun b => ?_
  refine .bind (opCanonical_checked ..) fun target => ?_
  refine .bindGet fun s can => ?_
  cases target with
  | own o =>
    exact .bind (opCanonical_storedBytes ..) fun _ => .bind (.stopSome fun _ => opCanonical_trapAt ..) fun _ =>
      .bind (opCanonical_inOrder ..) fun _ => .bind (.modState fun _ can' => canonical_releasePush can' ..) fun _ =>
      opCanonical_ownWrite ..
  | mesh home o cached =>
    refine .bind (opCanonical_storedBytes ..) fun bs => ?_
    dsimp only
    split
    · exact opCanonical_coalesce ..
    · exact .bind (opCanonical_issue ..) fun _ => .pure _
  | ext k o =>
    exact .bind (opCanonical_storedBytes ..) fun _ => .bind (.stopIf (opCanonical_trapAt ..)) fun _ =>
      .bind opCanonical_needRequest fun _ => .bind (opCanonical_issue ..) fun _ => .pure _
  | reg o => exact kickKeeps _ _ _

theorem opCanonical_extpageOp (d : ADst) (base : ASrc) : OpCanonical (extpageOp d base) := by
  unfold extpageOp
  refine .bind (opCanonical_readA ..) fun p => .bindGet fun s can => ?_
  refine .bind (.stopIf (opCanonical_trapAt ..)) fun _ => .bind (.stopIf (opCanonical_trapAt ..)) fun _ => ?_
  extract_lets k c
  split
  · exact opCanonical_trapAt ..
  · refine .bind (.stopIf (opCanonical_trapAt ..)) fun _ => ?_
    split
    · exact .bind (.modState fun _ can' => canonical_putCurCtx can' (wf_curCtx can')) fun _ => opCanonical_writeA ..
    · exact .bind (.modState fun _ can' => canonical_putCurCtx can' (wf_curCtx can')) fun _ => opCanonical_writeA ..

/-! ## Atomics (R53, R78, R247, R248) -/

theorem canonical_amoAtHome (can : Canonical s) {L home off x old : Nat} {op : AmoOp} {ply : BitVec 16}
    (done : amoAtHome s L home off op x ply = some (old, t)) : Canonical t := by
  have recalled := canonical_recallU can L home off
  unfold amoAtHome at done
  dsimp only at done
  split at done
  · simp only [Option.map_eq_some_iff, Prod.mk.injEq] at done
    obtain ⟨d, -, -, rfl⟩ := done
    refine canonical_invalidateHome (canonical_modHome recalled _ _ _ fun c wf => ?_) _ _ _
    cases placed : placeAmax c off op x ply with
    | none => exact wf
    | some e => exact wf_placeAmax wf placed
  · cases done
    exact canonical_invalidateHome (canonical_modHome recalled _ _ _ fun _ wf => Ctx.wf_putElem wf _ _ _) _ _ _

theorem canonical_maxrdAtHome (can : Canonical s) (L home off n : Nat) : Canonical (maxrdAtHome s L home off n).2 :=
  canonical_invalidateHome (canonical_modHome (canonical_recallU can L home off) _ _ _ fun _ wf => Ctx.wf_putElem wf _ _ _) _ _ _

theorem opCanonical_combineHere (p : Word) (home off : Nat) (op : AmoOp) (t : Nat) : OpCanonical (combineHere p home off op t) := by
  unfold combineHere
  refine .modState fun s can => ?_
  grind [canonical_lateFault, canonical_l1Alloc, canonical_invalidate, canonical_recallWhere, canonical_putHart, memOk_hartOf,
    Hart.memOk_putLine]

theorem opCanonical_amoOp (op : AmoOp) (d : ADst) (x y : ASrc) (ord : Ord) (sc : Scope) : OpCanonical (amoOp op d x y ord sc) := by
  unfold amoOp
  refine .bind (opCanonical_readA ..) fun p => .bind (opCanonical_readA ..) fun v => ?_
  refine .bind (opCanonical_checked ..) fun target => .bind (opCanonical_noteResult ..) fun _ => .bindGet fun s can => ?_
  cases target with
  | own o =>
    refine .bind (.stopSome fun _ => opCanonical_trapAt ..) fun _ => .bind opCanonical_agreeFirst fun _ => ?_
    refine .bind (opCanonical_inOrder ..) fun _ => .bind (.modState fun _ can' => canonical_releasePush can' ..) fun _ => ?_
    refine .bindGet fun u can => ?_
    split
    case h_1 old u done => exact .bind (.modState fun _ _ => canonical_amoAtHome can done) fun _ => opCanonical_writeA ..
    case h_2 => exact .pure _
  | mesh home o cached =>
    dsimp only
    split
    · split
      · exact .bind (opCanonical_inOrder ..) fun _ => .bind (.modState fun _ can' => canonical_releasePush can' ..) fun _ =>
          opCanonical_combineHere ..
      · exact .bind (opCanonical_issue ..) fun _ => .pure _
    · exact .bind opCanonical_agreeFirst fun _ => .bind (opCanonical_issue ..) fun _ => opCanonical_addPending ..
  | ext k o => exact opCanonical_trapAt ..
  | reg o => exact opCanonical_trapAt ..

theorem opCanonical_maxrdOp (n : Nat) (d : ADst) (x : ASrc) (ord : Ord) (sc : Scope) : OpCanonical (maxrdOp n d x ord sc) := by
  unfold maxrdOp
  refine .bind (opCanonical_readA ..) fun p => .bind (opCanonical_checked ..) fun target => .bindGet fun s can => ?_
  refine .bind opCanonical_agreeFirst fun _ => ?_
  cases target with
  | own o =>
    refine .bind (.stopSome fun _ => opCanonical_trapAt ..) fun _ => .bind (opCanonical_inOrder ..) fun _ => ?_
    refine .bind (.modState fun _ can' => canonical_releasePush can' ..) fun _ => .bindGet fun u can => ?_
    exact .bind (.modState fun _ _ => canonical_maxrdAtHome can ..) fun _ => opCanonical_writeA ..
  | mesh home o cached =>
    refine .bind (opCanonical_issue ..) fun it => ?_
    split
    · exact opCanonical_addPending ..
    · exact .pure _
  | ext k o => exact opCanonical_trapAt ..
  | reg o => exact opCanonical_trapAt ..

/-! ## Activations (R20, R35, R112, R232) -/

theorem opCanonical_setFlags (f : Fl) : OpCanonical (setFlags f) := by
  unfold setFlags
  exact opCanonical_modSlot ..

theorem opCanonical_roundMode : OpCanonical roundMode := by
  unfold roundMode
  exact .bind opCanonical_getSlot fun _ => .pure _

theorem canonical_startIn (can : Canonical s) (h n L : Nat) (e : RingEntry) : Canonical (startIn s h n L e) := by
  grind [startIn, canonical_putHart, memOk_hartOf, Hart.memOk_iff, Hart.memOk_putSlot]

theorem canonical_selectOne (can : Canonical s) (ok : Nat → Bool) (h : Nat) : Canonical (selectOne ok s h) := by
  grind [selectOne, canonical_startIn, canonical_putHart, memOk_hartOf, Hart.memOk_iff, Hart.memOk_putCtx, Hart.wf_ctx]

theorem canonical_selectAmong (can : Canonical s) (ok : Nat → Bool) (h : Nat) : Canonical (selectAmong ok s h) := by
  unfold selectAmong
  exact canonical_foldl (fun t _ can => canonical_selectOne can _ _) can _

theorem canonical_select (can : Canonical s) (h : Nat) : Canonical (select s h) := by
  grind [select, canonical_selectAmong]

theorem canonical_releaseSlot (can : Canonical s) (h n : Nat) : Canonical (releaseSlot s h n) := by
  grind [releaseSlot, canonical_putCluster, canonical_selectAmong, canonical_putSlot]

/-! ## Control (R224 to R235, R240, R241) -/

theorem opCanonical_transfer (t : Int) : OpCanonical (transfer t) := by
  refine ⟨fun s can => ?_⟩
  grind [transfer, leaves]

theorem opCanonical_pushReturn (a : Nat) : OpCanonical (pushReturn a) := by
  unfold pushReturn
  refine .bindGet fun s can => ?_
  dsimp only
  split
  · exact opCanonical_modSlot ..
  · exact .bind (.stopIf (opCanonical_trapAt ..)) fun _ => .bind (opCanonical_inOrder ..) fun _ => .bind (.stopSome fun _ =>
      opCanonical_trapAt ..) fun _ => .bind (opCanonical_ownWrite ..) fun _ => opCanonical_modSlot ..

theorem opCanonical_popReturn : OpCanonical popReturn := by
  unfold popReturn
  refine .bindGet fun s can => ?_
  split
  · exact .bind (opCanonical_modSlot ..) fun _ => .pure _
  · exact .bind (.stopIf (opCanonical_trapAt ..)) fun _ => .bind (opCanonical_inOrder ..) fun _ => .bind (opCanonical_ownBytesAt ..) fun _
      => .bind (opCanonical_modSlot ..) fun _ => .pure _

theorem opCanonical_curPc : OpCanonical curPc := by
  unfold curPc
  exact .bind opCanonical_getSlot fun _ => .pure _

theorem opCanonical_callTo (t : Int) : OpCanonical (callTo t) := by
  unfold callTo
  exact .bind opCanonical_curPc fun _ => .bind (opCanonical_pushReturn ..) fun _ => opCanonical_transfer ..

theorem opCanonical_dropPrefixE : OpCanonical dropPrefixE := by
  refine ⟨fun s can => ?_⟩
  grind [dropPrefixE, leaves, canonical_putCur]

theorem opCanonical_freeCurrent : OpCanonical freeCurrent := by
  unfold freeCurrent
  exact .modState fun _ can' => (canonical_releaseSlot can' ..)

theorem opCanonical_discardAll : OpCanonical discardAll := by
  unfold discardAll
  exact .modState fun s can => canonical_foldl (fun t e can => canonical_discardEntry can _ _) can _

theorem opCanonical_doneOp : OpCanonical doneOp := by
  unfold doneOp
  exact .bindGet fun _ _ => .bind (.stopIf (opCanonical_waitFor ..)) fun _ => .bind (.stopIf (opCanonical_dropPrefixE)) fun _ => .bind
    (.stopIf (opCanonical_waitFor ..)) fun _ => .bind (.stopIf (opCanonical_waitFor ..)) fun _ => .bind (.stopIf (opCanonical_trapAt ..))
    fun _ => .bind opCanonical_freeCurrent fun _ => .pure _

theorem opCanonical_abandonOp : OpCanonical abandonOp := by
  unfold abandonOp
  exact .bind opCanonical_getSlot fun _ => .bind (.stopIf (opCanonical_waitFor ..)) fun _ => .bind opCanonical_discardAll fun _ =>
    .bindGet fun _ can => .bind (.stopIf (.waitWith can _)) fun _ => .bind opCanonical_freeCurrent fun _ => .pure _

theorem opCanonical_ownOffset (p : Word) (size : Nat) (align : BitVec 12) : OpCanonical (ownOffset p size align) := by
  refine ⟨fun s can => ?_⟩
  grind [ownOffset, leaves, memOk_hartOf, Hart.memOk_iff]

theorem opCanonical_freeDst (d : ADst) : OpCanonical (freeDst d) := by
  refine ⟨fun s can => ?_⟩
  have kept := (opCanonical_notPending d).keeps s can
  cases d <;> grind [freeDst, leaves]

theorem opCanonical_pollWord (d : ADst) (off : Nat) (t : Word) (u : Undo) : OpCanonical (pollWord d off t u) := by
  unfold pollWord
  exact .bindGet fun _ can => .bind (opCanonical_ownBytesAt ..) fun _ => .bind (.stopIf (.waitWith can _)) fun _ => opCanonical_writeA ..

theorem opCanonical_waitOp (d : ADst) (x y : ASrc) : OpCanonical (waitOp d x y) := by
  unfold waitOp
  refine .bind opCanonical_getSlot fun _ => ?_
  split
  · exact opCanonical_pollWord ..
  · exact .bind (opCanonical_readA ..) fun _ => .bind (opCanonical_readA ..) fun _ => .bind (opCanonical_ownOffset ..) fun _ => .bind
      (opCanonical_freeDst ..) fun _ => .bindGet fun _ _ => .bind (opCanonical_inOrder ..) fun _ => .bind opCanonical_getSlot fun _ =>
      opCanonical_pollWord ..

theorem canonical_resumeMembers (can : Canonical s) (ps : List (Nat × Nat)) : Canonical (resumeMembers s ps) := by
  unfold resumeMembers
  refine canonical_foldl (fun t p can => ?_) can _
  grind [canonical_retireAt]

theorem opCanonical_realignOp : OpCanonical realignOp := by
  refine ⟨fun s can => ?_⟩
  grind [realignOp, leaves, canonical_resumeMembers, memOk_hartOf, Hart.memOk_iff]

theorem canonical_deliverLate (can : Canonical s) (h n : Nat) : Canonical (deliverLate h n s) := by
  grind [deliverLate, canonical_putSlot, canonical_trapEntry]

theorem canonical_fallThrough (can : Canonical s) (h n : Nat) : Canonical (fallThrough h n s) := by
  grind [fallThrough, canonical_trapEntry, canonical_putSlot, memOk_hartOf, Hart.memOk_iff]

theorem canonical_releaseSide (can : Canonical s) (h n : Nat) (side : Side) : Canonical (releaseSide h n side s) := by
  cases side <;> grind [releaseSide, canonical_putSlot]

theorem canonical_releaseDone (can : Canonical s) (h n : Nat) : Canonical (releaseDone h n s) := by
  unfold releaseDone
  extract_lets σ
  split
  · refine canonical_asSlot can _ _ _ fun u can => ?_
    split
    · exact canonical_stepA can _ _ _ opCanonical_abandonOp
    · exact canonical_stepA can _ _ _ opCanonical_doneOp
  · exact can

theorem canonical_wakeWait (can : Canonical s) (h n : Nat) : Canonical (wakeWait h n s) := by
  unfold wakeWait
  split
  · exact canonical_asSlot can _ _ _ fun u can => canonical_stepA can _ _ _ (.bind (opCanonical_pollWord ..) fun _ => .pure _)
  · exact can

theorem canonical_releaseGroup (can : Canonical s) (h n : Nat) : Canonical (releaseGroup h n s) := by
  grind [releaseGroup, canonical_resumeMembers]

theorem canonical_timeoutRealign (can : Canonical s) (h n : Nat) : Canonical (timeoutRealign h n s) := by
  grind [timeoutRealign, canonical_resumeMembers]

end

end Sys2Proof.Machine
end

section
/-! SUPPORT. Memories in canonical form, continued: arrivals at homes, messages and order-repair cells (log 3; spec/03, spec/04,
spec/06). -/

namespace Sys2Proof.Machine

section
variable {s t : State}

/-! ## Accesses at their homes (R44, R53, R54, R82, R244) -/

theorem canonical_arriving (can : Canonical s) {k : Nat} {it : NetItem} (found : arriving s k = some (it, t)) : Canonical t := by
  unfold arriving at found
  grind [canonical_takeNet, canonical_passing]

theorem canonical_homeWrite (can : Canonical s) (L home off : Nat) (bs : List Byte) : Canonical (homeWrite s L home off bs) := by
  unfold homeWrite
  exact canonical_invalidateHome (canonical_modHome (canonical_recallU can _ _ _) _ _ _ fun _ wf => Ctx.wf_write wf _ _) _ _ _

theorem canonical_wordsNow (can : Canonical s) (left : BitVec 8) : Canonical (wordsNow s left).2 := can

theorem canonical_backInNet (can : Canonical s) (it : NetItem) (ids : List Nat) : Canonical (backInNet s it ids) := by
  unfold backInNet
  grind [canonical_makeSure, canonical_iff]

theorem canonical_served (can : Canonical s) (it : NetItem) (w : Word) (e : QEntry) : Canonical (served s it w e) := by
  unfold served
  grind [canonical_dropOut, canonical_settleSb]

theorem canonical_refuseFree (can : Canonical s) (src : Issuer) (id : Nat) (code : BitVec 16) (p : Word) : Canonical (refuseFree s src id
    code p) := by
  unfold refuseFree
  grind [canonical_refuse, canonical_iff]

theorem canonical_fillShared (can : Canonical s) (L h home off : Nat) (v : Vec) : Canonical (fillShared s L h home off v) := by
  unfold fillShared
  grind [canonical_l1Alloc, canonical_putHart, canonical_putCluster, memOk_hartOf, Hart.memOk_iff, Hart.memOk_putLine]

theorem canonical_loadAtHome (can : Canonical s) (it : NetItem) (p : Word) (n : Nat) (signed uncached : Bool) : Canonical (loadAtHome s it
    p n signed uncached) := by
  unfold loadAtHome
  grind [canonical_refuse, canonical_recallU, canonical_wordsNow, canonical_served, canonical_fillShared, canonical_backInNet, wf_ctxOf]

theorem canonical_screenStores (can : Canonical s) (L home : Nat) (xs : List (Issuer × PendStore × Loc)) (bad : List Nat) :
    Canonical (screenStores L home xs bad s).1 := by
  induction xs generalizing bad s with
  | nil => exact can
  | cons x xs ih =>
    unfold screenStores
    grind [canonical_lateFault, canonical_failOuts]

theorem canonical_flushAtHome (can : Canonical s) (it : NetItem) (home off : Nat) (ps : List PendStore) : Canonical (flushAtHome s it home
    off ps) := by
  unfold flushAtHome
  extract_lets r wide now t part
  have screened : Canonical r.1 := by grind [canonical_screenStores]
  have chosen : Canonical now.2 := by grind [canonical_wordsNow]
  have written : Canonical t := canonical_foldl (fun _ _ can => canonical_homeWrite can _ _ _ _) chosen _
  split
  · exact canonical_dropOuts written _ _
  · exact canonical_backInNet written _ _

theorem canonical_storeAtHome (can : Canonical s) (it : NetItem) (p : Word) (bs : List Byte) : Canonical (storeAtHome s it p bs) := by
  unfold storeAtHome
  extract_lets L home now t
  split
  · exact canonical_refuse can _ _ _
  · split
    · have written : Canonical t :=
        canonical_foldl (fun _ _ can => canonical_homeWrite can _ _ _ _) (canonical_wordsNow can _) _
      split
      · exact canonical_dropOut written _ _
      · exact canonical_backInNet written _ _
    · exact canonical_dropOut (canonical_homeWrite can _ _ _ _) _ _

theorem canonical_flushTimer (can : Canonical s) (h k : Nat) : Canonical (flushTimer h k s) := by
  unfold flushTimer
  grind [canonical_flushLine, memOk_hartOf, Hart.memOk_iff]

theorem canonical_amoArrive (can : Canonical s) (it : NetItem) (p : Word) (op : AmoOp) (x : Word) (ply : BitVec 16) : Canonical (amoArrive
    s it p op x ply) := by
  unfold amoArrive
  grind [canonical_refuse, canonical_amoAtHome, canonical_served, canonical_dropOut, canonical_putCtx, Hart.memOk_putCtx, wf_ctxOf]

theorem canonical_maxrdArrive (can : Canonical s) (it : NetItem) (p : Word) (n : Nat) : Canonical (maxrdArrive s it p n) := by
  unfold maxrdArrive
  grind [canonical_refuse, canonical_maxrdAtHome, canonical_served]

theorem canonical_checkerLoad (can : Canonical s) (it : NetItem) (e : Extent) (p : Word) (n : Nat) (signed : Bool) : Canonical
    (checkerLoad s it e p n signed) := by
  unfold checkerLoad
  grind [canonical_wordsNow, canonical_served, canonical_extentTouch, canonical_backInNet]

theorem canonical_checkerStore (can : Canonical s) (it : NetItem) (e : Extent) (p : Word) (bs : List Byte) : Canonical (checkerStore s it
    e p bs) := by
  unfold checkerStore
  extract_lets tag now t
  split
  · have written : Canonical t :=
      canonical_foldl (fun _ _ can => canonical_extentWrite can _ _ _ _) (canonical_wordsNow can _) _
    split
    · exact canonical_dropOut (canonical_extentClean written _ _) _ _
    · exact canonical_backInNet written _ _
  · exact canonical_dropOut (canonical_extentWrite can _ _ _ _) _ _

theorem canonical_countSent (can : Canonical s) (h L : Nat) (home : Option Nat) : Canonical (countSent s h L home) := by
  unfold countSent
  grind [canonical_putCtx, Hart.memOk_putCtx, wf_ctxOf]

theorem canonical_uncount (can : Canonical s) (h L : Nat) (op : NetOp) : Canonical (uncount s h L op) := by
  unfold uncount
  grind [canonical_putCtx, Hart.memOk_putCtx, wf_ctxOf]

/-! ## Sends (R107, R110, R111, R254 to R256) -/

theorem canonical_post (can : Canonical s) (src : Issuer) (op : NetOp) : Canonical (post s src op) := by
  unfold post
  grind [canonical_iff]

theorem canonical_accept (can : Canonical s) (it : NetItem) : Canonical (accept s it) := by
  unfold accept
  grind [canonical_post]

theorem canonical_nack (can : Canonical s) (it : NetItem) (reason : Nat) (f : FaultInfo) : Canonical (nack s it reason f) := by
  unfold nack
  grind [canonical_post]

theorem canonical_refusal (can : Canonical s) (it : NetItem) (code : BitVec 16) (detail : BitVec 12) : Canonical (refusal s it code
    detail) := by
  unfold refusal
  grind [canonical_nack]

theorem canonical_refusalFree (can : Canonical s) (it : NetItem) (code : BitVec 16) : Canonical (refusalFree s it code) := by
  unfold refusalFree
  grind [canonical_refusal, canonical_iff]

theorem canonical_keepCopy (can : Canonical s) (it : NetItem) : Canonical (keepCopy s it) := by
  unfold keepCopy
  grind [canonical_putHart, memOk_hartOf, Hart.memOk_iff]

theorem opCanonical_sendVia (buffer : Bool) (op : NetOp) (d : OpDesc) (info : BitVec 50) : OpCanonical (sendVia buffer op d info) := by
  unfold sendVia
  exact .bind (opCanonical_needSb ..) fun _ => .bind (opCanonical_issue ..) fun _ => .bind (opCanonical_addSb ..) fun _ => .bind
    (.modState fun _ can' => (canonical_keepCopy can' ..)) fun _ => .pure _

theorem opCanonical_sendKept (op : NetOp) (d : OpDesc) (info : BitVec 50) : OpCanonical (sendKept op d info) := by
  unfold sendKept
  exact opCanonical_sendVia ..

theorem opCanonical_portDest (p : Word) : OpCanonical (portDest p) := by
  refine ⟨fun s can => ?_⟩
  grind [portDest, leaves]

theorem opCanonical_forM {α : Type} {f : α → Op Unit} (keeps : ∀ a, OpCanonical (f a)) (xs : List α) : OpCanonical (xs.forM f) := by
  induction xs with
  | nil => exact .pure ()
  | cons x xs ih => exact .bind (keeps x) fun _ => ih

theorem opCanonical_sendMessage (dest : Nat) (chan : BitVec 6) (pri : BitVec 2) (kind : BitVec 4) (payload : List Word) : OpCanonical
    (sendMessage dest chan pri kind payload) := by
  unfold sendMessage
  exact .bind (opCanonical_forM opCanonical_noteResult payload) fun _ => .bind opCanonical_takeStamp fun _ =>
    .bindGet fun _ _ => .bind (opCanonical_sendKept ..) fun _ => .pure _

theorem opCanonical_readBlock (first len : Nat) : OpCanonical (readBlock first len) := by
  induction len generalizing first with
  | zero => exact .pure _
  | succ len ih => exact .bind (opCanonical_readNum ..) fun _ => .bind (ih _) fun _ => .pure _

theorem opCanonical_sendOp (first : BitVec 5) (p : Word) (rest : Bool) (chan : BitVec 6) (pri : BitVec 2) (len : Nat) (data : Bool) :
    OpCanonical (sendOp first p rest chan pri len data) := by
  unfold sendOp
  exact .bind (opCanonical_portDest ..) fun _ => .bind (.stopIf (opCanonical_trapAt ..)) fun _ => .bind (.stopIf (opCanonical_trapAt ..))
    fun _ => .bind (.stopIf (opCanonical_trapAt ..)) fun _ => .bind (opCanonical_readBlock ..) fun _ => opCanonical_sendMessage ..

theorem opCanonical_msgSendOp (data : Bool) (first : BitVec 5) (x y : ASrc) (pri : BitVec 2) : OpCanonical (msgSendOp data first x y pri)
    := by
  unfold msgSendOp
  exact .bind (opCanonical_readA ..) fun _ => .bind (opCanonical_readA ..) fun _ => opCanonical_sendOp ..

theorem opCanonical_replyOp (d x y : ASrc) : OpCanonical (replyOp d x y) := by
  unfold replyOp
  exact .bind (opCanonical_readA ..) fun _ => .bind (opCanonical_readA ..) fun _ => .bind (opCanonical_readA ..) fun _ => .bind
    (opCanonical_portDest ..) fun _ => .bind (.stopIf (opCanonical_trapAt ..)) fun _ => opCanonical_sendMessage ..

theorem opCanonical_sendlOp (data : Bool) (d : BitVec 5) (x : ASrc) (imm : BitVec 32) : OpCanonical (sendlOp data d x imm) := by
  unfold sendlOp
  exact .bind (opCanonical_readA ..) fun _ => .bind (.stopIf (opCanonical_trapAt ..)) fun _ => opCanonical_sendOp ..

/-! ## Messages at their destinations (R108, R109, R112, R116, R174) -/

theorem canonical_spill (can : Canonical s) {h L : Nat} {header : Word} {payload : List Word} {state : RingState}
    (taken : spill s h L header payload state = some t) : Canonical t := by
  unfold spill at taken
  extract_lets c room k e u at taken
  split at taken
  · nomatch taken
  · obtain rfl := Option.some.inj taken
    refine canonical_modHome ?_ _ _ _ fun _ wf => Ctx.wf_write wf _ _
    refine canonical_putCtx (s := { s with nextId := s.nextId + 1 }) can ?_ h
    exact wf_ctxOf can h L

theorem canonical_startArrival (can : Canonical s) (h L : Nat) (header : Word) (payload : List Word) : Canonical (startArrival s h L
    header payload) := by
  unfold startArrival
  grind [canonical_putHart, canonical_startIn, canonical_iff, memOk_hartOf, Hart.memOk_iff]

theorem canonical_takeMessage (can : Canonical s) {h L : Nat} {det : Bool} {header : Word} {payload : List Word}
    (taken : takeMessage s h L det header payload = some t) : Canonical t := by
  unfold takeMessage at taken
  grind [canonical_spill, canonical_startArrival, canonical_select, Option.map_eq_some_iff]

theorem canonical_pipelineArrive (can : Canonical s) {h L : Nat} {header : Word} {payload : List Word}
    (taken : pipelineArrive s h L header payload = .done t) : Canonical t := by
  unfold pipelineArrive at taken
  grind [canonical_takeMessage, canonical_spill, canonical_select, canonical_putCtx, wf_releaseHeld, wf_ctxOf]

theorem canonical_takeArrival (can : Canonical s) {h L : Nat} {header : Word} {payload : List Word}
    (taken : takeArrival s h L header payload = .done t) : Canonical t := by
  unfold takeArrival at taken
  grind [canonical_pipelineArrive, canonical_takeMessage]

theorem canonical_takeMet (can : Canonical s) {it : NetItem} {h L : Nat} {header : Word} {payload : List Word}
    (taken : takeMet s it h L header payload = .done t) : Canonical t := by
  unfold takeMet at taken
  grind [canonical_takeArrival]

theorem canonical_answerTurned (can : Canonical s) (can' : Canonical t) (it : NetItem) (a : Turned) :
    Canonical (answerTurned s t it a) := by
  unfold answerTurned
  grind [canonical_nack, canonical_refusal, canonical_refusalFree]

theorem canonical_meets (can : Canonical s) (it : NetItem) : Canonical (meets s it) := by
  unfold meets
  grind [canonical_iff]

theorem canonical_noRoom (can : Canonical s) (can' : Canonical t) (it : NetItem) (h L : Nat) (header : Word) (r : Nat) : Canonical (noRoom
    s t it h L header r) := by
  unfold noRoom
  split
  · exact canonical_meets can _
  · exact canonical_answerTurned can can' _ _

theorem canonical_writeMessage (can : Canonical s) (L h off : Nat) (ws : List Word) : Canonical (writeMessage s L h off ws) := by
  unfold writeMessage
  grind [canonical_homeWrite]

theorem canonical_takenBy (can : Canonical s) (it : NetItem) (L h : Nat) (stamp : BitVec 48) : Canonical (takenBy s it L h stamp) := by
  unfold takenBy
  refine canonical_accept (canonical_putCtx can ?_ h) it
  exact wf_ctxOf can h L

theorem canonical_activeArrive (can : Canonical s) (can' : Canonical t) (it : NetItem) (h : Nat) (header : Word) (payload : List Word) :
    Canonical (activeArrive s t it h header payload) := by
  unfold activeArrive
  dsimp only
  split
  · grind [canonical_accept, canonical_refusal, canonical_takeMet, canonical_takenBy, canonical_noRoom]
  · exact canonical_answerTurned can can' _ _

theorem canonical_dataArrive (can : Canonical s) (can' : Canonical t) (it : NetItem) (h : Nat) (header : Word) (payload : List Word) :
    Canonical (dataArrive s t it h header payload) := by
  unfold dataArrive
  dsimp only
  split
  · grind [canonical_accept, canonical_refusal, canonical_takeMet, canonical_takenBy, canonical_noRoom, canonical_writeMessage]
  · exact canonical_answerTurned can can' _ _

theorem canonical_settleNamed (can : Canonical s) (L h n num kind : Nat) (w : Word) : Canonical (settleNamed s L h n num kind w) := by
  unfold settleNamed
  grind [canonical_dropOut, canonical_settleSb, canonical_dropGone]

theorem canonical_retireAnswer (can : Canonical s) (src : Issuer) : Canonical (retireAnswer s src) := by
  unfold retireAnswer
  grind [canonical_putCtx, canonical_retireAt, Hart.memOk_putCtx, wf_ctxOf]

theorem canonical_trapAnswer (can : Canonical s) (src : Issuer) (id : Nat) (f : FaultInfo) : Canonical (trapAnswer s src id f) := by
  unfold trapAnswer
  grind [canonical_trapEntry, canonical_dropOut, canonical_putSlot]

theorem canonical_refusedCopy (can : Canonical s) (src : Issuer) (id : Nat) (f : FaultInfo) : Canonical (refusedCopy s src id f) := by
  unfold refusedCopy
  grind [canonical_dropCopy, canonical_trapAnswer, canonical_uncount, canonical_refuse, canonical_retireAnswer]

theorem canonical_exhausted (can : Canonical s) (src : Issuer) (c : SendCopy) (f : FaultInfo) : Canonical (exhausted s src c f) := by
  unfold exhausted
  grind [canonical_refusedCopy, canonical_putHart, memOk_hartOf, Hart.memOk_iff]

theorem canonical_scheduleResend (can : Canonical s) (h id reason : Nat) : Canonical (scheduleResend s h id reason) := by
  unfold scheduleResend
  grind [canonical_putHart, memOk_hartOf, Hart.memOk_iff]

theorem canonical_retryTimeout (can : Canonical s) (k : Nat) : Canonical (retryTimeout k s) := by
  unfold retryTimeout
  split
  case h_1 it t taken =>
    have left := canonical_takeNet can taken
    split
    · split
      · exact canonical_foldl (fun _ _ can => canonical_lateFault can _ _ _) (canonical_failOuts left _ _) _
      · exact canonical_refuse left _ _ _
    · exact can
  case h_2 => grind [canonical_refusedCopy]

/-! ## Order-repair cells (R67 to R72, R249 to R252) -/

theorem opCanonical_cellCheck (p : Word) (decl : Bool) : OpCanonical (cellCheck p decl) := by
  unfold cellCheck
  refine .bindGet fun s can => ?_
  refine .bind (.stopIf (opCanonical_trapAt ..)) fun _ => ?_
  refine .bind (.stopIf (opCanonical_trapFree ..)) fun _ => ?_
  split
  · split
    · exact .stopSome fun _ => opCanonical_trapAt ..
    · exact .pure _
  · refine .bind (.stopIf (opCanonical_trapAt ..)) fun _ => ?_
    refine .bind (.stopIf (opCanonical_trapAt ..)) fun _ => ?_
    split
    · exact .stopSome fun _ => opCanonical_trapAt ..
    · exact .pure _

theorem opCanonical_opndLow (y : ASrc) : OpCanonical (opndLow y) := by
  unfold opndLow
  split
  · split
    · exact opCanonical_readNum ..
    · exact .pure _
  · exact .pure _

theorem opCanonical_appendOp (p x y : Word) : OpCanonical (appendOp p x y) := by
  unfold appendOp
  exact .bind opCanonical_takeStamp fun _ => .bind (opCanonical_sendKept ..) fun _ => .modState fun _ can' => (canonical_countSent can'
    ..)

theorem opCanonical_appendReply (before : Slot) (d : ADst) (p x y : Word) : OpCanonical (appendReply before d p x y) := by
  unfold appendReply
  exact .bind opCanonical_agreeFirst fun _ => .bind opCanonical_peekStamp fun _ => .bind (opCanonical_needSb ..) fun _ => .bind
    opCanonical_takeNum fun _ => .bind (opCanonical_sendVia ..) fun _ => .bind (.modState fun _ can' => (canonical_countSent can' ..)) fun
    _ => .bindGet fun _ can => .bind (.modState fun _ can' => can') fun _ => .bind (opCanonical_reserve ..) fun _ => .bind
    (opCanonical_addSb ..) fun _ => .bindGet fun _ can => .waitWith can _

theorem opCanonical_orcAppOp (d : ADst) (x y : ASrc) : OpCanonical (orcAppOp d x y) := by
  unfold orcAppOp
  refine .bind opCanonical_getSlot fun _ => ?_
  refine .bind (.stopSome fun _ => opCanonical_waitFor ..) fun _ => ?_
  refine .bind (opCanonical_readA ..) fun _ => ?_
  refine .bind (opCanonical_readA ..) fun _ => ?_
  refine .bind (opCanonical_opndLow ..) fun _ => ?_
  refine .bind (opCanonical_cellCheck ..) fun _ => ?_
  refine .bind (opCanonical_noteResult ..) fun _ => ?_
  refine .bind (opCanonical_noteResult ..) fun _ => ?_
  split
  · exact opCanonical_appendOp ..
  · exact opCanonical_appendReply ..

theorem canonical_cellArrive (can : Canonical s) (it : NetItem) (p : Word) (body : Nat → State) (keeps : ∀ home, Canonical (body home)) :
    Canonical (cellArrive s it p body) := by
  unfold cellArrive
  grind [canonical_refusal, canonical_nack]

theorem canonical_declareLine (can : Canonical s) (it : NetItem) (home : Nat) (p : Word) (cls : OrcClass) : Canonical (declareLine s it
    home p cls) := by
  unfold declareLine
  grind [canonical_putCtx, canonical_accept, canonical_modLaunch, canonical_refusalFree, canonical_extentTouch, canonical_refusal,
    canonical_invalidateHome, canonical_recallU, canonical_iff, Hart.memOk_putCtx, wf_ctxOf]

theorem canonical_declArrive (can : Canonical s) (can' : Canonical t) (it : NetItem) (p : Word) (cls : OrcClass) : Canonical (declArrive s
    t it p cls) := by
  unfold declArrive
  grind [canonical_cellArrive, canonical_accept, canonical_refusal, canonical_declareLine, wf_ctxOf]

theorem canonical_insertAppend (can : Canonical s) (it : NetItem) (home : Nat) (l : OrLine) (p : Word) (stamp : BitVec 48) (x y : Word)
    (rq : Option Nat) : Canonical (insertAppend s it home l p stamp x y rq) := by
  unfold insertAppend
  refine canonical_accept (canonical_putCtx can ?_ home) it
  exact wf_ctxOf can home it.src.launch

theorem canonical_appendArrive (can : Canonical s) (it : NetItem) (p : Word) (stamp : BitVec 48) (x y : Word) (rq : Option Nat) :
    Canonical (appendArrive s it p stamp x y rq) := by
  unfold appendArrive
  grind [canonical_cellArrive, canonical_refusal, canonical_refusalFree, canonical_accept, canonical_logStamped, canonical_nack,
    canonical_insertAppend, wf_ctxOf]

theorem canonical_cellLoad (can : Canonical s) (it : NetItem) (p : Word) (body : Nat → OrLine → Nat → State) (keeps : ∀ home l i,
    Canonical (body home l i)) : Canonical (cellLoad s it p body) := by
  unfold cellLoad
  grind [canonical_refuse, canonical_refuseFree]

theorem canonical_ldtArrive (can : Canonical s) (it : NetItem) (p : Word) : Canonical (ldtArrive s it p) := by
  unfold ldtArrive
  grind [canonical_cellLoad, canonical_dropOut, canonical_settleSb]

theorem canonical_ldsArrive (can : Canonical s) (it : NetItem) (p : Word) (b : BitVec 16) : Canonical (ldsArrive s it p b) := by
  unfold ldsArrive
  grind [canonical_cellLoad, canonical_served, canonical_putCtx, Hart.memOk_putCtx, wf_ctxOf]

theorem canonical_serveWaiting (can : Canonical s) (home L : Nat) (it : NetItem) : Canonical (serveWaiting home L s it) := by
  unfold serveWaiting
  grind [canonical_served, wf_ctxOf]

theorem canonical_advanceUnit (can : Canonical s) (L : Nat) (n : BitVec 16) (home : Nat) : Canonical (advanceUnit L n s home) := by
  unfold advanceUnit
  extract_lets c r w u t v
  have moved : Canonical t := by
    refine canonical_putCtx can ?_ home
    exact wf_ctxOf can home L
  have replied : Canonical v := canonical_foldl (fun _ _ can => canonical_settleNamed can _ _ _ _ _ _) moved _
  exact canonical_foldl (fun _ it can => canonical_serveWaiting can home L it) replied _

end

end Sys2Proof.Machine
end

section
/-! SUPPORT. Memories in canonical form, continued: futures, fences and the ply, the E-side, and jobs of the engines (log 3; spec/03,
spec/05, spec/07, spec/14 to spec/17). -/

namespace Sys2Proof.Machine

section
variable {s t : State}

/-! ## Futures (R46, R51, R117, R118, R253) -/

theorem canonical_linkWaiter (can : Canonical s) {L home off chan sender : Nat} {tag : Word}
    (linked : linkWaiter s L home off chan sender tag = some t) : Canonical t := by
  unfold linkWaiter at linked
  extract_lets c at linked
  split at linked
  · obtain rfl := Option.some.inj linked
    refine canonical_modHome ?_ _ _ _ fun _ wf => Memory.wf_writeN _ _ _ _ (Memory.wf_writeN _ _ _ _ (Memory.wf_writeN _ _ _ _ wf))
    refine canonical_putCtx can ?_ home
    exact wf_ctxOf can home L
  · nomatch linked

/-- A waiter is linked, or nothing changes. -/
theorem canonical_linkWaiter_getD (can : Canonical s) (L home off chan sender : Nat) (tag : Word) :
    Canonical ((linkWaiter s L home off chan sender tag).getD s) := by
  cases linked : linkWaiter s L home off chan sender tag with
  | none => exact can
  | some u => exact canonical_linkWaiter can linked

theorem canonical_homeSend (can : Canonical s) (L home dest : Nat) (chan : BitVec 6) (pri : BitVec 2) (kind : BitVec 4) (payload : List
    Word) : Canonical (homeSend s L home dest chan pri kind payload) := by
  unfold homeSend
  grind [canonical_putCtx, canonical_keepCopy, canonical_iff, Hart.memOk_putCtx, wf_ctxOf]

theorem canonical_sendContinuation (can : Canonical s) (L home dest chan : Nat) (value tag : Word) : Canonical (sendContinuation s L home
    dest chan value tag) := by
  unfold sendContinuation
  grind [canonical_homeSend, canonical_iff]

theorem canonical_serveWaiter (can : Canonical s) (L home : Nat) (value : Word) (w : Nat × Nat × Nat × Word) : Canonical (serveWaiter L
    home value s w) := by
  unfold serveWaiter
  grind [canonical_homeSend, canonical_sendContinuation]

theorem canonical_fillFuture (can : Canonical s) (L home off : Nat) (value : Word) : Canonical (fillFuture s L home off value) := by
  unfold fillFuture
  extract_lets ws c t u
  have freed : Canonical t := by
    refine canonical_putCtx can ?_ home
    exact wf_ctxOf can home L
  have filled : Canonical u := canonical_modHome freed _ _ _ fun _ wf => Memory.wf_writeN _ _ _ _ wf
  exact canonical_foldl (fun _ x can => canonical_serveWaiter can L home value x) (canonical_invalidateHome filled _ _ _) _

theorem canonical_emptyFuture (can : Canonical s) (L home off : Nat) : Canonical (emptyFuture s L home off) := by
  unfold emptyFuture
  exact canonical_invalidateHome (canonical_modHome (canonical_recallU can _ _ _) _ _ _ fun _ wf => Memory.wf_writeN _ _ _ _ wf) _ _ _

theorem canonical_futureValue (can : Canonical s) (L home off : Nat) : Canonical (futureValue s L home off).2 :=
  canonical_recallU can L home off

theorem opCanonical_futTarget (p : Word) (store : Bool) : OpCanonical (futTarget p store) := by
  unfold futTarget
  refine .bind (opCanonical_checked ..) fun _ => ?_
  refine .bindGet fun s can => ?_
  dsimp only
  split
  · exact .bind (.stopIf (opCanonical_trapAt ..)) fun _ => .pure _
  · exact .pure _
  · exact opCanonical_trapAt ..

theorem opCanonical_issueHere (op : NetOp) (d : OpDesc) : OpCanonical (issueHere op d) := by
  unfold issueHere
  exact .bind (opCanonical_inOrder ..) fun _ => .bind (opCanonical_issue ..) fun _ => .bind (.modState fun _ can' => can') fun _ => .pure
    _

theorem opCanonical_pendRead (d : ADst) (p : Word) (home off : Nat) (own : Bool) (desc : OpDesc) : OpCanonical (pendRead d p home off own
    desc) := by
  unfold pendRead
  refine .bind (opCanonical_needSb ..) fun _ => .bind opCanonical_takeNum fun num => .bindGet fun s _ => ?_
  refine .bind ?_ fun it => .bind (opCanonical_reserve ..) fun _ => .bind (opCanonical_addSb ..) fun _ => ?_
  · split
    · exact opCanonical_issueHere ..
    · exact opCanonical_issue ..
  · split
    · exact .modState fun _ can' => canonical_linkWaiter_getD can' ..
    · exact .modState fun _ can' => canonical_keepCopy can' ..

theorem opCanonical_futRdOp (d : ADst) (x : ASrc) : OpCanonical (futRdOp d x) := by
  unfold futRdOp
  refine .bind (opCanonical_readA ..) fun p => .bind (opCanonical_futTarget ..) fun target => ?_
  refine .bind opCanonical_agreeFirst fun _ => .bindGet fun s _ => ?_
  split
  · refine .bind (opCanonical_inOrder ..) fun _ => .bindGet fun _ can => ?_
    exact .bind (.modState fun _ _ => canonical_futureValue can ..) fun _ => opCanonical_writeA ..
  · exact .bind (.stopIf (opCanonical_trapAt ..)) fun _ => opCanonical_pendRead ..

theorem opCanonical_futRdcOp (d : Fin 16) (x y : ASrc) : OpCanonical (futRdcOp d x y) := by
  unfold futRdcOp
  refine .bind (opCanonical_readA ..) fun p => .bind (opCanonical_readA ..) fun tag => .bind (opCanonical_readNum ..) fun c => ?_
  refine .bind (opCanonical_futTarget ..) fun target => .bind (.stopIf (opCanonical_trapAt ..)) fun _ => ?_
  refine .bind opCanonical_agreeFirst fun _ => .bindGet fun s _ => ?_
  split
  · refine .bind (opCanonical_inOrder ..) fun _ => .bind (.stopIf (opCanonical_waitFor ..)) fun _ => .bindGet fun _ can => ?_
    exact .modState fun _ _ => canonical_sendContinuation (canonical_futureValue can ..) ..
  · refine .bind (.stopIf (opCanonical_trapAt ..)) fun _ => ?_
    split
    · exact .bind (opCanonical_inOrder ..) fun _ => .modState fun _ can' => canonical_linkWaiter_getD can' ..
    · exact .bind (opCanonical_sendKept ..) fun _ => .pure _

theorem opCanonical_futWrOp (x y : ASrc) : OpCanonical (futWrOp x y) := by
  unfold futWrOp
  refine .bind (opCanonical_readA ..) fun _ => ?_
  refine .bind (opCanonical_readA ..) fun _ => ?_
  refine .bind (opCanonical_futTarget ..) fun _ => ?_
  split
  · refine .bind (opCanonical_noteResult ..) fun _ => ?_
    refine .bindGet fun s can => ?_
    dsimp only
    split
    · exact .bind (.stopIf (opCanonical_trapAt ..)) fun _ => .bind opCanonical_agreeFirst fun _ => .bind (opCanonical_pushBytes ..) fun _
        => .bind (opCanonical_inOrder ..) fun _ => .bind (.stopIf (opCanonical_waitFor ..)) fun _ => .modState fun _ can' =>
        (canonical_fillFuture can' ..)
    · exact .bind (opCanonical_sendKept ..) fun _ => .pure _

theorem opCanonical_futClrOp (x : ASrc) : OpCanonical (futClrOp x) := by
  unfold futClrOp
  refine .bind (opCanonical_readA ..) fun p => .bind (opCanonical_futTarget ..) fun target => .bindGet fun s _ => ?_
  split
  · refine .bind (.stopIf (opCanonical_trapAt ..)) fun _ => .bind opCanonical_agreeFirst fun _ => ?_
    refine .bind (opCanonical_inOrder ..) fun _ => .bindGet fun _ _ => .bind (.stopIf ⟨fun _ can => can⟩) fun _ => ?_
    split
    · exact .modState fun _ can' => canonical_emptyFuture can' ..
    · exact .pure _
  · exact .bind (opCanonical_sendKept ..) fun _ => .pure _

theorem canonical_futArrive (can : Canonical s) (it : NetItem) (p : Word) (store : Bool) (body : Nat → Nat → State) (keeps : ∀ home off,
    Canonical (body home off)) : Canonical (futArrive s it p store body) := by
  unfold futArrive
  grind [canonical_nack, canonical_refusal]

theorem canonical_readArrive (can : Canonical s) (it : NetItem) (p tag : Word) : Canonical (readArrive s it p tag) := by
  unfold readArrive
  grind [canonical_futArrive, canonical_linkWaiter, canonical_dropCopy, canonical_nack, canonical_futureValue, canonical_served, wf_ctxOf]

theorem canonical_continueArrive (can : Canonical s) (can' : Canonical t) (it : NetItem) (p : Word) (chan : Nat) (tag : Word) : Canonical
    (continueArrive s t it p chan tag) := by
  unfold continueArrive
  grind [canonical_futArrive, canonical_linkWaiter, canonical_accept, canonical_nack, canonical_futureValue, canonical_sendContinuation,
    wf_ctxOf]

/-! ## Fences and the ply (R72 to R78, R257, R258) -/

theorem opCanonical_fenceOp (sc : Scope) : OpCanonical (fenceOp sc) := by
  unfold fenceOp
  exact .bind (opCanonical_pushBytes ..) fun _ => .bindGet fun _ can => .stopIf (.waitWith can _)

theorem opCanonical_plyOrder : OpCanonical plyOrder := by
  refine ⟨fun s can => ?_⟩
  grind [plyOrder, leaves, canonical_makeSure, memOk_hartOf, Hart.memOk_iff]

theorem opCanonical_plyendOp : OpCanonical plyendOp := by
  unfold plyendOp
  exact .bind opCanonical_getSlot fun _ => .bind (.stopIf (opCanonical_waitFor ..)) fun _ => .bind opCanonical_plyOrder fun _ => .bind
    (opCanonical_pushBytes ..) fun _ => .bind (.modState fun _ can' => (canonical_putCurCtx can' (wf_curCtx can'))) fun _ => .bindGet fun
    _ can => .waitWith can _

theorem canonical_advanceCaught (can : Canonical s) (L h k : Nat) : Canonical (advanceCaught L h k s) := by
  induction k generalizing s with
  | zero => exact can
  | succ k ih =>
    unfold advanceCaught
    dsimp only
    split
    · exact ih (canonical_advanceUnit can _ _ _)
    · exact can

theorem canonical_closeUnit (can : Canonical s) (L : Nat) (l : Launch) (n : BitVec 16) (h : Nat) : Canonical (closeUnit L l n s h) := by
  unfold closeUnit
  dsimp only
  split
  · refine canonical_advanceCaught (canonical_putCtx can ?_ h) L h 5
    exact wf_ctxOf can h L
  · exact canonical_advanceUnit can L n h

theorem canonical_invalidateOpen (can : Canonical s) (h : Nat) (c : Ctx) : Canonical (invalidateOpen s h c) := by
  unfold invalidateOpen
  exact canonical_foldl (fun _ _ can => canonical_invalidate can _ _) can _

theorem canonical_closeCore (can : Canonical s) (L : Nat) (n : BitVec 16) (h : Nat) : Canonical (closeCore L n s h) := by
  unfold closeCore
  extract_lets t c c1 u H
  have opened : Canonical t := canonical_invalidateOpen can _ _
  have closed : Canonical u := by
    refine canonical_putCtx (s := { t with nextId := t.nextId + c.ring.length }) opened ?_ h
    exact wf_closeAmax (c := c1) (wf_ctxOf opened h L) _
  split
  · refine canonical_putHart closed ?_ h
    exact memOk_hartOf closed h
  · exact closed

theorem canonical_resumePly (can : Canonical s) (L : Nat) (h : Nat) : Canonical (resumePly L s h) := by
  unfold resumePly
  refine canonical_foldl (fun t n can => ?_) can _
  grind [canonical_retireAt]

theorem canonical_changeRegime (can : Canonical s) (L : Nat) (n : BitVec 16) : Canonical (changeRegime s L n) := by
  unfold changeRegime
  split
  · split
    · refine canonical_foldl (fun u h can => ?_) (canonical_modLaunch can _ _) _
      refine canonical_putCtx can ?_ h
      exact wf_ctxOf can h L
    · exact can
  · exact can

theorem canonical_holdSelection (can : Canonical s) (L : Nat) (l : Launch) : Canonical (holdSelection s L l) := by
  unfold holdSelection
  grind [canonical_modLaunch]

theorem canonical_closePly (can : Canonical s) (L : Nat) (l : Launch) : Canonical (closePly s L l) := by
  unfold closePly
  extract_lets n hs t u v w
  have units : Canonical t := canonical_foldl (fun _ h can => canonical_closeUnit can L l n h) can hs
  have cores : Canonical u := canonical_foldl (fun _ h can => canonical_closeCore can L n h) units hs
  have resumed : Canonical v :=
    canonical_holdSelection (canonical_foldl (fun _ h can => canonical_resumePly can L h) (canonical_changeRegime cores L n) hs) L l
  have guarded : Canonical w := canonical_addGuards resumed _
  exact canonical_foldl (fun _ h can => canonical_selectAmong can _ h) guarded hs

/-! ## The E-side (R262 to R286, R313) -/

theorem canonical_putTable (can : Canonical s) (h L : Nat) (T : SMap (BitVec 32)) :
    Canonical (putCtx s h { ctxOf s h L with table := T }) := by
  refine canonical_putCtx can ?_ h
  exact wf_ctxOf can h L

theorem opCanonical_prefixE : OpCanonical prefixE := by
  unfold prefixE
  exact .bind opCanonical_getSlot fun _ => .pure _

theorem opCanonical_curTable : OpCanonical curTable := by
  refine ⟨fun s can => ?_⟩
  grind [curTable, leaves]

theorem opCanonical_cvtFormats (dfd dfa : Nat) (okD okA : List Nat) : OpCanonical (cvtFormats dfd dfa okD okA) := by
  unfold cvtFormats
  exact .bind opCanonical_prefixE fun _ => .bind (.stopIf (opCanonical_trapAt ..)) fun _ => .bind (.stopIf (opCanonical_trapAt ..)) fun _
    => .bind opCanonical_curTable fun _ => .bind (.stopIf (opCanonical_trapAt ..)) fun _ => .pure _

theorem opCanonical_tblwOp (x y : ESrc) : OpCanonical (tblwOp x y) := by
  unfold tblwOp
  refine .bind (opCanonical_readE ..) fun i => .bind (opCanonical_readE ..) fun v => .bind (.stopIf (opCanonical_trapAt ..)) fun _ => ?_
  refine .bind (opCanonical_unlessLater _ _ fun s can => ?_) fun _ => opCanonical_noteResult v
  split
  · exact canonical_putTable (canonical_putTable can _ _ _) _ _ _
  · exact canonical_putTable can _ _ _

theorem opCanonical_writeLanes (d : VDst) (W : Nat) (m : Word) (f : Nat → Nat × Fl) : OpCanonical (writeLanes d W m f) := by
  unfold writeLanes
  exact .bind opCanonical_getSlot fun _ => .bind (opCanonical_writeV ..) fun _ => opCanonical_setFlags ..

theorem opCanonical_vaDotOp (d : Fin 8) (x y : VSrc) (p : Fin 8) : OpCanonical (vaDotOp d x y p) := by
  unfold vaDotOp
  exact .bind opCanonical_prefixE fun _ => .bind (.stopIf (opCanonical_trapAt ..)) fun _ => .bind (.stopIf (opCanonical_trapAt ..)) fun _
    => .bind (.stopIf (opCanonical_trapAt ..)) fun _ => opCanonical_withV (fun _ _ => .bind (opCanonical_readP ..) fun _ => .bind
    opCanonical_getSlot fun _ => opCanonical_writeLanes ..) ..

theorem opCanonical_vfDotFormats (f : FpFmt) : OpCanonical (vfDotFormats f) := by
  unfold vfDotFormats
  refine .bind opCanonical_prefixE fun _ => ?_
  split
  · exact .pure _
  · exact .bind (.stopIf (opCanonical_trapAt ..)) fun _ => .bind (.stopIf (opCanonical_trapAt ..)) fun _ => .bind (.stopIf
      (opCanonical_trapAt ..)) fun _ => .bind (.stopIf (opCanonical_trapAt ..)) fun _ => .bind opCanonical_curTable fun _ => .bind
      (.stopIf (opCanonical_trapAt ..)) fun _ => .pure _

theorem opCanonical_vfDotOp (d : Fin 8) (x y : VSrc) (p : Fin 8) (f : FpFmt) : OpCanonical (vfDotOp d x y p f) := by
  unfold vfDotOp
  refine .bind (opCanonical_vfDotFormats ..) fun _ => ?_
  split
  · exact opCanonical_withV (fun _ _ => .bind (opCanonical_readP ..) fun _ => .bind opCanonical_roundMode fun _ => .bind
      opCanonical_curTable fun _ => .bind opCanonical_getSlot fun _ => opCanonical_writeLanes ..) ..

theorem opCanonical_amaxOp (d : VDst) (x : VSrc) (p : Fin 8) : OpCanonical (amaxOp d x p) := by
  unfold amaxOp
  exact .bind opCanonical_prefixE fun _ => .bind (.stopIf (opCanonical_trapAt ..)) fun _ => .bind (.stopIf (opCanonical_trapAt ..)) fun _
    => .bind opCanonical_curTable fun _ => .bind (.stopIf (opCanonical_trapAt ..)) fun _ => opCanonical_withV1 (fun _ => .bind
    (opCanonical_readP ..) fun _ => .bind opCanonical_roundMode fun _ => .bind opCanonical_curTable fun _ => .bind opCanonical_getSlot fun
    _ => .bind (opCanonical_writeV ..) fun _ => opCanonical_setFlags ..) ..

theorem opCanonical_scaleOp (d : VDst) (x : VSrc) : OpCanonical (scaleOp d x) := by
  unfold scaleOp
  exact .bind opCanonical_prefixE fun _ => .bind (.stopIf (opCanonical_trapAt ..)) fun _ => .bind opCanonical_curTable fun _ => .bind
    (.stopIf (opCanonical_trapAt ..)) fun _ => opCanonical_withV1 (fun _ => .bind (opCanonical_writeV ..) fun _ => opCanonical_setFlags
    ..) ..

theorem opCanonical_barqOp (d : Fin 8) (x : VSrc) : OpCanonical (barqOp d x) := by
  unfold barqOp
  exact .bind opCanonical_prefixE fun _ => .bind (.stopIf (opCanonical_trapAt ..)) fun _ => .bind (.stopIf (opCanonical_trapAt ..)) fun _
    => .bind opCanonical_curTable fun _ => .bind (.stopIf (opCanonical_trapAt ..)) fun _ => opCanonical_withV1 (fun _ => .bind
    opCanonical_roundMode fun _ => .bind opCanonical_getSlot fun _ => .bind (opCanonical_writeV ..) fun _ => opCanonical_setFlags ..) ..

theorem opCanonical_cvtFormatsV (dfd dfa : Nat) (okD okA : List Nat) (sizes : Nat → Nat → Bool) : OpCanonical (cvtFormatsV dfd dfa okD okA
    sizes) := by
  unfold cvtFormatsV
  exact .bind opCanonical_prefixE fun _ => .bind (.stopIf (opCanonical_trapAt ..)) fun _ => .bind (.stopIf (opCanonical_trapAt ..)) fun _
    => .bind (.stopIf (opCanonical_trapAt ..)) fun _ => .bind (.stopIf (opCanonical_trapAt ..)) fun _ => .bind opCanonical_curTable fun _
    => .bind (.stopIf (opCanonical_trapAt ..)) fun _ => .pure _

theorem opCanonical_packOp (d : Fin 8) (x : VSrc) (y : ESrc) : OpCanonical (packOp d x y) := by
  unfold packOp
  refine .bind (opCanonical_cvtFormatsV ..) fun _ => ?_
  split
  · exact opCanonical_withV1 (fun _ => .bind (opCanonical_readE ..) fun _ => .bind opCanonical_curTable fun _ => .bind opCanonical_getSlot
      fun _ => .bind opCanonical_roundMode fun _ => .bind (opCanonical_writeV ..) fun _ => opCanonical_setFlags ..) ..

theorem opCanonical_unpkOp (d : VDst) (x : VSrc) (y : ESrc) : OpCanonical (unpkOp d x y) := by
  unfold unpkOp
  refine .bind (opCanonical_cvtFormatsV ..) fun _ => ?_
  split
  · exact opCanonical_withV1 (fun _ => .bind (opCanonical_readE ..) fun _ => .bind opCanonical_curTable fun _ => .bind
      opCanonical_roundMode fun _ => .bind opCanonical_getSlot fun _ => .bind (opCanonical_writeV ..) fun _ => opCanonical_setFlags ..) ..

end

end Sys2Proof.Machine
end

section
/-! SUPPORT. Memories in canonical form, continued: the engines, the copy engine, and errors, pages and zeroing (log 3; spec/08 to
spec/10, spec/14). -/

namespace Sys2Proof.Machine

section
variable {s t : State}

theorem opCanonical_checkNow (c : Check) : OpCanonical (checkNow c) := by
  refine ⟨fun s can => ?_⟩
  cases c with
  | ok p => exact can
  | error f => exact can

theorem opCanonical_acceptHere (e : Engine) (j : Job) (d : ADst) (data : ASrc) : OpCanonical (acceptHere e j d data) := by
  unfold acceptHere
  extract_lets marks accepts
  have marked : ∀ u, OpCanonical (marks u) := by
    intro u
    unfold marks
    split
    · exact opCanonical_modSlot ..
    · exact .pure _
  have keeps : ∀ u, OpCanonical (accepts u) := by
    intro u
    refine .bindGet fun s _ => .bind (.stopIf (opCanonical_trapAt ..)) fun _ => ?_
    refine .bind (.modState fun _ can' => canonical_putCluster can' ..) fun _ => ?_
    split
    · exact .bind (opCanonical_writeA ..) marked
    · exact marked ()
  split
  · exact .bind (opCanonical_storedBytes ..) fun _ => keeps ()
  · exact keeps ()

theorem opCanonical_needDst (d : ADst) : OpCanonical (needDst d) := by
  unfold needDst
  refine .bind opCanonical_getSlot fun _ => ?_
  split
  · split
    · exact opCanonical_waitFor ..
    · exact .pure _
  · exact .bind (.stopIf (opCanonical_waitFor ..)) fun _ => opCanonical_notPending ..
  · exact opCanonical_notPending ..

theorem opCanonical_submitJob (e : Engine) (j : Job) (d : ADst) (data : ASrc) : OpCanonical (submitJob e j d data) := by
  unfold submitJob
  refine .bind (opCanonical_needDst ..) fun _ => ?_
  refine .bindGet fun s can => ?_
  refine .bind (.stopIf (opCanonical_waitFor ..)) fun _ => ?_
  split
  · exact opCanonical_acceptHere ..
  · exact .bind (.stopIf (opCanonical_trapAt ..)) fun _ => .waitWith (canonical_putCluster can ..) _

theorem opCanonical_kickOrder (d : OpDesc) : OpCanonical (kickOrder d) := by
  unfold kickOrder
  exact .bind (opCanonical_inOrder ..) fun _ => .modState fun _ can' => (canonical_releasePush can' ..)

theorem opCanonical_submit (e : Engine) (j : Job) (d : ADst) : OpCanonical (submit e j d) := by
  unfold submit
  exact .bind opCanonical_agreeFirst fun _ => .bindGet fun _ _ => .bind (opCanonical_kickOrder ..) fun _ => opCanonical_submitJob ..

theorem canonical_acceptRequest (can : Canonical s) (c : Nat) (e : Engine) : Canonical (acceptRequest c e s) := by
  unfold acceptRequest
  extract_lets C
  split
  · exact can
  split
  · split
    · exact canonical_asSlot can _ _ _ fun u can => canonical_stepA can _ _ _ (.bind (.modState fun _ can' => canonical_putCluster can' ..)
        fun _ =>
        .bind (opCanonical_acceptHere ..) fun _ => .pure _)
    · exact can
  · exact can

theorem opCanonical_needEngine : OpCanonical needEngine := by
  unfold needEngine
  exact .bindGet fun _ _ => .stopIf (opCanonical_trapAt ..)

theorem opCanonical_pollOp (e : Engine) (d : ADst) (x : ARegZ) : OpCanonical (pollOp e d x) := by
  unfold pollOp
  exact .bind opCanonical_needEngine fun _ => .bind (opCanonical_readAReg ..) fun _ => .bindGet fun _ _ => .bind (opCanonical_inOrder ..)
    fun _ => .bindGet fun _ _ => opCanonical_writeA ..

theorem opCanonical_sleepOp (e : Engine) (x : ARegZ) : OpCanonical (sleepOp e x) := by
  unfold sleepOp
  refine .bind opCanonical_needEngine fun _ => ?_
  refine .bind (opCanonical_readAReg ..) fun _ => ?_
  refine .bindGet fun s can => ?_
  refine .bind (opCanonical_inOrder ..) fun _ => ?_
  refine .bindGet fun s can => ?_
  split
  · exact .bind (opCanonical_needSb ..) fun _ => .bind (.modState fun _ can' => can') fun _ => opCanonical_addSb ..
  · exact .pure _

theorem opCanonical_prefixA : OpCanonical prefixA := by
  unfold prefixA
  exact .bind opCanonical_getSlot fun _ => .pure _

theorem opCanonical_rcmdOp (lo : Nat) (first : BitVec 5) (x : ARegZ) : OpCanonical (rcmdOp lo first x) := by
  unfold rcmdOp
  refine .bind (opCanonical_readAReg ..) fun _ => ?_
  refine .bind (.stopIf (opCanonical_trapAt ..)) fun _ => ?_
  refine .bind (opCanonical_portDest ..) fun _ => ?_
  refine .bind (opCanonical_readBlock ..) fun _ => ?_
  refine .bind opCanonical_prefixA fun _ => ?_
  split
  · exact opCanonical_sendMessage ..
  · exact .bindGet fun _ _ => .bind (opCanonical_checkNow ..) fun _ => opCanonical_sendMessage ..

theorem opCanonical_cpRcmdOp (first : BitVec 5) (x : ARegZ) : OpCanonical (cpRcmdOp first x) := by
  unfold cpRcmdOp
  exact .bind opCanonical_prefixA fun _ => .bind (.stopIf (opCanonical_trapAt ..)) fun _ => opCanonical_rcmdOp ..

theorem canonical_commandArrive (can : Canonical s) (can' : Canonical t) (it : NetItem) (e : Engine) (c : Nat) (header : Word) (payload :
    List Word) : Canonical (commandArrive s t it e c header payload) := by
  unfold commandArrive
  have later : Canonical { t with fresh := t.fresh + 1 } := can'
  grind [canonical_accept, canonical_refusalFree, canonical_refusal, canonical_nack, canonical_meets, canonical_putCluster]

theorem opCanonical_kickStoreOp (e : Engine) (d : ASrc) (desc : OpDesc) : OpCanonical (kickStoreOp e d desc) := by
  unfold kickStoreOp
  refine .bindGet fun s can => ?_
  refine .bind (opCanonical_storedBytes ..) fun _ => ?_
  refine .bind (opCanonical_checkNow ..) fun _ => ?_
  split
  · exact .bind (opCanonical_issue ..) fun _ => .pure _
  · refine .bind (.modState fun _ _ => can) fun _ => ?_
    refine .bind (opCanonical_kickOrder ..) fun _ => ?_
    split
    · exact .bind (.modState fun _ can' => can') fun _ => opCanonical_submitJob ..
    · exact opCanonical_trapAt ..

theorem canonical_kickArrive (can : Canonical s) (can' : Canonical t) (it : NetItem) (e : Engine) (v : Word) : Canonical (kickArrive s t
    it e v) := by
  unfold kickArrive
  grind [canonical_refuse, canonical_meets, canonical_dropOut, canonical_putCluster, canonical_iff]

theorem canonical_wakeSleepers (can : Canonical s) (c : Nat) (e : Engine) (id : Nat) : Canonical (wakeSleepers s c e id) := by
  unfold wakeSleepers
  extract_lets info t wake
  refine canonical_harts_map (canonical_foldl (fun _ p can => canonical_deliverLate can p.1 p.2) can _) fun p ok => ?_
  split
  · exact ok
  · exact ok

theorem canonical_notifyRemote (can : Canonical s) (sender launch chan id : Nat) (code : BitVec 16) : Canonical (notifyRemote s sender
    launch chan id code) := by
  unfold notifyRemote
  grind [canonical_putCtx, canonical_keepCopy, canonical_iff, memOk_hartOf, Hart.memOk_iff, Hart.memOk_putCtx, wf_ctxOf]

theorem canonical_reportJob (can : Canonical s) (c : Nat) (e : Engine) (id : Nat) (named : Bool) (j : Job) (f : Option FaultInfo) :
    Canonical (reportJob s c e id named j f) := by
  unfold reportJob
  grind [canonical_wakeSleepers, canonical_lateFault, canonical_notifyRemote]

theorem canonical_completeJob (can : Canonical s) (c : Nat) (e : Engine) (k : Nat) : Canonical (completeJob c e k s) := by
  unfold completeJob
  grind [canonical_reportJob, canonical_putCluster]

theorem canonical_recallRange (can : Canonical s) (L home off n : Nat) : Canonical (recallRange s L home off n) := canonical_foldl (fun _
    i can => canonical_recallU can L home (64 * i)) can _

theorem canonical_engineWrite (can : Canonical s) (L home off : Nat) (bs : List Byte) : Canonical (engineWrite s L home off bs) := by
  unfold engineWrite
  refine canonical_foldl (fun _ i can => canonical_invalidateHome can L home (64 * i)) ?_ _
  exact canonical_modHome (canonical_recallRange can ..) _ _ _ fun _ wf => Ctx.wf_write wf _ _

theorem opCanonical_copySubmit (op : Nat) (d : ADst) (first : BitVec 5) (q : Fin 4) : OpCanonical (copySubmit op d first q) := by
  unfold copySubmit
  exact .bind opCanonical_needEngine fun _ => .bind (opCanonical_readBlock ..) fun _ => .bindGet fun _ _ => .bind (opCanonical_checkNow
    ..) fun _ => opCanonical_submit ..

theorem opCanonical_barSubmit (d : ADst) (q : Fin 4) : OpCanonical (barSubmit d q) := by
  unfold barSubmit
  exact .bind opCanonical_needEngine fun _ => .bindGet fun _ _ => opCanonical_submit ..

theorem canonical_granWrite (can : Canonical s) (L : Nat) (j : Job) (p : Word) (bs : List Byte) : Canonical (granWrite s L j p bs) := by
  unfold granWrite
  grind [canonical_extentWrite, canonical_engineWrite]

theorem canonical_granRecall (can : Canonical s) (L : Nat) (j : Job) (p : Word) : Canonical (granRecall s L j p) := by
  unfold granRecall
  grind [canonical_extentTouch, canonical_recallU]

theorem canonical_setCommand (can : Canonical s) (c : Nat) (j : Job) : Canonical (setCommand s c j) := by
  unfold setCommand
  grind [canonical_putCluster]

theorem canonical_failCommand (can : Canonical s) (c : Nat) (j : Job) (f : FaultInfo) : Canonical (failCommand s c j f) := by
  unfold failCommand
  grind [canonical_setCommand, canonical_iff]

theorem canonical_copyGranule (can' : Canonical t) (L : Nat) (j : Job) (i : Nat) : Canonical (copyGranule s L j t i)
    := by
  unfold copyGranule
  grind [canonical_granRecall, canonical_granWrite, canonical_iff]

theorem canonical_recallSource (can : Canonical s) (L : Nat) (j : Job) : Canonical (recallSource s L j) := canonical_foldl (fun _ i can =>
    canonical_granRecall can L j (granAt (j.word 0) i)) can _

theorem canonical_retryCommand (can : Canonical s) (c : Nat) (j : Job) (p : Word) : Canonical (retryCommand s c j p) := by
  unfold retryCommand
  grind [canonical_setCommand, canonical_failCommand]

theorem canonical_runCommand (can : Canonical s) (c : Nat) (q : Fin 4) (ops : Nat → Bool) (f : State → Nat → Job → State) (keeps : ∀ L j,
    Canonical (f s L j)) : Canonical (runCommand c q ops f s) := by
  unfold runCommand
  grind [canonical_retryCommand, canonical_failCommand]

theorem canonical_runCopy (can : Canonical s) (c : Nat) (L : Nat) (j : Job) : Canonical (runCopy c s L j) := by
  unfold runCopy
  have recalled := canonical_recallSource can L j
  extract_lets u v
  have copied : Canonical v := canonical_foldl (fun _ i can' => canonical_copyGranule can' L j i)
    (s := { u with fresh := u.fresh + 1 }) recalled _
  exact canonical_setCommand copied c _

theorem canonical_runFill (can : Canonical s) (c : Nat) (L : Nat) (j : Job) : Canonical (runFill c s L j) := by
  unfold runFill
  exact canonical_setCommand (canonical_foldl (fun _ i can => canonical_granWrite can L j _ _) can _) c _

theorem canonical_reduceGranule (can : Canonical s) (L : Nat) (j : Job) (i : Nat) : Canonical (reduceGranule L j s i) := by
  unfold reduceGranule
  grind [canonical_granRecall, canonical_granWrite]

theorem canonical_sendSequenced (can : Canonical s) (c : Nat) (L : Nat) (j : Job) : Canonical (sendSequenced c s L j) := by
  unfold sendSequenced
  exact canonical_setCommand (canonical_foldl (fun _ h can => canonical_post can _ _) (canonical_recallSource can L j) _) c _

theorem canonical_runReduce (can : Canonical s) (c : Nat) (L : Nat) (j : Job) : Canonical (runReduce c s L j) := by
  unfold runReduce
  split
  · exact canonical_sendSequenced can c L j
  · exact canonical_setCommand (canonical_foldl (fun _ i can => canonical_reduceGranule can L j i) can _) c _

theorem canonical_settleSequenced (can : Canonical s) (c job : Nat) : Canonical (settleSequenced s c job) := by
  unfold settleSequenced
  grind [canonical_setCommand]

theorem canonical_applyPiece (can : Canonical s) (L op : Nat) (g : Word × List Byte) : Canonical (applyPiece L op s g) := by
  unfold applyPiece
  grind [canonical_extentWrite]

theorem canonical_noteRefusal (can : Canonical s) (c job : Nat) (f : FaultInfo) : Canonical (noteRefusal s c job f) := by
  unfold noteRefusal
  grind [canonical_setCommand, canonical_iff]

theorem canonical_takePart (can : Canonical s) (L c job op : Nat) (ps : List (Word × List Byte)) : Canonical (takePart s L c job op ps) :=
    by
  unfold takePart
  split
  · exact canonical_noteRefusal can ..
  · exact canonical_foldl (fun _ g can => canonical_applyPiece can L op g) can _

theorem canonical_applySequenced (can : Canonical s) (h L k fuel : Nat) (it : NetItem) :
    Canonical (applySequenced h L k fuel it s) := by
  induction fuel generalizing it s with
  | zero => exact can
  | succ fuel ih =>
    unfold applySequenced
    split
    next c job op seq _ ps opIs =>
      extract_lets t x next y u
      have taken := canonical_takePart can L c job op ps
      have settled : Canonical u := by
        refine canonical_settleSequenced (canonical_putCtx taken ?_ h) ..
        exact wf_ctxOf taken h L
      grind [canonical_iff]
    next => exact can

theorem canonical_sequencedArrive (can : Canonical s) (can' : Canonical t) (it : NetItem) : Canonical (sequencedArrive s t it) := by
  unfold sequencedArrive
  split
  next c job _ seq h ps opIs =>
    extract_lets L k x d
    have held (items : List NetItem) : Canonical (putCtx t h { x with seqHeld := items }) := by
      refine canonical_putCtx can' ?_ h
      exact wf_ctxOf can' h L
    grind [canonical_applySequenced, canonical_settleSequenced]
  next => exact can

theorem canonical_refetched (can : Canonical s) : Canonical (refetched s) := by
  unfold refetched
  grind [canonical_logRefusal]

theorem canonical_fenceCore (can : Canonical s) (h : Nat) : Canonical (fenceCore s h) := by
  unfold fenceCore
  grind [canonical_fencePlat]

theorem canonical_poisonLine (can : Canonical s) (line : Nat) (tag : BitVec 16) : Canonical (poisonLine s line tag) := by
  unfold poisonLine
  grind [canonical_logFault, canonical_iff]

theorem canonical_errorLlc (can : Canonical s) (line : Nat) : Canonical (errorLlc s line) := by
  unfold errorLlc
  grind [canonical_refetched, canonical_fencePlat, canonical_poisonLine, canonical_iff]

theorem canonical_errorAt (can : Canonical s) (place : ErrPlace) : Canonical (errorAt place s) := by
  unfold errorAt
  grind [canonical_fenceCore, canonical_refetched, canonical_putHart, canonical_evictL2, canonical_errorLlc, canonical_iff, memOk_hartOf,
    Hart.memOk_iff, Hart.memOk_putLine]

theorem canonical_copyBlock (can : Canonical s) (p spare : Nat) (i : Nat) : Canonical (copyBlock p spare s i) := by
  unfold copyBlock
  grind [canonical_iff, Memory.wf_writeBytes]

theorem canonical_putMigration (can : Canonical s) (m : Migration) : Canonical (putMigration s m) := by
  unfold putMigration
  grind [canonical_iff]

theorem canonical_switchPage (can : Canonical s) (m : Migration) : Canonical (switchPage s m) := by
  unfold switchPage
  grind [canonical_iff]

theorem canonical_migrate (can : Canonical s) (m : Migration) : Canonical (migrate s m) := by
  unfold migrate
  have copied := canonical_foldl (fun _ i can => canonical_copyBlock can m.source m.target i) can (dirtyBlocks m)
  grind [canonical_putMigration, canonical_switchPage, canonical_copyBlock]

theorem canonical_retirePage (can : Canonical s) (page spare : Nat) : Canonical (retirePage page spare s) := by
  unfold retirePage
  grind [canonical_migrate, canonical_iff]

theorem canonical_finishMigration (can : Canonical s) (m : Migration) : Canonical (finishMigration s m) := canonical_switchPage
    (canonical_foldl (fun _ i can => canonical_copyBlock can m.source m.target i) can _) m

theorem canonical_zeroPages (can : Canonical s) (lo n : Nat) : Canonical (zeroPages lo n s) := by
  unfold zeroPages
  exact canonical_withHbm can (Memory.wf_filter _ _ can.wf_hbm)

theorem canonical_zeroExtent (can : Canonical s) (base len : Nat) : Canonical (zeroExtent base len s) := by
  unfold zeroExtent
  split
  · exact canonical_zeroPages (canonical_foldl (fun _ m can => canonical_finishMigration can m) can _) ..
  · exact can

end

end Sys2Proof.Machine
end

section
/-! SUPPORT. Memories in canonical form, continued: link ports, flits and collectives, and the matrix engine (log 3; spec/07,
spec/11, spec/16, spec/17). -/

namespace Sys2Proof.Machine

section
variable {s t : State}

theorem canonical_putPort (can : Canonical s) (k : Nat) (p : Port) : Canonical (putPort s k p) := by
  unfold putPort
  grind [canonical_iff]

theorem canonical_modPortCores (can : Canonical s) (k : Nat) (f : Hart → Hart) (keeps : ∀ H, H.memOk = true → (f H).memOk = true) :
    Canonical (modPortCores s k f) := canonical_foldl (fun _ h can => canonical_putHart can (keeps _ (memOk_hartOf can h)) h) can _

theorem canonical_deliverCells (can : Canonical s) (k : Nat) (f : Flit) : Canonical (deliverCells s k f) := by
  unfold deliverCells
  extract_lets h
  split
  · exact can
  · exact canonical_foldl (fun _ _ can => canonical_post can _ _) can _

theorem canonical_startCollective (can : Canonical s) (c : Collective) : Canonical (startCollective s c) := by
  unfold startCollective
  extract_lets t x u f chan header desc
  have written : Canonical t := canonical_foldl (fun _ p can => canonical_homeWrite can ..) can _
  have noted : Canonical u := by
    refine canonical_putCtx written ?_ c.hart
    exact wf_ctxOf written c.hart c.launch
  exact canonical_post (s := { u with fresh := f + 3 }) noted _ _

theorem canonical_contribute (can : Canonical s) (k : Nat) (f : Flit) : Canonical (contribute s k f) := by
  unfold contribute
  grind [canonical_putPort, canonical_startCollective, canonical_iff, wf_ctxOf]

theorem canonical_resumeBlocks (can : Canonical s) (k n : Nat) : Canonical (resumeBlocks k n s) := by
  induction n generalizing s with
  | zero => exact can
  | succ n ih =>
    unfold resumeBlocks
    grind [canonical_contribute, canonical_putPort]

theorem canonical_afterBlock (can : Canonical s) (k : Nat) : Canonical (afterBlock k s) := by
  unfold afterBlock
  grind [canonical_resumeBlocks]

theorem canonical_deliverFlit (can : Canonical s) (k : Nat) (f : Flit) : Canonical (deliverFlit k s f) := by
  unfold deliverFlit
  grind [canonical_putPort, canonical_deliverCells, canonical_afterBlock, canonical_contribute]

theorem canonical_drainFallback (can : Canonical s) (k n : Nat) : Canonical (drainFallback k n s) := by
  induction n generalizing s with
  | zero => exact can
  | succ n ih =>
    unfold drainFallback
    grind [canonical_deliverFlit, canonical_putPort]

theorem canonical_fallBack (can : Canonical s) (k : Nat) : Canonical (fallBack s k) := by
  unfold fallBack
  extract_lets t p u
  have unaligned : Canonical t := canonical_modPortCores can k _ fun _ ok => ok
  have delivered : Canonical u := canonical_foldl (fun _ f can => canonical_deliverFlit can k f) (canonical_putPort unaligned ..) _
  exact canonical_foldl (fun _ L can => canonical_modLaunch can L _) delivered _

theorem canonical_holdFlit (can : Canonical s) (k : Nat) (f : Flit) : Canonical (holdFlit s k f) := by
  unfold holdFlit
  grind [canonical_putPort]

theorem canonical_acceptFlit (can : Canonical s) (k : Nat) (f : Flit) : Canonical (acceptFlit s k f) := by
  unfold acceptFlit
  grind [canonical_holdFlit, canonical_fallBack, canonical_drainFallback]

theorem canonical_putOnLink (can : Canonical s) (k : Nat) (f : Flit) : Canonical (putOnLink s k f) := by
  unfold putOnLink
  grind [canonical_putPort]

theorem canonical_transmit (can : Canonical s) (k flow ftype cells blen dmod : Nat) (body : List Word) : Canonical (transmit k flow ftype
    cells blen dmod body s) := by
  unfold transmit
  grind [canonical_putOnLink, canonical_putPort]

theorem canonical_requestFlit (can : Canonical s) (k : Nat) (f : Flit) : Canonical (requestFlit s k f) := by
  unfold requestFlit
  grind [canonical_putPort]

theorem canonical_resendFlit (can : Canonical s) (k : Nat) (f : Flit) : Canonical (resendFlit s k f) := by
  unfold resendFlit
  grind [canonical_putPort]

theorem canonical_receiveFlit (can : Canonical s) (k : Nat) (f : Flit) : Canonical (receiveFlit k f s) := by
  unfold receiveFlit
  extract_lets p t
  have taken : Canonical t := canonical_putPort can ..
  split
  · exact can
  split
  · exact canonical_requestFlit (canonical_putPort (s := { s with gzChanged := true }) can ..) ..
  split
  · exact canonical_acceptFlit taken k f
  split
  · exact canonical_resendFlit taken k f
  · exact taken

theorem canonical_releaseTick (can : Canonical s) (k : Nat) : Canonical (releaseTick k s) := by
  unfold releaseTick
  extract_lets p now due
  split
  · exact canonical_foldl (fun _ f can => canonical_deliverFlit can k f) (canonical_putPort can ..) _
  · exact can

theorem canonical_tickPort (can : Canonical s) (k : Nat) : Canonical (tickPort k s) := by
  unfold tickPort
  by_cases due : k < 32 ∧ (portAt s k).tickAt + tickLength ≤ s.cycle
  · rw [if_pos due]
    extract_lets t
    have ticked : Canonical t := canonical_modPortCores (canonical_releaseTick can k) k _ fun _ ok => ok
    exact canonical_putPort ticked ..
  · rw [if_neg due]
    exact can

theorem canonical_settlePorts (can : Canonical s) : Canonical (settlePorts s) := by
  unfold settlePorts
  refine canonical_foldl (fun t x can => canonical_afterBlock ?_ x.1) can _
  split
  · exact canonical_releaseTick can x.1
  · exact can

theorem canonical_restoreAlignment (can : Canonical s) (k : Nat) : Canonical (restoreAlignment k s) := by
  unfold restoreAlignment
  split
  · exact canonical_modPortCores can k _ fun _ ok => ok
  · exact can

theorem canonical_noteIncomplete (can : Canonical s) (L : Nat) : Canonical (noteIncomplete s L) := by
  unfold noteIncomplete
  grind [canonical_modCounter]

theorem canonical_failCollective (can : Canonical s) (c : Collective) : Canonical (failCollective s c) := by
  unfold failCollective
  grind [canonical_noteIncomplete, canonical_iff]

theorem canonical_failStalled (can : Canonical s) (k : Nat) (f : Flit) : Canonical (failStalled k s f) := by
  unfold failStalled
  grind [canonical_noteIncomplete]

theorem canonical_timeoutSend (can : Canonical s) (it : NetItem) : Canonical (timeoutSend s it) := by
  unfold timeoutSend
  grind [canonical_refusalFree]

theorem canonical_refusePending (can : Canonical s) (k : Nat) : Canonical (refusePending s k) := by
  unfold refusePending
  exact canonical_foldl (fun _ i can => canonical_timeoutSend can i)
    (s := { s with net := s.net.filter fun i => !throughPort k i && !nackOf (pendingSends s k) i }) can _

theorem canonical_takeDown (can : Canonical s) (k : Nat) : Canonical (takeDown k s) := by
  unfold takeDown
  extract_lets p t
  split
  · have down : Canonical t := canonical_refusePending (canonical_putPort (s := { s with gzChanged := true }) can ..) k
    exact canonical_foldl (fun _ f can => canonical_failStalled can k f) (canonical_foldl (fun _ c can => canonical_failCollective can c)
        down _) _
  · exact can

theorem opCanonical_stepSubmit (sparse : Bool) (d : ADst) (first : BitVec 5) (x : ARegZ) (acc : Fin 8) : OpCanonical (stepSubmit sparse d
    first x acc) := by
  unfold stepSubmit
  exact .bind opCanonical_needEngine fun _ => .bindGet fun _ _ => .bind opCanonical_prefixA fun _ => .bind (opCanonical_readBlock ..) fun
    _ => .bind (opCanonical_readAReg ..) fun _ => .bind (opCanonical_checkNow ..) fun _ => .bind (opCanonical_checkNow ..) fun _ => .bind
    (opCanonical_checkNow ..) fun _ => .bind opCanonical_getSlot fun _ => .bind (.stopIf (opCanonical_waitFor ..)) fun _ =>
    opCanonical_submit ..

theorem opCanonical_drainSubmit (d : ADst) (first : BitVec 5) (x : ARegZ) (acc : Fin 8) : OpCanonical (drainSubmit d first x acc) := by
  unfold drainSubmit
  exact .bind opCanonical_needEngine fun _ => .bindGet fun _ _ => .bind opCanonical_prefixA fun _ => .bind (opCanonical_readNum ..) fun _
    => .bind (opCanonical_readAReg ..) fun _ => .bind (opCanonical_checkNow ..) fun _ => .bind (opCanonical_checkNow ..) fun _ =>
    opCanonical_submit ..

theorem opCanonical_reclaimSubmit (acc : Fin 8) : OpCanonical (reclaimSubmit acc) := by
  unfold reclaimSubmit
  exact .bind opCanonical_needEngine fun _ => .bindGet fun _ _ => opCanonical_submit ..

theorem canonical_endWalk (can : Canonical s) (j : Job) (r : Option Word) : Canonical (endWalk s j r) := by
  unfold endWalk
  grind [canonical_putSlot]

theorem canonical_gatherStep (can : Canonical s) {j : Job} {present : List Nat} {d : StepData}
    (gathered : gatherStep s j present = .ok (d, t)) : Canonical t := by
  unfold gatherStep at gathered
  extract_lets L w3 ha hb K ra rb st s' rows u v w at gathered
  have first : Canonical s' := by
    unfold s'
    split
    · exact canonical_recallRange can ..
    · exact can
  split at gathered
  · nomatch gathered
  · obtain ⟨-, rfl⟩ := Prod.mk.inj (Except.ok.inj gathered)
    have rowsRecalled : Canonical u := canonical_foldl (fun _ o can => canonical_recallRange can L ha o ra) first _
    exact canonical_recallRange (canonical_recallRange (canonical_recallRange rowsRecalled ..) ..) ..

theorem canonical_setJob (can : Canonical s) (c k : Nat) (j : Job) : Canonical (setJob s c k j) := by
  unfold setJob
  grind [canonical_putCluster]

theorem canonical_commitStep (can : Canonical s) (c k : Nat) (j : Job) (sums : List Int) : Canonical (commitStep s c k j sums) := by
  unfold commitStep
  grind [canonical_setJob, canonical_putCluster]

theorem canonical_recallRuns (can : Canonical s) (L own n : Nat) (r : Word) : Canonical (recallRuns s L own n r) := canonical_foldl (fun _
    _ can => canonical_recallU can L own _) can _

theorem canonical_runStep (can : Canonical s) (c k : Nat) (j : Job) : Canonical (runStep s c k j) := by
  unfold runStep
  extract_lets s A mode fail
  have recalled : Canonical s := by
    unfold s
    split
    · exact can
    · exact canonical_recallRuns can ..
  have failed : ∀ code d, Canonical (fail code d) := fun code d =>
    canonical_setJob (canonical_endWalk (s := { s with fresh := s.fresh + 1 }) recalled ..) ..
  split
  · exact can
  split
  · exact failed ..
  split
  · exact failed ..
  split
  · exact failed ..
  split
  · exact failed ..
  next gathered =>
    have walked := canonical_endWalk (canonical_gatherStep recalled gathered) j
    dsimp only
    split
    · exact canonical_commitStep (walked _) ..
    · exact canonical_setJob (canonical_putCluster (walked _) ..) ..

theorem canonical_stepJob (can : Canonical s) (c : Nat) : Canonical (stepJob c s) := by
  unfold stepJob
  grind [canonical_runStep]

theorem canonical_resumeStall (can : Canonical s) (c : Nat) : Canonical (resumeStall c s) := by
  unfold resumeStall
  grind [canonical_commitStep]

theorem canonical_drainOver (can : Canonical s) (c : Nat) (j : Job) : Canonical (drainOver s c j) := by
  unfold drainOver
  grind [canonical_putCluster]

theorem canonical_freeAcc (can : Canonical s) (c : Nat) (a : Fin 8) : Canonical (freeAcc s c a) := by
  unfold freeAcc
  grind [canonical_putCluster]

theorem canonical_startDrain (can : Canonical s) (c k : Nat) (j : Job) : Canonical (startDrain s c k j) := by
  unfold startDrain
  grind [canonical_setJob, canonical_engineWrite, canonical_putCluster]

theorem canonical_endDrain (can : Canonical s) (c k : Nat) (j : Job) : Canonical (endDrain s c k j) := by
  unfold endDrain
  grind [canonical_setJob, canonical_drainOver, canonical_freeAcc, canonical_engineWrite]

theorem canonical_drainJob (can : Canonical s) (c : Nat) : Canonical (drainJob c s) := by
  unfold drainJob
  grind [canonical_endDrain, canonical_startDrain]

theorem canonical_reclaimJob (can : Canonical s) (c : Nat) : Canonical (reclaimJob c s) := by
  unfold reclaimJob
  grind [canonical_setJob, canonical_freeAcc]

end

end Sys2Proof.Machine
end

section
/-! SUPPORT. Memories in canonical form, continued: admission, packets and placement (log 3; spec/11 to spec/13, spec/18). -/

namespace Sys2Proof.Machine

section
variable {s t : State}

/-- A grant that is entered in the cache leaves the memories as they are (R183). -/
theorem canonical_checkGrant (can : Canonical s) {dig : BitVec 256} {g : CachedGrant} (checked : checkGrant s dig = .ok (g, t)) :
    Canonical t := by
  unfold checkGrant at checked
  split at checked
  · split at checked
    · nomatch checked
    · obtain ⟨-, rfl⟩ := Prod.mk.inj (Except.ok.inj checked)
      exact can
  split at checked
  · nomatch checked
  split at checked
  · nomatch checked
  dsimp only at checked
  split at checked
  · nomatch checked
  split at checked
  · nomatch checked
  · obtain ⟨-, rfl⟩ := Prod.mk.inj (Except.ok.inj checked)
    exact can

theorem canonical_admitImage (can : Canonical s) {bs : List Byte} {len : Nat} {o : Origin} {cap : Capsule}
    (admitted : admitImage s bs len o = .ok (cap, t)) : Canonical t := by
  unfold admitImage at admitted
  dsimp only at admitted
  split at admitted
  · nomatch admitted
  split at admitted
  · nomatch admitted
  next checked =>
    split at admitted
    · nomatch admitted
    split at admitted
    · nomatch admitted
    · obtain ⟨-, rfl⟩ := Prod.mk.inj (Except.ok.inj admitted)
      exact canonical_checkGrant can checked

theorem canonical_enterWait (can : Canonical s) (cap : Capsule) : Canonical (enterWait s cap) := by
  unfold enterWait
  grind [canonical_countLive, canonical_endUnplaced, canonical_iff]

theorem canonical_cancelLaunch (can : Canonical s) (L : Nat) : Canonical (cancelLaunch s L) := by
  unfold cancelLaunch
  grind [canonical_putLaunch, canonical_putPlat]

theorem canonical_cancelUnplaced (can : Canonical s) (cap : Capsule) : Canonical (cancelUnplaced s cap) := by
  unfold cancelUnplaced
  grind [canonical_endUnplaced]

theorem canonical_cancelOnward (can : Canonical s) (k : Nat) (p : Nat × PlatEntry) : Canonical (cancelOnward k s p) := by
  unfold cancelOnward
  grind [canonical_cancelUnplaced, canonical_putPlat]

theorem canonical_cancelCounter (can : Canonical s) (k : Nat) : Canonical (cancelCounter s k) := by
  unfold cancelCounter
  split
  · exact can
  · extract_lets t gone v w
    have marked : Canonical t := canonical_modCounter can ..
    have unplaced : Canonical v :=
      canonical_foldl (fun _ c can => canonical_cancelUnplaced can c)
        (s := { t with waitList := t.waitList.filter fun c => !c.names k }) marked _
    have onward : Canonical w := canonical_foldl (fun _ x can => canonical_cancelOnward can k x) unplaced _
    exact canonical_foldl (fun _ x can => canonical_cancelLaunch can x.1) onward _

theorem canonical_putQueue (can : Canonical s) (q : Nat) (y : UserQueue) : Canonical (putQueue s q y) := by
  unfold putQueue
  grind [canonical_iff]

theorem canonical_notifyQueue (can : Canonical s) (q : Nat) (wi : BitVec 32) : Canonical (notifyQueue s q wi) := by
  unfold notifyQueue
  grind [canonical_putQueue, canonical_iff]

theorem canonical_present (can : Canonical s) (q : Nat) (y : UserQueue) : Canonical (present s q y) := by
  unfold present
  grind [canonical_hostPut, canonical_putQueue, canonical_iff]

theorem canonical_refusePacket (can : Canonical s) (w : Vector Word 8) (i : Nat) : Canonical (refusePacket s w i) := by
  unfold refusePacket
  grind [canonical_logRefusal, canonical_writeStatus, canonical_iff]

theorem canonical_takePacket (can : Canonical s) (kind q : Nat) (f : Vector Word 8 → State → State) (keeps : ∀ {s} w, Canonical s →
    Canonical (f w s)) : Canonical (takePacket kind q f s) := by
  unfold takePacket
  split
  next u _ =>
    extract_lets w
    split
    · exact can
    split
    · exact can
    split
    · exact canonical_refusePacket (canonical_present can q u) ..
    · exact keeps w (canonical_present can q u)
  next => exact can

theorem canonical_openPacket (can : Canonical s) (q n : Nat) : Canonical (openPacket s q n) := by
  unfold openPacket
  grind [canonical_putQueue, canonical_iff]

theorem canonical_presentLaunch (can : Canonical s) (q : Nat) (w : Vector Word 8) : Canonical (presentLaunch q w s) := by
  unfold presentLaunch
  grind [canonical_openPacket, canonical_report, canonical_admitImage, canonical_enterWait, canonical_iff]

theorem canonical_holdQueue (can : Canonical s) (q : Nat) (w : Vector Word 8) : Canonical (holdQueue q w s) := by
  unfold holdQueue
  grind [canonical_putQueue, canonical_iff]

theorem canonical_releaseWait (can : Canonical s) (q : Nat) : Canonical (releaseWait q s) := by
  unfold releaseWait
  grind [canonical_writeStatus, canonical_putQueue, canonical_iff]

theorem canonical_placeCores (can : Canonical s) (cap : Capsule) (L p : Nat) (P : PlatEntry) : Canonical (placeCores cap L p P s) := by
  unfold placeCores
  refine canonical_foldl (fun t h can => canonical_putHart can ?_ h) can _
  rw [Hart.memOk_iff]
  intro c m
  obtain rfl := List.mem_singleton.mp m
  exact wf_coreContext (memOk_hartOf can h) cap L p

theorem canonical_placeClusters (can : Canonical s) (P : PlatEntry) : Canonical (placeClusters P s) := by
  unfold placeClusters
  exact canonical_foldl (fun t c can => canonical_putCluster (s := { t with ownCtr := t.ownCtr + 1 }) can c _) can _

theorem canonical_placeContexts (can : Canonical s) (cap : Capsule) (L p : Nat) : Canonical (placeContexts cap L p s) := canonical_foldl
    (fun _ h can => canonical_putCtx can (Ctx.wf_reset L) h) can _

theorem canonical_placeOn (can : Canonical s) (cap : Capsule) (p : Nat) : Canonical (placeOn s cap p) := by
  unfold placeOn
  grind [canonical_placeContexts, canonical_placeClusters, canonical_placeCores, canonical_putPlat, canonical_putLaunch, canonical_iff]

theorem canonical_placeWaiting (can : Canonical s) (w p : Nat) : Canonical (placeWaiting w p s) := by
  unfold placeWaiting
  grind [canonical_placeOn, canonical_iff]

theorem canonical_loadContexts (can : Canonical s) (cap : Capsule) (es : List Extent) (masks : Word) (L : Nat) : Canonical (loadContexts
    cap es masks L s) := canonical_foldl (fun _ x can => canonical_putCtx can (wf_loadCtx (wf_ctxOf can x.1 L) ..) x.1) can _

theorem canonical_startMessage (can : Canonical s) (L chan : Nat) (h : Nat) : Canonical (startMessage L chan s h) := by
  unfold startMessage
  grind [canonical_iff]

theorem canonical_startEntries (can : Canonical s) (L : Nat) (l : Launch) (h : Nat) : Canonical (startEntries L l s h) := by
  unfold startEntries
  refine canonical_select (canonical_foldl (fun t c can => ?_) can _) h
  cases spilled : spill t h L (startHeader c) [] .ready with
  | none => exact can
  | some u => exact canonical_spill can spilled

theorem canonical_startLaunch (can : Canonical s) (L : Nat) : Canonical (startLaunch s L) := by
  unfold startLaunch
  split
  · exact can
  next l _ =>
    extract_lets P t u
    have running : Canonical t := canonical_putPlat (s := { s with gzChanged := true }) can ..
    have messages : Canonical u := by
      unfold u
      split
      · exact running
      · exact canonical_foldl (fun _ h can => canonical_startMessage can ..) running _
    exact canonical_foldl (fun _ h can => canonical_startEntries can L l h) messages _

theorem canonical_loadLaunch (can : Canonical s) (L : Nat) (l : Launch) (es : List Extent) (bs : List Byte) : Canonical (loadLaunch s L l
    es bs) := by
  unfold loadLaunch
  grind [canonical_loadContexts, canonical_putLaunch, canonical_extentWrite, canonical_startLaunch]

theorem canonical_loadExtents (can : Canonical s) (plat : Nat) : Canonical (loadExtents plat s) := by
  unfold loadExtents
  grind [canonical_endLogged, canonical_loadLaunch]

end

end Sys2Proof.Machine
end

section
/-! SUPPORT. Memories in canonical form, continued: system words, packets of the host, commands and pairs (log 3; spec/11, spec/12, spec/18
to spec/20). -/

namespace Sys2Proof.Machine

section
variable {s t : State}

theorem opCanonical_statusCheck (num : BitVec 12) (ro : Bool) : OpCanonical (statusCheck num ro) := by
  unfold statusCheck
  exact .bind (.stopIf (opCanonical_trapAt ..)) fun _ => .bindGet fun _ _ => .bind (.stopIf (opCanonical_trapAt ..)) fun _ => .stopIf
    (opCanonical_trapAt ..)

theorem opCanonical_waitEarlier (n : Nat) : OpCanonical (waitEarlier n) := by
  unfold waitEarlier
  exact .bind opCanonical_getSlot fun _ => .stopIf (opCanonical_waitFor ..)

theorem opCanonical_rdsrOp (d : ADst) (num : BitVec 12) : OpCanonical (rdsrOp d num) := by
  unfold rdsrOp
  exact .bind (opCanonical_statusCheck ..) fun _ => .bind (opCanonical_waitEarlier ..) fun _ => .bindGet fun _ _ => opCanonical_writeA ..

theorem opCanonical_wrsrOp (x : ASrc) (num : BitVec 12) : OpCanonical (wrsrOp x num) := by
  unfold wrsrOp
  exact .bind (opCanonical_readA ..) fun _ => .bind opCanonical_getSlot fun _ => .bind (opCanonical_statusCheck ..) fun _ => .bind
    (opCanonical_waitEarlier ..) fun _ => .bind (opCanonical_modSlot ..) fun _ => opCanonical_noteResult ..

theorem canonical_mapSb (can : Canonical s) (src : Issuer) (f : SbEntry → SbEntry) : Canonical (mapSb s src f) := by
  unfold mapSb
  grind [canonical_putSlot]

theorem canonical_redoEntry (can : Canonical s) (src : Issuer) (e : SbEntry) : Canonical (redoEntry s src e) := by
  unfold redoEntry
  grind [canonical_mapSb, canonical_reissue, canonical_dropCopy, canonical_keepCopy]

theorem canonical_completeEntry (can : Canonical s) (src : Issuer) (e : SbEntry) (v : Word) : Canonical (completeEntry s src e v) := by
  unfold completeEntry
  grind [canonical_putSlot, canonical_discardEntry, canonical_addGone, canonical_dropOut]

theorem opCanonical_clearTsb (k : Fin 16) : OpCanonical (clearTsb k) := by
  unfold clearTsb
  exact opCanonical_modSlot ..

theorem opCanonical_settleTsb (k : Fin 16) {act : State → Issuer → SbEntry → State}
    (keeps : ∀ s src e, Canonical s → Canonical (act s src e)) : OpCanonical (settleTsb k act) := by
  unfold settleTsb
  have clears : ∀ c : Prop, ∀ [Decidable c], OpCanonical (if c then clearTsb k else pure ()) := by
    intro c _
    split
    · exact opCanonical_clearTsb k
    · exact .pure _
  refine .bind opCanonical_getSlot fun σ => ?_
  dsimp only
  split
  · exact .bind (.modState fun s can => keeps s _ _ can) fun _ => clears _
  · exact clears _

theorem opCanonical_resumeWord (x y : ASrc) : OpCanonical (resumeWord x y) := by
  unfold resumeWord
  exact .bind (opCanonical_readA ..) fun _ => .bind (opCanonical_readA ..) fun _ => .bind opCanonical_getSlot fun _ => .bind (.stopIf
    (opCanonical_trapAt ..)) fun _ => .bind (.stopIf (opCanonical_trapAt ..)) fun _ => .pure _

theorem opCanonical_redoAll (ks : List (Fin 16)) : OpCanonical (redoAll ks) := by
  induction ks with
  | nil => exact .pure _
  | cons k ks ih => exact .bind (opCanonical_settleTsb k fun _ src e can => canonical_redoEntry can src e) fun _ => ih

theorem opCanonical_returnOp (x y : ASrc) : OpCanonical (returnOp x y) := by
  unfold returnOp
  refine .bind (opCanonical_resumeWord ..) fun _ => ?_
  refine .bind opCanonical_getSlot fun _ => ?_
  refine .bind (.stopIf (opCanonical_waitFor ..)) fun _ => ?_
  refine .bind (.stopIf (opCanonical_waitFor ..)) fun _ => ?_
  refine .bind (opCanonical_redoAll ..) fun _ => ?_
  refine .bind (opCanonical_modSlot ..) fun _ => ?_
  refine .bind (.modState fun _ can' => (canonical_countBundle can' ..)) fun _ => ?_
  refine .bindGet fun s can => ?_
  dsimp only
  split
  · exact .bind (.modState fun _ can' => (canonical_trapEntry can' ..)) fun _ => .bind (opCanonical_modSlot ..) fun _ => .pure _
  · exact .pure _

theorem canonical_logAfter (can : Canonical s) (p : Nat) (tag : BitVec 16) (x : Nat × FaultInfo) : Canonical (logAfter p tag s x) := by
  unfold logAfter
  grind [canonical_iff]

theorem canonical_failKill (can : Canonical s) (L h n : Nat) (f : FaultInfo) : Canonical (failKill s L h n f) := by
  unfold failKill
  split
  · exact canonical_foldl (fun _ x can => canonical_logAfter can _ _ x) (canonical_killLaunch can L h f) _
  · exact can

theorem opCanonical_failOp (x : ASrc) : OpCanonical (failOp x) := by
  unfold failOp
  exact .bind (opCanonical_readA ..) fun _ => .bind opCanonical_getSlot fun _ => .bind (.modState fun _ can' => (canonical_failKill can'
    ..)) fun _ => .pure _

theorem opCanonical_readImage (p len : Word) : OpCanonical (readImage p len) := by
  unfold readImage
  refine .bindGet fun s can => ?_
  refine .bind (.stopIf (opCanonical_trapAt ..)) fun _ => ?_
  refine .bind (.stopIf (opCanonical_trapAt ..)) fun _ => ?_
  split
  · exact opCanonical_trapAt ..
  · exact .bind (.stopIf (opCanonical_trapAt ..)) fun _ => .bind (.stopIf (opCanonical_trapFree ..)) fun _ => .bind (.modState fun _ can'
      => (canonical_extentTouch can' ..)) fun _ => .pure _

theorem opCanonical_admitOp (bs : List Byte) (len : Nat) (o : Origin) : OpCanonical (admitOp bs len o) := by
  refine ⟨fun s can => ?_⟩
  grind [admitOp, leaves, canonical_admitImage]

theorem opCanonical_chainCheck (bs : List Byte) (len : Nat) (l : Launch) : OpCanonical (chainCheck bs len l) := by
  unfold chainCheck
  exact .bind (opCanonical_admitOp ..) fun _ => .bind (.stopSome fun _ => opCanonical_trapAt ..) fun _ => .pure _

theorem opCanonical_launchCheck (bs : List Byte) (len : Nat) (l : Launch) : OpCanonical (launchCheck bs len l) := by
  unfold launchCheck
  exact .bindGet fun _ _ => .bind (.stopIf (opCanonical_trapAt ..)) fun _ => opCanonical_admitOp ..

theorem canonical_chainCommit (can : Canonical s) (cap : Capsule) (l : Launch) : Canonical (chainCommit cap l s) := by
  unfold chainCommit
  extract_lets t
  have noted : Canonical t := canonical_modLaunch can ..
  split
  · exact canonical_foldl (fun _ h can => canonical_select can h) noted _
  · exact noted

theorem opCanonical_presentOp (isLaunch : Bool) (x y : ASrc) (passed : Option Nat) : OpCanonical (presentOp isLaunch x y passed) := by
  unfold presentOp
  refine .bind (opCanonical_pushBytes ..) fun _ => .bindGet fun s can => .bind (.stopIf (.waitWith can _)) fun _ => ?_
  refine .bind (opCanonical_readA ..) fun p => .bind (opCanonical_readA ..) fun len => ?_
  split
  · exact .pure _
  split
  · refine .bind opCanonical_agreeFirst fun _ => .bind (opCanonical_readImage ..) fun bs => .bind ?_ fun cap => ?_
    · split
      · exact opCanonical_launchCheck ..
      · exact opCanonical_chainCheck ..
    · refine .bind (.stopIf (.waitWith can _)) fun _ => .bind (.stopIf (.waitWith can _)) fun _ => .modState fun t can' => ?_
      split
      · exact canonical_enterWait can' cap
      · exact canonical_chainCommit can' cap _
  · exact .pure _

theorem canonical_commitChain (can : Canonical s) (h n : Nat) : Canonical (commitChain h n s) := by
  unfold commitChain
  extract_lets σ
  split
  · exact canonical_asSlot can _ _ _ fun u can => canonical_stepA can _ _ _ (.bind (opCanonical_presentOp ..) fun _ => .pure _)
  · exact can

theorem opCanonical_chmaskOp (x y : ASrc) : OpCanonical (chmaskOp x y) := by
  unfold chmaskOp
  refine .bind (opCanonical_readA ..) fun w => .bind (opCanonical_readA ..) fun m => .bindGet fun _ _ => ?_
  refine .bind (.stopIf (opCanonical_trapAt ..)) fun _ => opCanonical_unlessLater _ _ fun t can => ?_
  extract_lets c bit u
  have masked : Canonical u := canonical_putCurCtx can (wf_curCtx can)
  split
  · exact masked
  · exact canonical_select masked _

theorem opCanonical_cancelOp (x : ASrc) : OpCanonical (cancelOp x) := by
  unfold cancelOp
  exact .bind (opCanonical_readA ..) fun _ => .bindGet fun _ can => .bind (.stopIf (opCanonical_trapAt ..)) fun _ => .bind (.stopIf
    (opCanonical_trapAt ..)) fun _ => .modState fun _ can' => (canonical_cancelCounter can' ..)

theorem opCanonical_digestOp (x y : ASrc) : OpCanonical (digestOp x y) := by
  unfold digestOp
  refine .bind (opCanonical_readA ..) fun _ => ?_
  refine .bind (opCanonical_readA ..) fun _ => ?_
  refine .bind (opCanonical_ownOffset ..) fun _ => ?_
  refine .bindGet fun s can => ?_
  dsimp only
  split
  · exact .pure _
  · exact .bind (.stopIf (opCanonical_trapAt ..)) fun _ => .bind (opCanonical_inOrder ..) fun _ => .bind (opCanonical_ownBytesAt ..) fun _
      => .modState fun _ can' => (canonical_modLaunch can' ..)

theorem canonical_tickBudget (can : Canonical s) (h n : Nat) : Canonical (tickBudget h n s) := by
  unfold tickBudget
  grind [canonical_putSlot, memOk_hartOf, Hart.memOk_iff]

theorem canonical_countBudgets (can : Canonical s) : Canonical (countBudgets s) := by
  unfold countBudgets
  refine canonical_harts_map can fun x ok => ?_
  dsimp only
  split
  · exact ok
  · exact ok

theorem canonical_endBudget (can : Canonical s) (h n : Nat) : Canonical (endBudget h n s) := by
  unfold endBudget
  grind [canonical_killLaunch, canonical_iff, Hart.wf_ctx]

theorem canonical_endBudgets (can : Canonical s) : Canonical (endBudgets s) := canonical_foldl (fun _ p can => canonical_endBudget can p.1
    p.2) (canonical_countBudgets can) _

theorem canonical_passTime (can : Canonical s) : Canonical (passTime s) := canonical_foldl (fun _ p can => canonical_endHandlerFault can
    p.1 p.2) (canonical_endBudgets can) _

theorem canonical_writeHostRegister (can : Canonical s) (off : Nat) (val : Word) : Canonical (writeHostRegister off val s) := by
  unfold writeHostRegister
  grind [canonical_notifyQueue, canonical_iff]

theorem canonical_drainOnward (can : Canonical s) (p : Nat × PlatEntry) : Canonical (drainOnward s p) := by
  unfold drainOnward
  grind [canonical_endUnplaced, canonical_putPlat]

theorem canonical_refuseDrained (can : Canonical s) : Canonical (refuseDrained s) := by
  unfold refuseDrained
  extract_lets gone t u
  have refused : Canonical t := canonical_foldl (fun _ c can => canonical_endUnplaced can c _ _)
    (s := { s with waitList := s.waitList.filter fun c => !unplaceable s c }) can _
  exact canonical_foldl (fun _ p can => canonical_drainOnward can p) refused _

theorem canonical_commandStatus (can : Canonical s) (d : Word) (w : Vector Word 8) (code : BitVec 16) (detail : BitVec 12) : Canonical
    (commandStatus d w code detail s) := by
  unfold commandStatus
  grind [canonical_hostPut]

theorem canonical_command (can : Canonical s) (op : Nat) (f : Vector Word 8 → State → State × BitVec 16 × BitVec 12) (keeps : ∀ {s} w,
    Canonical s → Canonical (f w s).1) : Canonical (command op f s) := by
  unfold command
  split
  · exact can
  extract_lets w r
  split
  · exact can
  · have performed : Canonical r.1 := keeps (s := { s with doorbells := _ }) w can
    exact canonical_commandStatus performed ..

theorem canonical_drainPlat (can : Canonical s) (on : Bool) (w : Vector Word 8) : Canonical (drainPlat on w s).1 := by
  unfold drainPlat
  extract_lets P t
  have put : Canonical t := canonical_putPlat (s := { s with gzChanged := true }) can ..
  split
  · exact can
  dsimp only
  split
  · exact canonical_refuseDrained put
  · exact put

theorem canonical_registerGrant (can : Canonical s) (w : Vector Word 8) : Canonical (registerGrant w s).1 := by
  unfold registerGrant
  dsimp only
  split
  · exact can
  split
  · exact can
  split
  · exact can
  · exact can

theorem canonical_configureQueue (can : Canonical s) (w : Vector Word 8) : Canonical (configureQueue w s).1 :=
  canonical_hostPut (canonical_putQueue (s := { s with gzChanged := true }) can ..) ..

theorem canonical_raiseSerial (can : Canonical s) (w : Vector Word 8) : Canonical (raiseSerial w s).1 := can

theorem canonical_publish (can : Canonical s) : Canonical (publish s) := by
  unfold publish
  grind [canonical_hostWrite, canonical_iff]

theorem canonical_definePlat (can : Canonical s) (p x4 y2 w h rbudget : Nat) : Canonical (definePlat p x4 y2 w h rbudget s) := by
  unfold definePlat
  grind [canonical_putPlat, canonical_iff]

theorem canonical_retireCluster (can : Canonical s) (c : Nat) : Canonical (retireCluster s c) := by
  unfold retireCluster
  grind [canonical_putPlat, canonical_iff]

theorem canonical_endSelftest (can : Canonical s) (p : Nat) (pass : Bool) : Canonical (endSelftest p pass s) := by
  unfold endSelftest
  grind [canonical_putPlat, canonical_logFault, canonical_clearTag, canonical_dropCarried, canonical_iff]

theorem canonical_fenceGrade4 (can : Canonical s) (code : BitVec 16) (p : Nat × PlatEntry) : Canonical (fenceGrade4 code s p) := by
  unfold fenceGrade4
  grind [canonical_endLogged, canonical_endUnplaced, canonical_putPlat]

theorem canonical_enterGrade4 (can : Canonical s) (code : BitVec 16) : Canonical (enterGrade4 s code) := by
  unfold enterGrade4
  extract_lets t caps
  have fenced : Canonical t := canonical_foldl (fun _ p can => canonical_fenceGrade4 can code p)
    (s := { s with outOfService := true, grade4 := code, gzChanged := true }) can _
  exact canonical_foldl (fun _ c can => canonical_endUnplaced can c _ _) (s := { t with waitList := [] }) fenced _

theorem canonical_boot (can : Canonical s) : Canonical (boot s) := by
  obtain ⟨hbm, host, flash, -, -⟩ := (canonical_iff s).mp can
  exact (canonical_iff _).mpr ⟨hbm, host, flash, flash, fun _ m => nomatch m⟩

theorem canonical_releaseHeldOp {r : State × List NetItem} (can : Canonical r.1) (h : Nat) (it : NetItem) :
    Canonical (releaseHeldOp h r it).1 := by
  unfold releaseHeldOp
  extract_lets s own taken H t
  split
  · exact canonical_homeWrite can ..
  · have sent : Canonical t := by
      unfold t
      split
      · refine canonical_putHart can ?_ h
        exact memOk_hartOf can h
      · exact can
    exact sent

theorem canonical_releaseHeldOps {r : State × List NetItem} (can : Canonical r.1) (h : Nat) (its : List NetItem) :
    Canonical (its.foldl (releaseHeldOp h) r).1 := by
  induction its generalizing r with
  | nil => exact can
  | cons it its ih => exact ih (canonical_releaseHeldOp can h it)

theorem canonical_clearFpr (can : Canonical s) (h : Nat) : Canonical (clearFpr s h) := by
  unfold clearFpr
  grind [canonical_putHart, memOk_hartOf, Hart.memOk_iff]

theorem canonical_agree (can : Canonical s) (h : Nat) : Canonical (agree s h) := by
  unfold agree
  extract_lets s1 H t
  have released : Canonical s1 := canonical_releaseHeldOps (r := (s, [])) can h _
  refine canonical_clearFpr (canonical_clearFpr (canonical_putHart released ?_ h) h) (h + 1)
  exact memOk_hartOf released h

theorem canonical_uncountAll (can : Canonical s) (h : Nat) (its : List NetItem) : Canonical (uncountAll s h its) := canonical_foldl (fun _
    _ can => canonical_uncount can h _ _) can _

theorem canonical_rollBack (can : Canonical s) (h : Nat) : Canonical (rollBack s h) := by
  unfold rollBack
  grind [canonical_uncountAll, canonical_putHart, canonical_clearFpr, memOk_hartOf, Hart.memOk_iff, Hart.memOk_putCtx, Hart.wf_ctx]

theorem canonical_persistent (can : Canonical s) (h core : Nat) : Canonical (persistent s h core) := by
  unfold persistent
  grind [canonical_retireCluster, canonical_killLaunch, canonical_iff]

theorem canonical_comparePair (can : Canonical s) (h : Nat) : Canonical (comparePair h s) := by
  unfold comparePair
  grind [canonical_agree, canonical_persistent, canonical_rollBack, memOk_hartOf, Hart.memOk_iff]

theorem canonical_endPairTest (can : Canonical s) (h : Nat) (leaderOk followerOk : Bool) : Canonical (endPairTest h leaderOk followerOk s)
    := by
  unfold endPairTest
  grind [canonical_logFault, canonical_select, canonical_putHart, canonical_persistent, canonical_iff, memOk_hartOf, Hart.memOk_iff]

theorem canonical_compareDigests (can : Canonical s) (p : Nat) (stepNo : BitVec 32) (digest : BitVec 256) (third : Option (BitVec 256)) :
    Canonical (compareDigests p stepNo digest third s) := by
  unfold compareDigests
  split
  · exact can
  next L _ =>
    split
    · exact can
    split
    · exact can
    extract_lets t
    have compared : Canonical t := canonical_putLaunch can ..
    split
    · exact can
    split
    · exact compared
    split
    · have logged := canonical_endLogged compared L codeSelftest (Config.freeDetail t.fresh) .zeroing
      exact canonical_refuseDrained (s := { endLogged t L codeSelftest (Config.freeDetail t.fresh) .zeroing with drain := true }) logged
    · exact canonical_modLaunch compared ..

theorem canonical_endFullTest (can : Canonical s) (p : Nat) (pass : Bool) : Canonical (endFullTest p pass s) := by
  unfold endFullTest
  grind [canonical_endLogged, canonical_enterGrade4]

end

end Sys2Proof.Machine
end

section
/-! SUPPORT. Memories in canonical form, continued: quiescence and pre-emption (log 3; spec/04, spec/18). -/

namespace Sys2Proof.Machine

section
variable {s t : State}

theorem canonical_watchIdle (can : Canonical s) : Canonical (watchIdle s) := by
  unfold watchIdle
  grind [canonical_iff]

theorem canonical_hangPlat (can : Canonical s) (p : Nat) : Canonical (hangPlat p s) := by
  unfold hangPlat
  grind [canonical_killLaunch, canonical_iff]

theorem canonical_completePlat (can : Canonical s) (p : Nat) : Canonical (completePlat p s) := by
  unfold completePlat
  grind [canonical_completeLaunch]

theorem canonical_endCancelled (can : Canonical s) (p : Nat) : Canonical (endCancelled p s) := by
  unfold endCancelled
  grind [canonical_putPlat, canonical_endLogged, canonical_iff]

theorem canonical_zeroed (can : Canonical s) (p : Nat) : Canonical (zeroed p s) := by
  unfold zeroed
  grind [canonical_clearTag, canonical_dropCarried, canonical_putPlat, canonical_placeOn, canonical_iff]

theorem canonical_requestPreemption (can : Canonical s) (p : Nat) : Canonical (requestPreemption p s) := by
  unfold requestPreemption
  grind [canonical_putLaunch, canonical_putPlat, canonical_iff]

theorem canonical_handOver (can : Canonical s) (l : Launch) (e : Extent) (image : List Byte) : Canonical (handOver s l e image) := by
  unfold handOver
  grind [canonical_hostWrite, canonical_closePacket, canonical_writeStatus, canonical_extentWrite, canonical_logFault, canonical_iff]

theorem canonical_writeSpill (can : Canonical s) (L : Nat) (l : Launch) : Canonical (writeSpill s L l) := by
  unfold writeSpill
  extract_lets u P serial ply body digest noted
  clear_value digest body serial
  have recalled : Canonical u := canonical_recallAll can L
  split
  · exact recalled
  extract_lets written handed
  have writtenOk : Canonical written := canonical_extentWrite (s := noted) recalled ..
  have handedOk : Canonical handed := canonical_handOver writtenOk ..
  exact canonical_clearPlat (canonical_endCounters handedOk ..) ..

theorem canonical_spillPlat (can : Canonical s) (p : Nat) : Canonical (spillPlat p s) := by
  unfold spillPlat
  grind [canonical_endLogged, canonical_writeSpill, canonical_putPlat, canonical_iff]

theorem canonical_restoreCores (can : Canonical s) (L : Nat) (l : Launch) (ply : BitVec 16) (units : List Nat) (regime : Bool) (bs : List
    Byte) : Canonical (restoreCores L l ply units regime bs s) := by
  unfold restoreCores
  refine canonical_foldl (fun t x can => ?_) can _
  exact canonical_putCtx (s := { t with nextId := t.nextId + _ }) can (wf_readCore (wf_ctxOf can x.1 L) ..) x.1

theorem canonical_restoreUnits (can : Canonical s) (L : Nat) (ply : BitVec 16) (regime : Bool) (recs lines : List Byte) : Canonical
    (restoreUnits L ply regime recs lines s) := by
  unfold restoreUnits
  have keepsUnit : ∀ {t : State} (can : Canonical t) (h : Nat) (p : BitVec 16) (U : OrUnit),
      Canonical (putCtx t h { ctxOf t h L with unit := U, ply := p }) := by
    intro t can h p U
    refine canonical_putCtx can ?_ h
    exact wf_ctxOf can h L
  refine canonical_foldl (fun t u can => ?_) (canonical_foldl (fun t h can => keepsUnit can h _ _) can _) _
  dsimp only
  split
  · exact keepsUnit can _ _ _
  · exact can

theorem canonical_restoreResidue (can : Canonical s) (L : Nat) (l : Launch) : Canonical (restoreResidue s L l) := by
  unfold restoreResidue
  split
  · exact can
  next e _ =>
    extract_lets bs ply at' recs units regime u v w
    clear_value bs recs units regime
    have restored : Canonical v := canonical_restoreCores (canonical_restoreUnits can ..) ..
    have started : Canonical w := canonical_startLaunch (canonical_putLaunch restored ..) L
    exact canonical_foldl (fun _ h can => canonical_select can h) started _

theorem canonical_restorePlat (can : Canonical s) (p : Nat) : Canonical (restorePlat p s) := by
  unfold restorePlat
  grind [canonical_restoreResidue]

end

end Sys2Proof.Machine
end

section
/-! SUPPORT. Memories in canonical form, continued: each instruction and event, and the step (log 2, log 3). -/

namespace Sys2Proof.Machine

/-- A word or an event f keeps every memory in canonical form. -/
structure StepCanonical (f : State → Host.Outcome State Fault Refusal) : Prop where
  keeps : ∀ s t, Canonical s → f s = .next t → Canonical t

/-! ## The shapes of words -/

theorem StepCanonical.onSlot {f : State → State} (keeps : ∀ s, Canonical s → Canonical (f s)) : StepCanonical (onSlot f) := by
  refine ⟨fun s t can next => ?_⟩
  unfold Machine.onSlot at next
  split at next
  · nomatch next
  split at next
  · obtain rfl := Host.Outcome.next.inj next
    exact keeps s can
  · nomatch next

theorem StepCanonical.wordA (lone : Bool) (g : Gov) {op : Op Flow} (keeps : OpCanonical op) : StepCanonical (wordA lone g op) :=
  .onSlot fun _ can => canonical_stepA can lone g op keeps

theorem StepCanonical.plainA {op : Op Unit} (keeps : OpCanonical op) : StepCanonical (plainA op) :=
  .wordA _ _ (.bind keeps fun _ => .pure _)

theorem StepCanonical.loneA {op : Op Unit} (keeps : OpCanonical op) : StepCanonical (loneA op) :=
  .wordA _ _ (.bind keeps fun _ => .pure _)

theorem StepCanonical.wordE (g : Gov) {op : Op Unit} (keeps : OpCanonical op) : StepCanonical (wordE g op) :=
  .onSlot fun _ can => canonical_stepE can g op keeps

theorem StepCanonical.event {f : State → State} (keeps : ∀ s, Canonical s → Canonical (f s)) : StepCanonical (event f) := by
  refine ⟨fun s t can next => ?_⟩
  obtain rfl := Host.Outcome.next.inj next
  exact keeps s can


theorem stepCanonical_aluOp (f : Word → Word → Word) (d : ADst) (x y : ASrc) : StepCanonical (aluOp f d x y) :=
  .plainA (.bind (opCanonical_readA ..) fun _ => .bind (opCanonical_readA ..) fun _ => opCanonical_writeA ..)

theorem stepCanonical_aluiOp (f : Word → Word) (d : ADst) (x : ASrc) : StepCanonical (aluiOp f d x) :=
  .plainA (.bind (opCanonical_readA ..) fun _ => opCanonical_writeA ..)

theorem stepCanonical_composeOp (limS limT : Nat) (f : Nat → Nat → Nat) (d : ADst) (x y : ASrc) : StepCanonical (composeOp limS limT f d x
    y) :=
  .plainA (.bind (opCanonical_readA ..) fun _ => .bind (opCanonical_readA ..) fun _ => .bind (.stopIf (opCanonical_trapAt ..)) fun _ =>
    .bind (.stopIf (opCanonical_trapAt ..)) fun _ => opCanonical_writeA ..)

theorem stepCanonical_iaOp (f : Word → Word → Word) (d : EDst) (x y : ESrc) : StepCanonical (iaOp f d x y) :=
  .wordE _ (.bind (opCanonical_readE ..) fun _ => .bind (opCanonical_readE ..) fun _ => opCanonical_writeE ..)

theorem stepCanonical_iaiOp (f : Word → Word) (d : EDst) (x : ESrc) : StepCanonical (iaiOp f d x) :=
  .wordE _ (.bind (opCanonical_readE ..) fun _ => opCanonical_writeE ..)

theorem stepCanonical_satOp (f : Int → Int → Int) (d : EDst) (x y : ESrc) : StepCanonical (satOp f d x y) :=
  .wordE _ (.bind (opCanonical_readE ..) fun _ => .bind (opCanonical_readE ..) fun _ => .bind (opCanonical_writeE ..) fun _ =>
    opCanonical_setFlags ..)

theorem stepCanonical_faOne (f : Nat → Nat → Nat × Fl) (d : EDst) (x : ESrc) : StepCanonical (faOne f d x) :=
  .wordE _ (.bind (opCanonical_readE ..) fun _ => .bind opCanonical_roundMode fun _ => .bind (opCanonical_writeE ..) fun _ =>
    opCanonical_setFlags ..)

theorem stepCanonical_faTwo (f : Nat → Nat → Nat → Nat × Fl) (d : EDst) (x y : ESrc) : StepCanonical (faTwo f d x y) :=
  .wordE _ (.bind (opCanonical_readE ..) fun _ => .bind (opCanonical_readE ..) fun _ => .bind opCanonical_roundMode fun _ => .bind
    (opCanonical_writeE ..) fun _ => opCanonical_setFlags ..)

theorem stepCanonical_faThree (f : Nat → FV → FV → FV → Nat × Fl) (fmt : FpFmt) (d : Fin 16) (x y : ESrc) : StepCanonical (faThree f fmt d
    x y) :=
  .wordE _ (.bind (opCanonical_readE ..) fun _ => .bind (opCanonical_readE ..) fun _ => .bind (opCanonical_readE ..) fun _ => .bind
    opCanonical_roundMode fun _ => .bind (opCanonical_writeE ..) fun _ => opCanonical_setFlags ..)

theorem stepCanonical_cvtOp (extend : Bool) (dfd dfa : Nat) (okD okA : List Nat) (d : EDst) (x : ESrc) : StepCanonical (cvtOp extend dfd
    dfa okD okA d x) :=
  .wordE _ (.bind (opCanonical_cvtFormats ..) fun _ => .bind (opCanonical_readE ..) fun _ => .bind opCanonical_curTable fun _ => .bind
    opCanonical_roundMode fun _ => .bind (opCanonical_writeE ..) fun _ => opCanonical_setFlags ..)

theorem stepCanonical_prOp (f : Word → Word → Word) (d x y : Fin 8) : StepCanonical (prOp f d x y) :=
  .wordE _ (.bind (opCanonical_readP ..) fun _ => .bind (opCanonical_readP ..) fun _ => opCanonical_writeP ..)

theorem stepCanonical_prCmp (f : Word → Word → Bool) (d : Fin 8) (x y : ESrc) : StepCanonical (prCmp f d x y) :=
  .wordE _ (.bind (opCanonical_readE ..) fun _ => .bind (opCanonical_readE ..) fun _ => opCanonical_writeP ..)

theorem stepCanonical_prRead (f : Word → Word → Word) (d : EDst) (x y : Fin 8) : StepCanonical (prRead f d x y) :=
  .wordE _ (.bind (opCanonical_readP ..) fun _ => .bind (opCanonical_readP ..) fun _ => opCanonical_writeE ..)

theorem stepCanonical_vecTwo (W : Nat) (f : Nat → Nat → Nat → Nat × Fl) (d : VDst) (x y : VSrc) (p : Fin 8) : StepCanonical (vecTwo W f d
    x y p) :=
  .wordE _ (opCanonical_withV (fun _ _ => .bind (opCanonical_readP ..) fun _ => .bind opCanonical_roundMode fun _ =>
    opCanonical_writeLanes ..) ..)

theorem stepCanonical_vecOne (W : Nat) (f : Nat → Nat → Nat × Fl) (d : VDst) (x : VSrc) (p : Fin 8) : StepCanonical (vecOne W f d x p) :=
  .wordE _ (opCanonical_withV1 (fun _ => .bind (opCanonical_readP ..) fun _ => .bind opCanonical_roundMode fun _ => opCanonical_writeLanes
    ..) ..)

theorem stepCanonical_vecCmp (W : Nat) (f : Nat → Nat → Bool × Fl) (d : Fin 8) (x y : VSrc) (p : Fin 8) : StepCanonical (vecCmp W f d x y
    p) :=
  .wordE _ (opCanonical_withV (fun _ _ => .bind (opCanonical_readP ..) fun _ => .bind (opCanonical_writeP ..) fun _ =>
    opCanonical_setFlags ..) ..)

theorem stepCanonical_reduceWord (d : VDst) (x : VSrc) (p : Fin 8) (f : Nat → Word → Vec → Nat × Fl) : StepCanonical (reduceWord d x p f)
    :=
  .wordE _ (opCanonical_withV1 (fun _ => .bind (opCanonical_readP ..) fun _ => .bind opCanonical_roundMode fun _ => .bind
    (opCanonical_writeV ..) fun _ => opCanonical_setFlags ..) ..)

theorem stepCanonical_moveWord (d : VDst) (x y : VSrc) (p : Fin 8) (W : Nat) (f : Vec → Vec → Nat → Nat) : StepCanonical (moveWord d x y p
    W f) :=
  .wordE _ (opCanonical_withV (fun _ _ => .bind (opCanonical_readP ..) fun _ => opCanonical_writeLanes ..) ..)

theorem stepCanonical_scalarWord (d : VDst) (x : ESrc) (p : Fin 8) (W : Nat) (f : Nat → Nat → Nat) : StepCanonical (scalarWord d x p W f)
    :=
  .wordE _ (.bind (opCanonical_readE ..) fun _ => .bind (opCanonical_readP ..) fun _ => opCanonical_writeLanes ..)

theorem stepCanonical_cvtVecOp (dfd dfa : Nat) (okD okA : List Nat) (d : VDst) (x : VSrc) : StepCanonical (cvtVecOp dfd dfa okD okA d x)
    :=
  .wordE _ (.bind (opCanonical_cvtFormatsV ..) fun _ => opCanonical_withV1 (fun _ => .bind opCanonical_curTable fun _ => .bind
    opCanonical_roundMode fun _ => .bind opCanonical_getSlot fun _ => .bind (opCanonical_writeV ..) fun _ => opCanonical_setFlags ..)
    ..)

theorem stepCanonical_branchOn (c : Word → Bool) (x : ASrc) (off : BitVec 17) : StepCanonical (branchOn c x off) := by
  refine .wordA _ _ (.bind (opCanonical_readA ..) fun v => ?_)
  split
  · exact .bind opCanonical_curPc fun _ => opCanonical_transfer ..
  · exact .pure _

/-! ## Words and events of their own shape -/

theorem stepCanonical_execAluMkx (d : ADst) (x y : ASrc) (sp : BitVec 4) : StepCanonical (execAluMkx d x y sp) := by
  refine ⟨fun s t can next => ?_⟩
  unfold execAluMkx at next
  split at next
  · exact (stepCanonical_composeOp ..).keeps s t can next
  · exact (stepCanonical_composeOp ..).keeps s t can next

theorem stepCanonical_execAluMks (d : ADst) (x y : ASrc) (sp : BitVec 4) : StepCanonical (execAluMks d x y sp) := by
  refine ⟨fun s t can next => ?_⟩
  unfold execAluMks at next
  split at next
  · exact (stepCanonical_composeOp ..).keeps s t can next
  · exact (stepCanonical_composeOp ..).keeps s t can next

theorem stepCanonical_execBrAl (off : BitVec 17) : StepCanonical (execBrAl off) := .wordA _ _ (.bind opCanonical_curPc fun _ =>
    opCanonical_transfer ..)

theorem stepCanonical_execCtlCall (off : BitVec 17) : StepCanonical (execCtlCall off) := .wordA _ _ (.bind opCanonical_curPc fun _ =>
    opCanonical_callTo ..)

theorem stepCanonical_execCtlLoop (n : Fin 16) (off : BitVec 17) : StepCanonical (execCtlLoop n off) := by
  refine .wordA _ _ (.bind (opCanonical_readA ..) fun v => .bind (opCanonical_writeA ..) fun _ => ?_)
  split
  · exact .bind opCanonical_curPc fun _ => opCanonical_transfer ..
  · exact .pure _

theorem stepCanonical_execCtlCallr (x : ASrc) : StepCanonical (execCtlCallr x) := .wordA _ _ (.bind (opCanonical_readA ..) fun _ =>
    opCanonical_callTo ..)

theorem stepCanonical_execCtlJr (x : ASrc) : StepCanonical (execCtlJr x) := .wordA _ _ (.bind (opCanonical_readA ..) fun _ =>
    opCanonical_transfer ..)

theorem stepCanonical_execCtlRet : StepCanonical execCtlRet := .wordA _ _ (.bind opCanonical_popReturn fun _ => opCanonical_transfer ..)

theorem stepCanonical_execJmplGo (x : ASrc) (imm : BitVec 32) : StepCanonical (execJmplGo x imm) := .wordA _ _ (.bind (opCanonical_readA
    ..) fun _ => opCanonical_transfer ..)

theorem stepCanonical_execJmplCall (x : ASrc) (imm : BitVec 32) : StepCanonical (execJmplCall x imm) := .wordA _ _ (.bind
    (opCanonical_readA ..) fun _ => opCanonical_callTo ..)

theorem stepCanonical_execLiHi (d : ADst) (x : ASrc) (imm : BitVec 32) : StepCanonical (execLiHi d x imm) := .loneA (.bind
    (opCanonical_readA ..) fun _ => opCanonical_writeA ..)

theorem stepCanonical_execCtlNopc : StepCanonical execCtlNopc := .plainA (.pure ())

theorem stepCanonical_execCtlDone : StepCanonical execCtlDone := by
  refine ⟨fun s t can next => ?_⟩
  unfold execCtlDone at next
  split at next
  · exact (StepCanonical.wordA _ _ opCanonical_abandonOp).keeps s t can next
  · exact (StepCanonical.wordA _ _ opCanonical_doneOp).keeps s t can next

theorem stepCanonical_execMeshLoadArrival (k : Nat) : StepCanonical (execMeshLoadArrival k) := by
  refine .event fun s can => ?_
  grind [canonical_arriving, canonical_loadAtHome, canonical_iff]

theorem stepCanonical_execMeshStoreArrival (k : Nat) : StepCanonical (execMeshStoreArrival k) := by
  refine .event fun s can => ?_
  grind [canonical_arriving, canonical_storeAtHome, canonical_flushAtHome, canonical_iff]

theorem stepCanonical_execAmoArrival (k : Nat) : StepCanonical (execAmoArrival k) := by
  refine .event fun s can => ?_
  grind [canonical_arriving, canonical_amoArrive, canonical_maxrdArrive, canonical_iff]

theorem stepCanonical_execExtentLoadDataReturn (k : Nat) : StepCanonical (execExtentLoadDataReturn k) := by
  refine .event fun s can => ?_
  grind [canonical_arriving, canonical_checkerLoad, canonical_refuse, canonical_iff]

theorem stepCanonical_execStorerWriteAck (k : Nat) : StepCanonical (execStorerWriteAck k) := by
  refine .event fun s can => ?_
  grind [canonical_arriving, canonical_refuse, canonical_checkerStore, canonical_iff]

theorem stepCanonical_execActiveMessageArrival (k : Nat) : StepCanonical (execActiveMessageArrival k) := by
  refine .event fun s can => ?_
  grind [canonical_performing, canonical_activeArrive, canonical_iff]

theorem stepCanonical_execDataMessageArrival (k : Nat) : StepCanonical (execDataMessageArrival k) := by
  refine .event fun s can => ?_
  grind [canonical_performing, canonical_dataArrive, canonical_iff]

theorem stepCanonical_execReplyMessageArrival (k : Nat) : StepCanonical (execReplyMessageArrival k) := by
  refine .event fun s can => ?_
  grind [canonical_performing, canonical_accept, canonical_settleNamed, canonical_iff]

theorem stepCanonical_execSendAcceptance (k : Nat) : StepCanonical (execSendAcceptance k) := by
  refine .event fun s can => ?_
  grind [canonical_takeNet, canonical_accept, canonical_dropOut, canonical_clearSb, canonical_dropCopy, canonical_retireAnswer,
    canonical_iff]

theorem stepCanonical_execNackMessageArrival (k : Nat) : StepCanonical (execNackMessageArrival k) := by
  refine .event fun s can => ?_
  grind [canonical_takeNet, canonical_nack, canonical_refusedCopy, canonical_scheduleResend, canonical_iff]

theorem stepCanonical_execOrcRetryBudgetExhausted (k : Nat) : StepCanonical (execOrcRetryBudgetExhausted k) := by
  refine .event fun s can => ?_
  split
  next it t took =>
    have taken := canonical_takeNet can took
    have later : Canonical { t with fresh := t.fresh + 1 } := taken
    grind [canonical_exhausted]
  next => exact can

theorem stepCanonical_execMessageResend (k : Nat) : StepCanonical (execMessageResend k) := by
  refine .event fun s can => ?_
  split
  next h c _ =>
    have sent : ∀ copies, Canonical (putHart s h { hartOf s h with copies := copies }) := by
      intro copies
      refine canonical_putHart can ?_ h
      exact memOk_hartOf can h
    split
    · split
      · exact canonical_refusedCopy can ..
      split
      · exact sent _
      · exact can
    · exact can
  next => exact can

theorem stepCanonical_execOrcDecl (x : ASrc) (cls : OrcClass) : StepCanonical (execOrcDecl x cls) := .plainA (.bind (opCanonical_readA ..)
    fun _ => .bind (opCanonical_cellCheck ..) fun _ => .bind (opCanonical_sendKept ..) fun _ => .pure _)

theorem stepCanonical_execOrcLdt (d : ADst) (x : ASrc) (t : ADst) : StepCanonical (execOrcLdt d x t) := .plainA (.bind (opCanonical_readA
    ..) fun _ => .bind (opCanonical_cellCheck ..) fun _ => .bind opCanonical_agreeFirst fun _ =>
    .bind (opCanonical_needSb ..) fun _ => .bind (opCanonical_issue ..) fun _ => .bind (opCanonical_reserve ..) fun _ =>
    .bind (opCanonical_reserve ..) fun _ => opCanonical_addSb ..)

theorem stepCanonical_execOrcLds (d : ADst) (x y : ASrc) : StepCanonical (execOrcLds d x y) := .plainA (.bind (opCanonical_readA ..) fun _
    => .bind (opCanonical_readA ..) fun _ => .bind (opCanonical_cellCheck ..) fun _ =>
    .bindGet fun _ _ => .bind (.stopIf (opCanonical_trapAt ..)) fun _ => .bind opCanonical_agreeFirst fun _ =>
    .bind (opCanonical_issue ..) fun _ => opCanonical_addPending ..)

theorem stepCanonical_execOrcDeclArrival (k : Nat) : StepCanonical (execOrcDeclArrival k) := by
  refine .event fun s can => ?_
  grind [canonical_performing, canonical_declArrive, canonical_iff]

theorem stepCanonical_execOrcAppendArrival (k : Nat) : StepCanonical (execOrcAppendArrival k) := by
  refine .event fun s can => ?_
  grind [canonical_performing, canonical_appendArrive, canonical_iff]

theorem stepCanonical_execOrcTentativeLoadArrival (k : Nat) : StepCanonical (execOrcTentativeLoadArrival k) := by
  refine .event fun s can => ?_
  grind [canonical_arriving, canonical_ldtArrive, canonical_iff]

theorem stepCanonical_execOrcSettledLoadArrival (k : Nat) : StepCanonical (execOrcSettledLoadArrival k) := by
  refine .event fun s can => ?_
  grind [canonical_arriving, canonical_ldsArrive, canonical_iff]

theorem stepCanonical_execSequenceWatermarkAdvance (unit : Nat) : StepCanonical (execSequenceWatermarkAdvance unit) := by
  refine .event fun s can => canonical_foldl (fun t c can => ?_) can _
  split
  · exact canonical_advanceUnit can ..
  · exact can

theorem stepCanonical_execFutureReadArrival (k : Nat) : StepCanonical (execFutureReadArrival k) := by
  refine .event fun s can => ?_
  grind [canonical_performing, canonical_readArrive, canonical_continueArrive, canonical_iff]

theorem stepCanonical_execFutureWriteArrival (k : Nat) : StepCanonical (execFutureWriteArrival k) := by
  refine .event fun s can => ?_
  split
  next it t took =>
    have taken := canonical_performing can took
    split
    · refine canonical_futArrive taken it _ _ _ fun home off => ?_
      grind [canonical_refusal, canonical_accept, canonical_fillFuture]
    · exact can
  next => exact can

theorem stepCanonical_execFutureClearArrival (k : Nat) : StepCanonical (execFutureClearArrival k) := by
  refine .event fun s can => ?_
  split
  next it t took =>
    have taken := canonical_performing can took
    split
    · refine canonical_futArrive taken it _ _ _ fun home off => ?_
      grind [canonical_refusal, canonical_accept, canonical_emptyFuture]
    · exact can
  next => exact can

theorem stepCanonical_execFenceComplete (h n : Nat) : StepCanonical (execFenceComplete h n) := by
  refine .event fun s can => ?_
  grind [canonical_retireAt, canonical_iff]

theorem stepCanonical_execPlyBarrierComplete (plat : Nat) : StepCanonical (execPlyBarrierComplete plat) := by
  refine .event fun s can => ?_
  grind [canonical_closePly, canonical_iff]

theorem stepCanonical_execRegimeChange (plat : Nat) : StepCanonical (execRegimeChange plat) := by
  refine .event fun s can => ?_
  grind [canonical_modLaunch, canonical_iff]

theorem stepCanonical_execIaSel (d : EDst) (x y : ESrc) (p : Fin 8) : StepCanonical (execIaSel d x y p) := .wordE _ (.bind
    (opCanonical_readE ..) fun _ => .bind (opCanonical_readE ..) fun _ => .bind (opCanonical_readP ..) fun _ =>
    opCanonical_writeE ..)

theorem stepCanonical_execIaiLui (d : EDst) (imm : BitVec 16) : StepCanonical (execIaiLui d imm) := .wordE _ (opCanonical_writeE ..)

theorem stepCanonical_execPrNot (d x : Fin 8) : StepCanonical (execPrNot d x) := .wordE _ (.bind (opCanonical_readP ..) fun _ =>
    opCanonical_writeP ..)

theorem stepCanonical_execPrSet (d : Fin 8) (x : ESrc) : StepCanonical (execPrSet d x) := .wordE _ (.bind (opCanonical_readE ..) fun _ =>
    opCanonical_writeP ..)

theorem stepCanonical_execPrGet (d : EDst) (x : Fin 8) : StepCanonical (execPrGet d x) := .wordE _ (.bind (opCanonical_readP ..) fun _ =>
    opCanonical_writeE ..)

theorem stepCanonical_execNopX : StepCanonical execNopX := .wordE _ (.pure ())

theorem stepCanonical_execVaSel (d : VDst) (x y : VSrc) (p : Fin 8) (w : LaneW) : StepCanonical (execVaSel d x y p w) := .wordE _
    (opCanonical_withV (fun _ _ => .bind (opCanonical_readP ..) fun _ => opCanonical_writeV ..) ..)

theorem stepCanonical_execVfFma (d : Fin 8) (x y : VSrc) (p : Fin 8) (f : FpFmt) : StepCanonical (execVfFma d x y p f) := .wordE _
    (opCanonical_withV (fun _ _ => .bind (opCanonical_readP ..) fun _ => .bind opCanonical_roundMode fun _ =>
    .bind opCanonical_getSlot fun _ => opCanonical_writeLanes ..) ..)

theorem stepCanonical_execVxRot (d : VDst) (x : VSrc) (y : ESrc) (p : Fin 8) (w : LaneW) : StepCanonical (execVxRot d x y p w) := .wordE _
    (opCanonical_withV1 (fun _ => .bind (opCanonical_readE ..) fun _ => .bind (opCanonical_readP ..) fun _ =>
    opCanonical_writeLanes ..) ..)

theorem stepCanonical_execVxExt (d : EDst) (x : VSrc) (y : ESrc) (w : LaneW) : StepCanonical (execVxExt d x y w) := .wordE _
    (opCanonical_withV1 (fun _ => .bind (opCanonical_readE ..) fun _ => opCanonical_writeE ..) ..)

theorem stepCanonical_execVxIns (d : Fin 8) (x y : ESrc) (w : LaneW) : StepCanonical (execVxIns d x y w) := .wordE _ (.bind
    (opCanonical_readE ..) fun _ => .bind (opCanonical_readE ..) fun _ => .bind opCanonical_getSlot fun _ =>
    opCanonical_writeV ..)

theorem stepCanonical_execMxqRcmd (first : BitVec 5) (x : ARegZ) : StepCanonical (execMxqRcmd first x) := .wordA _ _ (.bind
    (opCanonical_rcmdOp ..) fun _ => .pure _)

theorem stepCanonical_execCpqRcmd (first : BitVec 5) (x : ARegZ) : StepCanonical (execCpqRcmd first x) := .wordA _ _ (.bind
    (opCanonical_cpRcmdOp ..) fun _ => .pure _)

theorem stepCanonical_execRemoteCommandArrival (k : Nat) : StepCanonical (execRemoteCommandArrival k) := by
  refine .event fun s can => ?_
  grind [canonical_performing, canonical_commandArrive, canonical_iff]

theorem stepCanonical_execMemSt (d base : ASrc) (sz : Size) (ord : Ord) (sc : Scope) (off : BitVec 7) : StepCanonical (execMemSt d base sz
    ord sc off) := .plainA (opCanonical_storeOp opCanonical_kickStoreOp ..)

theorem stepCanonical_execKickRegisterStore (k : Nat) : StepCanonical (execKickRegisterStore k) := by
  refine .event fun s can => ?_
  grind [canonical_performing, canonical_kickArrive, canonical_iff]

theorem stepCanonical_execCpeCopyJob (c : Nat) (q : Fin 4) : StepCanonical (execCpeCopyJob c q) := .event fun _ can =>
    canonical_runCommand can c q _ _ fun L j => canonical_runCopy can c L j

theorem stepCanonical_execCpeFillJob (c : Nat) (q : Fin 4) : StepCanonical (execCpeFillJob c q) := .event fun _ can =>
    canonical_runCommand can c q _ _ fun L j => canonical_runFill can c L j

theorem stepCanonical_execCpeBarrierJob (c : Nat) (q : Fin 4) : StepCanonical (execCpeBarrierJob c q) := .event fun _ can =>
    canonical_runCommand can c q _ _ fun _ j => canonical_setCommand can c (j.finish none)

theorem stepCanonical_execCpeReduceJob (c : Nat) (q : Fin 4) : StepCanonical (execCpeReduceJob c q) := .event fun _ can =>
    canonical_runCommand can c q _ _ fun L j => canonical_runReduce can c L j

theorem stepCanonical_execSequencedReduceArrival (k : Nat) : StepCanonical (execSequencedReduceArrival k) := by
  refine .event fun s can => ?_
  grind [canonical_takeNet, canonical_sequencedArrive, canonical_iff]

theorem stepCanonical_execCollectiveTimeout (k : Nat) : StepCanonical (execCollectiveTimeout k) := by
  refine .event fun s can => ?_
  grind [canonical_afterBlock, canonical_failCollective, canonical_iff]

theorem stepCanonical_execMxqStep (d : ADst) (first : BitVec 5) (x : ARegZ) (acc : Fin 8) : StepCanonical (execMxqStep d first x acc) :=
    .wordA _ _ (.bind (opCanonical_stepSubmit ..) fun _ => .pure _)

theorem stepCanonical_execMxqSteps (d : ADst) (first : BitVec 5) (x : ARegZ) (acc : Fin 8) : StepCanonical (execMxqSteps d first x acc) :=
    .wordA _ _ (.bind (opCanonical_stepSubmit ..) fun _ => .pure _)

theorem stepCanonical_execMxqDrain (d : ADst) (first : BitVec 5) (x : ARegZ) (acc : Fin 8) : StepCanonical (execMxqDrain d first x acc) :=
    .wordA _ _ (.bind (opCanonical_drainSubmit ..) fun _ => .pure _)

theorem stepCanonical_execFmtSetA (fd fa fb : BitVec 4) (scl : BitVec 2) : StepCanonical (execFmtSetA fd fa fb scl) := .wordA _ _ (.bind
    (opCanonical_modSlot ..) fun _ => .pure _)

theorem stepCanonical_execFmtSetX (fd fa fb : BitVec 4) (scl : BitVec 2) : StepCanonical (execFmtSetX fd fa fb scl) := .wordE _
    (opCanonical_modSlot ..)

theorem stepCanonical_execUqwiNotify (q : Nat) (wi : BitVec 32) : StepCanonical (execUqwiNotify q wi) := by
  refine .event fun s can => ?_
  grind [canonical_notifyQueue]

theorem stepCanonical_execPacketNop (q : Nat) : StepCanonical (execPacketNop q) := .event fun _ can => canonical_takePacket can _ q _ fun
    _ can => canonical_writeStatus can ..

theorem stepCanonical_execPacketLaunch (q : Nat) : StepCanonical (execPacketLaunch q) := .event fun _ can => canonical_takePacket can _ q
    _ fun _ can => canonical_presentLaunch can ..

theorem stepCanonical_execPacketCounterWait (q : Nat) : StepCanonical (execPacketCounterWait q) := .event fun _ can =>
    canonical_takePacket can _ q _ fun _ can => canonical_holdQueue can ..

theorem stepCanonical_execPacketCancel (q : Nat) : StepCanonical (execPacketCancel q) := .event fun _ can => canonical_takePacket can _ q
    _ fun _ can => canonical_writeStatus (canonical_cancelCounter can _) ..

theorem stepCanonical_execSysResumeRedo (x y : ASrc) : StepCanonical (execSysResumeRedo x y) := .plainA (.bind (opCanonical_resumeWord ..)
    fun _ => opCanonical_settleTsb _ fun _ src e can => canonical_redoEntry can src e)

theorem stepCanonical_execSysResumeDiscard (x y : ASrc) : StepCanonical (execSysResumeDiscard x y) := .plainA (.bind
    (opCanonical_resumeWord ..) fun _ => opCanonical_settleTsb _ fun _ src e can => canonical_discardEntry can src e)

theorem stepCanonical_execSysResumeComplete (x y : ASrc) : StepCanonical (execSysResumeComplete x y) := .plainA (.bind
    (opCanonical_resumeWord ..) fun _ => .bind opCanonical_getSlot fun _ => .bind (.stopSome fun _ => opCanonical_waitFor ..)
    fun _ => opCanonical_settleTsb _ fun _ src e can => canonical_completeEntry can src e _)

theorem stepCanonical_execSysResumeReturn (x y : ASrc) : StepCanonical (execSysResumeReturn x y) := .wordA _ _ (opCanonical_returnOp ..)

theorem stepCanonical_execSysFail (x : ASrc) : StepCanonical (execSysFail x) := .wordA _ _ (opCanonical_failOp ..)

theorem stepCanonical_execSysFpt : StepCanonical execSysFpt := by
  refine .plainA (.modState fun s can => ?_)
  split
  · refine canonical_putHart can ?_ _
    exact memOk_hartOf can (curHart s)
  · exact can

theorem stepCanonical_execInvalidSurveyCommand : StepCanonical execInvalidSurveyCommand := by
  refine .event fun s can => ?_
  grind [canonical_commandStatus, canonical_iff]

theorem stepCanonical_execSetModuleDrain : StepCanonical execSetModuleDrain := .event fun _ can => canonical_command can _ _ fun {s} _ can
    => canonical_refuseDrained (s := { s with drain := true, gzChanged := true }) can

theorem stepCanonical_execClearModuleDrain : StepCanonical execClearModuleDrain := .event fun _ can => canonical_command can _ _ fun _ can
    => can

theorem stepCanonical_execSetPlatDrain : StepCanonical execSetPlatDrain := .event fun _ can => canonical_command can _ _ fun w can =>
    canonical_drainPlat can true w

theorem stepCanonical_execClearPlatDrain : StepCanonical execClearPlatDrain := .event fun _ can => canonical_command can _ _ fun w can =>
    canonical_drainPlat can false w

theorem stepCanonical_execRegisterGrant : StepCanonical execRegisterGrant := .event fun _ can => canonical_command can _ _ fun w can =>
    canonical_registerGrant can w

theorem stepCanonical_execConfigureUserQueue : StepCanonical execConfigureUserQueue := .event fun _ can => canonical_command can _ _ fun w
    can => canonical_configureQueue can w

theorem stepCanonical_execRaiseMinimumSerial : StepCanonical execRaiseMinimumSerial := .event fun _ can => canonical_command can _ _ fun w
    can => canonical_raiseSerial can w

theorem stepCanonical_execPublishSnapshotNow : StepCanonical execPublishSnapshotNow := .event fun _ can => canonical_command can _ _ fun _
    can => canonical_publish can

theorem stepCanonical_execClusterRetire (cluster : Nat) : StepCanonical (execClusterRetire cluster) := by
  refine .event fun s can => ?_
  grind [canonical_retireCluster]

theorem stepCanonical_execGrade4Entry (code : BitVec 16) : StepCanonical (execGrade4Entry code) := by
  refine .event fun s can => ?_
  grind [canonical_enterGrade4]

/-! ## Every instruction and every event -/

theorem StepCanonical.of_exec {i : Instr} {f : State → Host.Outcome State Fault Refusal} (keeps : StepCanonical f)
    (shape : ∀ s, exec i s = f s) : StepCanonical (exec i) := by
  rwa [funext shape]

/-- Each C-word keeps every memory in canonical form: by the shape of its meaning. -/
theorem stepCanonical_of_encodeC {i : Instr} (c : (encodeC i).isSome = true) : StepCanonical (exec i) := by
  cases i
  case ctlNopc => exact stepCanonical_execCtlNopc
  case ctlDone => exact stepCanonical_execCtlDone
  case ctlRet => exact stepCanonical_execCtlRet
  case ctlWait => exact .plainA (opCanonical_waitOp ..)
  case ctlRealign => exact .plainA opCanonical_realignOp
  case ctlCallr => exact stepCanonical_execCtlCallr ..
  case ctlJr => exact stepCanonical_execCtlJr ..
  case brAl => exact stepCanonical_execBrAl ..
  case brZ | brNz | brLz | brGez | brGz | brLez => exact stepCanonical_branchOn ..
  case ctlCall => exact stepCanonical_execCtlCall ..
  case ctlLoop => exact stepCanonical_execCtlLoop ..
  case aluAdd | aluSub | aluAnd | aluOr | aluXor | aluSll | aluSrl | aluSra | aluSlt | aluSltu | aluSeq | aluSne | aluMin | aluMax |
    aluMinu | aluMaxu | aluMul | aluMulh | aluMulhu | aluDiv | aluDivu | aluRem | aluRemu =>
    exact stepCanonical_aluOp ..
  case aluMkm =>
    apply StepCanonical.of_exec (stepCanonical_composeOp ..)
    intro s
    unfold exec
    exact rfl
  case aluMkx => exact stepCanonical_execAluMkx ..
  case aluMks => exact stepCanonical_execAluMks ..
  case aluiAddi | aluiAndi | aluiOri | aluiXori | aluiSlli | aluiSrli | aluiSrai | aluiSlti => exact stepCanonical_aluiOp ..
  case memLd | memLdu => exact .plainA (opCanonical_loadOp ..)
  case memSt => exact stepCanonical_execMemSt ..
  case memExtpage => exact .plainA (opCanonical_extpageOp ..)
  case amoAdd | amoAnd | amoOr | amoXor | amoMax | amoMin | amoMaxu | amoMinu | amoAddw | amoAndw | amoOrw | amoXorw | amoMaxw | amoMinw
    | amoMaxuw | amoMinuw | amoAmax | amoAmaxb =>
    exact .plainA (opCanonical_amoOp ..)
  case amoMaxrd | amoMaxrdb => exact .plainA (opCanonical_maxrdOp ..)
  case orcDecl => exact stepCanonical_execOrcDecl ..
  case orcApp => exact .plainA (opCanonical_orcAppOp ..)
  case orcLdt => exact stepCanonical_execOrcLdt ..
  case orcLds => exact stepCanonical_execOrcLds ..
  case futRd => exact .plainA (opCanonical_futRdOp ..)
  case futRdc => exact .plainA (opCanonical_futRdcOp ..)
  case futWr => exact .plainA (opCanonical_futWrOp ..)
  case futClr => exact .plainA (opCanonical_futClrOp ..)
  case msgSend | msgSendd => exact .plainA (opCanonical_msgSendOp ..)
  case msgReply => exact .plainA (opCanonical_replyOp ..)
  case msgPlyend => exact .plainA opCanonical_plyendOp
  case fenceAll => exact .plainA (opCanonical_fenceOp ..)
  case mxqStep => exact stepCanonical_execMxqStep ..
  case mxqSteps => exact stepCanonical_execMxqSteps ..
  case mxqDrain => exact stepCanonical_execMxqDrain ..
  case mxqPoll | cpqPoll => exact .plainA (opCanonical_pollOp ..)
  case mxqSleep | cpqSleep => exact .plainA (opCanonical_sleepOp ..)
  case mxqReclaim => exact .plainA (opCanonical_reclaimSubmit ..)
  case mxqRcmd => exact stepCanonical_execMxqRcmd ..
  case cpqCopy | cpqAddf | cpqAddb | cpqAddi | cpqFill => exact .plainA (opCanonical_copySubmit ..)
  case cpqBar => exact .plainA (opCanonical_barSubmit ..)
  case cpqRcmd => exact stepCanonical_execCpqRcmd ..
  case sysResumeReturn => exact stepCanonical_execSysResumeReturn ..
  case sysResumeRedo => exact stepCanonical_execSysResumeRedo ..
  case sysResumeDiscard => exact stepCanonical_execSysResumeDiscard ..
  case sysResumeComplete => exact stepCanonical_execSysResumeComplete ..
  case sysChain | sysLaunch => exact .plainA (opCanonical_presentOp ..)
  case sysChmask => exact .plainA (opCanonical_chmaskOp ..)
  case sysCancel => exact .plainA (opCanonical_cancelOp ..)
  case sysDigest => exact .plainA (opCanonical_digestOp ..)
  case sysFail => exact stepCanonical_execSysFail ..
  case sysFpt => exact stepCanonical_execSysFpt
  case sysRdsr => exact .plainA (opCanonical_rdsrOp ..)
  case sysWrsr => exact .plainA (opCanonical_wrsrOp ..)
  case fmtSetA => exact stepCanonical_execFmtSetA ..
  case liSx | liZx => exact .loneA (opCanonical_writeA ..)
  case liHi => exact stepCanonical_execLiHi ..
  case jmplGo => exact stepCanonical_execJmplGo ..
  case jmplCall => exact stepCanonical_execJmplCall ..
  case sendlAct | sendlData => exact .loneA (opCanonical_sendlOp ..)
  all_goals cases c

/-- Each X-word keeps every memory in canonical form. -/
theorem stepCanonical_of_encodeX {i : Instr} (x : (encodeX i).isSome = true) : StepCanonical (exec i) := by
  cases i
  case nopX => exact stepCanonical_execNopX
  case iaAdd | iaSub | iaAnd | iaOr | iaXor | iaSll | iaSrl | iaSra | iaMul | iaMulh | iaMulhu | iaDiv | iaDivu | iaRem | iaRemu | iaMin
    | iaMax | iaMinu | iaMaxu | iaSlt | iaSltu =>
    exact stepCanonical_iaOp ..
  case iaClz | iaCtz | iaPopc | iaiAddi | iaiAndi | iaiOri | iaiXori | iaiSlli | iaiSrli | iaiSrai => exact stepCanonical_iaiOp ..
  case iaSel => exact stepCanonical_execIaSel ..
  case iaAdds | iaSubs => exact stepCanonical_satOp ..
  case iaiLui => exact stepCanonical_execIaiLui ..
  case faAdd | faSub | faMin | faMax => exact stepCanonical_faTwo ..
  case faMul | faRcps | faCeq | faClt | faCle =>
    apply StepCanonical.of_exec (stepCanonical_faTwo ..)
    intro s
    unfold exec
    exact rfl
  case faFma | faFms | faFnma =>
    apply StepCanonical.of_exec (stepCanonical_faThree ..)
    intro s
    unfold exec
    exact rfl
  case faAbs | faNeg | faRcpe | faRsqe | faSqrt | faClass =>
    apply StepCanonical.of_exec (stepCanonical_faOne ..)
    intro s
    unfold exec
    exact rfl
  case cvtEncS | cvtDecS | cvtCnvS | cvtFtiS | cvtItfS => exact stepCanonical_cvtOp ..
  case cvtTblw => exact .wordE _ (opCanonical_tblwOp ..)
  case cvtEncV | cvtDecV | cvtCnvV | cvtFtiV | cvtItfV => exact stepCanonical_cvtVecOp ..
  case cvtPack => exact .wordE _ (opCanonical_packOp ..)
  case cvtUnpk => exact .wordE _ (opCanonical_unpkOp ..)
  case prAnd | prOr | prXor | prAndn => exact stepCanonical_prOp ..
  case prNot => exact stepCanonical_execPrNot ..
  case prSet => exact stepCanonical_execPrSet ..
  case prGet => exact stepCanonical_execPrGet ..
  case prCeq | prCne | prClt | prCle | prCltu | prCleu => exact stepCanonical_prCmp ..
  case prAny | prAll | prPopc => exact stepCanonical_prRead ..
  case vaAdd | vaSub | vaMul | vaMulh | vaAnd | vaOr | vaXor | vaSll | vaSrl | vaSra | vaMin | vaMax | vaMinu | vaMaxu | vfAdd | vfSub |
    vfMin | vfMax =>
    exact stepCanonical_vecTwo ..
  case vaAdds | vaSubs | vaAddus | vaSubus | vfMul =>
    apply StepCanonical.of_exec (stepCanonical_vecTwo ..)
    intro s
    unfold exec
    exact rfl
  case vaAbs | vfAbs | vfNeg | vfRcpe | vxMov =>
    apply StepCanonical.of_exec (stepCanonical_vecOne ..)
    intro s
    unfold exec
    exact rfl
  case vaCeq | vaClt | vaCltu | vfCeq | vfClt | vfCle =>
    apply StepCanonical.of_exec (stepCanonical_vecCmp ..)
    intro s
    unfold exec
    exact rfl
  case vaSel => exact stepCanonical_execVaSel ..
  case vaDot => exact .wordE _ (opCanonical_vaDotOp ..)
  case vaRsum | vaRmin | vaRmax | vfRsum | vfRmin | vfRmax => exact stepCanonical_reduceWord ..
  case vfFma => exact stepCanonical_execVfFma ..
  case vfDot => exact .wordE _ (opCanonical_vfDotOp ..)
  case vxBcast | vxIdx =>
    apply StepCanonical.of_exec (stepCanonical_scalarWord ..)
    intro s
    unfold exec
    exact rfl
  case vxPerm | vxZip | vxUnzip => exact stepCanonical_moveWord ..
  case vxRot => exact stepCanonical_execVxRot ..
  case vxExt => exact stepCanonical_execVxExt ..
  case vxIns => exact stepCanonical_execVxIns ..
  case vxAmax => exact .wordE _ (opCanonical_amaxOp ..)
  case vxScale => exact .wordE _ (opCanonical_scaleOp ..)
  case vxBarq => exact .wordE _ (opCanonical_barqOp ..)
  case fmtSetX => exact stepCanonical_execFmtSetX ..
  all_goals cases x

/-- Each event keeps every memory in canonical form. -/
theorem stepCanonical_of_event {i : Instr} (noWord : encode i = none) : StepCanonical (exec i) := by
  cases i
  case lateFaultDelivery => exact .event fun _ can => canonical_deliverLate can ..
  case codeEndFallthrough => exact .event fun _ can => canonical_fallThrough can ..
  case sideBlockRelease => exact .event fun _ can => canonical_releaseSide can ..
  case slotRelease => exact .event fun _ can => canonical_releaseDone can ..
  case fenceComplete => exact stepCanonical_execFenceComplete ..
  case ctlWaitWake => exact .event fun _ can => canonical_wakeWait can ..
  case realignRelease => exact .event fun _ can => canonical_releaseGroup can ..
  case realignTimeout => exact .event fun _ can => canonical_timeoutRealign can ..
  case sysChainCommit => exact .event fun _ can => canonical_commitChain can ..
  case budgetTick => exact .event fun _ can => canonical_tickBudget can ..
  case budgetExhausted => exact .event fun _ can => canonical_endBudget can ..
  case hangDetected => exact .event fun _ can => canonical_hangPlat can ..
  case activeMessageArrival => exact stepCanonical_execActiveMessageArrival ..
  case dataMessageArrival => exact stepCanonical_execDataMessageArrival ..
  case replyMessageArrival => exact stepCanonical_execReplyMessageArrival ..
  case nackMessageArrival => exact stepCanonical_execNackMessageArrival ..
  case messageResend => exact stepCanonical_execMessageResend ..
  case ownershipRetryTimeout => exact .event fun _ can => canonical_retryTimeout can ..
  case meshLoadArrival => exact stepCanonical_execMeshLoadArrival ..
  case meshStoreArrival => exact stepCanonical_execMeshStoreArrival ..
  case amoArrival => exact stepCanonical_execAmoArrival ..
  case coalesceFlushTimer => exact .event fun _ can => canonical_flushTimer can ..
  case futureReadArrival => exact stepCanonical_execFutureReadArrival ..
  case futureWriteArrival => exact stepCanonical_execFutureWriteArrival ..
  case futureClearArrival => exact stepCanonical_execFutureClearArrival ..
  case orcDeclArrival => exact stepCanonical_execOrcDeclArrival ..
  case orcAppendArrival => exact stepCanonical_execOrcAppendArrival ..
  case orcTentativeLoadArrival => exact stepCanonical_execOrcTentativeLoadArrival ..
  case orcSettledLoadArrival => exact stepCanonical_execOrcSettledLoadArrival ..
  case orcRetryBudgetExhausted => exact stepCanonical_execOrcRetryBudgetExhausted ..
  case sequenceWatermarkAdvance => exact stepCanonical_execSequenceWatermarkAdvance ..
  case plyBarrierComplete => exact stepCanonical_execPlyBarrierComplete ..
  case kickRegisterStore => exact stepCanonical_execKickRegisterStore ..
  case engineJobAccept => exact .event fun _ can => canonical_acceptRequest can ..
  case remoteCommandArrival => exact stepCanonical_execRemoteCommandArrival ..
  case mxeStepJob => exact .event fun _ can => canonical_stepJob can ..
  case carryStallResume => exact .event fun _ can => canonical_resumeStall can ..
  case mxeDrainJob => exact .event fun _ can => canonical_drainJob can ..
  case mxeReclaimJob => exact .event fun _ can => canonical_reclaimJob can ..
  case engineCompletionReport => exact .event fun _ can => canonical_completeJob can ..
  case cpeCopyJob => exact stepCanonical_execCpeCopyJob ..
  case cpeReduceJob => exact stepCanonical_execCpeReduceJob ..
  case cpeFillJob => exact stepCanonical_execCpeFillJob ..
  case cpeBarrierJob => exact stepCanonical_execCpeBarrierJob ..
  case sequencedReduceArrival => exact stepCanonical_execSequencedReduceArrival ..
  case storerWriteAck => exact stepCanonical_execStorerWriteAck ..
  case uqwiNotify => exact stepCanonical_execUqwiNotify ..
  case packetNop => exact stepCanonical_execPacketNop ..
  case packetLaunch => exact stepCanonical_execPacketLaunch ..
  case packetCounterWait => exact stepCanonical_execPacketCounterWait ..
  case counterWaitRelease => exact .event fun _ can => canonical_releaseWait can ..
  case packetCancel => exact stepCanonical_execPacketCancel ..
  case placement => exact .event fun _ can => canonical_placeWaiting can ..
  case extentLoading => exact .event fun _ can => canonical_loadExtents can ..
  case launchComplete => exact .event fun _ can => canonical_completePlat can ..
  case platZeroingComplete => exact .event fun _ can => canonical_zeroed can ..
  case preemptionRequest => exact .event fun _ can => canonical_requestPreemption can ..
  case preemptionSpill => exact .event fun _ can => canonical_spillPlat can ..
  case residueRestore => exact .event fun _ can => canonical_restorePlat can ..
  case uncorrectableErrorConsumed => exact .event fun _ can => canonical_errorAt can ..
  case correctableError => exact .event fun _ can => can
  case fenceSelftestComplete => exact .event fun _ can => canonical_endSelftest can ..
  case pageRetirement => exact .event fun _ can => canonical_retirePage can ..
  case extentZeroingRequest => exact .event fun _ can => canonical_zeroExtent can ..
  case agreementPoint => exact .event fun _ can => canonical_comparePair can ..
  case pairSelftestComplete => exact .event fun _ can => canonical_endPairTest can ..
  case digestCompare => exact .event fun _ can => canonical_compareDigests can ..
  case linkFlitArrival => exact .event fun _ can => canonical_receiveFlit can ..
  case exchangeTick => exact .event fun _ can => canonical_tickPort can ..
  case linkDown => exact .event fun _ can => canonical_takeDown can ..
  case collectiveTimeout => exact stepCanonical_execCollectiveTimeout ..
  case alignmentRestore => exact .event fun _ can => canonical_restoreAlignment can ..
  case regimeChange => exact stepCanonical_execRegimeChange ..
  case setModuleDrain => exact stepCanonical_execSetModuleDrain
  case clearModuleDrain => exact stepCanonical_execClearModuleDrain
  case setPlatDrain => exact stepCanonical_execSetPlatDrain
  case clearPlatDrain => exact stepCanonical_execClearPlatDrain
  case publishSnapshotNow => exact stepCanonical_execPublishSnapshotNow
  case registerGrant => exact stepCanonical_execRegisterGrant
  case configureUserQueue => exact stepCanonical_execConfigureUserQueue
  case raiseMinimumSerial => exact stepCanonical_execRaiseMinimumSerial
  case invalidSurveyCommand => exact stepCanonical_execInvalidSurveyCommand
  case hostRegisterWrite => exact .event fun _ can => canonical_writeHostRegister can ..
  case gazetteerPublish => exact .event fun _ can => canonical_publish can
  case platDefine => exact .event fun _ can => canonical_definePlat can ..
  case clusterRetire => exact stepCanonical_execClusterRetire ..
  case grade4Entry => exact stepCanonical_execGrade4Entry ..
  case moduleBoot => exact .event fun _ can => canonical_boot can
  case cancelledLaunchEnd => exact .event fun _ can => canonical_endCancelled can ..
  case fullSelftestComplete => exact .event fun _ can => canonical_endFullTest can ..
  case extentLoadDataReturn => exact stepCanonical_execExtentLoadDataReturn ..
  case sendAcceptance => exact stepCanonical_execSendAcceptance ..
  all_goals cases noWord

/-- Each instruction keeps every memory in canonical form. -/
theorem stepCanonical_exec (i : Instr) : StepCanonical (exec i) := by
  cases c : encodeC i with
  | some w => exact stepCanonical_of_encodeC (Option.isSome_of_eq_some c)
  | none =>
    cases x : encodeX i with
    | some w => exact stepCanonical_of_encodeX (Option.isSome_of_eq_some x)
    | none => exact stepCanonical_of_event (by simp [encode, c, x])

/-! ## The step (log 2) -/

theorem stepCanonical_next : StepCanonical (Host.Outcome.next : State → Host.Outcome State Fault Refusal) :=
  .event (f := id) fun _ can => can

theorem stepCanonical_runWord (side : Side) (d : Dec Instr) : StepCanonical (runWord side d) := by
  cases d with
  | ok i => exact stepCanonical_exec i
  | error f => exact .event fun _ can => canonical_illegalWord can side (decodeFaultInfo f)

theorem stepCanonical_stepSideA : StepCanonical stepSideA := by
  refine ⟨fun s t can next => ?_⟩
  unfold stepSideA at next
  split at next
  · split at next
    · exact (stepCanonical_exec _).keeps s t can next
    · exact (stepCanonical_runWord ..).keeps s t can next
  · exact (stepCanonical_exec _).keeps s t can next

theorem stepCanonical_stepSideE : StepCanonical stepSideE := by
  refine ⟨fun s t can next => ?_⟩
  unfold stepSideE at next
  split at next
  · exact (stepCanonical_runWord ..).keeps s t can next
  · exact stepCanonical_next.keeps s t can next

theorem stepCanonical_stepSide : StepCanonical stepSide := by
  refine ⟨fun s t can next => ?_⟩
  unfold stepSide at next
  split at next
  · split at next
    · exact stepCanonical_stepSideA.keeps s t can next
    · exact stepCanonical_stepSideE.keeps s t can next
  · exact stepCanonical_next.keeps s t can next

theorem canonical_changeOrdering {s : State} (can : Canonical s) (p h : Nat) (flows : Bool) : Canonical (changeOrdering p h flows s) := by
  unfold changeOrdering
  grind [canonical_fallBack, canonical_restoreAlignment]

theorem canonical_undefine {s : State} (can : Canonical s) (p : Nat) : Canonical (undefine p s) := by
  unfold undefine
  extract_lets P
  split
  · exact canonical_putPlat (s := { s with gzChanged := true }) can ..
  · exact can

theorem canonical_runFirmware {s : State} (can : Canonical s) (f : Firmware) : Canonical (runFirmware f s) := by
  cases f with
  | core k c => exact can
  | flash a bs =>
    obtain ⟨hbm, host, flash, measured, cores⟩ := (canonical_iff s).mp can
    unfold runFirmware
    dsimp only
    split
    · exact (canonical_iff _).mpr ⟨hbm, host, Memory.wf_writeBytes _ _ _ flash, measured, cores⟩
    · exact can
  | reserved a bs =>
    unfold runFirmware
    dsimp only
    split
    · exact canonical_hbmWrite can ..
    · exact can
  | ordering p h flows => exact canonical_changeOrdering can p h flows
  | replica bound => exact can
  | undefine p => exact canonical_undefine can p

theorem stepCanonical_takeTurn (turn : Turn) : StepCanonical (takeTurn turn) := by
  cases turn with
  | word h n side => exact ⟨fun s t can next => stepCanonical_stepSide.keeps { s with cur := (h, n, side) } t can next⟩
  | event i => exact stepCanonical_exec i
  | firmware f => exact .event fun _ can => canonical_runFirmware can f
  | transmit port flow ftype cells blen dmod body => exact .event fun _ can => canonical_transmit can ..
  | pass n => exact .event fun _ can => can

theorem canonical_settleTurn {s : State} (can : Canonical s) : Canonical (settleTurn s) :=
  canonical_watchIdle (canonical_settlePorts (canonical_passTime can))

/-- What follows an outcome keeps every memory in canonical form where the outcome and what follows it do. -/
theorem StepCanonical.onNext {g : State → State} {f : State → Host.Outcome State Fault Refusal} (keeps : StepCanonical f)
    (after : ∀ s, Canonical s → Canonical (g s)) : StepCanonical (fun s => onNext g (f s)) := by
  refine ⟨fun s t can next => ?_⟩
  cases run : f s with
  | next u =>
    rw [run] at next
    obtain rfl := Host.Outcome.next.inj next
    exact after u (keeps.keeps s u can run)
  | fault e =>
    rw [run] at next
    nomatch next
  | refused r =>
    rw [run] at next
    nomatch next

theorem stepCanonical_defaultTurn : StepCanonical defaultTurn :=
  .onNext stepCanonical_stepSide fun _ can => can

theorem stepCanonical_step : StepCanonical step := by
  refine .onNext (f := fun s => match s.agenda with
     | [] => defaultTurn s
     | t :: ts => takeTurn t { s with agenda := ts }) ⟨fun s t can next => ?_⟩ fun _ can => canonical_settleTurn can
  split at next
  · exact stepCanonical_defaultTurn.keeps s t can next
  next turn rest _ => exact (stepCanonical_takeTurn turn).keeps { s with agenda := rest } t can next

/-- Settles O60: every operation of a step keeps the memories in canonical form, since each changes them by Memory's own writes alone. -/
theorem memoriesStayCanonical : Obligations.MemoriesStayCanonical := by
  unfold Obligations.MemoriesStayCanonical
  exact fun s t can next => stepCanonical_step.keeps s t can next

end Sys2Proof.Machine
end

section
/-! SUPPORT. Pointer checks (spec/02 R43, spec/14 R243): a failing check ends the word, and which check of a pointer fails first. -/

namespace Sys2Proof.Machine

open Sys2Proof.Claims

/-! ## A failing check ends a word with its fault -/

section
variable {s s1 s2 : State} {x y : ASrc} {d : ADst} {b v : Word} {n : Nat} {szc : BitVec 12} {f : FaultInfo}

theorem checked_error {p : Word} {store release mem : Bool} (bad : checkPointer s p n szc store release mem = .error f) :
    checked p n szc store release mem s = .error (.trap f none) := by
  unfold checked
  rw [bad]

theorem loadOp_trap {sz : Size} {off : BitVec 7} (signed : Bool) (ord : Ord) (sc : Scope) (ex : readA x s = .ok (b, s1))
    (bad : checkPointer s1 (memPtr b off sz) (sizeBytes sz) (sizeCode sz) false false true = .error f) :
    loadOp signed d x sz ord sc off s = .error (.trap f none) := by
  unfold loadOp
  rw [bind_ok ex]
  exact bind_error (checked_error bad)

theorem storeKind_isRelease (ord : Ord) : (storeKind ord == .stR) = (ord == .rel || ord == .sc) := by cases ord <;> rfl

theorem storeOp_trap {sz : Size} {off : BitVec 7} {ord : Ord} (kick : Engine → ASrc → OpDesc → Op Unit) (sc : Scope)
    (ex : readA x s = .ok (b, s1))
    (bad : checkPointer s1 (memPtr b off sz) (sizeBytes sz) (sizeCode sz) true (ord == .rel || ord == .sc) true = .error f) :
    storeOp kick y x sz ord sc off s = .error (.trap f none) := by
  rw [← storeKind_isRelease] at bad
  unfold storeOp
  rw [bind_ok ex]
  exact bind_error (checked_error bad)

theorem amoOp_trap {op : AmoOp} (ord : Ord) (sc : Scope) (ex : readA x s = .ok (b, s1)) (ey : readA y s1 = .ok (v, s2))
    (bad : checkPointer s2 b (amoSize op) (elemCode (amoSize op)) true false false = .error f) :
    amoOp op d x y ord sc s = .error (.trap f none) := by
  unfold amoOp
  rw [bind_ok ex, bind_ok ey]
  exact bind_error (checked_error bad)

end

/-- The atomics of the table are one operation each, of the size the table gives. -/
theorem exec_amoTable {p : (ADst → ASrc → ASrc → Ord → Scope → Instr) × AmoOp × Nat} (mem : p ∈ amoTable) (d : ADst) (x y : ASrc)
    (ord : Ord) (sc : Scope) (s : State) :
    exec (p.1 d x y ord sc) s = plainA (amoOp p.2.1 d x y ord sc) s ∧ amoSize p.2.1 = p.2.2 := by
  simp only [amoTable, List.mem_cons, List.not_mem_nil, or_false] at mem
  rcases mem with rfl | rfl | rfl | rfl | rfl | rfl | rfl | rfl | rfl | rfl | rfl | rfl | rfl | rfl | rfl | rfl <;>
    exact ⟨rfl, rfl⟩

theorem exec_loadTable {p : (ADst → ASrc → Size → Ord → Scope → BitVec 7 → Instr) × Bool} (mem : p ∈ loadTable) (d : ADst) (x : ASrc)
    (sz : Size) (ord : Ord) (sc : Scope) (off : BitVec 7) (s : State) :
    exec (p.1 d x sz ord sc off) s = plainA (loadOp p.2 d x sz ord sc off) s := by
  simp only [loadTable, List.mem_cons, List.not_mem_nil, or_false] at mem
  rcases mem with rfl | rfl <;> rfl

/-! ## The first check that fails (R243) -/

section
variable {s : State} {p : Word} {n : Nat} (szc : BitVec 12) {store : Bool} (release mem : Bool)

theorem checkPointer_space (no : mayUse (curHart s) (spaceOf p) = false ∨ mem = false ∧ ¬ spaceOf p < 4) :
    checkPointer s p n szc store release mem = .error ⟨codeSpace, BitVec.ofNat 12 (spaceOf p), p⟩ := by
  have refused : (!(mayUse (curHart s) (spaceOf p) && (mem || decide (spaceOf p < 4)))) = true := by
    rcases no with no | ⟨rfl, far⟩
    · simp [no]
    · simp [far]
  unfold checkPointer
  exact if_pos refused

theorem mayUse_reserved (h : Nat) {sp : Nat} (reserved : sp = 3 ∨ sp = 5 ∨ 7 ≤ sp) : mayUse h sp = false := by
  have fits : sp ≠ 0 ∧ sp ≠ 1 ∧ sp ≠ 2 ∧ sp ≠ 4 ∧ sp ≠ 6 := by omega
  simp [mayUse, fits]

theorem spaceOf_small (small : p.toNat < 2 ^ 18) : spaceOf p = 0 := Nat.div_eq_of_lt (by omega)
theorem offOf_small (small : p.toNat < 2 ^ 18) : offOf p = p.toNat := Nat.mod_eq_of_lt small

/-- A pointer below the size of a scratchpad names the own one: its checks are those of alignment, extent and ring. -/
theorem checkPointer_small (small : p.toNat < 2 ^ 18) : checkPointer s p n szc store release mem =
    if p.toNat % n ≠ 0 then .error ⟨codeAlign, szc, p⟩
    else if ownBytes (curHart s) < p.toNat + n then .error ⟨codeBounds, 0x0b0, p⟩
    else if (curTouchesRing s p.toNat n || (store && curTouchesLinks s p.toNat n)) = true then .error ⟨codeBounds, 0x0b3, p⟩
    else .ok (.own p.toNat) := by
  have space := spaceOf_small small
  have reserved : reservedZero p = true := by
    have low : p.toNat % 2 ^ 60 / 2 ^ 18 = 0 := by omega
    simp only [reservedZero, space, low, beq_self_eq_true]
  unfold checkPointer
  simp [space, mayUse, reserved, ptrOff, offOf_small small, pfault]

end

/-- Settles O19: loads, stores and atomics check their pointer before they do anything, and the checks stand in the order of R243. -/
theorem pointerChecks : Obligations.PointerChecks := by
  unfold Obligations.PointerChecks
  refine ⟨fun p mem d base sz ord sc off s s1 b f ready ex bad => ?_, fun d base sz ord sc off s s1 b f ready ex bad => ?_,
    fun p mem d x y ord sc s s1 s2 b v f ready ex ey bad => ?_, fun s p n szc store release mem _ => ⟨fun far word => ?_, fun reserved =>
        ?_,
      fun small odd => ?_, fun small even beyond => ?_, fun small even fits ring => ?_, fun small even fits ring links => ?_⟩⟩
  · rw [exec_loadTable mem]
    exact plainA_trap ready (loadOp_trap p.2 ord sc ex bad)
  · exact plainA_trap ready (storeOp_trap kickStoreOp sc ex bad)
  · obtain ⟨runs, size⟩ := exec_amoTable mem d x y ord sc s
    rw [← size] at bad
    rw [runs]
    exact plainA_trap ready (amoOp_trap ord sc ex ey bad)
  · rcases Nat.lt_or_ge (spaceOf p) 4 with low | high
    · exact checkPointer_space _ _ _ (.inl (mayUse_reserved _ (by omega)))
    · exact checkPointer_space _ _ _ (.inr ⟨word, by omega⟩)
  · exact checkPointer_space _ _ _ (.inl (mayUse_reserved _ reserved))
  · rw [checkPointer_small _ _ _ small, if_pos odd]
  · rw [checkPointer_small _ _ _ small, if_neg (not_not_intro even), if_pos beyond]
  · rw [checkPointer_small _ _ _ small, if_neg (not_not_intro even), if_neg (Nat.not_lt.mpr fits), if_pos (by simp [ring])]
  · have clear : ¬ (curTouchesRing s p.toNat n || (store && curTouchesLinks s p.toNat n)) = true := by
      cases store with
      | false => simp [ring]
      | true => simp [ring, links rfl]
    rw [checkPointer_small _ _ _ small, if_neg (not_not_intro even), if_neg (Nat.not_lt.mpr fits), if_neg clear]

end Sys2Proof.Machine
end

section
/-! SUPPORT. Atomics on other cores, the combining copies and the amax partials (spec/03 R53, spec/05 R78, spec/06 R103, spec/14 R247
R248). -/

namespace Sys2Proof.Machine

open Sys2Proof.Claims

/-! ## Lines of the L1 after an update -/

theorem Hart.line_putLine_same (H : Hart) (k : Nat) {l : L1Line} (filled : l ≠ L1Line.reset) : (H.putLine k l).line k = l := by
  unfold Hart.line Hart.putLine
  dsimp only
  rw [if_neg filled]
  exact SMap.getD_set_same ..

theorem L1Line.ne_reset_of_ucls {l : L1Line} {op : AmoOp} (combines : l.ucls = some op) : l ≠ L1Line.reset := by
  rintro rfl
  nomatch combines

/-! ## What making room for a copy, and recalling copies, leaves alone (R53, R54) -/

theorem slotsKept_recallWhere (chosen : AmoOp → Bool) (s : State) (L home off : Nat) : SlotsKept s (recallWhere chosen s L home off) := by
  unfold recallWhere
  extract_lets k ls drop
  split
  · exact .refl s
  · refine SlotsKept.trans ?_ (slotsKept_modHome _ L home _)
    have map : s.harts.map drop = s.harts.map fun x => (x.1,
        if (x.2.line k).ucls.any chosen && x.2.hasCtx L then x.2.putLine k (x.2.line k).dropU else x.2) := by
      refine List.map_congr_left fun x _ => ?_
      dsimp only [drop]
      split <;> rfl
    rw [map]
    exact slotsKept_mapHarts s _ fun x => by split <;> rfl

theorem slotsKept_foldl {α : Type} {f : State → α → State} (h : ∀ s a, SlotsKept s (f s a)) (xs : List α) (s : State) :
    SlotsKept s (xs.foldl f s) :=
  List.foldlRecOn xs f (.refl s) fun _ kept a _ => kept.trans (h _ a)

theorem slotsKept_flushLine (L h k : Nat) (s : State) : SlotsKept s (flushLine L h k s) := by
  unfold flushLine
  extract_lets H l home prior src it t
  split
  · exact .refl s
  · have put : SlotsKept s t := slotsKept_putHart s h _ rfl
    exact put.trans ⟨rfl, rfl, fun _ _ => rfl⟩

theorem slotsKept_evictL1 (L h : Nat) (s : State) (k : Nat) : SlotsKept s (evictL1 L h s k) := by
  unfold evictL1
  extract_lets t l u
  have flushed : SlotsKept s t := slotsKept_flushLine L h k s
  have recalled : SlotsKept t u := by
    unfold u
    split
    · exact slotsKept_modHome ..
    · exact .refl t
  exact (flushed.trans recalled).trans (slotsKept_putHart u h _ (putLine_slots ..))

theorem slotsKept_putCluster (s : State) (c : Nat) (C : Cluster) : SlotsKept s (putCluster s c C) :=
  ⟨rfl, rfl, fun _ _ => rfl⟩

theorem slotsKept_evictL2 (L c k : Nat) (s : State) : SlotsKept s (evictL2 L c k s) := by
  unfold evictL2
  extract_lets ks t
  have evicted : SlotsKept s t := slotsKept_foldl (fun u h => slotsKept_foldl (slotsKept_evictL1 L h) _ u) _ s
  exact evicted.trans (slotsKept_putCluster t c _)

theorem slotsKept_l2Alloc (L c k : Nat) (s : State) : SlotsKept s (l2Alloc L c k s) := by
  unfold l2Alloc
  extract_lets C same t
  split
  · exact .refl s
  · refine SlotsKept.trans ?_ (slotsKept_putCluster t c _)
    unfold t
    split
    · exact .refl s
    split
    · exact SlotsKept.trans (t := { s with fresh := s.fresh + 1 }) ⟨rfl, rfl, fun _ _ => rfl⟩ (slotsKept_evictL2 ..)
    · exact .refl s

theorem slotsKept_l1Alloc (L h k : Nat) (s : State) : SlotsKept s (l1Alloc L h k s) := by
  unfold l1Alloc
  extract_lets c t H same
  have made : SlotsKept s t := by
    unfold t
    split
    · exact .refl s
    · exact slotsKept_l2Alloc ..
  split
  · exact made
  split
  · exact made.trans (SlotsKept.trans (t := { t with fresh := t.fresh + 1 }) ⟨rfl, rfl, fun _ _ => rfl⟩ (slotsKept_evictL1 ..))
  · exact made

/-! ## What going on in order leaves of contexts and launches -/

theorem ctxs_inOrder {d : OpDesc} {s t : State} (e : inOrder d s = .ok ((), t)) (h : Nat) : (hartOf t h).ctxs = (hartOf s h).ctxs := by
  obtain ⟨ids, gs, rfl⟩ := inOrder_ok e
  exact ctxs_makeSure s (curHart s) ids h

theorem ctxs_flushLine (L h k : Nat) (s : State) (j : Nat) : (hartOf (flushLine L h k s) j).ctxs = (hartOf s j).ctxs := by
  unfold flushLine
  extract_lets H l home prior src it t
  split
  · rfl
  · exact hartOf_putHart_keeps (s := s) (·.ctxs) (by rfl) j

theorem ctxs_flushScope (L h : Nat) (sc : Scope) (s : State) (j : Nat) : (hartOf (flushScope L h sc s) j).ctxs = (hartOf s j).ctxs :=
  List.foldlRecOn (motive := fun t => (hartOf t j).ctxs = (hartOf s j).ctxs) _ _ rfl
    fun t same (x : Nat × L1Line) _ => (ctxs_flushLine L h x.1 t j).trans same

theorem ctxs_releasePush (L h : Nat) (d : OpDesc) (s : State) (j : Nat) : (hartOf (releasePush L h d s) j).ctxs = (hartOf s j).ctxs := by
  unfold releasePush
  split
  · exact ctxs_flushScope L h d.scope s j
  · rfl

theorem slotsKept_releasePush (L h : Nat) (d : OpDesc) (s : State) : SlotsKept s (releasePush L h d s) := by
  unfold releasePush
  split
  · exact slotsKept_foldl (fun t (x : Nat × L1Line) => slotsKept_flushLine L h x.1 t) _ s
  · exact .refl s

/-- What the current core pushes on before an access that it has put in order (R54). -/
def pushedFor (d : OpDesc) (s : State) : State := releasePush (curLaunch s) (curHart s) d s

section
variable {d : OpDesc} {s t : State}

theorem inOrder_pushed (e : inOrder d s = .ok ((), t)) : SlotsKept s (pushedFor d t) :=
  (inOrder_slotsKept e).trans (slotsKept_releasePush ..)

theorem ctxOf_inOrder_pushed (e : inOrder d s = .ok ((), t)) (h L : Nat) : ctxOf (pushedFor d t) h L = ctxOf s h L :=
  ctxOf_congr ((ctxs_releasePush _ _ d t h).trans (ctxs_inOrder e h)) L

theorem pushedFor_eq (e : inOrder d s = .ok ((), t)) : pushedFor d t = releasePush (curLaunch s) (curHart s) d t := by
  have kept := inOrder_slotsKept e
  rw [pushedFor, kept.curLaunch, kept.curHart]

theorem homeRefuses_inOrder_pushed (e : inOrder d s = .ok ((), t)) (L home off n : Nat) (p : Word) :
    homeRefuses (pushedFor d t) L home off n p = homeRefuses s L home off n p := by
  have launch : launchOf (pushedFor d t) L = launchOf s L := by simp only [launchOf, (inOrder_pushed e).2.1]
  unfold homeRefuses regionRefused
  rw [launch, ctxOf_inOrder_pushed e]

end

theorem curCtx_of_slotsKept {s t : State} (kept : SlotsKept s t) : curCtx t = ctxOf t (curHart s) (curLaunch s) := by
  rw [curCtx, kept.curHart, kept.curLaunch]

theorem curCtx_endA (t : State) : curCtx (endA false t) = curCtx t := by
  have r := endA_retires t
  have launch : curLaunch (endA false t) = curLaunch t := by rw [curLaunch, r.slot]; rfl
  rw [curCtx, launch, r.curHart, r.ctx]
  rfl

/-! ## A word that goes on to the next bundle -/

section
variable {i : Instr} {s s1 t : State} {op : NetOp} {it : NetItem}

/-- A word whose operands were read in s1, and which leaves the slots alone after that, goes on to the next bundle. -/
theorem pc_endA (alone : (curSlot s).paired = false) (r : Read s s1) (kept : SlotsKept s1 t) :
    (curSlot (endA false t)).pc = (curSlot s).pc + 1 := by
  have single : (curSlot t).paired = false := by rw [kept.curSlot, r.paired, alone]
  rw [endA_unpaired single, curSlot_putCur, kept.curSlot]
  simp only [Slot.retireA]
  rw [r.slot]

theorem sends_of {buffer : Bool} (run : exec i s = .next (endA false t)) (alone : (curSlot s).paired = false) (r : Read s s1)
    (g : Issues 0 s1 t) (sent : Sent s1 t op it) : Sends i s s1 op buffer := by
  obtain ⟨v, -, pc, wait, a, e, -⟩ := retires_next alone r g
  refine ⟨endA false t, it, run, sent.op, sent.src.trans r.curIssuer, sent.id, ?_, pc, wait, a, e, v ▸ g.sameMemory _⟩
  rw [if_neg (by simp [alone]), v, putCur_net]
  exact sent.net

end

/-! ## Atomics on another core (R103, R247) -/

section
variable {s s1 s2 s3 t : State} {op : AmoOp} {d : ADst} {x y : ASrc} {ord : Ord} {sc : Scope} {b v : Word} {home o : Nat} {cached : Bool}

theorem checked_ok {p : Word} {n : Nat} {szc : BitVec 12} {store release mem : Bool} {tgt : Target}
    (ok : checkPointer s p n szc store release mem = .ok tgt) : checked p n szc store release mem s = .ok (tgt, s) := by
  unfold checked
  rw [ok]

/-- The operand reads and the check of an atomic's pointer. -/
structure AmoReads (op : AmoOp) (x y : ASrc) (s s1 s2 : State) (b v : Word) (tgt : Target) : Prop where
  alone : (curSlot s).paired = false
  pointer : readA x s = .ok (b, s1)
  operand : readA y s1 = .ok (v, s2)
  target : checkPointer s2 b (amoSize op) (elemCode (amoSize op)) true false false = .ok tgt

namespace AmoReads

variable {tgt : Target} (r : AmoReads op x y s s1 s2 b v tgt)
include r

theorem read : Read s s2 := (Read.of_readA r.pointer).trans (Read.of_readA r.operand)
theorem single : (curSlot s2).paired = false := r.read.paired.trans r.alone

end AmoReads

/-- An atomic with a return is sent, and its entry holds the destination. -/
theorem amoOp_sent (r : AmoReads op x y s s1 s2 b v (.mesh home o cached)) (some' : d ≠ .z) (takes : Takes (curSlot s2) d)
    (room : (curSlot s2).sb.length < 16) :
    ∃ it t e, amoOp op d x y ord sc s = .ok ((), t) ∧ Sent s2 t (.amo b op v (curCtx s2).ply) it ∧ Issues 0 s2 t ∧
      e ∈ (curSlot t).sb ∧ e.item = some it ∧ e.refused = false ∧ e.dst = some d ∧ e.kind = 2 := by
  obtain ⟨it, u, issued, sent, goes, slot⟩ :=
    issue_ok false (.amo b op v (curCtx s2).ply) (amoDesc s2 ord sc home o (amoSize op) (spaceOf b)) r.single
  obtain ⟨t, e, added, goes', mem, item, kept, dst, kind⟩ := addPending_ok 2 b it (slot ▸ takes) (slot ▸ room)
  refine ⟨it, t, e, ?_, sent.mono goes', goes.trans goes', mem, item, kept, dst, kind⟩
  unfold amoOp
  rw [bind_ok r.pointer, bind_ok r.operand, bind_ok (checked_ok r.target), bind_ok (noteResult_unpaired r.single), get_bind]
  dsimp only
  rw [if_neg some', bind_ok (agreeFirst_ok (.inl r.single)), bind_ok issued]
  exact added

/-- An atomic without return is sent where its core's L1 does not combine it. -/
theorem amoOp_posted (r : AmoReads op x y s s1 s2 b v (.mesh home o cached))
    (away : (cached && !(curSlot s2).paired && owned s2 (curLaunch s2) home) = false) :
    ∃ it t, amoOp op .z x y ord sc s = .ok ((), t) ∧ Sent s2 t (.amo b op v (curCtx s2).ply) it ∧ Issues 0 s2 t := by
  obtain ⟨it, u, issued, sent, goes, -⟩ :=
    issue_ok true (.amo b op v (curCtx s2).ply) (amoDesc s2 ord sc home o (amoSize op) (spaceOf b)) r.single
  refine ⟨it, u, ?_, sent, goes⟩
  unfold amoOp
  rw [bind_ok r.pointer, bind_ok r.operand, bind_ok (checked_ok r.target), bind_ok (noteResult_unpaired r.single), get_bind]
  dsimp only
  rw [if_pos rfl, if_neg (by rw [away]; exact Bool.false_ne_true), bind_ok issued]
  rfl

/-! ### Combining in the core's own L1 (R53) -/

/-- Where the home does not refuse it, an atomic is combined: the line is then the core's copy in U of its operation, and no copy in S. -/
theorem combineHere_ok {p : Word} {n : Nat} (fine : homeRefuses s (curLaunch s) home o (amoSize op) p = none) :
    ∃ t, combineHere p home o op n s = .ok ((), t) ∧ SlotsKept s t ∧
      ((hartOf t (curHart s)).line (lineKey home o)).ucls = some op ∧
      ((hartOf t (curHart s)).line (lineKey home o)).shared = none := by
  unfold combineHere modState
  dsimp only
  simp only [fine]
  have combined : ∀ (u : State) (l : L1Line), l.ucls = some op →
      (hartOf (putHart u (curHart s) ((hartOf u (curHart s)).putLine (lineKey home o) l)) (curHart s)).line (lineKey home o) = l := by
    intro u l combines
    rw [hartOf_putHart_same, Hart.line_putLine_same _ _ (L1Line.ne_reset_of_ucls combines)]
  refine ⟨_, rfl, ?_, by rw [combined _ _ rfl]; rfl, by rw [combined _ _ rfl]; rfl⟩
  refine SlotsKept.trans ?_ (slotsKept_putHart _ _ _ rfl)
  split
  · exact .refl s
  · exact ((slotsKept_recallWhere ..).trans (slotsKept_invalidate ..)).trans (slotsKept_l1Alloc ..)

theorem amoOp_combined (r : AmoReads op x y s s1 s2 b v (.mesh home o true)) (own : owned s2 (curLaunch s2) home = true)
    (order : inOrder (amoDesc s2 ord sc home o (amoSize op) (spaceOf b)) s2 = .ok ((), s3))
    (fine : homeRefuses s2 (curLaunch s2) home o (amoSize op) b = none) :
    ∃ t, amoOp op .z x y ord sc s = .ok ((), t) ∧ SlotsKept s2 t ∧
      ((hartOf t (curHart s2)).line (lineKey home o)).ucls = some op ∧
      ((hartOf t (curHart s2)).line (lineKey home o)).shared = none := by
  have kept := inOrder_pushed order
  rw [← homeRefuses_inOrder_pushed order, ← kept.curLaunch] at fine
  obtain ⟨t, combined, after, ucls, shared⟩ := combineHere_ok (n := v.toNat) fine
  rw [kept.curHart] at ucls shared
  refine ⟨t, ?_, kept.trans after, ucls, shared⟩
  unfold amoOp
  rw [bind_ok r.pointer, bind_ok r.operand, bind_ok (checked_ok r.target), bind_ok (noteResult_unpaired r.single), get_bind]
  dsimp only
  rw [if_pos rfl, if_pos (by rw [r.single, own]; rfl), bind_ok order, modState_bind]
  exact combined

end

/-! ## The amax partials and the element read and reset (R78, R248) -/

theorem placeAmax_now {c : Ctx} {off n : Nat} {op : AmoOp} {ply : BitVec 16} (now : ply = c.ply) :
    placeAmax c off op n ply = some { c with
      amaxOpen := SMap.modify c.amaxOpen (openKey op off) 0 fun x => BitVec.ofNat 64 (amoApply op x.toNat n) } := by
  unfold placeAmax
  exact if_pos now

theorem placeAmax_launch {c d : Ctx} {off n : Nat} {op : AmoOp} {ply : BitVec 16} (placed : placeAmax c off op n ply = some d) :
    d.launch = c.launch := by
  unfold placeAmax at placed
  dsimp only at placed
  split at placed
  · cases placed
    rfl
  split at placed
  · cases placed
    rfl
  · cases placed

/-- What placing an amax leaves, or the context as it was where its ply is still to come. -/
def placedAmax (off : Nat) (op : AmoOp) (n : Nat) (ply : BitVec 16) (c : Ctx) : Ctx := (placeAmax c off op n ply).getD c

theorem placedAmax_launch (off : Nat) (op : AmoOp) (n : Nat) (ply : BitVec 16) (c : Ctx) : (placedAmax off op n ply c).launch = c.launch
    := by
  unfold placedAmax
  cases placed : placeAmax c off op n ply with
  | none => rfl
  | some d => exact placeAmax_launch placed

/-- An amax of the open ply at its home: the copies in U are recalled, and it is placed there. -/
theorem amoAtHome_amax {s : State} {L home off n : Nat} {op : AmoOp} {ply : BitVec 16} (amax : isAmax op = true)
    (now : ply = (ctxOf s home L).ply) :
    let r := recallU s L home off
    amoAtHome s L home off op n ply = some (Memory.readN (ctxOf r home L).scratch off (amoSize op),
      invalidateHome (modHome r L home (placedAmax off op n ply)) L home off) := by
  have same : (ctxOf (recallU s L home off) home L).ply = (ctxOf s home L).ply := by rw [ctxOf_recallU_sameCells s L home off]
  unfold amoAtHome
  dsimp only
  rw [if_pos amax, placeAmax_now (now.trans same.symm)]
  rfl

theorem ctxOf_changed {s : State} {L home off : Nat} {f : Ctx → Ctx} (l : ∀ c, (f c).launch = c.launch) :
    ctxOf (invalidateHome (modHome s L home f) L home off) home L = f (ctxOf s home L) := by
  rw [ctxOf_invalidateHome, ctxOf_modHome l]

theorem slotsKept_invalidateHome (s : State) (L home off : Nat) : SlotsKept s (invalidateHome s L home off) := by
  unfold invalidateHome
  split
  · exact (slotsKept_invalidate ..).trans (slotsKept_invalidate ..)
  · exact slotsKept_invalidate ..

section
variable {s s1 s2 s3 : State} {op : AmoOp} {x y : ASrc} {ord : Ord} {sc : Scope} {b v : Word} {o : Nat}

/-- The state in which an atomic of the own scratchpad finds its element: pushed on, with the copies recalled. -/
def recalledFor (d : OpDesc) (o : Nat) (s : State) : State := recallU (pushedFor d s) (curLaunch s) (curHart s) o

theorem slotsKept_recalledFor {d : OpDesc} (order : inOrder d s = .ok ((), s1)) (o : Nat) : SlotsKept s (recalledFor d o s1) :=
  (inOrder_pushed order).trans (slotsKept_recallU ..)

theorem recalledFor_eq {d : OpDesc} (order : inOrder d s = .ok ((), s1)) (o : Nat) :
    recalledFor d o s1 = recallU (releasePush (curLaunch s) (curHart s) d s1) (curLaunch s) (curHart s) o := by
  have kept := inOrder_slotsKept order
  rw [recalledFor, pushedFor_eq order, kept.curLaunch, kept.curHart]

theorem ply_recalledFor {d : OpDesc} (order : inOrder d s = .ok ((), s1)) (o : Nat) :
    (curCtx (recalledFor d o s1)).ply = (curCtx s).ply := by
  have kept := inOrder_slotsKept order
  rw [curCtx_of_slotsKept (slotsKept_recalledFor order o), recalledFor, kept.curLaunch, kept.curHart, ctxOf_recallU_sameCells,
    ctxOf_inOrder_pushed order]
  rfl

/-- A change of the current core's own context, with the copies of the line at offset o invalidated (R53). -/
def changeOwn (o : Nat) (f : Ctx → Ctx) (s : State) : State :=
  invalidateHome (modHome s (curLaunch s) (curHart s) f) (curLaunch s) (curHart s) o

theorem slotsKept_changeOwn (o : Nat) (f : Ctx → Ctx) (s : State) : SlotsKept s (changeOwn o f s) :=
  (slotsKept_modHome ..).trans (slotsKept_invalidateHome ..)

theorem curCtx_changeOwn (o : Nat) {f : Ctx → Ctx} (l : ∀ c, (f c).launch = c.launch) (s : State) :
    curCtx (changeOwn o f s) = f (curCtx s) := by
  rw [curCtx_of_slotsKept (slotsKept_changeOwn o f s), changeOwn, ctxOf_changed l]
  rfl

/-- amo.amax of the own scratchpad: its home places it. -/
theorem amoOp_amaxOwn {u : State} (r : AmoReads op x y s s1 s2 b v (.own o)) (amax : isAmax op = true)
    (writable : (curCtx s2).writeRefused (curHart s2) o (amoSize op) = none)
    (order : inOrder (amoDesc s2 ord sc (curHart s2) o (amoSize op) (spaceOf b)) s2 = .ok ((), s3))
    (found : u = recalledFor (amoDesc s2 ord sc (curHart s2) o (amoSize op) (spaceOf b)) o s3) :
    amoOp op .z x y ord sc s = .ok ((), changeOwn o (placedAmax o op v.toNat (curCtx u).ply) u) := by
  set w := pushedFor (amoDesc s2 ord sc (curHart s2) o (amoSize op) (spaceOf b)) s3 with pushed
  have kept : SlotsKept s2 w := inOrder_pushed order
  have now : (curCtx s2).ply = (ctxOf w (curHart s2) (curLaunch s2)).ply := by rw [pushed, ctxOf_inOrder_pushed order]; rfl
  have placed := amoAtHome_amax (off := o) (n := v.toNat) amax now
  have recalled := slotsKept_recalledFor order o
  have same := ply_recalledFor order o
  rw [← found] at recalled same
  unfold amoOp
  rw [bind_ok r.pointer, bind_ok r.operand, bind_ok (checked_ok r.target), bind_ok (noteResult_unpaired r.single), get_bind]
  dsimp only
  rw [writable, bind_ok (s := s2) (a := ()) (t := s2) (by rfl), bind_ok (agreeFirst_ok (.inl r.single)), bind_ok order, modState_bind,
    get_bind, show releasePush (curLaunch s3) (curHart s3) _ s3 = w from rfl, kept.curLaunch, placed]
  have ordered := inOrder_slotsKept order
  rw [recalledFor, ordered.curLaunch, ordered.curHart, ← pushed] at found
  rw [changeOwn, recalled.curLaunch, recalled.curHart, same, found]
  rfl

/-- amo.maxrd of the own scratchpad: the element as it stands once the copies are recalled, and what the reset leaves. -/
theorem maxrdOp_own {n : Nat} {d : ADst} {r t : State} (alone : (curSlot s).paired = false) (ex : readA x s = .ok (b, s1))
    (target : checkPointer s1 b n (elemCode n) true false false = .ok (.own o))
    (writable : (curCtx s1).writeRefused (curHart s1) o n = none)
    (order : inOrder (amoDesc s1 ord sc (curHart s1) o n (spaceOf b)) s1 = .ok ((), s2))
    (found : r = recalledFor (amoDesc s1 ord sc (curHart s1) o n (spaceOf b)) o s2)
    (written : writeA d (BitVec.ofNat 64 (Memory.readN (curCtx r).scratch o n)) (changeOwn o (·.putElem o n 0) r) = .ok ((), t)) :
    maxrdOp n d x ord sc s = .ok ((), t) := by
  have kept := inOrder_pushed order
  have recalled := slotsKept_recalledFor order o
  have ordered := inOrder_slotsKept order
  have single : (curSlot s1).paired = false := (Read.of_readA ex).paired.trans alone
  subst found
  rw [changeOwn, curCtx_of_slotsKept recalled, recalled.curLaunch, recalled.curHart, recalledFor, ordered.curLaunch,
    ordered.curHart] at written
  unfold maxrdOp
  rw [bind_ok ex, bind_ok (checked_ok target), get_bind]
  dsimp only
  rw [bind_ok (agreeFirst_ok (.inl single)), writable, bind_ok (s := s1) (a := ()) (t := s1) (by rfl), bind_ok order, modState_bind,
    get_bind, modState_bind, show releasePush (curLaunch s2) (curHart s2) _ s2 = pushedFor _ s2 from rfl, kept.curLaunch]
  exact written

end

/-! ## The statement -/

/-- Settles O23: each word by what issuing, combining or recalling leaves, from one equation of the operation. -/
theorem atomicsElsewhere : Obligations.AtomicsElsewhere := by
  unfold Obligations.AtomicsElsewhere
  refine ⟨fun p mem d x y ord sc s s1 s2 b v home o cached ready alone ex ey target => ?_,
    fun p mem x y ord sc s s1 s2 s3 b v o ready alone ex ey target writable => ?_,
    fun p mem d x ord sc s s1 s2 b o ready alone ex target writable => ?_⟩
  · obtain ⟨-, size⟩ := exec_amoTable mem d x y ord sc s
    have run (d : ADst) : exec (p.1 d x y ord sc) s = plainA (amoOp p.2.1 d x y ord sc) s := (exec_amoTable mem d x y ord sc s).1
    rw [← size] at target ⊢
    have r : AmoReads p.2.1 x y s s1 s2 b v (.mesh home o cached) := ⟨alone, ex, ey, target⟩
    have launch : curLaunch s2 = curLaunch s := r.read.curLaunch
    have posts (away : (cached && !(curSlot s2).paired && owned s2 (curLaunch s2) home) = false) :
        Sends (p.1 .z x y ord sc) s s2 (.amo b p.2.1 v (curCtx s2).ply) true := by
      obtain ⟨it, t, done, sent, goes⟩ := amoOp_posted (ord := ord) (sc := sc) r away
      exact sends_of ((run .z).trans (plainA_ok ready done)) alone r.read goes sent
    refine ⟨fun some' takes room => ?_, fun uncached => posts (by rw [uncached]; rfl),
      fun _ away => posts (by rw [launch, away, Bool.and_false]), fun s3 isCached own order fine => ?_⟩
    · obtain ⟨it, t, e, done, sent, goes, mem, item, kept, dst, kind⟩ := amoOp_sent (ord := ord) (sc := sc) r some' takes room
      exact kind ▸ sendsFor_of ((run d).trans (plainA_ok ready done)) alone r.read goes sent mem item kept dst
    · subst isCached
      rw [← launch] at own fine
      obtain ⟨t, done, kept, ucls, shared⟩ := amoOp_combined r own order fine
      have single : (curSlot t).paired = false := by rw [kept.curSlot, r.single]
      have line : (hartOf (endA false t) (curHart s)).line (lineKey home o) = (hartOf t (curHart s2)).line (lineKey home o) := by
        rw [← r.read.curHart, ← kept.curHart, endA_unpaired single, hartOf_putCur]
        rfl
      exact ⟨_, (run .z).trans (plainA_ok ready done), pc_endA alone r.read kept, line ▸ ucls, line ▸ shared⟩
  · have facts : exec (p.1 x y ord sc) s = plainA (amoOp p.2.1 .z x y ord sc) s ∧ amoSize p.2.1 = p.2.2 ∧ isAmax p.2.1 = true := by
      simp only [List.mem_cons, List.not_mem_nil, or_false] at mem
      rcases mem with rfl | rfl <;> exact ⟨rfl, rfl, rfl⟩
    obtain ⟨run, size, amax⟩ := facts
    rw [← size] at target writable ⊢
    have r : AmoReads p.2.1 x y s s1 s2 b v (.own o) := ⟨alone, ex, ey, target⟩
    rw [← r.read.curHart] at writable ⊢
    rw [← r.read.curLaunch]
    intro desc order
    rw [← recalledFor_eq order]
    have kept := slotsKept_recalledFor order o
    extract_lets u
    have done : amoOp p.2.1 .z x y ord sc s = .ok ((), changeOwn o (placedAmax o p.2.1 v.toNat (curCtx u).ply) u) :=
      amoOp_amaxOwn r amax writable order rfl
    have ends : curCtx (endA false (changeOwn o (placedAmax o p.2.1 v.toNat (curCtx u).ply) u)) = { curCtx u with
        amaxOpen := SMap.modify (curCtx u).amaxOpen (openKey p.2.1 o) 0 fun e => BitVec.ofNat 64 (amoApply p.2.1 e.toNat v.toNat) } := by
      rw [curCtx_endA, curCtx_changeOwn o (placedAmax_launch _ _ _ _), placedAmax, placeAmax_now rfl]
      rfl
    refine ⟨_, run.trans (plainA_ok ready done), pc_endA alone r.read (kept.trans (slotsKept_changeOwn ..)), ?_, ?_⟩
    · rw [ends]
      exact SMap.getD_set_same ..
    · rw [ends]
  · have run : exec (p.1 d x ord sc) s = plainA (maxrdOp p.2 d x ord sc) s := by
      simp only [List.mem_cons, List.not_mem_nil, or_false] at mem
      rcases mem with rfl | rfl <;> rfl
    have read := Read.of_readA ex
    rw [← read.curHart] at writable ⊢
    rw [← read.curLaunch]
    intro desc order
    rw [← recalledFor_eq order]
    extract_lets r
    refine ⟨changeOwn o (·.putElem o p.2 0) r, ?_, fun t written => ?_⟩
    · rw [curCtx_changeOwn o fun _ => by rfl]
      rfl
    · rw [run]
      exact plainA_ok ready (maxrdOp_own alone ex target writable order rfl written)

end Sys2Proof.Machine
end

section
/-! SUPPORT. Futures at their home: the messages of a home, the walk of the waiters, filling and emptying a word (spec/03 R46 R51,
spec/06 R117 R118, spec/14 R253). -/

namespace Sys2Proof.Machine

open Sys2Proof.Claims

/-! ## The fields of a header (R107) -/

section
variable (chan : BitVec 6) (pri : BitVec 2) (len kind : BitVec 4) (stamp : BitVec 48)

theorem mkHeader_stamp : (mkHeader chan pri len kind stamp).extractLsb' 0 48 = stamp := by
  unfold mkHeader
  exact BitVec.extractLsb'_append_eq_right

/-- The field of a word that starts where the lower part ends. -/
theorem extractLsb'_append_above {n m k : Nat} (x : BitVec n) (y : BitVec m) (start : Nat) :
    (x ++ y).extractLsb' (m + start) k = x.extractLsb' start k := by
  ext i h
  simp only [BitVec.getElem_extractLsb', BitVec.getLsbD_append]
  rw [if_neg (by omega), show m + start + i - m = start + i by omega]

theorem mkHeader_kind : (mkHeader chan pri len kind stamp).extractLsb' 48 4 = kind := by
  unfold mkHeader
  rw [extractLsb'_append_above (m := 48) _ stamp 0]
  exact BitVec.extractLsb'_append_eq_right

theorem mkHeader_len : (mkHeader chan pri len kind stamp).extractLsb' 52 4 = len := by
  unfold mkHeader
  rw [extractLsb'_append_above (m := 48) _ stamp 4, extractLsb'_append_above (m := 4) _ kind 0]
  exact BitVec.extractLsb'_append_eq_right

theorem mkHeader_chan : (mkHeader chan pri len kind stamp).extractLsb' 58 6 = chan := by
  unfold mkHeader
  rw [extractLsb'_append_above (m := 48) _ stamp 10, extractLsb'_append_above (m := 4) _ kind 6,
    extractLsb'_append_above (m := 4) _ len 2, extractLsb'_append_above (m := 2) _ pri 0]
  exact BitVec.extractLsb'_eq_self

end

/-! ## Messages of a home (R118) -/

section
variable (s : State) (L home dest : Nat)

theorem ctxOf_keepCopy (it : NetItem) (h M : Nat) : ctxOf (keepCopy s it) h M = ctxOf s h M :=
  ctxOf_congr (hartOf_putHart_keeps (·.ctxs) (by rfl) h) M

theorem ctxOf_homeSend (chan : BitVec 6) (pri : BitVec 2) (kind : BitVec 4) (ws : List Word) :
    ctxOf (homeSend s L home dest chan pri kind ws) home L = { ctxOf s home L with sseq := (ctxOf s home L).sseq + 1 } := by
  unfold homeSend
  extract_lets c header t it
  rw [ctxOf_keepCopy]
  exact ctxOf_putCtx_same (s := s) (ctxOf_launch ..)

theorem net_homeSend (chan : BitVec 6) (pri : BitVec 2) (kind : BitVec 4) (ws : List Word) :
    ∃ it, (homeSend s L home dest chan pri kind ws).net = s.net ++ [it] ∧
      it.op = .msg dest (mkHeader chan pri (BitVec.ofNat 4 ws.length) kind
      (mkStamp (ctxOf s home L).ply home (ctxOf s home L).sseq)) ws := ⟨_, rfl, rfl⟩

theorem ctxOf_sendContinuation (chan : Nat) (value tag : Word) : ctxOf (sendContinuation s L home dest chan value tag) home L =
    { ctxOf s home L with sseq := (ctxOf s home L).sseq + 1 } :=
  ctxOf_homeSend { s with fresh := s.fresh + 1 } L home dest _ _ 1 _

theorem sendContinuation_homeSends (chan : Nat) (value tag : Word) : HomeSends L home dest 1 [value, tag] s
    (sendContinuation s L home dest chan value tag) (fun header => header.extractLsb' 58 6 = BitVec.ofNat 6 chan) := by
  obtain ⟨it, net, op⟩ := net_homeSend { s with fresh := s.fresh + 1 } L home dest (BitVec.ofNat 6 chan)
    ((Config.freeWord s.fresh).extractLsb' 56 2) 1 [value, tag]
  refine ⟨it, _, net, op, mkHeader_kind .., mkHeader_len .., mkHeader_stamp .., mkHeader_chan .., ?_⟩
  rw [ctxOf_sendContinuation]

end

/-! ## The walk of the waiters (R51, R118) -/

/-- What a waiter gets: a message of the home with its next sequence value, a reply for channel 63 and else an active message. -/
def Answers (ply : BitVec 16) (home n : Nat) (value : Word) (w : Nat × Nat × Nat × Word) (it : NetItem) : Prop :=
  ∃ header : Word, header.extractLsb' 0 48 = ply ++ BitVec.ofNat 20 home ++ BitVec.ofNat 12 n ∧
    (w.2.1 = 63 → it.op = .msg w.2.2.1 header [w.2.2.2, value] ∧ header.extractLsb' 48 4 = 2) ∧
    (w.2.1 ≠ 63 → it.op = .msg w.2.2.1 header [value, w.2.2.2] ∧ header.extractLsb' 48 4 = 1 ∧
      header.extractLsb' 58 6 = BitVec.ofNat 6 w.2.1)

theorem serveWaiter_answers (L home : Nat) (value : Word) (s : State) (w : Nat × Nat × Nat × Word) :
    ctxOf (serveWaiter L home value s w) home L = { ctxOf s home L with sseq := (ctxOf s home L).sseq + 1 } ∧
      ∃ it, (serveWaiter L home value s w).net = s.net ++ [it] ∧
        Answers (ctxOf s home L).ply home (ctxOf s home L).sseq value w it := by
  unfold serveWaiter
  split
  next reply =>
    obtain ⟨it, net, op⟩ := net_homeSend s L home w.2.2.1 0 3 2 [w.2.2.2, value]
    exact ⟨ctxOf_homeSend .., it, net, _, mkHeader_stamp .., fun _ => ⟨op, mkHeader_kind ..⟩, fun other => absurd reply other⟩
  next active =>
    obtain ⟨it, header, net, op, kind, -, stamp, chan, -⟩ := sendContinuation_homeSends s L home w.2.2.1 w.2.1 value w.2.2.2
    exact ⟨ctxOf_sendContinuation .., it, net, header, stamp, fun reply => absurd reply active, fun _ => ⟨op, kind, chan⟩⟩

/-- The waiters are served in their order, each with the next sequence value of the home. -/
theorem foldl_serveWaiter (L home : Nat) (value : Word) (ws : List (Nat × Nat × Nat × Word)) (s : State) :
    let t := ws.foldl (serveWaiter L home value) s
    ctxOf t home L = { ctxOf s home L with sseq := (ctxOf s home L).sseq + ws.length } ∧
      ∃ its, t.net = s.net ++ its ∧ its.length = ws.length ∧ ∀ i w, ws[i]? = some w →
        ∃ it, its[i]? = some it ∧ Answers (ctxOf s home L).ply home ((ctxOf s home L).sseq + i) value w it := by
  induction ws generalizing s with
  | nil => exact ⟨rfl, [], (List.append_nil _).symm, rfl, fun i w here => by simp at here⟩
  | cons w ws ih =>
    obtain ⟨ctx, it, net, first⟩ := serveWaiter_answers L home value s w
    obtain ⟨rest, its, nets, count, answers⟩ := ih (serveWaiter L home value s w)
    refine ⟨?_, it :: its, ?_, congrArg Nat.succ count, fun i x here => ?_⟩
    · refine rest.trans ?_
      rw [ctx]
      simp only [List.length_cons, Nat.add_assoc, Nat.add_comm 1]
    · exact nets.trans (by rw [net, List.append_assoc]; rfl)
    · cases i with
      | zero =>
        obtain rfl : w = x := by simpa using here
        exact ⟨it, rfl, first⟩
      | succ i =>
        obtain ⟨z, there, answer⟩ := answers i x here
        refine ⟨z, there, ?_⟩
        rw [ctx] at answer
        rw [Nat.add_comm i, ← Nat.add_assoc]
        exact answer

/-! ## Filling and emptying a word (R46) -/

/-- The context with a future word filled with a value. -/
def filled (off : Nat) (value : Word) (c : Ctx) : Ctx := { c.fill off with scratch := Memory.writeN c.scratch off 8 value.toNat }

theorem filled_isEmpty (off : Nat) (value : Word) (c : Ctx) : (filled off value c).isEmpty off = false := by
  simp [filled, Ctx.isEmpty, Ctx.fill]

/-- The context with a word emptied, and without waiters. -/
def emptied (off : Nat) (c : Ctx) : Ctx := { c.drainWord off with scratch := Memory.writeN c.scratch off 8 0 }

theorem emptied_isEmpty (off : Nat) (c : Ctx) : (emptied off c).isEmpty off = true := by
  simp [emptied, Ctx.isEmpty, Ctx.drainWord]

theorem net_invalidateHome (s : State) (L home off : Nat) : (invalidateHome s L home off).net = s.net := by
  unfold invalidateHome
  split <;> rfl

section
variable (s : State) (L home off : Nat) (value : Word)

/-- The context with the nodes of its waiters free again (R51). -/
def nodesFreed : Ctx :=
  { ctxOf s home L with futFree := ((waitersOf s L home off).map (·.1)).reverse ++ (ctxOf s home L).futFree }

theorem nodesFreed_launch : (nodesFreed s L home off).launch = L := ctxOf_launch s home L

/-- The home of a future word as its waiters are about to be served. -/
def beforeServing : State :=
  invalidateHome (modHome (putCtx s home (nodesFreed s L home off)) L home (filled off value)) L home off

theorem fillFuture_eq :
    fillFuture s L home off value = (waitersOf s L home off).foldl (serveWaiter L home value) (beforeServing s L home off value) := rfl

theorem ctxOf_beforeServing : ctxOf (beforeServing s L home off value) home L =
    { filled off value (ctxOf s home L) with
      futFree := ((waitersOf s L home off).map (·.1)).reverse ++ (ctxOf s home L).futFree } := by
  unfold beforeServing
  rw [ctxOf_changed fun _ => by rfl, ctxOf_putCtx_same (nodesFreed_launch ..)]
  rfl

theorem net_beforeServing : (beforeServing s L home off value).net = s.net := by
  unfold beforeServing
  rw [net_invalidateHome, (modHome_coresOnly ..).net]
  rfl

theorem ctxOf_fillFuture : ctxOf (fillFuture s L home off value) home L =
    { filled off value (ctxOf s home L) with
      futFree := ((waitersOf s L home off).map (·.1)).reverse ++ (ctxOf s home L).futFree
      sseq := (ctxOf s home L).sseq + (waitersOf s L home off).length } := by
  rw [fillFuture_eq, (foldl_serveWaiter ..).1, ctxOf_beforeServing]
  rfl

theorem ctxOf_emptyFuture : ctxOf (emptyFuture s L home off) home L = emptied off (ctxOf (recallU s L home off) home L) :=
  ctxOf_changed (f := emptied off) fun _ => by rfl

/-- A write to an empty word serves its waiters and frees their nodes. -/
theorem fillFuture_serves : let t := fillFuture s L home off value
    let ws := waitersOf s L home off
    t.net.length = s.net.length + ws.length ∧ (ctxOf t home L).sseq = (ctxOf s home L).sseq + ws.length ∧
    (ctxOf t home L).futFree = (ws.map (·.1)).reverse ++ (ctxOf s home L).futFree ∧
    ∀ i w, ws[i]? = some w → ∃ it, t.net[s.net.length + i]? = some it ∧
      Answers (ctxOf s home L).ply home ((ctxOf s home L).sseq + i) value w it := by
  obtain ⟨-, its, net, count, answers⟩ := foldl_serveWaiter L home value (waitersOf s L home off) (beforeServing s L home off value)
  rw [← fillFuture_eq, net_beforeServing] at net
  rw [ctxOf_beforeServing] at answers
  refine ⟨by rw [net, List.length_append, count], by rw [ctxOf_fillFuture], by rw [ctxOf_fillFuture], fun i w here => ?_⟩
  obtain ⟨it, there, answer⟩ := answers i w here
  refine ⟨it, ?_, answer⟩
  rw [net, List.getElem?_append_right (Nat.le_add_right ..), Nat.add_sub_cancel_left]
  exact there

end

/-! ## The list of waiters (R51) -/

theorem waiters_none (m : Memory) (base fuel : Nat) : waiters m base fuel 0 = [] := by cases fuel <;> rfl

theorem waiters_cons (m : Memory) (base fuel : Nat) {n : Nat} (some' : 0 < n) : let w := Memory.readN m (base + 16 * (n - 1) + 8) 8
    waiters m base (fuel + 1) n = (n - 1, w / 2 ^ 20 % 64, w % 2 ^ 20, Memory.word m (base + 16 * (n - 1))) ::
      waiters m base fuel (w / 2 ^ 32 % 2 ^ 16) := by
  rw [waiters, if_neg (by omega)]

end Sys2Proof.Machine
end

section
/-! SUPPORT. The future operations that arrive at their home (spec/06 R117 R118, spec/14 R253). -/

namespace Sys2Proof.Machine

open Sys2Proof.Claims

variable {s t : State} {k : Nat} {it : NetItem} {p : Word}

theorem linkWaiter_none {L home : Nat} (noNode : (ctxOf t home L).futFree = []) (off chan sender : Nat) (tag : Word) :
    linkWaiter t L home off chan sender tag = none := by simp [linkWaiter, noNode]

theorem futArrive_at {store : Bool} (mine : owned t it.src.launch (homeOf it.src.hart p) = true)
    (plain : inLine t it.src.launch (homeOf it.src.hart p) (offOf p) = false)
    (region : regionRefused t it.src.launch (homeOf it.src.hart p) (offOf p) 8 store = false) (body : Nat → Nat → State) :
    futArrive t it p store body = body (homeOf it.src.hart p) (offOf p) := by
  simp [futArrive, mine, plain, region]

/-! ## The turn of an operation -/

theorem exec_futRdArrival (a : Arrives s t k it) {tag : Word} (op : it.op = .futRd p tag) :
    exec (.futureReadArrival k) s = .next (readArrive t it p tag) := by
  change execFutureReadArrival k s = _
  simp [execFutureReadArrival, event, performing_of_arrives a, op]

theorem exec_futRdcArrival (a : Arrives s t k it) {chan : Nat} {tag : Word} (op : it.op = .futRdc p chan tag) :
    exec (.futureReadArrival k) s = .next (continueArrive s t it p chan tag) := by
  change execFutureReadArrival k s = _
  simp [execFutureReadArrival, event, performing_of_arrives a, op]

/-- What a write does to its word at the home. -/
def writeArrive (s t : State) (it : NetItem) (v : Word) (home off : Nat) : State :=
  if !(ctxOf t home it.src.launch).isEmpty off then refusal t it codeQueueMisuse 0x031
  else if hasSseq t it.src.launch home (waitersOf t it.src.launch home off).length then accept (fillFuture t it.src.launch home off v) it
  else s

theorem exec_futWrArrival (a : Arrives s t k it) {v : Word} (op : it.op = .futWr p v) :
    exec (.futureWriteArrival k) s = .next (futArrive t it p true (writeArrive s t it v)) := by
  change execFutureWriteArrival k s = _
  simp only [execFutureWriteArrival, event, performing_of_arrives a, op]
  rfl

/-- What a clear does to its word at the home. -/
def clearArrive (s t : State) (it : NetItem) (home off : Nat) : State :=
  if sureAt t it.src.launch ⟨home, off, 8⟩ then s
  else if !(ctxOf t home it.src.launch).isEmpty off then accept (emptyFuture t it.src.launch home off) it
  else if Memory.readN (ctxOf t home it.src.launch).scratch off 2 = 0 then accept t it
  else refusal t it codeQueueMisuse 0x032

theorem exec_futClrArrival (a : Arrives s t k it) (op : it.op = .futClr p) :
    exec (.futureClearArrival k) s = .next (futArrive t it p true (clearArrive s t it)) := by
  change execFutureClearArrival k s = _
  simp only [execFutureClearArrival, event, performing_of_arrives a, op]
  rfl

theorem ctxOf_accept (t : State) (it : NetItem) (home L : Nat) : ctxOf (accept t it) home L = ctxOf t home L := by
  unfold accept
  split <;> rfl

/-! ## Each at its home -/

section
variable (a : Arrives s t k it) (mine : owned t it.src.launch (homeOf it.src.hart p) = true)
  (plain : inLine t it.src.launch (homeOf it.src.hart p) (offOf p) = false)
include a mine plain

theorem futRd_arrives {tag : Word} (op : it.op = .futRd p tag) :
    let home := homeOf it.src.hart p
    let L := it.src.launch
    let off := offOf p
    regionRefused t L home off 8 false = false →
    ((ctxOf t home L).isEmpty off = false → ∀ w : Word,
      w = BitVec.ofNat 64 (leValue ((ctxOf (recallU t L home off) home L).read home off 8)) →
      exec (.futureReadArrival k) s = .next (served (dropCopy (recallU t L home off) it.src.hart it.id) it w (entryOf w))) ∧
    ((ctxOf t home L).isEmpty off = true → (ctxOf t home L).futFree = [] →
      exec (.futureReadArrival k) s = .next (nack t it 5 noFault)) ∧
    (∀ u, (ctxOf t home L).isEmpty off = true → linkWaiter t L home off 63 it.src.hart tag = some u →
      exec (.futureReadArrival k) s = .next (dropCopy u it.src.hart it.id)) := by
  intro home L off region
  rw [exec_futRdArrival a op, readArrive, futArrive_at mine plain region]
  refine ⟨?full, ?nacked, ?linked⟩
  case full =>
    rintro full w rfl
    rw [if_neg (by simp [full, home, L, off])]
    rfl
  case nacked =>
    intro empty noNode
    rw [if_pos empty, linkWaiter_none noNode]
  case linked =>
    intro u empty linked
    rw [if_pos empty, linked]

theorem futRdc_arrives {chan : Nat} {tag : Word} (op : it.op = .futRdc p chan tag) :
    let home := homeOf it.src.hart p
    let L := it.src.launch
    let off := offOf p
    regionRefused t L home off 8 false = false →
    ((ctxOf t home L).isEmpty off = false → hasSseq t L home 1 = true →
      let r := recallU t L home off
      exec (.futureReadArrival k) s = .next (accept (sendContinuation r L home it.src.hart chan
        (BitVec.ofNat 64 (leValue ((ctxOf r home L).read home off 8))) tag) it)) ∧
    ((ctxOf t home L).isEmpty off = true → (ctxOf t home L).futFree = [] →
      exec (.futureReadArrival k) s = .next (nack t it 5 noFault)) ∧
    (∀ u, (ctxOf t home L).isEmpty off = true → linkWaiter t L home off chan it.src.hart tag = some u →
      exec (.futureReadArrival k) s = .next (accept u it)) := by
  intro home L off region
  rw [exec_futRdcArrival a op, continueArrive, futArrive_at mine plain region]
  refine ⟨?full, ?nacked, ?linked⟩
  case full =>
    intro full seq
    rw [if_neg (by simp [full, home, L, off]), if_pos seq]
    rfl
  case nacked =>
    intro empty noNode
    rw [if_pos empty, linkWaiter_none noNode]
  case linked =>
    intro u empty linked
    rw [if_pos empty, linked]

theorem futWr_arrives {v : Word} (op : it.op = .futWr p v) :
    let home := homeOf it.src.hart p
    let L := it.src.launch
    let off := offOf p
    regionRefused t L home off 8 true = false →
    ((ctxOf t home L).isEmpty off = false → exec (.futureWriteArrival k) s = .next (refusal t it codeQueueMisuse 0x031)) ∧
    ((ctxOf t home L).isEmpty off = true → hasSseq t L home (waitersOf t L home off).length = true →
      ∃ u, u = fillFuture t L home off v ∧ exec (.futureWriteArrival k) s = .next (accept u it) ∧
        (ctxOf u home L).isEmpty off = false ∧
        (∀ a, a < off ∨ off + 8 ≤ a → Memory.read (ctxOf u home L).scratch a = Memory.read (ctxOf t home L).scratch a)) := by
  intro home L off region
  rw [exec_futWrArrival a op, futArrive_at mine plain region, writeArrive]
  refine ⟨fun full => by rw [if_pos (by simp [full, home, L, off])], fun empty seq => ⟨_, rfl, ?_, ?_, fun a outside => ?_⟩⟩
  · rw [if_neg (by simp [empty, home, L, off]), if_pos seq]
  · rw [ctxOf_fillFuture]
    exact filled_isEmpty off v (ctxOf t home L)
  · rw [ctxOf_fillFuture]
    exact Memory.read_writeN_outside _ _ _ _ _ outside

theorem futClr_arrives (op : it.op = .futClr p) :
    let home := homeOf it.src.hart p
    let L := it.src.launch
    let off := offOf p
    regionRefused t L home off 8 true = false → sureAt t L ⟨home, off, 8⟩ = false →
    ((ctxOf t home L).isEmpty off = false → ∃ u, exec (.futureClearArrival k) s = .next (accept u it) ∧
      (ctxOf u home L).isEmpty off = true) ∧
    ((ctxOf t home L).isEmpty off = true → Memory.readN (ctxOf t home L).scratch off 2 ≠ 0 →
      exec (.futureClearArrival k) s = .next (refusal t it codeQueueMisuse 0x032)) := by
  intro home L off region unsure
  rw [exec_futClrArrival a op, futArrive_at mine plain region, clearArrive, if_neg (by simp [unsure, home, L, off])]
  refine ⟨fun full => ⟨emptyFuture t L home off, by rw [if_pos (by simp [full, home, L, off])], ?_⟩, fun empty linked => ?_⟩
  · rw [ctxOf_emptyFuture]
    exact emptied_isEmpty off _
  · rw [if_neg (by simp [empty, home, L, off]), if_neg linked]

end

end Sys2Proof.Machine
end

section
/-! SUPPORT. What the future words leave of the contexts while they take their place (spec/06 R101 R103 R117, spec/14 R253). -/

namespace Sys2Proof.Machine

open Sys2Proof.Claims

/-! ## Choices alone -/

/-- The state with the number of the next free choice changed. -/
def refreshed (n : Nat) (s : State) : State := { s with fresh := n }

theorem addGuards_refreshed (n : Nat) (s : State) (gs : List Guard) : addGuards (refreshed n s) gs = refreshed n (addGuards s gs) := by
  unfold addGuards
  split <;> rfl

theorem makeSure_refreshed (n : Nat) (s : State) (h : Nat) (ids : List Nat) :
    makeSure (refreshed n s) h ids = refreshed n (makeSure s h ids) := by
  unfold makeSure
  split <;> rfl

theorem inOrder_refreshed {d : OpDesc} {s t : State} (n : Nat) (e : inOrder d s = .ok ((), t)) :
    inOrder d (refreshed n s) = .ok ((), refreshed n t) := by
  unfold inOrder passOrder at e ⊢
  have guard : guarded (refreshed n s) (curIssuer s) s.nextId d.loc = guarded s (curIssuer s) s.nextId d.loc := rfl
  have stands (h : Nat) (x : Scope × Nat) : softStands (refreshed n s) h x = softStands s h x := rfl
  have pass (a b) : mayPass (refreshed n s) (curIssuer s) a b = mayPass s (curIssuer s) a b := rfl
  dsimp only at e ⊢
  rw [show curIssuer (refreshed n s) = curIssuer s from rfl, show curEarlier (refreshed n s) = curEarlier s from rfl,
    show priorsOf (refreshed n s) d = priorsOf s d from rfl, show (refreshed n s).nextId = s.nextId from rfl, guard]
  simp only [stands, pass, makeSure_refreshed, addGuards_refreshed]
  split at e
  · cases e
  rw [if_neg ‹_›]
  split at e
  · cases e
  rw [if_neg ‹_›]
  split at e
  · cases e
    rw [if_pos ‹_›]
  · cases e

/-! ## The contexts while an operation takes its place -/

/-- An operation takes its place: the contexts stay, and the current slot but for its scoreboard and queues. -/
structure Places (s t : State) : Prop where
  cur : t.cur = s.cur
  slot : curSlot t = { curSlot s with sb := (curSlot t).sb, lq := (curSlot t).lq }
  ctxs : ∀ h, (hartOf t h).ctxs = (hartOf s h).ctxs

namespace Places

variable {s t u : State}

theorem refl (s : State) : Places s s := ⟨rfl, rfl, fun _ => rfl⟩

theorem trans (a : Places s t) (b : Places t u) : Places s u where
  cur := b.cur.trans a.cur
  slot := by rw [b.slot, a.slot]
  ctxs h := (b.ctxs h).trans (a.ctxs h)

theorem curHart (a : Places s t) : curHart t = curHart s := by rw [Machine.curHart, a.cur]; rfl
theorem curNum (a : Places s t) : curNum t = curNum s := by rw [Machine.curNum, a.cur]; rfl
theorem curLaunch (a : Places s t) : curLaunch t = curLaunch s := by rw [Machine.curLaunch, a.slot]; rfl
theorem ctxOf (a : Places s t) (h L : Nat) : ctxOf t h L = ctxOf s h L := ctxOf_congr (a.ctxs h) L
theorem curCtx (a : Places s t) : curCtx t = curCtx s := by rw [Machine.curCtx, a.curHart, a.curLaunch, a.ctxOf]; rfl
theorem paired (a : Places s t) : (curSlot t).paired = (curSlot s).paired := by rw [a.slot]

theorem of_issues {n : Nat} (i : Issues n s t) (ctxs : ∀ h, (hartOf t h).ctxs = (hartOf s h).ctxs) : Places s t :=
  ⟨by rw [i.rest], i.slot, ctxs⟩

end Places

theorem ctxs_flushIds (L h : Nat) (ids : List Nat) (s : State) (j : Nat) : (hartOf (flushIds L h ids s) j).ctxs = (hartOf s j).ctxs :=
  List.foldlRecOn (motive := fun t => (hartOf t j).ctxs = (hartOf s j).ctxs) _ _ rfl
    fun t same (x : Nat × L1Line) _ => (ctxs_flushLine L h x.1 t j).trans same

theorem ctxs_issue {buffer : Bool} {op : NetOp} {d : OpDesc} {except : List Nat} {s t : State} {it : NetItem}
    (e : issue buffer op d except s = .ok (it, t)) (j : Nat) : (hartOf t j).ctxs = (hartOf s j).ctxs := by
  unfold issue at e
  extract_lets h prior soft u id x H v at e
  have before : (hartOf u j).ctxs = (hartOf s j).ctxs := (ctxs_flushIds ..).trans (ctxs_releasePush ..)
  have noted : (hartOf v j).ctxs = (hartOf s j).ctxs :=
    (hartOf_putHart_keeps (s := { u with nextId := id + 1 }) (·.ctxs) (by rfl) j).trans before
  split at e
  · obtain ⟨-, rfl⟩ := Prod.mk.inj (Except.ok.inj e)
    exact (hartOf_putHart_keeps (s := v) (·.ctxs) (by rfl) j).trans noted
  · obtain ⟨-, rfl⟩ := Prod.mk.inj (Except.ok.inj e)
    exact noted

theorem places_putCur {s : State} {σ : Slot} (e : σ = { curSlot s with sb := σ.sb, lq := σ.lq }) : Places s (putCur s σ) where
  cur := rfl
  slot := by rw [curSlot_putCur, ← e]
  ctxs := hartOf_putHart_keeps (s := s) (·.ctxs) (by rfl)

theorem reserve_places {d : ADst} {id : Nat} {s t : State} (e : reserve d id s = .ok ((), t)) : Places s t := by
  cases d with
  | lq k =>
    simp only [reserve, pushLq] at e
    split at e
    · cases e
    · cases e
      exact places_putCur rfl
  | a n =>
    obtain ⟨-, rfl⟩ := notPending_inv (d := .a n) e
    exact .refl s
  | sm n =>
    obtain ⟨-, rfl⟩ := notPending_inv (d := .sm n) e
    exact .refl s
  | z =>
    obtain ⟨-, rfl⟩ := notPending_inv (d := .z) e
    exact .refl s

/-! ## Linking a waiter (R51) -/

section
variable (s : State) (L home off : Nat)

/-- The context with the first of its free nodes taken. -/
def nodeTaken (ns : List Nat) : Ctx := { ctxOf s home L with futFree := ns }

theorem nodeTaken_launch (ns : List Nat) : (nodeTaken s L home ns).launch = L := ctxOf_launch s home L

/-- The scratchpad with node n written, at a, and the head of the list of the word at off naming it. -/
def nodeLinked (a n chan sender head : Nat) (tag : Word) (d : Ctx) : Ctx :=
  let m := Memory.writeN d.scratch a 8 tag.toNat
  { d with scratch := Memory.writeN (Memory.writeN m (a + 8) 8 (nodeWord head chan sender).toNat) off 8 (n + 1) }

theorem linkWaiter_cons {n : Nat} {ns : List Nat} (free : (ctxOf s home L).futFree = n :: ns) (chan sender : Nat) (tag : Word) :
    linkWaiter s L home off chan sender tag = some (modHome (putCtx s home (nodeTaken s L home ns)) L home
      (nodeLinked off ((linkRegion s L home).1 + 16 * n) n chan sender (Memory.readN (ctxOf s home L).scratch off 2) tag)) := by
  unfold linkWaiter
  dsimp only
  simp only [free]
  rfl

end

theorem linkWaiter_own {s : State} {n : Nat} {ns : List Nat} (free : (curCtx s).futFree = n :: ns) (off chan sender : Nat) (tag : Word) :
    ∃ u, linkWaiter s (curLaunch s) (curHart s) off chan sender tag = some u ∧ SlotsKept s u ∧ (curCtx u).futFree = ns := by
  have kept (f : Ctx → Ctx) : SlotsKept s
      (modHome (putCtx s (curHart s) (nodeTaken s (curLaunch s) (curHart s) ns)) (curLaunch s) (curHart s) f) :=
    (slotsKept_putCtx ..).trans (slotsKept_modHome ..)
  refine ⟨_, linkWaiter_cons s _ _ off free .., kept _, ?_⟩
  rw [curCtx_of_slotsKept (kept _), ctxOf_modHome fun _ => by rfl, ctxOf_putCtx_same (nodeTaken_launch ..)]
  rfl

end Sys2Proof.Machine
end

section
/-! SUPPORT. The future words (spec/06 R117, spec/14 R253), and the statement on futures. -/

namespace Sys2Proof.Machine

open Sys2Proof.Claims

/-! ## What a home's turn leaves of the slots -/

theorem slotsKept_keepCopy (s : State) (it : NetItem) : SlotsKept s (keepCopy s it) := slotsKept_putHart s _ _ rfl

theorem slotsKept_homeSend (s : State) (L home dest : Nat) (chan : BitVec 6) (pri : BitVec 2) (kind : BitVec 4) (ws : List Word) :
    SlotsKept s (homeSend s L home dest chan pri kind ws) := by
  unfold homeSend
  extract_lets c header t it
  have put : SlotsKept s t := slotsKept_putCtx ..
  exact (put.trans (t := t) (u := { t with nextId := t.nextId + 1, net := t.net ++ [it] }) ⟨rfl, rfl, fun _ _ => rfl⟩).trans
    (slotsKept_keepCopy ..)

theorem slotsKept_serveWaiter (L home : Nat) (value : Word) (s : State) (w : Nat × Nat × Nat × Word) :
    SlotsKept s (serveWaiter L home value s w) := by
  unfold serveWaiter
  split
  · exact slotsKept_homeSend ..
  · exact SlotsKept.trans (t := { s with fresh := s.fresh + 1 }) ⟨rfl, rfl, fun _ _ => rfl⟩ (slotsKept_homeSend ..)

theorem slotsKept_fillFuture (s : State) (L home off : Nat) (value : Word) : SlotsKept s (fillFuture s L home off value) := by
  rw [fillFuture_eq]
  refine SlotsKept.trans ?_ (slotsKept_foldl (slotsKept_serveWaiter L home value) _ _)
  exact ((slotsKept_putCtx ..).trans (slotsKept_modHome ..)).trans (slotsKept_invalidateHome ..)

theorem slotsKept_emptyFuture (s : State) (L home off : Nat) : SlotsKept s (emptyFuture s L home off) :=
  ((slotsKept_recallU ..).trans (slotsKept_modHome ..)).trans (slotsKept_invalidateHome ..)

theorem slotsKept_flushScope (L h : Nat) (sc : Scope) (s : State) : SlotsKept s (flushScope L h sc s) :=
  slotsKept_foldl (fun t (x : Nat × L1Line) => slotsKept_flushLine L h x.1 t) _ s

/-! ## The pointer of a future word (R243, R253) -/

section
variable {s s1 t u : State} {p : Word} {store : Bool} {home off : Nat} {cached : Bool}

theorem futTarget_own (target : checkPointer s p 8 3 store false false = .ok (.own off))
    (plain : inLine s (curLaunch s) (curHart s) off = false) : futTarget p store s = .ok ((curHart s, off, true), s) := by
  unfold futTarget
  rw [bind_ok (checked_ok target), get_bind]
  dsimp only
  rw [bind_ok (stopIf_ok (by rw [plain]; exact Bool.false_ne_true))]
  rfl

theorem futTarget_mesh (target : checkPointer s p 8 3 store false false = .ok (.mesh home off cached)) :
    futTarget p store s = .ok ((home, off, false), s) := by
  unfold futTarget
  rw [bind_ok (checked_ok target), get_bind]
  rfl

/-! ## A read that is pending (R117) -/

theorem inOrder_places {d : OpDesc} (order : inOrder d s = .ok ((), t)) : Places s t := by
  have kept := inOrder_slotsKept order
  exact ⟨kept.1, by rw [kept.curSlot], ctxs_inOrder order⟩

theorem places_refreshed (n : Nat) (s : State) : Places s (refreshed n s) := ⟨rfl, rfl, fun _ => rfl⟩

theorem takeNum_refreshed (room : (curSlot s).sb.length < 16) (free : NumsFree s) :
    ∃ n, takeNum s = .ok (n, refreshed (s.fresh + 1) s) := takeNum_ok room free

/-- An operation that takes place at the own home at once. -/
theorem issueHere_ok (op : NetOp) {d : OpDesc} (alone : (curSlot s).paired = false) (order : inOrder d s = .ok ((), u)) :
    ∃ it t, issueHere op d s = .ok (it, t) ∧ Places s t ∧ curSlot t = curSlot s := by
  have before := inOrder_places order
  have same : curSlot u = curSlot s := (inOrder_slotsKept order).curSlot
  obtain ⟨it, v, issued, -, goes, slot⟩ := issue_ok false op d (s := u) (by rw [same, alone])
  have after : Places u v := .of_issues goes (ctxs_issue issued)
  refine ⟨it, { v with net := v.net.filter fun x => x.id != it.id }, ?_, (before.trans after).trans ⟨rfl, rfl, fun _ => rfl⟩,
    slot.trans same⟩
  unfold issueHere
  rw [bind_ok order, bind_ok issued]
  rfl

/-- The tag of a pending read names its slot in its low bits. -/
theorem extractLsb'_tag (c n : Nat) : (BitVec.ofNat 64 (c + 8 * n)).extractLsb' 0 3 = BitVec.ofNat 3 c := by
  apply BitVec.eq_of_toNat_eq
  simp only [BitVec.extractLsb'_toNat, BitVec.toNat_ofNat, Nat.shiftRight_zero]
  omega

/-- The KIND 4 entry of a pending read, its number, and its destination. -/
structure Pends (t : State) (d : ADst) (num : Nat) (it : NetItem) (e : SbEntry) : Prop where
  mem : e ∈ (curSlot t).sb
  kind : e.kind = 4
  dst : e.dst = some d
  num : e.num = some num
  item : e.item = some it
  kept : e.refused = false

theorem pends_ok {d : ADst} (p : Word) (num : Nat) (it : NetItem) (takes : Takes (curSlot s) d) :
    ∃ u t e, reserve d it.id s = .ok ((), u) ∧
      addSb { SbEntry.plain it.id 4 (infoOf p) with num := some num, destCode := dstCode d, dst := some d, item := some it } u =
        .ok ((), t) ∧ Issues 0 s t ∧ Places s t ∧ Pends t d num it e := by
  obtain ⟨u, reserved, goes, -⟩ := reserve_ok takes it.id
  obtain ⟨e, he, added⟩ := addSb_ok
    { SbEntry.plain it.id 4 (infoOf p) with num := some num, destCode := dstCode d, dst := some d, item := some it } u
  refine ⟨u, _, e, reserved, added, goes.trans (issues_addEntry u e), (reserve_places reserved).trans (places_putCur rfl), ?_⟩
  refine ⟨?_, by rw [he]; rfl, by rw [he], by rw [he], by rw [he], by rw [he]; rfl⟩
  rw [curSlot_putCur]
  exact Slot.mem_addEntry _ e

/-- A read of an empty word of the own scratchpad is linked as its waiter, on the first free node. -/
theorem pendRead_own {d : ADst} {desc : OpDesc} {n : Nat} {ns : List Nat} (alone : (curSlot s).paired = false)
    (free : (curCtx s).futFree = n :: ns) (takes : Takes (curSlot s) d) (room : (curSlot s).sb.length < 16) (nums : NumsFree s)
    (order : inOrder desc s = .ok ((), u)) :
    ∃ t num it e, pendRead d p (curHart s) off true desc s = .ok ((), t) ∧
      curSlot t = { curSlot s with sb := (curSlot t).sb, lq := (curSlot t).lq } ∧ Pends t d num it e ∧ (curCtx t).futFree = ns := by
  obtain ⟨num, numbered⟩ := takeNum_refreshed room nums
  have fresh := places_refreshed (s.fresh + 1) s
  obtain ⟨it, a, issued, placed, slotA⟩ := issueHere_ok (s := refreshed (s.fresh + 1) s)
    (.futRd p (BitVec.ofNat 64 (curNum s + 8 * num))) alone (inOrder_refreshed (s.fresh + 1) order)
  obtain ⟨b, c, e, reserved, added, -, pending, pends⟩ := pends_ok (s := a) p num it (slotA ▸ takes)
  have all : Places s c := (fresh.trans placed).trans pending
  obtain ⟨t, linked, kept, taken⟩ := linkWaiter_own (s := c) (all.curCtx ▸ free) off 63 (curHart c)
    (BitVec.ofNat 64 (curNum s + 8 * num))
  refine ⟨t, num, it, e, ?_, by rw [kept.curSlot]; exact all.slot, { pends with mem := kept.curSlot ▸ pends.mem }, taken⟩
  unfold pendRead
  rw [bind_ok (needSb_ok room), bind_ok numbered, get_bind]
  have here : (true && !(curCtx (refreshed (s.fresh + 1) s)).futFree.isEmpty) = true := by
    rw [fresh.curCtx, free]
    rfl
  dsimp only
  simp only [here, if_true, fresh.curNum]
  rw [bind_ok issued, bind_ok reserved, bind_ok added, ← all.curHart]
  show Except.ok ((), (linkWaiter c (curLaunch c) (curHart c) off 63 (curHart c) (BitVec.ofNat 64 (curNum s + 8 * num))).getD c) = _
  rw [linked]
  rfl

/-- A read on another core is sent. -/
theorem pendRead_mesh {d : ADst} (desc : OpDesc) (alone : (curSlot s).paired = false) (takes : Takes (curSlot s) d)
    (room : (curSlot s).sb.length < 16) (nums : NumsFree s) :
    ∃ t num it e, pendRead d p home off false desc s = .ok ((), t) ∧ Issues 0 s t ∧
      Sent s t (.futRd p (BitVec.ofNat 64 (curNum s + 8 * num))) it ∧ Pends t d num it e := by
  obtain ⟨num, numbered⟩ := takeNum_refreshed room nums
  have fresh : Issues 0 s (refreshed (s.fresh + 1) s) :=
    (Issues.of_cores (t := refreshed (s.fresh + 1) s) rfl (fun _ => rfl) (fun _ => rfl) (List.Subset.refl _) (Nat.le_refl _)
      (List.Subset.refl _)).1
  obtain ⟨it, a, issued, sent, goes, slotA⟩ := issue_ok (s := refreshed (s.fresh + 1) s) false
    (.futRd p (BitVec.ofNat 64 (curNum s + 8 * num))) desc alone
  obtain ⟨b, c, e, reserved, added, goes', -, pends⟩ := pends_ok (s := a) p num it (slotA ▸ takes)
  obtain ⟨copied, slot⟩ := keepCopy_issues c it
  have sent' : Sent s a (.futRd p (BitVec.ofNat 64 (curNum s + 8 * num))) it := ⟨sent.op, sent.src, sent.id, sent.net⟩
  refine ⟨keepCopy c it, num, it, e, ?_, ((fresh.trans goes).trans goes').trans copied, (sent'.mono goes').mono copied,
    { pends with mem := slot ▸ pends.mem }⟩
  unfold pendRead
  rw [bind_ok (needSb_ok room), bind_ok numbered, get_bind]
  dsimp only
  simp only [Bool.false_and, Bool.false_eq_true, if_false, (places_refreshed (s.fresh + 1) s).curNum]
  rw [bind_ok issued, bind_ok reserved, bind_ok added]
  rfl

end

/-! ## The words -/

section
variable {x y : ASrc} {s s1 s2 u : State} {p w : Word} {off : Nat} {d : ADst}

theorem full_own {c : Bool} (full : c = false) : (true && !c) = true := by rw [full]; rfl

/-- fut.rd of a full word of the own scratchpad: its value once the copies in U have been recalled. -/
theorem futRdOp_full {t : State} (alone : (curSlot s).paired = false) (ex : readA x s = .ok (p, s1))
    (target : checkPointer s1 p 8 3 false false false = .ok (.own off)) (plain : inLine s1 (curLaunch s1) (curHart s1) off = false)
    (full : (curCtx s1).isEmpty off = false) (order : inOrder (futDesc .ldA (curHart s1) off (spaceOf p)) s1 = .ok ((), u))
    (written : let r := recallU u (curLaunch s1) (curHart s1) off
      writeA d (BitVec.ofNat 64 (leValue ((curCtx r).read (curHart s1) off 8))) r = .ok ((), t)) : futRdOp d x s = .ok ((), t) := by
  have single : (curSlot s1).paired = false := (Read.of_readA ex).paired.trans alone
  unfold futRdOp
  rw [bind_ok ex, bind_ok (futTarget_own target plain)]
  dsimp only
  rw [bind_ok (agreeFirst_ok (.inl single)), get_bind]
  rw [if_pos (full_own full), bind_ok order, get_bind, modState_bind]
  dsimp only at written
  rw [curCtx_of_slotsKept ((inOrder_slotsKept order).trans (slotsKept_recallU ..))] at written
  exact written

/-- fut.rd of a word that its core does not hold full: the read is pending. -/
theorem futRdOp_pends {home : Nat} {own : Bool} (alone : (curSlot s).paired = false) (ex : readA x s = .ok (p, s1))
    (target : futTarget p false s1 = .ok ((home, off, own), s1)) (empty : (own && !(curCtx s1).isEmpty off) = false)
    (core : (own && !isCompute home) = false) :
    futRdOp d x s = pendRead d p home off own (futDesc .ldA home off (spaceOf p)) s1 := by
  have single : (curSlot s1).paired = false := (Read.of_readA ex).paired.trans alone
  unfold futRdOp
  rw [bind_ok ex, bind_ok target]
  dsimp only
  rw [bind_ok (agreeFirst_ok (.inl single)), get_bind]
  rw [if_neg (by rw [empty]; exact Bool.false_ne_true), bind_ok (stopIf_ok (by rw [core]; exact Bool.false_ne_true))]

theorem futClrOp_own (alone : (curSlot s).paired = false) (ex : readA x s = .ok (p, s1))
    (target : checkPointer s1 p 8 3 true false false = .ok (.own off)) (plain : inLine s1 (curLaunch s1) (curHart s1) off = false)
    (full : (curCtx s1).isEmpty off = false) (order : inOrder (futDesc .st (curHart s1) off (spaceOf p)) s1 = .ok ((), u))
    (unsure : sureAt u (curLaunch s1) (futDesc .st (curHart s1) off (spaceOf p)).loc = false) :
    futClrOp x s = .ok ((), emptyFuture u (curLaunch s1) (curHart s1) off) := by
  have single : (curSlot s1).paired = false := (Read.of_readA ex).paired.trans alone
  unfold futClrOp
  rw [bind_ok ex, bind_ok (futTarget_own target plain)]
  dsimp only
  rw [get_bind]
  rw [if_pos rfl, bind_ok (stopIf_ok (by simp [full])), bind_ok (agreeFirst_ok (.inl single)), bind_ok order, get_bind,
    bind_ok (stopIf_ok (by rw [unsure]; exact Bool.false_ne_true)), full]
  rfl

theorem futClrOp_linked (ex : readA x s = .ok (p, s1)) (target : checkPointer s1 p 8 3 true false false = .ok (.own off))
    (plain : inLine s1 (curLaunch s1) (curHart s1) off = false) (empty : (curCtx s1).isEmpty off = true)
    (waiting : Memory.readN (curCtx s1).scratch off 2 ≠ 0) :
    futClrOp x s = .error (.trap ⟨codeQueueMisuse, 0x032, p⟩ none) := by
  unfold futClrOp
  rw [bind_ok ex, bind_ok (futTarget_own target plain)]
  dsimp only
  rw [get_bind]
  rw [if_pos rfl]
  exact bind_error ((stopIf_stop (by simp [empty, waiting])).trans rfl)

/-- The operands of fut.wr and of fut.rdc. -/
structure FutReads (x y : ASrc) (s s1 s2 : State) (p w : Word) : Prop where
  alone : (curSlot s).paired = false
  pointer : readA x s = .ok (p, s1)
  operand : readA y s1 = .ok (w, s2)

namespace FutReads

variable (r : FutReads x y s s1 s2 p w)
include r

theorem read : Read s s2 := (Read.of_readA r.pointer).trans (Read.of_readA r.operand)
theorem single : (curSlot s2).paired = false := r.read.paired.trans r.alone

end FutReads

theorem futWrOp_own {v : State} (r : FutReads x y s s1 s2 p w) (target : checkPointer s2 p 8 3 true false false = .ok (.own off))
    (plain : inLine s2 (curLaunch s2) (curHart s2) off = false) (empty : (curCtx s2).isEmpty off = true)
    (order : inOrder (futDesc .stR (curHart s2) off (spaceOf p)) (flushScope (curLaunch s2) (curHart s2) .module s2) = .ok ((), v))
    (seq : hasSseq s2 (curLaunch s2) (curHart s2) (waitersOf s2 (curLaunch s2) (curHart s2) off).length = true) :
    futWrOp x y s = .ok ((), fillFuture v (curLaunch s2) (curHart s2) off w) := by
  unfold futWrOp
  rw [bind_ok r.pointer, bind_ok r.operand, bind_ok (futTarget_own target plain)]
  dsimp only
  rw [bind_ok (noteResult_unpaired r.single), get_bind]
  rw [if_pos rfl, bind_ok (stopIf_ok (by simp [empty])), bind_ok (agreeFirst_ok (.inl r.single)), pushBytes, modState_bind, bind_ok order,
    bind_ok (stopIf_ok (by simp [seq]))]
  rfl

theorem futWrOp_full (r : FutReads x y s s1 s2 p w) (target : checkPointer s2 p 8 3 true false false = .ok (.own off))
    (plain : inLine s2 (curLaunch s2) (curHart s2) off = false) (full : (curCtx s2).isEmpty off = false) :
    futWrOp x y s = .error (.trap ⟨codeQueueMisuse, 0x031, p⟩ none) := by
  unfold futWrOp
  rw [bind_ok r.pointer, bind_ok r.operand, bind_ok (futTarget_own target plain)]
  dsimp only
  rw [bind_ok (noteResult_unpaired r.single), get_bind]
  rw [if_pos rfl]
  exact bind_error ((stopIf_stop (by simp [full])).trans rfl)

theorem readNum_ok {n : Fin 16} (free : (curSlot s).pendingOn (.a n) = none) : readNum n.val s = .ok ((curSlot s).a[n], s) := by
  rw [readNum, Fin.ofNat_val_eq_self]
  exact readA_a free

/-- The continuation channel of fut.rdc, in the low bits of its register. -/
theorem chan_ne {c : BitVec 6} (other : c ≠ 63) : ¬ c.toNat = 63 := fun e => other (BitVec.eq_of_toNat_eq e)

theorem futRdcOp_full {n : Fin 16} (r : FutReads x y s s1 s2 p w) (target : checkPointer s2 p 8 3 false false false = .ok (.own off))
    (plain : inLine s2 (curLaunch s2) (curHart s2) off = false) (free : (curSlot s2).pendingOn (.a n) = none)
    (other : (curSlot s2).a[n].extractLsb' 0 6 ≠ 63) (full : (curCtx s2).isEmpty off = false)
    (order : inOrder (futDesc .ldA (curHart s2) off (spaceOf p)) s2 = .ok ((), u))
    (seq : hasSseq s2 (curLaunch s2) (curHart s2) 1 = true) :
    let r := recallU u (curLaunch s2) (curHart s2) off
    futRdcOp n x y s = .ok ((), sendContinuation r (curLaunch s2) (curHart s2) (curHart s2) ((curSlot s2).a[n].extractLsb' 0 6).toNat
      (BitVec.ofNat 64 (leValue ((curCtx r).read (curHart s2) off 8))) w) := by
  intro r'
  unfold futRdcOp
  rw [bind_ok r.pointer, bind_ok r.operand, bind_ok (readNum_ok free), bind_ok (futTarget_own target plain)]
  dsimp only
  rw [bind_ok (stopIf_ok (chan_ne other)), bind_ok (agreeFirst_ok (.inl r.single)), get_bind]
  rw [if_pos (full_own full), bind_ok order, bind_ok (stopIf_ok (by simp [seq])), get_bind,
    curCtx_of_slotsKept ((inOrder_slotsKept order).trans (slotsKept_recallU ..))]
  rfl

theorem futRdcOp_reply {n : Fin 16} {t : Nat × Nat × Bool} (r : FutReads x y s s1 s2 p w) (target : futTarget p false s2 = .ok (t, s2))
    (free : (curSlot s2).pendingOn (.a n) = none) (reply : (curSlot s2).a[n].extractLsb' 0 6 = 63) :
    futRdcOp n x y s = .error (.trap ⟨codeQueueMisuse, 0x030, p⟩ none) := by
  unfold futRdcOp
  rw [bind_ok r.pointer, bind_ok r.operand, bind_ok (readNum_ok free), bind_ok target]
  exact bind_error ((stopIf_stop (by rw [reply]; rfl)).trans rfl)

/-! ## The words on another core -/

/-- A word that sends an operation which the message engine keeps, and does nothing more. -/
theorem sendsKept_of_sendKept {i : Instr} {op : NetOp} {desc : OpDesc} (alone : (curSlot s).paired = false) (r : Read s s1)
    (room : (curSlot s1).sb.length < 16)
    (run : ∀ it t, sendKept op desc 0 s1 = .ok (it, t) → exec i s = .next (endA false t)) : SendsKept i s s1 op 0 := by
  obtain ⟨it, t, e, ran, sent, goes, he, slot, copy⟩ := sendVia_ok true op desc 0 (r.paired.trans alone) room
  exact sendsKept_of (run it t ran) alone r goes sent (slot ▸ Slot.mem_addEntry _ e) (by rw [he]) (by rw [he]; rfl) (by rw [he]; rfl)
    (r.curHart ▸ copy)

variable {home : Nat} {c : Bool}

theorem futRdc_sends {n : Fin 16} (h : AReady s) (r : FutReads x y s s1 s2 p w)
    (target : checkPointer s2 p 8 3 false false false = .ok (.mesh home off c)) (room : (curSlot s2).sb.length < 16)
    (free : (curSlot s2).pendingOn (.a n) = none) (other : (curSlot s2).a[n].extractLsb' 0 6 ≠ 63) :
    SendsKept (.futRdc n x y) s s2 (.futRdc p ((curSlot s2).a[n].extractLsb' 0 6).toNat w) 0 := by
  refine sendsKept_of_sendKept (desc := futDesc .ldA home off (spaceOf p)) r.alone r.read room fun it t ran => plainA_ok h ?_
  unfold futRdcOp
  rw [bind_ok r.pointer, bind_ok r.operand, bind_ok (readNum_ok free), bind_ok (futTarget_mesh target)]
  dsimp only
  rw [bind_ok (stopIf_ok (chan_ne other)), bind_ok (agreeFirst_ok (.inl r.single)), get_bind]
  rw [if_neg (by simp), bind_ok (stopIf_ok (by simp)), if_neg (by simp), bind_ok ran]
  rfl

theorem futWr_sends (h : AReady s) (r : FutReads x y s s1 s2 p w)
    (target : checkPointer s2 p 8 3 true false false = .ok (.mesh home off c)) (room : (curSlot s2).sb.length < 16) :
    SendsKept (.futWr x y) s s2 (.futWr p w) 0 := by
  refine sendsKept_of_sendKept (desc := futDesc .stR home off (spaceOf p)) r.alone r.read room fun it t ran => plainA_ok h ?_
  unfold futWrOp
  rw [bind_ok r.pointer, bind_ok r.operand, bind_ok (futTarget_mesh target)]
  dsimp only
  rw [bind_ok (noteResult_unpaired r.single), get_bind]
  rw [if_neg Bool.false_ne_true, bind_ok ran]
  rfl

theorem futClr_sends (h : AReady s) (alone : (curSlot s).paired = false) (ex : readA x s = .ok (p, s1))
    (target : checkPointer s1 p 8 3 true false false = .ok (.mesh home off c)) (room : (curSlot s1).sb.length < 16) :
    SendsKept (.futClr x) s s1 (.futClr p) 0 := by
  refine sendsKept_of_sendKept (desc := futDesc .st home off (spaceOf p)) alone (.of_readA ex) room fun it t ran => plainA_ok h ?_
  unfold futClrOp
  rw [bind_ok ex, bind_ok (futTarget_mesh target)]
  dsimp only
  rw [get_bind]
  rw [if_neg Bool.false_ne_true, bind_ok ran]
  rfl

theorem futRd_sends (h : AReady s) (alone : (curSlot s).paired = false) (ex : readA x s = .ok (p, s1))
    (target : checkPointer s1 p 8 3 false false false = .ok (.mesh home off c)) (room : (curSlot s1).sb.length < 16)
    (nums : NumsFree s1) (takes : Takes (curSlot s1) d) :
    ∃ tag : Word, tag.extractLsb' 0 3 = BitVec.ofNat 3 (curNum s) ∧ SendsFor (.futRd d x) s s1 (.futRd p tag) 4 (some d) false := by
  have r := Read.of_readA ex
  obtain ⟨t, num, it, e, ran, goes, sent, pends⟩ := pendRead_mesh (p := p) (home := home) (off := off)
    (futDesc .ldA home off (spaceOf p)) (r.paired.trans alone) takes room nums
  refine ⟨BitVec.ofNat 64 (curNum s + 8 * num), extractLsb'_tag .., ?_⟩
  rw [r.curNum] at sent
  refine pends.kind ▸ sendsFor_of (plainA_ok h ?_) alone r goes sent pends.mem pends.item pends.kept pends.dst
  rw [futRdOp_pends alone ex (futTarget_mesh target) (by rfl) (by rfl)]
  exact ran

/-! ## The words on the own scratchpad -/

/-- fut.rd of an empty word of the own scratchpad. -/
theorem futRd_waits {n : Nat} {ns : List Nat} (h : AReady s) (alone : (curSlot s).paired = false) (ex : readA x s = .ok (p, s1))
    (target : checkPointer s1 p 8 3 false false false = .ok (.own off)) (plain : inLine s1 (curLaunch s1) (curHart s1) off = false)
    (empty : (curCtx s1).isEmpty off = true) (core : isCompute (curHart s1) = true) (room : (curSlot s1).sb.length < 16)
    (nums : NumsFree s1) (order : inOrder (futDesc .ldA (curHart s1) off (spaceOf p)) s1 = .ok ((), u))
    (free : (curCtx s1).futFree = n :: ns) (takes : Takes (curSlot s1) d) :
    ∃ (t : State) (e : SbEntry) (num : Nat), exec (.futRd d x) s = .next t ∧ (curSlot t).pc = (curSlot s).pc + 1 ∧
      e ∈ (curSlot t).sb ∧ e.kind = 4 ∧ e.dst = some d ∧ e.num = some num ∧ (curCtx t).futFree = ns := by
  have r := Read.of_readA ex
  obtain ⟨t, num, it, e, ran, slot, pends, taken⟩ := pendRead_own (p := p) (off := off)
    (r.paired.trans alone) free takes room nums order
  have single : (curSlot t).paired = false := by rw [slot, r.paired, alone]
  refine ⟨endA false t, e, num, plainA_ok h ?_, ?_, ?_, pends.kind, pends.dst, pends.num, by rw [curCtx_endA, taken]⟩
  · rw [futRdOp_pends alone ex (futTarget_own target plain) (by rw [empty]; rfl) (by rw [core]; rfl)]
    exact ran
  · rw [endA_unpaired single, curSlot_putCur, slot]
    simp only [Slot.retireA]
    rw [r.slot]
  · rw [endA_unpaired single, curSlot_putCur]
    exact pends.mem

theorem curCtx_emptyFuture (order : inOrder (futDesc .st (curHart s1) off (spaceOf p)) s1 = .ok ((), u)) :
    curCtx (emptyFuture u (curLaunch s1) (curHart s1) off) = emptied off (curCtx (recallU u (curLaunch s1) (curHart s1) off)) := by
  have kept := inOrder_slotsKept order
  rw [curCtx_of_slotsKept (kept.trans (slotsKept_emptyFuture ..)), ctxOf_emptyFuture,
    curCtx_of_slotsKept (kept.trans (slotsKept_recallU ..))]

/-- What a write leaves of the core's own context, once its bytes are pushed and it is in order. -/
theorem curCtx_fillFuture {desc : OpDesc} {v : State}
    (order : inOrder desc (flushScope (curLaunch s2) (curHart s2) .module s2) = .ok ((), v)) :
    (curCtx (fillFuture v (curLaunch s2) (curHart s2) off w)).isEmpty off = false ∧
      (curCtx (fillFuture v (curLaunch s2) (curHart s2) off w)).scratch = Memory.writeN (curCtx s2).scratch off 8 w.toNat := by
  have kept := (slotsKept_flushScope (curLaunch s2) (curHart s2) .module s2).trans (inOrder_slotsKept order)
  have same : ctxOf v (curHart s2) (curLaunch s2) = curCtx s2 :=
    ctxOf_congr ((ctxs_inOrder order _).trans (ctxs_flushScope ..)) _
  rw [curCtx_of_slotsKept (kept.trans (slotsKept_fillFuture ..)), ctxOf_fillFuture, same]
  exact ⟨filled_isEmpty off w (curCtx s2), rfl⟩

end

/-! ## The statement -/

/-- Settles O27: the words from one equation of each operation, their turns at the home, and the walk of the waiters. -/
theorem futures : Obligations.Futures := by
  unfold Obligations.Futures
  refine ⟨fun x y s s1 s2 p w ready alone ex ey => ?words, fun s t k it p a => ?homes,
    sendContinuation_homeSends, fun s L home off v => ?walk,
    fun m base fuel n => ⟨waiters_none m base fuel, waiters_cons m base fuel⟩⟩
  case homes =>
    intro home L off mine plain
    exact ⟨fun tag op => futRd_arrives a mine plain op, fun chan tag op => futRdc_arrives a mine plain op,
      fun v op => futWr_arrives a mine plain op, fun op => futClr_arrives a mine plain op⟩
  case walk =>
    obtain ⟨net, sseq, free, answers⟩ := fillFuture_serves s L home off v
    refine ⟨net, sseq, free, fun i node chan sender tag here => ?_⟩
    obtain ⟨it, there, header, answer⟩ := answers i _ here
    exact ⟨it, header, there, answer⟩
  case words =>
    have read1 := Read.of_readA ex
    have r : FutReads x y s s1 s2 p w := ⟨alone, ex, ey⟩
    refine ⟨fun off plain => ?_, fun off plain target => ?_, fun home off c => ?_⟩
    · rw [← read1.curHart, ← read1.curLaunch] at plain ⊢
      refine ⟨fun target => ⟨fun full d u t order written => ?_, fun empty core room nums d n ns u order free takes => ?_⟩,
        fun target => ⟨fun empty waiting => ?_, fun full u order unsure => ?_⟩⟩
      · exact plainA_ok ready (futRdOp_full alone ex target plain full order written)
      · exact futRd_waits ready alone ex target plain empty core room nums order free takes
      · exact plainA_trap ready (k := none) (futClrOp_linked ex target plain empty waiting)
      · have ends := curCtx_emptyFuture order
        refine ⟨_, plainA_ok ready (futClrOp_own alone ex target plain full order unsure), ?_, fun a outside => ?_⟩
        · rw [ends]
          exact emptied_isEmpty off _
        · rw [ends]
          exact Memory.read_writeN_outside _ _ _ _ _ outside
    · rw [← r.read.curHart, ← r.read.curLaunch] at plain ⊢
      refine ⟨fun full => plainA_trap ready (k := none) (futWrOp_full r target plain full), fun v empty order seq => ?_⟩
      obtain ⟨full, scratch⟩ := curCtx_fillFuture (off := off) (w := w) order
      refine ⟨_, plainA_ok ready (futWrOp_own r target plain empty order seq), full, fun wf i inside => ?_, fun a outside => ?_⟩
      · rw [scratch]
        exact Memory.read_writeBytes_inside _ _ _ _ (by rw [leBytes_length]; exact inside) wf
      · rw [scratch]
        exact Memory.read_writeN_outside _ _ _ _ _ outside
    · refine ⟨fun target room nums d takes => futRd_sends ready alone ex target room nums takes,
        fun n target room free => ⟨futRdc_sends ready r target room free, fun reply =>
          plainA_trap ready (k := none) (futRdcOp_reply r (futTarget_mesh target) free reply)⟩,
        fun n u target free other plain full order seq => ?_, futWr_sends ready r, futClr_sends ready alone ex⟩
      rw [← r.read.curHart, ← r.read.curLaunch] at plain seq ⊢
      rw [← r.read.curHart] at order
      exact plainA_ok ready (futRdcOp_full r target plain free other full order seq)

end Sys2Proof.Machine
end

section
/-! SUPPORT. The coalescing timer on an L1 that holds a line twice (spec/03 R54, spec/14 R244). -/

namespace Sys2Proof.Machine

/-! ## A key held twice

A core's L1 is a list of keyed lines, and a line at its reset value is taken out of it. The statement ranges over every state, so over
lists that hold one key twice: taking out the first line of the key uncovers the second. No state in which each key stands once does
this. -/

theorem Hart.line_putLine_reset {H : Hart} {k : Nat} {a b : L1Line} {ls : SMap L1Line} (twice : H.l1 = (k, a) :: (k, b) :: ls) :
    (H.putLine k L1Line.reset).line k = b := by
  simp [Hart.line, Hart.putLine, twice, SMap.erase, SMap.getD, SMap.find]

/-- The timer of a line with coalesced stores and nothing else leaves the line reset. -/
theorem line_flushLine {s : State} {L h k : Nat} {ps : List PendStore} {since : Nat}
    (line : (hartOf s h).line k = { L1Line.reset with stores := ps, since := since }) (some' : ps ≠ []) :
    hartOf (flushLine L h k s) h = (hartOf s h).putLine k L1Line.reset := by
  unfold flushLine
  dsimp only
  rw [line, if_neg (by simpa using some')]
  exact hartOf_putHart_same ..

/-- A line whose one store was coalesced at cycle 0. -/
def storedLine : L1Line := { L1Line.reset with stores := [⟨0, 0, [1]⟩] }

/-- Core 0 with that line twice under key 0, as its time is over. -/
def doubled : State :=
  { State.reset with
    harts := [(0, { Hart.reset with ctxs := [Ctx.reset 0], l1 := [(0, storedLine), (0, storedLine)] })]
    cycle := 64 }

/-- Refutes O31: the flush of a line that core 0 holds twice takes out the first and leaves the second, with its store. -/
theorem not_meshArrivals : ¬ Obligations.MeshArrivals := by
  unfold Obligations.MeshArrivals
  rintro ⟨-, -, timer, -⟩
  obtain ⟨due, -⟩ := timer doubled 0 0 (Ctx.reset 0) [] rfl (by nofun)
  obtain ⟨t, it, run, -, -, empty⟩ := due (Nat.le_refl 64)
  have flushed : exec (.coalesceFlushTimer 0 0) doubled = .next (flushLine 0 0 0 doubled) := rfl
  obtain rfl : flushLine 0 0 0 doubled = t := Host.Outcome.next.inj (flushed.symm.trans run)
  have uncovered : (hartOf (flushLine 0 0 0 doubled) 0).line 0 = storedLine := by
    rw [line_flushLine (ps := storedLine.stores) (since := 0) rfl (by nofun)]
    exact Hart.line_putLine_reset rfl
  rw [uncovered] at empty
  nomatch empty

end Sys2Proof.Machine
end

section
/-! SUPPORT. A memory error in an L1 that holds a line twice (spec/03 R59). -/

namespace Sys2Proof.Machine

/-- A line that is a clean copy and nothing more. -/
def cleanLine : L1Line := { L1Line.reset with shared := some 0 }

/-- Core 0 with that line twice under key 0. -/
def doubledClean : State :=
  { State.reset with harts := [(0, { Hart.reset with l1 := [(0, cleanLine), (0, cleanLine)] })] }

theorem hartOf_refetched (s : State) (h : Nat) : hartOf (refetched s) h = hartOf s h := rfl

/-- Refutes O51: an uncorrectable error in a clean copy that core 0 holds twice takes out the first and leaves the second. Like the
counterexample to O31, it needs a list that holds one key twice. -/
theorem not_errorsPagesAndFences : ¬ Obligations.ErrorsPagesAndFences := by
  unfold Obligations.ErrorsPagesAndFences
  rintro ⟨-, uncorrectable, -⟩
  obtain ⟨t, run, -, -, -, clean, -⟩ := uncorrectable doubledClean (.l1 0 0)
  obtain ⟨gone, -⟩ := clean 0 0 rfl rfl rfl
  have consumed : exec (.uncorrectableErrorConsumed (.l1 0 0)) doubledClean = .next (errorAt (.l1 0 0) doubledClean) := rfl
  obtain rfl : errorAt (.l1 0 0) doubledClean = t := Host.Outcome.next.inj (consumed.symm.trans run)
  have refetches : ∃ s, errorAt (.l1 0 0) doubledClean = refetched (putHart s 0 ((hartOf doubledClean 0).putLine 0 L1Line.reset)) :=
    ⟨_, rfl⟩
  have uncovered : (hartOf (errorAt (.l1 0 0) doubledClean) 0).line 0 = cleanLine := by
    obtain ⟨s, refetch⟩ := refetches
    rw [refetch, hartOf_refetched, hartOf_putHart_same]
    exact Hart.line_putLine_reset rfl
  rw [uncovered] at gone
  nomatch gone

end Sys2Proof.Machine
end

section
/-! SUPPORT. The close of a ply: the advance of a watermark, the contexts of the next ply, and the slots that go on (spec/04 R72 R74 R78,
spec/06 R114, spec/14 R257). -/

namespace Sys2Proof.Machine

/-! ## Contexts that settling entries leaves alone (R72, R108) -/

/-- Every core keeps its contexts from s to t. -/
structure CtxsKept (s t : State) : Prop where
  ctxs : ∀ h, (hartOf t h).ctxs = (hartOf s h).ctxs

theorem CtxsKept.refl (s : State) : CtxsKept s s := ⟨fun _ => rfl⟩

theorem CtxsKept.trans {s t u : State} (a : CtxsKept s t) (b : CtxsKept t u) : CtxsKept s u :=
  ⟨fun h => (b.ctxs h).trans (a.ctxs h)⟩

theorem CtxsKept.ctxOf {s t : State} (a : CtxsKept s t) (h L : Nat) : ctxOf t h L = ctxOf s h L := ctxOf_congr (a.ctxs h) L

theorem CtxsKept.foldl {α : Type} {f : State → α → State} (keeps : ∀ s a, CtxsKept s (f s a)) (xs : List α) (s : State) :
    CtxsKept s (xs.foldl f s) :=
  List.foldlRecOn xs f (.refl s) fun _ kept a _ => kept.trans (keeps _ a)

theorem ctxsKept_putHart {s : State} {h : Nat} {H : Hart} (same : H.ctxs = (hartOf s h).ctxs) : CtxsKept s (putHart s h H) :=
  ⟨hartOf_putHart_keeps (·.ctxs) same⟩

theorem ctxsKept_noteFpr (s : State) (h : Nat) (w : Word) : CtxsKept s (noteFpr s h w) :=
  (ctxsKept_putHart (by rfl)).trans (ctxsKept_putHart (by rfl))

theorem ctxsKept_notePair (s : State) (src : Issuer) (id : Nat) (w : Word) (e : QEntry) (flag : Word) :
    CtxsKept s (notePair s src id w e flag) := by
  unfold notePair
  extract_lets σ t H
  have noted : CtxsKept s t := by
    dsimp only [t]
    split
    · exact ctxsKept_noteFpr ..
    · exact .refl s
  split
  · exact noted.trans (ctxsKept_putHart (by rfl))
  · exact .refl s

theorem ctxsKept_settleSb (s : State) (src : Issuer) (id : Nat) (w : Word) (e : QEntry) (flag : Word) :
    CtxsKept s (settleSb s src id w e flag) := by
  unfold settleSb
  split
  · exact (ctxsKept_notePair ..).trans (ctxsKept_putHart (by rfl))
  · exact .refl s

theorem ctxsKept_dropOut (s : State) (h id : Nat) : CtxsKept s (dropOut s h id) := ctxsKept_putHart (by rfl)

theorem ctxsKept_settleNamed (s : State) (L h n num kind : Nat) (w : Word) : CtxsKept s (settleNamed s L h n num kind w) := by
  unfold settleNamed
  split
  · exact (ctxsKept_settleSb ..).trans (ctxsKept_dropOut ..)
  · exact ctxsKept_putHart (by rfl)

theorem ctxsKept_serveWaiting (home L : Nat) (s : State) (it : NetItem) : CtxsKept s (serveWaiting home L s it) := by
  unfold serveWaiting
  split
  · split
    · exact (ctxsKept_settleSb ..).trans (ctxsKept_dropOut ..)
    · exact .refl s
  · exact .refl s

/-! ## The advance of a watermark (R72 to R74) -/

/-- The replies of an advance reach slots alone, so that the unit stands as the advance has put it. -/
theorem swm_advanceUnit (L : Nat) (n : BitVec 16) (s : State) (home : Nat) :
    (ctxOf (advanceUnit L n s home) home L).unit.swm = endOf n := by
  unfold advanceUnit
  extract_lets c r _ u t v
  have replied : CtxsKept t v := .foldl (fun t _ => ctxsKept_settleNamed t ..) r.2 t
  have served := replied.trans (.foldl (ctxsKept_serveWaiting home L) (c.unit.waiting.filter fun it => bound it n) v)
  have put : ctxOf t home L = { c with unit := u } := ctxOf_putCtx_unit s home L u
  rw [served.ctxOf, put]

/-- A core with one context advances that one's unit, if it has its total. -/
theorem exec_sequenceWatermarkAdvance {s : State} {unit : Nat} {c : Ctx} (one : (hartOf s unit).ctxs = [c]) :
    exec (.sequenceWatermarkAdvance unit) s =
      .next (if caughtUp c.unit then advanceUnit c.launch (stampPly c.unit.swm + 1) s unit else s) := by
  change execSequenceWatermarkAdvance unit s = _
  simp only [execSequenceWatermarkAdvance, event, one, List.foldl_cons, List.foldl_nil]

/-! ## The ring (R114) -/

theorem insertEntry_perm (e : RingEntry) (es : List RingEntry) : (insertEntry e es).Perm (e :: es) := by
  induction es with
  | nil => exact .refl _
  | cons f fs ih =>
    unfold insertEntry
    split
    · exact .refl _
    · exact (ih.cons f).trans (.swap e f fs)

theorem sortEntries_perm (es : List RingEntry) : (es.foldr insertEntry []).Perm es := by
  induction es with
  | nil => exact .refl _
  | cons e es ih => exact (insertEntry_perm e _).trans (ih.cons e)

theorem length_releaseParked (n : BitVec 16) (age : Nat) (ring : List RingEntry) : (releaseParked n age ring).length = ring.length := by
  unfold releaseParked
  extract_lets mine sorted
  have all : sorted.length = (ring.filter mine).length := (sortEntries_perm _).length_eq
  rw [List.length_append, List.length_map, List.length_zip, upFrom_eq, List.length_range', Nat.min_self, all, Nat.add_comm]
  exact (List.length_eq_length_filter_add mine).symm

/-- No entry of ply n is parked once those of ply n have been released. -/
theorem not_parked_of_mem_releaseParked {n : BitVec 16} {age : Nat} {ring : List RingEntry} {e : RingEntry}
    (mem : e ∈ releaseParked n age ring) : ¬ (e.state = .parked ∧ e.header.extractLsb' 32 16 = n) := by
  rintro ⟨parked, ply⟩
  rcases List.mem_append.1 mem with old | released
  · have stamped : stampPly (stampOf e.header) = n := by
      rw [← ply]
      ext i below
      simp [stampPly, stampOf]
    have passed := (List.mem_filter.1 old).2
    simp [parked, stamped] at passed
  · obtain ⟨x, -, rfl⟩ := List.mem_map.1 released
    cases parked

/-! ## A context at the close (R30, R78) -/

/-- Two contexts that differ in their bytes, the amax partials and the updates held for a later ply alone. -/
def AmaxOnly (c d : Ctx) : Prop := d = { c with scratch := d.scratch, amaxOpen := d.amaxOpen, amaxHeld := d.amaxHeld }

theorem AmaxOnly.trans {c d e : Ctx} (a : AmaxOnly c d) (b : AmaxOnly d e) : AmaxOnly c e := by
  unfold AmaxOnly at *
  rw [b, a]

theorem AmaxOnly.foldl {α : Type} {f : Ctx → α → Ctx} (keeps : ∀ c a, AmaxOnly c (f c a)) (xs : List α) (c : Ctx) :
    AmaxOnly c (xs.foldl f c) := List.foldlRecOn xs f rfl fun _ e a _ => e.trans (keeps _ a)

theorem placeAmax_amaxOnly {c d : Ctx} {off n : Nat} {op : AmoOp} {ply : BitVec 16} (placed : placeAmax c off op n ply = some d) :
    AmaxOnly c d := by
  unfold placeAmax at placed
  dsimp only at placed
  split at placed
  · cases placed
    rfl
  split at placed
  · cases placed
    rfl
  · cases placed

theorem closeAmax_amaxOnly (c : Ctx) (new : BitVec 16) : AmaxOnly { c with ply := new } (c.closeAmax new) := by
  unfold Ctx.closeAmax
  extract_lets c1 c2
  have merged : AmaxOnly c c1 := .foldl (fun _ _ => by rfl) _ c
  have opened : AmaxOnly { c with ply := new } c2 := by
    have put : c2 = { c1 with amaxOpen := [], amaxHeld := [], ply := new } := rfl
    rw [put, merged]
    rfl
  refine opened.trans (.foldl (fun d it => ?_) _ c2)
  split
  case h_1 p op t ply _ =>
    cases placed : placeAmax d (offOf p) op t.toNat ply with
    | none => rfl
    | some e => exact placeAmax_amaxOnly placed
  case h_2 => rfl

/-- Of what the close changes, the merging of the partials sets the ply. -/
theorem closeAmax_keeps (c : Ctx) (new : BitVec 16) : let d := c.closeAmax new
    d.ply = new ∧ d.sseq = c.sseq ∧ d.arrived = c.arrived ∧ d.appends = c.appends ∧ d.ring = c.ring := by
  dsimp only
  rw [closeAmax_amaxOnly]
  exact ⟨rfl, rfl, rfl, rfl, rfl⟩

theorem amaxOpen_closeAmax {c : Ctx} (none' : c.amaxHeld = []) (new : BitVec 16) : (c.closeAmax new).amaxOpen = [] := by
  unfold Ctx.closeAmax
  rw [none']
  rfl

/-- A context of the closed ply n with its parked entries released, its sequence values and counts of appends started again, before its
amax partials are merged. -/
def Ctx.turned (n : BitVec 16) (age : Nat) (c : Ctx) : Ctx :=
  { c with ring := releaseParked n age c.ring, sseq := 0, appends := [], arrived := false }

theorem ctxOf_invalidateOpen (s : State) (home : Nat) (c : Ctx) (h L : Nat) : ctxOf (invalidateOpen s home c) h L = ctxOf s h L :=
  List.foldlRecOn (motive := fun t => ctxOf t h L = ctxOf s h L) _ _ rfl
    fun t same x _ => (ctxOf_invalidate t home (x.1 / 2) h L).trans same

/-- What the close of ply n at a core makes of its context. -/
theorem ctxOf_closeCore (L : Nat) (n : BitVec 16) (s : State) (h : Nat) :
    ∃ age, ctxOf (closeCore L n s h) h L = ((ctxOf s h L).turned n age).closeAmax (n + 1) := by
  unfold closeCore
  extract_lets t c c1 u H
  have context : c = ctxOf s h L := ctxOf_invalidateOpen ..
  have launch : (c1.closeAmax (n + 1)).launch = L := by
    rw [closeAmax_amaxOnly c1 (n + 1)]
    exact ctxOf_launch t h L
  have put : ctxOf u h L = c1.closeAmax (n + 1) := ctxOf_putCtx_same launch
  refine ⟨t.nextId, Eq.trans ?_ (put.trans (by rw [← context]; rfl))⟩
  split
  · exact (ctxsKept_putHart (by rfl)).ctxOf h L
  · rfl

/-! ## The slots that wait at the barrier (R257) -/

theorem slotOf_retireAt_same (s : State) (h n : Nat) (σ : Slot) (lone : Bool) (fl : Flow) :
    slotOf (retireAt s h n σ lone fl) h n = σ.retireA lone fl :=
  (hartOf_countBundle_keeps (·.slot n) h n σ.agreed _ (fun _ _ _ => rfl) h).trans (slotOf_putSlot_same ..)

theorem slotOf_retireAt_other {s : State} {h n k m : Nat} {σ : Slot} {lone : Bool} {fl : Flow} (d : k ≠ h ∨ m % 8 ≠ n % 8) :
    slotOf (retireAt s h n σ lone fl) k m = slotOf s k m :=
  (hartOf_countBundle_keeps (·.slot m) h n σ.agreed _ (fun _ _ _ => rfl) k).trans (slotOf_putSlot_other d)

/-- Does a slot wait at the barrier of launch L? -/
def Slot.atBarrier (L : Nat) (σ : Slot) : Bool := σ.running && σ.ctx == L && σ.aWait == some .ply

/-- A slot as the barrier's end leaves it. -/
def Slot.resumed (L : Nat) (σ : Slot) : Slot := if σ.atBarrier L then σ.retireA false .next else σ

/-- A slot that has gone on waits no longer, so that its turn comes once. -/
theorem Slot.resumed_resumed (L : Nat) (σ : Slot) : (σ.resumed L).resumed L = σ.resumed L := by
  cases waits : σ.atBarrier L with
  | false => simp [resumed, waits]
  | true =>
    have gone : (σ.retireA false .next).atBarrier L = false := by simp [atBarrier, retireA]
    simp [resumed, waits, gone]

/-- The turn of slot n of a core as the barrier ends. -/
def resumeSlot (L h : Nat) (t : State) (n : Nat) : State :=
  if (slotOf t h n).atBarrier L then retireAt t h n (slotOf t h n) false .next else t

theorem resumePly_eq (L : Nat) (s : State) (h : Nat) : resumePly L s h = (upFrom 0 8).foldl (resumeSlot L h) s := rfl

theorem slotOf_resumeSlot_same (L h : Nat) (t : State) (n : Nat) : slotOf (resumeSlot L h t n) h n = (slotOf t h n).resumed L := by
  unfold resumeSlot Slot.resumed
  split
  · exact slotOf_retireAt_same ..
  · rfl

theorem slotOf_resumeSlot_other {L h : Nat} {t : State} {n m : Nat} (d : m % 8 ≠ n % 8) :
    slotOf (resumeSlot L h t n) h m = slotOf t h m := by
  unfold resumeSlot
  split
  · exact slotOf_retireAt_other (.inr d)
  · rfl

/-- Once the turns of some slots have been, each of them stands resumed. -/
theorem slotOf_foldl_resumeSlot {L h m : Nat} (below : m < 8) (ns : List Nat) (all : ∀ n ∈ ns, n < 8) (s : State) :
    slotOf (ns.foldl (resumeSlot L h) s) h m = if m ∈ ns then (slotOf s h m).resumed L else slotOf s h m := by
  induction ns generalizing s with
  | nil => rfl
  | cons n ns ih =>
    rw [List.foldl_cons, ih fun k mem => all k (List.mem_cons_of_mem n mem)]
    by_cases own : m = n
    · subst own
      simp [slotOf_resumeSlot_same, Slot.resumed_resumed]
    · have less := all n List.mem_cons_self
      rw [slotOf_resumeSlot_other (by omega)]
      simp [own]

theorem slotOf_mod (s : State) (h n : Nat) : slotOf s h (n % 8) = slotOf s h n := by simp [slotOf, Hart.slot]

theorem slotOf_resumePly (L : Nat) (s : State) (h n : Nat) : slotOf (resumePly L s h) h n = (slotOf s h n).resumed L := by
  have below : n % 8 < 8 := Nat.mod_lt n (by decide)
  have turns : ∀ k ∈ upFrom 0 8, k < 8 := by decide
  rw [← slotOf_mod, resumePly_eq, slotOf_foldl_resumeSlot below _ turns, if_pos ((mem_upFrom ..).2 (by omega)), slotOf_mod]

/-! ## The barrier of a plat (R74, R257) -/

section
variable {s : State} {p L : Nat} {l : Launch} (placed : (platOf s p).launch = some L) (here : launchOf s L = some l)
include placed here

theorem exec_plyBarrierComplete : exec (.plyBarrierComplete p) s = .next (if barrierReady s L l then closePly s L l else s) := by
  change execPlyBarrierComplete p s = _
  simp only [execPlyBarrierComplete, event, placed, here]

theorem exec_regimeChange : exec (.regimeChange p) s = .next (putLaunch s L { l with regimeNext := some (!l.regime) }) := by
  change execRegimeChange p s = _
  simp only [execRegimeChange, event, placed, modLaunch, here]

end

/-! ## The statement -/

/-- Settles O25: the advance by what the replies leave alone, the close by what it makes of a context, and the slots by their turns. -/
theorem plyCloses : Obligations.PlyCloses := by
  unfold Obligations.PlyCloses
  refine ⟨fun s unit c one => ?advance, fun s p L l placed here => ?barrier, fun s L h n => ?close,
    fun s L h n runs own waits => ?resume⟩
  case advance =>
    rw [exec_sequenceWatermarkAdvance one]
    exact ⟨fun caught => ⟨_, by rw [if_pos caught], swm_advanceUnit ..⟩, fun behind => by simp [behind]⟩
  case barrier =>
    rw [exec_plyBarrierComplete placed here]
    exact ⟨fun ready => by rw [if_pos ready], fun unready => by simp [unready], exec_regimeChange placed here⟩
  case close =>
    obtain ⟨age, closed⟩ := ctxOf_closeCore L n s h
    dsimp only
    rw [closed]
    obtain ⟨ply, sseq, arrived, appends, ring⟩ := closeAmax_keeps ((ctxOf s h L).turned n age) (n + 1)
    rw [ring]
    exact ⟨ply, sseq, arrived, fun none' => amaxOpen_closeAmax (c := (ctxOf s h L).turned n age) none' _, appends,
      fun e mem => not_parked_of_mem_releaseParked mem, length_releaseParked ..⟩
  case resume =>
    have stands : (slotOf s h n).atBarrier L = true := by simp [Slot.atBarrier, runs, own, waits]
    rw [slotOf_resumePly, Slot.resumed, if_pos stands]
    exact ⟨rfl, rfl⟩

end Sys2Proof.Machine
end

section
/-! SUPPORT. The resend of a copy that says of its operation that it has met its home before (spec/06 R111). -/

namespace Sys2Proof.Machine

/-- A copy whose back-off has run out goes into the mesh as an operation that has met no home yet. -/
theorem exec_messageResend_due {s : State} {k h d : Nat} {c : SendCopy} (kept : (allCopies s)[k]? = some (h, c)) (due : c.due = some d)
    (own : c.firstOwn = none) (past : d ≤ s.cycle) :
    ∃ u, exec (.messageResend k) s = .next u ∧ u.net = s.net ++ [{ c.item with since := s.cycle, met := none }] := by
  have going : ownOver s c = false := by simp [ownOver, own]
  change ∃ u, execMessageResend k s = .next u ∧ _
  simp only [execMessageResend, event, kept, due, going, past, if_true, Bool.false_eq_true, if_false]
  exact ⟨_, rfl, rfl⟩

/-- A copy of a message that is due, and that says that the message has met its home. An engine keeps an
operation as it was issued, and an arrival notes the meeting in the mesh alone, so that such a copy stands in no run. -/
def metCopy : SendCopy :=
  { item := { id := 0, src := ⟨0, 0, 0, 0⟩, op := .msg 1 0 [], prior := [], since := 0, met := some 0 }
    nacks := 0, due := some 0, retries := 0, firstOwn := none }

/-- Core 0 with that copy in its message engine. -/
def metSender : State := { State.reset with harts := [(0, { Hart.reset with copies := [metCopy] })] }

/-- Refutes O30: the message that a due copy sends again has met no home, whatever the copy says, so that it is not the copy's item with
the cycle of the resend. -/
theorem not_answersToSenders : ¬ Obligations.AnswersToSenders := by
  unfold Obligations.AnswersToSenders
  rintro ⟨-, resends⟩
  have kept : (allCopies metSender)[0]? = some (0, metCopy) := rfl
  obtain ⟨-, sends, -⟩ := resends metSender 0 0 metCopy 0 kept rfl
  obtain ⟨u, run, mem⟩ := sends (by rintro ⟨_, first, -⟩; nomatch first) (Nat.le_refl 0)
  obtain ⟨v, ran, net⟩ := exec_messageResend_due kept rfl rfl (Nat.le_refl 0)
  obtain rfl : u = v := Host.Outcome.next.inj (run.symm.trans ran)
  have empty : metSender.net = [] := rfl
  rw [net, empty, List.nil_append, List.mem_singleton] at mem
  have met : some 0 = none := congrArg NetItem.met mem
  nomatch met

end Sys2Proof.Machine
end

section
/-! SUPPORT. Fences and the end of a ply: fence.all and msg.plyend, and the statement on them (spec/05 R90, spec/14 R257, R258). -/

namespace Sys2Proof.Machine

open Sys2Proof.Claims

/-! ## Fences (R258) -/

section Fences

variable {s : State} (ready : AReady s) (sc : Scope)

theorem pushBytes_ok (s : State) : pushBytes sc s = .ok ((), flushScope (curLaunch s) (curHart s) sc s) := rfl

/-- fence.all once its bytes are pushed: a check that nothing earlier stands. -/
theorem fenceOp_eq (s : State) :
    fenceOp sc s =
      stopIf (!fenceDone (flushScope (curLaunch s) (curHart s) sc s) (curHart s) (curNum s) sc)
        (waitWith (.fence sc) (flushScope (curLaunch s) (curHart s) sc s)) (flushScope (curLaunch s) (curHart s) sc s) := by
  obtain ⟨kept, -⟩ := flushScope_issues (curLaunch s) (curHart s) sc s
  unfold fenceOp
  rw [bind_ok (pushBytes_ok sc s), get_bind, kept.curHart, kept.curNum]

include ready

theorem fenceAll_passes (done : fenceDone (flushScope (curLaunch s) (curHart s) sc s) (curHart s) (curNum s) sc = true) :
    exec (.fenceAll sc) s = .next (endA false (flushScope (curLaunch s) (curHart s) sc s)) :=
  plainA_ok ready ((fenceOp_eq sc s).trans (stopIf_ok (by simp [done])))

theorem fenceAll_waits (left : fenceDone (flushScope (curLaunch s) (curHart s) sc s) (curHart s) (curNum s) sc = false) :
    exec (.fenceAll sc) s = .next (markA (flushScope (curLaunch s) (curHart s) sc s) (.fence sc)) :=
  plainA_wait ready (k := some _) ((fenceOp_eq sc s).trans (stopIf_stop (by simp [left])))

end Fences

/-! ## The end of a ply (R257) -/

theorem priorsOf_nil {s : State} (none' : curEarlier s = []) (d : OpDesc) : priorsOf s d = [] := by
  rw [priorsOf, none']
  rfl

/-- Nothing earlier stands before a ply end that is the activation's first operation. -/
theorem plyOrder_first {s : State} (none' : curEarlier s = []) : plyOrder s = .ok ((), s) := by
  unfold plyOrder
  rw [priorsOf_nil none', none']
  rfl

theorem plyOrder_waits {s : State} (kept : priorsOf s plyDesc ≠ []) : ∃ ids, plyOrder s = .error (.order ids) := by
  have stands : (priorsOf s plyDesc).isEmpty = false := by simpa using kept
  exact ⟨_, by unfold plyOrder; rw [stands]; rfl⟩

/-- A ply end that is in order leaves the earlier operations, which their homes refuse no more (R98). -/
theorem plyOrder_ok {s u : State} (passed : plyOrder s = .ok ((), u)) : ∃ ids, u = makeSure s (curHart s) ids := by
  unfold plyOrder at passed
  extract_lets kept ids at passed
  split at passed
  · exact ⟨ids, (congrArg Prod.snd (Except.ok.inj passed)).symm⟩
  · cases passed

/-- The state in which a core has arrived at the barrier, its bytes being pushed. -/
def arrivedAt (u : State) : State :=
  let v := flushScope (curLaunch u) (curHart u) .plat u
  putCurCtx v { curCtx v with arrived := true }

section PlyEnd

variable {s : State} (ready : AReady s)

theorem plyendOp_eq (idle : ∀ e ∈ (curSlot s).sb, e.kind ≠ 6) :
    plyendOp s = (do
      plyOrder
      pushBytes .plat
      modState fun t => putCurCtx t { curCtx t with arrived := true }
      let t ← get
      waitWith .ply t : Op Unit) s := by
  unfold plyendOp
  rw [getSlot_bind]
  exact stopIf_bind (by simpa using idle) _ _ _

include ready

theorem msgPlyend_pending (open' : ∃ e ∈ (curSlot s).sb, e.kind = 6) : exec .msgPlyend s = .next (markA s (.pending 6)) := by
  refine plainA_wait ready (k := none) ?_
  unfold plyendOp
  rw [getSlot_bind]
  exact stopIf_bind_stop (by simpa using open') rfl _

variable (idle : ∀ e ∈ (curSlot s).sb, e.kind ≠ 6)
include idle

theorem msgPlyend_order (kept : priorsOf s plyDesc ≠ []) :
    ∃ ids, exec .msgPlyend s = .next (markA (flushIds (curLaunch s) (curHart s) ids s) .order) := by
  obtain ⟨ids, waits⟩ := plyOrder_waits kept
  have stops : plyendOp s = .error (.order ids) := (plyendOp_eq idle).trans (bind_error waits)
  exact ⟨ids, wordA_order false ready (bind_error stops)⟩

theorem msgPlyend_arrives {u : State} (passed : plyOrder s = .ok ((), u)) : exec .msgPlyend s = .next (markA (arrivedAt u) .ply) := by
  refine plainA_wait ready (k := some _) ((plyendOp_eq idle).trans ?_)
  rw [bind_ok passed, bind_ok (pushBytes_ok .plat u), modState_bind, get_bind]
  rfl

end PlyEnd

theorem makeSure_issues (s : State) (h : Nat) (ids : List Nat) : Issues 0 s (makeSure s h ids) ∧ curSlot (makeSure s h ids) = curSlot s := by
  unfold makeSure
  extract_lets H
  split
  · exact ⟨.refl s, rfl⟩
  · exact issues_putHart rfl rfl (List.Subset.refl _)

theorem curCtx_makeSure (s : State) (h : Nat) (ids : List Nat) : curCtx (makeSure s h ids) = curCtx s := by
  obtain ⟨kept, -⟩ := makeSure_issues s h ids
  rw [curCtx, kept.curHart, kept.curLaunch, ctxOf_congr (ctxs_makeSure s h ids _), curCtx]

theorem curCtx_flushScope (L h : Nat) (sc : Scope) (s : State) : curCtx (flushScope L h sc s) = curCtx s := by
  obtain ⟨kept, -⟩ := flushScope_issues L h sc s
  rw [curCtx, kept.curHart, kept.curLaunch, ctxOf_congr (ctxs_flushScope L h sc s _), curCtx]

theorem curCtx_putCurCtx {s : State} {c : Ctx} (own : c.launch = curLaunch s) : curCtx (putCurCtx s c) = c := by
  have slot : curSlot (putCurCtx s c) = curSlot s := (slotsKept_putCtx s (curHart s) c).curSlot
  rw [curCtx, curLaunch, slot]
  exact ctxOf_putCtx_same own

theorem curCtx_markA (s : State) (w : Wait) : curCtx (markA s w) = curCtx s := by
  simp [markA, curCtx, curLaunch]

theorem arrivedAt_issues (u : State) : Issues 0 u (arrivedAt u) ∧ curSlot (arrivedAt u) = curSlot u := by
  obtain ⟨pushed, slot⟩ := flushScope_issues (curLaunch u) (curHart u) .plat u
  obtain ⟨arrives, slot'⟩ := issues_putCurCtx (s := flushScope (curLaunch u) (curHart u) .plat u) (n := 0)
    (c := { curCtx (flushScope (curLaunch u) (curHart u) .plat u) with arrived := true }) (ctxOf_launch ..) rfl rfl
  exact ⟨pushed.trans arrives, slot'.trans slot⟩

theorem curCtx_arrivedAt (u : State) : curCtx (arrivedAt u) = { curCtx u with arrived := true } := by
  unfold arrivedAt
  rw [curCtx_putCurCtx (by exact ctxOf_launch ..), curCtx_flushScope]

/-- Settles O26: fence.all by whether an earlier operation stands, msg.plyend by its KIND 6 entries, its order and its arrival. -/
theorem fencesAndPlyEnds : Obligations.FencesAndPlyEnds := by
  unfold Obligations.FencesAndPlyEnds
  intro s ready
  refine ⟨fun sc => ⟨fenceAll_passes ready sc, fenceAll_waits ready sc⟩, msgPlyend_pending ready, msgPlyend_order ready, plyOrder_first,
    fun u idle passed => ⟨_, msgPlyend_arrives ready idle passed, ?_⟩⟩
  obtain ⟨ids, rfl⟩ := plyOrder_ok passed
  obtain ⟨sure, sameSlot⟩ := makeSure_issues s (curHart s) ids
  obtain ⟨arrives, slot⟩ := arrivedAt_issues (makeSure s (curHart s) ids)
  rw [curCtx_markA, curCtx_arrivedAt, curCtx_makeSure]
  have marked : curSlot (markA (arrivedAt (makeSure s (curHart s) ids)) .ply) = { curSlot s with aWait := some .ply } := by
    rw [markA, curSlot_putCur, slot, sameSlot]
  exact ⟨rfl, by rw [marked], by rw [marked], rfl, (sure.trans arrives).sameMemory _⟩

end Sys2Proof.Machine
end

section
/-! SUPPORT. Submission: how a word ends by what its operation answers, a job that is accepted at once, one that stands as a request, and the
Kick before either (spec/05 R54 R94, spec/07 R122, spec/13 R219 R220). -/

namespace Sys2Proof.Machine

open Sys2Proof.Claims

/-! ## Words by what their operation answers (R219, R220) -/

/-- The word i has the operation op in state s, where nothing stands before it: how it retires, traps and waits. gov says that
the word is governable, so that its prefix is consumed as it retires. -/
structure RunsWord (gov : Bool) (i : Instr) (s : State) (op : Op Unit) : Prop where
  ok : ∀ {t}, op s = .ok ((), t) → exec i s = .next ((if gov then endGovA else endA false) t)
  trap : ∀ {f}, op s = .error (.trap f none) → exec i s = .next (takeTrap s s .aSide f)
  wait : ∀ {w u}, op s = .error (.wait w (some u)) → exec i s = .next (markA u w)

theorem runsWord_plain {i : Instr} {s : State} {op : Op Unit} (ready : AReady s) (run : exec i s = plainA op s) :
    RunsWord false i s op where
  ok e := run.trans (plainA_ok ready e)
  trap e := run.trans (plainA_trap ready e)
  wait e := run.trans (plainA_wait ready e)

theorem aready_of_agov {s : State} (gov : AGov s) (none' : (curSlot s).aPrefix = none) : AReady s := by
  obtain ⟨core, running, slip, awake, stall, -⟩ := gov
  exact ⟨core, running, slip, awake, stall, none'⟩

section Governed

variable {s : State} (gov : AGov s)
include gov

theorem holdA_governed : holdA s = none := by
  obtain ⟨-, -, slip, awake, stall, -⟩ := gov
  simp [holdA, awake, stall, Nat.not_le.mpr slip]

theorem misuse_governed : ((curSlot s).aPrefix.bind fun p => misuse (isFmtA p) .governable) = none := by
  obtain ⟨-, -, -, -, -, fmt⟩ := gov
  cases stands : (curSlot s).aPrefix with
  | none => rfl
  | some w => simp [misuse, fmt w stands]

theorem runsWord_governed {i : Instr} {op : Op Unit} (run : exec i s = wordA false .governable (do op; return .next) s) :
    RunsWord true i s op := by
  have step (f : State → State) : onSlot f s = .next (f s) := onSlot_next f gov.1 gov.2.1
  refine ⟨fun e => ?_, fun e => ?_, fun e => ?_⟩
  · exact run.trans ((step _).trans (congrArg Host.Outcome.next (stepA_governed gov (bind_ok e))))
  all_goals
    refine run.trans ((step _).trans (congrArg Host.Outcome.next ?_))
    unfold stepA
    simp only [holdA_governed gov, misuse_governed gov, bind_error e]
    rfl

end Governed

/-! ## Acceptance at once (R21, R33, R122) -/

/-- The stream register that a matrix job walks. -/
def Job.walked (e : Engine) (j : Job) : Option (Fin 4) :=
  if e = .mxe ∧ 4 ≤ j.op ∧ j.op ≤ 7 then some (Fin.ofNat 4 j.sm) else none

/-- The state with a stream register held (R21). -/
def holding (hold : Option (Fin 4)) (t : State) : State :=
  match hold with
  | some n => putCur t { curSlot t with smBusy := n :: (curSlot t).smBusy }
  | none => t

section AcceptHere

variable {e : Engine} {j : Job} {d : ADst} {s t : State}

theorem acceptHere_overlap (refused : refusedOverlap s e j = true) :
    acceptHere e j d .z s = .error (.trap ⟨codeOverlap, 0, 0⟩ none) := by
  unfold acceptHere
  simp only [ne_eq, not_true_eq_false, if_false, get_bind]
  exact stopIf_bind_stop refused rfl _

/-- Holding the stream register that a job walks, as its acceptance ends. -/
theorem holdWalked_ok (e : Engine) (j : Job) (t : State) :
    (if e == .mxe && decide (4 ≤ j.op) && decide (j.op ≤ 7) then modSlot fun σ => { σ with smBusy := Fin.ofNat 4 j.sm :: σ.smBusy }
      else pure () : Op Unit) t = .ok ((), holding (j.walked e) t) := by
  simp only [Job.walked, Bool.and_eq_true, beq_iff_eq, decide_eq_true_eq, and_assoc]
  split <;> rfl

/-- A job taken: it is queued, D takes the identifier, if the job has one, and the stream register that it walks is held. -/
theorem acceptHere_taken (free : refusedOverlap s e j = false) (named : takesId e j = true ∨ d = .z)
    (written : writeA d (((mine s).nextOf e).zeroExtend 64) (accepted s e j) = .ok ((), t)) :
    acceptHere e j d .z s = .ok ((), holding (j.walked e) t) := by
  unfold acceptHere
  simp only [ne_eq, not_true_eq_false, if_false, get_bind]
  rw [stopIf_bind (by simp [free]), modState_bind]
  cases takes : takesId e j with
  | true =>
    simp only [if_true]
    refine (bind_ok written).trans ?_
    exact holdWalked_ok e j t
  | false =>
    obtain rfl : d = .z := named.resolve_left (by simp [takes])
    obtain rfl := (pure_inv (a := ()) written).2
    exact holdWalked_ok e j _

end AcceptHere

/-! ## Submission (R54, R94, R122) -/

theorem kickOrder_ok {d : OpDesc} {s u : State} (ordered : KickOrdered d s u) : kickOrder d s = .ok ((), u) := by
  obtain ⟨s1, passed, rfl⟩ := ordered
  have kept := inOrder_slotsKept passed
  unfold kickOrder
  rw [bind_ok passed, ← kept.curLaunch, ← kept.curHart]
  rfl

theorem slotsKept_of_kickOrdered {d : OpDesc} {s u : State} (ordered : KickOrdered d s u) : SlotsKept s u := by
  obtain ⟨s1, passed, rfl⟩ := ordered
  exact (inOrder_slotsKept passed).trans (slotsKept_releasePush ..)

/-- The request of the current word, which waits until the engine accepts it (R122). -/
def requested (s : State) (e : Engine) (j : Job) (d : ADst) (data : ASrc) : State :=
  putCluster s (curCluster s) ((mine s).setReqs e ((mine s).reqs e ++ [⟨posInCluster (curHart s), s.cycle, j, d, data⟩]))

section SubmitJob

variable {e : Engine} {j : Job} {d : ADst} {data : ASrc} {s : State} (writable : needDst d s = .ok ((), s)) (none' : NoRequest s e)
include writable none'

theorem submitJob_wins (wins : winsNow s e j = true) : submitJob e j d data s = acceptHere e j d data s := by
  unfold submitJob
  rw [bind_ok writable, get_bind, stopIf_bind (by simpa [NoRequest, mine] using none'), if_pos wins]

theorem submitJob_loses (loses : winsNow s e j = false) :
    submitJob e j d data s = if refusedOverlap s e j then .error (.trap ⟨codeOverlap, 0, 0⟩ none)
      else .error (.wait .room (some (requested s e j d data))) := by
  unfold submitJob
  rw [bind_ok writable, get_bind, stopIf_bind (by simpa [NoRequest, mine] using none'), if_neg (by simp [loses])]
  split
  · exact stopIf_bind_stop ‹_› rfl _
  · exact stopIf_bind ‹_› _ _ _

end SubmitJob

theorem submit_ordered {e : Engine} {j : Job} {d : ADst} {s u : State} (agreed : (curSlot s).paired = false ∨ (curSlot s).agreed = true)
    (ordered : KickOrdered (kickDesc s) s u) : submit e j d s = submitJob e j d .z u := by
  unfold submit
  rw [bind_ok (agreeFirst_ok agreed), get_bind]
  exact bind_ok (kickOrder_ok ordered)

/-- A word that comes to submit a job, its checks being passed, submits it. -/
theorem RunsWord.submits {gov : Bool} {i : Instr} {s : State} {op : Op Unit} {e : Engine} {j : Job} {d : ADst}
    (runs : RunsWord gov i s op) (comes : op s = submit e j d s) (named : takesId e j = true ∨ d = .z) :
    Submits gov i s e j d (j.walked e) := by
  intro u agreed ordered writable none'
  have goes : op s = submitJob e j d .z u := comes.trans (submit_ordered agreed ordered)
  refine ⟨fun free wins t written => ?_, fun free loses => runs.wait ?_, fun refused => runs.trap ?_⟩
  · have taken := runs.ok ((goes.trans (submitJob_wins writable none' wins)).trans (acceptHere_taken free named written))
    rw [taken]
    cases j.walked e <;> rfl
  · rw [goes, submitJob_loses writable none' loses, if_neg (by simp [free])]
    rfl
  · rw [goes]
    cases wins : winsNow u e j with
    | true => rw [submitJob_wins writable none' wins, acceptHere_overlap refused]
    | false => rw [submitJob_loses writable none' wins, if_pos refused]

/-! ## The checks of a word -/

theorem checkNow_ok {c : Check} (e : c = .ok ()) (s : State) : checkNow c s = .ok ((), s) := by rw [e]; rfl
theorem checkNow_error {c : Check} {f : FaultInfo} (e : c = .error f) (s : State) : checkNow c s = .error (.trap f none) := by
  rw [e]
  rfl

theorem needEngine_error {s : State} (none' : isCompute (curHart s) = false) :
    needEngine s = .error (.trap ⟨codeSpace, 0x006, 0⟩ none) :=
  (get_bind _ s).trans (stopIf_stop (by simp [none']))

theorem prefixA_eq (s : State) : prefixA s = .ok ((curSlot s).aPrefix, s) := rfl

end Sys2Proof.Machine
end

section
/-! SUPPORT. The words of the matrix engine: the descriptors of its jobs, the checks of each word, and the statement on them (spec/02 R36,
spec/07 R122, spec/17 R286 to R297). -/

namespace Sys2Proof.Machine

open Sys2Proof.Claims

/-! ## The descriptor of a matrix job (R36) -/

theorem toNat_extract (w : Word) (lo n : Nat) : (w.extractLsb' lo n).toNat = w.toNat / 2 ^ lo % 2 ^ n := by
  rw [BitVec.extractLsb'_toNat, Nat.shiftRight_eq_div_pow]

theorem posInCluster_lt (h : Nat) : posInCluster h < 8 := by unfold posInCluster; omega

/-- The bits of a descriptor from 35 up: who submits the job, its operation, slot and formats. -/
theorem descOf_high (s : State) {op fa fb : Nat} (acc : Fin 8) (opts : Word) (hop : op < 16) (ha : fa < 16) (hb : fb < 16) :
    (descOf s op acc fa fb opts).toNat / 2 ^ 35 =
      posInCluster (curHart s) * 2 ^ 18 + curNum s % 8 * 2 ^ 15 + op * 2 ^ 11 + acc * 2 ^ 8 + fa * 2 ^ 4 + fb := by
  have pos := posInCluster_lt (curHart s)
  have low : (opts &&& (0x7ff000000 : Word)).toNat / 2 ^ 35 = 0 := by
    have : (opts &&& (0x7ff000000 : Word)).toNat ≤ 0x7ff000000 := by
      rw [BitVec.toNat_and]
      exact Nat.and_le_right
    omega
  unfold descOf issuerBits
  rw [BitVec.toNat_or, ← Nat.shiftRight_eq_div_pow, Nat.shiftRight_or_distrib, Nat.shiftRight_eq_div_pow, Nat.shiftRight_eq_div_pow,
    low, Nat.or_zero, BitVec.toNat_ofNat]
  omega

/-- The bits of a descriptor from 24 to 34 are those of the options (R287). -/
theorem getLsbD_descOf (s : State) (op : Nat) (acc : Fin 8) (fa fb : Nat) (opts : Word) {i : Nat} (lo : 24 ≤ i) (hi : i < 35) :
    (descOf s op acc fa fb opts).getLsbD i = opts.getLsbD i := by
  have fields : issuerBits (curHart s) (curNum s) + op * 2 ^ 46 + acc * 2 ^ 43 + fa * 2 ^ 39 + fb * 2 ^ 35 =
      2 ^ 35 * (posInCluster (curHart s) * 2 ^ 18 + curNum s % 8 * 2 ^ 15 + op * 2 ^ 11 + acc * 2 ^ 8 + fa * 2 ^ 4 + fb) := by
    unfold issuerBits
    omega
  have mask : (0x7ff000000 : Word).getLsbD i = true := by interval_cases i <;> rfl
  unfold descOf
  rw [fields, BitVec.getLsbD_or, BitVec.getLsbD_and, mask, BitVec.getLsbD_ofNat, Nat.testBit_two_pow_mul]
  simp [Nat.not_le.mpr hi]

section Descriptor

variable {j : Job} {s : State} {op fa fb : Nat} {acc : Fin 8} {opts : Word} (desc : j.desc = descOf s op acc fa fb opts)
include desc

theorem Job.fields_of_descOf (hop : op < 16) (ha : fa < 16) (hb : fb < 16) : j.op = op ∧ j.acc = acc ∧ j.fmtA = fa ∧ j.fmtB = fb := by
  have high := descOf_high s acc opts hop ha hb
  rw [← desc] at high
  have slot := acc.isLt
  refine ⟨?_, Fin.ext ?_, ?_, ?_⟩
  · show j.desc.toNat / 2 ^ 46 % 16 = op
    omega
  · show j.desc.toNat / 2 ^ 43 % 8 = acc
    omega
  · show j.desc.toNat / 2 ^ 39 % 16 = fa
    omega
  · show j.desc.toNat / 2 ^ 35 % 16 = fb
    omega

theorem Job.options_of_descOf : j.cblim = (opts.extractLsb' 27 8).toNat ∧ j.trapnow = opts.getLsbD 26 ∧ j.strict = opts.getLsbD 25 ∧
    j.wide = opts.getLsbD 24 := by
  have bit {i : Nat} (lo : 24 ≤ i) (hi : i < 35) : j.desc.getLsbD i = opts.getLsbD i := desc ▸ getLsbD_descOf s op acc fa fb opts lo hi
  have limit : j.desc.extractLsb' 27 8 = opts.extractLsb' 27 8 := by
    ext i hi
    rw [BitVec.getElem_extractLsb', BitVec.getElem_extractLsb', bit (by omega) (by omega)]
  refine ⟨?_, bit (by omega) (by omega), bit (by omega) (by omega), bit (by omega) (by omega)⟩
  rw [← limit, toNat_extract]
  rfl

end Descriptor

theorem newJob_make (s : State) (desc : Word) (ws : List Word) (fd sm : Nat) :
    NewJob s (Job.make desc ws fd sm (.slot (curIssuer s)) (curHart s)) := ⟨rfl, rfl, rfl, rfl, rfl⟩

/-! ## The words of the matrix engine (R286 to R297) -/

theorem apfx_lt {s : State} {g : BitVec 32 → Nat} {d n : Nat} (field : ∀ w, g w < n) (default : d < n) : apfx s g d < n := by
  unfold apfx
  cases (curSlot s).aPrefix with
  | none => exact default
  | some w => exact field w

theorem pfxFaA_lt (w : BitVec 32) : pfxFaA w < 16 := (w.extractLsb' 15 4).isLt
theorem pfxFbA_lt (w : BitVec 32) : pfxFbA w < 16 := (w.extractLsb' 10 4).isLt
theorem pfxFdA_lt (w : BitVec 32) : pfxFdA w < 16 := (w.extractLsb' 20 4).isLt
theorem pfxSclA_lt (w : BitVec 32) : pfxSclA w < 4 := (w.extractLsb' 5 2).isLt

/-- A core without engines has no matrix words (R286). -/
theorem matrixWord_space {s : State} (gov : AGov s) (none' : isCompute (curHart s) = false) (d : ADst) (first : BitVec 5) (x : ARegZ)
    (acc : Fin 8) {i : Instr} (form : i ∈ [Instr.mxqStep d first x acc, .mxqSteps d first x acc, .mxqDrain d first x acc]) :
    exec i s = .next (takeTrap s s .aSide ⟨codeSpace, 0x006, 0⟩) := by
  simp only [List.mem_cons, List.not_mem_nil, or_false] at form
  rcases form with rfl | rfl | rfl <;> exact (runsWord_governed gov rfl).trap (bind_error (needEngine_error none'))

/-! ### Steps (R292, R295) -/

/-- The job of a step: its formats from the prefix or the defaults, its options, and the stream register that it walks. -/
def stepJobOf (sparse : Bool) (acc : Fin 8) (opts : Word) (ws : List Word) (s : State) : Job :=
  Job.make (descOf s ((if sparse then 4 else 0) + apfx s pfxSclA 0) acc (apfx s pfxFaA 0) (apfx s pfxFbA 0) opts) ws 11
    (opts.extractLsb' 0 2).toNat (.slot (curIssuer s)) (curHart s)

theorem fields_stepJobOf (sparse : Bool) (acc : Fin 8) (opts : Word) (ws : List Word) (s : State) :
    (stepJobOf sparse acc opts ws s).op = (if sparse then 4 else 0) + apfx s pfxSclA 0 ∧ (stepJobOf sparse acc opts ws s).acc = acc ∧
      (stepJobOf sparse acc opts ws s).fmtA = apfx s pfxFaA 0 ∧ (stepJobOf sparse acc opts ws s).fmtB = apfx s pfxFbA 0 := by
  have scale : apfx s pfxSclA 0 < 4 := apfx_lt pfxSclA_lt (by decide)
  exact Job.fields_of_descOf rfl (by split <;> omega) (apfx_lt pfxFaA_lt (by decide)) (apfx_lt pfxFbA_lt (by decide))

theorem walked_stepJobOf (sparse : Bool) (acc : Fin 8) (opts : Word) (ws : List Word) (s : State) :
    (stepJobOf sparse acc opts ws s).walked .mxe = if sparse then some (Fin.ofNat 4 (opts.extractLsb' 0 2).toNat) else none := by
  obtain ⟨op, -⟩ := fields_stepJobOf sparse acc opts ws s
  have scale : apfx s pfxSclA 0 < 4 := apfx_lt pfxSclA_lt (by decide)
  unfold Job.walked
  rw [op]
  cases sparse with
  | true => exact if_pos ⟨rfl, by simp; omega⟩
  | false => exact if_neg (by simp; omega)

theorem takesId_stepJobOf (sparse : Bool) (acc : Fin 8) (opts : Word) (ws : List Word) (s : State) :
    takesId .mxe (stepJobOf sparse acc opts ws s) = true := by
  obtain ⟨op, -⟩ := fields_stepJobOf sparse acc opts ws s
  have scale : apfx s pfxSclA 0 < 4 := apfx_lt pfxSclA_lt (by decide)
  simp only [takesId, op, bne_iff_ne]
  split <;> omega

section Steps

variable {s : State} (mesh : isCompute (curHart s) = true) {sparse : Bool} {first : BitVec 5} {x : ARegZ} {opts : Word} {ws : List Word}
  (operand : readAReg x s = .ok (opts, s)) (block : readBlock first.toNat 4 s = .ok (ws, s)) (d : ADst) (acc : Fin 8)
include mesh operand block

theorem stepSubmit_read : stepSubmit sparse d first x acc s = (do
      checkNow (checkFormats s (curLaunch s) (curHart s) (apfx s pfxFaA 0) (apfx s pfxFbA 0) (apfx s pfxSclA 0))
      checkNow (checkOptions opts sparse false (!intMode (apfx s pfxFaA 0)))
      checkNow (checkStep s (curHart s) (apfx s pfxFaA 0) (apfx s pfxFbA 0) (apfx s pfxSclA 0) ws)
      stopIf (sparse && (← getSlot).smBusy.contains (Fin.ofNat 4 (opts.extractLsb' 0 2).toNat)) (waitFor .stream)
      submit .mxe (stepJobOf sparse acc opts ws s) d : Op Unit) s := by
  unfold stepSubmit
  rw [bind_ok (needEngine_ok mesh), get_bind, bind_ok (prefixA_eq s), bind_ok block, bind_ok operand]
  rfl

theorem stepSubmit_badFormats {f : FaultInfo}
    (bad : checkFormats s (curLaunch s) (curHart s) (apfx s pfxFaA 0) (apfx s pfxFbA 0) (apfx s pfxSclA 0) = .error f) :
    stepSubmit sparse d first x acc s = .error (.trap f none) :=
  (stepSubmit_read mesh operand block d acc).trans (bind_error (checkNow_error bad s))

variable (formats : checkFormats s (curLaunch s) (curHart s) (apfx s pfxFaA 0) (apfx s pfxFbA 0) (apfx s pfxSclA 0) = .ok ())
  (options : checkOptions opts sparse false (!intMode (apfx s pfxFaA 0)) = .ok ())
include formats options

theorem stepSubmit_badOperands {f : FaultInfo}
    (bad : checkStep s (curHart s) (apfx s pfxFaA 0) (apfx s pfxFbA 0) (apfx s pfxSclA 0) ws = .error f) :
    stepSubmit sparse d first x acc s = .error (.trap f none) := by
  rw [stepSubmit_read mesh operand block, bind_ok (checkNow_ok formats s), bind_ok (checkNow_ok options s)]
  exact bind_error (checkNow_error bad s)

theorem stepSubmit_comes (operands : checkStep s (curHart s) (apfx s pfxFaA 0) (apfx s pfxFbA 0) (apfx s pfxSclA 0) ws = .ok ())
    (free : sparse = true → Fin.ofNat 4 (opts.extractLsb' 0 2).toNat ∉ (curSlot s).smBusy) :
    stepSubmit sparse d first x acc s = submit .mxe (stepJobOf sparse acc opts ws s) d s := by
  rw [stepSubmit_read mesh operand block, bind_ok (checkNow_ok formats s), bind_ok (checkNow_ok options s),
    bind_ok (checkNow_ok operands s), getSlot_bind]
  exact stopIf_bind (by simpa using free) _ _ _

end Steps

/-! ### Drains (R296) -/

/-- The job of a drain. -/
def drainJobOf (acc : Fin 8) (opts p : Word) (s : State) : Job :=
  Job.make (descOf s 8 acc (apfx s pfxFdA 11) 0 opts) [p] (apfx s (drainFormat ∘ pfxFdA) 11) 0 (.slot (curIssuer s)) (curHart s)

theorem fields_drainJobOf (acc : Fin 8) (opts p : Word) (s : State) :
    (drainJobOf acc opts p s).op = 8 ∧ (drainJobOf acc opts p s).acc = acc := by
  obtain ⟨op, slot, -⟩ := Job.fields_of_descOf (j := drainJobOf acc opts p s) rfl (by decide) (apfx_lt pfxFdA_lt (by decide)) (by decide)
  exact ⟨op, slot⟩

theorem walked_drainJobOf (acc : Fin 8) (opts p : Word) (s : State) : (drainJobOf acc opts p s).walked .mxe = none := by
  rw [Job.walked, (fields_drainJobOf acc opts p s).1]
  exact if_neg (by omega)

section Drains

variable {s : State} (mesh : isCompute (curHart s) = true) {first : BitVec 5} {x : ARegZ} {opts p : Word}
  (operand : readAReg x s = .ok (opts, s)) (pointer : readNum first.toNat s = .ok (p, s)) (d : ADst) (acc : Fin 8)
  (options : checkOptions opts false true false = .ok ())
include mesh operand pointer options

theorem drainSubmit_read : drainSubmit d first x acc s = (do
      checkNow (checkDrain s (curHart s) (opts.getLsbD 24) p)
      submit .mxe (drainJobOf acc opts p s) d : Op Unit) s := by
  have formats : (((curSlot s).aPrefix.map pfxFdA).map drainFormat).getD 11 = apfx s (drainFormat ∘ pfxFdA) 11 := by
    rw [Option.map_map]
    rfl
  unfold drainSubmit
  rw [bind_ok (needEngine_ok mesh), get_bind, bind_ok (prefixA_eq s), bind_ok pointer, bind_ok operand, bind_ok (checkNow_ok options s),
    formats]
  rfl

theorem drainSubmit_badOperand {f : FaultInfo} (bad : checkDrain s (curHart s) (opts.getLsbD 24) p = .error f) :
    drainSubmit d first x acc s = .error (.trap f none) :=
  (drainSubmit_read mesh operand pointer d acc options).trans (bind_error (checkNow_error bad s))

theorem drainSubmit_comes (good : checkDrain s (curHart s) (opts.getLsbD 24) p = .ok ()) :
    drainSubmit d first x acc s = submit .mxe (drainJobOf acc opts p s) d s :=
  (drainSubmit_read mesh operand pointer d acc options).trans (bind_ok (checkNow_ok good s))

end Drains

/-! ### Reclaims (R297) -/

/-- The job of a reclaim. -/
def reclaimJobOf (acc : Fin 8) (s : State) : Job :=
  Job.make (descOf s 9 acc 0 0 0) [] 0 0 (.slot (curIssuer s)) (curHart s)

theorem fields_reclaimJobOf (acc : Fin 8) (s : State) : (reclaimJobOf acc s).op = 9 ∧ (reclaimJobOf acc s).acc = acc := by
  obtain ⟨op, slot, -⟩ := Job.fields_of_descOf (j := reclaimJobOf acc s) rfl (by decide) (by decide) (by decide)
  exact ⟨op, slot⟩

theorem walked_reclaimJobOf (acc : Fin 8) (s : State) : (reclaimJobOf acc s).walked .mxe = none := by
  rw [Job.walked, (fields_reclaimJobOf acc s).1]
  exact if_neg (by omega)

theorem reclaimSubmit_comes {s : State} (mesh : isCompute (curHart s) = true) (acc : Fin 8) :
    reclaimSubmit acc s = submit .mxe (reclaimJobOf acc s) .z s := by
  unfold reclaimSubmit
  rw [bind_ok (needEngine_ok mesh), get_bind]
  rfl

/-! ## A job queued (R122) -/

/-- A descriptor whose identifier is written in, above its other fields. -/
theorem toNat_identified {desc : Word} (id : BitVec 8) (small : desc.toNat < 2 ^ 56) :
    (desc ||| (id.zeroExtend 64 <<< 56)).toNat = id.toNat * 2 ^ 56 + desc.toNat := by
  have shifted : (id.zeroExtend 64 <<< 56).toNat = 2 ^ 56 * id.toNat := by
    have := id.isLt
    simp only [BitVec.toNat_shiftLeft, BitVec.truncate_eq_setWidth, BitVec.toNat_setWidth, Nat.shiftLeft_eq]
    omega
  rw [BitVec.toNat_or, shifted, Nat.or_comm, ← Nat.two_pow_add_eq_or_of_lt small, Nat.mul_comm]

theorem accept_mxe {C : Cluster} {j : Job} (named : j.op ≠ 9) (small : j.desc.toNat < 2 ^ 56) (pos n : Nat) :
    ∃ k : Job, (C.accept .mxe pos n j).jobs = C.jobs ++ [k] ∧ k.id = C.nextId.toNat ∧ k.words = j.words ∧ k.op = j.op ∧ k.acc = j.acc ∧
      (C.accept .mxe pos n j).nextId = C.nextId + 1 ∧ (C.accept .mxe pos n j).accs = C.accs ∧ (C.accept .mxe pos n j).lastPos = pos := by
  have takes : takesId .mxe j = true := by simpa [takesId] using named
  have desc := toNat_identified C.nextId small
  rw [show C.accept .mxe pos n j = _ from if_pos takes]
  refine ⟨_, rfl, ?_, rfl, ?_, Fin.ext ?_, rfl, rfl, rfl⟩
  · simp only [Job.id, desc]
    omega
  · simp only [Job.op, desc]
    omega
  · simp only [Job.acc, Fin.val_ofNat, desc]
    omega

/-- Settles O42: the checks of each form by the fault, and the job of each form by its descriptor. -/
theorem matrixJobsAreSubmitted : Obligations.MatrixJobsAreSubmitted := by
  unfold Obligations.MatrixJobsAreSubmitted
  intro s gov
  refine ⟨fun none' d first x acc i form => matrixWord_space gov none' d first x acc form, fun mesh d first x acc opts operand =>
    ⟨fun q form ws block => ?steps, fun p pointer options => ⟨fun f bad => ?badDrain, fun good => ?drain⟩, fun none' => ?reclaim⟩,
    fun C pos n j small named => accept_mxe named small pos n⟩
  case steps =>
    have runs : RunsWord true (q.1 d first x acc) s (stepSubmit q.2 d first x acc) := by
      simp only [stepTable, List.mem_cons, List.not_mem_nil, or_false] at form
      rcases form with rfl | rfl <;> exact runsWord_governed gov rfl
    refine ⟨fun f bad => runs.trap (stepSubmit_badFormats mesh operand block d acc bad), fun formats options => ⟨fun f bad =>
      runs.trap (stepSubmit_badOperands mesh operand block d acc formats options bad), fun operands free => ?_⟩⟩
    obtain ⟨op, slot, fmtA, fmtB⟩ := fields_stepJobOf q.2 acc opts ws s
    obtain ⟨limit, now, strict, -⟩ := Job.options_of_descOf (j := stepJobOf q.2 acc opts ws s) rfl
    refine ⟨_, newJob_make .., rfl, op.trans (Nat.add_comm ..), slot, fmtA, fmtB, limit, now, strict, ?_⟩
    rw [← walked_stepJobOf]
    exact runs.submits (stepSubmit_comes mesh operand block d acc formats options operands free) (.inl (takesId_stepJobOf ..))
  case badDrain => exact (runsWord_governed gov rfl).trap (drainSubmit_badOperand mesh operand pointer d acc options bad)
  case drain =>
    obtain ⟨op, slot⟩ := fields_drainJobOf acc opts p s
    obtain ⟨-, -, -, wide⟩ := Job.options_of_descOf (j := drainJobOf acc opts p s) rfl
    refine ⟨drainJobOf acc opts p s, newJob_make .., rfl, op, slot, wide, fun none' => ?_, ?_⟩
    · show apfx s _ 11 = 11
      rw [apfx, none']
      rfl
    · rw [← walked_drainJobOf acc opts p s]
      exact (runsWord_governed gov rfl).submits (drainSubmit_comes mesh operand pointer d acc options good) (.inl (by simp [takesId, op]))
  case reclaim =>
    obtain ⟨op, slot⟩ := fields_reclaimJobOf acc s
    refine ⟨reclaimJobOf acc s, newJob_make .., op, slot, ?_⟩
    rw [← walked_reclaimJobOf acc s]
    exact (runsWord_plain (aready_of_agov gov none') rfl).submits (reclaimSubmit_comes mesh acc) (.inr rfl)

end Sys2Proof.Machine
end

section
/-! SUPPORT. The words of the copy engine and the stores to the kick registers, and the statement on them (spec/02 R33, spec/05 R95, spec/07
R129, spec/17 R299). -/

namespace Sys2Proof.Machine

open Sys2Proof.Claims

/-! ## The words of the copy engine (R95, R129, R299) -/

/-- The job of a copy form for a queue: its operation and sequence number in the descriptor, and its block. -/
def copyJobOf (op : Nat) (q : Fin 4) (ws : List Word) (s : State) : Job :=
  Job.make (BitVec.ofNat 64 ((ws.getD 2 0).toNat / 2 ^ 32 % 2 ^ 16 * 2 ^ 16 + op * 2 ^ 10 + q * 2 ^ 8))
    [ws.getD 0 0, ws.getD 1 0, BitVec.ofNat 64 ((ws.getD 2 0).toNat % 2 ^ 32)] 0 0 (.slot (curIssuer s)) (curHart s)

/-- The job of cpq.bar. -/
def barJobOf (q : Fin 4) (s : State) : Job :=
  Job.make (BitVec.ofNat 64 (4 * 2 ^ 10 + q * 2 ^ 8)) [] 0 0 (.slot (curIssuer s)) (curHart s)

/-- The fields of a copy command's descriptor (R129). -/
theorem Job.copyFields {j : Job} {seq op : Nat} {q : Fin 4} (desc : j.desc = BitVec.ofNat 64 (seq * 2 ^ 16 + op * 2 ^ 10 + q * 2 ^ 8))
    (hseq : seq < 2 ^ 16) (hop : op < 16) : j.cpOp = op ∧ j.cpQueue = q ∧ j.cpSeq.toNat = seq := by
  have queue := q.isLt
  have value : j.desc.toNat = seq * 2 ^ 16 + op * 2 ^ 10 + q * 2 ^ 8 := by
    rw [desc, BitVec.toNat_ofNat, Nat.mod_eq_of_lt (by omega)]
  refine ⟨?_, Fin.ext ?_, ?_⟩
  · simp only [Job.cpOp, value]
    omega
  · simp only [Job.cpQueue, Fin.val_ofNat, value]
    omega
  · simp only [Job.cpSeq, toNat_extract, value]
    omega

theorem fields_copyJobOf {op : Nat} (hop : op < 16) (q : Fin 4) (ws : List Word) (s : State) :
    (copyJobOf op q ws s).cpOp = op ∧ (copyJobOf op q ws s).cpQueue = q ∧
      (copyJobOf op q ws s).cpSeq = (ws.getD 2 0).extractLsb' 32 16 := by
  obtain ⟨op', queue, seq⟩ := Job.copyFields (j := copyJobOf op q ws s) rfl (Nat.mod_lt _ (by decide)) hop
  exact ⟨op', queue, BitVec.eq_of_toNat_eq (seq.trans (toNat_extract ..).symm)⟩

theorem fields_barJobOf (q : Fin 4) (s : State) : (barJobOf q s).cpOp = 4 ∧ (barJobOf q s).cpQueue = q := by
  obtain ⟨op, queue, -⟩ := Job.copyFields (j := barJobOf q s) (seq := 0) (op := 4) (q := q) (by simp [barJobOf, Job.make]) (by decide)
    (by decide)
  exact ⟨op, queue⟩

section Copies

variable {s : State} (mesh : isCompute (curHart s) = true) (d : ADst) (q : Fin 4)
include mesh

theorem barSubmit_comes : barSubmit d q s = submit .cpe (barJobOf q s) d s := by
  unfold barSubmit
  rw [bind_ok (needEngine_ok mesh), get_bind]
  rfl

variable {first : BitVec 5} {ws : List Word} (block : readBlock first.toNat 3 s = .ok (ws, s)) (op : Nat)
include block

theorem copySubmit_read : copySubmit op d first q s = (do
      checkNow (checkCopy s (curLaunch s) op ws)
      submit .cpe (copyJobOf op q ws s) d : Op Unit) s := by
  unfold copySubmit
  rw [bind_ok (needEngine_ok mesh), bind_ok block, get_bind]
  rfl

theorem copySubmit_bad {f : FaultInfo} (bad : checkCopy s (curLaunch s) op ws = .error f) :
    copySubmit op d first q s = .error (.trap f none) :=
  (copySubmit_read mesh d q block op).trans (bind_error (checkNow_error bad s))

theorem copySubmit_comes (good : checkCopy s (curLaunch s) op ws = .ok ()) :
    copySubmit op d first q s = submit .cpe (copyJobOf op q ws s) d s :=
  (copySubmit_read mesh d q block op).trans (bind_ok (checkNow_ok good s))

end Copies

theorem copyForm {q : (ADst → BitVec 5 → Fin 4 → Instr) × Nat} (form : q ∈ copyTable) :
    q.2 < 16 ∧ ∀ d first k s, exec (q.1 d first k) s = plainA (copySubmit q.2 d first k) s := by
  simp only [copyTable, List.mem_cons, List.not_mem_nil, or_false] at form
  rcases form with rfl | rfl | rfl | rfl | rfl <;> exact ⟨by decide, fun _ _ _ _ => rfl⟩

/-! ### What the checks of a block establish (R299) -/

theorem failIf_ok {b : Bool} {code : BitVec 16} {d : BitVec 12} {p : Word} (e : failIf b code d p = .ok ()) : b = false := by
  cases b with
  | false => rfl
  | true => nomatch e

theorem check_bind_ok {c : Check} {k : Unit → Check} (e : (c >>= k) = .ok ()) : c = .ok () ∧ k () = .ok () := by
  cases c with
  | error f => nomatch e
  | ok u => exact ⟨rfl, e⟩

theorem check_forM_ok {α : Type} {f : α → Check} {xs : List α} (e : xs.forM f = .ok ()) : ∀ x ∈ xs, f x = .ok () := by
  induction xs with
  | nil => exact fun _ mem => nomatch mem
  | cons y ys ih =>
    obtain ⟨first, rest⟩ := check_bind_ok e
    exact List.forall_mem_cons.mpr ⟨first, ih rest⟩

theorem dst_mem_copyPointers (op : Nat) (ws : List Word) : ws.getD 1 0 ∈ copyPointers op ws := by
  unfold copyPointers
  split <;> simp

theorem checkCopy_ok {s : State} {L op : Nat} {ws : List Word} (good : checkCopy s L op ws = .ok ()) :
    let w := ws.getD 2 0
    let len := w.toNat % 2 ^ 32
    (spaceOf (ws.getD 1 0) ∈ [0, 1, 2, 4] ∧ ptrOff (ws.getD 1 0) % 64 = 0) ∧
      (w.toNat / 2 ^ 48 = 0 ∧ len ≠ 0 ∧ len % 64 = 0) ∧
      (w.toNat / 2 ^ 32 % 2 ^ 16 ≠ 0 → sequenced s L = true ∧ reduces op = true) ∧
      (reduces op = true → sequenced s L = true → spaceOf (ws.getD 1 0) = 4) := by
  intro w len
  have mem := dst_mem_copyPointers op ws
  obtain ⟨spaces, good⟩ := check_bind_ok good
  obtain ⟨-, good⟩ := check_bind_ok good
  obtain ⟨aligned, good⟩ := check_bind_ok good
  obtain ⟨-, good⟩ := check_bind_ok good
  obtain ⟨length, good⟩ := check_bind_ok good
  obtain ⟨sequence, far⟩ := check_bind_ok good
  have space := failIf_ok (check_forM_ok spaces _ mem)
  have align := failIf_ok (check_forM_ok aligned _ mem)
  have length := failIf_ok length
  have sequence := failIf_ok sequence
  have far := failIf_ok far
  refine ⟨⟨?_, by simpa using align⟩, ?_, ?_, ?_⟩
  · simp only [Bool.or_eq_false_iff, Bool.not_eq_false', Bool.or_eq_true, beq_iff_eq] at space
    simpa [or_assoc] using space.1
  · simpa [w, len, and_assoc] using length
  · simpa [w] using sequence
  · intro red seq
    simpa [red, seq] using far

theorem mem_of_reduces {op : Nat} (h : reduces op = true) : op ∈ [1, 2, 3] := by
  simpa [reduces, or_assoc] using h

/-! ## Stores to the kick registers (R33) -/

theorem storedBytes_single {d : ASrc} {n : Nat} {s t : State} {bs : List Byte} (read : storeData d n s = .ok (bs, t))
    (single : (curSlot t).paired = false) : storedBytes d n s = .ok (bs, t) := by
  unfold storedBytes
  rw [bind_ok read, bind_ok (noteResult_unpaired single)]
  rfl

/-- Taking the value of a store changes at most the queues and streams of the slot. -/
theorem storeData_read {d : ASrc} {n : Nat} {s t : State} {bs : List Byte} (read : storeData d n s = .ok (bs, t)) : Read s t := by
  cases d with
  | sq q =>
    obtain ⟨σ, _, slot, read⟩ := bind_inv read
    obtain ⟨rfl, rfl⟩ := getSlot_inv slot
    cases queue : (curSlot s).sq[q] with
    | nil => simp only [queue] at read; cases read
    | cons e es =>
      simp only [queue] at read
      obtain ⟨_, _, popped, read⟩ := bind_inv read
      obtain rfl := modSlot_inv popped
      obtain ⟨-, rfl⟩ := pure_inv read
      exact ⟨curSlotOnly_putCur _ _, by simp⟩
  | a n | cq | sm n | z =>
    obtain ⟨w, u, value, read⟩ := bind_inv read
    obtain ⟨-, rfl⟩ := pure_inv read
    exact Read.of_readA value

/-- A job submitted by a store takes the value of the store as it is accepted. -/
theorem acceptHere_data {e : Engine} {j : Job} {d : ADst} {data : ASrc} {s t : State} {bs : List Byte}
    (read : storeData data 8 s = .ok (bs, t)) (single : (curSlot t).paired = false) :
    acceptHere e j d data s = acceptHere e j d .z t := by
  by_cases form : data = .z
  · subst form
    obtain ⟨w, u, value, read⟩ := bind_inv read
    obtain ⟨-, rfl⟩ := pure_inv read
    obtain ⟨-, rfl⟩ := readA_z_inv value
    rfl
  · unfold acceptHere
    simp only [ne_eq, form, not_false_eq_true, not_true_eq_false, if_true, if_false]
    rw [bind_ok (storedBytes_single read single)]

theorem needDst_z (s : State) : needDst .z s = .ok ((), s) := rfl

theorem except_of_map {α β ε : Type} {c : Except ε α} {x y : β} (e : (c.map fun _ => x) = .ok y) : x = y := by
  cases c with
  | error f => nomatch e
  | ok a => exact Except.ok.inj e

/-- A kicked job walks no stream register: OP 4 to 7 are for other forms (R33, R288). -/
theorem walked_of_kickJob {s : State} {e : Engine} {src : Issuer} {v : Word} {j : Job} (made : kickJob s e src v = .ok j) :
    j.walked e = none := by
  cases e with
  | cpe => exact if_neg (by simp)
  | mxe =>
    unfold kickJob at made
    extract_lets ws refuse op fa fb desc k at made
    dsimp only at made
    have pos := posInCluster_lt src.hart
    have value : desc.toNat = issuerBits src.hart src.slot + v.toNat % 2 ^ 50 / 2 ^ 24 * 2 ^ 24 := by
      simp only [desc, BitVec.toNat_ofNat, issuerBits]
      omega
    have same : k.op = op := by
      show desc.toNat / 2 ^ 46 % 16 = op
      rw [value, issuerBits]
      omega
    have plain : k = j ∧ (op = 8 ∨ op < 4) := by
      split at made
      · exact ⟨except_of_map made, .inl ‹_›⟩
      split at made
      · exact ⟨except_of_map made, .inr ‹_›⟩
      · cases made
    obtain ⟨rfl, form⟩ := plain
    exact if_neg (by rw [same]; omega)

section KickStore

variable {s s1 s2 : State} {d base : ASrc} {ord : Ord} {sc : Scope} {off : BitVec 7} {b : Word} {o : Nat} {bs : List Byte}

/-- A store whose pointer names an engine register is a kick of that engine (R33, R242). -/
theorem storeOp_reg (kick : Engine → ASrc → OpDesc → Op Unit) (address : readA base s = .ok (b, s1))
    (names : checkPointer s1 (memPtr b off .b8) 8 3 true (ord == .rel || ord == .sc) true = .ok (.reg o)) :
    storeOp kick d base .b8 ord sc off s =
      kick (if o = 0 then .mxe else .cpe) d (accessDesc s1 .stR ord sc (regHome (curHart s)) o 8 (spaceOf (memPtr b off .b8))) s1 := by
  have reg : checked (memPtr b off .b8) 8 3 true (storeKind ord == .stR) true s1 = .ok (.reg o, s1) := by
    unfold checked
    rw [storeKind_isRelease, names]
  unfold storeOp
  rw [bind_ok address, ← (Read.of_readA address).curHart]
  refine (bind_ok reg).trans ?_
  rfl

variable {e : Engine} {desc : OpDesc} (value : storeData d 8 s1 = .ok (bs, s2)) (single : (curSlot s1).paired = false)
include value single

theorem kickStoreOp_refused {f : FaultInfo} (refused : kickJob s1 e (curIssuer s1) (BitVec.ofNat 64 (leValue bs)) = .error f) :
    kickStoreOp e d desc s1 = .error (.trap f none) := by
  have stored := storedBytes_single value ((storeData_read value).paired.trans single)
  unfold kickStoreOp
  rw [get_bind, bind_ok stored]
  exact bind_error (checkNow_error (by rw [refused]; rfl) s2)

/-- A kick in order whose job wins at its engine is accepted, and takes the value of the store again as it is (R33, R122). -/
theorem kickStoreOp_wins {j : Job} {u v w : State} {bs' : List Byte}
    (made : kickJob s1 e (curIssuer s1) (BitVec.ofNat 64 (leValue bs)) = .ok j) (ordered : KickOrdered desc s1 u)
    (past : v = { u with fresh := u.fresh + 4 }) (none' : NoRequest v e) (wins : winsNow v e j = true)
    (taken : storeData d 8 v = .ok (bs', w)) (free : refusedOverlap w e j = false) :
    kickStoreOp e d desc s1 = .ok ((), accepted w e j) := by
  have stored := storedBytes_single value ((storeData_read value).paired.trans single)
  have slot : curSlot v = curSlot s1 := by
    rw [past]
    exact (slotsKept_of_kickOrdered ordered).curSlot
  have singleW : (curSlot w).paired = false := by rw [(storeData_read taken).paired, slot, single]
  have submitted : submitJob e j .z d v = .ok ((), accepted w e j) := by
    rw [submitJob_wins (needDst_z v) none' wins, acceptHere_data taken singleW, acceptHere_taken free (.inr rfl) rfl,
      walked_of_kickJob made]
    rfl
  unfold kickStoreOp
  rw [get_bind, bind_ok stored, bind_ok (checkNow_ok (by rw [made]; rfl) s2), if_neg (by simp [single]), modState_bind,
    bind_ok (kickOrder_ok ordered), made]
  refine (modState_bind _ _ u).trans ?_
  rw [← past]
  exact submitted

end KickStore

/-- Settles O43: the copy forms by their block, cpq.bar without one, what the checks establish, and the kick registers. -/
theorem copyJobsAreSubmitted : Obligations.CopyJobsAreSubmitted := by
  unfold Obligations.CopyJobsAreSubmitted
  intro s ready mesh
  refine ⟨fun q form d first k ws block => ?block, fun d k => ?barrier, fun L op ws _ good => ?checks,
    fun d base ord sc off s1 s2 b o bs address value alone names => ?kick⟩
  case block =>
    obtain ⟨small, run⟩ := copyForm form
    have runs : RunsWord false (q.1 d first k) s (copySubmit q.2 d first k) := runsWord_plain ready (run d first k s)
    refine ⟨fun f bad => runs.trap (copySubmit_bad mesh d k block q.2 bad), fun good => ?_⟩
    obtain ⟨op, queue, seq⟩ := fields_copyJobOf small k ws s
    exact ⟨copyJobOf q.2 k ws s, newJob_make .., op, queue, seq, rfl, rfl, BitVec.eq_of_toNat_eq (by simp [copyJobOf, Job.make, Job.word]),
      runs.submits (copySubmit_comes mesh d k block q.2 good) (.inl rfl)⟩
  case barrier =>
    obtain ⟨op, queue⟩ := fields_barJobOf k s
    exact ⟨barJobOf k s, newJob_make .., op, queue, (runsWord_plain ready rfl).submits (barSubmit_comes mesh d k) (.inl rfl)⟩
  case checks =>
    obtain ⟨⟨space, aligned⟩, ⟨high, nonzero, whole⟩, sequence, far⟩ := checkCopy_ok good
    intro len
    have length : len = (ws.getD 2 0).toNat % 2 ^ 32 := toNat_extractLow _ _
    rw [length]
    refine ⟨nonzero, whole, BitVec.eq_of_toNat_eq ?_, aligned, space, fun used => ?_, fun red => far (reduces_of_mem red)⟩
    · rw [toNat_extract, high]
      rfl
    · obtain ⟨mode, red⟩ := sequence (by rw [← toNat_extract]; exact fun zero => used (BitVec.eq_of_toNat_eq zero))
      exact ⟨mode, mem_of_reduces red⟩
  case kick =>
    intro e
    have read := Read.of_readA address
    have single : (curSlot s1).paired = false := read.paired.trans alone
    have run := runsWord_plain (i := .memSt d base .b8 ord sc off) ready rfl
    have kick := storeOp_reg kickStoreOp (d := d) (sc := sc) address names
    refine ⟨fun f refused => run.trap ?_, fun j u v w bs' made ordered past none' wins taken free => run.ok ?_⟩
    · rw [← read.curIssuer] at refused
      exact kick.trans (kickStoreOp_refused value single refused)
    · rw [← read.curIssuer] at made
      exact kick.trans (kickStoreOp_wins value single made ordered past none' wins taken free)

end Sys2Proof.Machine
end

section
/-! SUPPORT. The end of an activation, and words that wait: ctl.done by the steps of R232, and what runs a waiting word again (spec/06 R103,
R105, spec/13 R232, R234, spec/14 R258, spec/18 R311). -/

namespace Sys2Proof.Machine

open Sys2Proof.Claims

/-! ## ctl.done (R105, R232) -/

theorem exec_ctlDone_outside {s : State} (outside : (curSlot s).inTrap = false) : exec .ctlDone s = wordA false .none doneOp s :=
  if_neg (by rw [outside]; decide)

theorem Slot.queuesHold_eq_false (σ : Slot) :
    σ.queuesHold = false ↔ (∀ k : Fin 4, σ.lq[k] = []) ∧ (∀ q : Fin 2, σ.sq[q] = []) ∧ σ.cq = [] := by
  simp [Slot.queuesHold, Vector.any_eq_false, Fin.forall_iff, and_assoc]

theorem finalDue_eq_false (s : State) : finalDue s = false ↔
    ((curSlot s).paired = true → (hartOf s (curHart s)).commit = [] ∧ (hartOf s (curHart s)).sinceAgree = 0) := by
  cases pair : (curSlot s).paired <;> simp [finalDue, pair]

/-- A word that is not reached by both sides waits. -/
theorem doneOp_early {s : State} (early : (curSlot s).path ≠ [] ∨ (curSlot s).eDone = false) :
    doneOp s = .error (.wait .done none) := by
  unfold doneOp
  rw [get_bind]
  refine stopIf_bind_stop ?_ rfl _
  obtain path | eDone := early
  · simp [path]
  · simp [eDone]

section Reached

variable {s : State} (path : (curSlot s).path = []) (eDone : (curSlot s).eDone = true)
include path eDone

/-- The steps of R232 that follow once both sides have reached ctl.done. -/
theorem doneOp_reached : doneOp s = (do
    stopIf ((curSlot s).ePrefix.isSome) dropPrefixE
    stopIf (!(curSlot s).sb.isEmpty) (waitFor .done)
    stopIf (finalDue s) (waitFor .done)
    stopIf ((curSlot s).queuesHold) (trapAt codeQueueMisuse 0x001 0)
    freeCurrent
    return Flow.stay : Op Flow) s := by
  unfold doneOp
  rw [get_bind]
  exact stopIf_bind (by simp [path, eDone]) _ _ _

theorem doneOp_prefixed (pending : (curSlot s).ePrefix ≠ none) : doneOp s =
    .error (.trap ⟨codePrefix, 0x003, 0⟩ (some (putCur s { curSlot s with ePrefix := none, ePP := false }))) := by
  rw [doneOp_reached path eDone]
  exact stopIf_bind_stop (Option.isSome_iff_ne_none.mpr pending) rfl _

variable (spent : (curSlot s).ePrefix = none)
include spent

theorem doneOp_unsettled (live : (curSlot s).sb ≠ []) : doneOp s = .error (.wait .done none) := by
  rw [doneOp_reached path eDone, stopIf_bind (by simp [spent])]
  exact stopIf_bind_stop (by simp [live]) rfl _

variable (settled : (curSlot s).sb = [])
include settled

theorem doneOp_unagreed (due : finalDue s = true) : doneOp s = .error (.wait .done none) := by
  rw [doneOp_reached path eDone, stopIf_bind (by simp [spent]), stopIf_bind (by simp [settled])]
  exact stopIf_bind_stop due rfl _

variable (agreed : finalDue s = false)
include agreed

theorem doneOp_held (held : (curSlot s).queuesHold = true) : doneOp s = .error (.trap ⟨codeQueueMisuse, 0x001, 0⟩ none) := by
  rw [doneOp_reached path eDone, stopIf_bind (by simp [spent]), stopIf_bind (by simp [settled]), stopIf_bind (by simp [agreed])]
  exact stopIf_bind_stop held rfl _

theorem doneOp_releases (empty : (curSlot s).queuesHold = false) : doneOp s = .ok (.stay, releaseSlot s (curHart s) (curNum s)) := by
  rw [doneOp_reached path eDone, stopIf_bind (by simp [spent]), stopIf_bind (by simp [settled]), stopIf_bind (by simp [agreed]),
    stopIf_bind (by simp [empty])]
  rfl

end Reached

/-- Settles O12, by the steps of R232 in their order. -/
theorem doneNeedsEmptyQueues : Obligations.DoneNeedsEmptyQueues := by
  unfold Obligations.DoneNeedsEmptyQueues
  intro s ready outside σ H empty agreed
  rw [exec_ctlDone_outside outside]
  refine ⟨fun early => wordA_wait false ready (doneOp_early early), fun path eDone => ⟨fun pending => ?_, fun spent live => ?_,
    fun spent settled unagreed => ?_, fun spent settled agrees => ⟨fun isEmpty => ?_, fun holds => ?_⟩⟩⟩
  · exact wordA_trap false ready (doneOp_prefixed path eDone pending)
  · exact wordA_wait false ready (doneOp_unsettled path eDone spent live)
  · have due : finalDue s = true := by
      rw [← Bool.not_eq_false, finalDue_eq_false]
      exact unagreed
    exact wordA_wait false ready (doneOp_unagreed path eDone spent settled due)
  · exact wordA_stay false ready
      (doneOp_releases path eDone spent settled ((finalDue_eq_false s).mpr agrees) ((Slot.queuesHold_eq_false _).mpr isEmpty))
  · have held : (curSlot s).queuesHold = true := by
      rw [← Bool.not_eq_false, Slot.queuesHold_eq_false]
      exact holds
    exact wordA_trap false ready (doneOp_held path eDone spent settled ((finalDue_eq_false s).mpr agrees) held)

/-! ## Words that run again (R103, R232, R234, R311) -/

theorem stepA_congr {lone : Bool} {g : Gov} {op op' : Op Flow} {s : State} (same : op s = op' s) : stepA lone g op s = stepA lone g op' s := by
  unfold stepA
  rw [same]

/-- A word that an event of its slot runs out of turn, with an operation that agrees with the word's own. -/
theorem runsAgain_of_asSlot {ev i : Instr} {h n : Nat} {s : State} {g : Gov} {op op' : Op Flow} (ready : AReady (atA h n s))
    (word : exec i (atA h n s) = wordA false g op (atA h n s)) (same : op' (atA h n s) = op (atA h n s))
    (again : exec ev s = .next (asSlot h n (stepA false g op') s)) : RunsAgain ev i h n s := by
  refine ⟨stepA false g op (atA h n s), word.trans (onSlot_next _ ready.1 ready.2.1), again.trans ?_⟩
  rw [← stepA_congr same]
  rfl

theorem Slot.nextLate_of_none {σ : Slot} (none' : σ.late = []) : σ.nextLate = none := by
  simp [Slot.nextLate, none']

section Again

variable {h n : Nat} {s : State} (runs : slotRuns s h n = true) (ready : AReady (atA h n s))
include runs ready

theorem ctlWait_runsAgain {d' : ADst} {off : Nat} {v : Word} {u : Undo} (d : ADst) (x y : ASrc) (none' : (slotOf s h n).late = [])
    (waits : (slotOf s h n).aWait = some (.waitWord d' off v u)) : RunsAgain (.ctlWaitWake h n) (.ctlWait d x y) h n s := by
  refine runsAgain_of_asSlot (op := do waitOp d x y; return .next) (op' := do pollWord d' off v u; return .next) ready rfl ?_ ?_
  · have polls : waitOp d x y (atA h n s) = pollWord d' off v u (atA h n s) := by
      unfold waitOp
      rw [getSlot_bind]
      have here : (curSlot (atA h n s)).aWait = some (.waitWord d' off v u) := waits
      simp only [here]
    simp only [bind, StateT.bind, polls]
  · show Host.Outcome.next (wakeWait h n s) = _
    simp [wakeWait, runs, none', waits]

theorem ctlDone_runsAgain (none' : (slotOf s h n).late = []) (waits : (slotOf s h n).aWait = some .done) :
    RunsAgain (.slotRelease h n) .ctlDone h n s := by
  have again : exec (.slotRelease h n) s =
      .next (asSlot h n (if (slotOf s h n).inTrap then stepA false .governable abandonOp else stepA false .none doneOp) s) := by
    show Host.Outcome.next (releaseDone h n s) = _
    simp [releaseDone, runs, none', waits]
  cases trap : (slotOf s h n).inTrap with
  | true => exact runsAgain_of_asSlot ready (if_pos trap) rfl (by simpa [trap] using again)
  | false => exact runsAgain_of_asSlot ready (exec_ctlDone_outside trap) rfl (by simpa [trap] using again)

theorem chain_runsAgain {isLaunch : Bool} {x y : ASrc} {i : Instr} (none' : (slotOf s h n).late = [])
    (waits : (slotOf s h n).aWait = some (.chain isLaunch x y none)) (word : ∀ t, exec i t = plainA (presentOp isLaunch x y none) t) :
    RunsAgain (.sysChainCommit h n) i h n s := by
  refine runsAgain_of_asSlot (op := do presentOp isLaunch x y none; return .next) ready (word _) rfl ?_
  show Host.Outcome.next (commitChain h n s) = _
  simp [commitChain, runs, none', waits]

end Again

/-- Settles O15, event by event. -/
theorem waitingWordsGoOn : Obligations.WaitingWordsGoOn := by
  unfold Obligations.WaitingWordsGoOn
  intro s h n runs ready
  refine ⟨fun d x y d' off v u none' waits => ctlWait_runsAgain runs ready d x y none' waits,
    fun none' waits => ctlDone_runsAgain runs ready none' waits,
    fun x y none' waits => chain_runsAgain runs ready none' waits fun _ => rfl,
    fun x y none' waits => chain_runsAgain runs ready none' waits fun _ => rfl,
    fun sc none' waits done => ?fence, fun w waits free => ?aSide, fun w waits free => ?eSide⟩
  case fence =>
    unfold exec execFenceComplete
    simp [event, runs, Slot.nextLate_of_none none', waits, done]
  case aSide =>
    show Host.Outcome.next (releaseSide h n .aSide s) = _
    simp [releaseSide, runs, waits, free]
  case eSide =>
    show Host.Outcome.next (releaseSide h n .eSide s) = _
    simp [releaseSide, runs, waits, free]

end Sys2Proof.Machine
end

section
/-! SUPPORT. A step of the module: the word that a turn runs (spec/06 R106, spec/12 R205, R206, R221, spec/13 R224, spec/14 R241,
spec/18 R307). -/

namespace Sys2Proof.Machine

open Sys2Proof.Claims

/-! ## The turn (log 2) -/

theorem mayIssue_of {s : State} (may : MayIssue s) : mayIssue s = true := by
  obtain ⟨core, running, goes⟩ := may
  cases at' : launchOf s (curLaunch s) with
  | none => simp [mayIssue, core, running, at']
  | some l => simp [mayIssue, core, running, at', goes l at']

theorem stepSide_aSide {s : State} (may : MayIssue s) (side : s.cur.2.2 = .aSide) : stepSide s = stepSideA s := by
  unfold stepSide
  rw [if_pos (mayIssue_of may), side]

theorem stepSide_eSide {s : State} (may : MayIssue s) (side : s.cur.2.2 = .eSide) : stepSide s = stepSideE s := by
  unfold stepSide
  rw [if_pos (mayIssue_of may), side]

theorem step_default {s : State} (none' : s.agenda = []) : step s = around (stepSide s) := by
  unfold step
  rw [none']
  rfl

theorem step_turn {s : State} {t : Turn} {ts : List Turn} (first : s.agenda = t :: ts) :
    step s = onNext settleTurn (takeTurn t { s with agenda := ts }) := by
  unfold step
  rw [first]

/-! ## The A-side's word (R106, R221, R307) -/

theorem refine_of_ne {i : Instr} (other : ∀ x y, i ≠ .sysResumeReturn x y) (s : State) : refine i s = i := by
  unfold refine
  split
  · exact absurd rfl (other _ _)
  · rfl

theorem nextC_ok {s : State} {i : Instr} (decoded : decodeC (bundleAt s (curLaunch s) (curSlot s).pc).toNat = .ok i) :
    nextC s = .ok (refine i s) := by
  unfold nextC
  rw [decoded]

theorem nextC_error {s : State} {f : DecodeFault} (refused : decodeC (bundleAt s (curLaunch s) (curSlot s).pc).toNat = .error f) :
    nextC s = .error f := by
  unfold nextC
  rw [refused]

theorem stepSideA_late {s : State} (late : (curSlot s).nextLate ≠ none) :
    stepSideA s = exec (.lateFaultDelivery (curHart s) (curNum s)) s :=
  if_neg (by simpa using late)

theorem stepSideA_end {s : State} (none' : (curSlot s).nextLate = none) (past : codeLen s (curLaunch s) ≤ (curSlot s).pc) :
    stepSideA s = exec (.codeEndFallthrough (curHart s) (curNum s)) s := by
  unfold stepSideA
  rw [if_pos (by rw [none']; rfl), if_pos past]

section Word

variable {s : State} (none' : (curSlot s).nextLate = none) (inside : (curSlot s).pc < codeLen s (curLaunch s))
include none' inside

theorem stepSideA_word : stepSideA s = runWord .aSide (nextC s) s := by
  unfold stepSideA
  rw [if_pos (by rw [none']; rfl), if_neg (Nat.not_le.mpr inside)]

theorem stepSideA_decoded {i : Instr} (decoded : decodeC (bundleAt s (curLaunch s) (curSlot s).pc).toNat = .ok i) :
    stepSideA s = exec (refine i s) s := by
  rw [stepSideA_word none' inside, nextC_ok decoded]
  rfl

theorem stepSideA_refused {f : DecodeFault} (refused : decodeC (bundleAt s (curLaunch s) (curSlot s).pc).toNat = .error f)
    (goes : holdA s = none) : stepSideA s = .next (takeTrap s s .aSide (decodeFaultInfo f)) := by
  rw [stepSideA_word none' inside, nextC_error refused]
  show Host.Outcome.next (illegalWord .aSide (decodeFaultInfo f) s) = _
  simp only [illegalWord, goes]

end Word

/-- The act that S selects (R307). -/
theorem actOf_read {x y : ASrc} {s t : State} {v : Word} (read : readA x s = .ok (v, t)) :
    actOf x y s = match (v.extractLsb' 0 2).toNat with
      | 0 => .sysResumeReturn x y
      | 1 => .sysResumeRedo x y
      | 2 => .sysResumeDiscard x y
      | _ => .sysResumeComplete x y := by
  have below : (v.extractLsb' 0 2).toNat < 4 := (v.extractLsb' 0 2).isLt
  unfold actOf
  simp only [read]
  generalize (v.extractLsb' 0 2).toNat = act at below ⊢
  match act, below with
  | 0, _ | 1, _ | 2, _ | 3, _ => rfl

theorem holdA_free {s : State} (room : (curSlot s).path.length < 64) (awake : (curSlot s).sleeping = false) (calm : pairStall s = false) :
    holdA s = none := by
  simp [holdA, awake, calm, Nat.not_le.mpr room]

/-! ## The E-side's word (R106, R206) -/

theorem stepSideE_word {s : State} {b : Nat} (next : (curSlot s).ePos = some b) : stepSideE s = runWord .eSide (nextX s b) s := by
  unfold stepSideE
  rw [next]

theorem nextX_lone {s : State} {b : Nat} (lone : isLone (bundleAt s (curLaunch s) b).toNat = true) : nextX s b = .ok .nopX := if_pos lone

theorem nextX_pair {s : State} {b : Nat} (pair : isLone (bundleAt s (curLaunch s) b).toNat = false) :
    nextX s b = decodeX ((bundleAt s (curLaunch s) b).toNat / 2 ^ 32) := if_neg (by rw [pair]; decide)

theorem illegalWord_eSide {s : State} (alone : (curSlot s).paired = false) (f : FaultInfo) :
    illegalWord .eSide f s = takeTrap s s .eSide f := if_neg (by simp [alone])

/-- Settles O56, by whose turn it is. -/
theorem stepRunsDecodedWord : Obligations.StepRunsDecodedWord := by
  unfold Obligations.StepRunsDecodedWord
  refine ⟨fun s none' may side => ?aSide, fun s b none' may side next => ?eSide, fun s ts => ?turns⟩
  case aSide =>
    intro w
    rw [step_default none', stepSide_aSide may side]
    refine ⟨fun late => by rw [stepSideA_late late], fun none' past => by rw [stepSideA_end none' past],
      fun none' inside => ⟨fun i decoded other => ?_, fun x y v t decoded read => ?_, fun f refused room awake calm => ?_⟩⟩
    · rw [stepSideA_decoded none' inside decoded, refine_of_ne other]
    · rw [stepSideA_decoded none' inside decoded]
      exact congrArg (fun i => around (exec i s)) (actOf_read read)
    · rw [stepSideA_refused none' inside refused (holdA_free room awake calm)]
  case eSide =>
    intro w
    rw [step_default none', stepSide_eSide may side, stepSideE_word next]
    refine ⟨fun lone => by rw [nextX_lone lone]; rfl, fun i pair decoded => ?_, fun f pair refused alone => ?_⟩
    · rw [nextX_pair pair, decoded]
      rfl
    · rw [nextX_pair pair, refused]
      exact congrArg (fun t => around (.next t)) (illegalWord_eSide alone _)
  case turns =>
    intro u
    refine ⟨fun i first => step_turn first, fun n first => step_turn first, fun f first => step_turn first,
      fun k flow ftype cells blen dmod body first => step_turn first, ?_⟩
    intro h n side i first t may none' inside aSide decoded other
    have word : stepSide t = exec i t := by
      rw [stepSide_aSide may aSide, stepSideA_decoded (s := t) none' inside decoded, refine_of_ne other]
    exact (step_turn first).trans (congrArg (onNext settleTurn) word)

end Sys2Proof.Machine
end

section
/-! SUPPORT. What the fields of the E-side read and write (spec/06 R104, spec/15 R260, spec/16 R271). -/

namespace Sys2Proof.Machine

open Sys2Proof.Claims

/-! ## Pops of lq (R104) -/

/-- The entry that redo has armed for a queue, if there is one. -/
theorem find_armed_none {σ : Slot} (none' : ∀ x ∈ σ.sb, x.held = none) (k : Fin 4) :
    σ.sb.find? (fun x => x.held.any fun p => p.armed && p.queue == k) = none := by
  rw [List.find?_eq_none]
  intro x m
  simp [none' x m]

/-- The pop of entry e of queue k as an X-word begins to hold it. -/
def freshPop (k : Fin 4) (e : QEntry) (dst : HeldDst) : HeldPop := { queue := k, entry := e, delivered := 64, armed := false, dest := dst }

/-- The scoreboard entry of a pop that an X-word holds. -/
def heldEntry (id code : Nat) (p : HeldPop) : SbEntry := { SbEntry.plain id 1 0 with destCode := code, side := .eSide, held := some p }

section Pops

variable {s : State} (none' : ∀ x ∈ (curSlot s).sb, x.held = none)
include none'

theorem readE_lq {k : Fin 4} {e : QEntry} {es : List LqEntry} (head : (curSlot s).lq[k] = .filled e :: es) :
    readE (.lq k) s = .ok (e.scalar, putCur s { curSlot s with lq := (curSlot s).lq.set k es }) := by
  have pops : popLq k s = .ok (e, putCur s { curSlot s with lq := (curSlot s).lq.set k es }) := by
    unfold popLq
    rw [getSlot_bind]
    simp only [find_armed_none none' k, head]
    rfl
  show (popLq k >>= fun x => pure x.scalar) s = _
  rw [bind_ok pops]
  rfl

theorem readE_lq_waits {k : Fin 4} {id : Nat} {es : List LqEntry} (head : (curSlot s).lq[k] = [] ∨ (curSlot s).lq[k] = .reserved id :: es) :
    readE (.lq k) s = .error (.wait (.popLq k) none) := by
  have waits : popLq k s = .error (.wait (.popLq k) none) := by
    unfold popLq
    rw [getSlot_bind]
    simp only [find_armed_none none' k]
    obtain head | head := head <;> simp only [head] <;> rfl
  exact bind_error waits

theorem holdPop_lq {k : Fin 4} {e : QEntry} {es : List LqEntry} (dst : HeldDst) (code : Nat)
    (head : (curSlot s).lq[k] = .filled e :: es) (room : (curSlot s).sb.length < 16) : holdPop k dst code s =
      .ok ((e, s.nextId), putCur { s with nextId := s.nextId + 1 }
        { curSlot s with lq := (curSlot s).lq.set k es, sb := (curSlot s).sb ++ [heldEntry s.nextId code (freshPop k e dst)] }) := by
  unfold holdPop
  rw [getSlot_bind]
  simp only [find_armed_none none' k, head]
  rw [bind_ok (needSb_ok room)]
  rfl

/-- A vector pop: its entry moves to the scoreboard. -/
theorem grabV_lq {k : Fin 4} {e : QEntry} {es : List LqEntry} (dst : HeldDst) (code : Nat) (head : (curSlot s).lq[k] = .filled e :: es)
    (room : (curSlot s).sb.length < 16) :
    ∃ (t : State) (x : SbEntry) (p : HeldPop), grabV (.lq k) dst code s = .ok ((e.vector, [s.nextId]), t) ∧
      (curSlot t).sb = (curSlot s).sb ++ [x] ∧ x.id = s.nextId ∧ x.kind = 1 ∧ x.held = some p ∧ p.queue = k ∧ p.entry = e ∧
      (curSlot t).lq = (curSlot s).lq.set k es := by
  have grabbed := bind_ok (k := fun r : QEntry × Nat => pure (r.1.vector, [r.2])) (holdPop_lq none' dst code head room)
  exact ⟨_, heldEntry s.nextId code (freshPop k e dst), freshPop k e dst, grabbed, congrArg Slot.sb (curSlot_putCur _ _), rfl, rfl, rfl, rfl,
    rfl, congrArg Slot.lq (curSlot_putCur _ _)⟩

end Pops

/-! ## Destinations (R260, R271) -/

theorem pushSq_ok {s : State} {q : Fin 2} (room : (curSlot s).sq[q].length < 16) (e : QEntry) :
    pushSq q e s = .ok ((), putCur s { curSlot s with sq := (curSlot s).sq.set q ((curSlot s).sq[q] ++ [e]) }) :=
  if_neg (Nat.not_le.mpr room)

theorem pushSq_full {s : State} {q : Fin 2} (full : 16 ≤ (curSlot s).sq[q].length) (e : QEntry) :
    pushSq q e s = .error (.wait (.pushSq q) none) := if_pos full

theorem pushCq_ok {s : State} (room : (curSlot s).cq.length < 8) (w : Word) :
    pushCq w s = .ok ((), putCur s { curSlot s with cq := (curSlot s).cq ++ [w] }) := if_neg (Nat.not_le.mpr room)

theorem pushCq_full {s : State} (full : 8 ≤ (curSlot s).cq.length) (w : Word) : pushCq w s = .error (.wait .pushCq none) := if_pos full

theorem writeE_e (n : Fin 16) (w : Word) (s : State) :
    writeE (.e n) w s = .ok ((), noted w (putCur s { curSlot s with e := (curSlot s).e.set n w })) := noteResult_eq w _

theorem writeE_sq {s : State} {q : Fin 2} (room : (curSlot s).sq[q].length < 16) (w : Word) : writeE (.sq q) w s = .ok ((),
    noted w (putCur s { curSlot s with sq := (curSlot s).sq.set q ((curSlot s).sq[q] ++ [⟨w.zeroExtend 512, 3⟩]) })) :=
  (bind_ok (pushSq_ok room (entryOf w))).trans (noteResult_eq w _)

theorem writeE_cq {s : State} (room : (curSlot s).cq.length < 8) (w : Word) :
    writeE .cq w s = .ok ((), noted w (putCur s { curSlot s with cq := (curSlot s).cq ++ [w] })) :=
  (bind_ok (pushCq_ok room w)).trans (noteResult_eq w _)

section Vectors

variable {s : State} (alone : (curSlot s).paired = false)
include alone

theorem writeV_v (n : Fin 8) (w : Vec) : writeV (.v n) w s = .ok ((), putCur s { curSlot s with v := (curSlot s).v.set n w }) :=
  noteResult_unpaired (s := putCur s { curSlot s with v := (curSlot s).v.set n w }) (by rw [curSlot_putCur]; exact alone)

theorem writeV_sq {q : Fin 2} (room : (curSlot s).sq[q].length < 16) (w : Vec) : writeV (.sq q) w s =
    .ok ((), putCur s { curSlot s with sq := (curSlot s).sq.set q ((curSlot s).sq[q] ++ [⟨w, 4⟩]) }) :=
  (bind_ok (pushSq_ok room ⟨w, 4⟩)).trans (noteResult_unpaired (by rw [curSlot_putCur]; exact alone))

end Vectors

/-! ## Predicates (R24) -/

theorem Slot.pred_of_ne {n : Fin 8} (other : n ≠ 0) (σ : Slot) : σ.pred n = σ.p[n] := if_neg other

theorem Slot.pred_setPred {n : Fin 8} (other : n ≠ 0) (σ : Slot) (w : Word) : (σ.setPred n w).pred n = w := by
  rw [Slot.pred_of_ne other, Slot.setPred, if_neg other]
  exact Vector.getElem_set_self _

/-- Settles O32, source by source and destination by destination. -/
theorem operandsOfESide : Obligations.OperandsOfESide := by
  unfold Obligations.OperandsOfESide
  intro s
  exact ⟨fun _ => rfl, rfl,
    fun none' => ⟨fun _ _ _ head => readE_lq none' head, fun _ _ _ head => readE_lq_waits none' head,
      fun _ _ _ dst code head room => grabV_lq none' dst code head room⟩,
    fun _ _ _ => rfl, fun n w => writeE_e n w s, fun _ w room => writeE_sq room w, fun _ w full => bind_error (pushSq_full full _),
    fun w room => writeE_cq room w, fun w full => bind_error (pushCq_full full w), fun _ => rfl,
    fun alone => ⟨writeV_v alone, fun _ w room => writeV_sq alone room w⟩, rfl, fun _ => rfl,
    fun _ other => ⟨Slot.pred_of_ne other _, Slot.pred_setPred other _⟩⟩

end Sys2Proof.Machine
end

section
/-! SUPPORT. The message words: ports, payloads, and what a send leaves (spec/06 R107, R111, spec/14 R254 to R256). -/

namespace Sys2Proof.Machine

open Sys2Proof.Claims

/-! ## Ports (R254) -/

/-- The pointer that names destination d of space 0x7 and nothing else. -/
theorem toNat_port {d : Nat} (small : d < 2 ^ 20) {port : Word} (named : port = BitVec.ofNat 64 (7 * 2 ^ 60 + d * 2 ^ 40)) :
    port.toNat = 7 * 2 ^ 60 + d * 2 ^ 40 := by
  rw [named, BitVec.toNat_ofNat]
  omega

theorem portDest_space {port : Word} (other : spaceOf port ≠ 7) (s : State) :
    portDest port s = .error (.trap ⟨codeSpace, BitVec.ofNat 12 (spaceOf port), port⟩ none) := if_pos (.inl other)

section Ports

variable {d : Nat} {port : Word} (named : port = BitVec.ofNat 64 (7 * 2 ^ 60 + d * 2 ^ 40)) (hart : d < Config.nHarts)
include named hart

/-- Of a port of a hart, portDest asks whether it is a core of the launch's platform. -/
theorem portDest_port (s : State) : portDest port s =
    if isCompute d && !inPlat s (curLaunch s) d then .error (.trap ⟨codeBounds, 0x0b1, port⟩ none) else .ok (d, s) := by
  have below : d < 656896 := hart
  have value : port.toNat = 7 * 2 ^ 60 + d * 2 ^ 40 := toNat_port (by omega) named
  have space : spaceOf port = 7 := by
    unfold spaceOf
    omega
  have index : indexOf port = d := by
    unfold indexOf
    omega
  have plain : port.toNat % 2 ^ 40 = 0 := by omega
  have dest : isDest d = true := by simp [isDest, hart]
  unfold portDest
  simp only [index, dest, Bool.not_true, Bool.false_or]
  exact if_neg (by omega)

theorem portDest_outside {s : State} (core : d < Config.nCompute) (outside : inPlat s (curLaunch s) d = false) :
    portDest port s = .error (.trap ⟨codeBounds, 0x0b1, port⟩ none) := by
  rw [portDest_port named hart]
  exact if_pos (by simp [isCompute, core, outside])

theorem portDest_inside {s : State} (ok : isCompute d = false ∨ inPlat s (curLaunch s) d = true) : portDest port s = .ok (d, s) := by
  rw [portDest_port named hart]
  exact if_neg (by obtain ok | ok := ok <;> simp [ok])

end Ports

/-! ## The checks of a send (R254) -/

theorem Read.of_readBlock {n first : Nat} {s t : State} {ws : List Word} (e : readBlock first n s = .ok (ws, t)) : Read s t := by
  induction n generalizing first s ws with
  | zero => exact (pure_inv e).2 ▸ .refl s
  | succ n ih =>
    obtain ⟨w, u, read, e⟩ := bind_inv e
    obtain ⟨rest, v, block, e⟩ := bind_inv e
    obtain ⟨_, rfl⟩ := pure_inv e
    exact (Read.of_readA read).trans (ih block)

section Checks

variable {first : BitVec 5} {p : Word} {rest : Bool} {chan : BitVec 6} {pri : BitVec 2} {len dest : Nat} {data : Bool} {s : State}
variable (named : portDest p s = .ok (dest, s))
include named

theorem sendOp_reserved (bits : rest = true) :
    sendOp first p rest chan pri len data s = .error (.trap ⟨codeReserved, 0x0c0, 0⟩ none) := by
  unfold sendOp
  rw [bind_ok named]
  exact stopIf_bind_stop bits rfl _

variable (clear : rest = false)
include clear

/-- A length of R254 that names no payload. -/
theorem sendOp_length (bad : 7 < len ∨ (0 < len ∧ 16 < first.toNat + len) ∨ (data = true ∧ len = 0)) :
    sendOp first p rest chan pri len data s = .error (.trap ⟨codeReserved, 0x0c1, 0⟩ none) := by
  unfold sendOp
  rw [bind_ok named, stopIf_bind (by simp [clear])]
  by_cases long : 7 < len ∨ (0 < len ∧ 16 < first.toNat + len)
  · exact stopIf_bind_stop long rfl _
  · have empty : data = true ∧ len = 0 := by tauto
    rw [stopIf_bind long]
    exact stopIf_bind_stop (by simp [empty.1, empty.2]) rfl _

theorem sendOp_sends {ws : List Word} {t : State} (short : len ≤ 7) (fits : len = 0 ∨ first.toNat + len ≤ 16)
    (some' : data = true → len ≠ 0) (block : readBlock first.toNat len s = .ok (ws, t)) :
    sendOp first p rest chan pri len data s = sendMessage dest chan pri (if data then 0 else 1) ws t := by
  unfold sendOp
  rw [bind_ok named, stopIf_bind (by simp [clear]), stopIf_bind (by omega), stopIf_bind (by simpa using some'), bind_ok block]

end Checks

/-! ## What a word that sends a message leaves (R107, R111) -/

/-- Retiring changes no operation that is on its way. -/
theorem commit_endA (lone : Bool) (t : State) (k : Nat) : (hartOf (endA lone t) k).commit = (hartOf t k).commit := by
  unfold endA retireAt
  refine (hartOf_countBundle_keeps (·.commit) _ _ _ _ (fun _ _ _ => rfl) k).trans ?_
  exact hartOf_putHart_keeps (H := (hartOf t (curHart t)).putSlot _ _) (·.commit) rfl k

/-- A word that retires once its message is sent keeps the message as every send is kept. -/
theorem sendsKept_of_endA {i : Instr} {lone : Bool} {s s1 : State} {dest : Nat} {chan : BitVec 6} {pri : BitVec 2} {kind : BitVec 4}
    {ws : List Word} (r : Read s s1) (able : CanSend s1)
    (run : ∀ t, sendMessage dest chan pri kind ws s1 = .ok ((), t) → exec i s = .next (endA lone t)) :
    SendsKept i s s1 (.msg dest (mkHeader chan pri (BitVec.ofNat 4 ws.length) kind (nextStamp s1)) ws) 1 := by
  obtain ⟨it, t, e, sent, op, src, id, lies, goes, item, kind', kept, mem, copy⟩ := sendMessage_ok dest chan pri kind ws able
  obtain ⟨counts, ends⟩ : Issues 0 (putCur t ((curSlot t).retireA lone .next)) (endA lone t) ∧ _ := countBundle_issues _ _ _ _
  have slot : curSlot (endA lone t) = (curSlot t).retireA lone .next := ends.trans (curSlot_putCur _ _)
  have before : curSlot t = { curSlot s with
      sq := (curSlot s1).sq, cq := (curSlot s1).cq, sm := (curSlot s1).sm, sb := (curSlot t).sb, lq := (curSlot t).lq } := by
    rw [goes.slot, r.slot]
  have home : curHart t = curHart s := goes.curHart.trans r.curHart
  rw [r.paired, r.curHart] at lies
  rw [r.curHart] at copy
  refine ⟨endA lone t, it, e, run t sent, op, src.trans r.curIssuer, id, ?_, ?_, item, kind', kept, ?_, ?_, ?_, ?_, ?_, ?_, ?_⟩
  · by_cases pair : (curSlot s).paired = true
    · rw [if_pos pair, commit_endA]
      exact (if_pos pair).mp lies
    · rw [if_neg pair]
      exact counts.net ((if_neg pair).mp lies)
  · rw [slot]
    exact mem
  · rw [← home]
    rw [← home] at copy
    exact counts.copies (by rw [curHart_putCur, hartOf_putCur]; exact copy)
  · rw [counts.sseq, ← goes.sseq]
    simp [curCtx, curLaunch, Slot.retireA]
  · rw [slot]
    simp only [Slot.retireA]
    rw [before]
  · rw [slot]
    rfl
  · rw [slot]
    simp only [Slot.retireA]
    rw [before]
  · rw [slot]
    simp only [Slot.retireA]
    rw [before]
  · refine ⟨fun h L b => ?_, fun b => ?_, fun b => ?_⟩
    · rw [counts.scratch, ctxOf_putCur, goes.scratch]
    · rw [counts.rest]
      exact congrArg (Memory.read ·.hbm b) goes.rest
    · rw [counts.rest]
      exact congrArg (Memory.read ·.hostMem b) goes.rest

/-! ## msg.send and msg.sendd (R254) -/

theorem exec_sendTable {p : (BitVec 5 → ASrc → ASrc → BitVec 2 → Instr) × Bool} (m : p ∈ sendTable) (d : BitVec 5) (x y : ASrc)
    (pri : BitVec 2) (s : State) : exec (p.1 d x y pri) s = plainA (msgSendOp p.2 d x y pri) s := by
  simp only [sendTable, List.mem_cons, List.not_mem_nil, or_false] at m
  obtain rfl | rfl := m <;> rfl

/-- The bits of a template that a header does not take. -/
theorem template_rest (tm : Word) :
    (tm.extractLsb' 56 2 != 0 || tm.extractLsb' 0 52 != 0) = true ↔ tm.extractLsb' 56 2 ≠ 0 ∨ tm.extractLsb' 0 52 ≠ 0 := by simp

theorem msgSendOp_eq {data : Bool} {d : BitVec 5} {x y : ASrc} {pri : BitVec 2} {s s1 s2 : State} {port tm : Word}
    (ex : readA x s = .ok (port, s1)) (ey : readA y s1 = .ok (tm, s2)) : msgSendOp data d x y pri s =
      sendOp d port (tm.extractLsb' 56 2 != 0 || tm.extractLsb' 0 52 != 0) (tm.extractLsb' 58 6) pri (tm.extractLsb' 52 4).toNat data s2 := by
  unfold msgSendOp
  rw [bind_ok ex, bind_ok ey]

/-! ## sendl (R256) -/

theorem exec_sendlTable {p : (BitVec 5 → ASrc → BitVec 32 → Instr) × Bool} (m : p ∈ sendlTable) (d : BitVec 5) (x : ASrc)
    (imm : BitVec 32) (s : State) : exec (p.1 d x imm) s = loneA (sendlOp p.2 d x imm) s := by
  simp only [sendlTable, List.mem_cons, List.not_mem_nil, or_false] at m
  obtain rfl | rfl := m <;> rfl

theorem loneA_trap {s : State} {op : Op Unit} {f : FaultInfo} {k : Option State} (h : AReady s) (e : op s = .error (.trap f k)) :
    loneA op s = .next (takeTrap s (k.getD s) .aSide f) := by
  unfold loneA
  exact wordA_trap true h (bind_error e)

section Immediate

variable {data : Bool} {d : BitVec 5} {x : ASrc} {imm : BitVec 32} {s s1 : State} {port : Word} (ex : readA x s = .ok (port, s1))
include ex

theorem sendlOp_reserved (bits : imm.extractLsb' 0 20 ≠ 0) :
    sendlOp data d x imm s = .error (.trap ⟨codeReserved, 0x0c3, 0⟩ none) := by
  unfold sendlOp
  rw [bind_ok ex]
  exact stopIf_bind_stop bits rfl _

theorem sendlOp_eq (clear : imm.extractLsb' 0 20 = 0) : sendlOp data d x imm s =
    sendOp d port false (imm.extractLsb' 26 6) (imm.extractLsb' 24 2) (imm.extractLsb' 20 4).toNat data s1 := by
  unfold sendlOp
  rw [bind_ok ex, stopIf_bind (not_not_intro clear)]

end Immediate

/-! ## msg.reply (R255) -/

section Reply

variable {d x y : ASrc} {s s1 s2 s3 : State} {port v w : Word} {dest : Nat} (ex : readA x s = .ok (port, s1))
  (ey : readA y s1 = .ok (v, s2)) (ed : readA d s2 = .ok (w, s3)) (named : portDest port s3 = .ok (dest, s3))
include ex ey ed named

theorem replyOp_large (large : 2 ^ 7 ≤ w.toNat) : replyOp d x y s = .error (.trap ⟨codeReserved, 0x0c2, 0⟩ none) := by
  unfold replyOp
  rw [bind_ok ex, bind_ok ey, bind_ok ed, bind_ok named]
  exact stopIf_bind_stop (by omega) rfl _

theorem replyOp_sends (small : w.toNat < 2 ^ 7) : replyOp d x y s = sendMessage dest 0 3 2 [w, v] s3 := by
  unfold replyOp
  rw [bind_ok ex, bind_ok ey, bind_ok ed, bind_ok named, stopIf_bind (by omega)]

end Reply

/-- The header of a reply: channel 0, priority 3, two words, KIND 2 (R107, R255). -/
theorem mkHeader_reply (v w : Word) (stamp : BitVec 48) :
    mkHeader 0 3 (BitVec.ofNat 4 [w, v].length) 2 stamp = (0x0322 : BitVec 16) ++ stamp := by
  have fields : (0 : BitVec 6) ++ (3 : BitVec 2) ++ BitVec.ofNat 4 2 ++ (2 : BitVec 4) = (0x0322 : BitVec 16) := by decide
  exact congrArg (fun x : BitVec 16 => x ++ stamp) fields

/-- The LEN field of a header is the length of the payload read for it. -/
theorem ofNat_length_readBlock {first : Nat} {len : BitVec 4} {s t : State} {ws : List Word}
    (e : readBlock first len.toNat s = .ok (ws, t)) : BitVec.ofNat 4 ws.length = len := by
  rw [length_readBlock e, BitVec.ofNat_toNat, BitVec.setWidth_eq]

/-- Settles O28, word by word. -/
theorem messagesAreSent : Obligations.MessagesAreSent := by
  unfold Obligations.MessagesAreSent
  refine ⟨?send, ?sendl, ?reply, fun s port => ⟨fun other => portDest_space other s, fun d core named outside => ?_,
    fun d core named inside => ?_, fun d above hart named => ?_⟩⟩
  case send =>
    intro p m d x y pri s s1 s2 s3 port tm dest ws ready ex ey named len
    rw [exec_sendTable m]
    have op := msgSendOp_eq (data := p.2) (d := d) (pri := pri) ex ey
    refine ⟨fun bits => ?_, fun high low bad => ?_, fun high low short fits some' block able header head => ?_⟩
    · exact plainA_trap ready (op.trans (sendOp_reserved named ((template_rest tm).mpr bits)))
    · exact plainA_trap ready (op.trans (sendOp_length named (by simp [high, low]) bad))
    · rw [head, ← ofNat_length_readBlock block]
      refine sendsKept_of_endA (lone := false) (((Read.of_readA ex).trans (.of_readA ey)).trans (.of_readBlock block)) able fun t sent => ?_
      rw [exec_sendTable m]
      exact plainA_ok ready ((op.trans (sendOp_sends named (by simp [high, low]) short fits some' block)).trans sent)
  case sendl =>
    intro p m d x imm s s1 s2 port dest ws ready ex named len
    rw [exec_sendlTable m]
    refine ⟨fun bits => loneA_trap ready (sendlOp_reserved ex bits), fun clear short fits some' block able header head => ?_⟩
    rw [head, ← ofNat_length_readBlock block]
    refine sendsKept_of_endA (lone := true) ((Read.of_readA ex).trans (.of_readBlock block)) able fun t sent => ?_
    rw [exec_sendlTable m]
    exact loneA_ok ready (((sendlOp_eq ex clear).trans (sendOp_sends named rfl short fits some' block)).trans sent)
  case reply =>
    intro d x y s s1 s2 s3 port v w dest ready ex ey ed named
    refine ⟨fun large => plainA_trap ready (replyOp_large ex ey ed named large), fun small able header head => ?_⟩
    rw [head, ← mkHeader_reply v w]
    exact sendsKept_of_endA (lone := false) (chan := 0) (pri := 3) (kind := 2) (ws := [w, v])
      (((Read.of_readA ex).trans (.of_readA ey)).trans (.of_readA ed)) able fun t sent =>
      plainA_ok ready ((replyOp_sends ex ey ed named small).trans sent)
  · exact portDest_outside named (core.trans (by decide)) core outside
  · exact portDest_inside named (core.trans (by decide)) (.inr inside)
  · exact portDest_inside named hart (.inl (by simpa [isCompute] using above))

end Sys2Proof.Machine
end

section
/-! SUPPORT. A message at its destination core: the checks, the ring, the start of an activation, and the answer (spec/06 R108, R109, R111,
R113, spec/10 R174, spec/11 R187). -/

namespace Sys2Proof.Machine

open Sys2Proof.Claims

/-! ## The three arrivals (R108, R109) -/

section Arrivals

variable {s t : State} {k : Nat} {it : NetItem} {h : Nat} {header : Word} {ws : List Word}
variable (arrives : Arrives s t k it) (op : it.op = .msg h header ws) (hart : h < Config.nHarts)
include arrives op hart

theorem exec_activeMessage (kind : header.extractLsb' 48 4 = 1) :
    exec (.activeMessageArrival k) s = .next (activeArrive s t it h header ws) := by
  have one : kindOf header = 1 := by rw [kindOf, kind]; rfl
  unfold exec execActiveMessageArrival event
  simp [performing_of_arrives arrives, op, hart, one]

theorem exec_dataMessage (kind : header.extractLsb' 48 4 = 0) :
    exec (.dataMessageArrival k) s = .next (dataArrive s t it h header ws) := by
  have zero : kindOf header = 0 := by rw [kindOf, kind]; rfl
  unfold exec execDataMessageArrival event
  simp [performing_of_arrives arrives, op, hart, zero]

theorem exec_replyMessage (kind : header.extractLsb' 48 4 = 2) :
    exec (.replyMessageArrival k) s = .next (accept (settleNamed t it.src.launch h ((ws.headD 0).extractLsb' 0 3).toNat
      ((ws.headD 0).extractLsb' 3 4).toNat 4 (ws.getD 1 0)) it) := by
  have two : kindOf header = 2 := by rw [kindOf, kind]; rfl
  unfold exec execReplyMessageArrival event
  simp [performing_of_arrives arrives, op, hart, two]

end Arrivals

/-! ## A message that is taken (R111) -/

theorem ctxOf_takenBy (s : State) (it : NetItem) (L h : Nat) (stamp : BitVec 48) :
    ctxOf (takenBy s it L h stamp) h L = (ctxOf s h L).record stamp none := by
  unfold takenBy
  rw [ctxOf_of_harts (harts_accept _ _)]
  exact ctxOf_putCtx_same (ctxOf_launch s h L)

theorem slotOf_takenBy (s : State) (it : NetItem) (L h : Nat) (stamp : BitVec 48) (k n : Nat) :
    slotOf (takenBy s it L h stamp) k n = slotOf s k n := by
  unfold takenBy
  have same : slotOf (accept (putCtx s h ((ctxOf s h L).record stamp none)) it) k n =
      slotOf (putCtx s h ((ctxOf s h L).record stamp none)) k n := by simp only [slotOf, hartOf, harts_accept]
  exact same.trans ((slotsKept_putCtx _ _ _).2.2 k n)

/-! ## The ring (R49, R113) -/

/-- The ring entry that a spill makes of a message. -/
def spilledEntry (s : State) (h L : Nat) (cap : Capsule) (header : Word) (ws : List Word) (state : RingState) : RingEntry :=
  { header := header, payload := ws, state := state, released := false, age := s.nextId
    pos := freeEntry (ctxOf s h L) (ringEntries cap h) }

/-- The context with an entry behind those of its ring of n. -/
def Ctx.withEntry (c : Ctx) (e : RingEntry) (n : Nat) : Ctx := { c with ring := c.ring ++ [e], ringTail := (e.pos + 1) % n }

section Spill

variable {s : State} {h L : Nat} {cap : Capsule} (found : capOf s L = some cap)
include found

theorem spill_full (full : ringEntries cap h ≤ (ctxOf s h L).ring.length) (header : Word) (ws : List Word) (state : RingState) :
    spill s h L header ws state = none := by
  unfold spill
  simp only [found]
  exact if_pos full

/-- What a spill with room leaves (R49). -/
theorem spill_eq (room : (ctxOf s h L).ring.length < ringEntries cap h) (header : Word) (ws : List Word) (state : RingState) :
    spill s h L header ws state = some (modHome (putCtx { s with nextId := s.nextId + 1 } h
      ((ctxOf s h L).withEntry (spilledEntry s h L cap header ws state) (ringEntries cap h))) L h fun d =>
        d.write (ringBase (some cap) h + 64 * freeEntry (ctxOf s h L) (ringEntries cap h)) (entryBytes header ws)) := by
  unfold spill
  simp only [found]
  exact if_neg (Nat.not_le.mpr room)

/-- A spill with room puts an entry of the message behind those of the ring. -/
theorem spill_room (room : (ctxOf s h L).ring.length < ringEntries cap h) (header : Word) (ws : List Word) (state : RingState) :
    ∃ (u : State) (e : RingEntry), spill s h L header ws state = some u ∧ (ctxOf u h L).ring = (ctxOf s h L).ring ++ [e] ∧
      e.header = header ∧ e.payload = ws ∧ e.state = state ∧ e.released = false ∧ SlotsKept s u := by
  have numbered : SlotsKept s { s with nextId := s.nextId + 1 } := ⟨rfl, rfl, fun _ _ => rfl⟩
  refine ⟨_, spilledEntry s h L cap header ws state, spill_eq found room header ws state, ?_, rfl, rfl, rfl, rfl,
    (numbered.trans (slotsKept_putCtx _ h _)).trans (slotsKept_modHome _ L h _)⟩
  rw [ctxOf_modHome, ctxOf_putCtx_same]
  · rfl
  · exact ctxOf_launch s h L
  · exact fun _ => rfl

end Spill

theorem freeSlot_kept {s t : State} (kept : SlotsKept s t) (h : Nat) : freeSlot (hartOf t h) = freeSlot (hartOf s h) := by
  have same (n : Nat) : (hartOf t h).slot n = (hartOf s h).slot n := kept.2.2 h n
  simp only [freeSlot, same]

/-- Without a free slot nothing is selected (R112). -/
theorem select_none {s : State} {h : Nat} (none' : freeSlot (hartOf s h) = none) : select s h = s := by
  refine List.foldl_fixed' (fun _ => ?_) _
  unfold selectOne
  simp only [none']

/-! ## Taking a message (R109) -/

section Take

variable {s : State} {h L : Nat} {header : Word} {ws : List Word}

theorem takeMessage_det : takeMessage s h L true header ws = spill s h L header ws .parked := rfl

theorem takeMessage_starts (takes : takesSlot s h L (chanOf header) = true) :
    takeMessage s h L false header ws = some (startArrival s h L header ws) := if_pos takes

theorem takeMessage_waits (not' : takesSlot s h L (chanOf header) = false) :
    takeMessage s h L false header ws = (spill s h L header ws .ready).map fun t => select t h := by
  simp [takeMessage, not']

variable {cap : Capsule} (found : capOf s L = some cap) (plain : cap.pipe = false)
include found plain

theorem takeArrival_some {u : State} (taken : takeMessage s h L (isDet s L (chanOf header)) header ws = some u) :
    takeArrival s h L header ws = .done u := by
  unfold takeArrival
  simp [found, plain, taken]

theorem takeArrival_none (full : takeMessage s h L (isDet s L (chanOf header)) header ws = none) :
    takeArrival s h L header ws = .nacked 0 := by
  unfold takeArrival
  simp [found, plain, full]

/-- A message that starts nothing finds no room in a full ring. -/
theorem takeArrival_full (starts : (!isDet s L (chanOf header) && takesSlot s h L (chanOf header)) = false)
    (full : ringEntries cap h ≤ (ctxOf s h L).ring.length) : takeArrival s h L header ws = .nacked 0 := by
  refine takeArrival_none found plain ?_
  cases det : isDet s L (chanOf header) with
  | true => exact spill_full found full header ws .parked
  | false =>
    rw [takeMessage_waits (by simpa [det] using starts), spill_full found full]
    rfl

end Take

theorem takeMet_fresh {s : State} {it : NetItem} (fresh : metBefore s it = false) (h L : Nat) (header : Word) (ws : List Word) :
    takeMet s it h L header ws = takeArrival s h L header ws := if_neg (by simp [fresh])

/-- A handler record stands for an entry that is not refused (R174). -/
theorem handler_of_entry {s : State} {L len : Nat} {header : Word} (may : entryRefused s L header len = false) :
    ∃ l r, launchOf s L = some l ∧ l.handler (chanOf header) = some r := by
  unfold entryRefused at may
  cases record : (launchOf s L).bind fun l => l.handler (chanOf header) with
  | none => simp [record] at may
  | some r => exact ⟨_, r, Option.bind_eq_some_iff.mp record |>.choose_spec⟩

/-- An arrival that starts its activation does so as an entry of the ring would. -/
theorem startArrival_eq {s : State} {h L n : Nat} {header : Word} (ws : List Word) (free : freeSlot (hartOf s h) = some n) :
    ∃ v e, startArrival s h L header ws = startIn v h n L e ∧ e.header = header ∧ v.launches = s.launches := by
  unfold startArrival
  simp only [free]
  refine ⟨_, _, rfl, rfl, ?_⟩
  split <;> rfl

/-- The activation that a message starts stands in the free slot, with the header in a0 (R20, R109). -/
theorem slotOf_startArrival {s : State} {h L n len : Nat} {header : Word} (ws : List Word) (free : freeSlot (hartOf s h) = some n)
    (may : entryRefused s L header len = false) :
    (slotOf (startArrival s h L header ws) h n).running = true ∧ (slotOf (startArrival s h L header ws) h n).a[0] = header ∧
      (slotOf (startArrival s h L header ws) h n).ctx = L := by
  obtain ⟨l, r, placed, record⟩ := handler_of_entry may
  obtain ⟨v, e, started, header', launches⟩ := startArrival_eq (L := L) (header := header) ws free
  subst header'
  have placed' : launchOf v L = some l := by
    rw [← placed, launchOf, launchOf, launches]
  rw [started, slotOf_startIn placed' record]
  exact ⟨rfl, by simp [startSlot], rfl⟩

/-! ## Messages turned away for room (R187) -/

theorem maskHolds_clear {s : State} {it : NetItem} {h L : Nat} {header : Word}
    (out : (ctxOf s h L).masks.getLsbD (chanOf header) = false ∨ metBefore s it = true) : maskHolds s it h L header = false := by
  unfold maskHolds
  obtain clear | before := out
  · simp [clear]
  · cases met : it.met with
    | none => simp [metBefore, met] at before
    | some c =>
      have other : c ≠ s.cycle := by
        have less : c < s.cycle := by simpa [metBefore, met] using before
        omega
      simp [other]

theorem noRoom_held {s t : State} {it : NetItem} {h L : Nat} {header : Word} (held : maskHolds t it h L header = true) :
    noRoom s t it h L header 0 = meets s it := if_pos (by simp [held])

theorem noRoom_nacked {s t : State} {it : NetItem} {h L : Nat} {header : Word} (open' : maskHolds t it h L header = false)
    (sender : it.src.hart ≠ placer) : noRoom s t it h L header 0 = nack t it 0 noFault :=
  (if_neg (by simp [open'])).trans (if_neg sender)

/-! ## Active messages (R109, R174) -/

section Active

variable {s t : State} {it : NetItem} {h : Nat} {header : Word} {ws : List Word} (stays : turnedAway t it.src.launch h = .no)
include stays

theorem activeArrive_seen (seen : (ctxOf t h it.src.launch).seen (stampOf header) = true) :
    activeArrive s t it h header ws = accept t it := by
  unfold activeArrive
  simp only [stays]
  exact if_pos seen

variable (new : (ctxOf t h it.src.launch).seen (stampOf header) = false)
include new

theorem activeArrive_refused (refused : entryRefused t it.src.launch header ws.length = true) :
    activeArrive s t it h header ws = refusal t it codeReserved (0x300 + (header.extractLsb' 58 6).zeroExtend 12) := by
  have detail : BitVec.ofNat 12 (chanOf header) = (header.extractLsb' 58 6).zeroExtend 12 := BitVec.ofNat_toNat ..
  unfold activeArrive
  simp only [stays, new, refused, detail]
  rfl

variable (may : entryRefused t it.src.launch header ws.length = false)
include may

theorem activeArrive_done {u : State} (taken : takeMet t it h it.src.launch header ws = .done u) :
    activeArrive s t it h header ws = takenBy u it it.src.launch h (stampOf header) := by
  unfold activeArrive
  simp only [stays, new, may, taken]
  rfl

theorem activeArrive_noRoom (full : takeMet t it h it.src.launch header ws = .nacked 0) :
    activeArrive s t it h header ws = noRoom s t it h it.src.launch header 0 := by
  unfold activeArrive
  simp only [stays, new, may, full]
  rfl

end Active

/-! ## Data messages (R108) -/

section Data

variable {s t : State} {it : NetItem} {h : Nat} {header : Word} {ws : List Word} (stays : turnedAway t it.src.launch h = .no)
include stays

theorem dataArrive_seen (seen : (ctxOf t h it.src.launch).seen (stampOf header) = true) :
    dataArrive s t it h header ws = accept t it := by
  unfold dataArrive
  simp only [stays]
  exact if_pos seen

variable (new : (ctxOf t h it.src.launch).seen (stampOf header) = false)
include new

theorem dataArrive_refused {d : BitVec 12} (refused : dataRefused t it.src.launch h ws = some d) :
    dataArrive s t it h header ws = refusal t it codeBounds d := by
  unfold dataArrive
  simp only [stays, new, refused]
  rfl

theorem dataArrive_writes {w0 : Word} {rest : List Word} (some' : rest ≠ []) (fits : dataRefused t it.src.launch h (w0 :: rest) = none)
    (free : (ctxOf t h it.src.launch).writeRefused h (w0.extractLsb' 0 18).toNat (8 * rest.length) = none) (asleep : w0.getLsbD 18 = false) :
    dataArrive s t it h header (w0 :: rest) =
      takenBy (writeMessage t it.src.launch h (w0.extractLsb' 0 18).toNat rest) it it.src.launch h (stampOf header) := by
  have long : ¬ rest.length + 1 ≤ 1 := by simpa using some'
  have quiet : wakes (w0 :: rest) = false := asleep
  unfold dataArrive
  simp only [stays, new, fits, List.length_cons, if_neg long, Nat.add_sub_cancel, List.headD_cons, free, quiet]
  rfl

end Data

/-! ## Replies (R108) -/

section Reply

variable {s : State} {L h n num kind : Nat} {e : SbEntry} (found : namedEntry s L h n num kind = some e)
include found

theorem settleNamed_found (w : Word) : settleNamed s L h n num kind w =
    dropOut (settleSb s ⟨h, L, n, (slotOf s h n).act⟩ e.id w (entryOf w) 0) h e.id := by
  unfold settleNamed
  rw [found]

theorem runs_of_namedEntry : runs s ⟨h, L, n, (slotOf s h n).act⟩ = true := by
  unfold namedEntry at found
  dsimp only at found
  split at found
  case isTrue there => simpa [runs] using there
  case isFalse => cases found

theorem settleSb_named_unpaired (alone : (slotOf s h n).paired = false) (id : Nat) (w : Word) (x : QEntry) (flag : Word) :
    settleSb s ⟨h, L, n, (slotOf s h n).act⟩ id w x flag = putSlot s h n ((slotOf s h n).settle id w x flag) := by
  have note : notePair s ⟨h, L, n, (slotOf s h n).act⟩ id w x flag = s := if_neg (by simp [alone])
  unfold settleSb
  rw [if_pos (runs_of_namedEntry found), note]

end Reply

/-- Settles O29, by the kind of the message. -/
theorem messageArrivals : Obligations.MessageArrivals := by
  unfold Obligations.MessageArrivals
  intro s t k it h header ws arrives op hart sender L c
  refine ⟨fun stays seen => ⟨fun kind => ?_, fun kind => ?_⟩, fun stays new kind => ?active, fun w0 rest stays new kind eq => ?data,
    ?reply⟩
  · rw [exec_activeMessage arrives op hart kind, activeArrive_seen stays seen]
  · rw [exec_dataMessage arrives op hart kind, dataArrive_seen stays seen]
  case active =>
    rw [exec_activeMessage arrives op hart kind]
    refine ⟨fun refused => by rw [activeArrive_refused stays new refused], ?_⟩
    intro cap may found plain det starts
    have full (starts' : starts = false) (room : ringEntries cap h ≤ c.ring.length) :
        activeArrive s t it h header ws = noRoom s t it h L header 0 := by
      refine activeArrive_noRoom stays new may ?_
      unfold takeMet
      split
      · rfl
      · exact takeArrival_full found plain starts' room
    have done {u : State} (fresh : metBefore t it = false) (taken : takeMessage t h L det header ws = some u) :
        activeArrive s t it h header ws = takenBy u it L h (stampOf header) :=
      activeArrive_done stays new may ((takeMet_fresh fresh ..).trans (takeArrival_some found plain taken))
    refine ⟨fun starts' room open' => ?nacked, maskHolds_clear, fun starts' room held => ?met,
      fun det' room fresh none' => ?ready, fun starts' fresh n free => ?start, fun det' room fresh => ?parked⟩
    case nacked => rw [full starts' room, noRoom_nacked open' sender]
    case met => rw [full starts' room, noRoom_held held]
    case ready =>
      obtain ⟨u, e, spilled, ring, header', payload, state, _, kept⟩ := spill_room found room header ws .ready
      have quiet : takesSlot t h L (chanOf header) = false := by simp [takesSlot, none']
      have taken : takeMessage t h L det header ws = some u := by
        rw [det', takeMessage_waits quiet, spilled]
        exact congrArg some (select_none ((freeSlot_kept kept h).trans none'))
      refine ⟨_, e, congrArg _ (done fresh taken), ?_, header', payload, state, ?_⟩
      · rw [ctxOf_takenBy]
        exact ring
      · rw [ctxOf_takenBy]
        exact Ctx.seen_record ..
    case start =>
      obtain ⟨det', takes⟩ : det = false ∧ takesSlot t h L (chanOf header) = true := by
        simpa [starts, chanOf] using starts'
      have taken : takeMessage t h L det header ws = some (startArrival t h L header ws) := by
        rw [det', takeMessage_starts takes]
      obtain ⟨running, a0, ctx⟩ := slotOf_startArrival ws free may
      refine ⟨_, congrArg _ (done fresh taken), ?_, ?_, ?_, ?_⟩
      · rw [slotOf_takenBy]
        exact running
      · rw [slotOf_takenBy]
        exact a0
      · rw [slotOf_takenBy]
        exact ctx
      · rw [ctxOf_takenBy]
        exact Ctx.seen_record ..
    case parked =>
      obtain ⟨u, e, spilled, ring, header', payload, state, released, _⟩ := spill_room found room header ws .parked
      have taken : takeMessage t h L det header ws = some u := by
        rw [det', takeMessage_det, spilled]
      refine ⟨_, e, congrArg _ (done fresh taken), ?_, header', payload, state, released⟩
      rw [ctxOf_takenBy]
      exact ring
  case data =>
    subst eq
    rw [exec_dataMessage arrives op hart kind]
    exact ⟨fun d refused => by rw [dataArrive_refused stays new refused],
      fun fits some' free asleep => by rw [dataArrive_writes stays new some' fits free asleep]; rfl⟩
  case reply =>
    intro e kind n found
    rw [exec_replyMessage arrives op hart kind, settleNamed_found found]
    exact ⟨fun alone => by rw [settleSb_named_unpaired found alone], fun _ => rfl⟩

end Sys2Proof.Machine
end

section
/-! SUPPORT. sys.resume: what its operands say, what settles one scoreboard entry, and the end of a trap (spec/06 R101, R106, spec/18 R307,
R308). -/

namespace Sys2Proof.Machine

open Sys2Proof.Claims

/-! ## What reading leaves of the queues (R104) -/

/-- A read lengthens no queue. -/
theorem length_readA {x : ASrc} {s t : State} {w : Word} (e : readA x s = .ok (w, t)) :
    (∀ q : Fin 2, (curSlot t).sq[q].length ≤ (curSlot s).sq[q].length) ∧ (curSlot t).cq.length ≤ (curSlot s).cq.length := by
  cases x with
  | a n =>
    obtain ⟨_, _, rfl⟩ := readA_a_inv e
    exact ⟨fun _ => Nat.le_refl _, Nat.le_refl _⟩
  | sq q =>
    obtain ⟨y, ys, front, _, rfl⟩ := readA_sq_inv e
    rw [curSlot_putCur]
    refine ⟨fun r => ?_, Nat.le_refl _⟩
    by_cases same : q = r
    · subst same
      simp [front]
    · have other : q.val ≠ r.val := fun h => same (Fin.ext h)
      simp [other]
  | cq =>
    obtain ⟨ws, front, rfl⟩ := readA_cq_inv e
    rw [curSlot_putCur]
    exact ⟨fun _ => Nat.le_refl _, by simp [front]⟩
  | sm n =>
    obtain ⟨r, u, _, rfl⟩ := readStream_ok (n := n) e
    rw [curSlot_putCur]
    exact ⟨fun _ => Nat.le_refl _, Nat.le_refl _⟩
  | z =>
    obtain ⟨_, rfl⟩ := readA_z_inv e
    exact ⟨fun _ => Nat.le_refl _, Nat.le_refl _⟩

theorem Slot.heldFull_none {σ : Slot} {d : HeldDst} (sq : ∀ q, d = .sq q → σ.sq[q].length < 16) (cq : d = .cq → σ.cq.length < 8) :
    σ.heldFull d = none := by
  cases d with
  | sq q => exact if_neg (Nat.not_le.mpr (sq q rfl))
  | cq => exact if_neg (Nat.not_le.mpr (cq rfl))
  | v | e | p | z => rfl

/-! ## The operands (R307) -/

section Operands

variable {x y : ASrc} {s s1 s2 : State} {w v : Word} (ex : readA x s = .ok (w, s1)) (ey : readA y s1 = .ok (v, s2))
include ex ey

theorem read_operands : Read s s2 := (Read.of_readA ex).trans (.of_readA ey)

theorem resumeWord_outside (outside : (curSlot s).inTrap = false) :
    resumeWord x y s = .error (.trap ⟨codeQueueMisuse, 0x050, 0⟩ none) := by
  have outside' : (!(curSlot s2).inTrap) = true := by rw [(read_operands ex ey).inTrap, outside]; rfl
  unfold resumeWord
  rw [bind_ok ex, bind_ok ey, getSlot_bind]
  exact stopIf_bind_stop outside' rfl _

variable (trap : (curSlot s).inTrap = true)
include trap

theorem resumeWord_reserved (bad : w.toNat / 2 ^ 8 ≠ 0 ∨ w.extractLsb' 2 2 ≠ 0) :
    resumeWord x y s = .error (.trap ⟨codeReserved, 0x0f2, 0⟩ none) := by
  have inside : (curSlot s2).inTrap = true := (read_operands ex ey).inTrap.trans trap
  unfold resumeWord
  rw [bind_ok ex, bind_ok ey, getSlot_bind, stopIf_bind (by simp [inside])]
  exact stopIf_bind_stop bad rfl _

theorem resumeWord_ok (high : w.toNat / 2 ^ 8 = 0) (low : w.extractLsb' 2 2 = 0) :
    resumeWord x y s = .ok ((Fin.ofNat 16 (w.toNat / 16), v), s2) := by
  have inside : (curSlot s2).inTrap = true := (read_operands ex ey).inTrap.trans trap
  unfold resumeWord
  rw [bind_ok ex, bind_ok ey, getSlot_bind, stopIf_bind (by simp [inside]), stopIf_bind (by tauto)]
  rfl

end Operands

/-! ## Settling one entry of tsb (R308) -/

/-- The state in which tsb entry k is settled by an action on its live entry. -/
def settledTsb (k : Fin 16) (act : State → Issuer → SbEntry → State) (s : State) : State :=
  let t := ((curSlot s).liveTsb k).elim s (act s (curIssuer s))
  if (curSlot s).tsb[k].getLsbD 63 then putCur t { curSlot t with tsb := (curSlot t).tsb.set k 0 } else t

theorem settleTsb_eq (k : Fin 16) (act : State → Issuer → SbEntry → State) (s : State) :
    settleTsb k act s = .ok ((), settledTsb k act s) := by
  unfold settleTsb settledTsb
  rw [getSlot_bind]
  cases (curSlot s).liveTsb k <;> split <;> rfl

section Tsb

variable {s : State} {k : Fin 16} (act : State → Issuer → SbEntry → State)

theorem liveTsb_invalid {σ : Slot} (invalid : σ.tsb[k].getLsbD 63 = false) : σ.liveTsb k = none := if_neg (by rw [invalid]; decide)

theorem liveTsb_valid {σ : Slot} {id : Nat} (valid : σ.tsb[k].getLsbD 63 = true) (numbered : σ.tsbIds[k.val]? = some id) :
    σ.liveTsb k = σ.sb.find? fun e => e.id == id := by
  unfold Slot.liveTsb
  rw [if_pos valid, numbered]
  rfl

theorem mem_of_liveTsb {σ : Slot} {e : SbEntry} (live : σ.liveTsb k = some e) : e ∈ σ.sb := by
  unfold Slot.liveTsb at live
  split at live
  · obtain ⟨id, _, found⟩ := Option.bind_eq_some_iff.mp live
    exact List.mem_of_find?_eq_some found
  · cases live

/-- An entry with V = 0 changes nothing. -/
theorem settledTsb_invalid (invalid : (curSlot s).tsb[k].getLsbD 63 = false) : settledTsb k act s = s := by
  unfold settledTsb
  rw [liveTsb_invalid invalid]
  exact if_neg (by rw [invalid]; decide)

theorem settledTsb_live {e : SbEntry} (valid : (curSlot s).tsb[k].getLsbD 63 = true) (live : (curSlot s).liveTsb k = some e) :
    settledTsb k act s = putCur (act s (curIssuer s) e) { curSlot (act s (curIssuer s) e) with
      tsb := (curSlot (act s (curIssuer s) e)).tsb.set k 0 } := by
  unfold settledTsb
  rw [live]
  exact if_pos valid

end Tsb

/-! ## What the three actions leave (R308) -/

/-- The current slot is in its trap, or not, as before, with the same tsb. -/
structure TrapKept (s t : State) : Prop where
  cur : t.cur = s.cur
  inTrap : (curSlot t).inTrap = (curSlot s).inTrap
  tsb : (curSlot t).tsb = (curSlot s).tsb

/-- The current slot differs in its scoreboard and in its load queues alone. -/
structure EntriesOnly (s t : State) : Prop where
  cur : t.cur = s.cur
  launches : t.launches = s.launches
  slot : curSlot t = { curSlot s with sb := (curSlot t).sb, lq := (curSlot t).lq }

namespace EntriesOnly

variable {s t u : State}

theorem of_slotsKept (a : SlotsKept s t) : EntriesOnly s t := ⟨a.1, a.2.1, by rw [a.curSlot]⟩
theorem refl (s : State) : EntriesOnly s s := of_slotsKept (.refl s)
theorem of_issues {n : Nat} (a : Issues n s t) : EntriesOnly s t := ⟨a.cur, by rw [a.rest], a.slot⟩

theorem trans (a : EntriesOnly s t) (b : EntriesOnly t u) : EntriesOnly s u :=
  ⟨b.cur.trans a.cur, b.launches.trans a.launches, by rw [b.slot, a.slot]⟩

theorem of_putCur {σ : Slot} (e : σ = { curSlot s with sb := σ.sb, lq := σ.lq }) : EntriesOnly s (putCur s σ) :=
  ⟨rfl, rfl, by rw [curSlot_putCur, ← e]⟩

theorem trapKept (a : EntriesOnly s t) : TrapKept s t := ⟨a.cur, by rw [a.slot], by rw [a.slot]⟩
theorem a (o : EntriesOnly s t) : (curSlot t).a = (curSlot s).a := by rw [o.slot]

end EntriesOnly

theorem reissue_entriesOnly (s : State) (it : NetItem) (o : OutOp) : EntriesOnly s (reissue s it o) := by
  unfold reissue
  extract_lets h es prior u H t
  obtain ⟨pushed, _⟩ := releasePush_issues it.src.launch h o.desc s
  obtain ⟨flushed, _⟩ := flushIds_issues it.src.launch h prior (releasePush it.src.launch h o.desc s)
  have noted : SlotsKept u t := slotsKept_putHart _ _ _ rfl
  have sent (its : List NetItem) : SlotsKept t { t with net := its } := ⟨rfl, rfl, fun _ _ => rfl⟩
  exact ((EntriesOnly.of_issues pushed).trans (.of_issues flushed)).trans (.of_slotsKept (noted.trans (sent _)))

theorem slotsKept_dropCopy (s : State) (h id : Nat) : SlotsKept s (dropCopy s h id) := slotsKept_putHart _ _ _ rfl
theorem slotsKept_dropOut (s : State) (h id : Nat) : SlotsKept s (dropOut s h id) := slotsKept_putHart _ _ _ rfl
theorem slotsKept_dropGone (s : State) (h L n num kind : Nat) : SlotsKept s (dropGone s h L n num kind) := slotsKept_putHart _ _ _ rfl

theorem slotsKept_addGone (s : State) (src : Issuer) (e : SbEntry) : SlotsKept s (addGone s src e) := by
  unfold addGone
  split
  · extract_lets H again
    split
    · exact .refl s
    · exact slotsKept_putHart _ _ _ rfl
  · exact .refl s

theorem slotsKept_giveUp (s : State) (src : Issuer) (e : SbEntry) : SlotsKept s (giveUp s src e) := by
  unfold giveUp
  split
  · split
    · split
      · exact slotsKept_dropGone ..
      · exact .refl s
    · exact .refl s
  · exact .refl s

theorem mapSb_curIssuer (s : State) (f : SbEntry → SbEntry) :
    mapSb s (curIssuer s) f = putCur s { curSlot s with sb := (curSlot s).sb.map f } := rfl

/-- A held pop that is delivered again from byte 0. -/
theorem redoEntry_pop {s : State} {e : SbEntry} (pop : e.kind = 1) : redoEntry s (curIssuer s) e =
    putCur s { curSlot s with sb := (curSlot s).sb.map fun z => if z.id = e.id then
      { z with held := z.held.map fun q => { q with armed := true, delivered := 0 } } else z } := by
  unfold redoEntry
  rw [if_pos pop, mapSb_curIssuer]
  simp only [beq_iff_eq]

/-- An operation in flight goes on. -/
theorem redoEntry_flying {e : SbEntry} (other : e.kind ≠ 1) (flying : e.refused = false) (s : State) (src : Issuer) :
    redoEntry s src e = s := by
  unfold redoEntry
  rw [if_neg other]
  simp only [flying]

theorem redoEntry_entriesOnly (s : State) (e : SbEntry) : EntriesOnly s (redoEntry s (curIssuer s) e) := by
  by_cases pop : e.kind = 1
  · rw [redoEntry_pop pop]
    exact .of_putCur rfl
  unfold redoEntry
  rw [if_neg pop]
  split
  case h_1 it o _ _ _ =>
    extract_lets t u
    have marked : EntriesOnly s t := .of_putCur rfl
    have again : EntriesOnly s u := (marked.trans (.of_slotsKept (slotsKept_dropCopy _ _ _))).trans (reissue_entriesOnly _ it o)
    have copied : EntriesOnly s (keepCopy u it) := again.trans (.of_slotsKept (slotsKept_keepCopy u it))
    split
    case h_7 => exact copied
    all_goals exact again
  case h_2 => exact .refl s

/-- The slot without an entry that is given up: its reservations go with it. -/
def Slot.without (σ : Slot) (id : Nat) : Slot := (σ.unreserve id).dropEntry id

/-- What a discard leaves besides the slot's own entry and reservations. -/
theorem slotsKept_discardEntry (s : State) (e : SbEntry) :
    SlotsKept (putCur s ((curSlot s).without e.id)) (discardEntry s (curIssuer s) e) := by
  have gone : SlotsKept (putCur s ((curSlot s).without e.id)) (addGone (putCur s ((curSlot s).without e.id)) (curIssuer s) e) :=
    slotsKept_addGone _ _ _
  unfold discardEntry
  extract_lets σ t
  split
  · exact ((gone.trans (slotsKept_dropCopy t _ _)).trans (slotsKept_dropOut _ _ _)).trans (slotsKept_giveUp _ _ _)
  · split
    · exact gone.trans (slotsKept_dropOut t _ _)
    · exact gone

theorem discardEntry_entriesOnly (s : State) (e : SbEntry) : EntriesOnly s (discardEntry s (curIssuer s) e) :=
  (EntriesOnly.of_putCur rfl).trans (.of_slotsKept (slotsKept_discardEntry s e))

/-- An entry that no message names and no send stands behind is dropped with its reservations alone. -/
theorem discardEntry_plain {e : SbEntry} (unnamed : e.num = none) (kind : e.kind = 1) (s : State) :
    discardEntry s (curIssuer s) e = putCur s ((curSlot s).without e.id) := by
  unfold discardEntry addGone
  simp only [unnamed, kind]
  rfl

theorem Slot.putHeld_trap (σ : Slot) (d : HeldDst) (v : Word) : (σ.putHeld d v).inTrap = σ.inTrap ∧ (σ.putHeld d v).tsb = σ.tsb := by
  cases d with
  | p n =>
    unfold Slot.putHeld Slot.setPred
    dsimp only
    split <;> exact ⟨rfl, rfl⟩
  | v | e | sq | cq | z => exact ⟨rfl, rfl⟩

/-- The slot with the destination of a pending entry written. -/
def Slot.delivered (σ : Slot) (e : SbEntry) (v : Word) : Slot := e.dst.elim σ fun d => σ.deliver e.id d v (entryOf v)

theorem Slot.delivered_trap (σ : Slot) (e : SbEntry) (v : Word) :
    (σ.delivered e v).inTrap = σ.inTrap ∧ (σ.delivered e v).tsb = σ.tsb := by
  unfold Slot.delivered
  cases e.dst with
  | none => exact ⟨rfl, rfl⟩
  | some d => cases d <;> exact ⟨rfl, rfl⟩

theorem completeEntry_held {e : SbEntry} {p : HeldPop} (held : e.held = some p) (s : State) (v : Word) :
    completeEntry s (curIssuer s) e v = putCur s (((curSlot s).putHeld p.dest v).dropEntry e.id) := by
  unfold completeEntry
  rw [held]
  rfl

/-- What completing a pending entry leaves besides its destination, its entry and its reservations. -/
theorem slotsKept_completeEntry {e : SbEntry} (none' : e.held = none) (value : ¬ (e.kind = 3 ∨ e.kind = 6)) (s : State) (v : Word) :
    SlotsKept (putCur s (((curSlot s).delivered e v).without e.id)) (completeEntry s (curIssuer s) e v) := by
  have gone (t : State) : SlotsKept t (addGone t (curIssuer s) e) := slotsKept_addGone _ _ _
  have both (σ : Slot) : SlotsKept (putCur s (σ.without e.id))
      (if e.kind = 4 then dropOut (addGone (putCur s (σ.without e.id)) (curIssuer s) e) (curIssuer s).hart e.id
      else addGone (putCur s (σ.without e.id)) (curIssuer s) e) := by
    split
    · exact (gone _).trans (slotsKept_dropOut _ _ _)
    · exact gone _
  unfold completeEntry Slot.delivered
  simp only [none', if_neg value]
  cases e.dst with
  | none => exact both (curSlot s)
  | some d => exact both ((curSlot s).deliver e.id d v (entryOf v))

theorem SlotsKept.trapKept {s t : State} (a : SlotsKept s t) : TrapKept s t := (EntriesOnly.of_slotsKept a).trapKept

theorem TrapKept.trans {s t u : State} (a : TrapKept s t) (b : TrapKept t u) : TrapKept s u :=
  ⟨b.cur.trans a.cur, b.inTrap.trans a.inTrap, b.tsb.trans a.tsb⟩

theorem TrapKept.of_putCur {s : State} {σ : Slot} (same : σ.inTrap = (curSlot s).inTrap ∧ σ.tsb = (curSlot s).tsb) :
    TrapKept s (putCur s σ) := ⟨rfl, by rw [curSlot_putCur, same.1], by rw [curSlot_putCur, same.2]⟩

theorem completeEntry_trapKept (s : State) (e : SbEntry) (v : Word) : TrapKept s (completeEntry s (curIssuer s) e v) := by
  cases held : e.held with
  | some p =>
    rw [completeEntry_held held]
    exact .of_putCur (Slot.putHeld_trap _ _ _)
  | none =>
    by_cases send : e.kind = 3 ∨ e.kind = 6
    · have same : completeEntry s (curIssuer s) e v = discardEntry s (curIssuer s) e := by
        unfold completeEntry
        simp only [held, if_pos send]
      rw [same]
      exact (discardEntry_entriesOnly s e).trapKept
    · exact (TrapKept.of_putCur (σ := ((curSlot s).delivered e v).without e.id) (Slot.delivered_trap _ e v)).trans
        (slotsKept_completeEntry held send s v).trapKept

/-- An action that keeps the trap and its tsb settles its entry and no other. -/
theorem settledTsb_trap {act : State → Issuer → SbEntry → State} {s : State} (keeps : ∀ e, TrapKept s (act s (curIssuer s) e))
    (k : Fin 16) :
    (curSlot (settledTsb k act s)).inTrap = (curSlot s).inTrap ∧
      (curSlot (settledTsb k act s)).tsb = if (curSlot s).tsb[k].getLsbD 63 then (curSlot s).tsb.set k 0 else (curSlot s).tsb := by
  cases valid : (curSlot s).tsb[k].getLsbD 63 with
  | false =>
    rw [settledTsb_invalid act valid]
    exact ⟨rfl, rfl⟩
  | true =>
    have kept : TrapKept s (((curSlot s).liveTsb k).elim s (act s (curIssuer s))) := by
      cases (curSlot s).liveTsb k with
      | none => exact ⟨rfl, rfl, rfl⟩
      | some e => exact keeps e
    unfold settledTsb
    simp only [valid, if_true, curSlot_putCur]
    exact ⟨kept.inTrap, by rw [kept.tsb]⟩

/-- The current slot differs in its scoreboard, its load queues and its tsb alone. -/
structure EntriesSettled (s t : State) : Prop where
  cur : t.cur = s.cur
  launches : t.launches = s.launches
  slot : curSlot t = { curSlot s with sb := (curSlot t).sb, lq := (curSlot t).lq, tsb := (curSlot t).tsb }

theorem EntriesSettled.trans {s t u : State} (a : EntriesSettled s t) (b : EntriesSettled t u) : EntriesSettled s u :=
  ⟨b.cur.trans a.cur, b.launches.trans a.launches, by rw [b.slot, a.slot]⟩

theorem settledTsb_settles {act : State → Issuer → SbEntry → State} {s : State} (keeps : ∀ e, EntriesOnly s (act s (curIssuer s) e))
    (k : Fin 16) : EntriesSettled s (settledTsb k act s) := by
  have kept : EntriesOnly s (((curSlot s).liveTsb k).elim s (act s (curIssuer s))) := by
    cases (curSlot s).liveTsb k with
    | none => exact .refl s
    | some e => exact keeps e
  unfold settledTsb
  extract_lets t
  have slot : curSlot t = { curSlot s with sb := (curSlot t).sb, lq := (curSlot t).lq } := kept.slot
  split
  · refine ⟨kept.cur, kept.launches, ?_⟩
    rw [curSlot_putCur]
    exact congrArg (fun σ : Slot => { σ with tsb := (curSlot t).tsb.set k 0 }) slot
  · exact ⟨kept.cur, kept.launches, congrArg (fun σ : Slot => { σ with tsb := (curSlot t).tsb }) slot⟩

/-! ## sys.resume with ACT 1, 2 and 3 (R308) -/

section Words

variable {x y : ASrc} {s s1 s2 : State} {w v : Word} {k : Fin 16} (ready : AReady s) (ex : readA x s = .ok (w, s1))
  (ey : readA y s1 = .ok (v, s2)) (trap : (curSlot s).inTrap = true) (high : w.toNat / 2 ^ 8 = 0) (low : w.extractLsb' 2 2 = 0)
  (named : k = Fin.ofNat 16 (w.toNat / 16))
include ready ex ey trap high low named

theorem exec_sysResumeRedo : exec (.sysResumeRedo x y) s = .next (endA false (settledTsb k redoEntry s2)) := by
  subst named
  exact plainA_ok ready ((bind_ok (resumeWord_ok ex ey trap high low)).trans (settleTsb_eq _ _ _))

theorem exec_sysResumeDiscard : exec (.sysResumeDiscard x y) s = .next (endA false (settledTsb k discardEntry s2)) := by
  subst named
  exact plainA_ok ready ((bind_ok (resumeWord_ok ex ey trap high low)).trans (settleTsb_eq _ _ _))

/-- Complete goes on where no queue that takes the value is full (R101). -/
theorem exec_sysResumeComplete
    (room : ∀ e, (curSlot s2).liveTsb k = some e → ∀ p, e.held = some p → (curSlot s2).heldFull p.dest = none) :
    exec (.sysResumeComplete x y) s = .next (endA false (settledTsb k (fun t src e => completeEntry t src e v) s2)) := by
  have open' : (((curSlot s2).liveTsb k).bind (·.held)).bind (fun p => (curSlot s2).heldFull p.dest) = none := by
    cases live : (curSlot s2).liveTsb k with
    | none => rfl
    | some e =>
      cases held : e.held with
      | none => simp [held]
      | some p => simpa [held] using room e live p held
  subst named
  refine plainA_ok ready ((bind_ok (resumeWord_ok ex ey trap high low)).trans ?_)
  rw [getSlot_bind, open']
  exact (bind_ok rfl).trans (settleTsb_eq _ _ _)

end Words

/-- An action that keeps the trap settles its entry. -/
theorem settles_of {i : Instr} {act : State → Issuer → SbEntry → State} {s s2 : State} {k : Fin 16} (r : Read s s2)
    (trap : (curSlot s).inTrap = true) (keeps : ∀ e, TrapKept s2 (act s2 (curIssuer s2) e))
    (run : exec i s = .next (endA false (settledTsb k act s2))) : Settles i s k := by
  obtain ⟨inTrap, tsb⟩ := settledTsb_trap keeps k
  have same : (curSlot s2).tsb = (curSlot s).tsb := by rw [r.slot]
  rw [same] at tsb
  exact ⟨_, run, inTrap.trans (r.inTrap.trans trap), tsb⟩

theorem a_endA (t : State) : (curSlot (endA false t)).a = (curSlot t).a := by
  rw [(endA_retires t).slot]
  rfl

theorem sb_endA (t : State) : (curSlot (endA false t)).sb = (curSlot t).sb := by
  rw [(endA_retires t).slot]
  rfl

/-- Actions that write no register leave the registers to the next word. -/
theorem a_of_entriesOnly {i : Instr} {act : State → Issuer → SbEntry → State} {s s2 t : State} {k : Fin 16} (r : Read s s2)
    (keeps : ∀ e, EntriesOnly s2 (act s2 (curIssuer s2) e)) (run : exec i s = .next (endA false (settledTsb k act s2)))
    (next : exec i s = .next t) : (curSlot t).a = (curSlot s).a := by
  obtain rfl : endA false (settledTsb k act s2) = t := by simpa [run] using next
  rw [a_endA, (settledTsb_settles keeps k).slot]
  show (curSlot s2).a = (curSlot s).a
  rw [r.slot]

/-! ### The live entry (R308) -/

section Live

variable {s : State} {k : Fin 16} {e : SbEntry} (valid : (curSlot s).tsb[k].getLsbD 63 = true) (live : (curSlot s).liveTsb k = some e)
include valid live

/-- An action that changes the current slot alone settles its entry there. -/
theorem settledTsb_putCur {act : State → Issuer → SbEntry → State} {σ : Slot} (acts : act s (curIssuer s) e = putCur s σ) :
    settledTsb k act s = putCur s { σ with tsb := σ.tsb.set k 0 } := by
  rw [settledTsb_live act valid live, acts, putCur_putCur, curSlot_putCur]

theorem settledTsb_redo_pop (pop : e.kind = 1) : settledTsb k redoEntry s = putCur s { curSlot s with
    sb := (curSlot s).sb.map fun z => if z.id = e.id then
      { z with held := z.held.map fun q => { q with armed := true, delivered := 0 } } else z
    tsb := (curSlot s).tsb.set k 0 } := settledTsb_putCur valid live (redoEntry_pop pop)

theorem settledTsb_redo_flying (other : e.kind ≠ 1) (flying : e.refused = false) :
    settledTsb k redoEntry s = putCur s { curSlot s with tsb := (curSlot s).tsb.set k 0 } := by
  rw [settledTsb_live redoEntry valid live, redoEntry_flying other flying]

theorem settledTsb_discard_plain (unnamed : e.num = none) (kind : e.kind = 1) : settledTsb k discardEntry s =
    putCur s { (curSlot s).without e.id with tsb := (curSlot s).tsb.set k 0 } :=
  settledTsb_putCur valid live (discardEntry_plain unnamed kind s)

theorem settledTsb_complete_held {p : HeldPop} (held : e.held = some p) (v : Word) :
    settledTsb k (fun t src e => completeEntry t src e v) s =
      putCur s { ((curSlot s).putHeld p.dest v).dropEntry e.id with tsb := ((curSlot s).putHeld p.dest v).tsb.set k 0 } :=
  settledTsb_putCur valid live (completeEntry_held held s v)

/-- An action whose slot is known leaves that slot, but for tsb. -/
theorem curSlot_settledTsb {act : State → Issuer → SbEntry → State} {σ : Slot} (acts : SlotsKept (putCur s σ) (act s (curIssuer s) e)) :
    curSlot (settledTsb k act s) = { σ with tsb := σ.tsb.set k 0 } := by
  have slot : curSlot (act s (curIssuer s) e) = σ := acts.curSlot.trans (curSlot_putCur s σ)
  rw [settledTsb_live act valid live, curSlot_putCur, slot]

end Live

theorem Slot.mem_without {σ : Slot} {id : Nat} {z : SbEntry} (m : z ∈ (σ.without id).sb) : z.id ≠ id := by
  have filtered : z ∈ σ.sb.filter fun x => x.id != id := m
  simpa using (List.mem_filter.mp filtered).2

/-! ## sys.resume with ACT 0 (R106, R307) -/

/-- Redoing entries leaves all but the scoreboard, the load queues and tsb. -/
theorem redoAll_ok (ks : List (Fin 16)) (s : State) : ∃ t, redoAll ks s = .ok ((), t) ∧ EntriesSettled s t := by
  induction ks generalizing s with
  | nil => exact ⟨s, rfl, rfl, rfl, rfl⟩
  | cons k ks ih =>
    obtain ⟨t, rest, settled⟩ := ih (settledTsb k redoEntry s)
    exact ⟨t, (bind_ok (settleTsb_eq k redoEntry s)).trans rest, (settledTsb_settles (redoEntry_entriesOnly s) k).trans settled⟩

/-- With nothing to redo nothing changes. -/
theorem redoAll_invalid {s : State} (invalid : ∀ k : Fin 16, (curSlot s).tsb[k].getLsbD 63 = false) (ks : List (Fin 16)) :
    redoAll ks s = .ok ((), s) := by
  induction ks with
  | nil => rfl
  | cons k ks ih =>
    have first : settleTsb k redoEntry s = .ok ((), s) := by rw [settleTsb_eq, settledTsb_invalid _ (invalid k)]
    exact (bind_ok first).trans ih

theorem Slot.leaveTrap_keeps (σ : Slot) :
    σ.leaveTrap.inTrap = false ∧ σ.leaveTrap.tsb = Vector.replicate 16 0 ∧ σ.leaveTrap.a = σ.a ∧ σ.leaveTrap.ctx = σ.ctx := by
  unfold Slot.leaveTrap
  dsimp only
  split
  · exact ⟨rfl, rfl, rfl, rfl⟩
  · split <;> exact ⟨rfl, rfl, rfl, rfl⟩

theorem Slot.leaveTrap_pc {σ : Slot} (whole : σ.slip = none) : σ.leaveTrap.pc = σ.tpc.toNat := by
  unfold Slot.leaveTrap
  rw [whole]

theorem Slot.leaveTrap_call {σ : Slot} {c : CallRecord} (call : σ.call = some c) : σ.leaveTrap.rs = c.rs ∧ σ.leaveTrap.swp = c.swp := by
  unfold Slot.leaveTrap
  rw [call]
  dsimp only
  split
  · exact ⟨rfl, rfl⟩
  · split <;> exact ⟨rfl, rfl⟩

/-- The state that the trap of the current slot is left for (R307). -/
def trapLeft (t : State) : State := countBundle (curHart t) (curNum t) false (putCur t (curSlot t).leaveTrap)

theorem curSlot_trapLeft (t : State) : curSlot (trapLeft t) = (curSlot t).leaveTrap :=
  (countBundle_issues _ _ _ _).2.trans (curSlot_putCur _ _)

theorem codeLen_trapLeft (t : State) : codeLen (trapLeft t) (curLaunch (trapLeft t)) = codeLen t (curLaunch t) := by
  have launches : (trapLeft t).launches = t.launches :=
    (congrArg State.launches (countBundle_issues (curHart t) (curNum t) false (putCur t (curSlot t).leaveTrap)).1.rest).trans rfl
  have launch : curLaunch (trapLeft t) = curLaunch t := by
    rw [curLaunch, curSlot_trapLeft, (curSlot t).leaveTrap_keeps.2.2.2]
    rfl
  simp only [codeLen, launchOf, launches, launch]

/-- The E-side has retired the handler's words. -/
theorem Read.reached {s t : State} (r : Read s t) (path : (curSlot s).path = []) (eDone : (curSlot s).eDone = true) :
    ¬ (!((curSlot t).path.isEmpty && (curSlot t).eDone)) = true := by
  rw [r.slot]
  simp [path, eDone]

section Return

variable {x y : ASrc} {s s1 s2 : State} {w v : Word} (ex : readA x s = .ok (w, s1)) (ey : readA y s1 = .ok (v, s2))
  (trap : (curSlot s).inTrap = true) (high : w.toNat / 2 ^ 8 = 0) (low : w.extractLsb' 2 2 = 0)
include ex ey trap high low

theorem returnOp_early (early : (curSlot s).path ≠ [] ∨ (curSlot s).eDone = false) : returnOp x y s = .error (.wait .eSide none) := by
  have r := read_operands ex ey
  have path : (curSlot s2).path = (curSlot s).path := by rw [r.slot]
  have eDone : (curSlot s2).eDone = (curSlot s).eDone := by rw [r.slot]
  unfold returnOp
  rw [bind_ok (resumeWord_ok ex ey trap high low), getSlot_bind]
  refine stopIf_bind_stop ?_ rfl _
  rw [path, eDone]
  obtain path | eDone := early
  · simp [path]
  · simp [eDone]

variable (path : (curSlot s).path = []) (eDone : (curSlot s).eDone = true)
include path eDone

theorem returnOp_full (full : 64 ≤ (curSlot s).bq.length) : returnOp x y s = .error (.wait .branchFull none) := by
  have bq : (curSlot s2).bq = (curSlot s).bq := by rw [(read_operands ex ey).slot]
  unfold returnOp
  rw [bind_ok (resumeWord_ok ex ey trap high low), getSlot_bind, stopIf_bind ((read_operands ex ey).reached path eDone)]
  exact stopIf_bind_stop (bq ▸ full) rfl _

/-- The trap is left once its entries are redone. -/
theorem returnOp_leaves {t : State} (room : (curSlot s).bq.length < 64) (inside : (curSlot s).tpc.toNat < codeLen s (curLaunch s))
    (redone : redoAll [0, 1, 2, 3, 4, 5, 6, 7, 8, 9, 10, 11, 12, 13, 14, 15] s2 = .ok ((), t)) (settled : EntriesSettled s2 t) :
    returnOp x y s = .ok (.stay, trapLeft t) := by
  have r := read_operands ex ey
  have bq : (curSlot s2).bq = (curSlot s).bq := by rw [r.slot]
  have tpc : (curSlot s2).tpc = (curSlot s).tpc := by rw [r.slot]
  have window : codeLen (trapLeft t) (curLaunch (trapLeft t)) = codeLen s (curLaunch s) := by
    have launch : curLaunch t = curLaunch s := by rw [curLaunch, settled.slot, ← r.curLaunch, curLaunch]
    rw [codeLen_trapLeft, launch, ← r.only.codeLen, codeLen, codeLen, launchOf, launchOf, settled.launches]
  unfold returnOp
  rw [bind_ok (resumeWord_ok ex ey trap high low), getSlot_bind, stopIf_bind ((read_operands ex ey).reached path eDone),
    stopIf_bind (by rw [bq]; omega), bind_ok redone, bind_ok rfl, modState_bind, get_bind]
  have left : countBundle (curHart (putCur t (curSlot t).leaveTrap)) (curNum (putCur t (curSlot t).leaveTrap)) false
      (putCur t (curSlot t).leaveTrap) = trapLeft t := rfl
  dsimp only
  rw [left, tpc, window, if_neg (Nat.not_le.mpr inside)]
  rfl

end Return

/-- Settles O9, by the ACT of S. -/
theorem resumeFromTraps : Obligations.ResumeFromTraps := by
  unfold Obligations.ResumeFromTraps
  refine ⟨fun x y s s1 s2 w v ready ex ey => ?leave, fun x y s s1 s2 w v k ready ex ey trap high low named => ?settle⟩
  case leave =>
    have r := read_operands ex ey
    refine ⟨fun outside => wordA_trap false ready (bind_error (resumeWord_outside ex ey outside)),
      fun trap bad => wordA_trap false ready (bind_error (resumeWord_reserved ex ey trap bad)), fun trap high low =>
      ⟨fun early => wordA_wait false ready (returnOp_early ex ey trap high low early),
        fun path eDone full => wordA_wait false ready (returnOp_full ex ey trap high low path eDone full),
        fun path eDone room inside => ⟨?_, fun invalid => ?_⟩⟩⟩
    · obtain ⟨t, redone, settled⟩ := redoAll_ok [0, 1, 2, 3, 4, 5, 6, 7, 8, 9, 10, 11, 12, 13, 14, 15] s2
      obtain ⟨inTrap, tsb, a, _⟩ := (curSlot t).leaveTrap_keeps
      refine ⟨_, wordA_stay false ready (returnOp_leaves ex ey trap high low path eDone room inside redone settled), ?_⟩
      rw [curSlot_trapLeft]
      refine ⟨inTrap, tsb, ?_, fun whole => ?_, fun c call => Slot.leaveTrap_call ?_⟩
      · rw [a, settled.slot, r.slot]
      · rw [Slot.leaveTrap_pc] <;> rw [settled.slot, r.slot]
        exact whole
      · rw [settled.slot, r.slot]
        exact call
    · have invalid' : ∀ k : Fin 16, (curSlot s2).tsb[k].getLsbD 63 = false := by
        rw [r.slot]
        exact invalid
      have left := wordA_stay false ready
        (returnOp_leaves ex ey trap high low path eDone room inside (redoAll_invalid invalid' _) ⟨rfl, rfl, rfl⟩)
      rwa [trapLeft, r.curHart, r.curNum] at left
  case settle =>
    have r := read_operands ex ey
    have sb : (curSlot s2).sb = (curSlot s).sb := by rw [r.slot]
    have tsb : (curSlot s2).tsb = (curSlot s).tsb := by rw [r.slot]
    have tsbIds : (curSlot s2).tsbIds = (curSlot s).tsbIds := by rw [r.slot]
    have redo := exec_sysResumeRedo ready ex ey trap high low named
    have discard := exec_sysResumeDiscard ready ex ey trap high low named
    refine ⟨⟨fun i m => ?writes, fun room => ?complete⟩, fun invalid i m => ?invalid, fun id e valid numbered found => ?entry⟩
    case writes =>
      simp only [List.mem_cons, List.not_mem_nil, or_false] at m
      obtain rfl | rfl := m
      · exact ⟨settles_of r trap (fun e => (redoEntry_entriesOnly s2 e).trapKept) redo,
          fun t next => a_of_entriesOnly r (redoEntry_entriesOnly s2) redo next⟩
      · exact ⟨settles_of r trap (fun e => (discardEntry_entriesOnly s2 e).trapKept) discard,
          fun t next => a_of_entriesOnly r (discardEntry_entriesOnly s2) discard next⟩
    case complete =>
      have open' : ∀ e, (curSlot s2).liveTsb k = some e → ∀ p, e.held = some p → (curSlot s2).heldFull p.dest = none := by
        intro e live p held
        obtain ⟨sq, cq⟩ := room e (sb ▸ mem_of_liveTsb live) p held
        obtain ⟨sq1, cq1⟩ := length_readA ex
        obtain ⟨sq2, cq2⟩ := length_readA ey
        exact Slot.heldFull_none (fun q dest => ((sq2 q).trans (sq1 q)).trans_lt (sq q dest)) fun dest => (cq2.trans cq1).trans_lt (cq dest)
      exact settles_of (act := fun t src e => completeEntry t src e v) r trap (fun e => completeEntry_trapKept s2 e v)
        (exec_sysResumeComplete ready ex ey trap high low named open')
    case invalid =>
      have invalid' : (curSlot s2).tsb[k].getLsbD 63 = false := tsb ▸ invalid
      have none' : ∀ e, (curSlot s2).liveTsb k = some e → ∀ p, e.held = some p → (curSlot s2).heldFull p.dest = none := by
        intro e live
        cases (liveTsb_invalid invalid').symm.trans live
      have complete := exec_sysResumeComplete ready ex ey trap high low named none'
      rw [settledTsb_invalid _ invalid'] at redo discard complete
      simp only [List.mem_cons, List.not_mem_nil, or_false] at m
      obtain rfl | rfl | rfl := m
      exacts [redo, discard, complete]
    case entry =>
      have valid' : (curSlot s2).tsb[k].getLsbD 63 = true := tsb ▸ valid
      have live : (curSlot s2).liveTsb k = some e := by
        rw [liveTsb_valid valid' (tsbIds ▸ numbered), sb]
        exact found
      have complete (free : ∀ p, e.held = some p → (curSlot s2).heldFull p.dest = none) :=
        exec_sysResumeComplete ready ex ey trap high low named fun e' live' p held =>
          free p (Option.some.inj (live.symm.trans live') ▸ held)
      intro gone
      refine ⟨fun p held kind => ⟨?_, fun unnamed => ?_, fun n dest => ?_, fun n dest => ?_⟩,
        fun n none' kind dst flying => ⟨?_, ?_, ?_⟩⟩
      · rw [redo, settledTsb_redo_pop valid' live kind]
      · rw [discard, settledTsb_discard_plain valid' live unnamed kind]
        rfl
      · rw [complete fun q held' => by rw [← Option.some.inj (held.symm.trans held'), dest]; rfl,
          settledTsb_complete_held valid' live held, dest]
        rfl
      · rw [complete fun q held' => by rw [← Option.some.inj (held.symm.trans held'), dest]; rfl,
          settledTsb_complete_held valid' live held, dest]
        simp only [Slot.putHeld, Slot.dropEntry, gone]
      · rw [redo, settledTsb_redo_flying valid' live (by omega) flying]
      · refine ⟨_, discard, a_of_entriesOnly r (discardEntry_entriesOnly s2) discard discard, fun z m => ?_⟩
        rw [sb_endA, curSlot_settledTsb valid' live (slotsKept_discardEntry s2 e)] at m
        exact Slot.mem_without (σ := curSlot s2) m
      · have slot := curSlot_settledTsb (act := fun t src e => completeEntry t src e v) valid' live
          (slotsKept_completeEntry none' (by omega) s2 v)
        have written : ((curSlot s2).delivered e v).a = (curSlot s2).a.set n v := by
          unfold Slot.delivered
          rw [dst]
          rfl
        refine ⟨_, complete (fun p held => by rw [none'] at held; cases held), ?_, fun z m => ?_⟩
        · rw [a_endA, slot]
          refine written.trans ?_
          rw [r.slot]
        · rw [sb_endA, slot] at m
          exact Slot.mem_without (σ := (curSlot s2).delivered e v) m

end Sys2Proof.Machine
end
